-- ==== Sys2Proof/Word.lean ====
section
/-! DEFINITION. The word types of the TVX-3208 model and their plainest arithmetic. -/

namespace Sys2Proof

/-- A byte of memory (R9: multi-byte fields are made of bytes, little-endian). -/
abbrev Byte := BitVec 8

/-- A 32-bit register of the control core or of a pip engine (R121, R140). -/
abbrev Word := BitVec 32

end Sys2Proof
end

