-- ==== Sys2Proof/Machine/Kinds.lean ====
section
/-! DEFINITION. The data that commands carry: who asks, pool requests, plan images, received frames. Plain data only. -/

namespace Sys2Proof

/-- Who sent a request: the party, the port unit index of Table SCOPE-6 and the sequence of R219. -/
structure Req where
  party : Nat
  port : Nat
  seq : Nat
  deriving DecidableEq, Repr

/-- The slots of a bundle (Table CORE-2). -/
inductive Slot where
  | a | b | m | v | k
  deriving DecidableEq, Repr

/-- Where a reserved opcode stands: in a slot of a bundle, or on a pip engine. -/
inductive OpPlace where
  | core (sl : Slot)
  | pip (e : Nat)
  deriving DecidableEq, Repr

/-- The operand fields of a pip instruction (Table PIP-1). -/
structure PipFields where
  d : BitVec 4
  a : BitVec 4
  b : BitVec 4
  imm : BitVec 14
  deriving DecidableEq, Repr

/-- What inline ECC found when DRAM was read (R322, R323). -/
inductive Ecc where
  | clean | corrected | uncorrectable
  deriving DecidableEq, Repr

/-- One measurement of spare calibration (03 R66): the mean code of each of the 132 ADCs with all inputs zero, in 1/64
code, and by vector and column the measured less the expected mean code, in 1/64 code; what is not listed is 0. -/
structure CalMeas where
  zero : List Int
  dev : List (Nat × Nat × Int)
  deriving DecidableEq, Repr

/-- A pool request: the prefix of Table POOL-3 and the operation's arguments (Table POOL-4). -/
structure PoolReq where
  ctx : Nat
  flags : Nat
  opFlags : Nat
  count : Nat
  addr : Nat
  handle : Nat
  args : List Byte
  deriving DecidableEq, Repr

/-- The header of an image (Table LDR-1). `placed` says that the sections of the section table lie within the
image, start on 64-byte boundaries, do not overlap, match their CRCs, have types of the image's kind and the form of their
type; `resZero` that every reserved field of the header and the signature block is 0 (R159, R10); `badSection` is the index of
the section at fault, 0 for the header; `digest` is the SHA-384 of what the signature r, s covers. The loader forms them from the
image's bytes. -/
structure ImgHdr where
  magic : Nat
  kind : Nat
  version : Nat
  sections : Nat
  length : Nat
  part : Nat
  stepping : Nat
  planId : Nat
  revision : Nat
  party : Nat
  segment : Nat
  keyId : Nat
  placed : Bool
  resZero : Bool
  badSection : Nat
  digest : List Byte
  sig : List Byte
  deriving DecidableEq, Repr

/-- A block record (Table TILE-1): one sub-rectangle of one slot. -/
structure Block where
  k : Nat
  n : Nat
  slot : Nat
  rowOff : Nat
  colOff : Nat
  rows : Nat
  cols : Nat
  deriving DecidableEq, Repr

/-- An outlier row of an object (R109): its codebook of 16 values and one 4-bit code for each column. -/
structure Outlier where
  row : Nat
  codebook : List Int
  codes : List Nat
  deriving DecidableEq, Repr

/-- A weight object: its OBJECTS record, numeric record, block records, range settings (one list for each block,
one setting for each column group) and level image (R166, Table NUM-1). A HEAD object has no blocks and carries masters. -/
structure WObj where
  id : Nat
  K : Nat
  N : Nat
  head : Bool
  fmt : Nat
  transform : Nat
  tshift : Nat
  learnOk : Bool
  replica : Nat
  blocks : List Block
  ranges : List (List Nat)
  outliers : List Outlier
  levels : List (List Byte)
  masters : List Int
  hash : Nat
  deriving DecidableEq, Repr

/-- A drain chain of a cluster (R114, R115): up to 8 steps of 64 bits. -/
structure Chain where
  cluster : Nat
  num : Nat
  steps : List (BitVec 64)
  deriving DecidableEq, Repr

/-- A pip image (Table PIP-3): engine kind, code words, constant tables, entry, step budget; `crcOk` says that its
CRC matches. -/
structure PipImage where
  engine : Nat
  inPlace : Bool
  code : List Word
  tables : List Byte
  entry : Nat
  budget : Nat
  crcOk : Bool
  deriving DecidableEq, Repr

/-- A drain pip of a segment: image position on its cluster, trigger (descriptor, D, phase), certified run time,
and for an in-place image the slot and first 512-byte block of its footprint (R146, R147, R150). -/
structure DrainPip where
  cluster : Nat
  pos : Nat
  image : PipImage
  desc : Nat
  d : Nat
  phase : Nat
  runTime : Nat
  slot : Nat
  block : Nat
  blocks : Nat
  deriving DecidableEq, Repr

/-- An intake job record (Table SENSE-7). -/
structure IntakeJob where
  job : Nat
  engine : Nat
  image : Nat
  raw : Bool
  channels : Nat
  limit : Nat
  vecSize : Nat
  maxVec : Nat
  runTime : Nat
  outAddr : Nat
  dataBase : Nat
  dataLen : Nat
  deriving DecidableEq, Repr

/-- A stream descriptor (Table LDR-4). -/
structure StreamD where
  id : Nat
  dest : Nat
  inclMask : Bool
  d : Nat
  phase : Nat
  payLen : Nat
  maskLen : Nat
  payAddr : Nat
  maskAddr : Nat
  ctx : Nat
  deriving DecidableEq, Repr

/-- A fence-table entry (R167): kind 0 unbound, 1 own, 2 imported, 3 mirrored, and the address or handle. -/
structure FenceE where
  kind : Nat
  value : Nat
  deriving DecidableEq, Repr

/-- A run of values loaded into a bank of one cluster: kind 0 scale, 1 bias, 2 activation tables (05 Drain chains). -/
structure BankRun where
  cluster : Nat
  kind : Nat
  base : Nat
  values : List Int
  deriving DecidableEq, Repr

/-- A segment image (R164 to R168): entry records (entry bundle and worst case, absent or present; T0 to T3, then
the eight down variants), the absolute ranges that Ryurad assigned (R165), and the contents of its sections. `side` holds its
ranges of the clusters' side stores: cluster, first byte, bytes; `secs` the types in its section table. -/
structure SegImage where
  hdr : ImgHdr
  hash : Nat
  party : Nat
  entries : List (Option (Nat × Nat))
  codeBase : Nat
  codeLen : Nat
  code : List Byte
  dataBase : Nat
  dataLen : Nat
  data : List Byte
  descFirst : Nat
  descCount : Nat
  descs : List (Nat × Nat × List Byte)
  objs : List WObj
  side : List (Nat × Nat × Nat)
  chains : List Chain
  banks : List BankRun
  pips : List DrainPip
  intakeImages : List PipImage
  jobs : List IntakeJob
  fences : List FenceE
  streams : List StreamD
  advances : List Nat
  secs : List Nat
  deriving DecidableEq, Repr

/-- What binds a drain pip image of the PIPS section: position on its cluster, trigger, certified run time, and the slot and
footprint of an in-place image (R146, R147, R150). -/
structure PipBind where
  cluster : Nat
  pos : Nat
  desc : Nat
  d : Nat
  phase : Nat
  runTime : Nat
  slot : Nat
  block : Nat
  blocks : Nat
  deriving DecidableEq, Repr

/-- Where a chain's steps stand in the DRAIN section: cluster, number, first byte, steps (log 105). -/
structure ChainAt where
  cluster : Nat
  num : Nat
  at_ : Nat
  steps : Nat
  deriving DecidableEq, Repr

/-- Where registers of a bank stand in the DRAIN section: cluster, kind, first register, first byte, registers (log 105). -/
structure BankAt where
  cluster : Nat
  kind : Nat
  base : Nat
  at_ : Nat
  count : Nat
  deriving DecidableEq, Repr

/-- What a segment image holds in parts whose layout the spec does not give (log 105): the first code bundle, the data range,
the first descriptor number, the side store's ranges and contents (codebook and codes of each outlier row, by object; masters
of each HEAD object), where each chain and bank stands in DRAIN, the bindings of PIPS in the order of its images, and the
number of INTAKE records. -/
structure SegAux where
  codeBase : Nat
  dataBase : Nat
  dataLen : Nat
  descFirst : Nat
  side : List (Nat × Nat × Nat)
  outliers : List (Nat × List (List Int × List Nat))
  masters : List (Nat × List Int)
  chains : List ChainAt
  banks : List BankAt
  binds : List PipBind
  jobs : Nat
  deriving DecidableEq, Repr

/-- A segment record of the composition (Table LDR-3). Absent worst cases are none. -/
structure SegRec where
  seg : Nat
  party : Nat
  window : Nat
  critical : Bool
  leastLen : Nat
  ctx : Nat
  worst : List (Option Nat)
  addr : Nat
  length : Nat
  hash : Nat
  current : Nat
  deriving DecidableEq, Repr

/-- A certificate record (R163): core current under FULL and with ballast OFF, array current, spare share, in mA. -/
structure CertRec where
  full : Nat
  off : Nat
  array : Nat
  spare : Nat
  deriving DecidableEq, Repr

/-- A composition image (R161 to R163): FRAME, SEGMENTS and the 40 certificate records in row order. -/
structure Composition where
  hdr : ImgHdr
  hash : Nat
  pFloor : Nat
  leastIntake : Nat
  publishLen : Nat
  downMask : Nat
  segs : List SegRec
  cert : List CertRec
  deriving DecidableEq, Repr

/-- A plan: its composition and its segment images (R158). -/
structure PlanImage where
  comp : Composition
  segs : List SegImage
  deriving DecidableEq, Repr

/-- A weight update image (R179). -/
structure UpdateImage where
  hdr : ImgHdr
  objId : Nat
  curHash : Nat
  newHash : Nat
  levels : List (List Byte)
  deriving DecidableEq, Repr

/-- What a frame carries inside its secure channel (R204, R206): a Maelelo datagram, a Neighbor Solicitation, an ICMPv6 echo
request, an ARP request. -/
inductive RxProto where
  | maelelo | neighbour | echo | arp
  deriving DecidableEq, Repr

/-- A frame received on a port, as the steps of R207 judge it: port unit index, FCS good and symbol errors seen, SecTAG with its
SCI (on CAN FD the node ID) and association number, integrity good and packet number, what it carries, addressed to the device,
and the Maelelo message or the payload. -/
structure RxFrame where
  port : Nat
  fcsOk : Bool
  symErrs : Nat
  tagged : Bool
  sci : Nat
  an : Nat
  macsecOk : Bool
  pn : Nat
  proto : RxProto
  ipOk : Bool
  msg : List Byte
  deriving DecidableEq, Repr

/-- What a firmware image's header says (18 Secure boot), and whether its format is right. -/
structure FwImage where
  formatOk : Bool
  secVersion : Nat
  fwVersion : Nat
  length : Nat
  deriving DecidableEq, Repr

/-- What the world does during a sprout stage (R371, R386, R427, R323): which firmware slots' signatures verify, the
hottest sensor reading in quarter degrees, whether PFAIL was high for 100 ms, and whether the image copies and level
images still match their hashes (R396), and of which vault entries, by key, the copy written last and the copy written
before it are found invalid (R232). -/
structure StageEnv where
  sig0 : Bool
  sig1 : Bool
  tj : Int
  pfailHigh : Bool
  hashesOk : Bool
  badNew : List Nat
  badOld : List Nat
  strap : Bool
  deriving DecidableEq, Repr

/-- What a debugger names through the test access port, as R378 and R379 group it: bundles and data memory of the control
core, the service processor, a unit's control registers, trims, sensors, the fault log, the trace stream, an engine (pips
0-13, control core 14, walkers 15-22), DRAM, an activation buffer, any other memory, the key store. -/
inductive DebugTarget where
  | bundle (n : Nat)
  | coreData (a : Nat)
  | service
  | control (unit addr : Nat)
  | trim (key : Nat)
  | sensor (i : Nat)
  | faultLog (i : Nat)
  | traceStream
  | engine (n : Nat)
  | dram (a : Nat)
  | buffer (c a : Nat)
  | otherMemory (a : Nat)
  | keyStore (a : Nat)
  deriving DecidableEq, Repr

inductive DebugOp where
  | read
  | write (v : Nat)
  | halt
  | resume
  deriving DecidableEq, Repr

end Sys2Proof
end

