-- ==== Sys2Proof/Syntax.lean ====
section
/-! DEFINITION. The commands of the block: one constructor for each row of the table of operations and events. The
table gives no operands; each constructor carries what its rule needs from outside. `r` is a host request. -/

namespace Sys2Proof

/-- A command of the TVX-3208, one constructor per row of spec/opcode_table.json, in the table's order. Operands that
the device cannot know by itself (a verdict of the shell, a measured value, what a pin did) are part of the command. -/
inductive Instr where
  -- 01 frame
  | tick | ptpTick
  | syncInEdge (rising : Bool) (width : Nat) (seen : Bool)
  | syncMiss | angleLag | angleStall | windowClear | segmentEntry | windowEnd
  | timingFault (seg : Nat)
  | publish | keep (errs : List (Nat × Int))
  | keepPartySlot (p : Nat)
  | rotationSlice (a b : CalMeas) (refs : List Nat)
  | bistSlice (pass : Bool) (detail : Nat)
  | framePeriodWrite (r : Req) (v : Nat)
  | intakeLengthWrite (r : Req) (v : Nat)
  | timingClear (r : Req) (v : Nat)
  -- 02, 03 pods, rotation, calibration
  | fetchSlot (c : Nat) (errs : List (Nat × Nat × Int))
  | fetchDelivered (c : Nat)
  | programComplete (pass : Bool) (compensated : Nat)
  | swapDue (c : Nat)
  | rotationIntervalWrite (r : Req) (v : Nat)
  | rotateNow (r : Req) (c v : Nat)
  | calibrateNow (r : Req) (pod v : Nat)
  | driftRatio (pod : Nat)
  | afeCalDue (i : Nat)
  | afeCalibrateNow (r : Req) (i v : Nat)
  | afeCalStep (a b : Int)
  | afeCalEnd (offRes gainRes : Int)
  | referenceMeasure (u : Nat) (pairs : List (Int × Int))
  | oscillatorTrim (pairs : List (Int × Int))
  | compensationEval
  | trimRestore (r : Req) (unit : Nat) (data : List Byte)
  -- 04, 05 walkers
  | instructionStart (c : Nat)
  | tileCommit (c : Nat) (ecc : Ecc)
  | tileComplete (c : Nat) (ups : List (Nat × Nat × Nat × Int))
  | macroInstructionComplete (c : Nat)
  | jobPause (r : Req) (j : Nat)
  | jobResume (r : Req) (j : Nat)
  -- 06 control core; sl is the slot, f the operand bits below the opcode
  | nop (sl : Slot)
  | add (sl : Slot) (f : BitVec 40) | sub (sl : Slot) (f : BitVec 40)
  | and (sl : Slot) (f : BitVec 40) | or (sl : Slot) (f : BitVec 40)
  | xor (sl : Slot) (f : BitVec 40) | shl (sl : Slot) (f : BitVec 40)
  | shr (sl : Slot) (f : BitVec 40) | sar (sl : Slot) (f : BitVec 40)
  | slt (sl : Slot) (f : BitVec 40) | sltu (sl : Slot) (f : BitVec 40)
  | min (sl : Slot) (f : BitVec 40) | max (sl : Slot) (f : BitVec 40)
  | addi (sl : Slot) (f : BitVec 40) | andi (sl : Slot) (f : BitVec 40)
  | ori (sl : Slot) (f : BitVec 40) | shli (sl : Slot) (f : BitVec 40)
  | shri (sl : Slot) (f : BitVec 40) | sari (sl : Slot) (f : BitVec 40)
  | slti (sl : Slot) (f : BitVec 40) | movi (sl : Slot) (f : BitVec 40)
  | movhi (sl : Slot) (f : BitVec 40)
  | ldw (sl : Slot) (f : BitVec 40) | ldhu (sl : Slot) (f : BitVec 40)
  | ldbu (sl : Slot) (f : BitVec 40) | stw (sl : Slot) (f : BitVec 40)
  | sth (sl : Slot) (f : BitVec 40) | stb (sl : Slot) (f : BitVec 40)
  | mul (sl : Slot) (f : BitVec 40) | mulh (sl : Slot) (f : BitVec 40)
  | mulhu (sl : Slot) (f : BitVec 40)
  | issue (sl : Slot) (f : BitVec 56) | issuei (sl : Slot) (f : BitVec 56)
  | fadv (sl : Slot) (f : BitVec 56) | fadvf (sl : Slot) (f : BitVec 56)
  | fenceAdvancePerformed
  | hset (sl : Slot) (f : BitVec 48) | hseti (sl : Slot) (f : BitVec 48)
  | hadd (sl : Slot) (f : BitVec 48) | hget (sl : Slot) (f : BitVec 48)
  | lset (sl : Slot) (f : BitVec 48) | lseti (sl : Slot) (f : BitVec 48)
  | lget (sl : Slot) (f : BitVec 48) | stat (sl : Slot) (f : BitVec 48)
  | bstb (sl : Slot) (f : BitVec 48) | bsth (sl : Slot) (f : BitVec 48)
  | br (sl : Slot) (f : BitVec 32) | beq (sl : Slot) (f : BitVec 32)
  | bne (sl : Slot) (f : BitVec 32) | blt (sl : Slot) (f : BitVec 32)
  | bge (sl : Slot) (f : BitVec 32) | call (sl : Slot) (f : BitVec 32)
  | jr (sl : Slot) (f : BitVec 32) | endw (sl : Slot) (f : BitVec 32)
  | waitto (sl : Slot) (f : BitVec 32) | waitc (sl : Slot) (f : BitVec 32)
  | waitf (sl : Slot) (f : BitVec 32)
  | waitEnd
  | illegalOp (at_ : OpPlace) (op : Nat)
  -- 07 pips; e is the engine: 0-3 intake, 4-11 drain, 12 hold-up, 13 classifier
  | pipNop (e : Nat) (w : PipFields)
  | pipAdd (e : Nat) (w : PipFields) | pipSub (e : Nat) (w : PipFields)
  | pipAnd (e : Nat) (w : PipFields) | pipOr (e : Nat) (w : PipFields)
  | pipXor (e : Nat) (w : PipFields) | pipShl (e : Nat) (w : PipFields)
  | pipShr (e : Nat) (w : PipFields) | pipSar (e : Nat) (w : PipFields)
  | pipMul (e : Nat) (w : PipFields) | pipMin (e : Nat) (w : PipFields)
  | pipMax (e : Nat) (w : PipFields) | pipSlt (e : Nat) (w : PipFields)
  | pipAddi (e : Nat) (w : PipFields) | pipAndi (e : Nat) (w : PipFields)
  | pipOri (e : Nat) (w : PipFields) | pipShli (e : Nat) (w : PipFields)
  | pipShri (e : Nat) (w : PipFields) | pipSari (e : Nat) (w : PipFields)
  | lui (e : Nat) (w : PipFields)
  | pipLdw (e : Nat) (w : PipFields) | ldh (e : Nat) (w : PipFields)
  | ldb (e : Nat) (w : PipFields) | pipStw (e : Nat) (w : PipFields)
  | pipSth (e : Nat) (w : PipFields) | pipStb (e : Nat) (w : PipFields)
  | pipBeq (e : Nat) (w : PipFields) | pipBne (e : Nat) (w : PipFields)
  | pipBlt (e : Nat) (w : PipFields) | pipBge (e : Nat) (w : PipFields)
  | dbnz (e : Nat) (w : PipFields) | halt (e : Nat) (w : PipFields)
  | stepLimit (e : Nat) | timeLimit (e : Nat)
  | lift (c : Nat) | liftEnd (c : Nat) (errs : List (Nat × Nat × Int))
  | setDownCheck (c : Nat) (errs : List (Nat × Nat × Int))
  -- 08 loader
  | loadRequest (r : Req) (ctx addr : Nat)
  | verificationComplete (aux : List (Nat × SegAux))
  | abort (r : Req) (v : Nat)
  | unload (r : Req) (v : Nat)
  | updateRequest (r : Req) (ctx addr : Nat)
  | consolidate (r : Req) (v : Nat)
  -- 09 sensor front end
  | sampleReady (ch : Nat) (code : Int) (instant : Nat) (beyond openIn : Bool)
  | overloadStart (ch : Nat) (positive : Bool)
  | overloadEnd (ch : Nat)
  | biasStateChange (ch : Nat) (readings : List Int) (supply : Int)
  | qEdge (q : Nat) (a b : Bool)
  | channelConfigWrite (r : Req) (ch sub v : Nat)
  | intakeJob (seg job : Nat)
  -- 10 network, 11 dictionary
  | frameReceived (x : RxFrame)
  | classifierRun
  | classifierImageWrite (r : Req) (data : List Byte)
  | bindingWrite (r : Req) (p sub v : Nat)
  | plcaInactive | beacon
  | jabber (port : Nat)
  | linkChange (port st : Nat)
  | portClear (r : Req) (u v : Nat)
  | sync (src gm origin every : Nat) (peer : Nat × Nat × Nat × Nat)
  | syncLoss
  | odRead (r : Req) (index sub offset : Nat)
  | odWrite (r : Req) (index sub offset : Nat) (data : List Byte)
  | ack (p seq : Nat)
  | hello (r : Req) (ip : Nat) (udp : Nat)
  | echo (r : Req) (data : List Byte)
  | discover (port : Nat)
  | bye (r : Req)
  | eventResend (p : Nat)
  | usdoUpload (node index sub service : Nat)
  | usdoDownload (node index sub : Nat) (first last : Bool) (data : List Byte)
  | usdoTimeout (node : Nat)
  | nmtCommand | heartbeat
  | snapshotExpiry (p : Nat) | stagingExpiry (p : Nat)
  | vaultCommit
  | restoreDefaults (r : Req) (v : Nat)
  | disagree (index sub : Nat)
  | clearLog (r : Req) (v : Nat)
  -- 13 parties, contexts, queues, fences; c and q name the context and queue whose started command this is
  | roleWrite (r : Req) (p v : Nat)
  | allotmentWrite (r : Req) (p sub v : Nat) (data : List Byte)
  | revoke (r : Req) (p v : Nat)
  | residencyTimeout (p : Nat)
  | cmdNop (c q : Nat) | ctxCreate (c q : Nat) | ctxDestroy (c q : Nat)
  | map (c q : Nat) | unmap (c q : Nat)
  | queueCreate (c q : Nat) | queueDestroy (c q : Nat)
  | fenceCreate (c q : Nat) | fenceAdvance (c q : Nat) | fenceWait (c q : Nat)
  | fenceWaitComplete (c q : Nat)
  | fenceExport (c q : Nat) | fenceRevoke (c q : Nat) | fenceDestroy (c q : Nat)
  | jobStart (c q : Nat) | jobCancel (c q : Nat)
  | mirrorTableWrite (r : Req) (data : List Byte)
  | mirrorPoll (m : Nat) (status : Option Nat) (value : Nat)
  -- 14 pool
  | poolRead (r : Req) (x : PoolReq) (ecc : Ecc)
  | poolWrite (r : Req) (x : PoolReq)
  | hold (r : Req) (x : PoolReq) | renew (r : Req) (x : PoolReq)
  | release (r : Req) (x : PoolReq) | clear (r : Req) (x : PoolReq)
  | fadd (r : Req) (x : PoolReq) | cas (r : Req) (x : PoolReq)
  | poolMax (r : Req) (x : PoolReq)
  | poolFenceAdvance (r : Req) (x : PoolReq) | fenceRead (r : Req) (x : PoolReq)
  | fill (r : Req) (x : PoolReq) | copy (r : Req) (x : PoolReq)
  | compare (r : Req) (x : PoolReq) | reduce (r : Req) (x : PoolReq)
  | grant (r : Req) (x : PoolReq) | ungrant (r : Req) (x : PoolReq)
  | leaseExpiry
  -- 15 integrity
  | winnowRead (ecc : Ecc)
  | podFence (pod : Nat)
  | podServiceWrite (r : Req) (pod v : Nat)
  | podClear (r : Req) (pod v : Nat)
  -- 16 power and thermal
  | domainEnableWrite (r : Req) (d v : Nat)
  | domainPowerUp (d : Nat)
  | clusterEnableWrite (r : Req) (c v : Nat)
  | powerStateWrite (r : Req) (v : Nat)
  | sensorReading (vals : List Int) (ntc : Int)
  | sensorOutOfService (i : Nat)
  | clusterGated
  | clusterClear (r : Req) (c v : Nat)
  | orderly | safeEntry | coolDown
  | hard (sensor : Nat) (reading : Int)
  | hardRestart
  -- 17 hold-up
  | storeSample (ma : Int) (mv : Nat)
  | energyEvaluation
  | chargeTermination | chargerRestart | chargeTimeout
  | restReference
  | referencePulse
  | referencePulseEnd (vBefore vOnset vStart vEnd : Nat)
  | fallback
  | inputLost | flushComplete | keepRegionDone | inputRestored | holdStop
  | keepRegionsWrite (r : Req) (data : List Byte)
  | holdUpPipImageWrite (r : Req) (data : List Byte)
  -- 18 security
  | planKeyInstall (r : Req) (data : List Byte)
  | sakInstall (r : Req) (data : List Byte) (unwrapOk : Bool)
  | poolKeyInstall (r : Req) (v : Nat)
  | firmwareImage (r : Req) (data : List Byte) (sigOk : Bool)
  | activateSlot (r : Req) (v : Nat)
  | lifecycleRequest (r : Req) (data : List Byte) (sigOk : Bool)
  | debugChallenge (r : Req)
  | debugResponse (r : Req) (data : List Byte) (sigOk : Bool)
  | debugClose (r : Req) (v : Nat)
  | debugExpiry
  | scrubStageEnd (verifyOk : Bool)
  -- 19, 21 sprout and resets
  | powerOn
  | sproutStageEnd (x : StageEnv)
  | railTimeout (rail : Nat)
  | railRetry
  | nrst (width : Nat)
  | warmReset
  | crystalStop
  | vaultSave
  -- 20 test and trace
  | testDue (unit : Nat)
  | startTest (r : Req) (v : Nat)
  | clusterTestStepEnd (c signature : Nat) (memOk : Bool) (detail : Nat)
  | testOverdue (unit : Nat)
  | traceConfigWrite (r : Req) (p sub v : Nat)
  -- 21 board port
  | status
  | put (len : Nat) (bytes : List Byte)
  | get (clocked : Nat)
  | reset (b1 b2 : Byte)
  | badOp (op : Byte)
  | mailboxTake
  | huskSupplyLoss
  | receiveJabber
  | nrstRelease
  | attentionPulseEnd
  | debugPortAccess (target : DebugTarget) (op : DebugOp)
  | firmwareSlotWritten
  deriving DecidableEq, Repr

end Sys2Proof
end

