-- ==== Sys2Proof/Decode.lean ====
section
/-! DEFINITION. The encodings that the spec gives: a word of the commands' table (none has bits), a bundle of the control core
(Tables CORE-2 to CORE-8) and an instruction of a pip (Tables PIP-1, PIP-2), each as the commands that it stands for. -/

namespace Sys2Proof

/-- The command that a word spells by the table's bits: none, as the table gives no bits. -/
def decodeTableWord (_nbits _w : Nat) : Option Instr := none

/-- The number that bytes stand for, least significant first (R9). -/
def bytesNat : List Byte → Nat
  | [] => 0
  | b :: bs => b.toNat + 256 * bytesNat bs

/-- Bits [lo + n − 1 : lo] of a number. -/
def bitsOf (w lo n : Nat) : Nat := w / 2 ^ lo % 2 ^ n

/-- An operation that slots A and B share (Table CORE-4). -/
def aluCommand (sl : Slot) (op : Nat) (f : BitVec 40) : Instr :=
  match op with
  | 0x00 => .nop sl
  | 0x01 => .add sl f | 0x02 => .sub sl f | 0x03 => .and sl f | 0x04 => .or sl f | 0x05 => .xor sl f
  | 0x06 => .shl sl f | 0x07 => .shr sl f | 0x08 => .sar sl f | 0x09 => .slt sl f | 0x0A => .sltu sl f
  | 0x0B => .min sl f | 0x0C => .max sl f
  | 0x21 => .addi sl f | 0x23 => .andi sl f | 0x24 => .ori sl f | 0x26 => .shli sl f | 0x27 => .shri sl f
  | 0x28 => .sari sl f | 0x29 => .slti sl f | 0x30 => .movi sl f | 0x31 => .movhi sl f
  | n => .illegalOp (.core sl) n

/-- Slot A: the shared operations and data memory; a multiply is misplaced here (R125). -/
def slotACommand (op : Nat) (f : BitVec 40) : Instr :=
  match op with
  | 0x40 => .ldw .a f | 0x41 => .ldhu .a f | 0x42 => .ldbu .a f
  | 0x48 => .stw .a f | 0x49 => .sth .a f | 0x4A => .stb .a f
  | n => aluCommand .a n f

/-- Slot B: the shared operations and the multiplies (R125). -/
def slotBCommand (op : Nat) (f : BitVec 40) : Instr :=
  match op with
  | 0x50 => .mul .b f | 0x51 => .mulh .b f | 0x52 => .mulhu .b f
  | n => aluCommand .b n f

/-- Slot M (Table CORE-5). -/
def slotMCommand (op : Nat) (f : BitVec 56) : Instr :=
  match op with
  | 0x00 => .nop .m
  | 0x01 => .issue .m f | 0x02 => .issuei .m f | 0x03 => .fadv .m f | 0x04 => .fadvf .m f
  | n => .illegalOp (.core .m) n

/-- Slot V (Table CORE-6). -/
def slotVCommand (op : Nat) (f : BitVec 48) : Instr :=
  match op with
  | 0x00 => .nop .v
  | 0x01 => .hset .v f | 0x02 => .hseti .v f | 0x03 => .hadd .v f | 0x04 => .hget .v f | 0x05 => .lset .v f
  | 0x06 => .lseti .v f | 0x07 => .lget .v f | 0x08 => .stat .v f | 0x09 => .bstb .v f | 0x0A => .bsth .v f
  | n => .illegalOp (.core .v) n

/-- Slot K (Table CORE-8). -/
def slotKCommand (op : Nat) (f : BitVec 32) : Instr :=
  match op with
  | 0x00 => .nop .k
  | 0x01 => .br .k f | 0x02 => .beq .k f | 0x03 => .bne .k f | 0x04 => .blt .k f | 0x05 => .bge .k f
  | 0x06 => .call .k f | 0x07 => .jr .k f | 0x08 => .endw .k f
  | 0x10 => .waitto .k f | 0x11 => .waitc .k f | 0x12 => .waitf .k f
  | n => .illegalOp (.core .k) n

/-- The five commands of a bundle of 32 bytes, at the bit positions of Table CORE-2; slot K comes last and ends the bundle
(R124). -/
def bundleCommands (bs : List Byte) : List Instr :=
  let w := bytesNat bs
  [slotACommand (bitsOf w 40 8) (BitVec.ofNat 40 w),
   slotBCommand (bitsOf w 88 8) (BitVec.ofNat 40 (w / 2 ^ 48)),
   slotMCommand (bitsOf w 152 8) (BitVec.ofNat 56 (w / 2 ^ 96)),
   slotVCommand (bitsOf w 208 8) (BitVec.ofNat 48 (w / 2 ^ 160)),
   slotKCommand (bitsOf w 248 8) (BitVec.ofNat 32 (w / 2 ^ 216))]

/-- The operand fields of a pip instruction (Table PIP-1). -/
def pipFields (w : Word) : PipFields :=
  { d := w.extractLsb' 22 4, a := w.extractLsb' 18 4, b := w.extractLsb' 14 4, imm := w.extractLsb' 0 14 }

/-- The command of a pip instruction on an engine (Table PIP-2); a reserved opcode raises ILLEGAL (R140). -/
def pipCommand (e : Nat) (w : Word) : Instr :=
  let f := pipFields w
  match (w.extractLsb' 26 6).toNat with
  | 0x00 => .pipNop e f
  | 0x01 => .pipAdd e f | 0x02 => .pipSub e f | 0x03 => .pipAnd e f | 0x04 => .pipOr e f | 0x05 => .pipXor e f
  | 0x06 => .pipShl e f | 0x07 => .pipShr e f | 0x08 => .pipSar e f | 0x09 => .pipMul e f
  | 0x0A => .pipMin e f | 0x0B => .pipMax e f | 0x0C => .pipSlt e f
  | 0x11 => .pipAddi e f | 0x13 => .pipAndi e f | 0x14 => .pipOri e f
  | 0x16 => .pipShli e f | 0x17 => .pipShri e f | 0x18 => .pipSari e f | 0x1A => .lui e f
  | 0x20 => .pipLdw e f | 0x21 => .ldh e f | 0x22 => .ldb e f
  | 0x24 => .pipStw e f | 0x25 => .pipSth e f | 0x26 => .pipStb e f
  | 0x30 => .pipBeq e f | 0x31 => .pipBne e f | 0x32 => .pipBlt e f | 0x33 => .pipBge e f
  | 0x34 => .dbnz e f | 0x3F => .halt e f
  | n => .illegalOp (.pip e) n

end Sys2Proof
end

