-- ==== Sys2Proof/Machine/OdTable.lean ====
section
/-! DEFINITION. The object dictionary as a table: one row for each entry of the tables that 12 R246 to R255 name,
with its type, access codes, default and range (Tables FRAME-5, POD-8, CAL-6, TILE-4, NUM-4, CORE-11, PIP-7, LDR-6,
SENSE-9, NET-7, NET-8, OD-4, ODX-4 to ODX-9). A default of the tables that is a dash is a reset value of the model
(assumption 3). -/

namespace Sys2Proof.Machine

/-- Access codes of Table SCOPE-3. -/
inductive Acc where
  | no | ro | rw | wo | rwp
  deriving DecidableEq, Repr

/-- Kinds of entry types (Table OD-1). -/
inductive OdKind where
  | uns | int | str | domain
  deriving DecidableEq, Repr

/-- A row of an entry table: base index and how many units repeat it, subindex, kind and size in bytes, access of
Owner, Operator and Observer, default, lowest and highest value. -/
structure OdRow where
  base : Nat
  count : Nat
  sub : Nat
  kind : OdKind
  size : Nat
  own : Acc
  op : Acc
  ob : Acc
  dflt : Nat
  lo : Int
  hi : Int
  deriving DecidableEq, Repr

/-- Table FRAME-5. -/
def odFRAME5 : List OdRow := [
  ⟨0x4C00, 1, 0x00, .uns, 4, .rwp, .ro, .ro, 250, 125, 20000⟩ /- frame period, commanded -/,
  ⟨0x4C01, 1, 0x00, .uns, 4, .ro, .ro, .ro, 250, 0, 4294967295⟩ /- frame period, effective -/,
  ⟨0x4C02, 1, 0x00, .uns, 1, .rwp, .ro, .ro, 0, 0, 3⟩ /- tick source, commanded -/,
  ⟨0x4C03, 1, 0x00, .uns, 1, .ro, .ro, .ro, 0, 0, 255⟩ /- tick source, effective -/,
  ⟨0x4C04, 1, 0x01, .uns, 1, .rwp, .ro, .ro, 0, 0, 1⟩ /- angle input -/,
  ⟨0x4C04, 1, 0x02, .uns, 2, .rwp, .ro, .ro, 1024, 1, 65535⟩ /- angle divisor N -/,
  ⟨0x4C04, 1, 0x03, .uns, 4, .ro, .ro, .ro, 0, 0, 4294967295⟩ /- P_floor -/,
  ⟨0x4C05, 1, 0x00, .uns, 1, .rwp, .ro, .ro, 0, 0, 1⟩ /- SYNC_IN edge -/,
  ⟨0x4C06, 1, 0x00, .int, 4, .rwp, .ro, .ro, 0, -2147483648, 2147483647⟩ /- PTP phase offset -/,
  ⟨0x4C07, 1, 0x00, .uns, 1, .rwp, .ro, .ro, 20, 10, 100⟩ /- INTAKE length -/,
  ⟨0x4C08, 1, 0x00, .uns, 1, .rw, .ro, .ro, 0, 0, 3⟩ /- tier, commanded -/,
  ⟨0x4C09, 1, 0x00, .uns, 1, .ro, .ro, .ro, 0, 0, 255⟩ /- tier, effective -/,
  ⟨0x4C0A, 1, 0x01, .uns, 1, .ro, .ro, .ro, 0, 0, 255⟩ /- tier ceilings -/,
  ⟨0x4C0A, 1, 0x02, .uns, 1, .ro, .ro, .ro, 0, 0, 255⟩ /- tier ceilings -/,
  ⟨0x4C0A, 1, 0x03, .uns, 1, .ro, .ro, .ro, 0, 0, 255⟩ /- tier ceilings -/,
  ⟨0x4C0A, 1, 0x04, .uns, 1, .ro, .ro, .ro, 0, 0, 255⟩ /- tier ceilings -/,
  ⟨0x4C0B, 1, 0x00, .uns, 1, .wo, .no, .no, 0, 0, 255⟩ /- timing clear -/,
  ⟨0x4C10, 1, 0x01, .uns, 8, .ro, .ro, .ro, 0, 0, 18446744073709551615⟩ /- frames started -/,
  ⟨0x4C10, 1, 0x02, .uns, 4, .ro, .ro, .ro, 0, 0, 4294967295⟩ /- event counts -/,
  ⟨0x4C10, 1, 0x03, .uns, 4, .ro, .ro, .ro, 0, 0, 4294967295⟩ /- event counts -/,
  ⟨0x4C10, 1, 0x04, .uns, 4, .ro, .ro, .ro, 0, 0, 4294967295⟩ /- event counts -/,
  ⟨0x4C10, 1, 0x05, .uns, 4, .ro, .ro, .ro, 0, 0, 4294967295⟩ /- event counts -/,
  ⟨0x4C10, 1, 0x06, .uns, 4, .ro, .ro, .ro, 0, 0, 4294967295⟩ /- event counts -/]

/-- Table POD-8. -/
def odPOD8 : List OdRow := [
  ⟨0x3000, 1, 0x00, .uns, 4, .ro, .ro, .ro, 0, 0, 4294967295⟩ /- pod epoch -/,
  ⟨0x3001, 1, 0x00, .uns, 4, .rwp, .ro, .ro, 86400, 0, 7776000⟩ /- rotation interval -/,
  ⟨0x3002, 1, 0x00, .uns, 1, .rwp, .ro, .ro, 10, 2, 12⟩ /- rotation slice -/,
  ⟨0x3003, 1, 0x00, .uns, 1, .ro, .ro, .ro, 255, 0, 255⟩ /- pod programming -/,
  ⟨0x3010, 8, 0x01, .uns, 4, .ro, .ro, .ro, 0, 0, 4294967295⟩ /- slot map -/,
  ⟨0x3010, 8, 0x02, .uns, 1, .ro, .ro, .ro, 4, 0, 255⟩ /- spare position -/,
  ⟨0x3010, 8, 0x03, .uns, 1, .ro, .ro, .ro, 0, 0, 255⟩ /- rotation state -/,
  ⟨0x3010, 8, 0x04, .uns, 1, .wo, .no, .no, 0, 0, 255⟩ /- rotate now -/,
  ⟨0x3010, 8, 0x05, .uns, 4, .ro, .ro, .ro, 0, 0, 4294967295⟩ /- swaps -/,
  ⟨0x3010, 8, 0x06, .uns, 1, .rwp, .ro, .ro, 0, 0, 1⟩ /- spare gate mode, commanded -/,
  ⟨0x3010, 8, 0x07, .uns, 1, .ro, .ro, .ro, 0, 0, 255⟩ /- spare gate mode, effective -/,
  ⟨0x3040, 40, 0x01, .uns, 1, .ro, .ro, .ro, 0, 0, 255⟩ /- role -/,
  ⟨0x3040, 40, 0x02, .uns, 1, .ro, .ro, .ro, 0, 0, 255⟩ /- slot -/,
  ⟨0x3040, 40, 0x03, .uns, 1, .ro, .ro, .ro, 0, 0, 255⟩ /- spare state -/,
  ⟨0x3040, 40, 0x04, .uns, 8, .ro, .ro, .ro, 0, 0, 18446744073709551615⟩ /- programmed at -/,
  ⟨0x3040, 40, 0x05, .uns, 2, .ro, .ro, .ro, 0, 0, 65535⟩ /- cycle count -/,
  ⟨0x3040, 40, 0x06, .uns, 2, .ro, .ro, .ro, 0, 0, 65535⟩ /- compensated pairs -/,
  ⟨0x3040, 40, 0x07, .uns, 4, .ro, .ro, .ro, 0, 0, 4294967295⟩ /- clip count -/,
  ⟨0x3040, 40, 0x08, .uns, 4, .ro, .ro, .ro, 0, 0, 4294967295⟩ /- SUS count -/,
  ⟨0x3040, 40, 0x09, .uns, 1, .ro, .ro, .ro, 0, 0, 255⟩ /- execute in place -/,
  ⟨0x3040, 40, 0x0A, .uns, 4, .ro, .ro, .ro, 0, 0, 4294967295⟩ /- corrected rows -/,
  ⟨0x3040, 40, 0x0B, .uns, 1, .ro, .ro, .ro, 0, 0, 255⟩ /- gate state -/]

/-- Table CAL-6. -/
def odCAL6 : List OdRow := [
  ⟨0x3100, 1, 0x01, .uns, 1, .rwp, .ro, .ro, 0, 0, 3⟩ /- ramp mode -/,
  ⟨0x3100, 1, 0x02, .uns, 2, .rwp, .ro, .ro, 4, 2, 65535⟩ /- ramp N -/,
  ⟨0x3100, 1, 0x03, .uns, 4, .ro, .ro, .ro, 0, 0, 4294967295⟩ /- calibration epoch -/,
  ⟨0x3100, 1, 0x04, .uns, 2, .rwp, .ro, .ro, 64, 16, 1024⟩ /- compensation interval -/,
  ⟨0x3110, 40, 0x01, .domain, 0, .rw, .ro, .ro, 0, 0, 0⟩ /- trim bank -/,
  ⟨0x3110, 40, 0x02, .domain, 0, .ro, .ro, .ro, 0, 0, 0⟩ /- calibrated set -/,
  ⟨0x3110, 40, 0x03, .domain, 0, .ro, .ro, .ro, 0, 0, 0⟩ /- factory baseline -/,
  ⟨0x3110, 40, 0x04, .uns, 1, .ro, .ro, .ro, 4, 0, 255⟩ /- quality status -/,
  ⟨0x3110, 40, 0x05, .uns, 2, .ro, .ro, .ro, 0, 0, 65535⟩ /- worst group residual -/,
  ⟨0x3110, 40, 0x06, .domain, 0, .ro, .ro, .ro, 0, 0, 0⟩ /- group residuals -/,
  ⟨0x3110, 40, 0x07, .uns, 4, .ro, .ro, .ro, 1000000, 0, 4294967295⟩ /- drift ratio ρ -/,
  ⟨0x3110, 40, 0x08, .uns, 1, .ro, .ro, .ro, 0, 0, 255⟩ /- last result -/,
  ⟨0x3110, 40, 0x09, .uns, 1, .wo, .no, .no, 0, 0, 255⟩ /- calibrate now -/,
  ⟨0x2A00, 16, 0x01, .domain, 0, .rw, .ro, .ro, 0, 0, 0⟩ /- trim bank -/,
  ⟨0x2A00, 16, 0x02, .domain, 0, .ro, .ro, .ro, 0, 0, 0⟩ /- factory baseline -/,
  ⟨0x2A00, 16, 0x03, .uns, 1, .ro, .ro, .ro, 4, 0, 255⟩ /- quality status -/,
  ⟨0x2A00, 16, 0x04, .int, 2, .ro, .ro, .ro, 0, -32768, 32767⟩ /- offset residual -/,
  ⟨0x2A00, 16, 0x05, .int, 2, .ro, .ro, .ro, 0, -32768, 32767⟩ /- gain residual -/,
  ⟨0x2A00, 16, 0x06, .uns, 4, .rwp, .ro, .ro, 2000, 100, 100000⟩ /- quiet threshold -/,
  ⟨0x2A00, 16, 0x07, .uns, 1, .rwp, .ro, .ro, 0, 0, 1⟩ /- mode -/,
  ⟨0x2A00, 16, 0x08, .uns, 1, .wo, .no, .no, 0, 0, 255⟩ /- calibrate now -/,
  ⟨0x2A00, 16, 0x09, .uns, 1, .ro, .ro, .ro, 0, 0, 255⟩ /- last result -/,
  ⟨0x2A00, 16, 0x0A, .uns, 2, .ro, .ro, .ro, 0, 0, 65535⟩ /- NOT_QUIET count -/,
  ⟨0x2A20, 1, 0x01, .uns, 4, .rwp, .ro, .ro, 86400, 3600, 2592000⟩ /- AFE interval -/,
  ⟨0x2A20, 1, 0x02, .uns, 1, .rwp, .ro, .ro, 10, 2, 50⟩ /- AFE temperature trigger -/,
  ⟨0x2480, 11, 0x01, .int, 2, .ro, .ro, .ro, 0, -32768, 32767⟩ /- trim -/,
  ⟨0x2480, 11, 0x02, .int, 4, .ro, .ro, .ro, 0, -2147483648, 2147483647⟩ /- error -/,
  ⟨0x2490, 2, 0x01, .int, 2, .ro, .ro, .ro, 0, -32768, 32767⟩ /- trim -/,
  ⟨0x2490, 2, 0x02, .int, 4, .ro, .ro, .ro, 0, -2147483648, 2147483647⟩ /- error -/]

/-- Table TILE-4. -/
def odTILE4 : List OdRow := [
  ⟨0x3200, 8, 0x01, .uns, 8, .ro, .ro, .ro, 0, 0, 18446744073709551615⟩ /- tiles committed -/,
  ⟨0x3200, 8, 0x02, .uns, 4, .ro, .ro, .ro, 0, 0, 4294967295⟩ /- tiles skipped by length -/,
  ⟨0x3200, 8, 0x03, .uns, 4, .ro, .ro, .ro, 0, 0, 4294967295⟩ /- run-ahead cancelled -/,
  ⟨0x3200, 8, 0x04, .uns, 4, .ro, .ro, .ro, 0, 0, 4294967295⟩ /- issue refusals -/,
  ⟨0x3200, 8, 0x05, .uns, 4, .ro, .ro, .ro, 0, 0, 4294967295⟩ /- length clamps -/,
  ⟨0x3210, 16, 0x01, .uns, 1, .ro, .ro, .ro, 0, 0, 255⟩ /- job state -/,
  ⟨0x3210, 16, 0x02, .uns, 4, .ro, .ro, .ro, 0, 0, 4294967295⟩ /- counter -/,
  ⟨0x3210, 16, 0x03, .uns, 4, .ro, .ro, .ro, 0, 0, 4294967295⟩ /- tile count -/,
  ⟨0x3210, 16, 0x04, .uns, 1, .ro, .ro, .ro, 255, 0, 255⟩ /- owning party -/,
  ⟨0x3210, 16, 0x05, .uns, 1, .ro, .ro, .ro, 0, 0, 255⟩ /- cluster mask -/,
  ⟨0x3210, 16, 0x06, .uns, 1, .wo, .wo, .no, 0, 0, 1⟩ /- pause -/,
  ⟨0x3220, 1, 0x01, .domain, 0, .ro, .ro, .ro, 0, 0, 0⟩ /- ways per party -/,
  ⟨0x3220, 1, 0x02, .uns, 8, .ro, .ro, .ro, 0, 0, 18446744073709551615⟩ /- cache hits -/,
  ⟨0x3220, 1, 0x03, .uns, 8, .ro, .ro, .ro, 0, 0, 18446744073709551615⟩ /- cache misses -/]

/-- Table NUM-4. -/
def odNUM4 : List OdRow := [
  ⟨0x3300, 8, 0x01, .uns, 4, .ro, .ro, .ro, 0, 0, 4294967295⟩ /- saturations -/,
  ⟨0x3300, 8, 0x02, .uns, 4, .ro, .ro, .ro, 0, 0, 4294967295⟩ /- poisoned elements -/,
  ⟨0x3300, 8, 0x03, .uns, 4, .ro, .ro, .ro, 0, 0, 4294967295⟩ /- residue mismatches -/,
  ⟨0x3300, 8, 0x04, .uns, 4, .ro, .ro, .ro, 0, 0, 4294967295⟩ /- tainted vectors -/,
  ⟨0x3300, 8, 0x05, .uns, 4, .ro, .ro, .ro, 0, 0, 4294967295⟩ /- transform saturations -/,
  ⟨0x3310, 16, 0x01, .uns, 1, .ro, .ro, .ro, 255, 0, 255⟩ /- owning party -/,
  ⟨0x3310, 16, 0x02, .uns, 1, .ro, .ro, .ro, 0, 0, 255⟩ /- cluster -/,
  ⟨0x3310, 16, 0x03, .uns, 1, .rw, .rw, .ro, 0, 0, 1⟩ /- learning, commanded -/,
  ⟨0x3310, 16, 0x04, .uns, 1, .ro, .ro, .ro, 0, 0, 255⟩ /- learning, effective -/,
  ⟨0x3310, 16, 0x05, .uns, 4, .ro, .ro, .ro, 0, 0, 4294967295⟩ /- head version -/,
  ⟨0x3310, 16, 0x06, .uns, 4, .ro, .ro, .ro, 0, 0, 4294967295⟩ /- master saturations -/,
  ⟨0x3310, 16, 0x07, .domain, 0, .ro, .ro, .no, 0, 0, 0⟩ /- masters -/,
  ⟨0x3310, 16, 0x08, .domain, 0, .ro, .ro, .no, 0, 0, 0⟩ /- codes -/]

/-- Table CORE-11. -/
def odCORE11 : List OdRow := [
  ⟨0x4C40, 16, 0x01, .uns, 4, .ro, .ro, .ro, 0, 0, 4294967295⟩ /- code range -/,
  ⟨0x4C40, 16, 0x02, .uns, 4, .ro, .ro, .ro, 0, 0, 4294967295⟩ /- data range -/,
  ⟨0x4C40, 16, 0x03, .uns, 4, .ro, .ro, .ro, 0, 0, 4294967295⟩ /- descriptor range -/,
  ⟨0x4C40, 16, 0x04, .uns, 1, .ro, .ro, .ro, 0, 0, 255⟩ /- last exception -/,
  ⟨0x4C40, 16, 0x05, .uns, 8, .ro, .ro, .ro, 0, 0, 18446744073709551615⟩ /- last exception frame -/,
  ⟨0x4C40, 16, 0x06, .uns, 4, .ro, .ro, .ro, 0, 0, 4294967295⟩ /- stopping exceptions -/,
  ⟨0x4C40, 16, 0x07, .uns, 4, .ro, .ro, .ro, 0, 0, 4294967295⟩ /- descriptor exceptions -/,
  ⟨0x4C40, 16, 0x08, .uns, 4, .ro, .ro, .ro, 0, 0, 4294967295⟩ /- window cuts -/,
  ⟨0x4C40, 16, 0x09, .domain, 0, .ro, .ro, .ro, 0, 0, 0⟩ /- WAITF outcomes -/,
  ⟨0x4C40, 16, 0x0A, .domain, 0, .ro, .no, .no, 0, 0, 0⟩ /- data memory -/]

/-- Table PIP-7. -/
def odPIP7 : List OdRow := [
  ⟨0x3340, 8, 0x01, .uns, 1, .ro, .ro, .ro, 0, 0, 255⟩ /- images loaded -/,
  ⟨0x3340, 8, 0x02, .uns, 1, .ro, .ro, .ro, 255, 0, 255⟩ /- in-place location -/,
  ⟨0x3340, 8, 0x03, .uns, 2, .ro, .ro, .ro, 0, 0, 65535⟩ /- shadow in use -/,
  ⟨0x3340, 8, 0x04, .uns, 4, .ro, .ro, .ro, 0, 0, 4294967295⟩ /- lifts -/,
  ⟨0x3340, 8, 0x05, .uns, 4, .ro, .ro, .ro, 0, 0, 4294967295⟩ /- deferred swaps -/,
  ⟨0x3340, 8, 0x06, .uns, 4, .ro, .ro, .ro, 0, 0, 4294967295⟩ /- set-down failures -/,
  ⟨0x3340, 8, 0x07, .uns, 8, .ro, .ro, .ro, 0, 0, 18446744073709551615⟩ /- runs -/,
  ⟨0x3340, 8, 0x08, .uns, 4, .ro, .ro, .ro, 0, 0, 4294967295⟩ /- stopped runs -/,
  ⟨0x3340, 8, 0x09, .uns, 1, .ro, .ro, .ro, 0, 0, 255⟩ /- last exception -/,
  ⟨0x3340, 8, 0x0A, .uns, 4, .ro, .ro, .ro, 0, 0, 4294967295⟩ /- fetch stalls -/]

/-- Table LDR-6. -/
def odLDR6 : List OdRow := [
  ⟨0x4C20, 1, 0x01, .domain, 0, .wo, .no, .no, 0, 0, 0⟩ /- load request -/,
  ⟨0x4C20, 1, 0x02, .uns, 1, .wo, .no, .no, 0, 0, 255⟩ /- abort -/,
  ⟨0x4C20, 1, 0x03, .uns, 1, .wo, .no, .no, 0, 0, 255⟩ /- unload -/,
  ⟨0x4C21, 1, 0x01, .uns, 1, .ro, .ro, .ro, 0, 0, 255⟩ /- load state -/,
  ⟨0x4C21, 1, 0x02, .uns, 1, .ro, .ro, .ro, 0, 0, 255⟩ /- load result -/,
  ⟨0x4C21, 1, 0x03, .uns, 2, .ro, .ro, .ro, 0, 0, 65535⟩ /- sub-reason -/,
  ⟨0x4C21, 1, 0x04, .uns, 4, .ro, .ro, .ro, 0, 0, 4294967295⟩ /- detail -/,
  ⟨0x4C21, 1, 0x05, .uns, 1, .ro, .ro, .ro, 0, 0, 255⟩ /- pods to program -/,
  ⟨0x4C22, 1, 0x01, .uns, 4, .ro, .ro, .ro, 0, 0, 4294967295⟩ /- plan ID -/,
  ⟨0x4C22, 1, 0x02, .uns, 4, .ro, .ro, .ro, 0, 0, 4294967295⟩ /- revision -/,
  ⟨0x4C22, 1, 0x03, .domain, 0, .ro, .ro, .ro, 0, 0, 0⟩ /- composition hash -/,
  ⟨0x4C22, 1, 0x04, .uns, 1, .ro, .ro, .ro, 0, 0, 255⟩ /- down mask -/,
  ⟨0x4C22, 1, 0x05, .uns, 4, .ro, .ro, .ro, 0, 0, 4294967295⟩ /- activations -/,
  ⟨0x4C24, 1, 0x01, .domain, 0, .no, .wo, .no, 0, 0, 0⟩ /- update request -/,
  ⟨0x4C24, 1, 0x02, .uns, 4, .no, .wo, .no, 0, 0, 4294967295⟩ /- consolidate -/,
  ⟨0x4C24, 1, 0x03, .uns, 1, .ro, .ro, .ro, 0, 0, 255⟩ /- update state -/,
  ⟨0x4C24, 1, 0x04, .uns, 1, .ro, .ro, .ro, 0, 0, 255⟩ /- update result -/]

/-- Table SENSE-9. -/
def odSENSE9 : List OdRow := [
  ⟨0x2800, 8, 0x01, .uns, 1, .rwp, .ro, .ro, 2, 0, 2⟩ /- mode, commanded -/,
  ⟨0x2808, 4, 0x01, .uns, 1, .rwp, .ro, .ro, 2, 0, 2⟩ /- mode, commanded -/,
  ⟨0x280C, 4, 0x01, .uns, 1, .rwp, .ro, .ro, 3, 0, 3⟩ /- mode, commanded -/,
  ⟨0x2800, 8, 0x02, .uns, 1, .ro, .ro, .ro, 2, 0, 255⟩ /- mode, effective -/,
  ⟨0x2808, 4, 0x02, .uns, 1, .ro, .ro, .ro, 2, 0, 255⟩ /- mode, effective -/,
  ⟨0x280C, 4, 0x02, .uns, 1, .ro, .ro, .ro, 3, 0, 255⟩ /- mode, effective -/,
  ⟨0x2800, 8, 0x03, .uns, 1, .rwp, .ro, .ro, 0, 0, 5⟩ /- rate, commanded -/,
  ⟨0x2808, 4, 0x03, .uns, 1, .rwp, .ro, .ro, 0, 0, 2⟩ /- rate, commanded -/,
  ⟨0x280C, 4, 0x03, .uns, 1, .rwp, .ro, .ro, 0, 0, 4⟩ /- rate, commanded -/,
  ⟨0x2800, 16, 0x04, .uns, 1, .ro, .ro, .ro, 0, 0, 255⟩ /- rate, effective -/,
  ⟨0x2800, 8, 0x05, .uns, 1, .rwp, .ro, .ro, 0, 0, 4⟩ /- PGA, commanded -/,
  ⟨0x2800, 8, 0x06, .uns, 1, .ro, .ro, .ro, 0, 0, 255⟩ /- PGA, effective -/,
  ⟨0x2800, 8, 0x07, .uns, 1, .rwp, .ro, .ro, 1, 0, 3⟩ /- IEPE current -/,
  ⟨0x2800, 16, 0x08, .uns, 2, .rwp, .ro, .ro, 1, 0, 65535⟩ /- party grant -/,
  ⟨0x2800, 16, 0x09, .uns, 4, .ro, .ro, .ro, 0, 0, 4294967295⟩ /- OVR count -/,
  ⟨0x2800, 16, 0x0A, .uns, 4, .ro, .ro, .ro, 0, 0, 4294967295⟩ /- SUS count -/,
  ⟨0x2800, 8, 0x0B, .uns, 1, .ro, .ro, .ro, 3, 0, 255⟩ /- bias state -/,
  ⟨0x2800, 16, 0x0C, .uns, 4, .ro, .ro, .ro, 0, 0, 4294967295⟩ /- group delay -/,
  ⟨0x2800, 16, 0x0D, .uns, 4, .ro, .ro, .ro, 0, 0, 4294967295⟩ /- quiet reading -/,
  ⟨0x2820, 2, 0x01, .uns, 1, .rwp, .ro, .ro, 2, 0, 2⟩ /- mode, commanded -/,
  ⟨0x2820, 2, 0x02, .uns, 1, .ro, .ro, .ro, 2, 0, 255⟩ /- mode, effective -/,
  ⟨0x2820, 2, 0x03, .uns, 2, .rwp, .ro, .ro, 100, 20, 1000⟩ /- glitch filter -/,
  ⟨0x2820, 2, 0x04, .uns, 2, .rwp, .ro, .ro, 1, 1, 65535⟩ /- mark divisor M -/,
  ⟨0x2820, 2, 0x05, .int, 4, .ro, .ro, .ro, 0, -2147483648, 2147483647⟩ /- net count -/,
  ⟨0x2820, 2, 0x06, .uns, 4, .ro, .ro, .ro, 0, 0, 4294967295⟩ /- error count -/,
  ⟨0x2820, 2, 0x07, .uns, 2, .rwp, .ro, .ro, 1, 0, 65535⟩ /- party grant -/,
  ⟨0x2840, 4, 0x01, .uns, 8, .ro, .ro, .ro, 0, 0, 18446744073709551615⟩ /- runs -/,
  ⟨0x2840, 4, 0x02, .uns, 4, .ro, .ro, .ro, 0, 0, 4294967295⟩ /- stopped runs -/,
  ⟨0x2840, 4, 0x03, .uns, 1, .ro, .ro, .ro, 0, 0, 255⟩ /- last exception -/,
  ⟨0x2840, 4, 0x04, .uns, 4, .ro, .ro, .ro, 0, 0, 4294967295⟩ /- longest run -/]

/-- Table NET-7. -/
def odNET7a : List OdRow := [
  ⟨0x3C00, 2, 0x01, .uns, 1, .rwp, .ro, .ro, 1, 0, 1⟩ /- enable, commanded -/,
  ⟨0x3C03, 1, 0x01, .uns, 1, .rwp, .ro, .ro, 1, 0, 1⟩ /- enable, commanded -/,
  ⟨0x3C00, 4, 0x02, .uns, 1, .ro, .ro, .ro, 0, 0, 255⟩ /- state, effective -/,
  ⟨0x3C00, 2, 0x03, .uns, 1, .wo, .no, .no, 0, 0, 255⟩ /- clear -/,
  ⟨0x3C03, 1, 0x03, .uns, 1, .wo, .no, .no, 0, 0, 255⟩ /- clear -/,
  ⟨0x3C00, 2, 0x04, .uns, 8, .ro, .ro, .ro, 0, 0, 18446744073709551615⟩ /- MAC address -/,
  ⟨0x3C00, 1, 0x05, .uns, 1, .rwp, .ro, .ro, 1, 0, 1⟩ /- N1 role -/,
  ⟨0x3C10, 1, 0x01, .uns, 1, .rwp, .ro, .ro, 1, 0, 1⟩ /- PLCA enable -/,
  ⟨0x3C10, 1, 0x02, .uns, 1, .rwp, .ro, .ro, 255, 0, 255⟩ /- PLCA node ID -/,
  ⟨0x3C10, 1, 0x03, .uns, 1, .rwp, .ro, .ro, 8, 2, 255⟩ /- node count n -/,
  ⟨0x3C10, 1, 0x04, .uns, 1, .rwp, .ro, .ro, 32, 20, 255⟩ /- T_TO -/,
  ⟨0x3C10, 1, 0x05, .uns, 2, .rwp, .ro, .ro, 1570, 256, 1570⟩ /- frame limit F -/,
  ⟨0x3C10, 1, 0x06, .uns, 1, .ro, .ro, .ro, 0, 0, 255⟩ /- PLCA status -/,
  ⟨0x3C10, 1, 0x07, .uns, 4, .ro, .ro, .ro, 0, 0, 4294967295⟩ /- N1 bound, first datagram -/,
  ⟨0x3C10, 1, 0x08, .uns, 4, .ro, .ro, .ro, 0, 0, 4294967295⟩ /- N2 bound, first datagram -/,
  ⟨0x3C20, 1, 0x01, .str, 16, .rwp, .ro, .ro, 0, 0, 0⟩ /- IPv6 address -/,
  ⟨0x3C20, 1, 0x02, .uns, 1, .rwp, .ro, .ro, 64, 0, 128⟩ /- prefix length -/,
  ⟨0x3C20, 1, 0x03, .str, 16, .rwp, .ro, .ro, 0, 0, 0⟩ /- default router -/,
  ⟨0x3C20, 1, 0x04, .uns, 4, .rwp, .ro, .ro, 0, 0, 4294967295⟩ /- IPv4 address -/,
  ⟨0x3C20, 1, 0x05, .uns, 2, .rwp, .ro, .ro, 48600, 0, 65535⟩ /- Maelelo port -/,
  ⟨0x3C20, 1, 0x06, .uns, 1, .rwp, .ro, .ro, 0, 0, 1⟩ /- discovery -/,
  ⟨0x3C20, 1, 0x07, .str, 16, .rwp, .ro, .ro, 0, 0, 0⟩ /- node name -/,
  ⟨0x3C30, 16, 0x01, .uns, 1, .rwp, .ro, .ro, 0, 0, 4⟩ /- binding kind -/,
  ⟨0x3C30, 16, 0x02, .uns, 8, .rwp, .ro, .ro, 0, 0, 18446744073709551615⟩ /- SCI -/,
  ⟨0x3C31, 15, 0x03, .uns, 1, .rwp, .ro, .ro, 0, 1, 127⟩ /- CAN node ID, not for party 0 -/,
  ⟨0x3C30, 16, 0x04, .uns, 1, .rwp, .ro, .ro, 0, 0, 64⟩ /- replay window -/,
  ⟨0x3C30, 16, 0x05, .str, 18, .ro, .ro, .ro, 0, 0, 0⟩ /- return address -/,
  ⟨0x3C30, 16, 0x06, .uns, 4, .ro, .ro, .ro, 0, 0, 4294967295⟩ /- transmit PN -/,
  ⟨0x3C50, 1, 0x01, .uns, 1, .rwp, .ro, .ro, 0, 0, 255⟩ /- PTP port -/,
  ⟨0x3C50, 1, 0x02, .uns, 1, .ro, .ro, .ro, 0, 0, 255⟩ /- PTP state -/]

/-- Table NET-7. -/
def odNET7b : List OdRow := [
  ⟨0x3C50, 1, 0x03, .int, 4, .ro, .ro, .ro, 0, -2147483648, 2147483647⟩ /- offset -/,
  ⟨0x3C50, 1, 0x04, .uns, 8, .ro, .ro, .ro, 0, 0, 18446744073709551615⟩ /- grandmaster identity -/,
  ⟨0x3C50, 1, 0x05, .uns, 8, .rwp, .ro, .ro, 0, 0, 18446744073709551615⟩ /- N2 time source -/,
  ⟨0x3C60, 1, 0x01, .uns, 1, .rwp, .ro, .ro, 32, 1, 127⟩ /- CAN node ID -/,
  ⟨0x3C60, 1, 0x02, .uns, 1, .rwp, .ro, .ro, 3, 0, 3⟩ /- nominal rate -/,
  ⟨0x3C60, 1, 0x03, .uns, 1, .rwp, .ro, .ro, 3, 0, 3⟩ /- data rate -/,
  ⟨0x3C60, 1, 0x04, .uns, 2, .rwp, .ro, .ro, 256, 0, 2047⟩ /- event CAN-ID -/,
  ⟨0x3C60, 1, 0x05, .domain, 0, .rwp, .ro, .ro, 0, 0, 0⟩ /- CAN stream map -/,
  ⟨0x3C80, 1, 0x01, .domain, 0, .wo, .no, .no, 0, 0, 0⟩ /- classifier image -/,
  ⟨0x3C80, 1, 0x02, .uns, 1, .rwp, .ro, .ro, 0, 0, 1⟩ /- fail verdict -/,
  ⟨0x3C80, 1, 0x03, .uns, 4, .ro, .ro, .ro, 0, 0, 4294967295⟩ /- image CRC -/,
  ⟨0x3C80, 1, 0x04, .domain, 0, .ro, .no, .no, 0, 0, 0⟩ /- counters -/]

/-- Table NET-8. -/
def odNET8 : List OdRow := [
  ⟨0x3C00, 2, 0x10, .uns, 4, .ro, .ro, .ro, 0, 0, 4294967295⟩ /- frames received -/,
  ⟨0x3C03, 1, 0x10, .uns, 4, .ro, .ro, .ro, 0, 0, 4294967295⟩ /- frames received -/,
  ⟨0x3C00, 2, 0x1A, .uns, 4, .ro, .ro, .ro, 0, 0, 4294967295⟩ /- backlogs (R212) -/,
  ⟨0x3C03, 1, 0x1A, .uns, 4, .ro, .ro, .ro, 0, 0, 4294967295⟩ /- backlogs (R212) -/,
  ⟨0x3C00, 2, 0x11, .uns, 4, .ro, .ro, .ro, 0, 0, 4294967295⟩ /- frames sent -/,
  ⟨0x3C03, 1, 0x11, .uns, 4, .ro, .ro, .ro, 0, 0, 4294967295⟩ /- frames sent -/,
  ⟨0x3C00, 2, 0x1B, .uns, 4, .ro, .ro, .ro, 0, 0, 4294967295⟩ /- records dropped or undelivered -/,
  ⟨0x3C03, 1, 0x1B, .uns, 4, .ro, .ro, .ro, 0, 0, 4294967295⟩ /- records dropped or undelivered -/,
  ⟨0x3C00, 2, 0x12, .uns, 4, .ro, .ro, .ro, 0, 0, 4294967295⟩ /- FCS or CRC errors -/,
  ⟨0x3C03, 1, 0x12, .uns, 4, .ro, .ro, .ro, 0, 0, 4294967295⟩ /- FCS or CRC errors -/,
  ⟨0x3C00, 2, 0x1C, .uns, 4, .ro, .ro, .ro, 0, 0, 4294967295⟩ /- classifier queue drops -/,
  ⟨0x3C00, 2, 0x13, .uns, 4, .ro, .ro, .ro, 0, 0, 4294967295⟩ /- symbol errors -/,
  ⟨0x3C01, 1, 0x1D, .uns, 4, .ro, .ro, .ro, 0, 0, 4294967295⟩ /- NO_BOUND records -/,
  ⟨0x3C00, 2, 0x14, .uns, 4, .ro, .ro, .ro, 0, 0, 4294967295⟩ /- jabber events, own and received -/,
  ⟨0x3C01, 1, 0x1E, .uns, 4, .ro, .ro, .ro, 0, 0, 4294967295⟩ /- excessive-collision drops -/,
  ⟨0x3C01, 1, 0x15, .uns, 4, .ro, .ro, .ro, 0, 0, 4294967295⟩ /- collisions -/,
  ⟨0x3C03, 1, 0x1F, .uns, 4, .ro, .ro, .ro, 0, 0, 4294967295⟩ /- bus-off events (CAN FD) -/,
  ⟨0x3C00, 2, 0x16, .uns, 4, .ro, .ro, .ro, 0, 0, 4294967295⟩ /- strangers -/,
  ⟨0x3C03, 1, 0x16, .uns, 4, .ro, .ro, .ro, 0, 0, 4294967295⟩ /- strangers -/,
  ⟨0x3C30, 16, 0x10, .uns, 4, .ro, .ro, .ro, 0, 0, 4294967295⟩ /- events dropped (party) -/,
  ⟨0x3C00, 2, 0x17, .uns, 4, .ro, .ro, .ro, 0, 0, 4294967295⟩ /- MACsec integrity or replay failures -/,
  ⟨0x3C30, 16, 0x11, .uns, 4, .ro, .ro, .ro, 0, 0, 4294967295⟩ /- stale sequences (party) -/,
  ⟨0x3C00, 2, 0x18, .uns, 4, .ro, .ro, .ro, 0, 0, 4294967295⟩ /- party field mismatches -/,
  ⟨0x3C03, 1, 0x18, .uns, 4, .ro, .ro, .ro, 0, 0, 4294967295⟩ /- party field mismatches -/,
  ⟨0x3C50, 1, 0x06, .uns, 4, .ro, .ro, .ro, 0, 0, 4294967295⟩ /- rejected Syncs -/,
  ⟨0x3C00, 2, 0x19, .uns, 4, .ro, .ro, .ro, 0, 0, 4294967295⟩ /- pool operations aborted -/,
  ⟨0x3C03, 1, 0x19, .uns, 4, .ro, .ro, .ro, 0, 0, 4294967295⟩ /- pool operations aborted -/,
  ⟨0x3C80, 1, 0x05, .uns, 4, .ro, .ro, .ro, 0, 0, 4294967295⟩ /- classifier stopped runs -/]

/-- Table OD-4. -/
def odOD4 : List OdRow := [
  ⟨0x2010, 1, 0x01, .uns, 2, .wo, .no, .no, 0, 23130, 23130⟩ /- restore defaults -/,
  ⟨0x2010, 1, 0x02, .uns, 4, .ro, .ro, .ro, 0, 0, 4294967295⟩ /- vault commits -/,
  ⟨0x2010, 1, 0x03, .uns, 4, .ro, .ro, .ro, 0, 0, 4294967295⟩ /- commits refused -/,
  ⟨0x2010, 1, 0x04, .uns, 4, .ro, .ro, .ro, 0, 0, 4294967295⟩ /- vault fallbacks -/,
  ⟨0x2011, 1, 0x01, .domain, 0, .ro, .ro, .ro, 0, 0, 0⟩ /- disagreement list -/,
  ⟨0x2011, 1, 0x02, .uns, 4, .ro, .ro, .ro, 0, 0, 4294967295⟩ /- DISAGREE records -/,
  ⟨0x2012, 1, 0x01, .uns, 4, .ro, .ro, .ro, 0, 0, 4294967295⟩ /- queue refusals -/,
  ⟨0x2012, 1, 0x02, .uns, 4, .ro, .ro, .ro, 0, 0, 4294967295⟩ /- snapshots and stagings expired -/]

/-- Table ODX-4. -/
def odODX4 : List OdRow := [
  ⟨0x1000, 1, 0x00, .uns, 4, .no, .ro, .ro, 0, 0, 4294967295⟩ /- device type -/,
  ⟨0x1001, 1, 0x00, .uns, 1, .no, .ro, .ro, 0, 0, 255⟩ /- error register -/,
  ⟨0x1008, 1, 0x00, .str, 8, .no, .ro, .ro, 0, 0, 0⟩ /- device name -/,
  ⟨0x1009, 1, 0x00, .str, 2, .no, .ro, .ro, 0, 0, 0⟩ /- hardware version -/,
  ⟨0x100A, 1, 0x00, .str, 16, .no, .ro, .ro, 0, 0, 0⟩ /- software version -/,
  ⟨0x1017, 1, 0x00, .uns, 2, .no, .ro, .ro, 1000, 0, 65535⟩ /- producer heartbeat time -/,
  ⟨0x1018, 1, 0x01, .uns, 4, .no, .ro, .ro, 0, 0, 4294967295⟩ /- vendor ID -/,
  ⟨0x1018, 1, 0x02, .uns, 4, .no, .ro, .ro, 12808, 0, 4294967295⟩ /- product code -/,
  ⟨0x1018, 1, 0x03, .uns, 4, .no, .ro, .ro, 177, 0, 4294967295⟩ /- revision -/,
  ⟨0x1018, 1, 0x04, .uns, 4, .no, .ro, .ro, 0, 0, 4294967295⟩ /- serial number -/]

/-- Table ODX-5. -/
def odODX5 : List OdRow := [
  ⟨0x2000, 1, 0x01, .uns, 2, .ro, .ro, .ro, 12808, 0, 65535⟩ /- part number -/,
  ⟨0x2000, 1, 0x02, .uns, 1, .ro, .ro, .ro, 177, 0, 255⟩ /- stepping -/,
  ⟨0x2000, 1, 0x03, .uns, 8, .ro, .ro, .ro, 0, 0, 18446744073709551615⟩ /- serial number -/,
  ⟨0x2000, 1, 0x04, .str, 16, .ro, .ro, .ro, 0, 0, 0⟩ /- ordering code -/,
  ⟨0x2001, 1, 0x01, .uns, 1, .ro, .ro, .ro, 0, 0, 255⟩ /- active firmware slot -/,
  ⟨0x2001, 1, 0x02, .uns, 4, .ro, .ro, .ro, 0, 0, 4294967295⟩ /- slot 0 version -/,
  ⟨0x2001, 1, 0x03, .uns, 4, .ro, .ro, .ro, 0, 0, 4294967295⟩ /- slot 1 version -/,
  ⟨0x2001, 1, 0x04, .domain, 0, .wo, .no, .no, 0, 0, 0⟩ /- firmware image -/,
  ⟨0x2001, 1, 0x05, .uns, 1, .wo, .no, .no, 0, 0, 255⟩ /- activate slot -/,
  ⟨0x2002, 1, 0x01, .uns, 1, .ro, .ro, .ro, 0, 0, 255⟩ /- lifecycle state -/,
  ⟨0x2002, 1, 0x02, .domain, 0, .wo, .no, .no, 0, 0, 0⟩ /- lifecycle request -/,
  ⟨0x2003, 1, 0x01, .uns, 1, .ro, .ro, .ro, 0, 0, 255⟩ /- debug state -/,
  ⟨0x2003, 1, 0x02, .domain, 0, .ro, .no, .no, 0, 0, 0⟩ /- debug challenge -/,
  ⟨0x2003, 1, 0x03, .domain, 0, .wo, .no, .no, 0, 0, 0⟩ /- debug response -/,
  ⟨0x2003, 1, 0x04, .uns, 1, .wo, .no, .no, 0, 0, 255⟩ /- debug close -/,
  ⟨0x2004, 1, 0x01, .domain, 0, .wo, .no, .no, 0, 0, 0⟩ /- plan key install -/,
  ⟨0x2004, 1, 0x02, .domain, 0, .wo, .no, .no, 0, 0, 0⟩ /- SAK install -/,
  ⟨0x2004, 1, 0x03, .domain, 0, .wo, .no, .no, 0, 0, 0⟩ /- pool key install -/,
  ⟨0x2004, 1, 0x04, .domain, 0, .ro, .no, .no, 0, 0, 0⟩ /- key table -/,
  ⟨0x2020, 1, 0x01, .uns, 4, .ro, .ro, .ro, 4194304, 0, 4294967295⟩ /- vault size -/,
  ⟨0x2020, 1, 0x02, .uns, 4, .ro, .ro, .ro, 0, 0, 4294967295⟩ /- vault free -/,
  ⟨0x2020, 1, 0x03, .uns, 8, .ro, .ro, .ro, 0, 0, 18446744073709551615⟩ /- vault writes -/]

/-- Table ODX-6. -/
def odODX6a : List OdRow := [
  ⟨0x2400, 1, 0x01, .uns, 1, .rw, .ro, .ro, 2, 2, 3⟩ /- power state, commanded -/,
  ⟨0x2400, 1, 0x02, .uns, 1, .ro, .ro, .ro, 0, 0, 255⟩ /- power state, effective -/,
  ⟨0x2411, 4, 0x01, .uns, 1, .rw, .ro, .ro, 1, 0, 1⟩ /- domain enable, commanded -/,
  ⟨0x2410, 5, 0x02, .uns, 1, .ro, .ro, .ro, 0, 0, 255⟩ /- domain state, effective -/,
  ⟨0x2410, 5, 0x03, .uns, 2, .ro, .ro, .ro, 0, 0, 65535⟩ /- first rail voltage -/,
  ⟨0x2410, 1, 0x04, .uns, 2, .ro, .ro, .ro, 0, 0, 65535⟩ /- second rail voltage -/,
  ⟨0x2412, 3, 0x04, .uns, 2, .ro, .ro, .ro, 0, 0, 65535⟩ /- second rail voltage -/,
  ⟨0x2420, 8, 0x01, .uns, 1, .rwp, .ro, .ro, 1, 0, 1⟩ /- cluster enable, commanded -/,
  ⟨0x2420, 8, 0x02, .uns, 1, .ro, .ro, .ro, 0, 0, 255⟩ /- cluster gate, effective -/,
  ⟨0x2420, 8, 0x03, .uns, 1, .wo, .no, .no, 0, 0, 255⟩ /- clear -/,
  ⟨0x2440, 17, 0x01, .int, 2, .ro, .ro, .ro, 0, -32768, 32767⟩ /- temperature -/,
  ⟨0x2440, 17, 0x02, .int, 2, .ro, .ro, .ro, 0, -32768, 32767⟩ /- highest since sprout -/,
  ⟨0x2460, 1, 0x01, .int, 2, .ro, .ro, .ro, 0, -32768, 32767⟩ /- Tj, hottest sensor -/,
  ⟨0x2460, 1, 0x02, .uns, 1, .ro, .ro, .ro, 0, 0, 255⟩ /- hottest sensor -/,
  ⟨0x2460, 1, 0x03, .uns, 1, .ro, .ro, .ro, 7, 0, 255⟩ /- throttle step, effective -/,
  ⟨0x2460, 1, 0x04, .uns, 2, .ro, .ro, .ro, 6000, 0, 65535⟩ /- COMP current limit -/,
  ⟨0x2460, 1, 0x05, .uns, 4, .ro, .ro, .ro, 0, 0, 4294967295⟩ /- warnings -/,
  ⟨0x2460, 1, 0x06, .domain, 0, .ro, .ro, .ro, 0, 0, 0⟩ /- shutdown records -/,
  ⟨0x2462, 1, 0x01, .uns, 1, .rwp, .ro, .ro, 2, 0, 2⟩ /- ballast, commanded -/,
  ⟨0x2462, 1, 0x02, .uns, 1, .ro, .ro, .ro, 0, 0, 255⟩ /- ballast, effective -/,
  ⟨0x2462, 1, 0x03, .uns, 2, .ro, .ro, .ro, 0, 0, 65535⟩ /- ballast power -/,
  ⟨0x24A0, 1, 0x01, .uns, 2, .ro, .ro, .ro, 0, 0, 65535⟩ /- store voltage -/,
  ⟨0x24A0, 1, 0x02, .uns, 4, .ro, .ro, .ro, 0, 0, 4294967295⟩ /- energy, charge estimate -/,
  ⟨0x24A0, 1, 0x03, .uns, 4, .ro, .ro, .ro, 0, 0, 4294967295⟩ /- energy, voltage estimate -/,
  ⟨0x24A0, 1, 0x04, .uns, 4, .ro, .ro, .ro, 0, 0, 4294967295⟩ /- energy, used for decisions -/,
  ⟨0x24A0, 1, 0x05, .uns, 1, .ro, .ro, .ro, 0, 0, 255⟩ /- estimator flags -/,
  ⟨0x24A0, 1, 0x06, .uns, 4, .ro, .ro, .ro, 0, 0, 4294967295⟩ /- measured capacitance -/,
  ⟨0x24A0, 1, 0x07, .uns, 2, .ro, .ro, .ro, 0, 0, 65535⟩ /- measured ESR -/,
  ⟨0x24A0, 1, 0x08, .uns, 8, .ro, .ro, .ro, 0, 0, 18446744073709551615⟩ /- last clean reference -/,
  ⟨0x24A0, 1, 0x09, .uns, 4, .rwp, .ro, .ro, 10000, 4000, 40000⟩ /- rated capacitance -/]

/-- Table ODX-6. -/
def odODX6b : List OdRow := [
  ⟨0x24A0, 1, 0x0A, .domain, 0, .rwp, .no, .no, 0, 0, 0⟩ /- keep regions -/,
  ⟨0x24A0, 1, 0x0B, .domain, 0, .wo, .no, .no, 0, 0, 0⟩ /- hold-up pip image -/,
  ⟨0x24C0, 1, 0x01, .uns, 8, .rw, .ro, .ro, 0, 0, 18446744073709551615⟩ /- real-time clock -/,
  ⟨0x24C0, 1, 0x02, .uns, 8, .ro, .ro, .ro, 0, 0, 18446744073709551615⟩ /- device time -/]

/-- Table ODX-7. -/
def odODX7 : List OdRow := [
  ⟨0x3800, 16, 0x01, .uns, 1, .rwp, .ro, .ro, 1, 0, 2⟩ /- role -/,
  ⟨0x3800, 16, 0x02, .uns, 4, .rwp, .ro, .ro, 0, 0, 851968⟩ /- page allotment -/,
  ⟨0x3800, 16, 0x03, .domain, 0, .rwp, .ro, .ro, 0, 0, 0⟩ /- pod allotment -/,
  ⟨0x3800, 16, 0x04, .uns, 1, .rwp, .ro, .ro, 255, 0, 255⟩ /- window number -/,
  ⟨0x3800, 16, 0x05, .uns, 2, .rwp, .ro, .ro, 0, 0, 65535⟩ /- window length -/,
  ⟨0x3800, 16, 0x06, .uns, 2, .rwp, .ro, .ro, 0, 0, 65535⟩ /- pool bandwidth share -/,
  ⟨0x3800, 16, 0x07, .uns, 4, .rwp, .ro, .ro, 0, 0, 4294967295⟩ /- pool operation share -/,
  ⟨0x3800, 16, 0x08, .uns, 2, .rwp, .ro, .ro, 0, 0, 65535⟩ /- current share -/,
  ⟨0x3800, 16, 0x09, .uns, 2, .rwp, .ro, .ro, 256, 0, 256⟩ /- hold limit -/,
  ⟨0x3800, 16, 0x0A, .uns, 1, .wo, .no, .no, 0, 0, 255⟩ /- revoke -/,
  ⟨0x3820, 16, 0x01, .uns, 4, .ro, .ro, .ro, 0, 0, 4294967295⟩ /- pages mapped -/,
  ⟨0x3820, 16, 0x02, .uns, 2, .ro, .ro, .ro, 0, 0, 65535⟩ /- lines held -/,
  ⟨0x3820, 16, 0x03, .uns, 4, .ro, .ro, .ro, 0, 0, 4294967295⟩ /- pool bandwidth used -/,
  ⟨0x3820, 16, 0x04, .uns, 2, .ro, .ro, .ro, 0, 0, 65535⟩ /- credit remaining -/,
  ⟨0x3820, 16, 0x05, .uns, 2, .ro, .ro, .ro, 0, 0, 65535⟩ /- contexts -/,
  ⟨0x3820, 16, 0x06, .uns, 1, .ro, .ro, .ro, 0, 0, 255⟩ /- contexts resident -/,
  ⟨0x3840, 1, 0x01, .uns, 2, .rw, .rw, .rw, 0, 0, 4095⟩ /- context selector -/,
  ⟨0x3840, 1, 0x02, .domain, 0, .ro, .ro, .ro, 0, 0, 0⟩ /- context utilisation -/,
  ⟨0x3840, 1, 0x03, .domain, 0, .ro, .ro, .ro, 0, 0, 0⟩ /- context memory use -/,
  ⟨0x3880, 1, 0x01, .uns, 2, .rwp, .ro, .ro, 250, 1, 5000⟩ /- default lease -/,
  ⟨0x3880, 1, 0x02, .uns, 2, .ro, .ro, .ro, 0, 0, 65535⟩ /- lines held, device -/,
  ⟨0x3880, 1, 0x03, .uns, 4, .ro, .ro, .ro, 0, 0, 4294967295⟩ /- chaff lines -/,
  ⟨0x3880, 1, 0x04, .uns, 1, .ro, .ro, .ro, 0, 0, 255⟩ /- pool load -/,
  ⟨0x3890, 1, 0x01, .uns, 1, .ro, .ro, .ro, 0, 0, 255⟩ /- mirrored fences -/,
  ⟨0x3890, 1, 0x02, .domain, 0, .rw, .ro, .ro, 0, 0, 0⟩ /- mirror table -/,
  ⟨0x3C61, 1, 0x01, .uns, 2, .rwp, .ro, .ro, 1000, 0, 65535⟩ /- CAN heartbeat time -/]

/-- Table ODX-8. -/
def odODX8 : List OdRow := [
  ⟨0x4000, 1, 0x01, .uns, 1, .rwp, .ro, .ro, 1, 0, 1⟩ /- checksum columns, commanded -/,
  ⟨0x4000, 1, 0x02, .uns, 1, .ro, .ro, .ro, 0, 0, 255⟩ /- checksum columns, effective -/,
  ⟨0x4000, 1, 0x03, .uns, 1, .rwp, .ro, .ro, 4, 1, 63⟩ /- checksum tolerance -/,
  ⟨0x4000, 1, 0x04, .uns, 1, .rwp, .ro, .ro, 1, 0, 3⟩ /- duplicate fraction, commanded -/,
  ⟨0x4000, 1, 0x05, .uns, 1, .ro, .ro, .ro, 0, 0, 255⟩ /- duplicate fraction, effective -/,
  ⟨0x4000, 1, 0x06, .uns, 1, .rwp, .ro, .ro, 1, 0, 1⟩ /- winnow, commanded -/,
  ⟨0x4000, 1, 0x07, .uns, 1, .ro, .ro, .ro, 0, 0, 255⟩ /- winnow, effective -/,
  ⟨0x4000, 1, 0x08, .uns, 4, .ro, .ro, .ro, 0, 0, 4294967295⟩ /- last winnow pass -/,
  ⟨0x4010, 1, 0x01, .domain, 0, .ro, .ro, .ro, 0, 0, 0⟩ /- fault log -/,
  ⟨0x4010, 1, 0x02, .uns, 4, .ro, .ro, .ro, 0, 0, 4294967295⟩ /- records raised -/,
  ⟨0x4010, 1, 0x03, .uns, 4, .ro, .ro, .ro, 0, 0, 4294967295⟩ /- records overwritten -/,
  ⟨0x4010, 1, 0x04, .uns, 1, .wo, .no, .no, 0, 0, 255⟩ /- clear log -/,
  ⟨0x4020, 1, 0x01, .uns, 2, .rw, .rw, .rw, 0, 0, 65535⟩ /- history selector -/,
  ⟨0x4020, 1, 0x02, .domain, 0, .ro, .ro, .ro, 0, 0, 0⟩ /- unit history -/,
  ⟨0x4020, 1, 0x03, .domain, 0, .ro, .ro, .ro, 0, 0, 0⟩ /- permanent units -/,
  ⟨0x4030, 40, 0x01, .uns, 1, .rwp, .ro, .ro, 1, 0, 1⟩ /- pod service, commanded -/,
  ⟨0x4030, 40, 0x02, .uns, 1, .ro, .ro, .ro, 1, 0, 255⟩ /- pod service, effective -/,
  ⟨0x4030, 40, 0x03, .uns, 1, .wo, .no, .no, 0, 0, 255⟩ /- clear -/]

/-- Table ODX-9. -/
def odODX9 : List OdRow := [
  ⟨0x4400, 1, 0x01, .uns, 4, .rwp, .ro, .ro, 86400, 0, 4294967295⟩ /- test interval -/,
  ⟨0x4400, 1, 0x02, .uns, 2, .wo, .no, .no, 0, 0, 65535⟩ /- start test -/,
  ⟨0x4400, 1, 0x03, .uns, 4, .ro, .ro, .ro, 604800, 0, 4294967295⟩ /- deferral limit -/,
  ⟨0x4400, 1, 0x04, .domain, 0, .ro, .ro, .ro, 0, 0, 0⟩ /- overdue units -/,
  ⟨0x4410, 8, 0x01, .uns, 1, .ro, .ro, .ro, 0, 0, 255⟩ /- last logic BIST result -/,
  ⟨0x4410, 8, 0x02, .uns, 4, .ro, .ro, .ro, 0, 0, 4294967295⟩ /- signature -/,
  ⟨0x4410, 8, 0x03, .uns, 4, .ro, .ro, .ro, 0, 0, 4294967295⟩ /- expected signature -/,
  ⟨0x4410, 8, 0x04, .uns, 8, .ro, .ro, .ro, 0, 0, 18446744073709551615⟩ /- last run -/,
  ⟨0x4410, 8, 0x05, .uns, 8, .ro, .ro, .ro, 0, 0, 18446744073709551615⟩ /- deferred since -/,
  ⟨0x4420, 40, 0x01, .uns, 1, .ro, .ro, .ro, 0, 0, 255⟩ /- last march result -/,
  ⟨0x4420, 40, 0x02, .uns, 4, .ro, .ro, .ro, 0, 0, 4294967295⟩ /- signature -/,
  ⟨0x4420, 40, 0x03, .uns, 8, .ro, .ro, .ro, 0, 0, 18446744073709551615⟩ /- last run -/,
  ⟨0x4800, 16, 0x01, .uns, 1, .rw, .rw, .rw, 0, 0, 1⟩ /- trace enable -/,
  ⟨0x4800, 16, 0x02, .uns, 8, .rw, .rw, .rw, 0, 0, 18446744073709551615⟩ /- ring address -/,
  ⟨0x4800, 16, 0x03, .uns, 4, .rw, .rw, .rw, 0, 0, 4294967295⟩ /- ring size -/,
  ⟨0x4800, 16, 0x04, .uns, 4, .rw, .rw, .rw, 0, 0, 4294967295⟩ /- filter -/,
  ⟨0x4800, 16, 0x05, .uns, 8, .ro, .ro, .ro, 0, 0, 18446744073709551615⟩ /- records written -/,
  ⟨0x4800, 16, 0x06, .uns, 4, .ro, .ro, .ro, 0, 0, 4294967295⟩ /- records dropped -/]

/-- Every entry of the dictionary. -/
def odTable : List OdRow :=
  odFRAME5 ++ odPOD8 ++ odCAL6 ++ odTILE4 ++ odNUM4 ++ odCORE11 ++ odPIP7 ++ odLDR6 ++ odSENSE9 ++ odNET7a ++ odNET7b ++
    odNET8 ++ odOD4 ++ odODX4 ++ odODX5 ++ odODX6a ++ odODX6b ++ odODX7 ++ odODX8 ++ odODX9

end Sys2Proof.Machine
end

