-- ==== Sys2Proof/Machine/Maps.lean ====
section
/-! DEFINITION. Sparse maps held as lists of key and value with strictly rising keys, and byte strings. An absent key
stands for a default value, which is never listed, so that equal maps are equal lists. -/

namespace Sys2Proof.Machine

variable {α : Type}

/-- The value at a key, `d` when the key is not listed. -/
def mget (d : α) : List (Nat × α) → Nat → α
  | [], _ => d
  | (k, v) :: m, j => if k = j then v else mget d m j

/-- The map without a key. -/
def mdel : List (Nat × α) → Nat → List (Nat × α)
  | [], _ => []
  | (k, v) :: m, j => if k = j then mdel m j else (k, v) :: mdel m j

/-- The map with a key set, in rising order. -/
def mins : List (Nat × α) → Nat → α → List (Nat × α)
  | [], j, x => [(j, x)]
  | (k, v) :: m, j, x =>
    if j < k then (j, x) :: (k, v) :: m else if j = k then (j, x) :: m else (k, v) :: mins m j x

/-- The map with a key set, dropping it when it takes the default. -/
def mset [DecidableEq α] (d : α) (m : List (Nat × α)) (j : Nat) (x : α) : List (Nat × α) :=
  if x = d then mdel m j else mins m j x

/-- The keys rise strictly and no listed value is the default. -/
def mwf [DecidableEq α] (d : α) : List (Nat × α) → Bool
  | [] => true
  | [(_, v)] => decide (v ≠ d)
  | (k, v) :: (l, w) :: m => decide (v ≠ d) && decide (k < l) && mwf d ((l, w) :: m)

/-- Bytes from consecutive addresses of a cell map whose unlisted cells read 0. -/
def readCells (m : List (Nat × BitVec 8)) (a : Nat) : Nat → List (BitVec 8)
  | 0 => []
  | n + 1 => mget 0 m a :: readCells m (a + 1) n

/-- Store bytes at consecutive addresses. -/
def writeCells (m : List (Nat × BitVec 8)) (a : Nat) : List (BitVec 8) → List (Nat × BitVec 8)
  | [] => m
  | b :: bs => writeCells (mset 0 m a b) (a + 1) bs

/-- A little-endian number (R9). -/
def leNat : List (BitVec 8) → Nat
  | [] => 0
  | b :: bs => b.toNat + 256 * leNat bs

/-- Go on with an evaluated number, so that a kernel that computes a long result holds no chain of pending steps. -/
def forceNat {α : Type} (n : Nat) (k : Nat → α) : α :=
  match n with
  | 0 => k 0
  | m + 1 => k (m + 1)

/-- A number as n little-endian bytes (R9). -/
def leBytes : Nat → Nat → List (BitVec 8)
  | 0, _ => []
  | n + 1, v => BitVec.ofNat 8 v :: leBytes n (v / 256)

/-- n bytes of a string from an offset, as a little-endian number. -/
def field (bs : List (BitVec 8)) (off n : Nat) : Nat := leNat ((bs.drop off).take n)

/-- A set of numbers as an ascending list: insert and remove. -/
def sins : List Nat → Nat → List Nat
  | [], x => [x]
  | y :: ys, x => if x < y then x :: y :: ys else if x = y then y :: ys else y :: sins ys x

def sdel (l : List Nat) (x : Nat) : List Nat := l.filter (· ≠ x)

/-- Replace the element at an index by a function of it. -/
def upd (l : List α) (i : Nat) (f : α → α) : List α :=
  match l, i with
  | [], _ => []
  | x :: xs, 0 => f x :: xs
  | x :: xs, n + 1 => x :: upd xs n f

/-- Register key of a dictionary entry: index × 256 + subindex. -/
def okey (index sub : Nat) : Nat := index * 256 + sub

/-- The registers whose default is not zero, from the entry tables. -/
def odDefaults : List (Nat × Nat) :=
  odTable.foldl (fun m row =>
    if row.dflt = 0 then m
    else (List.range row.count).foldl (fun m i => mset 0 m (okey (row.base + i) row.sub) row.dflt) m) []

end Sys2Proof.Machine
end

