-- ==== Sys2Proof/Machine/Aes.lean ====
section
/-! DEFINITION. AES-256 (FIPS 197) and its XTS mode (IEEE 1619), under which DRAM holds the pool's pages (14 R278). A state is a
list of 16 numbers below 256, column by column; tables are packed as numbers, so that a kernel can compute a block. -/

namespace Sys2Proof.Machine

open Sys2Proof

/-- The substitution table: entry x is byte x % 32 of number x / 32. -/
def aesBox : List Nat :=
  [0xC072A49CAFA2D4ADF04759FA7DC982CA76ABD7FE2B670130C56F6BF27B777C63,
    0x75B227EBE28012079A059618C323C7041531D871F1E5A534CCF73F362693FDB7,
    0xCF584C4A39BECB6A5BB1FC20ED00D153842FE329B3D63B52A05A6E1B1A2C8309,
    0xD2F3FF1021DAB6BCF5389D928F40A351A89F3C507F02F94585334D43FBAAEFD0,
    0xDB0B5EDE14B8EE4688902A22DC4F816073195D643D7EA7C41744975FEC130CCD,
    0x08AE7A65EAF4566CA94ED58D6D37C8E779E4959162ACD3C25C2406490A3A32E0,
    0x9E1DC186B95735610EF6034866B53E708A8BBD4B1F74DDE8C6B4A61C2E2578BA,
    0x16BB54B00F2D99416842E6BF0D89A18CDF2855CEE9871E9B948ED9691198F8E1]

/-- Its inverse. -/
def aesInv : List Nat :=
  [0xCBE9DEC444438E3487FF2F9B8239E37CFBD7F3819EA340BF38A53630D56A0952,
    0x25D18B6D49A25B76B224D92866A12E084EC3FA420B954CEE3D23C2A632947B54,
    0x849D8DA75746155EDAB9EDFD5048706C92B6655DCC5CA4D41698688664F6F872,
    0x6B8A130103BDAFC1020F3FCA8F1E2CD00645B3B80558E4F70AD3BC8C00ABD890,
    0x6EDF751CE837F9E28535ADE72274AC9673E6B4F0CECFF297EADC674F4111913A,
    0xF45ACD78FEC0DB9A2079D2C64B3E56FC1BBE18AA0E62B76F89C5291D711AF147,
    0xEF9CC9939F7AE52D0D4AB519A97F51605FEC8027591012B131C7078833A8DD1F,
    0x7D0C2155631469E126D677BA7E042B17619953833CBBEBC8B0F52AAE4D3BE0A0]

def aesSub (t : List Nat) (x : Nat) : Nat := (t.getD (x / 32) 0 >>> (8 * (x % 32))) % 256

/-- The product of a byte and a factor below 16 in the field of AES; `n` bounds the factor's bits. -/
def aesMul : Nat → Nat → Nat → Nat
  | 0, _, _ => 0
  | n + 1, a, k => (if k % 2 = 1 then a else 0) ^^^ aesMul n ((2 * a) ^^^ (if 128 ≤ a then 0x11B else 0)) (k / 2)

def xorNats (a b : List Nat) : List Nat := (a.zip b).map fun x => x.1 ^^^ x.2

/-- A column mixed with the four factors of its first row. -/
def aesMix (f : List Nat) (c : List Nat) : List Nat :=
  (List.range 4).map fun r => (List.range 4).foldl (fun v j => v ^^^ aesMul 4 (c.getD j 0) (f.getD ((j + 4 - r) % 4) 0)) 0

def aesMixAll (f : List Nat) (s : List Nat) : List Nat :=
  (List.range 4).flatMap fun c => aesMix f ((s.drop (4 * c)).take 4)

/-- The 60 words of the key schedule, newest first: from the eight of the key to word i. -/
def aesExpand : Nat → Nat → List (List Nat) → List (List Nat)
  | 0, _, ws => ws
  | n + 1, i, ws =>
    let p := ws.headD []
    let t := if i % 8 = 0 then xorNats ((p.drop 1 ++ p.take 1).map (aesSub aesBox)) [2 ^ (i / 8 - 1), 0, 0, 0]
      else if i % 8 = 4 then p.map (aesSub aesBox) else p
    evalNats (xorNats (ws.getD 7 []) t) fun w => aesExpand n (i + 1) (w :: ws)

def nats4 : Nat → List Nat → List (List Nat)
  | 0, _ => []
  | n + 1, l => l.take 4 :: nats4 n (l.drop 4)

/-- The 15 round keys of a 32-byte key. -/
def aesKeys (key : List Byte) : List (List Nat) :=
  let ws := (aesExpand 52 8 (nats4 8 (key.map BitVec.toNat)).reverse).reverse
  (List.range 15).map fun r => ((ws.drop (4 * r)).take 4).flatten

/-- Substitution and row shift of a round, and their inverse. -/
def aesShift (s : List Nat) : List Nat :=
  (List.range 16).map fun i => aesSub aesBox (s.getD (i % 4 + 4 * ((i / 4 + i % 4) % 4)) 0)
def aesUnshift (s : List Nat) : List Nat :=
  (List.range 16).map fun i => aesSub aesInv (s.getD (i % 4 + 4 * ((i / 4 + 4 - i % 4) % 4)) 0)

/-- Rounds 1 to 14 under their keys; the last mixes no columns. -/
def aesRounds : List (List Nat) → List Nat → List Nat
  | [], s => s
  | [k], s => xorNats (aesShift s) k
  | k :: ks, s => evalNats (xorNats (aesMixAll [2, 3, 1, 1] (aesShift s)) k) fun t => aesRounds ks t

/-- The rounds undone, their keys in falling order. -/
def aesUnrounds : List (List Nat) → List Nat → List Nat
  | [], s => s
  | [k], s => xorNats (aesUnshift s) k
  | k :: ks, s => evalNats (aesMixAll [14, 11, 13, 9] (xorNats (aesUnshift s) k)) fun t => aesUnrounds ks t

/-- One block under a 32-byte key, as numbers. -/
def aesEncrypt (key : List Byte) (b : List Nat) : List Nat :=
  let ks := aesKeys key
  aesRounds (ks.drop 1) (xorNats b (ks.headD []))
def aesDecrypt (key : List Byte) (b : List Nat) : List Nat :=
  let ks := (aesKeys key).reverse
  aesUnrounds (ks.drop 1) (xorNats b (ks.headD []))

/-- The mask of block j: the encrypted tweak times x to the power j, over the polynomial of IEEE 1619. -/
def xtsAlpha : Nat → Nat → Nat
  | 0, t => t
  | n + 1, t => forceNat ((2 * t) % 2 ^ 128 ^^^ (if 2 ^ 127 ≤ t then 0x87 else 0)) fun u => xtsAlpha n u

def xtsMask (key : List Byte) (unit j : Nat) : List Nat :=
  let t := (aesEncrypt (key.drop 32) ((leBytes 16 unit).map BitVec.toNat)).map (BitVec.ofNat 8)
  (leBytes 16 (xtsAlpha j (leNat t))).map BitVec.toNat

/-- Block j of a data unit under a 64-byte key, encrypted and decrypted (R278): 16 bytes. -/
def xtsEncrypt (key : List Byte) (unit j : Nat) (b : List Byte) : List Byte :=
  evalNats (xtsMask key unit j) fun m =>
    (xorNats (aesEncrypt (key.take 32) (xorNats (b.map BitVec.toNat) m)) m).map (BitVec.ofNat 8)
def xtsDecrypt (key : List Byte) (unit j : Nat) (b : List Byte) : List Byte :=
  evalNats (xtsMask key unit j) fun m =>
    (xorNats (aesDecrypt (key.take 32) (xorNats (b.map BitVec.toNat) m)) m).map (BitVec.ofNat 8)

end Sys2Proof.Machine
end

