-- ==== Sys2Proof/Machine/Operands.lean ====
section
/-! DEFINITION. The operand forms: the fields of the five slots of a bundle (Tables CORE-3, CORE-5, CORE-6, CORE-8),
of a drain step (Table NUM-3) and of a descriptor (Table TILE-2). -/

namespace Sys2Proof.Machine

open Sys2Proof

/-- Fields of an A or B slot below the opcode. -/
def abRd (f : BitVec 40) : Nat := (f.extractLsb' 34 6).toNat
def abRa (f : BitVec 40) : Nat := (f.extractLsb' 28 6).toNat
def abRb (f : BitVec 40) : Nat := (f.extractLsb' 22 6).toNat
/-- The reserved bits [21:0] of a register form. -/
def abReserved (f : BitVec 40) : Bool := f.extractLsb' 0 22 = 0#22
/-- The 28-bit signed immediate. -/
def abImm (f : BitVec 40) : Word := (f.extractLsb' 0 28).signExtend 32

/-- Fields of the M slot below the opcode. -/
def mHandle (f : BitVec 56) : Nat := (f.extractLsb' 52 4).toNat
def mNumber (f : BitVec 56) : Nat := (f.extractLsb' 41 11).toNat
def mFence (f : BitVec 56) : Nat := (f.extractLsb' 37 4).toNat
def mGp (f : BitVec 56) : Nat := (f.extractLsb' 31 6).toNat
def mReserved (f : BitVec 56) : Bool := f.extractLsb' 0 31 = 0#31

/-- Fields of the V slot below the opcode. -/
def vG (f : BitVec 48) : Nat := (f.extractLsb' 42 6).toNat
def vN (f : BitVec 48) : Nat := (f.extractLsb' 38 4).toNat
def vMask (f : BitVec 48) : Nat := (f.extractLsb' 30 8).toNat
def vReserved (f : BitVec 48) : Bool := f.extractLsb' 20 10 = 0#10
def vImm (f : BitVec 48) : BitVec 20 := f.extractLsb' 0 20

/-- Fields of the K slot below the opcode. -/
def kGa (f : BitVec 32) : Nat := (f.extractLsb' 26 6).toNat
def kGb (f : BitVec 32) : Nat := (f.extractLsb' 20 6).toNat
def kFence (f : BitVec 32) : Nat := (f.extractLsb' 16 4).toNat
def kImm (f : BitVec 32) : Nat := (f.extractLsb' 0 16).toNat
/-- A branch target has bits [15:13] zero. -/
def kTargetOk (f : BitVec 32) : Bool := f.extractLsb' 13 3 = 0#3
def kTarget (f : BitVec 32) : Nat := (f.extractLsb' 0 13).toNat

/-- The clusters of a mask, ascending. -/
def maskClusters (m : Nat) : List Nat := (List.range 8).filter m.testBit

/-- A shift count is bits [4:0] of the operand (R125, R140). -/
def shiftCount (w : Word) : Nat := w.toNat % 32

/-- The 64-bit value g(p+1):g(p) (R128, R132). -/
def pairValue (lo hi : Word) : Nat := lo.toNat + hi.toNat * 4294967296

/-- Bits [hi:lo] of a 64-bit drain step, as a number (Table NUM-3). -/
def stepBits (w : BitVec 64) (lo n : Nat) : Nat := (w.toNat >>> lo) % 2 ^ n

end Sys2Proof.Machine
end

