-- ==== Sys2Proof/Machine/Flags.lean ====
section
/-! DEFINITION. Flag computations: the result record flags of Table FRAME-4, comparison results of the control core and
the pips, the CLIP and SUS marks of conversions, and the rounding and saturation rules whose saturation marks an element. -/

namespace Sys2Proof.Machine

open Sys2Proof

/-- Positions in the flags word of a result record (Table FRAME-4). -/
abbrev flLate : Nat := 0
abbrev flTierChg : Nat := 1
abbrev flAngleLag : Nat := 2
abbrev flAngleDrop : Nat := 3
abbrev flAngleStall : Nat := 4
abbrev flSyncMiss : Nat := 5
abbrev flHoldover : Nat := 6
abbrev flTickSwitch : Nat := 7
abbrev flFault : Nat := 8
abbrev flClip : Nat := 9
abbrev flSus : Nat := 10
abbrev flNoBound : Nat := 11
abbrev flPooled : Nat := 12
abbrev flSkipped : Nat := 13

/-- A flags word from its bits. -/
def flagWord (bits : List (Nat × Bool)) : Nat := bits.foldl (fun w b => if b.2 then w ||| (1 <<< b.1) else w) 0

/-- Signed and unsigned comparison of two registers as 1 or 0 (R125, R140). -/
def sltWord (a b : Word) : Word := if a.slt b then 1 else 0
def sltuWord (a b : Word) : Word := if a.ult b then 1 else 0
def minWord (a b : Word) : Word := if a.slt b then a else b
def maxWord (a b : Word) : Word := if a.slt b then b else a

/-- rshr(x, s): a shift right that rounds half up (R102). -/
def rshr (x : Int) (s : Nat) : Int := if s = 0 then x else Int.shiftRight (x + 2 ^ (s - 1)) s

/-- sat_n(x): the signed n-bit range (R102). -/
def satn (n : Nat) (x : Int) : Int := max (-(2 ^ (n - 1) : Int)) (min (2 ^ (n - 1) - 1) x)

/-- Limit to a range. -/
def clampI (lo hi x : Int) : Int := max lo (min hi x)

/-- Nearest integer to a / b, halves rounded up (R42 says nearest; log 41). -/
def roundDiv (a : Int) (b : Nat) : Int := Int.fdiv (2 * a + b) (2 * b)

/-- An ADC code of a reading and its LSB, in the same unit, with the conversion's error, and whether it clipped (R42, R43,
R45). -/
def adcCode (num : Int) (lsb : Nat) (err : Int) : Int × Bool :=
  let c := roundDiv num lsb + err
  (clampI (-256) 255 c, decide (c < -256 ∨ 255 < c))

/-- The LSB of a range setting in product units (Table POD-3). -/
def rangeLsb (r : Nat) : Nat := if r = 0 then 16 else if r = 1 then 64 else if r = 2 then 256 else 1024

/-- The SUS marks of one ADC's sequence of 16 conversions from their CLIP marks: each clip marks the next conversion of
the sequence (R43, Table POD-4). -/
def susMarks (clips : List Bool) : List Bool := (false :: clips).take clips.length

end Sys2Proof.Machine
end

