-- ==== Sys2Proof/Config.lean ====
section
/-! DEFINITION. What the spec leaves open: constants without a body, so that nothing can be proved of their values.
A meaning that needs an open value applies one of them to the counter State.free and advances the counter (log 2). -/

namespace Sys2Proof

/-- A natural number the spec does not fix: a nonce, a signature, a value read from a unit whose registers it does not
give (R370, R377, R378). -/
opaque Config.freeNat : Nat → Nat

/-- An integer the spec does not fix: the read noise and residual analogue error of one conversion, in codes (R45). -/
opaque Config.freeInt : Nat → Int

/-- A 32-bit value the spec does not fix: a register written twice in one cycle by slots that R135 does not order. -/
opaque Config.freeWord : Nat → Word

/-- A shift of a column reading by die temperature, in 1/1,000 product unit, before the bound of R4 limits it. -/
opaque Config.tempShift : Nat → Int

/-- The swing of the die temperature within a frame's window, in quarter degrees (R4). -/
opaque Config.tempSwing : Nat → Nat

/-- What the drift coefficient of a pod programmed at a time adds to its least value, before the limits of R47. -/
opaque Config.driftCoeff : Nat → Nat → Nat

/-- The 64 check bits of a digital row's 256 bytes: the spec names a BCH code and no polynomial (R50). -/
opaque Config.bch : List Byte → Nat

/-- The next state of a cluster's 32-bit LFSR: the spec gives it no polynomial (R343). -/
opaque Config.lfsr : Word → Word

/-- The fixed calibration vectors: the sign of row r in vector v (R66). -/
opaque Config.calVector : Nat → Nat → Int

/-- The voltage of a rail at an instant, as the husk's monitor measures it: rail 2·d + j for the first and second rail of
domain d (0x2410:03 and :04). -/
opaque Config.railVolt : Nat → Nat → Nat

/-- The ballast share of the core-rail power over the second that ends at an instant, mW (R345, 0x2462:03). -/
opaque Config.ballastPower : Nat → Nat

/-- The fixed group delay of a channel's filter chain at a rate code, ns (R183, 0x2800:0C): the spec gives none. -/
opaque Config.groupDelay : Nat → Nat → Nat

/-- The text of the running firmware's version, byte i of 16, by its version number (0x100A:00): the spec gives no form. -/
opaque Config.versionText : Nat → Nat → Nat

/-- The free bytes of the vault after a number of writes to it (0x2020:02): the spec gives the vault's size and not what each of its
partitions takes. -/
opaque Config.vaultFree : Nat → Nat

end Sys2Proof
end

