-- ==== Sys2Proof/Machine/State.lean ====
section
/-! DEFINITION. The state of the block as plain data, the reasons a step can stop, and the machine right after reset.
Every scalar entry of the object dictionary, commanded, effective or counter, is a register of the register file
`od`, where an unlisted register reads 0; the other fields hold what the spec gives the machine beside the dictionary. Each field's docstring names the
file and rule that give it and its reset value. -/

namespace Sys2Proof.Machine

/-- Reasons for which the block stops for good. The spec names none: every error is an answer, a record, a reset or a
shutdown, so no meaning raises the one constructor that stands here. -/
inductive Fault where
  /-- Raised by no meaning; safe. Kept so that the type is not empty. -/
  | stuck
  deriving DecidableEq, Repr

/-- Reasons for which a command has no meaning. -/
inductive Refusal where
  /-- Raised by an arm of exec whose command has no meaning yet; safe: nothing can be proved about what it does. -/
  | notModelled (mnemonic : String)
  deriving DecidableEq, Repr

/-- The power states of Table POWER-2. -/
inductive PowerState where
  | off | sprout | run | doze | hold | safe
  deriving DecidableEq, Repr

/-- The kinds of reset of Table SPROUT-3. -/
inductive ResetKind where
  | powerOn | restart | warm
  deriving DecidableEq, Repr

/-- Where a frame stands (R22): no frame yet, INTAKE, the clear or the body of window w, between windows, PUBLISH, KEEP. -/
inductive Phase where
  | idle | intake | clear (w : Nat) | window (w : Nat) | gap (w : Nat) | publish | keep
  deriving DecidableEq, Repr

/-- Effects that R2 or a chapter holds to a frame boundary and that no register's commanded value carries. -/
inductive BoundaryOp where
  | revokeCtx (ctx : Nat) (byQueue : Option (Nat × Nat × Nat))
  | freeCtx (ctx : Nat) (byQueue : Option (Nat × Nat × Nat))
  | revokeParty (p : Nat)
  | ungrant (handle : Nat)
  | unload
  | portClear (u : Nat)
  | dom (key : Nat) (data : List Byte)
  | allotPages (p : Nat)
  | planKey (p keyId : Nat) (pub : List Byte) (counter : Bool)
  | sak (p dir an keyId : Nat)
  | lifecycle (v : Nat)
  | debug (v : Nat)
  | consolidate (h obj : Nat)
  | mirrors (data : List Byte)
  | clearPod (pod : Nat)
  | clearGate (c : Nat) (heat : Bool)
  deriving DecidableEq, Repr

/-- An effect waiting for the boundary that starts frame `due` or a later one. -/
structure Staged where
  /-- the frame at which the effect comes into force (01 R2, 11 R241) -/
  due : Nat
  /-- what comes into force -/
  op : BoundaryOp
  deriving DecidableEq, Repr

/-- What the device sends to the outside. -/
inductive OutMsg where
  /-- a Maelelo response: party, port, class, opcode, sequence, RETRY, status, load, credit, data (R218, R219, R302) -/
  | resp (party port cls opcode seq : Nat) (retry : Bool) (status load credit : Nat) (data : List Byte)
  /-- a RECORD message of a stream with its sequence: offset, total length, record bytes; on CAN FD one segment with its CAN-ID
  (R34, R222, R225) -/
  | record (party port stream seq : Nat) (bytes : List Byte)
  /-- an event sent to a party: opcode, event sequence, status, payload (R223) -/
  | event (party port opcode seq status : Nat) (payload : List Byte)
  /-- an answer to a Neighbor Solicitation, an echo request or ARP inside a party's channel (R204, R206) -/
  | ipAnswer (party port : Nat) (proto : RxProto) (data : List Byte)
  /-- an event on CAN FD: CAN-ID, the 8-byte header and payload (R225) -/
  | canEvent (party id : Nat) (bytes : List Byte)
  /-- an answer to DISCOVER on a port (R221) -/
  | discover (port : Nat) (data : List Byte)
  /-- a USDO answer to a CAN node: abort code, or 0 and the data of an expedited answer, of a segment, or the length of a segmented
  upload (R11, R224, R238) -/
  | usdo (node abort : Nat) (data : List Byte)
  /-- the heartbeat or boot-up message on CAN FD (R224) -/
  | canHeartbeat (bootUp : Bool)
  /-- bytes driven on the board port after the opcode and dummies (R417) -/
  | board (bytes : List Byte)
  /-- what a debugger read through the debug port (R378) -/
  | debugData (value : Nat)
  /-- a FENCE_READ poll of a mirror's source through the bound party's channel (R272) -/
  | mirrorPoll (party : Nat) (handle : Nat)
  deriving DecidableEq, Repr

/-- A fault record (Table INTEG-2). -/
structure FaultRec where
  /-- class, 8 bits (15 Table INTEG-2, offset 0) -/
  cls : Nat
  /-- cause, 8 bits (Table INTEG-2) -/
  cause : Nat
  /-- unit code, 16 bits (Table INTEG-2, Table SCOPE-6) -/
  unit : Nat
  /-- party whose operation was affected, 0x80 none, 8 bits (Table INTEG-2) -/
  party : Nat
  /-- PERMANENT, FENCED, RETIRED, HOLD, 8 bits (Table INTEG-2) -/
  flags : Nat
  /-- context, 12 bits; 0xFFFF none (Table INTEG-2) -/
  ctx : Nat
  /-- descriptor, 16 bits (Table INTEG-2) -/
  desc : Nat
  /-- tile number, 16 bits (Table INTEG-2) -/
  tile : Nat
  /-- frame number, 48 bits (Table INTEG-2) -/
  frame : Nat
  /-- time since the tick, 320 ns, 16 bits (Table INTEG-2) -/
  tickOff : Nat
  /-- real-time clock, s, 32 bits (Table INTEG-2) -/
  wall : Nat
  /-- hottest die sensor, 0.25 °C, 16 bits signed (Table INTEG-2) -/
  temp : Int
  /-- first rail of the unit's domain, mV, 16 bits (Table INTEG-2) -/
  volt : Nat
  /-- detail, 32 bits (Tables INTEG-2, INTEG-3) -/
  detail : Nat
  deriving DecidableEq, Repr

/-- An incident of a unit history (Table INTEG-4). -/
structure Incident where
  /-- operating time at which it began, s (15 R318, Table INTEG-4) -/
  start : Nat
  /-- class of its first record (Table INTEG-4) -/
  cls : Nat
  /-- cause of its first record (Table INTEG-4) -/
  cause : Nat
  /-- records counted into it (Table INTEG-4) -/
  count : Nat
  deriving DecidableEq, Repr

/-- A unit history (R318 to R321, Table INTEG-4). -/
structure UnitHist where
  /-- unit code (Table INTEG-4) -/
  unit : Nat
  /-- the unit is permanent (15 R320) -/
  permanent : Bool
  /-- the unit is retired (15 R320, 02 R58) -/
  retired : Bool
  /-- records of the unit (Table INTEG-4) -/
  records : Nat
  /-- incidents of the unit (15 R319, Table INTEG-4) -/
  incidents : Nat
  /-- the last four incidents, oldest first (Table INTEG-4) -/
  lastFour : List Incident
  /-- the last fault record (Table INTEG-4) -/
  last : Option FaultRec
  deriving DecidableEq, Repr

/-- A shutdown record (Table POWER-8). -/
structure ShutdownRec where
  /-- 1 orderly, 2 hard, 3 orderly raised in HOLD (Table POWER-8) -/
  kind : Nat
  /-- the sensor that reached the threshold (Table POWER-8) -/
  sensor : Nat
  /-- highest reading seen, 0.25 °C (Table POWER-8) -/
  tj : Int
  /-- real-time clock, s (Table POWER-8) -/
  wall : Nat
  /-- frame number (Table POWER-8) -/
  frame : Nat
  /-- ladder step (Table POWER-8) -/
  step : Nat
  /-- tier (Table POWER-8) -/
  tier : Nat
  /-- power state at detection (Table POWER-8) -/
  state : Nat
  /-- effective ballast (Table POWER-8) -/
  ballast : Nat
  /-- COMP core rail, mV (Table POWER-8) -/
  volt : Nat
  /-- hard shutdowns of the last 24 h (Table POWER-8) -/
  restarts : Nat
  deriving DecidableEq, Repr

/-- Time, resets, rails: what the husk and the sprout hold. -/
structure Husk where
  /-- device time since power-on, ns (10 R216 time base before gPTP; reset 0) -/
  now : Nat
  /-- offset of the gPTP time base from `now`, ns (10 R217; reset 0) -/
  timeOff : Int
  /-- real-time clock, ns (12 R251 0x24C0:01, 19 R393; reset 0, log 3) -/
  rtc : Nat
  /-- how far writes have set the real-time clock ahead of the time that has passed, ns (02 R47 counts the latter; the model's
  own; reset 0) -/
  rtcShift : Int
  /-- operating time while CTRL is powered, ns (15 Unit history, R318; reset 0) -/
  oper : Nat
  /-- HUSK supply present (16 R328; reset true) -/
  supply : Bool
  /-- input power as PFAIL tells it (17 R355; reset true) -/
  inputOk : Bool
  /-- when input power was last lost or restored, ns (17 R355; reset none) -/
  pfailAt : Option Nat
  /-- NRST is low (19 R392; reset false) -/
  nrstLow : Bool
  /-- the crystal has stopped: every clock outside the husk halts (21 R430; reset false) -/
  xtalStopped : Bool
  /-- a warm reset is held until HOLD ends (19 R392; reset false) -/
  resetHeld : Bool
  /-- the power state (16 Table POWER-2, 0x2400:02; reset SPROUT) -/
  power : PowerState
  /-- the sprout stage running, 0 to 7 (19 R385; reset 0) -/
  stage : Nat
  /-- in recovery: both firmware slots failed (19 R387; reset false) -/
  recovery : Bool
  /-- the kind of the reset that started this sprout (19 R392; reset powerOn) -/
  kind : ResetKind
  /-- DRAM has been trained in this sprout or kept in self-refresh (19 R398; reset false) -/
  dramOk : Bool
  /-- rail enables in the order of R427, true is high (21 R427; reset all low) -/
  rails : List Bool
  /-- last rail that failed, 0 to 6, 15 none (21 R418; reset 15) -/
  failedRail : Nat
  /-- failed attempts since the last POWER_ON, at most 15 (21 R418; reset 0) -/
  railFails : Nat
  /-- attempts of the present stage RAILS that failed (21 R429; reset 0) -/
  railAttempts : Nat
  /-- when the next attempt is due, ns (21 R429; reset none) -/
  railRetryAt : Option Nat
  /-- the restoring of R397 is due: the sprout, or one that it follows without a frame between, is a RESTART or a POWER_ON
  (19 R397, R398; reset true) -/
  coldDue : Bool
  /-- the last stop was a HOLD stop under R361 (19 R397; reset false) -/
  lastStopHold : Bool
  /-- real-time clock seconds of the hard shutdowns of the last 24 h (16 R340; reset empty) -/
  hardTimes : List Nat
  /-- stays in OFF until the HUSK supply is removed (16 R340; reset false) -/
  lockedOff : Bool
  /-- a hard shutdown whose HARD record the next sprout raises (16 R340; reset none) -/
  hardPending : Option FaultRec
  /-- the MEM_UE record of an uncorrectable error latched in the husk (15 R323; reset none) -/
  uePending : Option FaultRec
  /-- the party whose read met it, 0x80 for the device's own; latched with it (15 Table INTEG-5; reset 0x80) -/
  ueRequester : Nat
  /-- the last latched cause that a sprout has written to the vault: record and requester (15 R323; reset none) -/
  ueCause : Option (FaultRec × Nat)
  /-- the physical line of that error, which becomes chaff at sprout (15 R323; reset none) -/
  ueLine : Option Nat
  /-- HOLD_STOP records in the vault for the next sprout (17 R361, 19 R397; reset empty) -/
  stopPending : List FaultRec
  /-- the vault's ring of shutdown records, oldest first, at most 32 (16 R341; reset empty) -/
  shutdowns : List ShutdownRec
  /-- the last vault save: real-time clock, operating time, pod epoch, calibration epoch (19 R394; reset 0) -/
  saved : Nat × Nat × Nat × Nat
  /-- when the last save was made, ns (19 R394; reset 0) -/
  savedAt : Nat
  /-- when the logic is reset after a warm trigger, ns: 2 µs after it (15 Table INTEG-5, 19 R392; reset none) -/
  resetAt : Option Nat
  /-- time at which a held OFF device fell to 100 °C or below, or SAFE fell below it (16 R339, R340; reset none) -/
  coolSince : Option Nat
  /-- when the running power-up of SENSE and COMP completes, ns (16 R326; reset none) -/
  powerUpAt : List (Option Nat)
  /-- when the orderly shutdown reaches SAFE, ns (16 Table POWER-7; reset none) -/
  safeAt : Option Nat
  /-- the shutdown record of that orderly shutdown, as of its detection, with the highest reading seen since (16 R341; reset
  none) -/
  safeRec : Option ShutdownRec
  /-- the N1_ROLE strap as last sampled (21 R433; reset false) -/
  strap : Bool
  /-- the pins of the device are driven: HRDY is high (19 R388, 21 R423; reset false) -/
  hrdy : Bool
  deriving DecidableEq, Repr

/-- The die sensors and the throttle ladder (16). -/
structure Thermal where
  /-- the 16 die readings, 0.25 °C, as last converted (R331; reset 100, 25 °C, log 3) -/
  readings : List Int
  /-- sensors in service (R332; reset all) -/
  inService : List Bool
  /-- since when each sensor has differed by more than 15 °C (R332; reset none) -/
  apart : List (Option Nat)
  /-- time of the last reading, ns (R331; reset 0) -/
  readAt : Nat
  /-- time of the last step decision, ns (R335; reset none) -/
  stepAt : Option Nat
  /-- since when Tj has been below 110 °C (R335; reset none) -/
  coolSince : Option Nat
  /-- the step decided for the next boundary (R335; reset 7) -/
  stagedStep : Nat
  /-- the warning is armed (R333; reset true) -/
  warnArmed : Bool
  /-- consecutive readings with Tj at 130 °C or above (R338; reset 0) -/
  above130 : Nat
  /-- since when Tj has been at 125 °C or above with the step 0 (R337; reset none) -/
  gateSince : Option Nat
  /-- clusters gated for heat, effective (R337; reset none gated) -/
  gated : List Bool
  /-- clusters whose thermal gate waits for the next boundary (R337; reset none) -/
  gateNext : List Bool
  deriving DecidableEq, Repr

/-- A keep-region record (Table HOLD-2) with its snapshot and its copy in the vault. -/
structure KeepRegion where
  /-- party whose region it is (17 R358, Table HOLD-2) -/
  party : Nat
  /-- keep state (17 Table HOLD-2, R358, R359) -/
  state : Nat
  /-- context (Table HOLD-2) -/
  ctx : Nat
  /-- length, bytes (Table HOLD-2) -/
  length : Nat
  /-- virtual address (Table HOLD-2) -/
  addr : Nat
  /-- contents at the loss of input (17 R359; none before it) -/
  snap : List Byte
  /-- copy in the vault (17 R359; none before a copy) -/
  copy : List Byte
  deriving DecidableEq, Repr

/-- The hold-up store, its estimator and the HOLD sequence (17). -/
structure Store where
  /-- terminal voltage, mV (R348; reset 0, log 3) -/
  vTerm : Nat
  /-- current out of the store, mA (R348; reset 0) -/
  amps : Int
  /-- charge counter Q, in µC (R349; reset 0) -/
  q : Int
  /-- measured capacitance, mF; 0 until measured (R349; reset 0) -/
  cM : Nat
  /-- measured ESR, mΩ (R349; reset 0, log 3) -/
  esr : Nat
  /-- the charger is on (R347; reset true: stage HUSK enables it) -/
  charging : Bool
  /-- when the charger started, ns, and V_oc then, mV, and the charge delivered since, µC (R347, R352; reset 0) -/
  chargeFrom : Nat × Nat × Int
  /-- the CHARGE_TIMEOUT record of this charge is raised (R347; reset false) -/
  timeoutRaised : Bool
  /-- since when |I| has been below 2 mA, ns (R352; reset none) -/
  restSince : Option Nat
  /-- the last anchor: Q, µC, and V_oc, mV (R352; reset 0) -/
  anchor : Int × Nat
  /-- operating instant of the last clean reference, ns of `now` (R353; reset 0) -/
  cleanAt : Nat
  /-- when the next reference pulse is due, ns (R353; reset 72 h) -/
  pulseDue : Nat
  /-- the running pulse's start, ns, and whether the charger was on (R353; reset none) -/
  pulse : Option (Nat × Bool)
  /-- STORE_LOW stands (R352; reset false) -/
  lowRaised : Bool
  /-- when the evaluation was last made, ns (R349; reset 0) -/
  evalAt : Nat
  /-- when input power was lost, ns (R356; reset none) -/
  lostAt : Option Nat
  /-- time of the last sample, ns (R348; reset 0) -/
  sampleAt : Nat
  /-- the flush to the vault is running (R356; reset false) -/
  flushing : Bool
  /-- the fault records and highest readings flushed to the vault (R356; reset empty) -/
  flushed : List FaultRec
  /-- how many of its newest records were raised after the last clear of the log (12 R249; reset 0) -/
  flushedSince : Nat
  /-- the sensors' highest readings flushed (R356; reset empty) -/
  flushedHighs : List Int
  /-- the keep regions in copy order, at most 16 (R358; reset empty) -/
  regions : List KeepRegion
  /-- the region whose vault write is in progress and its start, ns (R359; reset none) -/
  copying : Option (Nat × Nat)
  /-- the keep regions of this loss have been snapshot (R359; reset false) -/
  snapped : Bool
  /-- an uncorrectable DRAM error in this HOLD: the stop is due (15 R324; reset false) -/
  ueStop : Bool
  /-- the keep copy has ended in this HOLD (R361; reset false) -/
  copyDone : Bool
  /-- verdict of the hold-up pip: stop requested, skip mask (R364; reset none) -/
  verdict : Bool × Nat
  /-- events that wait for the hold-up pip to be idle (R364; reset empty, log 80) -/
  events : List Nat
  /-- the hold-up pip image of the vault (07 Table PIP-4, R364; reset none) -/
  image : Option PipImage
  /-- the PIP_STOP record of this HOLD is raised (R364; reset false) -/
  pipRaised : Bool
  /-- input power came back in HOLD and the device waits to return (R362; reset false) -/
  returning : Bool
  deriving DecidableEq, Repr

/-- The frame timer and the present frame (01). -/
structure Frame where
  /-- frames run (R385, Table POWER-2; reset false) -/
  running : Bool
  /-- number of the present frame (R35; reset 0) -/
  number : Nat
  /-- start of the present frame, ns (R17; reset 0) -/
  start : Nat
  /-- the frame's start in the device time base, ns (Table FRAME-3; reset 0) -/
  tickTime : Nat
  /-- where the frame stands (R22; reset idle) -/
  phase : Phase
  /-- result record flags [7:0] known at the frame's start and those found since (Table FRAME-4; reset 0) -/
  flags : BitVec 16
  /-- ANGLE lag, 0.1 µs, saturating (Table FRAME-3; reset 0) -/
  lag : Nat
  /-- net edge count at the frame's angle event (Table FRAME-3; reset 0) -/
  angle : Int
  /-- the pending angle event: instant, count, whether an older event was dropped for it (R20; reset none) -/
  pending : Option (Nat × Int × Bool)
  /-- SYNC_IN frames run without an accepted edge (R19; reset false) -/
  syncMissing : Bool
  /-- consecutive overruns of each segment (R28; reset 0) -/
  overruns : List Nat
  /-- segments that overran in the present frame, bit s (R26; reset 0) -/
  overrun : Nat
  /-- segments whose records carry LATE in this frame, bit s (Table FRAME-4; reset 0) -/
  late : Nat
  /-- segments whose records carry FAULT in this frame, bit s (Table FRAME-4; reset 0) -/
  fault : Nat
  /-- segments whose records carry CLIP in this frame, bit s (Table FRAME-4; reset 0) -/
  clip : Nat
  /-- segments whose records carry SUS in this frame, bit s (Table FRAME-4; reset 0) -/
  sus : Nat
  /-- clusters whose work is withdrawn in this frame: fenced, out of service, permanent, gated or under test
  (R311, R320, R337, R405; reset 0) -/
  down : Nat
  /-- streams that have not yet sent a record under the present tier (R31; reset empty) -/
  tierStreams : List Nat
  /-- the tier change to announce in the next PUBLISH: old, new, ceiling (R31; reset none) -/
  tierEvent : Option (Nat × Nat × Nat)
  /-- the four ceilings as the last boundary left them (R31; reset T0) -/
  ceilWas : List Nat
  /-- effects waiting for a boundary (R2, R241; reset empty) -/
  staged : List Staged
  /-- the register file as it stood when KEEP began: what the next tick applies (R241; reset empty) -/
  keepOd : List (Nat × Nat)
  /-- the register file in force in this frame: commanded values read for effect come from here (R2, R37; reset empty) -/
  live : List (Nat × Nat)
  /-- party slots of KEEP served in this frame, bit p (R265; reset 0) -/
  slotsDone : Nat
  /-- KEEP tasks done in this frame: [0] task 2, [1] rotation slice, [2] BIST slice, [3] winnow (R32; reset 0) -/
  tasksDone : Nat
  /-- pairs that differed at the last boundary: commanded register, consecutive boundaries, those of them in a row with
  reason FENCED, DISAGREE raised (R243, R245; reset empty) -/
  differ : List (Nat × Nat × Nat × Bool)
  deriving DecidableEq, Repr

/-- One pod, beside its registers 0x3040 + 5c + k (02). -/
structure Pod where
  /-- programmed cell pairs: address row × 1,056 + column, byte [7:4] G+ and [3:0] G− level; unlisted 0 (R38; reset empty) -/
  cells : List (Nat × Nat)
  /-- digital segment bytes, row × 256 + column; unlisted 0 (R50; reset empty) -/
  digital : List (Nat × Nat)
  /-- range setting of each column group of a resident object, plus 1; unlisted 0 means that none is resident (R42, R303;
  reset empty) -/
  ranges : List (Nat × Nat)
  /-- recorded level-image hash, 0 none (R171, vault; reset 0) -/
  hash : Nat
  /-- the hash being programmed (R51; reset 0) -/
  target : Nat
  /-- slot whose content is or will be held while spare (R55; reset 0xFF) -/
  mirror : Nat
  /-- holds a new version of its slot, of an update group (R57; reset false) -/
  fresh : Bool
  /-- consecutive failed verifies (R52; reset 0) -/
  fails : Nat
  /-- batches verified of the running program, 0 to 17 (02 Edges; reset 0) -/
  batches : Nat
  /-- slices left of the running spare calibration (R66; reset 0) -/
  calLeft : Nat
  /-- retried pairs of the running spare calibration (R70; reset 0) -/
  calTries : Nat
  /-- drift reference codes of columns 1 to 15 over column 0, 1/64 code (R67, R68; reset empty; log 141) -/
  refs : List Nat
  /-- sums of the low-phase codes of reference columns 0 to 15 over the drift reads made (R68; reset empty) -/
  driftAcc : List Int
  /-- when its verify last passed, ns on a clock that no write sets (R47; reset 0, log 3) -/
  verifiedAt : Int
  /-- drift visits made towards the next ratio, 0 to 16 (R68; reset 0) -/
  visits : Nat
  /-- consecutive checked frames in which a CHECK record named the pod (R310; reset 0) -/
  namedRun : Nat
  /-- a CHECK record named the pod in the present frame (R310; reset false) -/
  named : Bool
  /-- the pod was checked in the present frame (R310; reset false) -/
  judged : Bool
  /-- MVM intervals in which the pod issued since the tick (R307; reset 0) -/
  mvms : Nat
  /-- number, counted from the tick, of the first interval after its last MVM (R60; reset 0) -/
  interval : Nat
  /-- number, counted from the tick and raised by one, of the last fetch slot in which a row was read (R60; reset 0) -/
  slotRead : Nat
  /-- ballast counter: filler MVMs applied to it (16 R343; reset 0) -/
  fillers : Nat
  /-- fenced by checking (R310; reset false) -/
  fenced : Bool
  /-- retired (R58; reset false) -/
  retired : Bool
  /-- it was fenced when it retired: its cluster stays down until the replacement swap (15 Edges; reset false) -/
  downUntilSwap : Bool
  /-- failed the scrub twice (18 R376; reset false) -/
  unscrubbed : Bool
  /-- a test of the outgoing pod is due before its programming (20 R401; reset false) -/
  testFirst : Bool
  deriving DecidableEq, Repr

/-- One cluster beside its registers (02, 07). -/
structure Cluster where
  /-- instant of the previous swap since sprout, ns (R55; reset none) -/
  prevSwap : Option Nat
  /-- when the next swap falls due, ns of `now` (R55; reset none) -/
  dueAt : Option Nat
  /-- a swap is due (R55; reset false) -/
  due : Bool
  /-- the Owner has written rotate-now (R56; reset false) -/
  now : Bool
  /-- the staged swap: slot (R56; reset none) -/
  staged : Option Nat
  /-- next target slot (R55; reset 0) -/
  next : Nat
  /-- rotation suspended until the next interval elapses (R52; reset false) -/
  suspended : Bool
  /-- a lift in progress: since, ns, and its slot (07 R152; reset none) -/
  lifting : Option (Nat × Nat)
  /-- the frame whose KEEP carries a lift or a set-down check in the cluster, and the slots whose serving pods are its sources
  (07 R152, R154; reset none) -/
  liftKeep : Option (Nat × List Nat)
  /-- the end of the rotation slice that runs in the cluster, ns: no MVM runs in its pods until then (02 R51; reset 0) -/
  sliceUntil : Nat
  /-- slots whose image runs from the shadow, ascending (07 R152; reset empty) -/
  shadow : List Nat
  /-- slots whose set-down check is pending, ascending (07 R154; reset empty) -/
  setDown : List Nat
  /-- slots whose set-down check has been made in the KEEP of a frame: frame, slots (07 R154; reset none) -/
  checked : Option (Nat × List Nat)
  /-- slots whose set-down check has passed, in place from the next tick on, ascending (07 R154; reset empty) -/
  landing : List Nat
  /-- slots whose in-place image has no source, ascending (07 R153, R155; reset empty) -/
  noSource : List Nat
  /-- slots of retiring pods whose lift failed, ascending (07 R155; reset empty) -/
  unlifted : List Nat
  /-- the block for which the engine stalls (02 R60, 07 R150; reset none) -/
  fetch : Option Nat
  /-- the block that a fetch slot has read and not yet delivered (R61; reset none) -/
  reading : Option Nat
  /-- blocks delivered and buffered, newest first, at most two (02 R60, 07 R150; reset empty) -/
  fetched : List Nat
  /-- the party whose work last used the cluster (18 R383; reset none) -/
  lastParty : Option Nat
  /-- its 32-bit LFSR, the source of filler input vectors (16 R343; reset 0, log 175) -/
  lfsr : Word
  deriving DecidableEq, Repr

/-- An update group (R57): what formed it, its requester, its members as (cluster, slot, hash), and what activates. -/
structure Group where
  /-- 0 load, 1 update, 2 consolidation (R57, 08 R171, R179, R180) -/
  kind : Nat
  /-- the party that asked (R57, 08 R179) -/
  party : Nat
  /-- the object whose weights change, of an update or consolidation (08 R179, R180) -/
  objId : Nat
  /-- its new level-image hash (08 R179) -/
  newHash : Nat
  /-- members: cluster, slot, hash (R57) -/
  members : List (Nat × Nat × Nat)
  deriving DecidableEq, Repr

/-- An item of a cluster's queue (R127). -/
inductive QItem where
  /-- an instruction that the walker has accepted (R88) -/
  | run (desc seg ctx : Nat) (bytes : List Byte)
  /-- an issue on its way to the walker, which it reaches in cycle `due` (R126, R134) -/
  | arriving (desc seg due : Nat) (bytes : List Byte)
  /-- an issue that the walker refused: it passes at its turn (R89) -/
  | refused
  | setLen (n v : Nat)
  | setByte (addr v : Nat)
  | setHalf (addr v : Nat)
  deriving DecidableEq, Repr

/-- An accumulator: its value, whether a CLIP or SUS partial went into it, and its residue mod 7 (04 R104, 05 R106). -/
structure Accum where
  /-- value, product units or head units (R104) -/
  x : Int
  /-- a marked partial went into it (R116) -/
  marked : Bool
  /-- stored residue, 0 to 6 (R106) -/
  res : Nat
  deriving DecidableEq, Repr

/-- The instruction a walker runs (04). -/
structure Running where
  /-- descriptor number (04 R86) -/
  desc : Nat
  /-- segment that issued it (R86) -/
  seg : Nat
  /-- context of its addresses (R86, Table TILE-2) -/
  ctx : Nat
  /-- its 64 bytes (Table TILE-2) -/
  bytes : List Byte
  /-- actual length read at the start, of B or of K (R90) -/
  len : Option Nat
  /-- next tile of this cluster's share (R94) -/
  next : Nat
  /-- the first tile beyond the share (R94) -/
  last : Nat
  /-- no tile may commit before this instant: the last commit plus the tile time (R87) -/
  ready : Nat
  /-- the committed tile and its instant (R93) -/
  tile : Option (Nat × Nat)
  /-- accumulators of the committed tile, one list for each vector (R44, R104) -/
  accs : List (List Accum)
  /-- the committed tile's input where run-ahead brought it in: each vector's bytes and whether it is tainted (R93) -/
  fetched : Option (List (List Byte × Bool))
  /-- inputs of the committed tile's vectors, kept for a head's learning step (R112) -/
  xs : List (List Int)
  /-- vectors of the committed tile whose input was tainted (R117) -/
  taint : List Nat
  /-- what each LENOUT step of the chain has noted, by its place among them (R115) -/
  lenOut : List (Nat × Int)
  /-- tiles of this cluster's share that completed (R146) -/
  did : Nat
  /-- the drain pip run of this instruction was started or skipped (R146, R147) -/
  ran : Bool
  /-- last tile done; waiting for the drain pip run or the completion (R146) -/
  done : Bool
  deriving DecidableEq, Repr

/-- A tile that a cluster's walker has prepared by run-ahead and that has not committed (04 R93). -/
structure Ahead where
  /-- the cluster (R93) -/
  cluster : Nat
  /-- party whose accounting the preparation appears in (R93) -/
  party : Nat
  /-- context of the instruction (R93) -/
  ctx : Nat
  /-- descriptor number of the instruction (R93) -/
  desc : Nat
  /-- job slot of a pooled tile (R95) -/
  job : Option Nat
  /-- tile number (R93, R95) -/
  tile : Nat
  /-- the prefetched input: each vector's bytes and whether it is tainted; none where no prefetch ran (R93) -/
  input : Option (List (List Byte × Bool))
  deriving DecidableEq, Repr

/-- One walker with its buffer, drain and length registers (04, 05). -/
structure Walker where
  /-- the cluster's queue in program order (R127; reset empty) -/
  queue : List QItem
  /-- the running instruction (R90; reset none) -/
  running : Option Running
  /-- a running pooled instruction: job slot (R95; reset none) -/
  job : Option Nat
  /-- L0 to L15 (R90; reset 0) -/
  lens : List Nat
  /-- activation buffer, canonical cells, unlisted 0 (R85; reset empty) -/
  buffer : List Host.Cell
  /-- buffer addresses whose validity bit is set, ascending (R117; reset empty) -/
  valid : List Nat
  /-- descriptor table: number, 64 bytes (R85; reset empty) -/
  descs : List (Nat × List Byte)
  /-- queue items issued since reset (06 R132; reset 0) -/
  issued : Nat
  /-- queue items completed or abandoned since reset (06 R132; reset 0) -/
  finished : Nat
  /-- registers of the banks: kind 0 scale, 1 bias, 2 activation tables; number; value (05 Drain chains; reset empty) -/
  banks : List (Nat × Nat × Int)
  deriving DecidableEq, Repr

/-- A pooled job slot beside its registers 0x3210 + j (04 R94 to R97). -/
structure Job where
  /-- descriptor number (04 R94; reset 0) -/
  desc : Nat
  /-- context of the job (R94; reset 0) -/
  ctx : Nat
  /-- the descriptor's 64 bytes (R94; reset empty) -/
  bytes : List Byte
  /-- the queue command that started it: context, queue, sequence -/
  cmd : Option (Nat × Nat × Nat)
  /-- saved counter in device-reserved DRAM (R97) -/
  saved : Nat
  /-- paused by the Owner or the owning party (R97) -/
  asked : Bool
  /-- actual length that each cluster read when it started on the job: cluster, length (R90) -/
  lens : List (Nat × Nat)
  deriving DecidableEq, Repr

/-- A learned head beside its registers 0x3310 + h (05 R111 to R113). -/
structure Head where
  /-- object (05 R111; reset 0) -/
  obj : Nat
  /-- owning party (R111; reset 0xFF) -/
  party : Nat
  /-- cluster that holds it (R111; reset 0) -/
  cluster : Nat
  /-- rows (R111; reset 0) -/
  K : Nat
  /-- columns (R111; reset 0) -/
  N : Nat
  /-- the plan allows learning (R111; reset false) -/
  learnOk : Bool
  /-- master weights, row by row (R111; reset empty) -/
  masters : List Int
  /-- the masters as the last boundary left them, which 0x3310:07 shows (R120; reset empty) -/
  shown : List Int
  /-- codes derived from the masters (R111; reset empty) -/
  codes : List Int
  /-- the mirror in device-reserved DRAM (19 R396) -/
  mirror : List Int
  /-- saved masters of an unloaded plan: object hash (08 R176) -/
  hash : Nat
  deriving DecidableEq, Repr

/-- A register write of the control core waiting for its latency (R134): due cycle, register, value, slot, issue cycle. -/
structure CoreWrite where
  /-- cycle in which it becomes visible (R134) -/
  due : Nat
  /-- register -/
  reg : Nat
  /-- value -/
  value : Word
  /-- slot that wrote it (R124) -/
  slot : Slot
  deriving DecidableEq, Repr

/-- A pending fence advance of the core (R128): fence table entry, value, the finish counts to wait for. -/
structure FadvItem where
  /-- segment -/
  seg : Nat
  /-- fence table entry -/
  fence : Nat
  /-- value -/
  value : Nat
  /-- finish counts to wait for, by cluster -/
  marks : List Nat
  deriving DecidableEq, Repr

/-- What the slots of the present bundle have staged (R124, R136). -/
structure Bundle where
  /-- register writes -/
  writes : List CoreWrite
  /-- writes of h registers -/
  handles : List (Nat × Nat)
  /-- the store, address and bytes -/
  store : Option (Nat × List Byte)
  /-- moves into cluster queues -/
  moves : List (Nat × QItem)
  /-- descriptors issued -/
  issues : List Nat
  /-- fence advances ordered -/
  fadvs : List (Nat × Nat)
  deriving DecidableEq, Repr

/-- A wait of the core (R132): for a time, for clusters, for a fence. -/
inductive Wait where
  | to (until_ : Nat)
  | clusters (mask : Nat) (marks : List Nat)
  /-- fence, value, limit from the tick, register, the instant of the next read, and the code that a read has given (R133) -/
  | fence (f value limit gb next : Nat) (seen : Option Nat)
  deriving DecidableEq, Repr

/-- The control core (06). -/
structure Core where
  /-- g0 to g63 (Table CORE-1; reset 0) -/
  regs : List Word
  /-- h0 to h15 (Table CORE-1; reset 0) -/
  handles : List Nat
  /-- bundle address, relative to the segment's code range (R122; reset 0) -/
  pc : Nat
  /-- cycles of 2.5 ns since the segment's entry (R121; reset 0) -/
  cycle : Nat
  /-- instant of the entry, ns (R123; reset 0) -/
  entry : Nat
  /-- the running segment (R123; reset none: frame firmware) -/
  seg : Option Nat
  /-- register writes not yet visible (R134; reset empty) -/
  writes : List CoreWrite
  /-- what the present bundle has staged (R124; reset empty) -/
  bundle : Bundle
  /-- the wait in progress (R132; reset none) -/
  wait : Option Wait
  /-- fence advances ordered and not performed, oldest first, at most 8 (R128; reset empty) -/
  fadvs : List FadvItem
  /-- data memory, absolute addresses, unlisted 0 (Table CORE-1; reset empty) -/
  dmem : List Host.Cell
  /-- data memory as the last boundary left it, which 0x4C40:0A shows (R139; reset empty) -/
  shown : List Host.Cell
  /-- descriptor numbers issued in this window (R136; reset empty) -/
  issued : List Nat
  /-- a stopped segment whose never issued outputs are still to be zeroed, and whether its window was cut (R136; reset none) -/
  zeroing : Option (Nat × Bool)
  /-- descriptor exceptions signalled to the segment in this window (Table CORE-7; reset 0) -/
  descExc : Nat
  /-- scalars of intake jobs: segment × 128 + job (R130, 09 R200; reset empty) -/
  scalars : List (Nat × Int)
  /-- which job wrote each scalar last: 64 × its start + its number (09 R200; reset empty) -/
  scalarBy : List (Nat × Nat)
  /-- delivered counts of intake jobs: segment × 128 + job (R130, 09 R200; reset empty) -/
  counts : List (Nat × Nat)
  deriving DecidableEq, Repr

/-- A pip engine (07 R140 to R150): engines 0-3 intake, 4-11 drain, 12 hold-up, 13 classifier. -/
structure Pip where
  /-- p0 to p15 (R140; reset 0) -/
  regs : List Word
  /-- instruction index (R140; reset 0) -/
  pc : Nat
  /-- instructions executed in this run (R142; reset 0) -/
  steps : Nat
  /-- cycles since the run's start (R141; reset 0) -/
  cycle : Nat
  /-- register writes not yet visible: due cycle, register, value (R141; reset empty) -/
  writes : List (Nat × Nat × Word)
  /-- a run is in progress (R140; reset false) -/
  running : Bool
  /-- stalled for a fetch of a block (R150; reset none) -/
  stall : Option Nat
  /-- start of the run, ns (R147; reset 0) -/
  start : Nat
  /-- the image under which the run executes (R144; reset none) -/
  image : Option PipImage
  /-- segment that the run serves (R146, 09 R197; reset 0) -/
  seg : Nat
  /-- intake job or descriptor that the run serves (R146, 09 R197; reset 0) -/
  item : Nat
  /-- certified run time, ns (R147; reset 0) -/
  limit : Nat
  /-- data SRAM, unlisted 0 (Table PIP-4; reset empty) -/
  data : List Host.Cell
  /-- input blocks of an intake run, message of a classifier run (09 R198, 10 R210; reset empty) -/
  input : List Byte
  /-- held writes to length registers, scalars or the count: index, value (R148, 09 R201; reset empty) -/
  held : List (Nat × Int)
  /-- a loaded buffer byte had its validity bit clear (R148; reset false) -/
  tainted : Bool
  /-- verdict word written by a hold-up or classifier run (10 R210, 17 R364; reset none) -/
  verdict : Option Word
  /-- outcome of the last run: 0 none, 1 halted, 2 stopped (R143; reset 0) -/
  ended : Nat
  deriving DecidableEq, Repr

/-- A pending load, update or consolidation (08 R170 to R181). -/
structure Pending where
  /-- 0 load, 1 update, 2 consolidation (R170, R179, R180) -/
  kind : Nat
  /-- the party that asked (R170) -/
  party : Nat
  /-- the context that holds the composition or the update image (R158, R179) -/
  ctx : Nat
  /-- the address of the update image (R179) -/
  addr : Nat
  /-- the plan of a load; its segment images from their verification on (R158, R160, R170) -/
  plan : Option PlanImage
  /-- the image of an update from its verification on, or of a consolidation from its snapshot on (R160, R179, R180) -/
  update : Option UpdateImage
  /-- the object a consolidation writes (R180) -/
  target : Nat
  /-- verified; programming or ready (Table LDR-6) -/
  verified : Bool
  /-- pods still to be programmed in BULK (R171) -/
  bulk : List (Nat × Nat)
  deriving DecidableEq, Repr

/-- The loader (08). -/
structure Loader where
  /-- the active plan, with its image copies in device-reserved DRAM (R160; reset none) -/
  plan : Option PlanImage
  /-- a plan reinstated or waiting for activation at a boundary (R173; reset false) -/
  pending : Option Pending
  /-- the update group (02 R57; reset none) -/
  group : Option Group
  /-- segments idle because their context is revoked, bit s (13 R275; reset 0) -/
  idleSegs : Nat
  deriving DecidableEq, Repr

/-- A sample in a channel's ring (09 R188, R191): sequence, instant, ready time, word. -/
structure Sample where
  /-- sequence number (R193) -/
  seq : Nat
  /-- sampling instant, ns (R188) -/
  instant : Nat
  /-- when it was ready, ns (R191) -/
  ready : Nat
  /-- the 32-bit sample word (Tables SENSE-2 to SENSE-4) -/
  word : BitVec 32
  deriving DecidableEq, Repr

/-- A mark of a Q block (09 R194): edge stamp and net count. -/
structure Mark where
  /-- sequence number -/
  seq : Nat
  /-- edge stamp, ns of device time -/
  stamp : Nat
  /-- net count -/
  count : Int
  deriving DecidableEq, Repr

/-- A channel of the sensor front end (09): V0-V7 = 0-7, E 8-11, T 12-15, Q 16-17. -/
structure Channel where
  /-- samples ready since the last cut, oldest first (R192; reset empty) -/
  ring : List Sample
  /-- sequence number of the next sample, counted from sprout (R193; reset 0) -/
  seq : Nat
  /-- sign and start of the running overload interval, ns (R189; reset none) -/
  ovl : Option (Bool × Nat)
  /-- SUS windows of this channel: from, to, ns (Table SENSE-5; reset empty) -/
  susWin : List (Nat × Nat)
  /-- OVR windows: from, to, ns, sign (Table SENSE-5; reset empty) -/
  ovrWin : List (Nat × Nat × Bool)
  /-- last instant at which the channel flagged OVR, ns (03 R71; reset none) -/
  lastOvr : Option Nat
  /-- V, E, T: instant and input-referred value, nV, of its latest samples, for the quietness detector (03 R71; reset empty) -/
  recent : List (Nat × Int)
  /-- a configuration change marks the next block (R184; reset false) -/
  changed : Bool
  /-- GAP is due in the next block (R192; reset false) -/
  gap : Bool
  /-- Q only: level of A (R187; reset low) -/
  lvlA : Bool
  /-- Q only: level of B (R187; reset low) -/
  lvlB : Bool
  /-- Q only: level at the ball A, before the glitch filter (R187; reset low) -/
  rawA : Bool
  /-- Q only: level at the ball B (R187; reset low) -/
  rawB : Bool
  /-- Q only: instants of the changes of A that have not passed the filter, ns, oldest first (R187; reset empty) -/
  pendA : List Nat
  /-- Q only: the same for B (R187; reset empty) -/
  pendB : List Nat
  /-- Q only: changes that have passed the filter and are not yet counted: first seen, levels of A and B (R187, Table SENSE-1;
  reset empty) -/
  edges : List (Nat × Bool × Bool)
  /-- Q only: marks since the last cut (R194; reset empty) -/
  marks : List Mark
  /-- samples of the block cut at the last tick (R193; reset empty) -/
  cut : List Sample
  /-- its marks (R194; reset empty) -/
  cutMarks : List Mark
  /-- its GAP flag (R192, R193; reset false) -/
  cutGap : Bool
  /-- its CONFIG_CHG flag (R184, R193; reset false) -/
  cutChg : Bool
  /-- the sample period of the block, 1/64 ns (R193; reset 0) -/
  cutPeriod : Nat
  /-- V only: recent changes of the PGA index: when, and the index before (R184; reset empty) -/
  pgaWas : List (Nat × Nat)
  /-- Q only: net count at the cut (R194; reset 0) -/
  cutCount : Int
  /-- Q only: error count at the cut (R194; reset 0) -/
  cutErrs : Nat
  /-- the tick of the last cut, ns (R192, R431; reset none) -/
  cutTick : Option Nat
  deriving DecidableEq, Repr

/-- A running AFE calibration attempt (03 Table CAL-3). -/
structure AfeCal where
  /-- channel (R71) -/
  ch : Nat
  /-- start, ns -/
  start : Nat
  /-- 0 settling, 1 zero, 2 gain, 3 post-check (Table CAL-3) -/
  stage : Nat
  /-- PGA setting during it -/
  pga : Nat
  /-- the agreeing pair of zero measurements -/
  offs : Option (Int × Int)
  /-- the agreeing pair of gain measurements -/
  gain : Option (Int × Int)
  /-- repeats of the present pair (R70) -/
  tries : Nat
  /-- a channel of the group of four has flagged OVR between 0 and 2,000 µs (R72) -/
  ovr : Bool
  /-- the residuals of an attempt that has passed its post-check and takes effect at the next boundary: offset, gain
  (Table CAL-3) -/
  passed : Option (Int × Int)
  deriving DecidableEq, Repr

/-- The calibration service (03). Trim keys are unit × 4096 + index; group gains default to 16, every other code to 0. -/
structure Cal where
  /-- applied codes that differ from their default (R77; reset empty) -/
  applied : List (Nat × Int)
  /-- target codes that differ from their default (R77; reset empty) -/
  target : List (Nat × Int)
  /-- calibrated codes before compensation (R76; reset empty) -/
  calibrated : List (Nat × Int)
  /-- compensation components (R76; reset empty) -/
  comp : List (Nat × Int)
  /-- drift terms of the pods (R69; reset empty) -/
  drift : List (Nat × Int)
  /-- the vault's calibrated sets: unit, codes by index (R67, R80; reset empty) -/
  vault : List (Nat × List (Nat × Int))
  /-- the alternate copy of each set in the vault: the set written before the one in `vault` (R80, 03 Edges; reset empty) -/
  vaultAlt : List (Nat × List (Nat × Int))
  /-- the factory baseline: polynomials in 1/1000 code, unit, (c0, c1, c2, c3), sensor (R76; reset empty, log 3) -/
  poly : List (Nat × (Int × Int × Int × Int) × Nat)
  /-- AFE channels whose calibration is due while their mode is AUTO, bit i (R73; reset 0) -/
  afeDue : Nat
  /-- AFE channels whose calibration a write of calibrate-now has asked for, bit i (R73; reset 0) -/
  afeAsked : Nat
  /-- last successful calibration of each AFE channel: real-time clock s, sensor reading (R73; reset empty) -/
  afeLast : List (Nat × Nat × Int)
  /-- AFE channels calibrated since the sprout, bit i (R73; reset 0) -/
  afeSince : Nat
  /-- spans of SUS of ended attempts, in ns: channel, from, to (R71, 09 R190; reset empty) -/
  susSpans : List (Nat × Nat × Nat)
  /-- the attempt in progress (R71; reset none) -/
  afe : Option AfeCal
  /-- quietness detector readings, µV (R71; reset 0) -/
  quiet : List (Nat × Nat)
  /-- NOT_QUIET records already raised since the last success, bit i (R72; reset 0) -/
  quietRaised : Nat
  /-- pods whose full calibration was commanded (R66; reset empty) -/
  podDue : List Nat
  /-- the active pod whose turn of drift reads comes next (R68; reset 0) -/
  visit : Nat
  /-- trims applied at the next boundary without a ramp (R67; reset empty) -/
  atOnce : List (Nat × Int)
  /-- moves staged by KEEP for the next boundary (R78; reset empty) -/
  moves : List (Nat × Int)
  /-- the pod to become VERIFIED at the next boundary, with the set of its calibration, codes and drift reference, none after
  CAL_UNSTABLE (R67; reset none) -/
  verifyNext : Option (Nat × Option (List (Nat × Int) × List Nat))
  /-- gain trims that stand clamped and have their record, ascending keys (R65; reset empty) -/
  limited : List Nat
  /-- base gain and offset codes that their last calibration clamped, ascending keys (R65, Table CAL-4; reset empty) -/
  baseLimit : List Nat
  /-- each pod's quality status beside LIMIT: 0 FRESH, 2 UNSTABLE, 4 FACTORY; unlisted 4 (Table CAL-4; reset empty) -/
  quality : List (Nat × Nat)
  /-- when each reference was last measured since sprout, ns (R75; reset empty) -/
  refAt : List (Nat × Nat)
  /-- when the husk oscillator was last counted since sprout, ns (R75; reset none) -/
  oscAt : Option Nat
  /-- crystal error against gPTP time, 0.01 ppm (R75, Table CAL-4; reset 0) -/
  xtalErr : Int
  /-- group residuals of the pods, 0.001 LSB (R79, 0x3110:06; reset empty) -/
  resid : List (Nat × List Nat)
  deriving DecidableEq, Repr

/-- A MACsec secure association of a party (10 R208, 18 R369): key ID, state 1 active, 2 pending, 3 retired, packet number
and installation time, s. -/
structure Sa where
  /-- party -/
  party : Nat
  /-- transmit association -/
  tx : Bool
  /-- association number, 2 bits -/
  an : Nat
  /-- key ID, 32 bits -/
  keyId : Nat
  /-- 1 active, 2 pending, 3 retired -/
  state : Nat
  /-- next packet number, 32 bits -/
  pn : Nat
  /-- installation time, s -/
  at_ : Nat
  deriving DecidableEq, Repr

/-- A queued event (10 R223). -/
structure Event where
  /-- opcode (Table NET-5) -/
  opcode : Nat
  /-- event sequence, 32 bits -/
  seq : Nat
  /-- status -/
  status : Nat
  /-- payload -/
  payload : List Byte
  /-- when it was last sent, ns; none before -/
  sentAt : Option Nat
  /-- how often it was sent -/
  sends : Nat
  deriving DecidableEq, Repr

/-- A USDO transfer of a CAN client (11 R238). -/
structure Usdo where
  /-- CAN node -/
  node : Nat
  /-- index -/
  index : Nat
  /-- subindex -/
  sub : Nat
  /-- bytes downloaded so far, or those of an upload that are still to go -/
  data : List Byte
  /-- last segment, ns -/
  last : Nat
  /-- the transfer is an upload (11 R238) -/
  up : Bool
  deriving DecidableEq, Repr

/-- One party's side of the network (10). -/
structure PartyNet where
  /-- return address: port, IPv6 address, UDP port (R221; reset none) -/
  ret : Option (Nat × Nat × Nat)
  /-- highest request sequence used (R219; reset none) -/
  highest : Option Nat
  /-- requests in progress (R219; reset empty) -/
  progress : List Nat
  /-- remembered responses, newest first, at most 16 (R219; reset empty) -/
  remembered : List (Nat × OutMsg)
  /-- queued events, oldest first, at most 32 (R223; reset empty) -/
  events : List Event
  /-- next event sequence, from 1 (R223; reset 1) -/
  nextEvent : Nat
  /-- discarded events since the last EVENT_LOST (R223; reset 0) -/
  lost : Nat
  deriving DecidableEq, Repr

/-- Ports, identities, transport and time (10). -/
structure Net where
  /-- states of ports 0, 1 and 3 of Table SCOPE-6, as 0x3C00 + u:02; place 2, the internal port, stays 0, as its state follows
  CTRL's power (R204, R214; reset DOWN_ADMIN) -/
  ports : List Nat
  /-- what is kept for each of the 16 parties (R219, R221, R223) -/
  parties : List PartyNet
  /-- secure associations (18 Table SEC-2; reset empty) -/
  sas : List Sa
  /-- the associations with their packet numbers at the last vault save (19 R394; reset empty) -/
  savedSas : List Sa
  /-- last envelope counter accepted for each party (18 R369; reset empty) -/
  sakCounter : List (Nat × Nat)
  /-- messages waiting for the classifier: port, party, bytes, at most 32 (R210; reset empty) -/
  classQ : List (Nat × Nat × List Byte)
  /-- messages accepted for the services, in order, LOW after the party's ACCEPT messages (R210; reset empty) -/
  accepted : List (Nat × Nat × List Byte × Bool)
  /-- the classifier image of the vault (R209; reset none) -/
  classImage : Option PipImage
  /-- classifier counters (0x3C80:04; reset 0) -/
  classCounts : List (Nat × Nat)
  /-- PLCA is active (R213; reset false) -/
  plca : Bool
  /-- last BEACON seen, ns (R213; reset 0) -/
  beaconAt : Nat
  /-- sequence of each stream's records (R222; reset empty) -/
  streamSeq : List (Nat × Nat)
  /-- the first queue of N1 and N2: earliest start of its last datagram, that datagram's time, ns, and when it is empty at the
  latest, if bounded (R212; reset empty at 0) -/
  egress : List (Nat × Nat × Option Nat)
  /-- segments queued on CAN FD: stream, CAN-ID, frame (R225; reset empty) -/
  canQ : List (Nat × Nat × List Byte)
  /-- counts of the board port by the subindices of Table NET-8, which no entry shows (R206, R210, R221; reset 0) -/
  boardCounts : List (Nat × Nat)
  /-- gPTP: consecutive offsets within ±50 ns (R216; reset 0) -/
  good : Nat
  /-- gPTP: consecutive far offsets (R217; reset empty) -/
  far : List Int
  /-- last Sync, ns (R216; reset 0) -/
  syncAt : Nat
  /-- the sync interval of the time source, ns (R216; reset 31,250,000) -/
  syncEvery : Nat
  /-- last DISCOVER answer of each port, ns (R221; reset none) -/
  discAt : List (Option Nat)
  /-- last heartbeat, ns (R224; reset 0) -/
  beatAt : Nat
  /-- USDO transfers (11 R238; reset empty) -/
  usdo : List Usdo
  /-- since when each port has not been UP, ns: the retransmission timers rest (R215; reset none) -/
  downAt : List (Option Nat)
  /-- NMT commands ignored (R224); no entry shows it (reset 0) -/
  nmt : Nat
  /-- frames of each port to other addresses (R207); no entry shows them (reset 0) -/
  ipDrops : List Nat
  deriving DecidableEq, Repr

/-- A party's DOMAIN snapshot (11 R236). -/
structure Snapshot where
  /-- party -/
  party : Nat
  /-- entry -/
  key : Nat
  /-- bytes -/
  data : List Byte
  /-- last read, ns -/
  last : Nat
  deriving DecidableEq, Repr

/-- A party's staging area (11 R237). -/
structure Staging where
  /-- party -/
  party : Nat
  /-- entry -/
  key : Nat
  /-- declared length, bytes -/
  len : Nat
  /-- bytes so far -/
  data : List Byte
  /-- last write, ns -/
  last : Nat
  deriving DecidableEq, Repr

/-- The dictionary service (11). -/
structure Dict where
  /-- DOMAIN snapshots, one of each party (R236; reset empty) -/
  snaps : List Snapshot
  /-- DOMAIN staging areas, one of each party (R237; reset empty) -/
  stagings : List Staging
  /-- RWP writes whose vault commit is in progress: request, key, value, executed at (R232; reset empty) -/
  commits : List (Req × Nat × Nat × Nat)
  /-- RWP DOMAIN writes whose commit is in progress (R232; reset empty) -/
  domCommits : List (Req × Nat × List Byte × Nat)
  /-- when the commits of the last second were begun, ns (R233; reset empty) -/
  commitTimes : List Nat
  /-- restore-defaults is requested for the next sprout (R234; reset false) -/
  restore : Bool
  /-- the vault's RWP values, by key (R232; reset empty) -/
  vault : List (Nat × Nat)
  /-- the vault's RWP DOMAIN values, by key (R232; reset empty) -/
  vaultDoms : List (Nat × List Byte)
  /-- the other copy of each RWP value in the vault: the value committed before the one in `vault` (R232; reset empty) -/
  spare : List (Nat × Nat)
  /-- the other copy of each RWP DOMAIN value in the vault (R232; reset empty) -/
  spareDoms : List (Nat × List Byte)
  /-- live DOMAIN values held for their entries, by key (reset empty) -/
  doms : List (Nat × List Byte)
  /-- DOMAIN values in force, where they wait for a boundary: pod allotments, mirror table, trace handles (R241;
  reset empty) -/
  domsLive : List (Nat × List Byte)
  /-- accesses held until MEMORY ends during sprout: request, key, offset, arrived (19 R389; reset empty) -/
  held : List (Req × Nat × Nat × Nat)
  /-- the service processor is halted by a debugger (18 R378; reset false) -/
  halted : Bool
  deriving DecidableEq, Repr

/-- A queue of a context (13 R264). -/
structure Queue where
  /-- number, 0 to 15 (R260, R264) -/
  num : Nat
  /-- ring entries, a power of two (R264) -/
  entries : Nat
  /-- virtual address of the command ring (R264) -/
  cmdRing : Nat
  /-- virtual address of the completion ring (R264) -/
  cplRing : Nat
  /-- virtual address of the doorbell (R264) -/
  bell : Nat
  /-- commands produced, modulo 2³² (R264) -/
  prod : Nat
  /-- commands started, modulo 2³² (R264) -/
  started : Nat
  /-- commands completed, modulo 2³² (R264) -/
  completed : Nat
  /-- the command in execution, its 64 bytes (R264) -/
  cur : Option (List Byte)
  /-- producer indices ignored (R264) -/
  ignored : Nat
  deriving DecidableEq, Repr

/-- What a context used in one frame (Table HOST-7): MVM intervals, drain lane cycles, peak buffer use, pooled tiles and
commands completed, run-ahead tiles cancelled, overruns. -/
structure Usage where
  /-- frame number -/
  frame : Nat
  /-- MVM intervals -/
  mvms : Nat
  /-- drain lane cycles -/
  lanes : Nat
  /-- peak buffer use, bytes -/
  peak : Nat
  /-- pooled tiles completed -/
  tiles : Nat
  /-- commands completed -/
  cmds : Nat
  /-- run-ahead tiles cancelled -/
  cancelled : Nat
  /-- overruns -/
  overruns : Nat
  deriving DecidableEq, Repr

/-- A context (13 R260 to R263): pages as (virtual page, physical page, WRITE). -/
structure Ctx where
  /-- number, 16 bits (R260) -/
  num : Nat
  /-- owning party (R260) -/
  party : Nat
  /-- its revocation has begun (R275) -/
  revoking : Bool
  /-- mapped pages: virtual page, physical page, WRITE (R261) -/
  pages : List (Nat × Nat × Bool)
  /-- its queues (R264) -/
  queues : List Queue
  /-- it is resident (R263) -/
  resident : Bool
  /-- last use, ns (R263) -/
  lastUse : Nat
  /-- residency waits (Table HOST-7; reset 0) -/
  waits : Nat
  /-- what each frame in which it was active used, newest first, at most 4,096 (R274; reset empty) -/
  usage : List Usage
  /-- the frame in which it was created (R274) -/
  created : Nat
  deriving DecidableEq, Repr

/-- A registered fence (13 R268): registry index, generation, owner, context, address, physical word, value, and the
importing parties of its live handles. -/
structure Fence where
  /-- registry index -/
  idx : Nat
  /-- generation -/
  gen : Nat
  /-- owner -/
  party : Nat
  /-- context -/
  ctx : Nat
  /-- virtual address -/
  addr : Nat
  /-- physical address of its word -/
  phys : Nat
  /-- value, 64 bits -/
  value : Nat
  /-- importing parties of its live handles -/
  importers : List Nat
  /-- a mirror of another device's fence (R272) -/
  mirror : Bool
  deriving DecidableEq, Repr

/-- A FENCE_WAIT in execution (13 R270). -/
structure FWait where
  /-- context of the waiting command -/
  ctx : Nat
  /-- its queue -/
  queue : Nat
  /-- registry index of the fence -/
  fence : Nat
  /-- handle, 0 for an own fence -/
  handle : Nat
  /-- value waited for -/
  value : Nat
  /-- limit, ms; 0 none -/
  limit : Nat
  /-- start, ns -/
  started : Nat
  deriving DecidableEq, Repr

/-- A mirror record (Table HOST-6). -/
structure Mirror where
  /-- q, the party bound to the source device -/
  src : Nat
  /-- enabled -/
  enable : Bool
  /-- polling period, frames -/
  period : Nat
  /-- local party, which may wait on the mirror -/
  party : Nat
  /-- 0 OFF, 1 LIVE, 2 STALE, 3 REVOKED -/
  state : Nat
  /-- handle of the source's fence -/
  handle : Nat
  /-- the mirrored value -/
  value : Nat
  /-- registry entry of the local party that it holds -/
  fence : Nat
  /-- polls without an answer in a row (R273) -/
  missed : Nat
  /-- frame of the last poll -/
  polled : Nat
  /-- values read below the local one (R272) -/
  lower : Nat
  deriving DecidableEq, Repr

/-- A grant (14 R280). -/
structure Grant where
  /-- grant index -/
  idx : Nat
  /-- generation -/
  gen : Nat
  /-- granting party -/
  src : Nat
  /-- importing party -/
  importer : Nat
  /-- granting context -/
  ctx : Nat
  /-- virtual address of the first page -/
  addr : Nat
  /-- pages -/
  pages : Nat
  /-- WRITE is granted -/
  write : Bool
  /-- not ended -/
  live : Bool
  deriving DecidableEq, Repr

/-- A held line (14 R286): physical line, holder, the context or grant it was taken through, lease end, working value. -/
structure Hold where
  /-- physical line number -/
  line : Nat
  /-- holder -/
  party : Nat
  /-- context it was taken through -/
  ctx : Nat
  /-- grant it was taken through -/
  grant : Option Nat
  /-- lease end, ns of device time -/
  endAt : Nat
  /-- working value, 64 bytes -/
  work : List Byte
  deriving DecidableEq, Repr

/-- A party's token buckets (14 R300), in bytes and operations scaled by 10⁹ (ns of refill), and the last refill. -/
structure Bucket where
  /-- bytes × 10⁹ (reset 0) -/
  bytes : Int
  /-- operations × 10⁹ (reset 0) -/
  ops : Int
  /-- last refill, ns (reset 0) -/
  at_ : Nat
  deriving DecidableEq, Repr

/-- Output bytes in the pool that a result record carries a flag for (01 Table FRAME-4, 05 R116). -/
structure OutMark where
  /-- context of the output (05 R116) -/
  ctx : Nat
  /-- first byte in the context (R116) -/
  addr : Nat
  /-- bytes (R116) -/
  size : Nat
  /-- true: abandoned, LATE (01 R26, R27); false: clipped or poisoned, CLIP (05 R116) -/
  late : Bool
  deriving DecidableEq, Repr

/-- Output bytes that a pooled tile wrote (04 R96). -/
structure PooledOut where
  /-- context of the output -/
  ctx : Nat
  /-- first byte in the context -/
  addr : Nat
  /-- bytes -/
  size : Nat
  /-- the cluster that computed them -/
  cluster : Nat
  deriving DecidableEq, Repr

/-- Contexts, fences and the shared pool (13, 14). -/
structure Pool where
  /-- what the pool engine reads from the pool's pages once decrypted, physical addresses, unlisted 0; DRAM itself holds
  State.dramByte (R277, R278; reset empty) -/
  mem : List Host.Cell
  /-- pages whose zero mark is cleared, with the key under which DRAM holds them, ascending (R277, R278; reset empty) -/
  live : List (Nat × List Byte)
  /-- pages marked zero since they were last written: the key and the cells of the ciphertext that DRAM still holds, ascending
  (R277, R278; reset empty: trained DRAM is zero) -/
  left : List (Nat × List Byte × List Host.Cell)
  /-- bytes of pages marked zero that the debug port has written to DRAM, ascending (18 R379; reset empty) -/
  raw : List (Nat × Byte)
  /-- contexts (13 R260; reset empty) -/
  ctxs : List Ctx
  /-- output bytes that make a record LATE or CLIP until they are written again (01 R27, 05 R116; reset empty) -/
  marks : List OutMark
  /-- output bytes that pooled tiles wrote, until they are written again (04 R96; reset empty) -/
  pooled : List PooledOut
  /-- lines of the shared activation cache: set × 16 + way, 128-byte line (04 R99, R100; reset empty) -/
  cache : List (Nat × Nat)
  /-- when each context number above 15 was last freed, ns (13 R260; reset empty) -/
  freed : List (Nat × Nat)
  /-- the party that each context number last belonged to, where the context has been freed (13 R275; reset empty) -/
  former : List (Nat × Nat)
  /-- MVM intervals and drain lane cycles available to each party in a frame, from a frame number on, newest first (13 R274;
  reset empty) -/
  avail : List (Nat × List (Nat × Nat))
  /-- root contexts awaiting the Owner's next allotment write, bit p (13 R276; reset 0) -/
  noRoot : Nat
  /-- residency share of each party (13 R263; reset 0) -/
  shares : List Nat
  /-- registered fences (13 R268; reset empty) -/
  fences : List Fence
  /-- generation of each freed registry entry (13 R271; reset empty) -/
  gens : List (Nat × Nat)
  /-- fence waits in execution (13 R270; reset empty) -/
  waits : List FWait
  /-- mirror records in force (13 R272; reset empty) -/
  mirrors : List Mirror
  /-- grants (14 R280; reset empty) -/
  grants : List Grant
  /-- held lines (14 R286; reset empty) -/
  holds : List Hold
  /-- chaff lines, physical line numbers, ascending (R290; reset empty) -/
  chaff : List Nat
  /-- token buckets of the 16 parties (14 R300; reset empty buckets) -/
  buckets : List Bucket
  /-- last tick of the lease clock, ms of device time (R289; reset 0) -/
  leaseTick : Nat
  /-- requests waiting for residency: party, context, since (13 R263; reset empty) -/
  resWait : List (Nat × Nat × Nat)
  /-- handles of fences and grants that have been invalidated (13 R271, 14 R281; reset empty) -/
  dead : List Nat
  /-- pool traffic of the last second: instant, party, context, bytes (Table HOST-7; reset empty) -/
  traffic : List (Nat × Nat × Nat × Nat)
  /-- the queue that each party's KEEP slot served last: party, context × 4 + queue (13 R265; reset empty) -/
  turn : List (Nat × Nat)
  /-- page tokens for trace handles: context × 2²⁸ + virtual page, token (20 R414; reset empty) -/
  tokens : List (Nat × Nat)
  /-- the next page token of this sprout (20 R414; reset 1) -/
  nextToken : Nat
  /-- stops accepting new work after an uncorrectable error or shutdown (15 R323; reset false) -/
  closed : Bool
  deriving DecidableEq, Repr

/-- Fault log, histories, winnow (15). -/
structure Integ where
  /-- the fault log, oldest first, at most 8,192 (R316; reset empty) -/
  log : List FaultRec
  /-- records of the log raised since the last clear: how many of the newest (12 R249; reset 0) -/
  sinceClear : Nat
  /-- unit histories (R318; reset empty) -/
  hist : List UnitHist
  /-- records waiting for the next PUBLISH (R316; reset empty) -/
  toSend : List FaultRec
  /-- rate limits: key, frame or time of the last record (R136, R305, R322; reset empty) -/
  limits : List (Nat × Nat)
  /-- next line of the DRAM sweep (R312; reset 0) -/
  winnowLine : Nat
  /-- when the present pass of the DRAM sweep began, for its length; none before its first line (R312; reset none) -/
  winnowStart : Option Nat
  /-- no line is read before this instant, ns: 2 µs after the last one (R312; reset 0) -/
  winnowNext : Nat
  /-- next digital row visited by winnow (R313; reset 0) -/
  winnowRow : Nat
  /-- the pod at which winnow's vector checks go on (R313; reset 0) -/
  winnowPod : Nat
  /-- histories changed since the last KEEP (R321; reset empty) -/
  dirtyHist : List Nat
  /-- histories in the vault (R321; reset empty) -/
  vaultHist : List UnitHist
  deriving DecidableEq, Repr

/-- An installed plan key (18 R367). -/
structure PlanKey where
  /-- party -/
  party : Nat
  /-- key ID -/
  keyId : Nat
  /-- key slot -/
  slot : Nat
  /-- installation time, s -/
  at_ : Nat
  /-- public key, X then Y -/
  pub : List Byte
  deriving DecidableEq, Repr

/-- The pool key of a party (R278, R370). -/
structure PoolKey where
  /-- its 64 bytes; empty: the party has none -/
  key : List Byte
  /-- when it was made, s -/
  at_ : Nat
  deriving DecidableEq, Repr

/-- Lifecycle, keys, firmware slots and debug (18). -/
structure Sec where
  /-- lifecycle state (R374; reset 0 BLANK, log 4) -/
  lifecycle : Nat
  /-- counter of the last accepted lifecycle request (R375; reset 0, log 3) -/
  lcCounter : Nat
  /-- installed plan keys (R367; reset empty) -/
  planKeys : List PlanKey
  /-- pool keys by party (R370; reset none) -/
  poolKeys : List PoolKey
  /-- firmware slots: valid signature, security version, firmware version (R371; reset empty slots) -/
  slots : List (Option (Nat × Nat))
  /-- active firmware slot (R371; reset 0, log 4) -/
  active : Nat
  /-- slot activated for the next sprout (R373; reset none) -/
  activate : Option Nat
  /-- least security version that may boot (R373; reset 0, log 4) -/
  minVersion : Nat
  /-- a slot being written in the background: slot, security version, firmware version, when it ends, ns (R372; reset
  none) -/
  writing : Option (Nat × Nat × Nat × Nat)
  /-- debug state 0 CLOSED, 1 VENDOR, 2 OPEN (R377, R381; reset 0) -/
  debug : Nat
  /-- when the debug state took effect, ns (R381; reset 0) -/
  debugAt : Nat
  /-- the debug challenge that stands (R377; reset none) -/
  challenge : Option (List Byte)
  /-- counter that every debug response raises (R377; reset 0) -/
  dbgCounter : Nat
  /-- times of failed responses, ns (R377; reset empty) -/
  dbgFails : List Nat
  /-- scrub: 0 none or no longer complete, 1 DRAM, 2 pods, 3 erase, 4 complete, 5 ended with an unscrubbed pod (R376;
  reset 0) -/
  scrub : Nat
  /-- next pod of the scrub's second stage (R376; reset 0) -/
  scrubPod : Nat
  /-- blocked debug reads and writes (R378; reset 0) -/
  blocked : Nat
  /-- engines that a debugger halted (R378; reset empty) -/
  halted : List Nat
  deriving DecidableEq, Repr

/-- A running cluster test (20 R400). -/
structure ClusterTest where
  /-- cluster -/
  cluster : Nat
  /-- 0 logic BIST, 1 march, 2 reload, 3 waits for the boundary -/
  stage : Nat
  /-- it runs under a down variant (R405) -/
  down : Bool
  /-- cause and detail of the first check that failed (Table TEST-2) -/
  failed : Option (Nat × Nat)
  /-- signature of the logic BIST (R402, Table TEST-2) -/
  signature : Nat
  /-- abandoned; its reload goes on (R406) -/
  abandoned : Bool
  deriving DecidableEq, Repr

/-- The test scheduler and trace router (20). -/
structure Test where
  /-- due units with their due time, s (R404; reset empty) -/
  due : List (Nat × Nat)
  /-- units reported overdue (R410; reset empty) -/
  overdue : List Nat
  /-- last completed test of each unit, s, in the vault (R403; reset empty) -/
  lastDone : List (Nat × Nat)
  /-- failed units and their retests: unit, operating s of the next, count (R409; reset empty) -/
  retest : List (Nat × Nat × Nat)
  /-- the cluster test in progress (R400, R405; reset none) -/
  cluster : Option ClusterTest
  /-- a cluster test staged for the next boundary: cluster, down variant used (R405; reset none) -/
  staged : Option (Nat × Bool)
  /-- the slice-based test in progress: unit, slices done, detail of a failed histogram check (R400, R401; reset none) -/
  slice : Option (Nat × Nat × Option Nat)
  /-- trace in force: party, ring address, size, filter, next sequence (R411; reset empty) -/
  trace : List (Nat × Nat × Nat × Nat × Nat)
  deriving DecidableEq, Repr

/-- The board port (21). -/
structure Board where
  /-- inbound mailbox (R419; reset empty) -/
  mailbox : Option (List Byte)
  /-- outbound queue, head first: kind 0 STREAM or EVENT, 1 response, 2 other; message (R421; reset empty) -/
  outq : List (Nat × List Byte)
  /-- responses waiting for room in the outbound queue (R421; reset empty) -/
  waiting : List (Nat × List Byte)
  /-- sticky PUT_LOST (R418, R419; reset false) -/
  putLost : Bool
  /-- sticky RESET_DENIED (R418, R422; reset false) -/
  resetDenied : Bool
  /-- sticky BAD_OP (R418; reset false) -/
  badOp : Bool
  /-- HELLO has set the board port as return address (R418; reset false) -/
  ret : Bool
  /-- messages dropped from the outbound queue (R421; reset 0) -/
  dropped : Nat
  /-- attention pulse in progress: its start, ns (R423; reset none) -/
  pulse : Option Nat
  deriving DecidableEq, Repr

/-- The state of the block. -/
structure State where
  /-- commands waiting, first in first out -/
  pending : List Instr
  /-- the object dictionary's scalar registers: key index × 256 + subindex, plus (party + 1) × 2²⁴ for a party's own
  share or selector; a register not listed holds 0 (11 R227, R228, R253; canonical; reset odReset) -/
  od : List (Nat × Nat)
  /-- time, resets and rails (16, 19, 21) -/
  husk : Husk
  /-- die sensors and throttle ladder (16) -/
  thermal : Thermal
  /-- hold-up store and HOLD sequence (17) -/
  store : Store
  /-- frame timer and present frame (01) -/
  frame : Frame
  /-- the 40 pods (02) -/
  pods : List Pod
  /-- the 8 clusters (02, 07) -/
  clusters : List Cluster
  /-- calibration service (03) -/
  cal : Cal
  /-- the 8 tile walkers (04, 05) -/
  walkers : List Walker
  /-- tiles prepared by run-ahead, at most one for each cluster (04 R93; reset empty) -/
  ahead : List Ahead
  /-- the 16 pooled job slots (04) -/
  jobs : List Job
  /-- the 16 learned heads (05) -/
  heads : List Head
  /-- the control core (06) -/
  core : Core
  /-- the 14 pip engines (07) -/
  pips : List Pip
  /-- the loader (08) -/
  loader : Loader
  /-- the 18 channels of the sensor front end (09) -/
  channels : List Channel
  /-- ports, identities, transport, time (10) -/
  net : Net
  /-- the dictionary service (11) -/
  dict : Dict
  /-- contexts, fences and the shared pool (13, 14) -/
  pool : Pool
  /-- fault log, histories, winnow (15) -/
  integ : Integ
  /-- security (18) -/
  sec : Sec
  /-- self-test and trace (20) -/
  test : Test
  /-- the board port (21) -/
  board : Board
  /-- counter of free values drawn; the model's own field -/
  free : Nat
  /-- everything sent to the outside, newest last -/
  out : List OutMsg
  deriving DecidableEq, Repr

/-- A pod before anything is known of it: nothing programmed. -/
def Pod.blank (mirror : Nat) : Pod :=
  { cells := [], digital := [], ranges := [], hash := 0, target := 0, mirror := mirror, fresh := false, fails := 0,
    batches := 0, calLeft := 0, calTries := 0, refs := [], driftAcc := [], verifiedAt := 0, visits := 0, namedRun := 0,
    named := false, judged := false, mvms := 0, interval := 0, slotRead := 0, fillers := 0,
    fenced := false, retired := false, downUntilSwap := false, unscrubbed := false, testFirst := false }

/-- A cluster after reset: spare at position 4, rotation from slot 0 (R55). -/
def Cluster.blank : Cluster :=
  { prevSwap := none, dueAt := none, due := false, now := false, staged := none, next := 0, suspended := false,
    lifting := none, liftKeep := none, sliceUntil := 0, shadow := [], setDown := [], checked := none, landing := [],
    noSource := [], unlifted := [], fetch := none, reading := none, fetched := [],
    lastParty := none, lfsr := 0 }

/-- A walker with nothing queued, its buffer zero and every validity bit clear (R24, R119). -/
def Walker.blank : Walker :=
  { queue := [], running := none, job := none, lens := List.replicate 16 0, buffer := [], valid := [], descs := [],
    issued := 0, finished := 0, banks := [] }

def Job.blank : Job := { desc := 0, ctx := 0, bytes := [], cmd := none, saved := 0, asked := false, lens := [] }

def Head.blank : Head :=
  { obj := 0, party := 0xFF, cluster := 0, K := 0, N := 0, learnOk := false, masters := [], shown := [], codes := [], mirror := [],
    hash := 0 }

def Bundle.blank : Bundle :=
  { writes := [], handles := [], store := none, moves := [], issues := [], fadvs := [] }

/-- The control core running frame firmware, every register zero (R123). -/
def Core.blank : Core :=
  { regs := List.replicate 64 0, handles := List.replicate 16 0, pc := 0, cycle := 0, entry := 0, seg := none,
    writes := [], bundle := Bundle.blank, wait := none, fadvs := [], dmem := [], shown := [], issued := [], zeroing := none,
    descExc := 0, scalars := [], scalarBy := [], counts := [] }

/-- A pip engine with no image (R140, R145). -/
def Pip.blank : Pip :=
  { regs := List.replicate 16 0, pc := 0, steps := 0, cycle := 0, writes := [], running := false, stall := none,
    start := 0, image := none, seg := 0, item := 0, limit := 0, data := [], input := [], held := [], tainted := false,
    verdict := none, ended := 0 }

def Channel.blank : Channel :=
  { ring := [], seq := 0, ovl := none, susWin := [], ovrWin := [], lastOvr := none, recent := [], changed := false, gap := false,
    lvlA := false, lvlB := false, rawA := false, rawB := false, pendA := [], pendB := [], edges := [], marks := [], cut := [],
    cutMarks := [],
    cutGap := false, cutChg := false, cutPeriod := 0, pgaWas := [], cutCount := 0, cutErrs := 0, cutTick := none }

def PartyNet.blank : PartyNet :=
  { ret := none, highest := none, progress := [], remembered := [], events := [], nextEvent := 1, lost := 0 }

def Bucket.blank : Bucket := { bytes := 0, ops := 0, at_ := 0 }

def Husk.reset : Husk :=
  { now := 0, timeOff := 0, rtc := 0, rtcShift := 0, oper := 0, supply := true, inputOk := true, pfailAt := none, nrstLow := false,
    xtalStopped := false, resetHeld := false, power := .sprout, stage := 0, recovery := false, kind := .powerOn,
    dramOk := false, rails := List.replicate 7 false, failedRail := 15, railFails := 0, railAttempts := 0,
    railRetryAt := none, coldDue := true, lastStopHold := false, hardTimes := [], lockedOff := false, hardPending := none,
    uePending := none, ueRequester := 0x80, ueCause := none, ueLine := none, stopPending := [], shutdowns := [],
    saved := (0, 0, 0, 0), savedAt := 0,
    resetAt := none, coolSince := none, powerUpAt := [none, none, none, none, none], safeAt := none, safeRec := none,
    strap := false, hrdy := false }

def Thermal.reset : Thermal :=
  { readings := List.replicate 16 100, inService := List.replicate 16 true, apart := List.replicate 16 none,
    readAt := 0, stepAt := none, coolSince := none, stagedStep := 7, warnArmed := true, above130 := 0,
    gateSince := none, gated := List.replicate 8 false, gateNext := List.replicate 8 false }

def Store.reset : Store :=
  { vTerm := 0, amps := 0, q := 0, cM := 0, esr := 0, charging := true, chargeFrom := (0, 0, 0),
    timeoutRaised := false, restSince := none, anchor := (0, 0), cleanAt := 0, pulseDue := 259200000000000,
    pulse := none, lowRaised := false, evalAt := 0, lostAt := none, sampleAt := 0, flushing := false, flushed := [], flushedSince := 0,
    flushedHighs := [], regions := [], copying := none, snapped := false, ueStop := false, copyDone := false,
    verdict := (false, 0), events := [],
    image := none, pipRaised := false,
    returning := false }

def Frame.reset : Frame :=
  { running := false, number := 0, start := 0, tickTime := 0, phase := .idle, flags := 0, lag := 0, angle := 0, pending := none,
    syncMissing := false, overruns := List.replicate 16 0, overrun := 0, late := 0, fault := 0,
    clip := 0, sus := 0, down := 0, tierStreams := [], tierEvent := none, ceilWas := [0, 0, 0, 0], staged := [],
    keepOd := [], live := [],
    slotsDone := 0, tasksDone := 0, differ := [] }

/-- The default assignment of Table POWER-5 with polynomials that are 0: pod references of clusters 0 to 7 follow their
cluster's sensor, the AFE references 12 and 13, the crystal's load trim 10, the husk oscillator 14 (16 R331). DESIGN CHOICE
(log 181): the coefficients of a factory baseline are a device's own, and those of a delivered vault are 0 here. -/
def defaultPolys : List (Nat × (Int × Int × Int × Int) × Nat) :=
  ((List.range 8).map fun c => (0xA000 + c, (0, 0, 0, 0), c)) ++
    [(0xA008, (0, 0, 0, 0), 12), (0xA009, (0, 0, 0, 0), 13), (0xA00A, (0, 0, 0, 0), 13), (0xB000, (0, 0, 0, 0), 14),
      (0xB001, (0, 0, 0, 0), 10)]

def Cal.reset : Cal :=
  { applied := [], target := [], calibrated := [], comp := [], drift := [], vault := [], vaultAlt := [], poly := defaultPolys,
    afeDue := 0, afeAsked := 0,
    afeLast := [], afeSince := 0, susSpans := [], afe := none, quiet := [], quietRaised := 0, podDue := [], visit := 0,
    atOnce := [], moves := [],
    verifyNext := none, limited := [], baseLimit := [], quality := [], refAt := [], oscAt := none, xtalErr := 0, resid := [] }

def Loader.reset : Loader := { plan := none, pending := none, group := none, idleSegs := 0 }

def Net.reset : Net :=
  { ports := [0, 0, 0, 0], parties := List.replicate 16 PartyNet.blank, sas := [], savedSas := [], sakCounter := [], classQ := [],
    accepted := [], classImage := none, classCounts := [], plca := false, beaconAt := 0, streamSeq := [],
    egress := [(0, 0, some 0), (0, 0, some 0)], canQ := [], boardCounts := [], good := 0, far := [], syncAt := 0,
    syncEvery := 31250000, discAt := [none, none, none, none, none],
    beatAt := 0, usdo := [], downAt := [none, none, none, none], nmt := 0, ipDrops := [0, 0, 0, 0] }

def Dict.reset : Dict :=
  { snaps := [], stagings := [], commits := [], domCommits := [], commitTimes := [], restore := false,
    vault := [], vaultDoms := [], spare := [], spareDoms := [], doms := [], domsLive := [], held := [], halted := false }

def Pool.reset : Pool :=
  { mem := [], live := [], left := [], raw := [], ctxs := [], marks := [], pooled := [], cache := [], freed := [], former := [],
    avail := [], noRoot := 0, shares := List.replicate 16 0, fences := [], gens := [], waits := [], mirrors := [],
    grants := [], holds := [], chaff := [], buckets := List.replicate 16 Bucket.blank,
    leaseTick := 0, resWait := [], dead := [], traffic := [], turn := [], tokens := [], nextToken := 1, closed := false }

def Integ.reset : Integ :=
  { log := [], sinceClear := 0, hist := [], toSend := [], limits := [], winnowLine := 0, winnowStart := none, winnowNext := 0,
    winnowRow := 0, winnowPod := 0, dirtyHist := [], vaultHist := [] }

def Sec.reset : Sec :=
  { lifecycle := 0, lcCounter := 0, planKeys := [], poolKeys := List.replicate 16 ⟨[], 0⟩, slots := [none, none],
    active := 0, activate := none, minVersion := 0, writing := none, debug := 0, debugAt := 0, challenge := none,
    dbgCounter := 0, dbgFails := [], scrub := 0, scrubPod := 0, blocked := 0, halted := [] }

def Test.reset : Test :=
  { due := [], overdue := [], lastDone := [], retest := [], cluster := none, staged := none, slice := none,
    trace := [] }

def Board.reset : Board :=
  { mailbox := none, outq := [], waiting := [], putLost := false, resetDenied := false, badOp := false, ret := false, dropped := 0,
    pulse := none }

/-- Registers that are not 0 right after a POWER_ON: both epochs, one above the saved value plus 2²⁰ (19 R394); the
highest reading since sprout of each sensor starts from the reading in force, 25 °C (16 R331; log 3). -/
def powerOnRegs (m : List (Nat × Nat)) : List (Nat × Nat) :=
  (List.range 17).foldl (fun m i => mset 0 m ((0x2440 + i) * 256 + 2) 100)
    (mset 0 (mset 0 (mset 0 m (0x2450 * 256 + 1) 100) 0x300000 1048577) 0x310003 1048577)

/-- The register file at reset: the tables' defaults, and the pods' roles. Pods at position 4 are the spares
(0x3010:02), IDLE and in no slot; every other pod k is active and serves slot k (02 Geometry; log 5). -/
def odReset : List (Nat × Nat) :=
  (List.range 40).foldl (fun m i =>
    let b := (0x3040 + i) * 256
    if i % 5 = 4 then mset 0 (mset 0 m (b + 1) 1) (b + 2) 0xFF
    else mset 0 (mset 0 m (b + 2) (i % 5)) (b + 3) 0xFF) ((List.range 8).foldl (fun m c =>
      mset 0 m ((0x3010 + c) * 256 + 1) 0x03020100) (powerOnRegs odDefaults))

/-- The machine right after a POWER_ON (R392): stage HUSK of the sprout, vault as delivered. -/
def State.reset : State :=
  { pending := [], od := odReset, husk := Husk.reset, thermal := Thermal.reset, store := Store.reset,
    frame := { Frame.reset with live := odReset },
    pods := (List.range 40).map fun i => Pod.blank (if i % 5 = 4 then 0 else 0xFF),
    clusters := List.replicate 8 Cluster.blank, cal := Cal.reset, walkers := List.replicate 8 Walker.blank, ahead := [],
    jobs := List.replicate 16 Job.blank, heads := List.replicate 16 Head.blank, core := Core.blank,
    pips := List.replicate 14 Pip.blank, loader := Loader.reset,
    channels := List.replicate 18 Channel.blank, net := Net.reset, dict := Dict.reset, pool := Pool.reset,
    integ := Integ.reset, sec := Sec.reset, test := Test.reset, board := Board.reset, free := 0, out := [] }

end Sys2Proof.Machine
end

