-- ==== Sys2Proof/Machine/Ops.lean ====
section
/-! DEFINITION. The named operations over the state that every family uses: registers of the dictionary, counters,
free values, time, boundaries, answers, events and fault records. -/

namespace Sys2Proof.Machine

open Sys2Proof

/-- Status codes of Table SCOPE-4. -/
abbrev stOk : Nat := 0x00
abbrev stNotReady : Nat := 0x01
abbrev stDenied : Nat := 0x02
abbrev stNoObject : Nat := 0x03
abbrev stBadType : Nat := 0x04
abbrev stRange : Nat := 0x05
abbrev stBusy : Nat := 0x06
abbrev stLimit : Nat := 0x07
abbrev stChaff : Nat := 0x08
abbrev stHeld : Nat := 0x09
abbrev stRevoked : Nat := 0x0A
abbrev stPlanRejected : Nat := 0x0B
abbrev stStale : Nat := 0x0C
abbrev stIntegrity : Nat := 0x0D
abbrev stThermal : Nat := 0x0E
abbrev stAborted : Nat := 0x0F
abbrev stNotQuiet : Nat := 0x10
abbrev stLate : Nat := 0x11

/-- Fault classes of Table SCOPE-5. -/
abbrev clsTiming : Nat := 0x01
abbrev clsAnalog : Nat := 0x02
abbrev clsCheck : Nat := 0x03
abbrev clsResidue : Nat := 0x04
abbrev clsMemCe : Nat := 0x05
abbrev clsMemUe : Nat := 0x06
abbrev clsThermal : Nat := 0x07
abbrev clsSupply : Nat := 0x08
abbrev clsNetwork : Nat := 0x09
abbrev clsCal : Nat := 0x0A
abbrev clsDisagree : Nat := 0x0B
abbrev clsTest : Nat := 0x0C

/-- Unit codes of Table SCOPE-6 (R14). -/
def unitCluster (c : Nat) : Nat := 0x1000 + c
def unitPod (i : Nat) : Nat := 0x2000 + i
def unitGroup (pod g : Nat) : Nat := if pod < 20 then 0x3000 + pod * 132 + g else 0x4000 + (pod - 20) * 132 + g
def unitAfe (i : Nat) : Nat := 0x5000 + i
def unitDomain (d : Nat) : Nat := 0x6000 + d
def unitPort (u : Nat) : Nat := 0x7000 + u
def unitPool (i : Nat) : Nat := 0x8000 + i

/-- The party field of a record that names no party (R314). -/
abbrev noParty : Nat := 0x80

/-! Registers -/

/-- A register of the dictionary (R227). -/
def State.reg (s : State) (k : Nat) : Nat := mget 0 s.od k

def State.setReg (s : State) (k v : Nat) : State := { s with od := mset 0 s.od k v }

/-- The last value accepted for a register: of an RWP write whose vault commit still runs, else the commanded value
(R232). -/
def State.asked (s : State) (k : Nat) : Nat :=
  match s.dict.commits.reverse.find? fun c => c.2.1 = k with
  | some c => c.2.2.1
  | none => s.reg k

/-- The value of a register in force in the present frame (R2, R37, R241). -/
def State.inForce (s : State) (k : Nat) : Nat := mget 0 s.frame.live k

/-- The key of a party's own share or selector of a register (R228, R253). -/
def pkey (p k : Nat) : Nat := k + (p + 1) * 16777216

/-- The key of element i of a counter that is a DOMAIN of several numbers (0x4C40:09, 0x3C80:04). -/
def part (i k : Nat) : Nat := k + (32 + i) * 16777216

/-- Raise a 32-bit counter. -/
def State.bump (s : State) (k : Nat) (n : Nat := 1) : State := s.setReg k ((s.reg k + n) % 4294967296)

/-- Raise a 64-bit counter. -/
def State.bump64 (s : State) (k : Nat) (n : Nat := 1) : State :=
  s.setReg k ((s.reg k + n) % 18446744073709551616)

/-- Raise a counter that is filtered by party: the device total and the party's share (R228). -/
def State.bumpFor (s : State) (p k : Nat) (n : Nat := 1) : State := (s.bump k n).bump (pkey p k) n

/-- A stored number read as a two's complement of `w` bits. -/
def signedOf (w v : Nat) : Int := (BitVec.ofNat w v).toInt

/-- An integer stored as a two's complement of `w` bits. -/
def unsignedOf (w : Nat) (i : Int) : Nat := (BitVec.ofInt w i).toNat

/-! Free values -/

/-- Draw an integer that nothing constrains. -/
def State.drawInt (s : State) : Int × State := (Config.freeInt s.free, { s with free := s.free + 1 })

def State.drawNat (s : State) : Nat × State := (Config.freeNat s.free, { s with free := s.free + 1 })

def State.drawWord (s : State) : Word × State := (Config.freeWord s.free, { s with free := s.free + 1 })

/-! Time -/

abbrev second : Nat := 1000000000

def State.now (s : State) : Nat := s.husk.now

/-- Real-time clock and operating time, s (R251, R318). -/
def State.rtc (s : State) : Nat := s.husk.rtc / second
def State.oper (s : State) : Nat := s.husk.oper / second

/-- Time since the tick, ns (R130). -/
def State.sinceTick (s : State) : Nat := s.now - s.frame.start

/-- Device time: the gPTP time base while synchronised (R216, 0x24C0:02). -/
def State.deviceTime (s : State) : Nat := ((s.now : Int) + s.husk.timeOff).toNat

/-- One nanosecond passes: what the block does when no command waits. A stopped crystal halts every clock outside the
husk, and the real-time clock runs on there (R430); without the HUSK supply nothing runs. -/
def State.passTime (s : State) : State :=
  if !s.husk.supply then s
  else if s.husk.xtalStopped then { s with husk := { s.husk with rtc := s.husk.rtc + 1 } }
  else
    { s with husk := { s.husk with
        now := s.husk.now + 1, rtc := s.husk.rtc + 1,
        oper := s.husk.oper + (if s.husk.power = .off then 0 else 1) } }

/-- The scrub is no longer complete: a page is mapped, a key installed or a plan loaded (R376). -/
def State.spoilScrub (s : State) : State := if s.sec.scrub = 4 then { s with sec := { s.sec with scrub := 0 } } else s

/-- The shell makes a new pool key for a party: 64 bytes from its random source, which nothing fixes (R370). -/
def State.newPoolKey (s : State) (p : Nat) : State :=
  let key := (List.range 64).map fun i => BitVec.ofNat 8 (Config.freeNat (s.free + i))
  { s with free := s.free + 64, sec := { s.sec with poolKeys := upd s.sec.poolKeys p fun _ => ⟨key, s.rtc⟩ } }

/-- The pool key of a party, empty where it has none. -/
def State.poolKey (s : State) (p : Nat) : List Byte := ((s.sec.poolKeys[p]?).map (·.key)).getD []

/-! Boundaries -/

/-- The frame at whose start an effect ordered now takes place (R241). -/
def State.dueFrame (s : State) : Nat :=
  if !s.frame.running then 0 else if s.frame.phase = .keep then s.frame.number + 2 else s.frame.number + 1

/-- Leave an effect for the boundary of R241. -/
def State.stage (s : State) (op : BoundaryOp) : State :=
  { s with frame := { s.frame with staged := s.frame.staged ++ [⟨s.dueFrame, op⟩] } }

/-- Leave an effect for the very next boundary: work of the device's own KEEP tasks (R32). -/
def State.stageNext (s : State) (op : BoundaryOp) : State :=
  { s with frame := { s.frame with staged := s.frame.staged ++ [⟨s.frame.number + 1, op⟩] } }

/-- Set bit `i` of a mask. -/
def setBit (m i : Nat) : Nat := m ||| (1 <<< i)

/-! Power and tier -/

/-- Frames run, so that commands of the frame act. -/
def State.active (s : State) : Bool := s.frame.running && !s.husk.xtalStopped

/-- The effective tier, ballast and tick source (0x4C09, 0x2462:02, 0x4C03). -/
def State.tier (s : State) : Nat := s.reg 0x4C0900
def State.ballast (s : State) : Nat := s.reg 0x246202
def State.source (s : State) : Nat := s.reg 0x4C0300

def powerCode : PowerState → Nat
  | .off => 0 | .sprout => 1 | .run => 2 | .doze => 3 | .hold => 4 | .safe => 5

/-- In HOLD. -/
def State.inHold (s : State) : Bool := s.husk.power = .hold

/-- The hottest reading among sensors in service (R331); all of them when none is in service (log 30). -/
def tjOf (rs : List Int) (ok : List Bool) : Int :=
  let vs := (rs.zip ok).filterMap fun (r, b) => if b then some r else none
  let vs := if vs.isEmpty then rs else vs
  vs.foldl max (vs.headD 0)

def State.tj (s : State) : Int := tjOf s.thermal.readings s.thermal.inService

/-! Parties and ports -/

/-- The role of a party: 2 Owner, 0 Operator, 1 Observer (R230, R256). -/
def State.role (s : State) (p : Nat) : Nat := if p = 0 then 2 else s.inForce (okey (0x3800 + p) 1)

/-- The binding kind in force: 0 none, 1 N1, 2 N2, 3 CAN FD, 4 board port; party 0 is on the board port in BLANK
(R205, R374). -/
def State.bindKind (s : State) (p : Nat) : Nat :=
  if s.sec.lifecycle = 0 then (if p = 0 then 4 else 0) else s.inForce (okey (0x3C30 + p) 1)

/-- The port unit of a binding kind (Table SCOPE-6). -/
def kindPort : Nat → Option Nat
  | 1 => some 0 | 2 => some 1 | 3 => some 3 | 4 => some 4 | _ => none

def State.portOf (s : State) (p : Nat) : Option Nat := kindPort (s.bindKind p)

/-- The party bound to the board port (R416); party 0 in recovery (R387). -/
def State.boardParty (s : State) : Option Nat :=
  if s.husk.recovery then some 0 else (List.range 16).find? fun p => s.bindKind p = 4

/-- Board-port transactions are served: from the end of stage FIRMWARE until a reset or OFF, and in recovery (R387 to
R389). -/
def State.boardServed (s : State) : Bool :=
  s.husk.supply && !s.husk.xtalStopped && s.husk.resetAt.isNone &&
    (s.husk.recovery ||
      (match s.husk.power with
       | .off => false
       | .sprout => decide (4 ≤ s.husk.stage)
       | _ => true))

/-- A port is UP (R214). -/
def State.portUp (s : State) (u : Nat) : Bool := if u = 4 then s.boardServed else s.net.ports.getD u 0 = 1

/-- The largest payload on a port (R211, R416). -/
def State.payloadLimit (s : State) (port : Nat) : Nat :=
  if port = 0 then 1436 else if port = 1 then s.inForce 0x3C1005 - 134 else if port = 4 then 4100 else 1436

/-- Change one party's network state. -/
def State.onNet (s : State) (p : Nat) (f : PartyNet → PartyNet) : State :=
  { s with net := { s.net with parties := upd s.net.parties p f } }

def State.pnet (s : State) (p : Nat) : PartyNet := s.net.parties.getD p PartyNet.blank

/-! Events (R223) -/

/-- The newest TIER_CHANGE takes the new tier and ceiling of a further one, and keeps its old tier. -/
def mergeTier (es : List Event) (payload : List Byte) : List Event :=
  match es.reverse with
  | [] => []
  | e :: rest => (({ e with payload := e.payload.take 1 ++ payload.drop 1 }) :: rest).reverse

/-- Drop the oldest event other than TIER_CHANGE. -/
def dropOldest : List Event → Option (List Event)
  | [] => none
  | e :: es => if e.opcode = 1 then (dropOldest es).map (e :: ·) else some es

/-- An event at the end of a queue. -/
def PartyNet.append (n : PartyNet) (op st : Nat) (payload : List Byte) : PartyNet :=
  { n with events := n.events ++ [⟨op, n.nextEvent, st, payload, none, 0⟩], nextEvent := n.nextEvent + 1 }

/-- An EVENT_LOST that has not been sent counts the discards so far. -/
def Event.unsentLost (e : Event) : Bool := e.opcode = 6 && e.sentAt.isNone
def PartyNet.lostQueued (n : PartyNet) : Bool := n.events.any Event.unsentLost

/-- Discards that no EVENT_LOST reports yet are reported as soon as there is room (log 167). -/
def PartyNet.reportLost (n : PartyNet) : PartyNet :=
  if n.lost = 0 || n.lostQueued || decide (32 ≤ n.events.length) then n else n.append 6 0 (leBytes 4 n.lost)

/-- Queue one event of a party: at most 32; when full the oldest other than TIER_CHANGE is discarded and EVENT_LOST is
queued or updated (R223). -/
def enqueue (n : PartyNet) (op st : Nat) (payload : List Byte) : PartyNet :=
  let n := n.reportLost
  if n.events.length < 32 then n.append op st payload
  else
    match dropOldest n.events with
    | none => if op = 1 then { n with events := mergeTier n.events payload } else { n with lost := n.lost + 1 }
    | some es =>
      let n := { n with events := es, lost := n.lost + 1 }
      if n.lostQueued then
        { n with events := es.map fun (e : Event) => if e.unsentLost then { e with payload := leBytes 4 n.lost } else e }.append
          op st payload
      else
        match dropOldest es with
        | none => n.append op st payload
        | some es' => ({ n with events := es', lost := n.lost + 1 }.append 6 0 (leBytes 4 (n.lost + 1))).append op st payload

/-- Queue an event to a party. -/
def State.event (s : State) (p op st : Nat) (payload : List Byte) : State := s.onNet p fun n => enqueue n op st payload

/-- Queue an event to every party. -/
def State.eventAll (s : State) (op : Nat) (payload : List Byte) : State :=
  (List.range 16).foldl (fun s p => s.event p op 0 payload) s

/-! Answers -/

/-- The bytes of a message: the header of Table NET-3 and its payload. -/
def msgBytes (cls op party flags seq status load credit : Nat) (data : List Byte) : List Byte :=
  leBytes 1 1 ++ leBytes 1 cls ++ leBytes 2 op ++ leBytes 1 party ++ leBytes 1 flags ++ leBytes 2 data.length ++
    leBytes 4 seq ++ leBytes 1 status ++ leBytes 1 load ++ leBytes 2 credit ++ data

/-- Bytes queued on the board port. -/
def outqBytes (q : List (Nat × List Byte)) : Nat := (q.map fun m => m.2.length).foldl (· + ·) 0

/-- Insert a message by its class: STREAM and EVENT first, then responses, then others, each in hand-over order (R421). -/
def outqInsert : List (Nat × List Byte) → Nat × List Byte → List (Nat × List Byte)
  | [], m => [m]
  | x :: xs, m => if m.1 < x.1 then m :: x :: xs else x :: outqInsert xs m

/-- The outbound queue fell from empty to non-empty: an attention pulse when HRDY is high (R423). -/
def State.attention (s : State) (wasEmpty : Bool) : State :=
  if wasEmpty && s.husk.hrdy then
    { s with husk := { s.husk with hrdy := false }, board := { s.board with pulse := some s.now } }
  else s

/-- Queue a message on the board port; false when it does not fit in 65,536 bytes (R421). -/
def State.boardPush (s : State) (kind : Nat) (bytes : List Byte) : Bool × State :=
  if outqBytes s.board.outq + bytes.length > 65536 then (false, s)
  else
    (true, State.attention { s with board := { s.board with outq := outqInsert s.board.outq (kind, bytes) } }
      s.board.outq.isEmpty)

/-- Raise a counter of a port of Table NET-8; those of the board port have no entry. -/
def State.portCount (s : State) (u sub : Nat) (n : Nat := 1) : State :=
  if u < 4 then s.bump (okey (0x3C00 + u) sub) n
  else { s with net := { s.net with boardCounts := mset 0 s.net.boardCounts sub (mget 0 s.net.boardCounts sub + n) } }

/-- A frame goes out on a port and is counted as sent (Table NET-8). On N2 under CSMA/CD a free number of collisions comes first;
16 of them drop it (R213). -/
def State.emitOn (s : State) (port : Nat) (m : OutMsg) : State :=
  if port = 1 && !s.net.plca then
    let (n, s) := s.drawNat
    let c := n % 17
    let s := s.portCount 1 0x15 c
    if c = 16 then s.portCount 1 0x1E else { s.portCount 1 0x11 with out := s.out ++ [m] }
  else { s.portCount port 0x11 with out := s.out ++ [m] }

/-- A frame to a party on an Ethernet port takes the next packet number of its transmit association: none when there is no
association or its numbers are used up. At 0xC000_0000 REKEY is queued to the party and to the Owner (R208). Another port
carries the message as it is. -/
def State.transmit (s : State) (p port : Nat) : Option State :=
  if port = 0 ∨ port = 1 then
    match s.net.sas.find? fun a => a.party = p && a.tx && a.state = 1 with
    | none => none
    | some a =>
      if 0xFFFFFFFF ≤ a.pn then none
      else
        let t : State := { s with net := { s.net with sas := s.net.sas.map fun b =>
          if b.party = p && b.tx && b.state = 1 then { b with pn := b.pn + 1 } else b } }
        if a.pn + 1 = 0xC0000000 then
          let pl := leBytes 1 p ++ leBytes 1 a.an ++ leBytes 2 0 ++ leBytes 4 (a.pn + 1)
          some ((if p = 0 then t else t.onNet p fun n => enqueue n 7 0 pl).onNet 0 fun n => enqueue n 7 0 pl)
        else some t
  else some s

/-- Send a response on its port: on the wire, or into the board port's queue, where it waits for room (R421). A response
that has no packet number left is dropped and counted (R208). -/
def State.sendResp (s : State) (m : OutMsg) : State :=
  match m with
  | .resp party port cls op seq retry st load credit data =>
    if port = 4 then
      let bytes := msgBytes cls op party (if retry then 5 else 1) seq st load credit data
      let q := s.boardPush 1 bytes
      if q.1 then q.2 else { q.2 with board := { q.2.board with waiting := q.2.board.waiting ++ [(1, bytes)] } }
    else if !s.portUp port then s
    else match s.transmit party port with
    | some t => t.emitOn port (.resp party port cls op seq retry st load credit data)
    | none => s.portCount port 0x1B
  | m => { s with out := s.out ++ [m] }

/-- A request is executed: it no longer waits for its service. -/
def State.taken (s : State) (r : Req) : State :=
  { s with net := { s.net with accepted := s.net.accepted.filter fun m =>
      !(m.1 = r.port && m.2.1 = r.party && field m.2.2.1 8 4 = r.seq) } }

/-- Answer a request: the response is sent, remembered among the last 16, and the request is no longer in progress
(R218, R219). -/
def State.respond (s : State) (r : Req) (cls op st load credit : Nat) (data : List Byte) : State :=
  let m := OutMsg.resp r.party r.port cls op r.seq false st load credit data
  ((s.taken r).onNet r.party fun n =>
    { n with progress := n.progress.filter (· ≠ r.seq), remembered := ((r.seq, m) :: n.remembered).take 16 }).sendResp m

/-- Answer a dictionary access (class OD). -/
def State.answer (s : State) (r : Req) (op st : Nat) (data : List Byte := []) : State := s.respond r 1 op st 0 0 data

/-! Fault records (R314 to R320) -/

/-- The power domain that holds a unit (Tables SCOPE-6, POWER-1). -/
def unitDom (u : Nat) : Nat :=
  let c := u / 4096
  if c = 5 then 2 else if c = 6 then u % 4096 else if c = 7 then 1
  else if c = 8 then (if u % 4096 = 2 then 3 else 4) else 3

/-- A rail voltage now, mV: a measured value (0x2410:03, :04). -/
def State.volt (s : State) (d j : Nat) : Nat := Config.railVolt (2 * d + j) s.now % 65536

/-- A record raised now, with the fields that do not apply all ones (R314). -/
def State.mkRec (s : State) (cls cause unit party detail : Nat) : FaultRec :=
  { cls := cls, cause := cause, unit := unit, party := party,
    flags := if s.inHold then 8 else 0, ctx := 0xFFFF, desc := 0xFFFF, tile := 0xFFFF,
    frame := if s.frame.running then s.frame.number % 281474976710656 else 0xFFFFFFFFFFFF,
    tickOff := if s.frame.running then s.sinceTick / 320 else 0xFFFF,
    wall := s.rtc % 4294967296, temp := s.tj, volt := s.volt (unitDom unit) 0, detail := detail }

/-- Whether a record counts in unit history (Table INTEG-3, R317). -/
def recCounts (r : FaultRec) : Bool :=
  match r.cls with
  | 0x02 => r.cause = 1 || r.cause = 3
  | 0x03 => r.cause = 1 || (r.cause = 2 && !r.detail.testBit 11) || r.cause = 6
  | 0x04 => true
  | 0x06 => true
  | 0x08 => true
  | 0x0A => r.cause = 1
  | 0x0C => true
  | _ => false

def UnitHist.blank (u : Nat) : UnitHist :=
  { unit := u, permanent := false, retired := false, records := 0, incidents := 0, lastFour := [], last := none }

/-- Count a record in a history at operating second `t` (R318, R319): join the open incident or open one; three
incidents within 3,600,000 s make the unit permanent. -/
def countIn (h : UnitHist) (r : FaultRec) (t : Nat) : UnitHist :=
  let h := { h with records := h.records + 1, last := some r }
  let opened : UnitHist :=
    { h with incidents := h.incidents + 1, lastFour := (⟨t, r.cls, r.cause, 1⟩ :: h.lastFour).take 4 }
  let judged : UnitHist :=
    { opened with permanent := opened.permanent ||
        (match opened.lastFour with
         | _ :: _ :: c :: _ => decide (t - c.start ≤ 3600000)
         | _ => false) }
  match h.lastFour with
  | i :: is => if t < i.start + 60 then { h with lastFour := { i with count := min 65535 (i.count + 1) } :: is } else judged
  | [] => judged

def State.hist (s : State) (u : Nat) : UnitHist :=
  (s.integ.hist.find? (·.unit = u)).getD (UnitHist.blank u)

def State.putHist (s : State) (h : UnitHist) : State :=
  { s with integ := { s.integ with
      hist := h :: s.integ.hist.filter (·.unit ≠ h.unit), dirtyHist := sins s.integ.dirtyHist h.unit } }

/-- Pod registers: 0x3040 + pod, subindex. -/
def podReg (pod sub : Nat) : Nat := okey (0x3040 + pod) sub
/-- Cluster rotation registers: 0x3010 + c, subindex. -/
def cluReg (c sub : Nat) : Nat := okey (0x3010 + c) sub

def State.pod (s : State) (i : Nat) : Pod := s.pods.getD i (Pod.blank 0xFF)
def State.onPod (s : State) (i : Nat) (f : Pod → Pod) : State := { s with pods := upd s.pods i f }
def State.clu (s : State) (c : Nat) : Cluster := s.clusters.getD c Cluster.blank
def State.onClu (s : State) (c : Nat) (f : Cluster → Cluster) : State := { s with clusters := upd s.clusters c f }

/-- The KEEP of the present frame carries a lift or a set-down check of a cluster (07 R152, R154). -/
def State.liftKeep (s : State) (c : Nat) : Bool := (s.clu c).liftKeep.any fun x => x.1 = s.frame.number

/-- The spare of a cluster, as a pod number; none after a retirement (0x3010:02). -/
def State.spare (s : State) (c : Nat) : Option Nat :=
  let k := s.reg (cluReg c 2)
  if k < 5 then some (5 * c + k) else none

/-- A pod can be used as a spare: neither WORN nor retired (R320). -/
def State.usable (s : State) (i : Nat) : Bool := !(s.pod i).retired && s.reg (podReg i 3) ≠ 6

/-! Reports of loads and updates (08 R178) -/

def pendLoad : Nat := 0
def pendUpdate : Nat := 1
def pendCons : Nat := 2

/-- The detail word of a refusal (R177). -/
def detailWord (tier seg item : Nat) : Nat := tier + 256 * seg + 65536 * (item % 65536)

/-- The party of a segment of the pending plan, else of the plan in force. -/
def State.detailParty (s : State) (g : Nat) : Nat :=
  let find (p : Option PlanImage) : Option Nat := p.bind fun x => (x.comp.segs.find? (·.seg = g)).map (·.party)
  match find (s.loader.pending.bind (·.plan)) with
  | some p => p
  | none => (find s.loader.plan).getD noParty

/-- Report an outcome in the entries of its kind and in a PLAN_LOAD event to the Owner, to the party whose segment the
detail of a refusal names, and to the party whose update it was (R178, R179); nothing is pending any longer. -/
def State.reportEnd (s : State) (kind party st sub detail : Nat) : State :=
  let s := if kind = pendLoad then ((s.setReg 0x4C2102 st).setReg 0x4C2103 sub).setReg 0x4C2104 detail
    else s.setReg 0x4C2404 st
  let payload := leBytes 2 sub ++ leBytes 4 detail
  let named := if st = stPlanRejected ∧ detail / 256 % 256 ≠ 0xFF then [s.detailParty (detail / 256 % 256)] else []
  let s := if kind ≠ pendLoad then s else
    (List.range 16).foldl (fun (s : State) p => s.setReg (pkey p 0x4C2104) (if named.contains p then detail else 0)) s
  let to_ := (List.range 16).filter fun p => p = 0 || named.contains p || (kind ≠ pendLoad && p = party)
  let s := to_.foldl (fun (s : State) p => s.event p 2 st payload) s
  { s with loader := { s.loader with pending := none } }

/-! Spares and update groups (02 R57) -/

/-- Set a spare's state; a pod that is not spare shows 0xFF (0x3040:03). -/
def State.spareState (s : State) (pod v : Nat) : State :=
  if s.reg (podReg pod 1) = 1 then s.setReg (podReg pod 3) v else s

/-- Every spare programmed for the update group becomes DIRTY, and the group is no more (R57, R175, R176). -/
def State.dropGroup (s : State) : State :=
  match s.loader.group with
  | none => s
  | some g =>
    let s := g.members.foldl (fun (s : State) m =>
      let s := s.onClu m.1 fun x => { x with staged := none }
      match s.spare m.1 with
      | some sp =>
        if (s.pod sp).fresh then
          let s := (s.onPod sp fun p => { p with fresh := false, mirror := 0xFF }).spareState sp
            (if s.reg (podReg sp 3) = 6 then 6 else 5)
          if s.reg 0x300300 = sp then s.setReg 0x300300 0xFF else s
        else s
      | none => s) s
    { s with loader := { s.loader with group := none } }

/-- The end of an update group before its swaps (R57). -/
def State.endGroup (s : State) (c : Nat) : State :=
  match s.loader.group with
  | none => s
  | some g =>
    let s := s.dropGroup
    let seg := if g.kind = pendLoad then 0xFF else
      ((s.loader.plan.bind fun (p : PlanImage) =>
        (p.segs.find? fun (x : SegImage) => x.party = g.party).map fun (x : SegImage) => x.hdr.segment)).getD 0xFF
    s.reportEnd g.kind g.party stPlanRejected 0x0014 (detailWord 0xFF seg c)

/-- A spare became WORN, failed twice or was lost: the group that counted on it ends. -/
def State.groupLoses (s : State) (c : Nat) : State :=
  match s.loader.group with
  | some g => if g.members.any fun m => m.1 = c then s.endGroup c else s
  | none => s

/-- Retire a permanent pod where its cluster has a spare that is neither WORN nor retired (R320, R58): the spare itself leaves
its cluster without a spare; another pod is marked, and the rotation scheduler replaces it. Retirement ends a fence, but the
cluster of a fenced pod stays down until the replacement swap (15 Edges). True when a retirement starts. -/
def State.retirePod (s : State) (i : Nat) : Bool × State :=
  let c := i / 5
  let mark (s : State) : State := s.onPod i fun p => { p with retired := true, downUntilSwap := p.fenced, fenced := false }
  match s.spare c with
  | none => (false, s)
  | some sp =>
    if (s.pod i).retired || !s.usable sp then (false, s)
    else if sp = i then
      (true, (((((mark s).onPod i fun p => { p with downUntilSwap := false }).setReg (podReg i 1) 2).setReg
        (podReg i 3) 0xFF).setReg (cluReg c 2) 0xFF).groupLoses c)
    else (true, mark s)

/-- A history that has become permanent stands in the vault at once: permanence never lapses (R319; log 183). -/
def State.keepPermanent (s : State) (h : UnitHist) : State :=
  { s with integ := { s.integ with vaultHist := h :: s.integ.vaultHist.filter (·.unit ≠ h.unit) } }

/-- Count a record of a unit; when it makes the unit permanent, R320 follows. The history keeps the record as raised, with its
flags (Table INTEG-4). -/
def State.countUnit (s : State) (r : FaultRec) (u : Nat) : FaultRec × State :=
  let h := s.hist u
  let h' := countIn h r s.oper
  if h'.permanent && !h.permanent then
    let r := { r with flags := setBit r.flags 0 }
    let q := if u / 4096 = 2 then s.retirePod (u % 4096) else (false, s)
    let r := if q.1 then { r with flags := setBit r.flags 2 } else r
    let h' := { h' with retired := h'.retired || q.1, last := some r }
    (r, (q.2.putHist h').keepPermanent h')
  else (r, s.putHist h')

/-- The pod of a column-group unit code (R14). -/
def groupPod (u : Nat) : Nat := if u / 4096 = 3 then (u % 4096) / 132 else 20 + (u % 4096) / 132

/-- The pod of a permanent column group is treated as permanent (R320). -/
def State.podPermanent (s : State) (r : FaultRec) (i : Nat) : FaultRec × State :=
  let h := s.hist (unitPod i)
  if h.permanent then (r, s)
  else
    let q := s.retirePod i
    let r := if q.1 then { r with flags := setBit r.flags 2 } else r
    let h := { h with permanent := true, retired := h.retired || q.1, last := some r }
    (r, (q.2.putHist h).keepPermanent h)

/-- A record counts in its unit's history; one of a column group counts for the group and for its pod. -/
def State.countRec (s : State) (r : FaultRec) : FaultRec × State :=
  if recCounts r then
    let q := s.countUnit r r.unit
    if r.unit / 4096 = 3 ∨ r.unit / 4096 = 4 then
      let q := q.2.countUnit q.1 (unitPod (groupPod r.unit))
      let q := if (q.2.hist r.unit).permanent then q.2.podPermanent q.1 (groupPod r.unit) else q
      (q.1, q.2.putHist { q.2.hist r.unit with last := some q.1 })
    else q
  else (r, s)

/-- A record counts in 0x4010:02: for its party and the device, or for every party where it names none (R228, R322). -/
def State.countRaised (s : State) (party : Nat) : State :=
  if party < 16 then s.bumpFor party 0x401002
  else (List.range 16).foldl (fun (s : State) p => s.bump (pkey p 0x401002)) (s.bump 0x401002)

/-- The clusters on which a segment's image places descriptors (R26, R311). -/
def segClusters (g : SegImage) : Nat := g.descs.foldl (fun m d => setBit m d.1) 0

/-- A unit lies on the computation path of a segment's records (Table SCOPE-6): a cluster that it uses, an active pod there or
a column group of one, a channel that its intake jobs read, the domains and the pool its work runs in; SENSE only where it has
intake jobs. HUSK and the ports compute nothing (log 140). -/
def State.onPath (s : State) (g : SegImage) (u : Nat) : Bool :=
  let i := u % 4096
  let podOn (i : Nat) : Bool := (segClusters g).testBit (i / 5) && s.reg (podReg i 1) = 0
  match u / 4096 with
  | 1 => (segClusters g).testBit i
  | 2 => podOn i
  | 3 | 4 => podOn (groupPod u)
  | 5 => g.jobs.any fun j => j.channels.testBit i
  | 6 => if i = 2 then !g.jobs.isEmpty else decide (i = 1 ∨ i = 3 ∨ i = 4)
  | 8 => true
  | _ => false

/-- The segments whose records a fault record in this frame marks FAULT (Table FRAME-4, R5). -/
def State.faultPath (s : State) (u : Nat) : Nat :=
  match s.loader.plan with
  | some p => p.segs.foldl (fun m g => if s.onPath g u then setBit m g.hdr.segment else m) 0
  | none => 0

/-- Raise a record: history, log of 8,192, counters, FAULT on the records of its frame whose path holds the unit (R5, R36), and
the queue for the next PUBLISH (R314 to R318). -/
def State.raise (s : State) (r : FaultRec) : State :=
  let s : State := { s with frame := { s.frame with fault := s.frame.fault ||| s.faultPath r.unit } }
  let q := s.countRec r
  let r := q.1
  let s := q.2
  let full := decide (s.integ.log.length ≥ 8192)
  let s := if full then s.bump 0x401003 else s
  let s := s.countRaised r.party
  { s with integ := { s.integ with
      log := (if full then s.integ.log.drop 1 else s.integ.log) ++ [r],
      sinceClear := min 8192 (s.integ.sinceClear + 1), toSend := s.integ.toSend ++ [r] } }

/-- Raise a record of a unit with a detail. -/
def State.fault (s : State) (cls cause unit party detail : Nat) : State :=
  s.raise (s.mkRec cls cause unit party detail)

/-- A key is free again once `gap` has passed since its last mark; the mark is set. -/
def State.limited (s : State) (key t gap : Nat) : Bool :=
  match s.integ.limits.find? (·.1 = key) with
  | some (_, u) => decide (t < u + gap)
  | none => false

def State.mark (s : State) (key t : Nat) : State :=
  { s with integ := { s.integ with limits := mins s.integ.limits key t } }

/-- Raise a record at most once for a key in any `gap` of `t` (R136, R149, R201, R210, R305). -/
def State.faultOnce (s : State) (key t gap : Nat) (r : FaultRec) : State :=
  if s.limited key t gap then s else (s.mark key t).raise r

/-- Change the power state and queue the POWER_STATE event to every party (R330); a change to OFF sends none. -/
def State.toPower (s : State) (p : PowerState) (cause : Nat) : State :=
  let old := powerCode s.husk.power
  let t := { s with husk := { s.husk with power := p } }
  let f := if p = .safe then 0xFFFFFFFFFFFFFFFF else s.frame.number
  if p = .off ∨ p = .sprout then t
  else t.eventAll 8 (leBytes 1 old ++ leBytes 1 (powerCode p) ++ leBytes 1 cause ++ leBytes 1 0 ++ leBytes 8 f)

end Sys2Proof.Machine
end

