-- ==== Sys2Proof/Machine/Layout.lean ====
section
/-! DEFINITION. The layout of a frame, the segments of the plan in force and which variant of a segment runs (01, 08). -/

namespace Sys2Proof.Machine

open Sys2Proof

/-- Insert by a key, before equal keys: folding from the right keeps the order of equal elements. -/
def insBy {α : Type} (f : α → Nat) (x : α) : List α → List α
  | [] => [x]
  | y :: ys => if f x ≤ f y then x :: y :: ys else y :: insBy f x ys

def sortBy {α : Type} (f : α → Nat) (l : List α) : List α := l.foldr (insBy f) []

/-- Set element i of a list. -/
def setAt {α : Type} (l : List α) (i : Nat) (x : α) : List α := upd l i fun _ => x

/-- The segments of a plan in window order (R22). -/
def planOrder (p : PlanImage) : List SegRec := sortBy (·.window) p.comp.segs

def State.order (s : State) : List SegRec :=
  match s.loader.plan with
  | some p => planOrder p
  | none => []

def State.segRec (s : State) (g : Nat) : Option SegRec := s.order.find? (·.seg = g)

def State.segImg (s : State) (g : Nat) : Option SegImage :=
  match s.loader.plan with
  | some p => p.segs.find? (·.hdr.segment = g)
  | none => none

/-- The party of a loaded segment; 0x80 when none is loaded. -/
def State.segParty (s : State) (g : Nat) : Nat :=
  match s.segRec g with
  | some r => r.party
  | none => noParty

/-- The window length allotted to a party in force, ns (R22, 0x3800:05). -/
def State.winLen (s : State) (p : Nat) : Nat := s.inForce (okey (0x3800 + p) 5) * 500

/-- INTAKE length in force, ns (0x4C07). -/
def State.intakeLen (s : State) : Nat := s.inForce 0x4C0700 * 1000

/-- Windows end to end from an offset: segment, start, end. -/
def spansFrom (s : State) : Nat → List SegRec → List (SegRec × Nat × Nat)
  | _, [] => []
  | off, r :: rs => (r, off, off + s.winLen r.party) :: spansFrom s (off + s.winLen r.party) rs

/-- The windows of a frame as offsets from its tick (R22, R23). -/
def State.spans (s : State) : List (SegRec × Nat × Nat) := spansFrom s s.intakeLen s.order

/-- A window by its number. -/
def State.spanOf (s : State) (w : Nat) : Option (SegRec × Nat × Nat) := s.spans.find? fun x => x.1.window = w

/-- When COMPUTE ends, PUBLISH's length, and when KEEP starts, as offsets from the tick (R22). -/
def State.computeEnd (s : State) : Nat := s.spans.foldl (fun e x => max e x.2.2) s.intakeLen
def State.publishLen (s : State) : Nat :=
  match s.loader.plan with
  | some p => p.comp.publishLen * 500
  | none => 0
def State.keepStart (s : State) : Nat := s.computeEnd + s.publishLen

/-- P_floor, ns; without a plan no shorter than the least frame period (R16, log 31). -/
def State.pFloor (s : State) : Nat :=
  match s.loader.plan with
  | some p => p.comp.pFloor * 1000
  | none => 125000

/-- The frame period in force, ns. -/
def State.period (s : State) : Nat := s.inForce 0x4C0000 * 1000

/-- Records of a pod allotment: cluster, slot, row offset, rows, column offset, columns (Table HOST-2). -/
def allotRecs : Nat → List Byte → List (Nat × Nat × Nat × Nat × Nat × Nat)
  | 0, _ => []
  | n + 1, b =>
    if b.length < 12 then []
    else (field b 0 1, field b 1 1, field b 4 2, field b 6 2, field b 8 2, field b 10 2) :: allotRecs n (b.drop 12)

/-- The pod allotment of a party in force (R258, R259). -/
def State.allotment (s : State) (p : Nat) : List (Nat × Nat × Nat × Nat × Nat × Nat) :=
  allotRecs 64 (mget [] s.dict.domsLive (okey (0x3800 + p) 3))

/-- The clusters on which a party holds an allotment: its window's clusters (R24, R129; log 32). -/
def State.partyClusters (s : State) (p : Nat) : Nat :=
  (s.allotment p).foldl (fun m r => setBit m r.1) 0

/-- Bits of a mask of clusters that are set. -/
def maskCount (m : Nat) : Nat := (maskClusters m).length

/-- The variant of a segment for a tier, by the index of its entry: T1 falls back to T0 (R169). -/
def variantFor (g : SegImage) (t : Nat) : Option Nat :=
  if t = 1 ∧ g.entries.getD 1 none = none then some 0
  else if (g.entries.getD t none).isSome then some t else none

/-- A bundle of a segment's code as a number (Table CORE-2). -/
def bundleAt (g : SegImage) (n : Nat) : Nat := leNat ((g.code.drop (32 * n)).take 32)

/-- The bundles that may follow a bundle, by its K slot (06 Table CORE-8); a JR returns to where a CALL was counted. -/
def bundleNext (g : SegImage) (n : Nat) : List Nat :=
  let w := bundleAt g n
  let op := bitsOf w 248 8
  let target := bitsOf w 216 13
  if op = 1 then [target]
  else if 2 ≤ op ∧ op ≤ 6 then [n + 1, target]
  else if op = 7 ∨ op = 8 then []
  else [n + 1]

/-- The bundles reached from a worklist; every step takes one bundle off, and each adds at most two. -/
def bundlesFrom (g : SegImage) : Nat → List Nat → List Nat → List Nat
  | 0, _, seen => seen
  | _ + 1, [], seen => seen
  | n + 1, x :: xs, seen =>
    if seen.contains x || decide (g.codeLen ≤ x) then bundlesFrom g n xs seen
    else bundlesFrom g n (bundleNext g x ++ xs) (x :: seen)

/-- The descriptor numbers that a bundle names: ISSUEI and HSETI (06 R126, R129). -/
def bundleDescs (w : Nat) : List Nat :=
  (if bitsOf w 152 8 = 2 then [bitsOf w 137 11] else []) ++ (if bitsOf w 208 8 = 2 then [bitsOf w 160 20 % 2048] else [])

/-- The clusters on which a variant of a segment places work: those of the descriptors that its code names from its entry on
(R26, R169, R311; log 162). -/
def variantClusters (g : SegImage) (v : Nat) : Nat :=
  match g.entries.getD v none with
  | none => 0
  | some e =>
    let ds := (bundlesFrom g (3 * g.codeLen + 1) [e.1] []).flatMap fun n => bundleDescs (bundleAt g n)
    g.descs.foldl (fun m d => if ds.contains d.2.1 then setBit m d.1 else m) 0

/-- Why a segment does not run: not at all in this tier, or because of a cluster that is down. -/
inductive SegRun where
  | runs (variant : Nat)
  | tierIdle
  | downIdle
  | revoked
  deriving DecidableEq, Repr

/-- Which variant of a segment runs in this frame: that of the effective tier, unless it places work on a cluster that is down
(R29, R275, R311, R327, R329). -/
def State.segRun (s : State) (g : Nat) : SegRun :=
  match s.segRec g, s.segImg g, s.loader.plan with
  | some r, some img, some p =>
    if s.loader.idleSegs.testBit g then .revoked
    else if s.husk.power = .doze ∨ (s.tier = 3 ∧ !r.critical) then .tierIdle
    else
      match variantFor img s.tier with
      | none => .tierIdle
      | some v =>
        let hit := s.frame.down &&& variantClusters img v
        if hit = 0 then .runs v
        else
          match maskClusters s.frame.down with
          | [c] => if p.comp.downMask.testBit c && (img.entries.getD (4 + c) none).isSome then .runs (4 + c) else .downIdle
          | _ => .downIdle
  | _, _, _ => .tierIdle

/-- The segment of a window. -/
def State.windowSeg (s : State) (w : Nat) : Option SegRec := (s.spanOf w).map (·.1)

end Sys2Proof.Machine
end

