-- ==== Sys2Proof/Machine/Memory.lean ====
section
/-! DEFINITION. The shared pool as every requester sees it: translation through a context, lines held, chaff and fence
lines, reads and writes, token buckets, fences and handles (13, 14). A line is a physical line number, an address a
physical byte address. -/

namespace Sys2Proof.Machine

open Sys2Proof

def State.ctx (s : State) (c : Nat) : Option Ctx := s.pool.ctxs.find? (·.num = c)

def State.onCtx (s : State) (c : Nat) (f : Ctx → Ctx) : State :=
  { s with pool := { s.pool with ctxs := s.pool.ctxs.map fun x => if x.num = c then f x else x } }

/-- The physical page and WRITE right of a virtual page. -/
def pageOf (c : Ctx) (vp : Nat) : Option (Nat × Bool) := (c.pages.find? (·.1 = vp)).map (·.2)

/-- The physical address of an address of a context (R260, R261). -/
def physOf (c : Ctx) (a : Nat) : Option Nat := (pageOf c (a / 4096)).map fun x => x.1 * 4096 + a % 4096

/-- The physical addresses of n bytes; none when one is unmapped. -/
def physRange (c : Ctx) (a : Nat) : Nat → Option (List Nat)
  | 0 => some []
  | n + 1 =>
    match physOf c a, physRange c (a + 1) n with
    | some x, some xs => some (x :: xs)
    | _, _ => none

/-- Every page that n bytes touch is mapped, and mapped for writing. -/
def writableRange (c : Ctx) (a n : Nat) : Bool :=
  (List.range ((a + n + 4095) / 4096 - a / 4096)).all fun i =>
    match pageOf c (a / 4096 + i) with
    | some (_, w) => w
    | none => false

/-- Each value once, in order of first appearance. -/
def dedupNat (l : List Nat) : List Nat := (l.foldl (fun r x => if r.contains x then r else x :: r) []).reverse

/-- The lines that a list of addresses touches. -/
def linesOf (as : List Nat) : List Nat := dedupNat (as.map (· / 64))

/-! Line states -/

def State.heldBy (s : State) (line : Nat) : Option Hold := s.pool.holds.find? (·.line = line)
def State.isChaff (s : State) (line : Nat) : Bool := s.pool.chaff.contains line
/-- A line that holds a registered fence word (R268). -/
def State.fenceLine (s : State) (line : Nat) : Bool := s.pool.fences.any fun f => !f.mirror && f.phys / 64 = line

/-- Held by another party. -/
def State.heldByOther (s : State) (p line : Nat) : Bool :=
  match s.heldBy line with
  | some h => h.party ≠ p
  | none => false

/-- What a party reads at an address: zeros on chaff, its own working value, else the written-back value (R287, R291). -/
def State.peek (s : State) (p a : Nat) : Byte :=
  if s.isChaff (a / 64) then 0
  else
    match s.heldBy (a / 64) with
    | some h => if h.party = p then h.work.getD (a % 64) 0 else mget 0 s.pool.mem a
    | none => mget 0 s.pool.mem a

/-- Status of a read of some lines: CHAFF before HELD (R284, R287, R291). -/
def State.readStatus (s : State) (p : Nat) (lines : List Nat) : Nat :=
  if lines.any s.isChaff then stChaff else if lines.any (s.heldByOther p) then stHeld else stOk

/-- Status of a write to some lines: DENIED, CHAFF, HELD (R268, R284, R287, R291). -/
def State.writeStatus (s : State) (p : Nat) (lines : List Nat) : Nat :=
  if lines.any s.fenceLine then stDenied
  else if lines.any s.isChaff then stChaff
  else if lines.any (s.heldByOther p) then stHeld else stOk

/-! Pages at rest (R277, R278): the zero mark of a page, its key, and what DRAM holds -/

/-- The party that owns a physical page: of a context that maps it (R277). -/
def State.pageOwner (s : State) (page : Nat) : Nat :=
  match s.pool.ctxs.find? fun c => c.pages.any fun x => x.2.1 = page with
  | some c => c.party
  | none => noParty

/-- The pages without zero mark once a page is written: the first write clears its mark and fixes its owner's key. -/
def State.unmarked (s : State) (page : Nat) : List (Nat × List Byte) :=
  if s.pool.live.any (·.1 = page) then s.pool.live else mins s.pool.live page (s.poolKey (s.pageOwner page))

/-- Store bytes at a physical address, within one page. -/
def State.putMem (s : State) (a : Nat) (bs : List Byte) : State :=
  { s with pool := { s.pool with mem := writeCells s.pool.mem a bs, live := s.unmarked (a / 4096) } }

/-- The pool's part of DRAM, bytes: 851,968 pages (R277). -/
def poolBytes : Nat := 851968 * 4096

/-- A byte of a page as DRAM holds it, given the page's cells in plain: its block under the page's key, with the page
number as the tweak (R278). -/
def cipherByte (key : List Byte) (m : List Host.Cell) (a : Nat) : Byte :=
  (xtsEncrypt key (a / 4096) (a % 4096 / 16) (readCells m (a / 16 * 16) 16)).getD (a % 16) 0

/-- A byte of the pool's part of DRAM: ciphertext of a written page; in a page marked zero what the debug port put there, else
the ciphertext that was left, else zero. -/
def State.dramByte (s : State) (a : Nat) : Byte :=
  match s.pool.live.find? (·.1 = a / 4096) with
  | some k => cipherByte k.2 s.pool.mem a
  | none =>
    match s.pool.raw.find? (·.1 = a) with
    | some b => b.2
    | none =>
      match s.pool.left.find? (·.1 = a / 4096) with
      | some l => cipherByte l.2.1 l.2.2 a
      | none => 0

/-- A byte is put into DRAM itself: in a written page its block decrypts to something else; a page marked zero goes on reading
as zeros. -/
def State.putDram (s : State) (a : Nat) (b : Byte) : State :=
  match s.pool.live.find? (·.1 = a / 4096) with
  | some k =>
    let c := setAt (xtsEncrypt k.2 (a / 4096) (a % 4096 / 16) (readCells s.pool.mem (a / 16 * 16) 16)) (a % 16) b
    s.putMem (a / 16 * 16) (xtsDecrypt k.2 (a / 4096) (a % 4096 / 16) c)
  | none => { s with pool := { s.pool with raw := mins s.pool.raw a b } }

/-! The shared activation cache (04 R99, R100): 8 MiB of 128-byte lines in 16 ways. It holds no data that a reader could see, so
its tags are its state. DESIGN CHOICE (log 113): a line's set is its number modulo 4,096, and a fill takes a free way of its
party's, else one that nothing fixes. -/

/-- The ways of a party: after those of lower-numbered parties (R100). -/
def State.waysOf (s : State) (p : Nat) : List Nat :=
  let n (q : Nat) : Nat := s.reg (pkey q 0x322001)
  (List.range (n p)).map fun i => ((List.range p).map n).foldl (· + ·) 0 + i

/-- The way in which a party finds a line. -/
def State.cacheWay (s : State) (p line : Nat) : Option Nat :=
  (s.waysOf p).find? fun w => s.pool.cache.any fun x => x.1 = line % 4096 * 16 + w && x.2 = line

/-- A party's read of a 128-byte line: a hit, or a fill of one of its ways; without ways it misses (R99, R100). -/
def State.cacheRead (s : State) (p line : Nat) : Bool × State :=
  match s.cacheWay p line with
  | some _ => (true, s)
  | none =>
    match s.waysOf p with
    | [] => (false, s)
    | w :: ws =>
      let (n, s) := s.drawNat
      let free := (w :: ws).find? fun v => !(s.pool.cache.any fun x => x.1 = line % 4096 * 16 + v)
      let v := free.getD ((w :: ws).getD (n % (ws.length + 1)) w)
      (false, { s with pool := { s.pool with cache := mins s.pool.cache (line % 4096 * 16 + v) line } })

/-- A party's read of lines in turn: how many hit. -/
def State.cacheReads (s : State) (p : Nat) (lines : List Nat) : Nat × State :=
  lines.foldl (fun q l =>
    let (h, t) := q.2.cacheRead p l
    (q.1 + (if h then 1 else 0), t)) (0, s)

/-- What changes a 64-byte line invalidates every cached copy of it (R99). -/
def State.uncache (s : State) (line : Nat) : State :=
  { s with pool := { s.pool with cache := s.pool.cache.filter fun x => x.2 ≠ line / 2 } }

/-- Put one byte where a party's writes go: its working value while it holds the line (R287). Cached copies of the line go, as
the holder's own walkers read the working value (R99). -/
def State.poke (s : State) (p a : Nat) (b : Byte) : State :=
  match s.heldBy (a / 64) with
  | some h =>
    if h.party = p then
      let s := s.uncache (a / 64)
      { s with pool := { s.pool with holds := s.pool.holds.map fun x =>
          if x.line = a / 64 then { x with work := setAt x.work (a % 64) b } else x } }
    else (s.uncache (a / 64)).putMem a [b]
  | none => (s.uncache (a / 64)).putMem a [b]

def State.pokes (s : State) (p : Nat) : List (Nat × Byte) → State
  | [] => s
  | (a, b) :: r => (s.poke p a b).pokes p r

/-- The value of a line as bytes: the written-back value. -/
def State.lineValue (s : State) (line : Nat) : List Byte := readCells s.pool.mem (line * 64) 64

/-- Store a line's written-back value. -/
def State.putLine (s : State) (line : Nat) (bs : List Byte) : State :=
  (s.uncache line).putMem (line * 64) bs

/-! Buckets (R300, R301) -/

/-- Refill rates of a party, per ns, scaled by 10⁹: bytes and operations. -/
def State.rates (s : State) (p : Nat) : Nat × Nat :=
  (s.inForce (okey (0x3800 + p) 6) * 1000000, s.inForce (okey (0x3800 + p) 7))

/-- Bucket depths: 10 ms of refill. -/
def State.depths (s : State) (p : Nat) : Int × Int :=
  (((s.rates p).1 * 10000000 : Nat), ((s.rates p).2 * 10000000 : Nat))

/-- A party's buckets refilled to now. -/
def State.bucket (s : State) (p : Nat) : Bucket :=
  let b := s.pool.buckets.getD p Bucket.blank
  let dt := s.now - b.at_
  { bytes := min (s.depths p).1 (b.bytes + (dt * (s.rates p).1 : Nat)),
    ops := min (s.depths p).2 (b.ops + (dt * (s.rates p).2 : Nat)), at_ := s.now }

/-- Both buckets are above zero. -/
def State.credit (s : State) (p : Nat) : Bool := decide (0 < (s.bucket p).bytes ∧ 0 < (s.bucket p).ops)

/-- Charge one operation that moves some lines; planned traffic drives a bucket down to the negative of its depth and no
further, and never raises one that stands below (R300, R301). The traffic
of the last second is kept for Table HOST-7. -/
def State.charge (s : State) (p ctx lines : Nat) (planned : Bool) : State :=
  let b := s.bucket p
  let b : Bucket := { b with bytes := b.bytes - (lines * 64 * 1000000000 : Nat), ops := b.ops - 1000000000 }
  let b : Bucket :=
    if planned then { b with bytes := max (min (s.bucket p).bytes (-(s.depths p).1)) b.bytes,
                             ops := max (min (s.bucket p).ops (-(s.depths p).2)) b.ops }
    else b
  { s with pool := { s.pool with
      buckets := setAt s.pool.buckets p b,
      traffic := (s.now, p, ctx, lines * 64) :: s.pool.traffic.filter fun x => s.now < x.1 + second } }

/-- The credit field of a response (R302). -/
def State.creditField (s : State) (p : Nat) : Nat :=
  let (db, d) := s.depths p
  let b := s.bucket p
  if db = 0 ∨ d = 0 then 0
  else min (4095 * (max 0 b.bytes).toNat / db.toNat) (4095 * (max 0 b.ops).toNat / d.toNat)

/-! Access by walkers, pips, intake, the loader and the control core -/

/-- Read n bytes through the pages of a context for a party, with the read status; unmapped bytes answer NO_OBJECT. -/
def State.readPages (s : State) (x : Ctx) (p a n : Nat) : Nat × List Byte :=
  match physRange x a n with
  | none => (stNoObject, List.replicate n 0)
  | some as => (s.readStatus p (linesOf as), as.map (s.peek p))

/-- Write bytes through the pages of a context for a party; a byte whose line refuses the write, or whose page is unmapped or
read-only, leaves the line unchanged (R268, R287, R291). -/
def State.writePages (s : State) (x : Ctx) (p a : Nat) (bs : List Byte) : State :=
  (bs.zipIdx).foldl (fun t b =>
    match pageOf x ((a + b.2) / 4096) with
    | some (pg, true) =>
      let ph := pg * 4096 + (a + b.2) % 4096
      if t.writeStatus p [ph / 64] = stOk then t.poke p ph b.1 else t
    | _ => t) s

/-- The pool engine's first two checks of a request through a context, whatever its source: the context is the requester's, and
it is not being revoked (R275, R282, Table POOL-2). -/
def State.ctxStatus (s : State) (p c : Nat) : Nat :=
  match s.ctx c with
  | none => stNoObject
  | some x => if x.party ≠ p then stDenied else if x.revoking then stRevoked else stOk

/-- Read n bytes at an address of a context for a party; a context that the engine refuses gives its status and zeros. -/
def State.readCtx (s : State) (p c a n : Nat) : Nat × List Byte :=
  match s.ctx c with
  | none => (stNoObject, List.replicate n 0)
  | some x => if s.ctxStatus p c = stOk then s.readPages x p a n else (s.ctxStatus p c, List.replicate n 0)

/-- Write bytes at an address of a context for a party; a context that the engine refuses is left as it is. -/
def State.writeCtx (s : State) (p c a : Nat) (bs : List Byte) : State :=
  match s.ctx c with
  | none => s
  | some x => if s.ctxStatus p c = stOk then s.writePages x p a bs else s

/-! Transaction trace (20 R411 to R415) -/

/-- A fabric transaction as the router sees it: kind, requesting party, device work, POOLED, status, source unit, context,
address, lines, operation. -/
structure TraceRec where
  kind : Nat
  party : Nat
  device : Bool
  pooled : Bool
  status : Nat
  source : Nat
  ctx : Nat
  addr : Nat
  lines : Nat
  op : Nat
  ahead : Bool
  deriving DecidableEq, Repr

/-- The filter bit of a kind (Table TEST-4). -/
def traceGroup (k : Nat) : Nat :=
  if k < 0x10 then 0 else if k < 0x12 then 1 else if k < 0x20 then 2 else if k = 0x20 then 3 else if k < 0x30 then 4
  else if k < 0x40 then 5 else if k = 0x40 then 6 else if k = 0x41 then 7 else if k < 0x60 then 8 else 9

/-- A filter passes a record (R412): its group, and its context where the filter names one. -/
def tracePasses (f : Nat) (t : TraceRec) : Bool :=
  f.testBit (traceGroup t.kind) && (!f.testBit 28 || decide (t.ctx = f / 65536 % 4096))

/-- The page handle that stands for an address in another party's context (R414); token 0 where no page is mapped. -/
def State.pageHandle (s : State) (owner ctx a : Nat) : Nat :=
  4 + owner * 256 + mget 0 s.pool.tokens (ctx * 268435456 + a / 4096) * 4096 + a % 4096 * 1099511627776

/-- The 32 bytes of a record for a viewer (Table TEST-5, R414). -/
def State.traceBytes (s : State) (viewer seq : Nat) (t : TraceRec) : List Byte :=
  let owner := ((s.ctx t.ctx).map (·.party)).getD t.party
  let handle := decide (viewer = 0 ∧ owner ≠ 0)
  leBytes 4 seq ++ leBytes 8 s.deviceTime ++ leBytes 1 t.kind ++
    leBytes 1 ((if t.ahead then 1 else 0) + (if handle then 2 else 0) + (if t.pooled then 4 else 0)) ++
    leBytes 1 (t.party % 16 + (if t.device then 128 else 0)) ++ leBytes 1 t.status ++ leBytes 2 t.source ++
    leBytes 2 (t.ctx % 4096) ++ leBytes 8 (if handle then s.pageHandle owner t.ctx t.addr else t.addr) ++
    leBytes 2 (min 65535 t.lines) ++ leBytes 2 t.op

/-- The router writes one record to a viewer's ring, or drops and counts it; either way the sequence goes on (R411, R413,
R415). Ring writes are charged to the viewer and are never traced. -/
def State.traceTo (s : State) (v : Nat) (t : TraceRec) : State :=
  match s.test.trace.find? (·.1 = v) with
  | none => s
  | some (_, ring, size, filter, seq) =>
    if !tracePasses filter t then s
    else
      let a := ring + seq % (size / 32) * 32
      let next : State := { s with test := { s.test with trace := s.test.trace.map fun x =>
        if x.1 = v then (v, ring, size, filter, (seq + 1) % 4294967296) else x } }
      let placed := match (s.ctx v).bind fun c => if writableRange c a 32 then physOf c a else none with
        | some ph => s.writeStatus v [ph / 64] = stOk
        | none => false
      if placed && decide (32 ≤ size) && s.credit v then
        ((next.writeCtx v v a (s.traceBytes v seq t)).charge v v 1 false).bump64 (okey (0x4800 + v) 5)
      else next.bump (okey (0x4800 + v) 6)

/-- A transaction appears in its party's trace and in the Owner's; device work in the Owner's alone (R412, R414). -/
def State.traceOut (s : State) (t : TraceRec) : State :=
  if t.device || t.party % 16 = 0 then s.traceTo 0 t else (s.traceTo t.party t).traceTo 0 t

/-- Device work of kind 0x60. -/
def State.traceDevice (s : State) (party status source ctx addr lines op : Nat) : State :=
  s.traceOut ⟨0x60, party, true, false, status, source, ctx, addr, lines, op, false⟩

/-- Lines touched by n bytes at an address. -/
def lineCount (a n : Nat) : Nat := if n = 0 then 0 else (a + n - 1) / 64 - a / 64 + 1

/-! Fences (R268 to R273) -/

/-- A handle of a fence or a grant (Tables HOST-5, POOL-1). -/
def handleOf (kind src importer idx gen : Nat) : Nat :=
  kind + src * 256 + importer * 4096 + idx * 65536 + gen * 268435456

def handleKind (h : Nat) : Nat := h % 256
def handleSrc (h : Nat) : Nat := h / 256 % 16
def handleImporter (h : Nat) : Nat := h / 4096 % 16
def handleIdx (h : Nat) : Nat := h / 65536 % 4096
def handleGen (h : Nat) : Nat := h / 268435456 % 4294967296

/-- The registered fence whose word is at a physical address. -/
def State.fenceAt (s : State) (phys : Nat) : Option Fence := s.pool.fences.find? fun f => !f.mirror && f.phys = phys

/-- The own fence of a party at an address of a context. -/
def State.ownFence (s : State) (p c a : Nat) : Option Fence :=
  match s.ctx c with
  | none => none
  | some x =>
    match physOf x a with
    | none => none
    | some ph => (s.fenceAt ph).filter (·.party = p)

/-- The fence behind a handle presented by a party, or the status that refuses it: NO_OBJECT for another party's handle
or one that was never issued, REVOKED for an invalidated one; a mirror's handle names its source and its local party (R271,
R272, R294). -/
def State.fenceByHandle (s : State) (p h : Nat) : Except Nat Fence :=
  if handleImporter h ≠ p ∨ h ≥ 1152921504606846976 then .error stNoObject
  else if s.pool.dead.contains h then .error stRevoked
  else
    match s.pool.fences.find? fun f => f.idx = handleIdx h && f.gen = handleGen h with
    | some f =>
      if handleKind h = 1 && !f.mirror && f.party = handleSrc h && f.importers.contains p then .ok f
      else if handleKind h = 2 && f.mirror && f.party = p &&
          s.pool.mirrors.any (fun m => m.enable && m.fence = f.idx && m.src = handleSrc h) then .ok f
      else .error stNoObject
    | none => .error stNoObject

/-- Eight bytes of a fence's word. -/
def fenceBytes (v : Nat) : List Byte := leBytes 8 v

/-- Raise a fence to the maximum of its value and a value: the registry always, the line unless it is chaff. Answers the
status and the value after the advance (R268, R269). -/
def State.advanceFence (s : State) (f : Fence) (v : Nat) : Nat × Nat × State :=
  let n := max f.value v
  let t := { s with pool := { s.pool with fences := s.pool.fences.map fun x =>
      if x.idx = f.idx then { x with value := n } else x } }
  let trace (t : State) (st : Nat) : State :=
    t.traceOut ⟨0x50, f.party, false, false, st, unitPool 0, f.ctx, f.addr, 1, f.idx, false⟩
  if f.mirror then (stOk, n, t)
  else if s.isChaff (f.phys / 64) then (stChaff, n, trace t stChaff)
  else (stOk, n, trace ((t.uncache (f.phys / 64)).putMem f.phys (fenceBytes n)) stOk)

/-- What a wait on a fence sees: OK with the value, CHAFF, or the status that ends the wait (R133, R270). -/
def State.fenceState (s : State) (f : Fence) : Nat × Nat :=
  if !f.mirror && s.isChaff (f.phys / 64) then (stChaff, f.value) else (stOk, f.value)

/-- The fence behind an entry of a segment's fence table (R167, R133). -/
def State.tableFence (s : State) (g f : Nat) : Except Nat Fence :=
  match s.segImg g, s.segRec g with
  | some img, some r =>
    match img.fences[f]? with
    | none => .error stNoObject
    | some e =>
      if e.kind = 1 then
        match s.ownFence r.party r.ctx e.value with
        | some x => .ok x
        | none => .error stNoObject
      else if e.kind = 2 ∨ e.kind = 3 then
        match s.fenceByHandle r.party e.value with
        | .ok x =>
          if x.mirror && (s.pool.mirrors.any fun m => m.fence = x.idx && m.state = 3) then .error stRevoked else .ok x
        | .error e => .error e
      else .error stNoObject
  | _, _ => .error stNoObject

/-- The data of a line became chaff: the working value is dropped, the hold ends and the owner's chaff count rises
(R289, R290; 0x3880:03). -/
def State.makeChaff (s : State) (line owner : Nat) : State :=
  let t := { s.uncache line with pool := { (s.uncache line).pool with
      chaff := sins s.pool.chaff line, holds := s.pool.holds.filter (·.line ≠ line) } }
  if s.isChaff line then t else t.bumpFor owner 0x388003

/-! Usage of contexts (R274) -/

/-- Note use by a context in the present frame. -/
def State.use (s : State) (c : Nat) (f : Usage → Usage) : State :=
  s.onCtx c fun x =>
    match x.usage with
    | u :: us => if u.frame = s.frame.number then { x with usage := f u :: us }
                 else { x with usage := (f ⟨s.frame.number, 0, 0, 0, 0, 0, 0, 0⟩ :: x.usage).take 4096 }
    | [] => { x with usage := [f ⟨s.frame.number, 0, 0, 0, 0, 0, 0, 0⟩] }

end Sys2Proof.Machine
end

