-- ==== Sys2Proof/Machine/Walk.lean ====
section
/-! DEFINITION. Macro-instruction descriptors, the tiles of an instruction, the issue check and a cluster's queue
(04 R85 to R94, 06 R126, R127). -/

namespace Sys2Proof.Machine

open Sys2Proof

/-- CRC-32 of IEEE 802.3: one bit, one byte, a string (Tables LDR-2, TILE-2). -/
def crcBits : Nat → Nat → Nat
  | 0, c => c
  | n + 1, c => crcBits n (if c % 2 = 1 then (c / 2) ^^^ 0xEDB88320 else c / 2)

def crcBytes : List Byte → Nat → Nat
  | [], c => c
  | b :: bs, c => forceNat (crcBits 8 (c ^^^ b.toNat)) (crcBytes bs)

def crc32 (bs : List Byte) : Nat := crcBytes bs 0xFFFFFFFF ^^^ 0xFFFFFFFF

/-! Fields of a descriptor (Table TILE-2) -/

def dKind (d : List Byte) : Nat := field d 0 1
def dInPool (d : List Byte) : Bool := (field d 1 1).testBit 0
def dNoAhead (d : List Byte) : Bool := (field d 1 1).testBit 2
def dOutPool (d : List Byte) : Bool := (field d 1 1).testBit 1
def dObj (d : List Byte) : Nat := field d 2 2
def dLenReg (d : List Byte) : Nat := field d 4 1 % 16
def dLenK (d : List Byte) : Bool := (field d 4 1).testBit 4
def dUseLen (d : List Byte) : Bool := (field d 4 1).testBit 7
def dSettle (d : List Byte) : Nat := 2 ^ (field d 5 1 % 4)
def dChain (d : List Byte) : Nat := field d 6 1
def dMask (d : List Byte) : Nat := field d 7 1
def dB (d : List Byte) : Nat := field d 8 2
def dK (d : List Byte) : Nat := field d 10 2
def dN (d : List Byte) : Nat := field d 12 2
def dBt (d : List Byte) : Nat := field d 14 2
def dCt (d : List Byte) : Nat := field d 16 2
def dCtx (d : List Byte) : Nat := field d 18 2 % 4096
def dIn (d : List Byte) : Nat := field d 20 8
def dInStride (d : List Byte) : Nat := field d 28 4
def dOut (d : List Byte) : Nat := field d 32 8
def dOutStride (d : List Byte) : Nat := field d 40 4
def dTime (d : List Byte) : Nat := field d 44 4
def dMap (d : List Byte) : Nat := field d 48 8
def dJob (d : List Byte) : Nat := field d 56 1

/-- The reserved fields of a descriptor are zero, and a PLANNED one names no job (R88 item 1). -/
def dReservedOk (d : List Byte) : Bool :=
  decide (field d 1 1 < 8) && decide (field d 4 1 / 32 % 4 = 0) && decide (field d 5 1 < 4) &&
    decide (field d 6 1 < 64) && decide (field d 18 2 < 4096) && decide (field d 57 3 = 0) &&
    (if dKind d = 1 then decide (dMap d = 0) && decide (dJob d = 255) else decide (dJob d < 16))

/-! Weight objects -/

/-- The object of a segment. -/
def objOf (g : SegImage) (id : Nat) : Option WObj := g.objs.find? (·.id = id)

/-- Length of one input vector's layout: all of the object's K rows (R103, Table NUM-2). -/
def layoutLen (o : WObj) : Nat :=
  if o.fmt = 1 then 4 * ((o.K + 3) / 4) + 2 * o.outliers.length else if o.fmt = 0 then o.K else 2 * o.K

/-- The n-blocks of an object as index, first column and width; a HEAD object is one block (R83). -/
def nBlocks (o : WObj) : List (Nat × Nat × Nat) :=
  if o.head then [(0, 0, o.N)]
  else
    ((sortBy (·.n) (o.blocks.filter fun b => b.k = 0)).foldl (fun r b => ((b.n, r.2, b.cols) :: r.1, r.2 + b.cols))
      (([] : List (Nat × Nat × Nat)), 0)).1.reverse

/-- The k-blocks of an n-block in ascending order, each with its first row (R83). -/
def kBlocks (o : WObj) (n : Nat) : List (Nat × Block) :=
  ((sortBy (·.k) (o.blocks.filter fun b => b.n = n)).foldl (fun r b => ((r.2, b) :: r.1, r.2 + b.rows))
    (([] : List (Nat × Block)), 0)).1.reverse

/-- Column tiles of a width: first column and width, C_t at a time (R88 item 7). -/
def cutCols (ct : Nat) : Nat → Nat → Nat → List (Nat × Nat)
  | 0, _, _ => []
  | fuel + 1, c, w => if w = 0 ∨ ct = 0 then [] else (c, min ct w) :: cutCols ct fuel (c + ct) (w - ct)

/-- The column tiles of an instruction: n-block, first column, width. DESIGN CHOICE (log 190): where the descriptor's N is below the
object's, only the columns below N are cut into tiles and shared out; R94's sum runs over the widths of the n-blocks and does not
say what N does to it. -/
def colTiles (o : WObj) (ct n : Nat) : List (Nat × Nat × Nat) :=
  (nBlocks o).flatMap fun b => (cutCols ct 1024 b.2.1 (min b.2.2 (n - b.2.1))).map fun x => (b.1, x.1, x.2)

def ceilDiv (a b : Nat) : Nat := if b = 0 then 0 else (a + b - 1) / b

/-- A tile: first vector, vectors, n-block, first column, columns. -/
structure Tile where
  b0 : Nat
  nb : Nat
  blk : Nat
  c0 : Nat
  nc : Nat
  deriving DecidableEq, Repr

/-- Tiles of an instruction in tile order: t mod T_B picks the batch tile, t div T_B the column tile. -/
def tileAt (o : WObj) (d : List Byte) (t : Nat) : Option Tile :=
  let tb := ceilDiv (dB d) (dBt d)
  if tb = 0 then none
  else
    match (colTiles o (dCt d) (dN d))[t / tb]? with
    | some (n, c0, nc) => some ⟨t % tb * dBt d, min (dBt d) (dB d - t % tb * dBt d), n, c0, nc⟩
    | none => none

def tileCount (o : WObj) (d : List Byte) : Nat := ceilDiv (dB d) (dBt d) * (colTiles o (dCt d) (dN d)).length

/-- The share of tiles of a cluster: by its rank in the cluster mask (R94). -/
def shareOf (total mask c : Nat) : Nat × Nat :=
  let f := maskCount mask
  let n := ceilDiv total f
  let r := ((maskClusters mask).filter (· < c)).length
  (min total (r * n), min total ((r + 1) * n))

/-- Bytes of one output element: INT8 one, the other formats two (R115). -/
def elemSize (o : List (BitVec 64)) : Nat :=
  match o.find? fun w => stepBits w 0 8 = 5 with
  | some w => if stepBits w 8 2 = 0 then 1 else 2
  | none => 1

/-- The chain of a cluster. -/
def chainOf (g : SegImage) (c n : Nat) : List (BitVec 64) :=
  match g.chains.find? fun x => x.cluster = c && x.num = n with
  | some x => x.steps
  | none => []

/-! The issue check (R88) -/

/-- A range of buffer bytes lies within one half. -/
def oneHalf (a n : Nat) : Bool := n = 0 || decide (a / 524288 = (a + n - 1) / 524288 ∧ a + n ≤ 1048576)

/-- Items 1 to 7 of R88 for a segment, a context's party and the party of the window. DESIGN CHOICE (log 154): an empty cluster
mask, B_t = 0 and C_t = 0 fail the check too; R88 names none of them, and such an instruction would have no cluster or no
tile. DESIGN CHOICE (log 193): so does an input stride below the layout's length, whose vectors would overlap (R103 lays a vector
out within its stride). -/
def descOk (s : State) (g : SegImage) (party : Nat) (d : List Byte) (kind : Nat) : Bool :=
  decide (crc32 (d.take 60) = field d 60 4) && decide (d.length = 64) && decide (dKind d = kind) && dReservedOk d &&
  (match objOf g (dObj d) with
   | none => false
   | some o =>
     let lay := layoutLen o
     let size := if (maskClusters (dMask d)).any fun c => elemSize (chainOf g c (dChain d)) = 2 then 2 else 1
     let outLen := (dB d - 1) * dOutStride d + dN d * size
     decide (dMask d &&& o.replica = dMask d) && decide (dMask d ≠ 0) &&
     (match s.ctx (dCtx d) with
      | some x => decide (x.party = party)
      | none => false) &&
     decide (1 ≤ dB d ∧ 1 ≤ dK d ∧ dK d ≤ o.K ∧ 8 ≤ dN d ∧ dN d ≤ o.N ∧ dN d % 8 = 0) &&
     decide (1 ≤ dBt d ∧ 8 ≤ dCt d ∧ dCt d % 8 = 0) &&
     decide (dBt d * dCt d ≤ 64512) && decide (dBt d * dInStride d ≤ 524288) && decide (lay ≤ dInStride d) &&
     (dInPool d || oneHalf (dIn d) ((dB d - 1) * dInStride d + lay)) &&
     (dOutPool d ||
       (oneHalf (dOut d) (outLen) && (dInPool d || decide (dIn d / 524288 ≠ dOut d / 524288)))))

/-! A cluster's queue (R127) -/

def State.walker (s : State) (c : Nat) : Walker := s.walkers.getD c Walker.blank

def State.onWalker (s : State) (c : Nat) (f : Walker → Walker) : State := { s with walkers := upd s.walkers c f }

/-- Cancel the tile that a cluster has prepared: it is counted for its party and its context (R93, 0x3200:03). -/
def State.dropAhead (s : State) (c : Nat) : State :=
  match s.ahead.find? (·.cluster = c) with
  | some a =>
    let s := (s.bumpFor a.party (okey (0x3200 + c) 3)).use a.ctx fun u => { u with cancelled := u.cancelled + 1 }
    { s with ahead := s.ahead.filter (·.cluster ≠ c) }
  | none => s

/-- Cancel what the clusters have prepared: run-ahead never crosses the end of a window (R93). -/
def State.dropAheads (s : State) : State := (List.range 8).foldl State.dropAhead s

/-- Cancel a cluster's prepared tile if it is this tile of this planned instruction (R93). -/
def State.dropAheadAt (s : State) (c desc n : Nat) : State :=
  if s.ahead.any fun a => a.cluster = c && a.job.isNone && a.desc = desc && a.tile = n then s.dropAhead c else s

/-- Bring input bytes into a buffer: where a valid byte stands, put there by an instruction or a move, it stays (R93, R117). -/
def stowBytes (w : Walker) (a : Nat) (bs : List Byte) : Walker :=
  (bs.zipIdx).foldl (fun w b =>
    if w.valid.contains (a + b.2) then w else { w with buffer := writeCells w.buffer (a + b.2) [b.1] }) w

/-- Write buffer bytes with their validity bits (R117). -/
def putBuf (w : Walker) (a : Nat) (bs : List Byte) (valid : Bool) : Walker :=
  { w with buffer := writeCells w.buffer a bs,
           valid := (List.range bs.length).foldl (fun v i => if valid then sins v (a + i) else sdel v (a + i)) w.valid }

/-- Perform a queued move (R127, R129): a length write or a buffer write with its validity bits set. -/
def doMove (w : Walker) : QItem → Walker
  | .run _ _ _ _ => w
  | .arriving _ _ _ _ => w
  | .refused => { w with finished := w.finished + 1 }
  | .setLen n v => { w with lens := setAt w.lens n v, finished := w.finished + 1 }
  | .setByte a v => { putBuf w a (leBytes 1 v) true with finished := w.finished + 1 }
  | .setHalf a v => { putBuf w a (leBytes 2 v) true with finished := w.finished + 1 }

/-- An item that takes no walker time: a queued move, and what is left of a refused issue. -/
def isMove : QItem → Bool
  | .run _ _ _ _ => false
  | .arriving _ _ _ _ => false
  | _ => true

/-- A queued move. -/
def isWrite : QItem → Bool
  | .refused => false
  | x => isMove x

def isRun : QItem → Bool
  | .run _ _ _ _ => true
  | _ => false

/-- Perform the moves at the head of a queue. -/
def drainMoves (w : Walker) : List QItem → Walker
  | [] => { w with queue := [] }
  | x :: xs => if isMove x then drainMoves (doMove w x) xs else { w with queue := x :: xs }

/-- Append an item; a move with nothing ahead is performed at once. -/
def pushItem (w : Walker) (x : QItem) : Walker :=
  let w := { w with issued := w.issued + 1 }
  if isMove x && w.queue.isEmpty && w.running.isNone then doMove w x else { w with queue := w.queue ++ [x] }

/-- Moves waiting, and instructions issued and not completed. -/
def movesIn (w : Walker) : Nat := (w.queue.filter isWrite).length
def runsIn (w : Walker) : Nat := (w.queue.filter isRun).length + (if w.running.isSome && w.job.isNone then 1 else 0)

/-- The finish counts to wait for so that everything issued so far is done. -/
def State.issueMarks (s : State) : List Nat := s.walkers.map (·.issued)

/-- Everything up to the marks has completed on the clusters of a mask. -/
def State.marksDone (s : State) (mask : Nat) (marks : List Nat) : Bool :=
  (maskClusters mask).all fun c => decide (marks.getD c 0 ≤ (s.walker c).finished)

/-! Outputs that will not be computed (R27, R89) -/

/-- Output bytes that are written again carry no flag any more. -/
def State.unmark (s : State) (ctx a n : Nat) : State :=
  { s with pool := { s.pool with
      marks := s.pool.marks.filter fun m => m.ctx ≠ ctx || decide (a + n ≤ m.addr) || decide (m.addr + m.size ≤ a),
      pooled := s.pool.pooled.filter fun m => m.ctx ≠ ctx || decide (a + n ≤ m.addr) || decide (m.addr + m.size ≤ a) } }

/-- Write one output element's bytes with its validity, to the buffer or to the pool. -/
def State.putOut (s : State) (c seg : Nat) (d : List Byte) (esize b j : Nat) (bs : List Byte) (valid : Bool) : State :=
  let a := dOut d + b * dOutStride d + j * esize
  if dOutPool d then
    let p := s.segParty seg
    let t := (s.writeCtx p (dCtx d) a bs).unmark (dCtx d) a bs.length
    let m := dOut d + dB d * dOutStride d + b * ceilDiv (dN d) 8 + j / 8
    let old := ((t.readCtx p (dCtx d) m 1).2.headD 0).toNat
    let new := if valid then old ||| (1 <<< (j % 8)) else if old.testBit (j % 8) then old - (1 <<< (j % 8)) else old
    t.writeCtx p (dCtx d) m (leBytes 1 new)
  else s.onWalker c fun w => putBuf w a bs valid

/-- Write the elements of a tile as zero and invalid. -/
def State.zeroTile (s : State) (c seg : Nat) (d : List Byte) (esize : Nat) (t : Tile) : State :=
  (List.range t.nb).foldl (fun s b =>
    (List.range t.nc).foldl (fun s j =>
      s.putOut c seg d esize (t.b0 + b) (t.c0 + j) (List.replicate esize 0) false) s) s

/-- The lines of a context that n bytes at an address touch, by the context's own numbering. -/
def lineNums (a n : Nat) : List Nat := (List.range (lineCount a n)).map fun i => a / 64 + i

/-- The pool lines that a tile's output and mask bits lie in, by the context's own numbering (Table TILE-2). -/
def tileLines (d : List Byte) (esize : Nat) (t : Tile) : List Nat :=
  if !dOutPool d then [] else (List.range t.nb).flatMap fun i =>
    let b := t.b0 + i
    lineNums (dOut d + b * dOutStride d + t.c0 * esize) (t.nc * esize) ++
      lineNums (dOut d + dB d * dOutStride d + b * ceilDiv (dN d) 8 + t.c0 / 8) ((t.c0 + t.nc + 7) / 8 - t.c0 / 8)

/-- The party of a segment is charged for the lines that a descriptor's output writes in the pool, each once (R300). -/
def State.chargeOut (s : State) (seg : Nat) (d : List Byte) (lines : List Nat) (planned : Bool) : State :=
  if lines.isEmpty then s else s.charge (s.segParty seg) (dCtx d) (dedupNat lines).length planned

/-- Write the elements of tiles lo to hi − 1 as zero and invalid. -/
def State.zeroTiles (s : State) (c seg : Nat) (d : List Byte) (lo hi : Nat) : State :=
  match s.segImg seg with
  | none => s
  | some g =>
    match objOf g (dObj d) with
    | none => s
    | some o =>
      let size := elemSize (chainOf g c (dChain d))
      let ts := (List.range (hi - lo)).filterMap fun i => tileAt o d (lo + i)
      (ts.foldl (fun (s : State) t => s.zeroTile c seg d size t) s).chargeOut seg d (ts.flatMap (tileLines d size)) true

/-- A result of a segment in this frame carries a flag: set its bit. -/
def State.flagLate (s : State) (g : Nat) : State := { s with frame := { s.frame with late := setBit s.frame.late g } }
def State.flagFault (s : State) (g : Nat) : State := { s with frame := { s.frame with fault := setBit s.frame.fault g } }
def State.flagClip (s : State) (g : Nat) : State := { s with frame := { s.frame with clip := setBit s.frame.clip g } }
def State.flagSus (s : State) (g : Nat) : State := { s with frame := { s.frame with sus := setBit s.frame.sus g } }

/-- A record that contains these output bytes carries LATE or CLIP (R27, R116). No record contains a buffer output itself:
there the flag stands for the segment's records of this frame. -/
def State.markOut (s : State) (g : Nat) (late : Bool) (d : List Byte) (a n : Nat) : State :=
  if dOutPool d then
    let m : OutMark := ⟨dCtx d, a, n, late⟩
    { s with pool := { s.pool with marks := m :: s.pool.marks.filter (· ≠ m) } }
  else if late then s.flagLate g
  else s.flagClip g

/-- The outputs of tiles lo to hi − 1 are results of abandoned work (R26, R27). -/
def State.lateTiles (s : State) (c g : Nat) (d : List Byte) (lo hi : Nat) : State :=
  if !dOutPool d then s.flagLate g
  else
    match (s.segImg g).bind fun i => (objOf i (dObj d)).map fun o => (i, o) with
    | none => s
    | some (i, o) =>
      let size := elemSize (chainOf i c (dChain d))
      (List.range (hi - lo)).foldl (fun s k =>
        match tileAt o d (lo + k) with
        | some t => (List.range t.nb).foldl (fun s b =>
            s.markOut g true d (dOut d + (t.b0 + b) * dOutStride d + t.c0 * size) (t.nc * size)) s
        | none => s) s

/-! Issue (R126) -/

/-- Core register keys of a segment: 0x4C40 + seg. -/
def coreReg (g sub : Nat) : Nat := okey (0x4C40 + g) sub

/-- The CHECK record of a failed issue check names the cluster (R89). -/
def State.issueRecord (s : State) (c g n : Nat) : State :=
  let s := s.bumpFor (s.segParty g) (okey (0x3200 + c) 4)
  let r := s.mkRec clsCheck 3 (unitCluster c) (s.segParty g) n
  (s.raise { r with desc := n }).flagFault g

/-- The walker signals a descriptor exception to the core: the segment counts it and goes on (R89, R126, R136). -/
def State.descException (s : State) (g : Nat) : State :=
  let s := (s.bump (coreReg g 7)).setReg (coreReg g 4) 1
  let s := s.setReg (coreReg g 5) s.frame.number
  if s.core.seg = some g then { s with core := { s.core with descExc := s.core.descExc + 1 } } else s

/-- A refused issue (R89): its output is invalid, the CHECK record names the cluster, the core counts the descriptor
exception and goes on (R126, R136). -/
def State.refuseIssue (s : State) (c g n : Nat) (d : List Byte) : State :=
  let s := if d.isEmpty then s else
    match s.segImg g with
    | some img =>
      match objOf img (dObj d) with
      | some o => if dBt d = 0 ∨ dCt d = 0 then s else
          let sh := shareOf (tileCount o d) (dMask d) c
          s.zeroTiles c g d sh.1 sh.2
      | none => s
    | none => s
  (s.issueRecord c g n).descException g

/-- The walkers that an issue of a descriptor number reaches: those of the clusters in the descriptor's cluster mask, as the
cluster's own table holds it. Where no table's entry names its cluster, those that hold the number refuse it; where none
holds it, the lowest cluster of the window does (R126; log 37). -/
def State.issueTargets (s : State) (g n : Nat) : List (Nat × List Byte) :=
  let all := (List.range 8).filterMap fun c => ((s.walker c).descs.find? (·.1 = n)).map fun x => (c, x.2)
  let named := all.filter fun x => (dMask x.2).testBit x.1
  if !named.isEmpty then named
  else if !all.isEmpty then all
  else [((maskClusters (s.partyClusters (s.segParty g))).headD 0, [])]

/-- Issue a descriptor number for the running segment: in program order on every cluster that it goes to, it reaches the walker
4 cycles after the bundle (R126, R127, R134). -/
def State.issue (s : State) (g n : Nat) : State :=
  (s.issueTargets g n).foldl (fun s x =>
    s.onWalker x.1 fun w => pushItem w (.arriving n g (s.core.cycle + 4) x.2)) s

/-- Put an item in the place of another; a walker with nothing to do performs what then stands at the head. -/
def settleItem (w : Walker) (old new : QItem) : Walker :=
  let w := { w with queue := w.queue.takeWhile (· ≠ old) ++ new :: (w.queue.dropWhile (· ≠ old)).drop 1 }
  if w.running.isNone then drainMoves w w.queue else w

/-- The walker takes an issue: a number of the segment's range, naming this cluster, that passes R88 while fewer than 16
instructions are there (R126, R127). -/
def State.issueOk (s : State) (c g n : Nat) (d : List Byte) : Bool :=
  match s.segImg g with
  | none => false
  | some img =>
    decide (img.descFirst ≤ n ∧ n < img.descFirst + img.descCount) && !d.isEmpty && (dMask d).testBit c &&
      descOk s img (s.segParty g) d 1 && decide (runsIn (s.walker c) < 16)

/-- An issue reaches a walker, which queues or refuses it (R88, R89, R126). -/
def State.arriveAt (s : State) (c n g due : Nat) (d : List Byte) : State :=
  let old := QItem.arriving n g due d
  if s.issueOk c g n d then s.onWalker c fun w => settleItem w old (.run n g (dCtx d) d)
  else (s.refuseIssue c g n d).onWalker c fun w => settleItem w old .refused

/-- The issues on their way to a cluster's walker: due cycle, cluster, descriptor, segment, bytes. -/
def State.onWay (s : State) (c : Nat) : List (Nat × Nat × Nat × Nat × List Byte) :=
  (s.walker c).queue.filterMap fun x =>
    match x with
    | .arriving n g due d => some (due, c, n, g, d)
    | _ => none

/-- The cycle of an arrival has come, by the core's own count or by the time. -/
def State.arrived (s : State) (due : Nat) : Bool :=
  decide (due ≤ s.core.cycle) || decide (s.core.entry + due * 5 / 2 ≤ s.now)

/-- The issues whose cycle has come, or all of them at the window's end, reach their walkers in order (R126, R134). -/
def State.arrive (s : State) (all : Bool := false) : State :=
  (sortBy (fun (x : Nat × Nat × Nat × Nat × List Byte) => x.1)
    (((List.range 8).flatMap s.onWay).filter fun x => all || s.arrived x.1)).foldl
      (fun (s : State) x => s.arriveAt x.2.1 x.2.2.1 x.2.2.2.1 x.1 x.2.2.2.2) s

end Sys2Proof.Machine
end

