-- ==== Sys2Proof/Machine/CtrlCore.lean ====
section
/-! DEFINITION. The control core (06): registers and latencies, the five slots of a bundle, waits, fence advances and
exceptions. The slots of a bundle stage their effects; the K slot's command takes the bundle in, so that every slot
reads its operands as the cycle begins (R124) and a stopping exception leaves no slot's effect behind (R136). -/

namespace Sys2Proof.Machine

open Sys2Proof

/-- What a command answers. -/
abbrev Out := Host.Outcome State Fault Refusal

/-- A register as a bundle reads it: g0 reads 0 (Table CORE-1). -/
def coreReadReg (c : Core) (r : Nat) : Word := if r = 0 then 0 else c.regs.getD r 0

def State.g (s : State) (r : Nat) : Word := coreReadReg s.core r

def State.onCore (s : State) (f : Core → Core) : State := { s with core := f s.core }
def State.onBundle (s : State) (f : Bundle → Bundle) : State :=
  s.onCore fun c => { c with bundle := f c.bundle }

/-- The segment whose code runs: none while the core is idle or waits (R123, R132, R137). -/
def State.coreSeg (s : State) : Option Nat := if s.active && s.core.wait.isNone then s.core.seg else none

/-- The core's time: its cycles since the entry, or now when that is later (R121). -/
def State.coreTime (s : State) : Nat := max s.now (s.core.entry + s.core.cycle * 5 / 2)
def State.coreSince (s : State) : Nat := s.coreTime - s.frame.start

/-! Latencies (R134, R135) -/

/-- The value that a register takes from the results that reach it in one cycle: slot A over slot B, the later of one
slot; other pairs are left open. -/
def resolveWrites (ws : List CoreWrite) (free : Word) : Word :=
  match ws.reverse with
  | [] => 0
  | last :: _ =>
    if ws.all fun w => w.slot = last.slot then last.value
    else if ws.all fun w => w.slot = .a || w.slot = .b then
      match ws.reverse.find? fun w => w.slot = .a with
      | some w => w.value
      | none => last.value
    else free

/-- Make the results visible whose cycle has come. -/
def State.retire (s : State) : State :=
  let due := s.core.writes.filter fun w => decide (w.due ≤ s.core.cycle)
  let regs := (due.zipIdx).foldl (fun regs x =>
    let grp := due.filter fun w => w.due = x.1.due && w.reg = x.1.reg
    setAt regs x.1.reg (resolveWrites grp (Config.freeWord (s.free + due.findIdx fun w => w.due = x.1.due && w.reg = x.1.reg))))
    s.core.regs
  { s with free := s.free + due.length,
           core := { s.core with regs := regs, writes := s.core.writes.filter fun w => decide (s.core.cycle < w.due) } }

/-- Stage a result of some latency. -/
def State.stageWrite (s : State) (sl : Slot) (lat r : Nat) (v : Word) : State :=
  s.onBundle fun b => { b with writes := b.writes ++ [⟨s.core.cycle + lat, r, v, sl⟩] }

/-! Exceptions (R136, Table CORE-10) -/

abbrev excIllegal : Nat := 2
abbrev excDmemBound : Nat := 3
abbrev excDmemAlign : Nat := 4
abbrev excFetch : Nat := 5
abbrev excQueueFull : Nat := 6
abbrev excAllot : Nat := 7
abbrev excWindowCut : Nat := 8

/-- A row of a descriptor's output: vector, first column, columns. -/
abbrev OutRow := Nat × Nat × Nat

/-- The output rows of a descriptor's share of tiles on a cluster. -/
def outRows (img : SegImage) (c : Nat) (d : List Byte) : List OutRow :=
  match objOf img (dObj d) with
  | none => []
  | some o =>
    if dBt d = 0 ∨ dCt d = 0 then []
    else
      let sh := shareOf (tileCount o d) (dMask d) c
      (List.range (sh.2 - sh.1)).flatMap fun i =>
        match tileAt o d (sh.1 + i) with
        | some t => (List.range t.nb).map fun b => (t.b0 + b, t.c0, t.nc)
        | none => []

/-- The bytes of an output row: address and length, with elements of some size. -/
def rowBytes (d : List Byte) (size : Nat) (x : OutRow) : Nat × Nat :=
  (dOut d + x.1 * dOutStride d + x.2.1 * size, x.2.2 * size)

/-- Two byte ranges meet. -/
def bytesMeet (x y : Nat × Nat) : Bool := decide (x.1 < y.1 + y.2 ∧ y.1 < x.1 + x.2)

/-- What the items that were issued in this window write where descriptor d of cluster c writes: in d's context, or in the
cluster's buffer. -/
def State.issuedOut (s : State) (img : SegImage) (c : Nat) (d : List Byte) : List (Nat × Nat) :=
  (img.descs.filter fun y => s.core.issued.contains y.2.1 && dKind y.2.2 = 1 && dOutPool y.2.2 = dOutPool d &&
      (if dOutPool d then decide (dCtx y.2.2 = dCtx d) else decide (y.1 = c))).flatMap fun y =>
    (outRows img y.1 y.2.2).map (rowBytes y.2.2 (elemSize (chainOf img y.1 (dChain y.2.2))))

/-- The outputs of the segment's PLANNED descriptors that were never issued in this window read zero and are invalid
(R136; log 38), but for bytes that issued items have written; those that a WINDOW_CUT prevents are LATE (R137). -/
def State.zeroUnissued (s : State) (g : Nat) (late : Bool) : State :=
  match s.segImg g with
  | none => s
  | some img =>
    img.descs.foldl (fun s x =>
      let d := x.2.2
      if s.core.issued.contains x.2.1 || dKind d ≠ 1 then s
      else
        let size := elemSize (chainOf img x.1 (dChain d))
        let kept := s.issuedOut img x.1 d
        let rows := outRows img x.1 d
        let lines := if !dOutPool d then [] else rows.flatMap fun y => lineNums (rowBytes d size y).1 (rowBytes d size y).2
        (rows.foldl (fun s y =>
          let s := (List.range y.2.2).foldl (fun s j =>
            if kept.any (bytesMeet (rowBytes d size (y.1, y.2.1 + j, 1))) then s
            else s.putOut x.1 g d size y.1 (y.2.1 + j) (List.replicate size 0) false) s
          if late && !kept.any (bytesMeet (rowBytes d size y)) then
            s.markOut g true d (rowBytes d size y).1 (rowBytes d size y).2
          else s) s).chargeOut g d lines true) s

/-- Nothing that was issued or queued in the window is left. -/
def State.itemsDone (s : State) : Bool :=
  s.walkers.all fun w => (w.running.isNone || w.job.isSome) && w.queue.isEmpty

/-- Items that were issued before a stop complete normally: what was never issued is zeroed behind them (R136). -/
def State.settleStop (s : State) : State :=
  match s.core.zeroing with
  | some (g, late) => if s.itemsDone then (s.zeroUnissued g late).onCore fun c => { c with zeroing := none } else s
  | none => s

/-- A stopping exception: the bundle is dropped, the segment's code ends, the counters move, its records of this frame
carry FAULT, and one record in 4,096 frames is raised for the segment and cause. -/
def State.coreStop (s : State) (code : Nat) : State :=
  match s.core.seg with
  | none => s
  | some g =>
    let s := (s.onCore fun c => { c with
      seg := none, wait := none, bundle := Bundle.blank, zeroing := some (g, code = excWindowCut) }).settleStop
    let s := (((s.setReg (coreReg g 4) code).setReg (coreReg g 5) s.frame.number).bump (coreReg g 6)).flagFault g
    let s := if code = excWindowCut then s.bump (coreReg g 8) else s
    let r := if code = excWindowCut then s.mkRec clsTiming 2 0x6001 (s.segParty g) g
      else s.mkRec clsCheck 4 0x6001 (s.segParty g) (code + 256 * g)
    let r := match s.segRec g with
      | some x => { r with ctx := x.ctx }
      | none => r
    s.faultOnce (0x10000000 + g * 16 + code) s.frame.number 4096 r

/-! The end of a bundle -/

/-- Take in what the slots staged: V before M on the clusters' queues (R124), stores, handles and results. -/
def State.takeBundle (s : State) (g : Nat) : State :=
  let b := s.core.bundle
  let s := b.moves.foldl (fun s m => s.onWalker m.1 fun w => pushItem w m.2) s
  let s := b.issues.foldl (fun s n => (s.issue g n).onCore fun c => { c with issued := n :: c.issued }) s
  let s := s.onCore fun c =>
    { c with
      handles := b.handles.foldl (fun h x => setAt h x.1 x.2) c.handles,
      dmem := match b.store with
        | some (a, bs) => writeCells c.dmem a bs
        | none => c.dmem,
      writes := sortBy (·.due) (c.writes ++ b.writes), bundle := Bundle.blank }
  b.fadvs.foldl (fun s x => s.onCore fun c => { c with fadvs := c.fadvs ++ [⟨g, x.1, x.2, s.issueMarks⟩] }) s

/-- Code length of a segment in bundles. -/
def State.codeLen (s : State) (g : Nat) : Nat :=
  match s.segImg g with
  | some img => img.codeLen
  | none => 0

/-- Go to a bundle after some cycles; a fetch outside the code range stops the segment (R122, R131). -/
def State.goto (s : State) (g pc dc : Nat) : State :=
  let s := (s.onCore fun c => { c with pc := pc, cycle := c.cycle + dc }).retire.arrive
  if pc < s.codeLen g then s else s.coreStop excFetch

/-- The bundle ends and the next one in sequence follows. -/
def State.nextBundle (s : State) (g : Nat) : State := (s.takeBundle g).goto g (s.core.pc + 1) 1

/-- A taken branch: the target issues 3 cycles later (R131). -/
def State.branchTo (s : State) (g target : Nat) : State := (s.takeBundle g).goto g target 3

/-! Slot forms -/

/-- Run a slot's effect for the running segment; nothing happens while no segment code runs. -/
def State.slot (s : State) (ok : Bool) (f : State → Nat → State) : Out :=
  .next (match s.coreSeg with
    | some g => if ok then f s g else s.coreStop excIllegal
    | none => s)

def inAB (sl : Slot) : Bool := sl = .a || sl = .b

/-- A register form of slots A and B. -/
def State.aluReg (s : State) (sl : Slot) (f : BitVec 40) (op : Word → Word → Word) : Out :=
  s.slot (inAB sl && abReserved f) fun s _ => s.stageWrite sl 1 (abRd f) (op (s.g (abRa f)) (s.g (abRb f)))

/-- An immediate form of slots A and B. -/
def State.aluImm (s : State) (sl : Slot) (f : BitVec 40) (op : Word → Word → Word) : Out :=
  s.slot (inAB sl) fun s _ => s.stageWrite sl 1 (abRd f) (op (s.g (abRa f)) (abImm f))

/-- A multiply: slot B, latency 3 (Table CORE-9). -/
def State.mulReg (s : State) (sl : Slot) (f : BitVec 40) (op : Word → Word → Word) : Out :=
  s.slot (sl = .b && abReserved f) fun s _ => s.stageWrite sl 3 (abRd f) (op (s.g (abRa f)) (s.g (abRb f)))

/-- The absolute data address of an access of n bytes, or the exception it raises (R122, R125; log 33). -/
def State.dataAddr (s : State) (g : Nat) (f : BitVec 40) (n : Nat) : Except Nat Nat :=
  let a := (s.g (abRa f) + abImm f).toNat
  match s.segImg g with
  | none => .error excDmemBound
  | some img =>
    if img.dataLen < a + n then .error excDmemBound
    else if a % n ≠ 0 then .error excDmemAlign
    else .ok (img.dataBase + a)

/-- A load of n bytes: slot A, latency 4. -/
def State.load (s : State) (sl : Slot) (f : BitVec 40) (n : Nat) : Out :=
  s.slot (sl = .a) fun s g =>
    match s.dataAddr g f n with
    | .ok a => s.stageWrite sl 4 (abRd f) (BitVec.ofNat 32 (leNat (readCells s.core.dmem a n)))
    | .error e => s.coreStop e

/-- A store of n bytes: slot A; a load of the next bundle sees it. -/
def State.store_ (s : State) (sl : Slot) (f : BitVec 40) (n : Nat) : Out :=
  s.slot (sl = .a) fun s g =>
    match s.dataAddr g f n with
    | .ok a => s.onBundle fun b => { b with store := some (a, leBytes n (s.g (abRd f)).toNat) }
    | .error e => s.coreStop e

/-! Slots A and B (Table CORE-4) -/

/-- R124: opcode 0 does nothing in any slot; in the K slot the bundle ends and the next follows. -/
def execNop (sl : Slot) (s : State) : Out :=
  s.slot true fun s g => if sl = .k then s.nextBundle g else s

def execAdd (sl : Slot) (f : BitVec 40) (s : State) : Out := s.aluReg sl f fun a b => a + b
def execSub (sl : Slot) (f : BitVec 40) (s : State) : Out := s.aluReg sl f fun a b => a - b
def execAnd (sl : Slot) (f : BitVec 40) (s : State) : Out := s.aluReg sl f fun a b => a &&& b
def execOr (sl : Slot) (f : BitVec 40) (s : State) : Out := s.aluReg sl f fun a b => a ||| b
def execXor (sl : Slot) (f : BitVec 40) (s : State) : Out := s.aluReg sl f fun a b => a ^^^ b
def execShl (sl : Slot) (f : BitVec 40) (s : State) : Out := s.aluReg sl f fun a b => a <<< shiftCount b
def execShr (sl : Slot) (f : BitVec 40) (s : State) : Out := s.aluReg sl f fun a b => a >>> shiftCount b
def execSar (sl : Slot) (f : BitVec 40) (s : State) : Out := s.aluReg sl f fun a b => a.sshiftRight (shiftCount b)
def execSlt (sl : Slot) (f : BitVec 40) (s : State) : Out := s.aluReg sl f sltWord
def execSltu (sl : Slot) (f : BitVec 40) (s : State) : Out := s.aluReg sl f sltuWord
def execMin (sl : Slot) (f : BitVec 40) (s : State) : Out := s.aluReg sl f minWord
def execMax (sl : Slot) (f : BitVec 40) (s : State) : Out := s.aluReg sl f maxWord
def execAddi (sl : Slot) (f : BitVec 40) (s : State) : Out := s.aluImm sl f fun a b => a + b
def execAndi (sl : Slot) (f : BitVec 40) (s : State) : Out := s.aluImm sl f fun a b => a &&& b
def execOri (sl : Slot) (f : BitVec 40) (s : State) : Out := s.aluImm sl f fun a b => a ||| b
def execShli (sl : Slot) (f : BitVec 40) (s : State) : Out := s.aluImm sl f fun a b => a <<< shiftCount b
def execShri (sl : Slot) (f : BitVec 40) (s : State) : Out := s.aluImm sl f fun a b => a >>> shiftCount b
def execSari (sl : Slot) (f : BitVec 40) (s : State) : Out := s.aluImm sl f fun a b => a.sshiftRight (shiftCount b)
def execSlti (sl : Slot) (f : BitVec 40) (s : State) : Out := s.aluImm sl f sltWord
def execMovi (sl : Slot) (f : BitVec 40) (s : State) : Out := s.aluImm sl f fun _ b => b
/-- MOVHI: the low half of ra, and imm[15:0] above it. -/
def execMovhi (sl : Slot) (f : BitVec 40) (s : State) : Out :=
  s.aluImm sl f fun a b => (a &&& 0xFFFF) ||| (b <<< 16)
def execLdw (sl : Slot) (f : BitVec 40) (s : State) : Out := s.load sl f 4
def execLdhu (sl : Slot) (f : BitVec 40) (s : State) : Out := s.load sl f 2
def execLdbu (sl : Slot) (f : BitVec 40) (s : State) : Out := s.load sl f 1
def execStw (sl : Slot) (f : BitVec 40) (s : State) : Out := s.store_ sl f 4
def execSth (sl : Slot) (f : BitVec 40) (s : State) : Out := s.store_ sl f 2
def execStb (sl : Slot) (f : BitVec 40) (s : State) : Out := s.store_ sl f 1
def execMul (sl : Slot) (f : BitVec 40) (s : State) : Out := s.mulReg sl f fun a b => a * b
def execMulh (sl : Slot) (f : BitVec 40) (s : State) : Out :=
  s.mulReg sl f fun a b => BitVec.ofInt 32 ((a.toInt * b.toInt) / 4294967296)
def execMulhu (sl : Slot) (f : BitVec 40) (s : State) : Out :=
  s.mulReg sl f fun a b => BitVec.ofNat 32 (a.toNat * b.toNat / 4294967296)

/-! Slot M (Table CORE-5) -/

/-- Stage an issue (R126). -/
def State.stageIssue (s : State) (n : Nat) : State := s.onBundle fun b => { b with issues := b.issues ++ [n] }

/-- Stage a fence advance; a ninth that has not been performed raises QUEUE_FULL (R128). -/
def State.stageFadv (s : State) (g f v : Nat) : State :=
  if 8 ≤ (s.core.fadvs.filter fun x => x.seg = g).length then s.coreStop excQueueFull
  else s.onBundle fun b => { b with fadvs := b.fadvs ++ [(f, v)] }

def execIssue (sl : Slot) (f : BitVec 56) (s : State) : Out :=
  s.slot (sl = .m && mReserved f) fun s _ => s.stageIssue (s.core.handles.getD (mHandle f) 0)
def execIssuei (sl : Slot) (f : BitVec 56) (s : State) : Out :=
  s.slot (sl = .m && mReserved f) fun s _ => s.stageIssue (mNumber f)
def execFadv (sl : Slot) (f : BitVec 56) (s : State) : Out :=
  s.slot (sl = .m && mReserved f && mGp f % 2 = 0) fun s g =>
    s.stageFadv g (mFence f) (pairValue (s.g (mGp f)) (s.g (mGp f + 1)))
def execFadvf (sl : Slot) (f : BitVec 56) (s : State) : Out :=
  s.slot (sl = .m && mReserved f) fun s g => s.stageFadv g (mFence f) s.frame.number

/-- A pending advance is performed (R128). -/
def State.performAdvance (s : State) (x : FadvItem) : State :=
  let s := s.onCore fun c => { c with fadvs := c.fadvs.erase x }
  match s.tableFence x.seg x.fence with
  | .ok f =>
    if f.mirror || f.party ≠ s.segParty x.seg then s
    else ((s.advanceFence f x.value).2.2).charge f.party f.ctx 1 true
  | .error _ => s

/-- R128: the oldest pending advance whose earlier items have all completed or been abandoned is performed. -/
def execFenceAdvancePerformed (s : State) : Out :=
  let s := s.arrive
  .next (match s.core.fadvs.find? fun x => s.marksDone 0xFF x.marks with
    | none => s
    | some x => s.performAdvance x)

/-! Slot V (Table CORE-6) -/

/-- Clusters outside the window's allotment. -/
def State.outsideAllot (s : State) (g mask : Nat) : Bool :=
  (maskClusters mask).any fun c => !(s.partyClusters (s.segParty g)).testBit c

/-- Stage a queued move for every cluster of the mask: ALLOT outside the allotment, QUEUE_FULL where 32 moves wait
(R127, R129). -/
def State.stageMove (s : State) (g : Nat) (f : BitVec 48) (x : QItem) : State :=
  if s.outsideAllot g (vMask f) then s.coreStop excAllot
  else if (maskClusters (vMask f)).any fun c => decide (32 ≤ movesIn (s.walker c)) then s.coreStop excQueueFull
  else s.onBundle fun b => { b with moves := b.moves ++ (maskClusters (vMask f)).map fun c => (c, x) }

def State.stageHandle (s : State) (n v : Nat) : State := s.onBundle fun b => { b with handles := b.handles ++ [(n, v)] }

def execHset (sl : Slot) (f : BitVec 48) (s : State) : Out :=
  s.slot (sl = .v && vReserved f) fun s _ => s.stageHandle (vN f) ((s.g (vG f)).toNat % 2048)
def execHseti (sl : Slot) (f : BitVec 48) (s : State) : Out :=
  s.slot (sl = .v && vReserved f) fun s _ => s.stageHandle (vN f) ((vImm f).toNat % 2048)
def execHadd (sl : Slot) (f : BitVec 48) (s : State) : Out :=
  s.slot (sl = .v && vReserved f) fun s _ =>
    s.stageHandle (vN f) (clampI 0 2047 (s.core.handles.getD (vN f) 0 + (vImm f).toInt)).toNat
def execHget (sl : Slot) (f : BitVec 48) (s : State) : Out :=
  s.slot (sl = .v && vReserved f) fun s _ =>
    s.stageWrite sl 1 (vG f) (BitVec.ofNat 32 (s.core.handles.getD (vN f) 0))
/-- LSET limits the signed register to 0 to 65,535 (log 34). -/
def execLset (sl : Slot) (f : BitVec 48) (s : State) : Out :=
  s.slot (sl = .v && vReserved f) fun s g =>
    s.stageMove g f (.setLen (vN f) (clampI 0 65535 (s.g (vG f)).toInt).toNat)
def execLseti (sl : Slot) (f : BitVec 48) (s : State) : Out :=
  s.slot (sl = .v && vReserved f) fun s g => s.stageMove g f (.setLen (vN f) ((vImm f).toNat % 65536))
def execLget (sl : Slot) (f : BitVec 48) (s : State) : Out :=
  s.slot (sl = .v && vReserved f && maskCount (vMask f) = 1) fun s g =>
    if s.outsideAllot g (vMask f) then s.coreStop excAllot
    else s.stageWrite sl 4 (vG f)
      (BitVec.ofNat 32 ((s.walker ((maskClusters (vMask f)).headD 0)).lens.getD (vN f) 0))

/-- A stream of the segment has not yet sent a record under the present tier: TIER_CHG is known at the window's start. -/
def State.tierNews (s : State) (g : Nat) : Bool :=
  (s.segImg g).any fun i => i.streams.any fun d => s.frame.tierStreams.contains d.id

/-- The items of Table CORE-7. -/
def State.statItem (s : State) (g sel : Nat) : Word :=
  let n : Nat → Word := BitVec.ofNat 32
  let win := (s.segRec g).map (·.window)
  let rest := match win.bind s.spanOf with
    | some x => s.frame.start + x.2.2 - s.coreTime
    | none => 0
  if sel = 0 then n s.frame.number
  else if sel = 1 then n (s.frame.number / 4294967296)
  else if sel = 2 then n s.coreSince
  else if sel = 3 then n s.tier
  else if sel = 4 then n (s.reg 0x300000)
  else if sel = 5 then n (s.reg 0x310003)
  else if sel = 6 then n (win.getD 0)
  else if sel = 7 then n rest
  else if sel = 8 then n s.core.descExc
  else if sel = 9 then n s.ballast
  else if sel = 10 then n s.source
  else if sel = 11 then (if s.source = 3 then BitVec.ofInt 32 s.frame.angle else 0)
  else if sel = 12 then n (s.frame.flags.toNat % 256 / 4 * 4 + (if s.tierNews g then 2 else 0))
  else if 16 ≤ sel ∧ sel < 32 then
    (if (s.heads.getD (sel - 16) Head.blank).party = s.segParty g then n (s.reg (okey (0x3310 + (sel - 16)) 5)) else 0)
  else if 64 ≤ sel ∧ sel < 128 then n (mget 0 s.core.counts (g * 128 + (sel - 64)))
  else if 128 ≤ sel ∧ sel < 144 then BitVec.ofInt 32 (mget 0 s.core.scalars (g * 128 + (sel - 128)))
  else 0

def execStat (sl : Slot) (f : BitVec 48) (s : State) : Out :=
  s.slot (sl = .v && vReserved f) fun s g => s.stageWrite sl 2 (vG f) (s.statItem g ((vImm f).toNat % 256))
def execBstb (sl : Slot) (f : BitVec 48) (s : State) : Out :=
  s.slot (sl = .v && vReserved f) fun s g => s.stageMove g f (.setByte (vImm f).toNat ((s.g (vG f)).toNat % 256))
def execBsth (sl : Slot) (f : BitVec 48) (s : State) : Out :=
  s.slot (sl = .v && vReserved f && (vImm f).toNat % 2 = 0) fun s g =>
    s.stageMove g f (.setHalf (vImm f).toNat ((s.g (vG f)).toNat % 65536))

/-! Slot K (Table CORE-8) -/

/-- A conditional branch (R131). -/
def State.branch (s : State) (sl : Slot) (f : BitVec 32) (taken : Bool) : Out :=
  s.slot (sl = .k && kTargetOk f) fun s g => if taken then s.branchTo g (kTarget f) else s.nextBundle g

def execBr (sl : Slot) (f : BitVec 32) (s : State) : Out := s.branch sl f true
def execBeq (sl : Slot) (f : BitVec 32) (s : State) : Out := s.branch sl f (s.g (kGa f) = s.g (kGb f))
def execBne (sl : Slot) (f : BitVec 32) (s : State) : Out := s.branch sl f (s.g (kGa f) ≠ s.g (kGb f))
def execBlt (sl : Slot) (f : BitVec 32) (s : State) : Out := s.branch sl f ((s.g (kGa f)).slt (s.g (kGb f)))
def execBge (sl : Slot) (f : BitVec 32) (s : State) : Out := s.branch sl f (!(s.g (kGa f)).slt (s.g (kGb f)))
/-- CALL leaves the address of the next bundle in g63. -/
def execCall (sl : Slot) (f : BitVec 32) (s : State) : Out :=
  s.slot (sl = .k && kTargetOk f) fun s g =>
    (s.stageWrite sl 1 63 (BitVec.ofNat 32 (s.core.pc + 1))).branchTo g (kTarget f)
def execJr (sl : Slot) (f : BitVec 32) (s : State) : Out :=
  s.slot (sl = .k) fun s g => s.branchTo g ((s.g (kGa f)).toNat % 8192)
/-- ENDW: the core is idle until the next entry (R137). -/
def execEndw (sl : Slot) (_f : BitVec 32) (s : State) : Out :=
  s.slot (sl = .k) fun s g => (s.takeBundle g).onCore fun c => { c with seg := none }

/-- A time limit as an offset from the tick, at most 500 ns before the window's end (R132). -/
def State.waitLimit (s : State) (g units : Nat) : Nat :=
  match ((s.segRec g).map (·.window)).bind s.spanOf with
  | some x => min (units * 320) (x.2.2 - 500)
  | none => units * 320

/-- What a read of the fence says: a code when the wait ends (R133). -/
def State.fenceCode (s : State) (g f v : Nat) : Option Nat :=
  match s.tableFence g f with
  | .error e => some e
  | .ok x =>
    match s.fenceState x with
    | (0x08, _) => some stChaff
    | (_, n) => if v ≤ n then some stOk else none

/-- Position of an outcome in 0x4C40:09. -/
def outcomePart (code : Nat) : Nat :=
  if code = stOk then 0 else if code = stBusy then 1 else if code = stChaff then 2 else if code = stRevoked then 3 else 4

/-- Cycles from the entry to an instant, rounded up (R132). -/
def State.cyclesTo (s : State) (t : Nat) : Nat := ((t - s.core.entry) * 2 + 4) / 5

/-- The wait ends at an instant; the next bundle issues in the cycle after (R132). -/
def State.endWait (s : State) (g t : Nat) : State :=
  let n := max s.core.cycle (s.cyclesTo t)
  (s.onCore fun c => { c with wait := none }).goto g (s.core.pc + 1) (n + 1 - s.core.cycle)

/-- Write a wait's outcome and count it; the next bundle sees it (R133). -/
def State.endFenceWait (s : State) (g gb code t : Nat) : State :=
  let n := max s.core.cycle (s.cyclesTo t)
  let s := (s.bump (part (outcomePart code) (coreReg g 9))).traceOut
    ⟨0x51, s.segParty g, false, false, code, unitDomain 1, ((s.segRec g).map (·.ctx)).getD 0, 0, 0, g, false⟩
  (s.onCore fun c =>
    { c with writes := sortBy (·.due) (c.writes ++ [⟨n + 1, gb, BitVec.ofNat 32 code, .k⟩]) }).endWait g t

def execWaitto (sl : Slot) (f : BitVec 32) (s : State) : Out :=
  s.slot (sl = .k) fun s g =>
    let lim := s.waitLimit g (kImm f)
    let t := s.takeBundle g
    if lim ≤ t.coreSince then t.endWait g (t.core.entry + t.core.cycle * 5 / 2)
    else t.onCore fun c => { c with wait := some (.to lim) }

/-- WAITC waits for everything issued so far on the clusters of its mask; a mask outside the allotment raises ALLOT. -/
def execWaitc (sl : Slot) (f : BitVec 32) (s : State) : Out :=
  s.slot (sl = .k) fun s g =>
    let m := kImm f % 256
    if s.outsideAllot g m then s.coreStop excAllot
    else
      let t := s.takeBundle g
      if t.marksDone m t.issueMarks then t.endWait g (t.core.entry + t.core.cycle * 5 / 2)
      else t.onCore fun c => { c with wait := some (.clusters m t.issueMarks) }

/-- The party and context that a segment's fence reads are charged to (R133). -/
def State.chargeSeg (s : State) (g n : Nat) : State :=
  match s.segRec g with
  | some r => (List.range n).foldl (fun s _ => s.charge r.party r.ctx 1 true) s
  | none => s

/-- WAITF reads the fence in the bundle's cycle and, while it waits, every 320 ns from there (R133). -/
def execWaitf (sl : Slot) (f : BitVec 32) (s : State) : Out :=
  s.slot (sl = .k && kGa f % 2 = 0) fun s g =>
    let v := pairValue (s.g (kGa f)) (s.g (kGa f + 1))
    let lim := s.waitLimit g (kImm f)
    let t := (s.takeBundle g).chargeSeg g 1
    let at_ := t.core.entry + t.core.cycle * 5 / 2
    match t.fenceCode g (kFence f) v with
    | some code => t.endFenceWait g (kGb f) code at_
    | none =>
      if lim ≤ t.coreSince then t.endFenceWait g (kGb f) stBusy at_
      else t.onCore fun c => { c with wait := some (.fence (kFence f) v lim (kGb f) (at_ + 320) none) }

/-- A waiting fence is read at its instant, every 320 ns up to the limit; the read is charged, and a code that ends the wait
stands from that read on (R133). -/
def State.readFence (s : State) : State :=
  match s.core.seg, s.core.wait with
  | some g, some (.fence f v lim gb next none) =>
    if s.active && decide (next ≤ s.now ∧ next ≤ s.frame.start + lim) then
      (s.chargeSeg g 1).onCore fun c => { c with wait := some (.fence f v lim gb (next + 320) (s.fenceCode g f v)) }
    else s
  | _, _ => s

/-- R132, R133: the wait in progress ends when its condition holds. A fence is seen only in its reads. -/
def execWaitEnd (s : State) : Out :=
  let s := s.arrive
  .next (match s.core.seg, s.core.wait with
    | some g, some (.to lim) => if s.active && decide (lim ≤ s.coreSince) then s.endWait g s.coreTime else s
    | some g, some (.clusters m marks) => if s.active && s.marksDone m marks then s.endWait g s.coreTime else s
    | some g, some (.fence _ _ lim gb _ seen) =>
      if !s.active then s
      else
        match seen with
        | some code => s.endFenceWait g gb code s.coreTime
        | none => if lim ≤ s.coreSince then s.endFenceWait g gb stBusy s.coreTime else s
    | _, _ => s)

/-- The opcodes that a slot offers (Tables CORE-4 to CORE-8). -/
def slotOps : Slot → List Nat
  | .a => [0, 1, 2, 3, 4, 5, 6, 7, 8, 9, 10, 11, 12, 0x21, 0x23, 0x24, 0x26, 0x27, 0x28, 0x29, 0x30, 0x31, 0x40, 0x41,
      0x42, 0x48, 0x49, 0x4A]
  | .b => [0, 1, 2, 3, 4, 5, 6, 7, 8, 9, 10, 11, 12, 0x21, 0x23, 0x24, 0x26, 0x27, 0x28, 0x29, 0x30, 0x31, 0x50, 0x51,
      0x52]
  | .m => [0, 1, 2, 3, 4]
  | .v => [0, 1, 2, 3, 4, 5, 6, 7, 8, 9, 10]
  | .k => [0, 1, 2, 3, 4, 5, 6, 7, 8, 0x10, 0x11, 0x12]


end Sys2Proof.Machine
end

