-- ==== Sys2Proof/Machine/Convert.lean ====
section
/-! DEFINITION. Trim codes (03 Table CAL-1), and what a column converter reads: the drift of a pod's conductances, group gains,
offsets and die temperature in a conversion (00 R4, 02 R41, R42, R47), and digital rows with their check bits (02 R50). -/

namespace Sys2Proof.Machine

open Sys2Proof

/-! Trim codes. A trim is a unit's key × 4,096 plus an index: pods 0x2000 + i with gains 0 to 131 and offsets
132 to 263, AFE channels 0x5000 + i with gain and offset of each PGA setting; references 0xA000 + u and oscillators
0xB000 + u are keys of the model, since Table SCOPE-6 gives them no unit code (log 51). -/

def trimKey (unit idx : Nat) : Nat := unit * 4096 + idx

/-- The code of a trim before any calibration: gain 16 stands for gain 1. -/
def trimDefault (k : Nat) : Int := if k / 4096 / 4096 = 2 ∧ k % 4096 < 132 then 16 else 0

/-- The code range of Table CAL-1. -/
def trimRange (k : Nat) : Int × Int :=
  let c := k / 4096 / 4096
  if c = 2 then (if k % 4096 < 132 then (0, 63) else (-32, 31))
  else if c = 5 then (-2048, 2047)
  else if c = 10 then (-512, 511)
  else if k / 4096 % 4096 = 0 then (-2048, 2047) else (0, 63)

/-- Codes are held as differences from the code before any calibration. -/
def trimGet (m : List (Nat × Int)) (k : Nat) : Int := mget 0 m k + trimDefault k
def trimSet (m : List (Nat × Int)) (k : Nat) (v : Int) : List (Nat × Int) := mset 0 m k (v - trimDefault k)

def trimClamped (k : Nat) (v : Int) : Bool := decide (v < (trimRange k).1 ∨ (trimRange k).2 < v)

/-! Conversions -/

/-- 1,000 times the decimal logarithm of an age in seconds, 0 below 1 s (R47; log 142). -/
def log10Milli (t : Nat) : Nat := Nat.log2 ((max 1 t) ^ 1000) * 30103 / 100000

/-- What a pod's conversions depend on beside its cells: its number, the trims in force, the fraction of conductance lost
since its verify passed, in 10⁻⁶ (R47), and the largest shift by die temperature, in 1/1,000 product unit (R4). -/
structure ConvEnv where
  pod : Nat
  trims : List (Nat × Int)
  loss : Nat
  shift : Nat
  deriving DecidableEq, Repr

/-- An environment of nominal trims without drift or temperature. -/
def ConvEnv.nominal (pod : Nat) : ConvEnv := ⟨pod, [], 0, 0⟩

/-- The drift coefficient d of a pod whose verify passed at t, in 10⁻⁶: between 0.003 and 0.007 (R47). -/
def driftPpm (pod t : Nat) : Nat := 3000 + Config.driftCoeff pod t % 4001

/-- Die temperature may shift readings: in T2 and T3 and under ballast HALF or OFF, by at most 0.1 LSB at range 1 for 5 °C of
swing, which is 320/1,000 product unit for a quarter degree (R4). -/
def State.tempShift (s : State) : Nat :=
  if s.tier ≤ 1 ∧ s.ballast = 2 then 0 else 320 * Config.tempSwing s.frame.number

/-- Time that has passed, ns: the real-time clock without what writes have set it ahead (R47). -/
def State.unsetClock (s : State) : Int := (s.husk.rtc : Int) - s.husk.rtcShift

/-- Seconds since a pod's verify last passed (R47). -/
def State.podAge (s : State) (pod : Nat) : Nat := (s.unsetClock - (s.pod pod).verifiedAt).toNat / second

/-- The environment of a pod's conversions now. -/
def State.convEnv (s : State) (pod : Nat) : ConvEnv :=
  let t0 := s.reg (podReg pod 4)
  { pod := pod, trims := s.cal.applied, loss := driftPpm pod t0 * log10Milli (s.podAge pod) / 1000, shift := s.tempShift }

/-- Gain and offset codes in force of a column group's converter. -/
def ConvEnv.gain (e : ConvEnv) (g : Nat) : Int := trimGet e.trims (trimKey (unitPod e.pod) g)
def ConvEnv.offs (e : ConvEnv) (g : Nat) : Int := trimGet e.trims (trimKey (unitPod e.pod) (132 + g))

/-- A code of group g at a range setting, and whether it clipped: the phase sum, less drift and shifted by temperature, under
the group's gain (1 + (code − 16) × 0.15 %) and its offset in 1/16 LSB (R42, R47, Table CAL-1). -/
def ConvEnv.read (e : ConvEnv) (range g : Nat) (sum shift err : Int) : Int × Bool :=
  let den : Nat := rangeLsb range * 10000000000000
  let num := (sum * 1000 + clampI (-(e.shift : Int)) e.shift shift) * (1000000 - (e.loss : Int)) *
    (10000 + 15 * (e.gain g - 16))
  adcCode (16 * num + e.offs g * den) (16 * den) err

/-! Digital rows (R50) -/

/-- The code of a digital cell pair that stores v, read with 15 pulses at range 0. -/
def digitalCode (e : ConvEnv) (col v : Nat) (err : Int) : Int := (e.read 0 (col / 8) (15 * (10 * (v : Int) - 15)) 0 err).1

/-- The value that a code is decoded as. -/
def digitalValue (c : Int) : Nat := if c < -9 then 0 else if c ≤ -1 then 1 else if c ≤ 8 then 2 else 3

/-- The 256 bytes of a digital row, as it was programmed. -/
def digitalRow (p : Pod) (row : Nat) : List Byte := (List.range 256).map fun i => BitVec.ofNat 8 (mget 0 p.digital (row * 256 + i))

/-- The pair of bits in column col of a digital row: four columns to a byte, the lowest bits first, then 64 check bits
(R50; log 143). -/
def digitalBits (row : List Byte) (col : Nat) : Nat :=
  if col < 1024 then (row.getD (col / 4) 0).toNat / 4 ^ (col % 4) % 4 else Config.bch row / 4 ^ (col - 1024) % 4

/-- Wrong bits of a decoded pair. -/
def bitsWrong (a b : Nat) : Nat := (a % 2 + b % 2) % 2 + (a / 2 % 2 + b / 2 % 2) % 2

/-- How many bits of a digital row read wrong, under conversion errors listed by column. -/
def rowErrors (e : ConvEnv) (p : Pod) (row : Nat) (errs : List (Nat × Int)) : Nat :=
  let bs := digitalRow p row
  (List.range 1056).foldl (fun n col =>
    let v := digitalBits bs col
    n + bitsWrong v (digitalValue (digitalCode e col v (((errs.find? (·.1 = col)).map (·.2)).getD 0)))) 0

/-- The rows of a reading: those whose wrong bits the code corrects, at most 5, and the first that it does not (R50). -/
def readRows (e : ConvEnv) (p : Pod) (rows : List Nat) (errs : List (Nat × Nat × Int)) : Nat × Option Nat :=
  let ns := rows.zipIdx.map fun r => (r.1, rowErrors e p r.1 ((errs.filter (·.1 = r.2)).map (·.2)))
  ((ns.filter fun x => decide (0 < x.2 ∧ x.2 ≤ 5)).length, (ns.find? fun x => decide (5 < x.2)).map (·.1))

/-- The digital rows that hold a run of 512-byte blocks. -/
def blockRows (block n : Nat) : List Nat := (List.range (2 * n)).map (2 * block + ·)

end Sys2Proof.Machine
end

