-- ==== Sys2Proof/Machine/Mvm.lean ====
section
/-! DEFINITION. The matrix-vector multiply of a pod with its conversions, marks, checks and duplicates (02 R38 to R46,
15 R303 to R309), input vectors (05 R103, R107, R109) and errors of DRAM reads (15 R322 to R324). -/

namespace Sys2Proof.Machine

open Sys2Proof

/-! DRAM errors -/

/-- A corrected DRAM line: at most one MEM_CE record each second, and every correction counts (R322). -/
def State.memCorrected (s : State) (page : Nat) : State :=
  let p := s.pageOwner page
  if s.limited 0x12000000 s.now second then s.countRaised p
  else (s.mark 0x12000000 s.now).fault clsMemCe 1 0x8001 p page

/-- Histories go to the vault (R321). -/
def State.saveHistories (s : State) : State :=
  { s with integ := { s.integ with
      vaultHist := (s.integ.hist.filter fun h => s.integ.dirtyHist.contains h.unit) ++
        s.integ.vaultHist.filter fun h => !s.integ.dirtyHist.contains h.unit,
      dirtyHist := [] } }

/-- An uncorrectable line: the cause is latched in the husk with the party that read, 0x80 for the device itself; the pool takes
no request, the engines stop and PUBLISH is suppressed; the warm reset follows as a command of its own (R323, Table INTEG-5).
In HOLD nothing resets: the record is raised with its HOLD flag and goes to the vault with its history, the keep copy ends and
the stop is due (R324). -/
def State.memFailed (s : State) (line requester : Nat) : State :=
  let page := line / 64
  if s.inHold then
    let s := (s.fault clsMemUe 1 0x8001 (s.pageOwner page) page).saveHistories
    { s with store := { s.store with
        flushed := s.store.flushed ++ (s.integ.log.drop (s.integ.log.length - 1)), flushedSince := s.store.flushedSince + 1,
        copying := none, copyDone := true, ueStop := true,
        regions := s.store.regions.map fun r => if r.state = 1 ∨ r.state = 4 then r else { r with state := 2 } } }
  else
    let s := s.dropAheads
    { s with
      husk := { s.husk with
        uePending := some (s.mkRec clsMemUe 1 0x8001 (s.pageOwner page) page), ueRequester := requester, ueLine := some line,
        resetAt := some (s.now + 2000) },
      pool := { s.pool with closed := true },
      core := { s.core with seg := none, wait := none, bundle := Bundle.blank, zeroing := none },
      walkers := s.walkers.map fun w => { w with queue := [], running := none, job := none, finished := w.issued },
      pips := s.pips.map fun p => { p with running := false } }

/-- What reading DRAM found (R322, R323). -/
def State.eccRead (s : State) (e : Ecc) (line requester : Nat) : State :=
  match e with
  | .clean => s
  | .corrected => s.memCorrected (line / 64)
  | .uncorrectable => s.memFailed line requester

/-! Input vectors -/

def s8 (b : Byte) : Int := b.toInt
/-- INT16 at an offset. -/
def s16At (bs : List Byte) (off : Nat) : Int := signedOf 16 (field bs off 2)

/-- Bit count of a number below 1,024. -/
def popBits : Nat → Nat → Nat
  | 0, _ => 0
  | n + 1, x => x % 2 + popBits n (x / 2)

/-- One run of the Hadamard transform in Sylvester order: y = H·x (R107). -/
def hadamard (xs : List Int) : List Int :=
  (List.range xs.length).map fun i =>
    (xs.zipIdx).foldl (fun a x => if popBits 10 (i &&& x.2) % 2 = 0 then a + x.1 else a - x.1) 0

/-- Cut into runs of b. -/
def chunks (b : Nat) : Nat → List Int → List (List Int)
  | 0, _ => []
  | n + 1, l => if l.isEmpty ∨ b = 0 then [] else l.take b :: chunks b n (l.drop b)

/-- The INT8 input of each row, and how many rows saturated in the transform (R103, R107). Rows at or beyond the limit receive
no pulse (R92), nor do outlier rows (R109). DESIGN CHOICE (log 194): the input format alone decides how the vector is read, also
where Table NUM-2 does not permit it for the object; no check names such an object. DESIGN CHOICE (log 195): when K is no
multiple of the transform's block, the last run is transformed over its own length; R107 gives no other. -/
def rowInputs (o : WObj) (limit : Nat) (bs : List Byte) : List Int × Nat :=
  let raw : List Int × Nat :=
    if o.fmt = 2 then
      let b := if o.transform = 1 then 64 else if o.transform = 2 then 128 else if o.transform = 3 then 256 else 1024
      let y := (chunks b 128 ((List.range o.K).map fun i => s16At bs (2 * i))).flatMap hadamard
      let z := y.map fun v => rshr v o.tshift
      (z.map (satn 8), (z.filter fun v => satn 8 v ≠ v).length)
    else if o.fmt = 3 then ((List.range o.K).map fun i => s16At bs (2 * i), 0)
    else ((List.range o.K).map fun i => s8 (bs.getD i 0), 0)
  ((raw.1.zipIdx).map fun x => if limit ≤ x.2 ∨ o.outliers.any (·.row = x.2) then 0 else x.1, raw.2)

/-- The side partial of a column: the sum over outlier rows of codebook value times companion (R109). -/
def sidePartial (o : WObj) (limit : Nat) (bs : List Byte) (j : Nat) : Int :=
  (o.outliers.zipIdx).foldl (fun a r =>
    if limit ≤ r.1.row then a
    else a + r.1.codebook.getD (r.1.codes.getD j 0) 0 * s16At bs (4 * ((o.K + 3) / 4) + 2 * r.2)) 0

/-- The residue of a value mod 7, 0 to 6 (05 R106). -/
def res7 (x : Int) : Nat := (x % 7).toNat

/-- The residue of a side partial: the sum of the product residues that its table entries carry (R106, R109). -/
def sideResidue (o : WObj) (limit : Nat) (bs : List Byte) (j : Nat) : Nat :=
  (o.outliers.zipIdx).foldl (fun a r =>
    if limit ≤ r.1.row then a
    else (a + res7 (r.1.codebook.getD (r.1.codes.getD j 0) 0) * res7 (s16At bs (4 * ((o.K + 3) / 4) + 2 * r.2)) % 7) % 7) 0

/-! One MVM -/

/-- The weight of a cell pair: the level of G+ minus the level of G− (R38). -/
def cellWeight (p : Pod) (row col : Nat) : Int :=
  let v := mget 0 p.cells (row * 1056 + col)
  (v / 16 % 16 : Nat) - (v % 16 : Nat)

/-- Pulse counts of a phase with the input's sign (R39). -/
def pulses (x : Int) (high : Bool) : Int :=
  let n : Int := if high then (x.natAbs / 16 : Nat) else (x.natAbs % 16 : Nat)
  if x < 0 then -n else n

/-- A phase sum of a column in product units. -/
def phaseSum (p : Pod) (rows : List (Nat × Int)) (col : Nat) (high : Bool) : Int :=
  rows.foldl (fun a r => if r.2 = 0 then a else a + cellWeight p r.1 col * pulses r.2 high) 0

/-- The range at which a column group converts: the object's, 0 without one; the checksum groups use the largest of the
pod's weight groups, 3 when the pod holds no object (R42, R303). -/
def groupRange (p : Pod) (g : Nat) : Nat :=
  if g < 130 then mget 0 p.ranges g - 1
  else
    let rs := p.ranges.filter fun x => decide (x.1 < 128)
    if rs.isEmpty then 3 else rs.foldl (fun m x => max m (x.2 - 1)) 0

/-- A column's two conversions: codes, clips and SUS marks. -/
structure Conv where
  hi : Int
  lo : Int
  hiClip : Bool
  loClip : Bool
  hiSus : Bool
  loSus : Bool
  deriving DecidableEq, Repr

/-- The two conversions of a column in an environment; the error of each is a free value (R45), as is its shift by die
temperature within the bound of R4. -/
def convert (e : ConvEnv) (p : Pod) (rows : List (Nat × Int)) (free col : Nat) : Conv :=
  let read (high : Bool) (n : Nat) : Int × Bool :=
    e.read (groupRange p (col / 8)) (col / 8) (phaseSum p rows col high) (Config.tempShift n) (Config.freeInt n)
  let h := read true (free + 2 * col)
  let l := read false (free + 2 * col + 1)
  ⟨h.1, l.1, h.2, l.2, false, false⟩

/-- The SUS marks of one ADC's 16 conversions: high phase columns 0 to 7, then low phase (R43, Table POD-4). -/
def markGroup (cs : List Conv) : List Conv :=
  let hs := susMarks (cs.map (·.hiClip))
  let last := (cs.getLast?.map (·.hiClip)).getD false
  let ls := (last :: cs.map (·.loClip)).take cs.length
  (cs.zip (hs.zip ls)).map fun x => { x.1 with hiSus := x.2.1, loSus := x.2.2 }

/-- All 132 ADCs of a pod convert their eight columns (R41). -/
def mvmConvs (e : ConvEnv) (p : Pod) (rows : List (Nat × Int)) (free : Nat) : List Conv :=
  (List.range 132).flatMap fun g => markGroup ((List.range 8).map fun j => convert e p rows free (8 * g + j))

/-- The combined partial of a column and its mark: 0 clean, 1 CLIP, 2 SUS (R39, R44). -/
def combined (c : Conv) : Int × Nat :=
  (16 * c.hi + c.lo, if c.hiClip || c.loClip then 1 else if c.hiSus || c.loSus then 2 else 0)

def convAt (cv : List Conv) (col : Nat) : Conv := cv.getD col ⟨0, 0, false, false, false, false⟩

/-- Settled readout over k repeats: the rounded average, CLIP or SUS if any repeat is (R46). DESIGN CHOICE (log 144): an element
that is CLIP in one repeat and SUS in another is CLIP, as R44 has it of the two conversions of one repeat; R46 names no
precedence. -/
def settled (reps : List (List Conv)) (col : Nat) : Int × Nat :=
  let xs := reps.map fun cv => combined (convAt cv col)
  let k := xs.length
  let sum := xs.foldl (fun a x => a + x.1) 0
  (Int.shiftRight (sum + (k / 2 : Nat)) (Nat.log2 k),
    if xs.any (·.2 = 1) then 1 else if xs.any (·.2 = 2) then 2 else 0)

/-- The number of the next MVM interval of a pod, counted from the tick: not before now, and on a pod with execution in place
no fetch slot, whose number is 15 modulo 16 (R60). -/
def State.nextInterval (s : State) (pod : Nat) : Nat :=
  let n := max (s.sinceTick / 320) (s.pod pod).interval
  if s.reg (podReg pod 9) ≠ 0 ∧ n % 16 = 15 then n + 1 else n

/-- Issue an MVM to a pod in an interval: its conversions are drawn and its interval is counted. -/
def State.mvm (s : State) (pod : Nat) (rows : List (Nat × Int)) (at_ : Nat) : List Conv × State :=
  (mvmConvs (s.convEnv pod) (s.pod pod) rows s.free,
    { s.onPod pod fun p => { p with mvms := p.mvms + 1, interval := at_ + 1 } with free := s.free + 2112 })

/-! Drift reads (03 R68) -/

/-- One drift read: every row at +1, reference columns 0 to 15 at range 1, their low-phase codes. -/
def driftCodes (e : ConvEnv) (p : Pod) (free : Nat) : List Int :=
  let rows : List (Nat × Int) := (List.range 1024).map fun r => (r, 1)
  (List.range 16).map fun m =>
    (e.read 1 ((1024 + m) / 8) (phaseSum p rows (1024 + m) false) (Config.tempShift (free + m)) (Config.freeInt (free + m))).1

/-- n drift reads of a pod, each in an MVM interval of its own, added to what its earlier visits have summed. -/
def State.driftReads (s : State) (pod : Nat) : Nat → State
  | 0 => s
  | n + 1 =>
    let cs := driftCodes (s.convEnv pod) (s.pod pod) s.free
    State.driftReads { s.onPod pod fun p =>
        { p with driftAcc := (List.range 16).map fun m => p.driftAcc.getD m 0 + cs.getD m 0, interval := s.nextInterval pod + 1 } with
      free := s.free + 16 } pod n

/-! Checksum columns (R303 to R305) -/

/-- A checksum column's comparison in one phase: none when it is not judged, because a weight column or the checksum conversion is
CLIP or SUS in either phase (R44, R304); otherwise by how many codes, rounded up, it fails, 0 when it passes. -/
def checkColumn (p : Pod) (rows : List (Nat × Int)) (cv : List Conv) (tol j : Nat) (high : Bool) : Option Nat :=
  let m := convAt cv (1040 + j)
  let dirty (c : Conv) : Bool := (combined c).2 ≠ 0
  let cols := (List.range 64).map fun i => 16 * i + j
  if dirty m || cols.any fun c => dirty (convAt cv c) then none
  else
    let lcs := rangeLsb (groupRange p 130)
    let code (c : Conv) : Int := if high then c.hi else c.lo
    let sum := cols.foldl (fun a c => a + code (convAt cv c) * (rangeLsb (groupRange p (c / 8)) : Int)) (0 : Int)
    let diff := (64 * (lcs : Int) * code m - sum).natAbs
    let bound := 64 * lcs * (tol + 1) + 32 * (rows.foldl (fun a r => a + (pulses r.2 high).natAbs) 0)
    some (if diff ≤ bound then 0 else ceilDiv (diff - bound) (64 * lcs))

/-- All judged checksum columns of an MVM: column, phase, excess. -/
def checkAll (p : Pod) (rows : List (Nat × Int)) (cv : List Conv) (tol : Nat) : List (Nat × Bool × Nat) :=
  (List.range 16).flatMap fun j => [true, false].filterMap fun h => (checkColumn p rows cv tol j h).map fun e => (j, h, e)

/-- A CHECK record names a pod: at most one for each checked pod, party, cause and frame, and every failure counts; the checked
pod of a duplicate is the target, also where the spare is named (R305, R309). The pod named counts as named in this frame
(R310). -/
def State.checkRecord (s : State) (checked pod seg cause ctx desc tile detail : Nat) : State :=
  let p := s.segParty seg
  let key := 0x13000000 + (cause * 64 + checked) * 32 + p % 32
  let s := s.onPod pod fun x => { x with named := true }
  let s := s.flagFault seg
  if s.limited key s.frame.number 1 then s.countRaised p
  else (s.mark key s.frame.number).raise
    { s.mkRec clsCheck cause (unitPod pod) p detail with ctx := ctx, desc := desc, tile := tile % 65536 }

/-- The detail of a CHECKSUM record: column, phase and excess (Table INTEG-3). -/
def checkDetail (x : Nat × Bool × Nat) : Nat := x.1 + (if x.2.1 then 16 else 0) + 256 * min 255 x.2.2

/-- Judge the checksums of one MVM of a pod, each failing column and phase a failure of its own; true when one failed (R303 to
R305). -/
def State.checksums (s : State) (pod seg ctx desc tile : Nat) (rows : List (Nat × Int)) (cv : List Conv) : Bool × State :=
  if s.reg 0x400002 = 0 then (false, s)
  else
    let js := checkAll (s.pod pod) rows cv (s.inForce 0x400003)
    let s := if js.isEmpty then s else s.onPod pod fun x => { x with judged := true }
    let fails := js.filter fun x => decide (0 < x.2.2)
    (!fails.isEmpty, fails.foldl (fun (s : State) x =>
      s.checkRecord pod pod seg 1 ctx desc tile (checkDetail x)) s)

/-! Duplicates (R307 to R309, R436) -/

/-- The bound B of Table INTEG-1 for k repeats: 2 + ceil(8 × √2 × σ / √k) with σ of Table POD-5. -/
def dupBound (r k : Nat) : Nat :=
  let row := if k = 1 then [111, 66, 48, 42] else if k = 2 then [79, 47, 35, 31]
    else if k = 4 then [57, 34, 25, 22] else [41, 25, 19, 17]
  row.getD r 0

/-- The duplicate check of a column passes. -/
def dupPasses (r k : Nat) (t sp : Int) : Bool :=
  decide ((t - sp).natAbs ≤ ceilDiv (35 * max t.natAbs sp.natAbs) 10000 + dupBound r k)

/-- MVM intervals between duplicates for an effective fraction (0x4000:05). -/
def dupEvery (f : Nat) : Nat := if f = 1 then 64 else if f = 2 then 16 else 4

/-- The spare that duplicates a pod's MVM of this interval, if any: fraction above 0, T0 or T1, VERIFIED as a mirror of
the pod's slot, not a new version and not fenced, powered, the interval's number a multiple, and the drain slot not exceeded by the
pods issuing in it (R307, R436). -/
def State.duplicator (s : State) (pod issuing : Nat) : Option Nat :=
  let f := s.reg 0x400005
  match s.spare (pod / 5) with
  | none => none
  | some sp =>
    let x := s.pod sp
    if f ≠ 0 && decide (s.tier ≤ 1) && s.reg (podReg sp 3) = 3 && !x.fresh && !x.fenced && x.mirror = s.reg (podReg pod 2) &&
        s.reg (podReg sp 11) = 1 && (s.pod pod).mvms % dupEvery f = 0 &&
        decide (issuing * (if s.reg 0x400002 = 1 then 17 else 16) + 33 ≤ 96) then some sp
    else none

/-- A column is judged in a duplicate check: it is neither CLIP nor SUS on either pod (R308). -/
def dupJudged (tr sr : List (List Conv)) (c : Nat) : Bool := (settled tr c).2 = 0 && (settled sr c).2 = 0

/-- Compare the target's and the spare's delivered partials over some columns (R308): the first failing column and the
difference. -/
def dupFail (p : Pod) (k : Nat) (tr sr : List (List Conv)) (cols : List Nat) : Option (Nat × Nat) :=
  (cols.filterMap fun c =>
    let t := settled tr c
    let q := settled sr c
    if !dupJudged tr sr c ∨ dupPasses (groupRange p (c / 8)) k t.1 q.1 then none
    else some (c, (t.1 - q.1).natAbs)).head?

/-- A k-block of one vector in progress: the pod, its place among the k-blocks on that pod, how many pods issue in its interval,
the interval of its present repeat, its rows and columns, the spare that
duplicates it, its repeats so far, those of them that the spare duplicated, and the spare's, with the checksum verdicts of the
duplicated ones. -/
structure BlockRun where
  pod : Nat
  rank : Nat
  issuing : Nat
  at_ : Nat
  rows : List (Nat × Int)
  cols : List Nat
  spare : Option Nat
  target : List (List Conv)
  checked : List (List Conv)
  dups : List (List Conv)
  targetBad : Bool
  spareBad : Bool
  deriving DecidableEq, Repr

/-- One repeat of a block: an MVM on its pod with the checksums, and on the spare where the number of its own interval is a
multiple of the fraction (R86, R303 to R307; log 114). -/
def State.oneRepeat (s : State) (seg ctx desc tile : Nat) (x : BlockRun) : BlockRun × State :=
  let spare := s.duplicator x.pod x.issuing
  let (cv, s) := s.mvm x.pod x.rows x.at_
  let (bad, s) := s.checksums x.pod seg ctx desc tile x.rows cv
  let x := { x with target := x.target ++ [cv] }
  match spare with
  | none => (x, s)
  | some sp =>
    let (dv, s) := s.mvm sp x.rows x.at_
    let (dupBad, s) := s.checksums sp seg ctx desc tile x.rows dv
    ({ x with spare := some sp, checked := x.checked ++ [cv], dups := x.dups ++ [dv], targetBad := x.targetBad || bad,
              spareBad := x.spareBad || dupBad }, s)

/-- The first interval from n on that is no fetch slot of any of some pods (R60). -/
def State.commonInterval (s : State) (pods : List Nat) (n : Nat) : Nat :=
  if n % 16 = 15 && pods.any fun i => decide (s.reg (podReg i 9) ≠ 0) then n + 1 else n

/-- The intervals of one repeat of a vector: k-blocks on different pods share one, and those that share a pod follow each other
(R86). The list has one interval for each place among the k-blocks of a pod. -/
def State.repeatTimes (s : State) (xs : List BlockRun) : Nat → List Nat
  | 0 => []
  | n + 1 =>
    let before := s.repeatTimes xs n
    let start := match before.getLast? with
      | some t => t + 1
      | none => (xs.map fun x => s.nextInterval x.pod).foldl max 0
    before ++ [s.commonInterval ((xs.filter fun x => x.rank = n).map (·.pod)) start]

/-- One repeat of every k-block of a vector, in ascending order, each in its interval (R86). -/
def State.blocksOnce (s : State) (seg ctx desc tile : Nat) (xs : List BlockRun) : List BlockRun × State :=
  let times := s.repeatTimes xs ((xs.map fun x => x.rank + 1).foldl max 0)
  xs.foldl (fun q x =>
    let (y, t) := q.2.oneRepeat seg ctx desc tile { x with at_ := times.getD x.rank 0 }
    (q.1 ++ [y], t)) ([], s)

/-- The k repeats of a vector: each issues all its k-blocks before the next begins (R46, R86). -/
def State.repeats (s : State) (seg ctx desc tile : Nat) : Nat → List BlockRun → List BlockRun × State
  | 0, xs => (xs, s)
  | n + 1, xs =>
    let (ys, t) := s.blocksOnce seg ctx desc tile xs
    t.repeats seg ctx desc tile n ys

/-- The duplicate check of a block's columns once its repeats are done, over the repeats that both pods made, with its arbitration
(R308, R309). The target has executed a judged MVM where a column was judged (R310). -/
def State.judgeDup (s : State) (seg ctx desc tile : Nat) (x : BlockRun) : State :=
  match x.spare with
  | none => s
  | some sp =>
    let s := if x.cols.any (dupJudged x.checked x.dups) then s.onPod x.pod fun p => { p with judged := true } else s
    match dupFail (s.pod x.pod) x.dups.length x.checked x.dups x.cols with
    | none => s
    | some (c, diff) =>
      let undecided := x.targetBad == x.spareBad
      let namesSpare := x.spareBad && !x.targetBad
      let named := if namesSpare then sp else x.pod
      let s := s.checkRecord x.pod named seg 2 ctx desc tile
        (c % 1024 + (if namesSpare then 1024 else 0) + (if undecided then 2048 else 0) + 65536 * min 65535 diff)
      if namesSpare then s.setReg (podReg sp 3) 5 else s

end Sys2Proof.Machine
end

