-- ==== Sys2Proof/Machine/Drain.lean ====
section
/-! DEFINITION. Drain chains (05 R114 to R117): the steps of a chain on one element, the clip policy, validity, the
learned head (R111 to R113) and the output of a tile. -/

namespace Sys2Proof.Machine

open Sys2Proof

/-! FP16 (Table NUM-3 QUANT) -/

/-- a / 2^n rounded to nearest even. -/
def rneShift (a n : Nat) : Nat :=
  let q := a / 2 ^ n
  let r := a % 2 ^ n
  if 2 ^ n < 2 * r ∨ (2 * r = 2 ^ n ∧ 0 < n ∧ q % 2 = 1) then q + 1 else q

/-- x × 2^−q as FP16 bits, rounded to nearest even, ±65,504 on overflow; and whether it overflowed. -/
def toFp16 (x : Int) (q : Nat) : Nat × Bool :=
  let a := x.natAbs
  let sign := if x < 0 then 32768 else 0
  if a = 0 then (0, false)
  else
    let e : Int := (Nat.log2 a : Int) - q
    let qe : Int := max (e - 10) (-24)
    let sh : Int := qe + q
    let m := if sh ≤ 0 then a * 2 ^ (-sh).toNat else rneShift a sh.toNat
    let bits := if e < -14 then m else ((e + 14).toNat * 1024 + m)
    if 31743 < bits then (sign + 31743, true) else (sign + bits, false)

/-- The integer part of an FP16 value, truncated towards zero. -/
def fp16Trunc (w : Nat) : Int :=
  let m := w % 1024
  let e := w / 1024 % 32
  let v := if e = 0 then 0 else if 25 ≤ e then (1024 + m) * 2 ^ (e - 25) else (1024 + m) / 2 ^ (25 - e)
  if 32768 ≤ w then -(v : Int) else v

/-! Steps -/

/-- An element on its way through a chain: its running value, whether it is marked, what QUANT wrote: format, value
and whether the policy is POISON; and the first step whose residue did not match (R106). -/
structure Elem where
  x : Int
  marked : Bool
  quant : Option (Nat × Int × Bool)
  bad : Option Nat
  deriving DecidableEq, Repr

/-- A register of a bank: kind 0 scale, 1 bias, 2 activation tables. -/
def bankAt (w : Walker) (kind i : Nat) : Int :=
  match w.banks.find? fun x => x.1 = kind && x.2.1 = i with
  | some x => x.2.2
  | none => 0

/-- A value narrowed to 32 bits, marking the element when it saturates (R116). -/
def narrow32 (e : Elem) (v : Int) : Elem :=
  { e with x := satn 32 v, marked := e.marked || decide (satn 32 v ≠ v) }

/-- ACT: the interpolated table (R115). -/
def actTable (w : Walker) (table a : Nat) (x : Int) : Int :=
  let u := satn 16 (Int.shiftRight x a)
  let i := (Int.shiftRight u 8 + 128).toNat
  let f := u % 256
  let t := bankAt w 2 (table * 256 + i)
  let t1 := bankAt w 2 (table * 256 + min 255 (i + 1))
  t + rshr ((t1 - t) * f) 8

/-- Element j of vector b of an operand in the buffer: bytes of one element. -/
def operandAt (w : Walker) (addr stride b j size : Nat) : Int :=
  signedOf (8 * size) (leNat (readCells w.buffer (addr + b * stride + j * size) size))

/-- One step on the element of vector b and column j (Table NUM-3). -/
def chainStep (w : Walker) (b j : Nat) (e : Elem) (st : BitVec 64) : Elem :=
  let op := stepBits st 0 8
  if op = 1 then
    let v := (bankAt w 0 (stepBits st 8 16 + j)).toNat
    narrow32 e (rshr (e.x * (v % 65536 : Nat)) (v / 65536 % 64))
  else if op = 2 then narrow32 e (e.x + bankAt w 1 (stepBits st 8 16 + j))
  else if op = 3 then { e with x := actTable w (stepBits st 8 5) (stepBits st 13 5) e.x }
  else if op = 4 then
    let size := if stepBits st 48 1 = 0 then 1 else 2
    narrow32 e (e.x + operandAt w (stepBits st 8 20) (stepBits st 28 20) b j size * 2 ^ stepBits st 49 5)
  else if op = 5 then
    let q := stepBits st 10 6
    let fmt := stepBits st 8 2
    let poison := decide (stepBits st 16 1 = 1)
    if fmt = 2 then
      let r := toFp16 e.x q
      { e with marked := e.marked || r.2, quant := some (2, r.1, poison) }
    else
      let n := if fmt = 0 then 8 else 16
      let v := rshr e.x q
      { e with marked := e.marked || decide (satn n v ≠ v), quant := some (fmt, satn n v, poison) }
  else e

/-- The steps of a chain up to END. -/
def activeSteps : List (BitVec 64) → List (BitVec 64)
  | [] => []
  | st :: r => if stepBits st 0 8 = 0 then [] else st :: activeSteps r

/-- An upset of step n of an element: what it adds to the value that the step delivers; 0 accumulator read, 1 SCALE, 2 BIAS,
3 RESADD, 4 ACT, as Table INTEG-3 numbers them. -/
def upsetAt (ups : List (Nat × Int)) (n : Nat) : Int := ((ups.find? (·.1 = n)).map (·.2)).getD 0

/-- The number of a step that checks its residue (Table INTEG-3). -/
def residueStep (op : Nat) : Option Nat :=
  if op = 1 then some 1 else if op = 2 then some 2 else if op = 3 then some 4 else if op = 4 then some 3 else none

/-- One step with its residue check: the prediction is the residue of what the step computes, and the result's residue is
generated from what it delivers (R106). -/
def checkedStep (w : Walker) (b j : Nat) (ups : List (Nat × Int)) (e : Elem) (st : BitVec 64) : Elem :=
  let e' := chainStep w b j e st
  match residueStep (stepBits st 0 8) with
  | none => e'
  | some n =>
    let x := e'.x + upsetAt ups n
    { e' with x := x, bad := e.bad <|> (if res7 x = res7 e'.x then none else some n) }

/-- A chain on one accumulator: the read regenerates its residue and compares it with the stored one (R106). -/
def runChain (w : Walker) (steps : List (BitVec 64)) (b j : Nat) (ups : List (Nat × Int)) (a : Accum) : Elem :=
  let x := a.x + upsetAt ups 0
  (activeSteps steps).foldl (checkedStep w b j ups) ⟨x, a.marked, none, if res7 x = a.res then none else some 0⟩

/-- The steps of a chain with an opcode: a chain may hold several LENOUT and HEADLRN (R114). -/
def stepsOf (steps : List (BitVec 64)) (op : Nat) : List (BitVec 64) := (activeSteps steps).filter fun st => stepBits st 0 8 = op

/-- The step of a chain with an opcode. -/
def stepOf (steps : List (BitVec 64)) (op : Nat) : Option (BitVec 64) :=
  (activeSteps steps).find? fun st => stepBits st 0 8 = op

/-- The validity bits of n buffer bytes are all set. -/
def allValid (w : Walker) (a n : Nat) : Bool := (List.range n).all fun i => w.valid.contains (a + i)

/-- A buffer operand of RESADD or HEADLRN taints vector b (R117). -/
def operandTaint (w : Walker) (steps : List (BitVec 64)) (n b : Nat) : Bool :=
  (match stepOf steps 4 with
   | some st => !allValid w (stepBits st 8 20 + b * stepBits st 28 20) (n * (if stepBits st 48 1 = 0 then 1 else 2))
   | none => false) ||
  (stepsOf steps 7).any fun st => !allValid w (stepBits st 8 20 + b * stepBits st 28 20) (n * 2)

/-! The learned head (R111 to R113) -/

/-- The head that holds an object of a segment's party. -/
def State.headOf (s : State) (seg obj : Nat) : Option (Nat × Head) :=
  ((s.heads.zipIdx).find? fun x => x.1.obj = obj && x.1.party = s.segParty seg && decide (0 < x.1.K)).map fun x =>
    (x.2, x.1)

/-- The code derived from a master. -/
def headCode (m : Int) : Int := clampI (-8) 7 (rshr m 12)

/-- Accumulator of column j: codes times inputs over the rows below the limit (R111). -/
def headSum (h : Head) (k limit : Nat) (xs : List Int) (j : Nat) : Int :=
  (List.range (min k limit)).foldl (fun a i => a + h.codes.getD (i * h.N + j) 0 * xs.getD i 0) 0

/-- Its residue, of the residues that its product table entries carry (R106, R111). -/
def headResidue (h : Head) (k limit : Nat) (xs : List Int) (j : Nat) : Nat :=
  (List.range (min k limit)).foldl (fun a i => (a + res7 (h.codes.getD (i * h.N + j) 0) * res7 (xs.getD i 0) % 7) % 7) 0

/-- HEADLRN for one vector: masters of the tile's columns move by the error times the input (R112). Answers the masters
and how many saturated. -/
def headLearn (h : Head) (rows c0 nc sh : Nat) (xs : List Int) (err : Nat → Option Int) : List Int × Nat :=
  (List.range rows).foldl (fun r i =>
    (List.range nc).foldl (fun r j =>
      match err (c0 + j) with
      | none => r
      | some e =>
        let m := r.1.getD (i * h.N + (c0 + j)) 0 + rshr (e * xs.getD i 0) sh
        (setAt r.1 (i * h.N + (c0 + j)) (satn 16 m), if satn 16 m = m then r.2 else r.2 + 1)) r) (h.masters, 0)

/-! A tile's output -/

/-- A RESIDUE mismatch of a cluster: counted, and recorded once for each cluster and party in a frame (R106, R306). -/
def State.residueFault (s : State) (c seg ctx desc tile b j step : Nat) : State :=
  let p := s.segParty seg
  let s := (s.bumpFor p (okey (0x3300 + c) 3)).flagFault seg
  s.faultOnce (0x14000000 + c * 32 + p % 32) s.frame.number 1
    { s.mkRec clsResidue 1 (unitCluster c) p (j % 4096 + b % 65536 * 4096 + step % 16 * 268435456) with
      ctx := ctx, desc := desc, tile := tile % 65536 }

/-- What one element becomes: value bytes, validity and the updated counters (R106, R116). -/
def State.emit (s : State) (c seg : Nat) (r : Running) (steps : List (BitVec 64))
    (ups : List (Nat × Nat × Nat × Int)) (b j : Nat) (a : Accum) : Option Int × State :=
  let p := s.segParty seg
  let esize := elemSize steps
  let zero (s : State) : State := s.putOut c seg r.bytes esize b j (List.replicate esize 0) false
  let e := runChain (s.walker c) steps b j ((ups.filter fun y => y.1 = b && y.2.1 = j).map fun y => y.2.2) a
  match e.bad with
  | some n => (none, zero (s.residueFault c seg (dCtx r.bytes) r.desc r.next b j n))
  | none =>
    match e.quant with
    | none => (none, zero s)
    | some (_, v, poison) =>
      let mark (s : State) : State :=
        if e.marked then s.markOut seg false r.bytes (dOut r.bytes + b * dOutStride r.bytes + j * esize) esize else s
      if e.marked && poison then (none, mark (zero (s.bumpFor p (okey (0x3300 + c) 2))))
      else
        let s := if e.marked then s.bumpFor p (okey (0x3300 + c) 1) else s
        (some v, mark (s.putOut c seg r.bytes esize b j (leBytes esize (unsignedOf 16 v)) true))

/-- One vector of a tile: every column, then what LENOUT steps note and the head's learning steps. DEDUCED (log 157): a
vector is valid when no element of it in the tile is poisoned or residue-failed; only such a vector is LENOUT's last valid one
(R115), and only such a vector teaches, all its columns (R112). -/
def State.emitVector (s : State) (c seg : Nat) (o : WObj) (r : Running) (t : Tile) (steps : List (BitVec 64))
    (ups : List (Nat × Nat × Nat × Int)) (b : Nat) (accs : List Accum) (xs : List Int) : State :=
  let w0 := s.walker c
  let (outs, s) := ((accs.zipIdx).foldl (fun q a =>
    let (v, s') := q.2.emit c seg r steps ups b (t.c0 + a.2) a.1
    (v :: q.1, s')) (([] : List (Option Int)), s))
  let outs := outs.reverse
  let whole := outs.all (·.isSome)
  let fp16 := (stepOf steps 5).any fun q => stepBits q 8 2 = 2
  let s := ((stepsOf steps 6).zipIdx).foldl (fun (s : State) st =>
    let col := stepBits st.1 12 13
    match (if whole ∧ t.c0 ≤ col then outs.getD (col - t.c0) none else none) with
    | none => s
    | some v =>
      let v := if fp16 then fp16Trunc v.toNat else v
      s.onWalker c fun w => { w with running := w.running.map fun (r : Running) =>
        { r with lenOut := (st.2, v) :: r.lenOut.filter (·.1 ≠ st.2) } }) s
  let teach := stepsOf steps 7
  match s.headOf seg (dObj r.bytes) with
  | some (hn, h) =>
    if whole && !teach.isEmpty && o.head && s.reg (okey (0x3310 + hn) 4) = 1 && decide (s.tier ≤ 1) then
      let rows := match r.len with
        | some l => if dLenK r.bytes then min l (dK r.bytes) else dK r.bytes
        | none => dK r.bytes
      let (ms, sats) := teach.foldl (fun q st =>
        let err (j : Nat) : Option Int :=
          (outs.getD (j - t.c0) none).map fun y =>
            satn 16 (operandAt w0 (stepBits st 8 20) (stepBits st 28 20) b j 2 - y)
        let x := headLearn { h with masters := q.1 } rows t.c0 t.nc (stepBits st 48 5) xs err
        (x.1, q.2 + x.2)) (h.masters, 0)
      State.bump { s with heads := upd s.heads hn fun (x : Head) => { x with masters := ms } } (okey (0x3310 + hn) 6) sats
    else s
  | none => s

end Sys2Proof.Machine
end

