-- ==== Sys2Proof/Machine/PipOps.lean ====
section
/-! DEFINITION. The pip machine (07 R140 to R149): registers, latencies, the memory maps of the four kinds of engine
(Tables PIP-5, SENSE-8, NET-2, HOLD-4), exceptions and the end of a run. Engines 0 to 3 are the intake engines, 4 to 11
the drain engines of C0 to C7, 12 the hold-up engine and 13 the classifier. -/

namespace Sys2Proof.Machine

open Sys2Proof

def State.pip (s : State) (e : Nat) : Pip := s.pips.getD e Pip.blank
def State.onPip (s : State) (e : Nat) (f : Pip → Pip) : State := { s with pips := upd s.pips e f }

/-- A register as an instruction reads it: p0 reads 0 (R140). -/
def State.pipReg (s : State) (e : Nat) (r : BitVec 4) : Word :=
  if r = 0 then 0 else (s.pip e).regs.getD r.toNat 0

/-- An engine's clock period in eighths of a nanosecond (Table PIP-4). -/
def pipPeriod (e : Nat) : Nat := if e < 4 then 40 else if e < 12 then 10 else if e = 12 then 2000 else 20

/-- The time of an engine's run. -/
def State.pipTime (s : State) (e : Nat) : Nat := max s.now ((s.pip e).start + (s.pip e).cycle * pipPeriod e / 8)

abbrev pxIllegal : Nat := 1
abbrev pxAlign : Nat := 2
abbrev pxBound : Nat := 3
abbrev pxSteps : Nat := 4
abbrev pxTime : Nat := 5
abbrev pxFetch : Nat := 6

/-! Latencies (R141) -/

/-- Make due results visible; two that reach a register in one cycle leave it open (log 44). -/
def State.pipRetire (s : State) (e : Nat) : State :=
  let p := s.pip e
  let due := p.writes.filter fun w => decide (w.1 ≤ p.cycle)
  let regs := due.foldl (fun regs w =>
    let same := due.filter fun x => x.1 = w.1 && x.2.1 = w.2.1
    setAt regs w.2.1 (if same.length ≤ 1 then w.2.2
      else Config.freeWord (s.free + due.findIdx fun x => x.1 = w.1 && x.2.1 = w.2.1))) p.regs
  { s.onPip e fun p => { p with regs := regs, writes := p.writes.filter fun w => decide (p.cycle < w.1) } with
    free := s.free + due.length }

/-- Go to an instruction after some cycles; the instruction counts as executed. -/
def State.pipGo (s : State) (e : Nat) (pc : Int) (dc : Nat) : State :=
  (s.onPip e fun p => { p with pc := pc.toNat, steps := p.steps + 1, cycle := p.cycle + dc }).pipRetire e

def State.pipNext (s : State) (e : Nat) : State := s.pipGo e ((s.pip e).pc + 1) 1

/-- Stage a result of some latency. -/
def State.pipWrite (s : State) (e lat : Nat) (d : BitVec 4) (v : Word) : State :=
  s.onPip e fun p => { p with writes := sortBy (·.1) (p.writes ++ [(p.cycle + lat, d.toNat, v)]) }

/-! Memory maps -/

/-- The instruction that a cluster's drain run serves. -/
def State.drainJob (s : State) (e : Nat) : Option Running := (s.walker (e - 4)).running

/-- The output region of an instruction in the buffer: first byte and length. -/
def outRegion (d : List Byte) (esize : Nat) : Nat × Nat := (dOut d, (dB d - 1) * dOutStride d + dN d * esize)

def State.drainRegion (s : State) (e : Nat) : Nat × Nat :=
  match s.drainJob e with
  | none => (0, 0)
  | some r =>
    match s.segImg r.seg with
    | some g => outRegion r.bytes (elemSize (chainOf g (e - 4) (dChain r.bytes)))
    | none => (0, 0)

/-- The constant tables of the running image. -/
def State.pipTables (s : State) (e : Nat) : List Byte := ((s.pip e).image.map (·.tables)).getD []

/-- The byte of a word register. -/
def wordByte (v : Nat) (i : Nat) : Byte := BitVec.ofNat 8 (v / 256 ^ i)

/-- The intake job of a run. -/
def State.intakeOf (s : State) (e : Nat) : Option IntakeJob :=
  (s.segImg (s.pip e).seg).bind fun g => g.jobs.find? (·.job = (s.pip e).item)

/-- Keep states as 2 bits for each region, EMPTY to SKIPPED; UNMAPPED reads as SKIPPED (Table HOLD-4; log 45). -/
def State.keepStates (s : State) : Nat :=
  (s.store.regions.zipIdx).foldl (fun a r => a + min 3 r.1.state * 4 ^ r.2) 0

/-- A byte that an engine can load from an address; none outside its map. Within the map and beyond the image's constant tables
the byte is free (log 160). -/
def State.pipByte (s : State) (e a : Nat) : Option Byte :=
  let p := s.pip e
  let table (base : Nat) : Option Byte :=
    some ((s.pipTables e).getD (a - base) (BitVec.ofNat 8 (Config.freeNat (s.free + (a - base)))))
  if e < 4 then
    match s.intakeOf e with
    | none => none
    | some j =>
      if a < j.dataLen * 256 then some (mget 0 p.data (j.dataBase * 256 + a))
      else if 0x100000 ≤ a ∧ a < 0x200000 then p.input[a - 0x100000]?
      else if 0x300000 ≤ a ∧ a < 0x400000 then table 0x300000
      else if 0x400000 ≤ a ∧ a < 0x400004 then some (wordByte s.frame.number (a - 0x400000))
      else if 0x400004 ≤ a ∧ a < 0x400008 then some (wordByte s.tier (a - 0x400004))
      else if 0x400008 ≤ a ∧ a < 0x40000C then
        some (wordByte (unsignedOf 32 (if s.source = 3 then s.frame.angle else 0)) (a - 0x400008))
      else none
  else if e < 12 then
    if a < 0x2000 then some (mget 0 p.data a)
    else if 0x100000 ≤ a ∧ a < 0x200000 then some (mget 0 (s.walker (e - 4)).buffer (a - 0x100000))
    else if 0x200000 ≤ a ∧ a < 0x200040 then
      some (wordByte ((s.walker (e - 4)).lens.getD ((a - 0x200000) / 4) 0) (a % 4))
    else if 0x300000 ≤ a ∧ a < 0x304000 then table 0x300000
    else if 0x400000 ≤ a ∧ a < 0x400004 then some (wordByte s.frame.number (a - 0x400000))
    else if 0x400004 ≤ a ∧ a < 0x400008 then some (wordByte s.tier (a - 0x400004))
    else if 0x400008 ≤ a ∧ a < 0x40000C then some (wordByte p.item (a - 0x400008))
    else if 0x40000C ≤ a ∧ a < 0x400010 then
      some (wordByte (((s.drainJob e).bind (·.len)).getD 0xFFFFFFFF) (a - 0x40000C))
    else none
  else if e = 12 then
    if a < 0x400 then some (mget 0 p.data a)
    else if 0x400000 ≤ a ∧ a < 0x400004 then some (wordByte p.item (a - 0x400000))
    else if 0x400004 ≤ a ∧ a < 0x400008 then some (wordByte s.store.vTerm (a - 0x400004))
    else if 0x400008 ≤ a ∧ a < 0x40000C then some (wordByte (unsignedOf 32 s.store.amps) (a - 0x400008))
    else if 0x40000C ≤ a ∧ a < 0x400010 then some (wordByte (s.reg 0x24A004) (a - 0x40000C))
    else if 0x400010 ≤ a ∧ a < 0x400014 then
      some (wordByte ((s.now - s.store.lostAt.getD s.now) / 1000000) (a - 0x400010))
    else if 0x400014 ≤ a ∧ a < 0x400018 then some (wordByte s.keepStates (a - 0x400014))
    else none
  else
    if a < 128 then some (mget 0 p.data (p.item * 128 + a))
    else if 0x100000 ≤ a ∧ a < 0x100100 then some (p.input.getD (a - 0x100000) 0)
    else if 0x200000 ≤ a ∧ a < 0x200004 then
      some (wordByte (p.seg + p.item * 16 + field p.input 1 1 * 256 + field p.input 2 2 * 65536) (a - 0x200000))
    else if 0x200004 ≤ a ∧ a < 0x200008 then some (wordByte p.input.length (a - 0x200004))
    else if 0x200008 ≤ a ∧ a < 0x20000C then some (wordByte s.deviceTime (a - 0x200008))
    else if 0x300000 ≤ a ∧ a < 0x400000 then table 0x300000
    else none

/-- Load n bytes; none where one lies outside the map. -/
def State.pipBytes (s : State) (e a : Nat) : Nat → Option (List Byte)
  | 0 => some []
  | n + 1 =>
    match s.pipByte e a, s.pipBytes e (a + 1) n with
    | some b, some bs => some (b :: bs)
    | _, _ => none

/-- The free values of a load from the constant tables are used up (log 160). -/
def State.pipDraw (s : State) (a : Nat) : State :=
  if 0x300000 ≤ a ∧ a < 0x400000 then { s with free := s.free + 0x100000 } else s

/-- A loaded buffer byte with its validity bit clear taints a drain run (R148). -/
def State.pipTaint (s : State) (e a n : Nat) : State :=
  if 4 ≤ e ∧ e < 12 ∧ 0x100000 ≤ a ∧ a < 0x200000 then
    if allValid (s.walker (e - 4)) (a - 0x100000) n then s else s.onPip e fun p => { p with tainted := true }
  else s

/-- Hold a write to a length register, a scalar or the count until the run halts (R148, R201). -/
def State.pipHold (s : State) (e i : Nat) (v : Int) : State := s.onPip e fun p => { p with held := mins p.held i v }

/-- Write bytes of an engine's data SRAM. -/
def State.pipData (s : State) (e a : Nat) (bs : List Byte) : State :=
  s.onPip e fun p => { p with data := writeCells p.data a bs }

/-- A word register after a store of bytes at an offset into it: its other bytes stay (log 43). -/
def mergeWord (old off : Nat) (bs : List Byte) : Nat :=
  leNat ((List.range 4).map fun i => if off ≤ i ∧ i < off + bs.length then bs.getD (i - off) 0 else wordByte old i)

/-- What a held register holds: the write held in this run, else the register's value. -/
def heldOr (p : Pip) (i : Nat) (now : Int) : Nat :=
  unsignedOf 32 (((p.held.find? (·.1 = i)).map (·.2)).getD now)

/-- Write bytes of the verdict word (10 R210, 17 R364). -/
def State.pipVerdict (s : State) (e off : Nat) (bs : List Byte) : State :=
  s.onPip e fun p => { p with verdict := some (BitVec.ofNat 32 (mergeWord ((p.verdict.map (·.toNat)).getD 0) off bs)) }

/-- Store n bytes; none outside the map or where the map forbids it. -/
def State.pipStore (s : State) (e a : Nat) (bs : List Byte) : Option State :=
  let n := bs.length
  let p := s.pip e
  if e < 4 then
    match s.intakeOf e, s.segRec p.seg with
    | some j, some r =>
      if a + n ≤ j.dataLen * 256 then some (s.pipData e (j.dataBase * 256 + a) bs)
      else if 0x200000 ≤ a ∧ a + n ≤ 0x200000 + j.maxVec * j.vecSize ∧ a + n ≤ 0x300000 then
        let o := j.outAddr + (a - 0x200000)
        some (((s.writeCtx r.party r.ctx o bs).charge r.party r.ctx (lineCount o n) true).traceOut
          ⟨0x20, r.party, false, false, stOk, unitDomain 2, r.ctx, o, lineCount o n, j.job, false⟩)
      else if 0x40000C ≤ a ∧ a + n ≤ 0x400010 then some (s.pipHold e 16 (mergeWord (heldOr p 16 0) (a % 4) bs))
      else if 0x400040 ≤ a ∧ a + n ≤ 0x400080 then
        let k := (a - 0x400040) / 4
        some (s.pipHold e k (signedOf 32 (mergeWord (heldOr p k (mget 0 s.core.scalars (p.seg * 128 + k))) (a % 4) bs)))
      else none
    | _, _ => none
  else if e < 12 then
    let (o, len) := s.drainRegion e
    if a + n ≤ 0x2000 then some (s.pipData e a bs)
    else if 0x100000 + o ≤ a ∧ a + n ≤ 0x100000 + o + len then
      some ((s.onWalker (e - 4) fun w => putBuf w (a - 0x100000) bs (!p.tainted)).traceOut
        ⟨0x21, s.segParty p.seg, false, false, stOk, unitCluster (e - 4), ((s.segRec p.seg).map (·.ctx)).getD 0, a - 0x100000,
          lineCount (a - 0x100000) n, p.item, false⟩)
    else if 0x200000 ≤ a ∧ a + n ≤ 0x200040 then
      let k := (a - 0x200000) / 4
      let v := mergeWord (heldOr p k ((s.walker (e - 4)).lens.getD k 0 : Nat)) (a % 4) bs
      some (s.pipHold e k (clampI 0 65535 (signedOf 32 v)))
    else none
  else if e = 12 then
    if a + n ≤ 0x400 then some (s.pipData e a bs)
    else if 0x400020 ≤ a ∧ a + n ≤ 0x400024 then some (s.pipVerdict e (a % 4) bs)
    else none
  else
    if a + n ≤ 128 then some (s.pipData e (p.item * 128 + a) bs)
    else if 0x400000 ≤ a ∧ a + n ≤ 0x400004 then some (s.pipVerdict e (a % 4) bs)
    else none

/-! The start and the end of a run -/

/-- Start a pip run on an engine: registers zero, pc at the entry; a drain engine's fetch buffer keeps no block of another image
(R140, R150). -/
def State.startPip (s : State) (e : Nat) (img : PipImage) (seg item limit : Nat) (input : List Byte) : State :=
  let s := if 4 ≤ e ∧ e < 12 ∧ (s.pip e).image ≠ some img then
      s.onClu (e - 4) fun c => { c with fetched := [], fetch := none, reading := none } else s
  s.onPip e fun p =>
    { p with regs := List.replicate 16 0, pc := img.entry, steps := 0, cycle := 0, writes := [], running := true,
             stall := none, start := s.now, image := some img, seg := seg, item := item, limit := limit, input := input,
             held := [], tainted := false, verdict := none, ended := 0 }

/-- The hold-up pip runs on an event; events that meet a running engine wait their turn (R364; log 80). -/
def State.holdEvent (s : State) (code : Nat) : State :=
  match s.store.image with
  | none => s
  | some img =>
    if (s.pip 12).running then { s with store := { s.store with events := s.store.events ++ [code] } }
    else s.startPip 12 img 0 code 0 []

/-- The hold-up engine is idle: the next waiting event runs it. -/
def State.nextHoldEvent (s : State) : State :=
  match s.store.events with
  | [] => s
  | c :: cs => ({ s with store := { s.store with events := cs } }).holdEvent c

/-- What a halted hold-up run leaves: a verdict written in it stands, its skip mask only in an INPUT_LOST run (R364). -/
def State.holdVerdict (s : State) : State :=
  let p := s.pip 12
  match p.verdict with
  | none => s
  | some w =>
    let mask := if p.item = 1 then w.toNat / 65536 else s.store.verdict.2
    { s with store := { s.store with verdict := (w.getLsbD 0, mask) } }

/-- Zero bytes of a cluster's buffer with validity clear, a list of zeros at a time. -/
def State.zeroRegion (s : State) (c a n : Nat) : State := s.onWalker c fun w => putBuf w a (List.replicate n 0) false

/-- The engine is idle after a run: 1 halted, 2 stopped. -/
def State.pipIdle (s : State) (e how : Nat) : State :=
  s.onPip e fun p => { p with running := false, writes := [], held := [], stall := none, ended := how }

/-- The bytes of a pip image: the header of Table PIP-3, code, tables. -/
def pipBytesOf (i : PipImage) : List Byte :=
  let h := leBytes 1 i.engine ++ leBytes 1 (if i.inPlace then 1 else 0) ++ leBytes 2 i.code.length ++
    leBytes 2 i.tables.length ++ leBytes 2 i.entry ++ leBytes 4 i.budget
  let body := (i.code.flatMap fun w => leBytes 4 w.toNat) ++ i.tables
  h ++ leBytes 4 (crc32 (h ++ body)) ++ body

/-- What tells images apart in R149 and R201: the checksum of the image's bytes. -/
def imageKey (p : Pip) : Nat := (p.image.map fun i => crc32 (pipBytesOf i)).getD 0

/-- An exception stops the run; what follows depends on the engine (R143, R149, R201, R210, R364). -/
def State.pipStop (s : State) (e code : Nat) : State :=
  let p := s.pip e
  if !p.running then s
  else if e < 4 then
    let party := s.segParty p.seg
    let s := (s.pipIdle e 2).flagFault p.seg
    let s := s.onCore fun c => { c with counts := mset 0 c.counts (p.seg * 128 + p.item) 0 }
    let s := (s.bumpFor party (okey (0x2840 + e) 2)).setReg (okey (0x2840 + e) 3) code
    s.faultOnce (0x16 * 2 ^ 72 + ((p.seg * 2 ^ 32 + imageKey p) * 8 + code)) s.frame.number 4096
      (s.mkRec clsCheck 5 0x6002 party code)
  else if e < 12 then
    let c := e - 4
    let party := s.segParty p.seg
    let reg := s.drainRegion e
    let s := (((s.pipIdle e 2).zeroRegion c reg.1 reg.2).flagFault p.seg)
    let s := (s.bumpFor party (okey (0x3340 + c) 8)).setReg (okey (0x3340 + c) 9) code
    if code = pxFetch then s
    else
      let r := s.mkRec clsCheck 5 (unitCluster c) party code
      s.faultOnce (0x15 * 2 ^ 72 + ((c * 2 ^ 32 + imageKey p) * 8 + code)) s.frame.number 4096 { r with desc := p.item }
  else if e = 12 then
    let s := (s.pipIdle e 2).onPip e fun p => { p with verdict := none }
    let s : State := { s with store := { s.store with verdict := (false, 0) } }
    let s := if s.store.pipRaised then s
      else ({ s with store := { s.store with pipRaised := true } }).fault clsSupply 6 0x6000 noParty code
    s.nextHoldEvent
  else
    let s := ((s.pipIdle e 2).onPip e fun p => { p with verdict := none }).bump 0x3C8005
    s.faultOnce (0x17000000 + code) s.frame.number 4096 (s.mkRec clsCheck 5 (unitPort p.seg) p.item code)

/-- The place of a run's job in the schedule: its fixed start, then its number (09 R197). -/
def Pip.jobKey (p : Pip) : Nat := p.start * 64 + p.item

/-- The scalar writes of an intake run that stand: those of scalars that no job later in the schedule has written (09 R200). -/
def Pip.scalarsOf (p : Pip) (c : Core) : List (Nat × Int) :=
  p.held.filter fun x => decide (x.1 < 16 ∧ mget 0 c.scalarBy (p.seg * 128 + x.1) ≤ p.jobKey)

/-- HALT: the held writes take effect together and the run ends (R148, R200). -/
def State.pipHalt (s : State) (e : Nat) : State :=
  let p := s.pip e
  let s :=
    if e < 4 then
      let maxVec := ((s.intakeOf e).map (·.maxVec)).getD 0
      s.onCore fun c =>
        { c with
          scalars := (p.scalarsOf c).foldl (fun m x => mset 0 m (p.seg * 128 + x.1) x.2) c.scalars,
          scalarBy := (p.scalarsOf c).foldl (fun m x => mset 0 m (p.seg * 128 + x.1) p.jobKey) c.scalarBy,
          counts := mset 0 c.counts (p.seg * 128 + p.item) (min maxVec (mget 0 p.held 16).toNat) }
    else if e < 12 then
      s.onWalker (e - 4) fun w => { w with lens := p.held.foldl (fun l x => setAt l x.1 x.2.toNat) w.lens }
    else if e = 12 then s.holdVerdict
    else s
  let s := s.pipIdle e 1
  if e = 12 then s.nextHoldEvent else s

/-! In-place execution (R150) -/

/-- The block of 512 bytes that holds the instruction at pc: 16 header bytes come first. -/
def codeBlock (pc : Nat) : Nat := (16 + 4 * pc) / 512
/-- The block that holds a byte of the constant tables, which follow the code. -/
def tableBlock (img : PipImage) (off : Nat) : Nat := (16 + 4 * img.code.length + off) / 512

/-- The drain pip that the cluster's engine runs. -/
def State.runningPip (s : State) (c : Nat) : Option DrainPip :=
  let p := s.pip (c + 4)
  match s.segImg p.seg with
  | some g => g.pips.find? fun x => x.cluster = c && x.desc = p.item
  | none => none

/-- The block that a run in place must fetch before it goes on; none when it is buffered or the run is not in place. -/
def State.missing (s : State) (e blk : Nat) : Option Nat :=
  if 4 ≤ e ∧ e < 12 then
    match (s.pip e).image with
    | some img =>
      if img.inPlace && !((s.runningPip (e - 4)).any fun d => (s.clu (e - 4)).shadow.contains d.slot) &&
          !(s.clu (e - 4)).fetched.contains blk then some blk else none
    | none => none
  else none

/-- Stall for a block: the fetch is requested, unless the block is on its way already, and the stall counted (R150,
0x3340:0A). -/
def State.stallFor (s : State) (e blk : Nat) : State :=
  let s := s.onPip e fun p => { p with stall := some blk }
  (s.onClu (e - 4) fun c =>
    { c with fetch := if c.reading = some blk then c.fetch else some blk }).bumpFor
      (s.segParty (s.pip e).seg) (okey (0x3340 + (e - 4)) 10)

/-- The certified run time of an intake or drain run is over (R147, R197). -/
def State.pipLate (s : State) (e : Nat) : Bool := decide (e < 12 ∧ (s.pip e).start + (s.pip e).limit ≤ s.pipTime e)

/-- Run one instruction of an engine: nothing while no run is in progress, while it is stalled, or once the budget is
used up; a run whose certified time is over stops with TIME_LIMIT in its place (R147, R197); an unused field that is not zero
raises ILLEGAL (R140, R142). -/
def State.pipDo (s : State) (e : Nat) (ok : Bool) (f : State → State) : Out :=
  let p := s.pip e
  .next (if !p.running || p.stall.isSome || s.husk.xtalStopped && decide (e ≠ 12) || s.sec.halted.contains e ||
        decide (((p.image.map (·.budget)).getD 0) ≤ p.steps) then s
    else if s.pipLate e then s.pipStop e pxTime
    else
      match s.missing e (codeBlock p.pc) with
      | some blk => s.stallFor e blk
      | none => if ok then f s else s.pipStop e pxIllegal)

/-- A three-register operation of latency `lat`. -/
def State.pipAlu (s : State) (e : Nat) (w : PipFields) (lat : Nat) (op : Word → Word → Word) : Out :=
  s.pipDo e (w.imm = 0) fun s => (s.pipWrite e lat w.d (op (s.pipReg e w.a) (s.pipReg e w.b))).pipNext e

/-- An immediate operation. -/
def State.pipImm (s : State) (e : Nat) (w : PipFields) (op : Word → Word → Word) : Out :=
  s.pipDo e (w.b = 0) fun s => (s.pipWrite e 1 w.d (op (s.pipReg e w.a) (w.imm.signExtend 32))).pipNext e

/-- A load of n bytes: ALIGN, then BOUND; table bytes of a run in place may stall it (R141, R143, R150; log 42). -/
def State.pipLoad (s : State) (e : Nat) (w : PipFields) (n : Nat) (sign : List Byte → Word) : Out :=
  s.pipDo e (w.b = 0) fun s =>
    let a := (s.pipReg e w.a + w.imm.signExtend 32).toNat
    if a % n ≠ 0 then s.pipStop e pxAlign
    else
      let stall := if 0x300000 ≤ a ∧ a < 0x304000 then
        match (s.pip e).image with
        | some img => s.missing e (tableBlock img (a - 0x300000))
        | none => none
        else none
      match stall with
      | some blk => s.stallFor e blk
      | none =>
        match s.pipBytes e a n with
        | some bs => (((s.pipDraw a).pipTaint e a n).pipWrite e 2 w.d (sign bs)).pipNext e
        | none => s.pipStop e pxBound

/-- A store of n bytes of register b. -/
def State.pipSt (s : State) (e : Nat) (w : PipFields) (n : Nat) : Out :=
  s.pipDo e (w.d = 0) fun s =>
    let a := (s.pipReg e w.a + w.imm.signExtend 32).toNat
    if a % n ≠ 0 then s.pipStop e pxAlign
    else
      match s.pipStore e a (leBytes n (s.pipReg e w.b).toNat) with
      | some t => t.pipNext e
      | none => s.pipStop e pxBound

/-- A branch: taken to this instruction plus imm, 2 cycles later (R141). -/
def State.pipBranch (s : State) (e : Nat) (w : PipFields) (op : Word → Word → Bool) : Out :=
  s.pipDo e (w.d = 0) fun s =>
    if op (s.pipReg e w.a) (s.pipReg e w.b) then s.pipGo e ((s.pip e).pc + w.imm.toInt) 2 else s.pipNext e

end Sys2Proof.Machine
end

