-- ==== Sys2Proof/Machine/QueueOps.lean ====
section
/-! DEFINITION. Completion of queue commands (13 R264 to R267) and the end of pooled jobs (04 R96, R97). -/

namespace Sys2Proof.Machine

open Sys2Proof

def State.queue (s : State) (c q : Nat) : Option Queue := (s.ctx c).bind fun x => x.queues.find? (·.num = q)

def State.onQueue (s : State) (c q : Nat) (f : Queue → Queue) : State :=
  s.onCtx c fun x => { x with queues := x.queues.map fun y => if y.num = q then f y else y }

/-- A completion record (Table HOST-4) of command `seq` with E entries. -/
def cplRecord (cmd : List Byte) (entries seq st frame result : Nat) : List Byte :=
  leBytes 4 (field cmd 4 4) ++ leBytes 2 (field cmd 0 2) ++ leBytes 1 st ++
    leBytes 1 (if seq / entries % 2 = 0 then 1 else 0) ++ leBytes 4 seq ++ leBytes 8 frame ++ leBytes 8 result ++
    leBytes 4 0

/-- Write the completion of a command with given bytes and sequence, and count it (R267, Table HOST-7). -/
def State.completeAs (s : State) (c q : Nat) (cmd : List Byte) (seq st result : Nat) : State :=
  match s.ctx c, s.queue c q with
  | some x, some y =>
    let a := y.cplRing + 32 * (seq % y.entries)
    let s := s.writePages x x.party a (cplRecord cmd y.entries seq st s.frame.number result)
    let s := (s.charge x.party c 1 false).traceOut
      ⟨0x32, x.party, false, false, st, unitPool 0, c, a, 1, field cmd 0 2, false⟩
    let s := s.onQueue c q fun y => { y with completed := (y.completed + 1) % 4294967296 }
    s.use c fun u => { u with cmds := u.cmds + 1 }
  | _, _ => s

/-- Complete the command in execution of a queue. -/
def State.complete (s : State) (c q st result : Nat) : State :=
  match s.queue c q with
  | some y =>
    match y.cur with
    | some cmd =>
      (s.completeAs c q cmd ((y.started + 4294967295) % 4294967296) st result).onQueue c q fun y => { y with cur := none }
    | none => s
  | none => s

/-- Every command that a queue has not started completes with a status, in ring order; `each` is what such a command does all the
same. Each read of a command is charged (R300). -/
def State.endQueue (s : State) (x : Ctx) (q st : Nat) (each : List Byte → State → State) : Nat → State
  | 0 => s
  | n + 1 =>
    match s.queue x.num q with
    | none => s
    | some y =>
      if y.started = y.prod then s
      else
        let cmd := (s.readPages x x.party (y.cmdRing + 64 * (y.started % y.entries)) 64).2
        let t := (each cmd (s.charge x.party x.num 1 false)).onQueue x.num q fun z =>
          { z with started := (z.started + 1) % 4294967296 }
        (t.completeAs x.num q cmd y.started st 0).endQueue x q st each n

/-- A rung queue whose context finds no residency: its commands complete BUSY or LIMIT (R263). DESIGN CHOICE (log 200): a
doorbell's own write has been answered, so its answer stands in the completion records of the commands it rang. -/
def State.refuseQueues (s : State) (c st : Nat) : State :=
  match s.ctx c with
  | some x => x.queues.foldl (fun (s : State) q => s.endQueue x q.num st (fun _ s => s) q.entries) s
  | none => s

/-! Pooled jobs -/

def jobReg (j sub : Nat) : Nat := okey (0x3210 + j) sub
def State.job (s : State) (j : Nat) : Job := s.jobs.getD j Job.blank
def State.jobState (s : State) (j : Nat) : Nat := s.reg (jobReg j 1)

/-- The segment whose descriptor range holds a number. -/
def State.segOfDesc (s : State) (n : Nat) : Option SegImage :=
  match s.loader.plan with
  | some p => p.segs.find? fun g => decide (g.descFirst ≤ n ∧ n < g.descFirst + g.descCount)
  | none => none

/-- A job ends DONE or ABORTED and its JOB_START completes (13 Contexts and queues, R97). -/
def State.endJob (s : State) (j how : Nat) : State :=
  let s := s.setReg (jobReg j 1) how
  match (s.job j).cmd with
  | some (c, q, _) =>
    { (s.complete c q (if how = 3 then stOk else stAborted) 0) with
      jobs := upd s.jobs j fun (x : Job) => { x with cmd := none } }
  | none => s

/-- Pause a running job at a tile boundary: its counter is saved in device-reserved DRAM (R97). -/
def State.pauseJob (s : State) (j : Nat) : State :=
  if s.jobState j = 1 then
    { s.setReg (jobReg j 1) 2 with jobs := upd s.jobs j fun (x : Job) => { x with saved := s.reg (jobReg j 2) } }
  else s

/-- A tile of the job is committed on some cluster. -/
def State.jobBusy (s : State) (j : Nat) : Bool := s.walkers.any fun w => w.job = some j

end Sys2Proof.Machine
end

