-- ==== Sys2Proof/Machine/Walkers.lean ====
section
/-! DEFINITION. The tile walkers (04 R86 to R97): the start of an instruction, the commit and the completion of a tile
with its MVMs and drain chain, the completion of an instruction with its drain pip, and abandonment (01 R26). -/

namespace Sys2Proof.Machine

open Sys2Proof

/-! Abandonment -/

/-- A segment overran in this frame: counted once (R26, 0x4C10:02). -/
def State.markOverrun (s : State) (g : Nat) : State :=
  if s.frame.overrun.testBit g then s
  else
    let s := { s with frame := { s.frame with overrun := setBit s.frame.overrun g } }.bump 0x4C1002
    match s.segRec g with
    | some r => s.use r.ctx fun u => { u with overruns := u.overruns + 1 }
    | none => s

/-- Abandon every instruction of a cluster at a tile boundary (R26, R27): what was not computed reads zero and is invalid. -/
def State.abandonCluster (s : State) (c : Nat) : State :=
  let w := s.walker c
  let s := match w.running with
    | some r => if w.job.isSome then s else
        ((s.zeroTiles c r.seg r.bytes r.next r.last).lateTiles c r.seg r.bytes r.next r.last).markOverrun r.seg
    | none => s
  let drop (s : State) (g : Nat) (d : List Byte) : State :=
    match s.segImg g with
    | some img =>
      match objOf img (dObj d) with
      | some o =>
        let sh := shareOf (tileCount o d) (dMask d) c
        ((s.zeroTiles c g d sh.1 sh.2).lateTiles c g d sh.1 sh.2).markOverrun g
      | none => s.markOverrun g
    | none => s
  let s := w.queue.foldl (fun s x =>
    match x with
    | .run _ g _ d => drop s g d
    | .arriving _ g _ d => drop s g d
    | _ => s) s
  (s.dropAhead c).onWalker c fun w =>
    { w with queue := [], running := if w.job.isSome then w.running else none, finished := w.issued }

/-! Start of an instruction (R90, R94) -/

/-- The batch length in force for a running instruction. -/
def batchLen (r : Running) : Nat :=
  match r.len with
  | some l => if dLenK r.bytes then dB r.bytes else l
  | none => dB r.bytes

/-- The K length in force. -/
def kLen (r : Running) : Nat :=
  match r.len with
  | some l => if dLenK r.bytes then l else dK r.bytes
  | none => dK r.bytes

/-- Skip the tiles that begin at or beyond the batch length (R91), counting them; one that run-ahead had prepared is
cancelled (R93). -/
def State.skipTiles (s : State) (c : Nat) (o : WObj) : Nat → Running → Running × State
  | 0, r => (r, s)
  | n + 1, r =>
    if r.last ≤ r.next then (r, s)
    else
      match tileAt o r.bytes r.next with
      | some t =>
        if batchLen r ≤ t.b0 then
          ((s.bumpFor (s.segParty r.seg) (okey (0x3200 + c) 2)).dropAheadAt c r.desc r.next).skipTiles c o n { r with next := r.next + 1 }
        else (r, s)
      | none => (r, s)

/-- The window whose body runs, with its segment. -/
def State.openWindow (s : State) : Option (SegRec × Nat × Nat) :=
  match s.frame.phase with
  | .window w => s.spanOf w
  | _ => none

/-- R90, R94: the instruction at the head of a cluster's queue starts: its length is read once and clamped, and its share
of the tiles is fixed. -/
def execInstructionStart (c : Nat) (s : State) : Out :=
  .next (
    let s := s.arrive
    let w := s.walker c
    match s.openWindow, w.running, w.queue with
    | some x, none, .run n g ctx d :: rest =>
      if !s.active || x.1.seg ≠ g then s
      else
        match (s.segImg g).bind fun i => objOf i (dObj d) with
        | none => s
        | some o =>
          let declared := if dLenK d then dK d else dB d
          let raw := w.lens.getD (dLenReg d) 0
          let sh := shareOf (tileCount o d) (dMask d) c
          let r : Running :=
            { desc := n, seg := g, ctx := ctx, bytes := d, len := if dUseLen d then some (min raw declared) else none,
              next := sh.1, last := sh.2, ready := s.now, tile := none, accs := [], fetched := none, xs := [], taint := [],
              lenOut := [], did := 0, ran := false, done := false }
          let s := if dUseLen d && decide (declared < raw) then s.bumpFor (s.segParty g) (okey (0x3200 + c) 5) else s
          let s := s.traceOut ⟨0x12, s.segParty g, false, false, stOk, unitCluster c, ctx, 0, 0, n, false⟩
          let (r, s) := s.skipTiles c o (r.last - r.next) r
          s.onWalker c fun w => { w with queue := rest, running := some { r with done := decide (r.last ≤ r.next) } }
    | _, _, _ => s)

/-! Commit of a tile (R26, R87, R95) -/

/-- The pod that serves a slot of a cluster: byte `slot` of the slot map (0x3010:01). -/
def State.slotPod (s : State) (c slot : Nat) : Nat := 5 * c + s.reg (cluReg c 1) / 256 ^ slot % 256

/-- One input vector: its bytes and whether it is tainted: from the pool by chaff lines only (R117). -/
def State.readVector (s : State) (c : Nat) (party : Nat) (o : WObj) (d : List Byte) (b : Nat) : List Byte × Bool :=
  let lay := layoutLen o
  let a := dIn d + b * dInStride d
  if dInPool d then
    let r := s.readCtx party (dCtx d) a lay
    (r.2, r.1 = stChaff)
  else (readCells (s.walker c).buffer a lay, !allValid (s.walker c) a lay)

/-- The k-blocks of a tile that are issued, each with its place among those on its pod and how many pods issue in its interval
(R86, R92, R436). -/
def issuedBlocks (o : WObj) (blk limit : Nat) : List (Nat × Block × Nat × Nat) :=
  let bs := (kBlocks o blk).filter fun x => decide (x.1 < limit)
  (bs.zipIdx).map fun x =>
    let i := ((bs.take x.2).filter fun y => y.2.slot = x.1.2.slot).length
    let slots := dedupNat (bs.map fun y => y.2.slot)
    (x.1.1, x.1.2, i, (slots.filter fun sl => decide (i < (bs.filter fun y => y.2.slot = sl).length)).length)

/-- A k-block of a vector ready to issue: its pod, its rows with their inputs, and the tile's columns there (R86). -/
def State.blockRun (s : State) (c : Nat) (o : WObj) (t : Tile) (xs : List Int) (blk : Nat × Block × Nat × Nat) : BlockRun :=
  let start := ((nBlocks o).find? (·.1 = t.blk)).elim 0 fun x => x.2.1
  { pod := s.slotPod c blk.2.1.slot, rank := blk.2.2.1, issuing := blk.2.2.2, at_ := 0,
    rows := (List.range blk.2.1.rows).map fun i => (blk.2.1.rowOff + i, xs.getD (blk.1 + i) 0),
    cols := (List.range t.nc).map fun j => blk.2.1.colOff + (t.c0 + j - start),
    spare := none, target := [], checked := [], dups := [], targetBad := false, spareBad := false }

/-- Add a k-block's delivered partials to a vector's accumulators, counting CLIP and SUS elements; each addition adds the
residues (R44, R104, R106). -/
def State.addBlock (s : State) (seg : Nat) (r : Running) (x : BlockRun) (accs : List Accum) : List Accum × State :=
  let s := s.judgeDup seg (dCtx r.bytes) r.desc r.next x
  let el := x.cols.map fun col => (settled x.target col, groupRange (s.pod x.pod) (col / 8))
  let p := s.segParty seg
  let s := s.bumpFor p (podReg x.pod 7) (el.filter fun x => x.1.2 = 1).length
  let s := s.bumpFor p (podReg x.pod 8) (el.filter fun x => x.1.2 = 2).length
  let s := s.use (dCtx r.bytes) fun u => { u with mvms := u.mvms + dSettle r.bytes }
  ((accs.zip el).map fun x =>
    let v := x.2.1.1 * 2 ^ (4 + 2 * x.2.2)
    ⟨x.1.x + v, x.1.marked || decide (x.2.1.2 ≠ 0), (x.1.res + res7 v) % 7⟩, s)

/-- One vector of a tile: accumulators with their marks, inputs and taint (R86, R104, R107, R109, R111). -/
def State.vectorAcc (s : State) (c : Nat) (r : Running) (o : WObj) (t : Tile) (b : Nat) :
    List Accum × List Int × Bool × State :=
  let p := s.segParty r.seg
  let (bs, taint) := match r.fetched.bind (·[b - t.b0]?) with
    | some x => if dInPool r.bytes then x else s.readVector c p o r.bytes b
    | none => s.readVector c p o r.bytes b
  let (xs, sat) := rowInputs o (kLen r) bs
  let s := if sat = 0 then s else s.bumpFor p (okey (0x3300 + c) 5) sat
  if o.head then
    match s.headOf r.seg o.id with
    | some (_, h) =>
      ((List.range t.nc).map fun j =>
        ⟨headSum h (dK r.bytes) (kLen r) xs (t.c0 + j), false, headResidue h (dK r.bytes) (kLen r) xs (t.c0 + j)⟩, xs, taint, s)
    | none => (List.replicate t.nc ⟨0, false, 0⟩, xs, taint, s)
  else
    let base : List Accum := (List.range t.nc).map fun j =>
      ⟨sidePartial o (kLen r) bs (t.c0 + j), decide (sat ≠ 0), sideResidue o (kLen r) bs (t.c0 + j)⟩
    let runs := (issuedBlocks o t.blk (kLen r)).map (s.blockRun c o t xs)
    let (runs, s) := s.repeats r.seg (dCtx r.bytes) r.desc r.next (dSettle r.bytes) runs
    let (accs, s) := runs.foldl (fun q x => q.2.addBlock r.seg r x q.1) (base, s)
    (accs, xs, taint, s)

/-- Compute the vectors of a tile below the batch length. -/
def State.tileAccs (s : State) (c : Nat) (r : Running) (o : WObj) (t : Tile) :
    Nat → List (List Accum) × List (List Int) × List Nat × State
  | 0 => ([], [], [], s)
  | n + 1 =>
    let (as, xs, ts, s) := s.tileAccs c r o t n
    let (a, x, taint, s) := s.vectorAcc c r o t (t.b0 + n)
    (as ++ [a], xs ++ [x], if taint then ts ++ [n] else ts, s)

/-- The 128-byte lines of a run of bytes of a context, each once. -/
def State.cacheLines (s : State) (ctx a n : Nat) : List Nat :=
  match s.ctx ctx with
  | none => []
  | some x =>
    dedupNat ((List.range ((a + n + 127) / 128 - a / 128)).filterMap fun i => (physOf x ((a / 128 + i) * 128)).map (· / 128))

/-- Bring n input vectors of a pool-fed tile in: lookups in the shared activation cache hit or miss, and the party is charged for
the lines that miss (R87, R99, R100, R300). Run-ahead's reads carry the RA flag (R93). -/
def State.fill (s : State) (c p desc : Nat) (d : List Byte) (t : Tile) (n : Nat) (planned ahead : Bool) (ecc : Ecc) : State :=
  if !dInPool d then s
  else
    let a := dIn d + t.b0 * dInStride d
    let lines := s.cacheLines (dCtx d) a (n * dInStride d)
    let (hits, s) := s.cacheReads p lines
    let miss := lines.length - hits
    let s := ((s.bump64 0x322002 hits).bump64 (pkey p 0x322002) hits)
    let s := ((s.bump64 0x322003 miss).bump64 (pkey p 0x322003) miss)
    let s := (s.charge p (dCtx d) (2 * miss) planned).traceOut
      ⟨0x10, p, false, !planned, stOk, unitCluster c, dCtx d, a, lineCount a (n * dInStride d), desc, ahead⟩
    let page := ((s.ctx (dCtx d)).bind fun x => physOf x a).getD 0 / 64
    s.eccRead ecc page p

/-! Run-ahead (R93, R95) -/

/-- The tile that a cluster prepares while it works on r's: descriptor, segment, its bytes and tile number. It is a later
tile of the same instruction, the first of the next queued instruction of the same context, or the tile that the pooled
job's counter names. -/
def State.nextTile (s : State) (c : Nat) (r : Running) : Option (Nat × Nat × List Byte × Nat) :=
  match (s.walker c).job with
  | some j => if s.reg (jobReg j 2) < s.reg (jobReg j 3) then some (r.desc, r.seg, r.bytes, s.reg (jobReg j 2)) else none
  | none =>
    if r.next + 1 < r.last then some (r.desc, r.seg, r.bytes, r.next + 1)
    else
      match (s.walker c).queue.dropWhile isMove with
      | .run n g ctx d :: _ =>
        match (s.segImg g).bind fun i => objOf i (dObj d) with
        | some o =>
          let sh := shareOf (tileCount o d) (dMask d) c
          if ctx = r.ctx ∧ sh.1 < sh.2 then some (n, g, d, sh.1) else none
        | none => none
      | _ => none

/-- Bytes of the input half that the running instruction uses: a tile's input of the pool, or the whole batch that it reads from
the buffer (R88, R93). -/
def inputUse (r : Running) : Nat := (if dInPool r.bytes then dBt r.bytes else dB r.bytes) * dInStride r.bytes

/-- Where the input half of an instruction begins: half 0 for a pool input whose output goes to the pool too (log 155). -/
def inputHalf (d : List Byte) : Nat :=
  if !dInPool d then dIn d / 524288 * 524288 else if dOutPool d then 0 else 524288 - dOut d / 524288 * 524288

/-- Where a tile of n bytes that is prefetched lies: in the unused part of the running instruction's input half, behind what
it uses, or before it where there is no room behind (R93). -/
def aheadPlace (r : Running) (n : Nat) : Nat :=
  let h := inputHalf r.bytes
  let a := if dInPool r.bytes then h else dIn r.bytes
  if a + inputUse r + n ≤ h + 524288 then a + inputUse r else h

/-- Put input vectors of a pool-fed tile in a buffer, one stride apart. -/
def State.stow (s : State) (c a stride : Nat) (xs : List (List Byte × Bool)) : State :=
  s.onWalker c fun w => (xs.zipIdx).foldl (fun w x => stowBytes w (a + x.2 * stride) x.1.1) w

/-- Prepare the next tile unless NO_RA is set. Its input is prefetched when it comes from the pool and the unused part of
the input half has room for it, and goes there (R93). DESIGN CHOICE (log 155): the spec gives a pool-fed or prefetched tile no
address in the half; it takes the start of the half, or the place behind what is used, and gets no validity bit, so that no later
tile reads what a cancelled one leaves there (R93). The tile itself works on the vectors as they were read. -/
def State.runAhead (s : State) (c : Nat) (planned : Bool) (ecc : Ecc) : State :=
  match (s.walker c).running with
  | none => s
  | some r =>
    match s.nextTile c r with
    | none => s
    | some (n, g, d, k) =>
      match (s.segImg g).bind fun i => objOf i (dObj d) with
      | none => s
      | some o =>
        match tileAt o d k with
        | none => s
        | some t =>
          if dNoAhead d || s.pool.closed then s
          else
            let p := s.segParty g
            let fits := dInPool d && decide (inputUse r + t.nb * dInStride d ≤ 524288)
            let input := if fits then some ((List.range t.nb).map fun i => s.readVector c p o d (t.b0 + i)) else none
            let s := if fits then s.fill c p n d t t.nb planned true ecc else s
            if s.pool.closed then s
            else
              let s := s.stow c (aheadPlace r (t.nb * dInStride d)) (dInStride d) (input.getD [])
              { s with ahead := ⟨c, p, dCtx d, n, (s.walker c).job, k, input⟩ :: s.ahead.filter (·.cluster ≠ c) }

/-- What run-ahead brought in for a tile that commits now; a prepared tile that is another one is cancelled (R93). -/
def State.takeAhead (s : State) (c : Nat) (r : Running) : Option (List (List Byte × Bool)) × State :=
  match s.ahead.find? (·.cluster = c) with
  | none => (none, s)
  | some a =>
    if a.job = (s.walker c).job ∧ a.desc = r.desc ∧ a.tile = r.next then
      (a.input, { s with ahead := s.ahead.filter (·.cluster ≠ c) })
    else (none, s.dropAhead c)

/-- Another cluster has claimed the tile that clusters prepared for a job: each cancels its run-ahead and prepares the
counter's new value (R95). -/
def State.aheadLost (s : State) (c j n : Nat) : State :=
  (s.ahead.filter fun a => a.cluster ≠ c && a.job = some j && a.tile = n).foldl
    (fun (s : State) a => (s.dropAhead a.cluster).runAhead a.cluster false .clean) s

/-- Bytes of the activation buffers that the running instructions of a context use on every cluster: their input part and their
buffer output (Table HOST-7; log 201). -/
def State.bufferUse (s : State) (ctx : Nat) : Nat :=
  (s.walkers.map fun w => match w.running with
    | some r => if dCtx r.bytes = ctx then
        inputUse r + (if dOutPool r.bytes then 0 else dB r.bytes * dOutStride r.bytes) else 0
    | none => 0).foldl (· + ·) 0

/-- The peak of a context's buffer use in a window (R274). -/
def State.notePeak (s : State) (ctx : Nat) : State :=
  match s.frame.phase with
  | .window _ => s.use ctx fun u => { u with peak := max u.peak (s.bufferUse ctx) }
  | _ => s

/-- Commit a tile on a cluster for a running instruction (R87): fill, MVMs, and no commit before the tile time is over. A fill
that meets an uncorrectable line stops the walkers instead (R323). The walker then prepares the next tile (R93). -/
def State.commitTile (s : State) (c : Nat) (r : Running) (o : WObj) (t : Tile) (planned : Bool) (ecc : Ecc) : State :=
  let n := min t.nb (batchLen r - t.b0)
  let p := s.segParty r.seg
  let (input, s) := s.takeAhead c r
  let s := if input.isSome then s else s.fill c p r.desc r.bytes t n planned false ecc
  if s.pool.closed then s
  else
    let s := (s.bump64 (okey (0x3200 + c) 1)).bump64 (pkey p (okey (0x3200 + c) 1))
    let r := { r with fetched := input }
    let s := if input.isSome || !dInPool r.bytes then s
      else s.stow c (inputHalf r.bytes) (dInStride r.bytes)
        ((List.range n).map fun i => s.readVector c p o r.bytes (t.b0 + i))
    let (accs, xs, taint, s) := s.tileAccs c r o t n
    let s := (s.onClu c fun x => { x with lastParty := some p }).onWalker c fun w =>
      { w with running := some { r with
          tile := some (r.next, s.now), ready := s.now + dTime r.bytes, accs := accs, xs := xs, taint := taint } }
    let s := s.notePeak (dCtx r.bytes)
    s.runAhead c planned (if input.isSome || !dInPool r.bytes then ecc else .clean)

/-- The tile needs a pod that has been fenced in this frame (R310). -/
def State.needsFenced (s : State) (c : Nat) (o : WObj) (t : Tile) : Bool :=
  (kBlocks o t.blk).any fun x => (s.pod (s.slotPod c x.2.slot)).fenced

/-- Input power is lost and the segment is not CRITICAL: none of its tiles commits (17 R356). -/
def State.powerBars (s : State) (g : Nat) : Bool :=
  s.store.lostAt.isSome && !((s.segRec g).map (·.critical)).getD false

/-- The planned part of a commit: a tile that would end after the window is not committed and everything unfinished on
the cluster is abandoned (R26); a tile on a fenced pod is abandoned without an overrun (R310). -/
def State.commitPlanned (s : State) (c : Nat) (r : Running) (ecc : Ecc) : State :=
  match s.openWindow, (s.segImg r.seg).bind fun i => objOf i (dObj r.bytes) with
  | some x, some o =>
    if x.1.seg ≠ r.seg ∨ r.tile.isSome ∨ r.done ∨ s.now < r.ready then s
    else
      match tileAt o r.bytes r.next with
      | none => s
      | some t =>
        if s.frame.start + x.2.2 < s.now + dTime r.bytes || s.powerBars r.seg then s.abandonCluster c
        else if s.needsFenced c o t then
          let s := (((s.zeroTiles c r.seg r.bytes r.next (r.next + 1)).lateTiles c r.seg r.bytes r.next (r.next + 1)).flagFault
            r.seg).dropAheadAt c r.desc r.next
          let (r, s) := s.skipTiles c o (r.last - r.next) { r with next := r.next + 1 }
          s.onWalker c fun w => { w with running := some { r with done := decide (r.last ≤ r.next) } }
        else s.commitTile c r o t true ecc
  | _, _ => s

/-- When pooled work may run until (R23, R32, R33): in KEEP from 25 µs, 2 µs before the floor; in the tail of the owning
party's window, 2 µs before its end. -/
def State.pooledUntil (s : State) (p : Nat) : Option Nat :=
  match s.frame.phase with
  | .keep =>
    if s.frame.start + s.keepStart + 25000 ≤ s.now then some (s.frame.start + s.pFloor - 2000) else none
  | .window w =>
    match s.spanOf w with
    | some x => if x.1.party = p && s.core.seg.isNone then some (s.frame.start + x.2.2 - 2000) else none
    | none => none
  | _ => none

/-- The next tile of a job needs a pod of this cluster that is fenced. -/
def State.nextFenced (s : State) (c j : Nat) : Bool :=
  let x := s.job j
  match (s.segOfDesc x.desc).bind fun g => objOf g (dObj x.bytes) with
  | some o => (tileAt o x.bytes (s.reg (jobReg j 2))).any (s.needsFenced c o)
  | none => false

/-- A job that may claim a tile on a cluster now (R29, R95, R97, R301); a cluster that is down or whose pod is fenced
claims nothing (R310, R311, R405). DESIGN CHOICE (log 191): a claim that would fail is not made, so the counter stops at the tile
count; R95's read and increment could leave it beyond. -/
def State.claimable (s : State) (c j : Nat) : Bool :=
  let p := s.reg (jobReg j 4)
  !s.frame.down.testBit c && !s.nextFenced c j && !(s.frame.phase = .keep && s.liftKeep c) &&
    decide ((s.clu c).sliceUntil ≤ s.now) && decide (s.jobState j = 1 ∧ s.tier = 0 ∧ s.reg (jobReg j 2) < s.reg (jobReg j 3)) &&
    (s.reg (jobReg j 5)).testBit c && s.credit p &&
    !(s.powerBars (((s.segOfDesc (s.job j).desc).map (·.hdr.segment)).getD 16)) &&
    (match s.pooledUntil p with
     | some e =>
       let clear := if s.frame.phase = .keep && (s.clu c).lastParty ≠ some p then 2000 else 0
       decide (s.now + clear + dTime (s.job j).bytes ≤ e)
     | none => false)

/-- Clear a cluster's buffers and validity bits (R24, R383). -/
def State.clearCluster (s : State) (c : Nat) : State := s.onWalker c fun w => { w with buffer := [], valid := [] }

/-- The length that a cluster reads when it starts on a pooled job, once, with the clamp counted (R90). -/
def State.pooledLen (s : State) (c j : Nat) : Option Nat × State :=
  let x := s.job j
  if !dUseLen x.bytes then (none, s)
  else
    match x.lens.find? (·.1 = c) with
    | some y => (some y.2, s)
    | none =>
      let raw := (s.walker c).lens.getD (dLenReg x.bytes) 0
      let declared := if dLenK x.bytes then dK x.bytes else dB x.bytes
      let s := if declared < raw then s.bumpFor (s.reg (jobReg j 4)) (okey (0x3200 + c) 5) else s
      (some (min raw declared), { s with jobs := upd s.jobs j fun (y : Job) => { y with lens := (c, min raw declared) :: y.lens } })

/-- Claim and commit the next tile of a pooled job: the counter is read and raised in one operation (R95). A tile wholly beyond
the length is claimed and skipped: it writes nothing (R91; log 158). A descriptor that fails the check is refused: the outputs
not yet claimed are invalid, and the job ends (R88, R89; log 134). -/
def State.commitPooled (s : State) (c j : Nat) (ecc : Ecc) : State :=
  let x := s.job j
  match s.segOfDesc x.desc with
  | none => s.endJob j 4
  | some g =>
    let n := s.reg (jobReg j 2)
    match objOf g (dObj x.bytes) with
    | none => s.endJob j 4
    | some o =>
      let seg := g.hdr.segment
      if !((dMask x.bytes).testBit c && descOk s g (s.reg (jobReg j 4)) x.bytes 2) then
        ((((s.zeroTiles c seg x.bytes n (s.reg (jobReg j 3))).issueRecord c seg x.desc).descException seg).endJob j 4)
      else
        match tileAt o x.bytes n with
        | none => s
        | some t =>
          let s := s.setReg (jobReg j 2) (n + 1)
          let (len, s) := s.pooledLen c j
          let r : Running :=
            { desc := x.desc, seg := seg, ctx := x.ctx, bytes := x.bytes, len := len, next := n, last := n + 1,
              ready := s.now, tile := none, accs := [], fetched := none, xs := [], taint := [], lenOut := [], did := 0, ran := true,
              done := false }
          if batchLen r ≤ t.b0 then
            let s := (s.bumpFor (s.reg (jobReg j 4)) (okey (0x3200 + c) 2)).aheadLost 8 j n
            if s.reg (jobReg j 3) ≤ n + 1 && !s.jobBusy j then s.endJob j 3 else s
          else
            let s := if s.frame.phase = .keep && (s.clu c).lastParty ≠ some (s.reg (jobReg j 4)) then s.clearCluster c else s
            ((s.onWalker c fun w => { w with job := some j }).commitTile c r o t false ecc).aheadLost c j n

/-- TILE_COMMIT: the running instruction's next tile, else a pooled tile when the cluster has nothing planned. -/
def execTileCommit (c : Nat) (ecc : Ecc) (s : State) : Out :=
  .next (
    let w := s.walker c
    if !s.active || s.pool.closed then s
    else
      match w.running with
      | some r => if w.job.isSome then s else s.commitPlanned c r ecc
      | none =>
        if !w.queue.isEmpty then s
        else
          match (List.range 16).find? (s.claimable c) with
          | some j => s.commitPooled c j ecc
          | none => s)

/-! Completion of a tile (R86, R91, R96, R106, R112, R115 to R117) -/

/-- Write a tile's output: tainted vectors and vectors beyond the length are zero and invalid. -/
def State.writeTile (s : State) (c : Nat) (o : WObj) (r : Running) (t : Tile) (ups : List (Nat × Nat × Nat × Int)) : State :=
  match s.segImg r.seg with
  | none => s
  | some g =>
    let steps := chainOf g c (dChain r.bytes)
    let esize := elemSize steps
    let p := s.segParty r.seg
    (List.range t.nb).foldl (fun s i =>
      let b := t.b0 + i
      let zero (s : State) : State := s.zeroTile c r.seg r.bytes esize ⟨b, 1, t.blk, t.c0, t.nc⟩
      match r.accs[i]? with
      | none => zero s
      | some accs =>
        if r.taint.contains i || operandTaint (s.walker c) steps (dN r.bytes) b then
          zero (s.bumpFor p (okey (0x3300 + c) 4))
        else s.emitVector c r.seg o r t steps ups b accs (r.xs.getD i [])) s

/-- The pool outputs of a completed pooled tile are those of its cluster until they are written again (R96). -/
def State.notePooled (s : State) (c : Nat) (r : Running) (t : Tile) : State :=
  if !dOutPool r.bytes then s
  else
    let size := match s.segImg r.seg with
      | some g => elemSize (chainOf g c (dChain r.bytes))
      | none => 1
    let new : List PooledOut := (List.range t.nb).map fun b =>
      ⟨dCtx r.bytes, dOut r.bytes + (t.b0 + b) * dOutStride r.bytes + t.c0 * size, t.nc * size, c⟩
    { s with pool := { s.pool with pooled := new ++ s.pool.pooled.filter fun m => !new.contains m } }

/-- TILE_COMPLETE: the tile time has ended and the drain has written the output and mask; a pooled tile writes its
replica ID after them (R96). `ups` are upsets of the drain: vector, column, step and what is added there (R106). -/
def execTileComplete (c : Nat) (ups : List (Nat × Nat × Nat × Int)) (s : State) : Out :=
  .next (
    let w := s.walker c
    match w.running with
    | none => s
    | some r =>
      match r.tile, (s.segImg r.seg).bind fun i => objOf i (dObj r.bytes) with
      | some (n, _), some o =>
        if !s.active || decide (s.now < r.ready) then s
        else
          match tileAt o r.bytes n with
          | none => s
          | some t =>
            let s := s.writeTile c o r t ups
            let p := s.segParty r.seg
            let s := s.use (dCtx r.bytes) fun u => { u with lanes := u.lanes + ceilDiv (t.nb * t.nc) 64 }
            let size := ((s.segImg r.seg).map fun g => elemSize (chainOf g c (dChain r.bytes))).getD 1
            let lines := tileLines r.bytes size t ++ (if w.job.isSome then lineNums (dMap r.bytes + n) 1 else [])
            let s := s.chargeOut r.seg r.bytes lines w.job.isNone
            let s := if dOutPool r.bytes then s.traceOut
                  ⟨0x11, p, false, w.job.isSome, stOk, unitCluster c, dCtx r.bytes,
                    dOut r.bytes + t.b0 * dOutStride r.bytes, (dedupNat lines).length, r.desc, false⟩
              else s
            match w.job with
            | some j =>
              let s := (s.notePooled c r t).writeCtx p (dCtx r.bytes) (dMap r.bytes + n) (leBytes 1 c)
              let s := s.use (dCtx r.bytes) fun u => { u with tiles := u.tiles + 1 }
              let s := s.onWalker c fun w => { w with job := none, running := none }
              if s.reg (jobReg j 3) ≤ s.reg (jobReg j 2) && !s.jobBusy j then s.endJob j 3 else s
            | none =>
              let lo := ((s.walker c).running.map (·.lenOut)).getD []
              let (r, s) := s.skipTiles c o (r.last - r.next)
                { r with next := n + 1, tile := none, accs := [], fetched := none, xs := [], taint := [], lenOut := lo,
                         did := r.did + 1 }
              s.onWalker c fun w => { w with running := some { r with done := decide (r.last ≤ r.next) } }
      | _, _ => s)

/-! Completion of an instruction (R115, R127, R146, R147) -/

/-- The drain pip that an instruction triggers on a cluster in this frame (R146). -/
def State.trigger (s : State) (c : Nat) (r : Running) : Option DrainPip :=
  match s.segImg r.seg with
  | some g => g.pips.find? fun p => p.cluster = c && p.desc = r.desc && decide (s.frame.number % max 1 p.d = p.phase)
  | none => none

/-- The instruction completes on the cluster: the length-out values are written, then the moves behind it (R115, R127). -/
def State.finishInstruction (s : State) (c : Nat) (r : Running) : State :=
  let steps := match s.segImg r.seg with
    | some g => chainOf g c (dChain r.bytes)
    | none => []
  let lens (l : List Nat) : List Nat := ((stepsOf steps 6).zipIdx).foldl (fun l st =>
    setAt l (stepBits st.1 8 4) (((r.lenOut.find? (·.1 = st.2)).map fun x => (clampI 0 65535 x.2).toNat).getD 0)) l
  (s.traceOut ⟨0x13, s.segParty r.seg, false, false, stOk, unitCluster c, r.ctx, 0, 0, r.desc, false⟩).onWalker c fun w =>
    let w := { w with lens := lens w.lens, running := none, finished := w.finished + 1 }
    drainMoves w w.queue

/-- MACRO_INSTRUCTION_COMPLETE: every tile of the share is done. A triggered drain pip runs first, when it fits the
window; the instruction completes when that run has ended. -/
def execMacroInstructionComplete (c : Nat) (s : State) : Out :=
  .next (
    let w := s.walker c
    match w.running with
    | none => s
    | some r =>
      if !s.active || w.job.isSome || !r.done || r.tile.isSome || decide (s.now < r.ready) || (s.pip (c + 4)).running then s
      else
        match (if r.ran || decide (r.did = 0) then none else s.trigger c r) with
        | none => s.finishInstruction c r
        | some p =>
          let s := s.onWalker c fun w => { w with running := some { r with ran := true } }
          let r := { r with ran := true }
          if p.image.inPlace && (s.clu c).noSource.contains p.slot then
            let g := s.drainRegion (c + 4)
            (s.zeroRegion c g.1 g.2).finishInstruction c r
          else
            match s.openWindow with
            | some x =>
              if s.frame.start + x.2.2 < s.now + p.runTime then ((s.flagLate r.seg).markOverrun r.seg).finishInstruction c r
              else
                let party := s.segParty r.seg
                let s := (s.bump64 (okey (0x3340 + c) 7)).bump64 (pkey party (okey (0x3340 + c) 7))
                s.startPip (c + 4) p.image r.seg r.desc p.runTime []
            | none => s)

end Sys2Proof.Machine
end

