-- ==== Sys2Proof/Machine/Service.lean ====
section
/-! DEFINITION. The dictionary service (11): which entries exist and who sees them, the checks of an access in their
order, values accepted at once or through the vault, and what an access meets during a sprout, in SAFE and in recovery. -/

namespace Sys2Proof.Machine

open Sys2Proof

/-! Entries (R227, R228, R246, R247) -/

/-- The row of an entry. -/
def odRow (index sub : Nat) : Option OdRow :=
  odTable.find? fun r => r.sub = sub && decide (r.base ≤ index ∧ index < r.base + r.count)

/-- The highest subindex implemented at an index; 0 when it has none above 0. -/
def highestSub (index : Nat) : Nat :=
  odTable.foldl (fun m r => if r.base ≤ index ∧ index < r.base + r.count then max m r.sub else m) 0

/-- The row of subindex 0 of an index that carries subindices (R227): readable by every role that reads one of them. -/
def subZeroRow (index : Nat) : OdRow :=
  let rs := odTable.filter fun r => decide (r.base ≤ index ∧ index < r.base + r.count)
  let rd (f : OdRow → Acc) : Acc :=
    if rs.any fun r => f r = .ro || f r = .rw || f r = .rwp then .ro else .no
  ⟨index, 1, 0, .uns, 1, rd (·.own), rd (·.op), rd (·.ob), 0, 0, 255⟩

/-- The row of an entry, subindex 0 included. -/
def entryRow (index sub : Nat) : Option OdRow :=
  match odRow index sub with
  | some r => some r
  | none => if sub = 0 ∧ highestSub index ≠ 0 then some (subZeroRow index) else none

/-- An index of a group of 16 units. -/
def inGroup (base index : Nat) : Bool := decide (base ≤ index ∧ index < base + 16)

/-- An entry is hidden from a party on a port: 0x1000 to 0x1FFF exist on CAN FD only, and another party's own entries do
not exist for it (R101, R120, R139, R226, R228, R252, R255). -/
def State.hidden (s : State) (p port index : Nat) : Bool :=
  if decide (0x1000 ≤ index ∧ index < 0x2000) then port ≠ 3
  else if p = 0 then false
  else if inGroup 0x3800 index || inGroup 0x3820 index || inGroup 0x3C30 index || inGroup 0x4800 index then
    index % 16 ≠ p
  else if inGroup 0x3210 index then
    s.reg (okey index 4) ≠ p && s.reg (okey index 4) ≠ 0xFF
  else if inGroup 0x3310 index then s.reg (okey index 1) ≠ p
  else if inGroup 0x4C40 index then s.segParty (index - 0x4C40) ≠ p
  else false

/-- The access code of a party (R230). -/
def State.accOf (s : State) (p : Nat) (r : OdRow) : Acc :=
  if s.role p = 2 then r.own else if s.role p = 0 then r.op else r.ob

def Acc.reads : Acc → Bool
  | .ro | .rw | .rwp => true
  | _ => false

def Acc.writes : Acc → Bool
  | .rw | .rwp | .wo => true
  | _ => false

/-- A channel entry of a channel that the party is not granted (R195). -/
def State.notGranted (s : State) (p index : Nat) : Bool :=
  p ≠ 0 &&
    (if inGroup 0x2800 index then !(s.inForce (okey index 8)).testBit p
     else if decide (0x2820 ≤ index ∧ index < 0x2822) then !(s.inForce (okey index 7)).testBit p
     else false)

/-- The role check of an access (R231, check 2): each party configures only its own trace index, which the Owner reads
(R255), and party 0's role is not written (R252). -/
def State.permits (s : State) (p : Nat) (r : OdRow) (index sub : Nat) (write : Bool) : Bool :=
  (if write then (s.accOf p r).writes else (s.accOf p r).reads) && !s.notGranted p index &&
    !(write && inGroup 0x4800 index && index - 0x4800 ≠ p) && !(write && index = 0x3800 && sub = 1)

/-! What an access meets (R231 check 5, R339, R387, R389) -/

/-- The domain whose power an entry needs (log 50): 2 SENSE, 3 COMP, 4 MEM, else CTRL. -/
def entryDomain (index sub : Nat) : Nat :=
  if index = 0x4010 ∧ sub = 1 ∨ index = 0x3840 ∧ sub ≥ 2 ∨ index = 0x2011 ∧ sub = 1 then 4
  else if 0x2800 ≤ index ∧ index < 0x3000 then 2
  else if 0x3000 ≤ index ∧ index < 0x3800 then 3
  else 1

/-- A domain is on (0x2410 + d:02). -/
def State.domainOn (s : State) (d : Nat) : Bool := d ≤ 1 || s.reg (okey (0x2410 + d) 2) = 1

/-- A write that starts an operation rather than set a value (Table SPROUT-2). -/
def startsOp (index sub : Nat) : Bool :=
  [(0x4C20, 1), (0x4C20, 2), (0x4C20, 3), (0x4C24, 1), (0x4C24, 2), (0x4400, 2), (0x2002, 2), (0x2003, 3),
   (0x2001, 4), (0x2001, 5), (0x2004, 1), (0x2004, 2), (0x2004, 3)].contains (index, sub) ||
  (decide (0x3110 ≤ index ∧ index < 0x3138) && (sub = 9 || sub = 1)) ||
  (inGroup 0x2A00 index && (sub = 8 || sub = 1)) ||
  (decide (0x3010 ≤ index ∧ index < 0x3018) && sub = 4) ||
  (inGroup 0x3800 index && sub = 10)

/-- What becomes of an access: no answer, held until MEMORY ends, or a status. -/
inductive Serve where
  | silent
  | held
  | status (st : Nat)
  deriving DecidableEq, Repr

/-- The service and the unit can take an access now (R231 check 5). A halted service processor answers BUSY (18 R378). -/
def State.serve (s : State) (r : Req) (index sub : Nat) (write : Bool) : Serve :=
  if s.husk.recovery then
    if r.party = 0 && r.port = 4 &&
        (if write then index = 0x2001 && sub = 4 else decide (0x2000 ≤ index ∧ index ≤ 0x2002)) then .status stOk
    else .status stNotReady
  else
    match s.husk.power with
    | .off => .silent
    | .sprout =>
      if s.husk.stage < 4 then .silent
      else if write then .status (if startsOp index sub then stNotReady else stOk)
      else if entryDomain index sub = 4 then (if s.husk.stage = 4 then .held else .status stOk)
      else .status (if s.domainOn (entryDomain index sub) then stOk else stNotReady)
    | .safe =>
      if write then .status (if index = 0x2003 ∧ sub = 4 then stOk else stThermal)
      else .status (if entryDomain index sub = 1 then stOk else stThermal)
    | _ =>
      if s.dict.halted then .status stBusy
      else if write || s.domainOn (entryDomain index sub) then .status stOk
      else .status stNotReady

/-- No dictionary access is answered at all: OFF, before stage FIRMWARE ends, or with the crystal stopped. -/
def State.mute (s : State) : Bool :=
  (!s.husk.recovery && (s.husk.power = .off || (s.husk.power = .sprout && decide (s.husk.stage < 4)))) ||
    s.husk.xtalStopped || !s.husk.supply

/-- The access that the service executes next: the first in its queue (R240). -/
def State.odFirst (s : State) : Option (Nat × Nat × List Byte × Bool) := s.net.accepted.find? fun m => field m.2.2.1 1 1 = 1

/-- It is an access's turn: accesses run one at a time in their order of arrival, across all ports (R240). -/
def State.odTurn (s : State) (r : Req) : Bool :=
  s.odFirst.all fun m => m.1 = r.port && m.2.1 = r.party && field m.2.2.1 8 4 = r.seq

/-! Writes -/

/-- A value fits its type and range (R231, checks 3 and 4). -/
def fits (r : OdRow) (v : Nat) : Nat :=
  match r.kind with
  | .uns => if v ≥ 256 ^ r.size then stBadType else if r.lo ≤ v ∧ (v : Int) ≤ r.hi then stOk else stRange
  | .int =>
    if v ≥ 256 ^ r.size then stBadType
    else if r.lo ≤ signedOf (8 * r.size) v ∧ signedOf (8 * r.size) v ≤ r.hi then stOk else stRange
  | _ => stOk

/-- Ranges that the notes of an entry add to its bounds. -/
def noteRange (index sub v : Nat) : Bool :=
  !(index = 0x3001 && sub = 0 && decide (0 < v ∧ v < 3600)) &&
  !(inGroup 0x2800 index && index < 0x280C && index ≥ 0x2808 && sub = 1 && v = 1) &&
  !(inGroup 0x4800 index && sub = 3 && v % 32 ≠ 0) &&
  !(index = 0x3C50 && sub = 1 && decide (1 < v ∧ v < 0xFF))

/-- Checks 1 and 2 of a write (Table OD-2): the entry exists, the party sees it, and its role may write it. -/
def State.mayWrite (s : State) (r : Req) (index sub : Nat) : Nat :=
  match entryRow index sub with
  | none => stNoObject
  | some row =>
    if s.hidden r.party r.port index then stNoObject
    else if !s.permits r.party row index sub true then stDenied
    else stOk

/-- Checks 1 to 4 of a write of a number (Table OD-2), as far as they need only the entry's row. -/
def State.numberFits (s : State) (r : Req) (index sub v : Nat) : Nat :=
  if s.mayWrite r index sub ≠ stOk then s.mayWrite r index sub
  else
    match entryRow index sub with
    | none => stNoObject
    | some row =>
      if row.kind ≠ .uns ∧ row.kind ≠ .int then stBadType
      else if fits row v ≠ stOk then fits row v
      else if !noteRange index sub v then stRange
      else stOk

/-- The same of a write of bytes: a DOMAIN or a string of a fixed length. -/
def State.bytesFit (s : State) (r : Req) (index sub len : Nat) : Nat :=
  if s.mayWrite r index sub ≠ stOk then s.mayWrite r index sub
  else
    match entryRow index sub with
    | none => stNoObject
    | some row =>
      if row.kind = .str ∧ len ≠ row.size then stBadType
      else if row.kind ≠ .str ∧ row.kind ≠ .domain then stBadType
      else stOk

/-- Checks 1 to 5 of a write of a number (Table OD-2), the entry's own status left out; before its turn nothing happens to it
(R240). -/
def State.writeCheck (s : State) (r : Req) (index sub v : Nat) : Serve :=
  if s.mute || !s.odTurn r then .silent
  else if s.numberFits r index sub v ≠ stOk then .status (s.numberFits r index sub v)
  else s.serve r index sub true

/-- Checks 1 to 3 and 5 of a write of bytes, the entry's own status left out. -/
def State.bytesCheck (s : State) (r : Req) (index sub len : Nat) : Serve :=
  if s.mute || !s.odTurn r then .silent
  else if s.bytesFit r index sub len ≠ stOk then .status (s.bytesFit r index sub len)
  else s.serve r index sub true

/-- The status of a write whose entry has a status of its own (R231): its BAD_TYPE and RANGE are checks 3 and 4 and stand
before what the service and the unit can take now; its other statuses come last. `early` is the status of checks 1 to 4,
`st` that of all five. -/
def lateStatus (early st own : Nat) : Nat :=
  if st = stOk ∨ early = stOk ∧ (own = stBadType ∨ own = stRange) then own else st

/-- A dictionary access is traced for its party (20 R412): the operation is the index, the address the subindex. -/
def State.traceOd (s : State) (r : Req) (k st : Nat) : State :=
  s.traceOut ⟨0x40, r.party, false, false, st, unitPort r.port, r.party, k % 256, 0, k / 256, false⟩

/-- The CANopen FD abort code of a status other than OK (R11); `absent`: the index itself is absent. NO_OBJECT has codes for
an absent index and an absent subindex only; where both exist and the object behind them does not (an absent context, a
firmware slot without an image), this model answers the code of an absent subindex (DESIGN CHOICE, log 171). -/
def abortCode (absent : Bool) (st : Nat) : Nat :=
  match st with
  | 0x01 => 0x08000022 | 0x02 => 0x06010000 | 0x03 => if absent then 0x06020000 else 0x06090011
  | 0x04 => 0x06070010 | 0x05 => 0x06090030 | 0x06 => 0x08000020 | 0x07 => 0x05040005 | 0x0B => 0x08000020
  | 0x0D => 0x06060000 | 0x0E => 0x08000022 | 0x10 => 0x08000020 | _ => 0x08000000

/-- The index has no entry that the party could see on its port. -/
def State.absentIndex (s : State) (r : Req) (index : Nat) : Bool :=
  s.hidden r.party r.port index || !(odTable.any fun x => decide (x.base ≤ index ∧ index < x.base + x.count))

/-- A USDO answer to a CAN node. -/
def State.usdoOut (s : State) (node abort : Nat) (data : List Byte) : State :=
  { s.portCount 3 0x11 with out := s.out ++ [OutMsg.usdo node abort data] }

/-- The end of a USDO: the data, or the abort code, to the party's node (R11, R224, R238). -/
def State.usdoEnd (s : State) (r : Req) (index st : Nat) (data : List Byte) : State :=
  let node := s.inForce (okey (0x3C30 + r.party) 3)
  let t := s.taken r
  if s.portUp 3 then
    t.usdoOut node (if st = stOk then 0 else abortCode (s.absentIndex r index) st) (if st = stOk then data else [])
  else t

/-- The bytes of a value that CiA 1301 lets a USDO carry expedited, and those of one segment (PRESUMED, log 186: the spec names
the standard, not the number). -/
abbrev usdoRoom : Nat := 56

/-- A value read by USDO: expedited where it fits; else its length, and an open transfer of the value's snapshot that segments
carry (R238). -/
def State.usdoValue (s : State) (r : Req) (index sub st : Nat) (data : List Byte) : State :=
  if st ≠ stOk ∨ data.length ≤ usdoRoom ∨ s.portUp 3 = false then s.usdoEnd r index st data
  else
    let t := s.usdoEnd r index stOk (leBytes 4 data.length)
    let node := s.inForce (okey (0x3C30 + r.party) 3)
    { t with net := { t.net with usdo := ⟨node, index, sub, data, s.now, true⟩ :: t.net.usdo } }

/-- Answer a WRITE of an entry. -/
def State.wrote (s : State) (r : Req) (k st : Nat) : State :=
  if r.port = 3 then (s.traceOd r k st).usdoEnd r (k / 256) st [] else (s.traceOd r k st).answer r 2 st

/-- Answer a READ: the request's index, subindex and offset, then the data (Table NET-4). -/
def State.readAnswer (s : State) (r : Req) (index sub offset st : Nat) (data : List Byte) : State :=
  let s := s.traceOd r (okey index sub) st
  if r.port = 3 then s.usdoValue r index sub st data
  else s.answer r 1 st (leBytes 2 index ++ leBytes 1 sub ++ leBytes 1 0 ++ leBytes 4 offset ++ data)

/-- Commits begun within the last second. -/
def State.commitsNow (s : State) : List Nat := s.dict.commitTimes.filter fun t => decide (s.now < t + second)

/-- Begin the commit of an RWP value: at most 16 in any second, else BUSY (R232, R233). The value stands at once for
reads; VAULT_COMMIT sends the OK. -/
def State.beginCommit (s : State) (r : Req) (key v : Nat) : State :=
  if s.commitsNow.length ≥ 16 then (s.bump 0x201003).wrote r key stBusy
  else
    let t := s.setReg key v
    { t with dict := { t.dict with
        commits := t.dict.commits ++ [(r, key, v, s.now)], commitTimes := s.now :: s.commitsNow } }

/-- The same for a DOMAIN or a string. -/
def State.beginDomCommit (s : State) (r : Req) (key : Nat) (v : List Byte) : State :=
  if s.commitsNow.length ≥ 16 then (s.bump 0x201003).wrote r key stBusy
  else
    { s with dict := { s.dict with
        doms := mset [] s.dict.doms key v, domCommits := s.dict.domCommits ++ [(r, key, v, s.now)],
        commitTimes := s.now :: s.commitsNow } }

/-- A vault commit of the entry is in progress. -/
def State.committing (s : State) (k : Nat) : Bool :=
  (s.dict.commits.any fun c => c.2.1 = k) || s.dict.domCommits.any fun c => c.2.1 = k

/-- Store an accepted number: RW at once with OK, RWP through the vault unless it is unchanged (R232). A value that stands
only because its own commit is in progress is not in the vault yet: writing it again is committed and answered like the
first write. -/
def State.storeValue (s : State) (r : Req) (row : OdRow) (index sub v : Nat) : State :=
  let k := okey index sub
  if row.own = .rwp ∨ row.op = .rwp then
    (if s.reg k = v ∧ s.committing k = false then s.wrote r k stOk else s.beginCommit r k v)
  else (s.setReg k v).wrote r k stOk

/-- A write of a setting: the checks, the entry's own status, then the value is stored. -/
def State.setting (s : State) (r : Req) (index sub v own : Nat) : State :=
  match s.writeCheck r index sub v with
  | .silent => s
  | .held => s
  | .status st =>
    let a := lateStatus (s.numberFits r index sub v) st own
    if a ≠ stOk then s.wrote r (okey index sub) a
    else
      match entryRow index sub with
      | some row => s.storeValue r row index sub v
      | none => s.wrote r (okey index sub) stNoObject

/-- A write that orders something: the checks, the entry's own status, then the effect, and OK. -/
def State.ordered (s : State) (r : Req) (index sub v own : Nat) (eff : State → State) : State :=
  match s.writeCheck r index sub v with
  | .silent => s
  | .held => s
  | .status st =>
    let a := lateStatus (s.numberFits r index sub v) st own
    (if a ≠ stOk then s else eff s).wrote r (okey index sub) a

/-- A write of a DOMAIN that orders something: the checks, the entry's own status, then the effect, and OK. -/
def State.orderBytes (s : State) (r : Req) (index sub len own : Nat) (eff : State → State) : State :=
  match s.bytesCheck r index sub len with
  | .silent => s
  | .held => s
  | .status st =>
    let a := lateStatus (s.bytesFit r index sub len) st own
    (if a ≠ stOk then s else eff s).wrote r (okey index sub) a

/-- Store an accepted DOMAIN or string: RWP through the vault unless it is unchanged, else at once. -/
def State.storeBytes (s : State) (r : Req) (index sub : Nat) (data : List Byte) : State :=
  let k := okey index sub
  match entryRow index sub with
  | none => s.wrote r (okey index sub) stNoObject
  | some row =>
    if row.own = .rwp then
      (if mget [] s.dict.doms k = data ∧ s.committing k = false then s.wrote r k stOk else s.beginDomCommit r k data)
    else ({ s with dict := { s.dict with doms := mset [] s.dict.doms k data } }).wrote r (okey index sub) stOk

/-! Pooled jobs through the dictionary (04 R97, Table TILE-4) -/

/-- The pause entry of job j is written: the Owner or the owning party; another party does not see the job. -/
def State.pauseEntry (s : State) (r : Req) (j v : Nat) : State :=
  let own := if s.role r.party ≠ 2 && s.reg (jobReg j 4) ≠ r.party then stDenied else stOk
  s.ordered r (0x3210 + j) 6 v own fun s =>
    let s := { s with jobs := upd s.jobs j fun (x : Job) => { x with asked := v = 1 } }
    if v = 1 then s.pauseJob j else s

end Sys2Proof.Machine
end

