-- ==== Sys2Proof/Machine/Content.lean ====
section
/-! DEFINITION. What a plan places on a slot of a cluster: the level image that programming writes into the serving pod,
with its reference and checksum columns, its digital segment and its ranges (02 R48 to R51, 07 R150, 08 R166, R171). -/

namespace Sys2Proof.Machine

open Sys2Proof

/-- The blocks of weight objects that a plan places on a slot of a cluster: object, block number, block. -/
def slotBlocks (p : PlanImage) (c slot : Nat) : List (WObj × Nat × Block) :=
  p.segs.flatMap fun g => (g.objs.filter fun o => !o.head && o.replica.testBit c).flatMap fun o =>
    (o.blocks.zipIdx.filter fun b => b.1.slot = slot).map fun b => (o, b.2, b.1)

/-- The row of its object that the first row of a block is: the heights of the k-blocks before it (R83). -/
def blockFirst (o : WObj) (b : Block) : Nat :=
  (((o.blocks.filter fun x => x.n = b.n && decide (x.k < b.k)).map (·.rows))).foldl (· + ·) 0

/-- The level byte of a weight cell: [7:4] G+ and [3:0] G− (R166); 0 where nothing is placed and in an outlier row (R109). -/
def levelAt (bs : List (WObj × Nat × Block)) (row col : Nat) : Nat :=
  match bs.find? fun x => decide (x.2.2.rowOff ≤ row ∧ row < x.2.2.rowOff + x.2.2.rows ∧
      x.2.2.colOff ≤ col ∧ col < x.2.2.colOff + x.2.2.cols) with
  | some (o, n, b) =>
    if o.outliers.any fun x => x.row = blockFirst o b + (row - b.rowOff) then 0
    else ((o.levels.getD n []).getD ((row - b.rowOff) * b.cols + (col - b.colOff)) 0).toNat
  | none => 0

/-- The weight that a level byte stands for, and the byte that stores a weight (R38, R166). -/
def levelWeight (b : Nat) : Int := (b / 16 % 16 : Nat) - (b % 16 : Nat)
def weightLevel (w : Int) : Nat := if 0 ≤ w then 16 * w.toNat else (-w).toNat

/-- x / 64 rounded, halves away from zero (R49). -/
def round64 (x : Int) : Int := if 0 ≤ x then ((x.toNat + 32) / 64 : Nat) else -(((-x).toNat + 32) / 64 : Nat)

/-- One row of cell pairs: 1,024 weight columns, 16 reference columns, 16 checksum columns (R48, R49). -/
def slotRow (bs : List (WObj × Nat × Block)) (row : Nat) : List Nat :=
  let ws := (List.range 1024).map (levelAt bs row)
  ws ++ (List.range 16).map (fun m => 16 * m) ++
    (List.range 16).map fun j =>
      weightLevel (round64 ((List.range 64).foldl (fun a i => a + levelWeight (ws.getD (16 * i + j) 0)) 0))

/-- Every cell pair of a slot, as a pod holds them after its program. -/
def slotCells (p : PlanImage) (c slot : Nat) : List (Nat × Nat) :=
  let bs := slotBlocks p c slot
  (List.range 1024).flatMap fun r =>
    ((slotRow bs r).zipIdx.filter fun x => decide (x.1 ≠ 0)).map fun x => (r * 1056 + x.2, x.1)

/-- The range setting of each column group that an object covers, plus 1 (R42, R166). -/
def slotRanges (p : PlanImage) (c slot : Nat) : List (Nat × Nat) :=
  (slotBlocks p c slot).foldl (fun m x =>
    (List.range (x.2.2.cols / 8)).foldl (fun m i =>
      mset 0 m (x.2.2.colOff / 8 + i) ((x.1.ranges.getD x.2.1 []).getD i 0 + 1)) m) []

/-- The in-place images of a slot of a cluster, each with its segment. -/
def slotPips (p : PlanImage) (c slot : Nat) : List (SegImage × DrainPip) :=
  p.segs.flatMap fun g => (g.pips.filter fun x => x.cluster = c && x.image.inPlace && x.slot = slot).map fun x => (g, x)

/-- The digital segment of a slot: each in-place image at its footprint (R50, R150). -/
def slotDigital (p : PlanImage) (c slot : Nat) : List (Nat × Nat) :=
  (slotPips p c slot).foldl (fun m x =>
    ((pipBytesOf x.2.image).zipIdx).foldl (fun m b => mset 0 m (512 * x.2.block + b.2) b.1.toNat) m) []

/-- What stands for the level-image hash of a slot's whole content: the hashes of its objects and the CRCs of its in-place
images in order; 0 where nothing is placed (R171). -/
def slotHash (p : PlanImage) (c slot : Nat) : Nat :=
  let h := (dedupNat ((slotBlocks p c slot).map (·.1.hash))).foldl (fun a x => a * 2 ^ 384 + x + 1) 0
  (slotPips p c slot).foldl (fun a x => a * 2 ^ 32 + crc32 (pipBytesOf x.2.image) + 1) h

/-- The running plan, in any tier, places no work on a cluster (R170, R327). -/
def State.clusterFree (s : State) (c : Nat) : Bool :=
  match s.loader.plan with
  | some p => !(p.segs.any fun g => (segClusters g).testBit c)
  | none => true

/-- The images that run in place from a slot of a cluster under the plan in force (07 R150). DESIGN CHOICE (log 178): R152 to
R155 speak of one image of a pod; several on one slot are lifted, deferred, suspended and set down together. -/
def State.inPlaceAt (s : State) (c slot : Nat) : List (SegImage × DrainPip) :=
  match s.loader.plan with
  | some p => slotPips p c slot
  | none => []

/-- An image runs in place from a pod: from a slot that it serves. -/
def State.holdsImage (s : State) (pod : Nat) : Bool :=
  (List.range 4).any fun sl => !(s.inPlaceAt (pod / 5) sl).isEmpty && s.slotPod (pod / 5) sl = pod

/-- A count of the drain engine's entries rises by one for each in-place image of a slot, in its party's share (07 R157). -/
def State.countImages (s : State) (c slot key : Nat) : State :=
  (s.inPlaceAt c slot).foldl (fun (s : State) x => s.bumpFor x.1.party key) s

/-- Replace an object's levels and hash in a plan (R179). -/
def swapLevels (p : PlanImage) (party obj hash : Nat) (levels : List (List Byte)) : PlanImage :=
  { p with segs := p.segs.map fun g =>
      if g.party = party then
        { g with objs := g.objs.map fun o => if o.id = obj then { o with levels := levels, hash := hash } else o }
      else g }

/-- The plan that the pending load, update or consolidation leads to (R171, R179, R180). -/
def State.nextPlan (s : State) : Option PlanImage :=
  match s.loader.pending with
  | some x =>
    match x.plan, x.update, s.loader.plan with
    | some p, _, _ => some p
    | none, some u, some p => some (swapLevels p x.party u.objId u.newHash u.levels)
    | _, _, _ => none
  | none => none

end Sys2Proof.Machine
end

