-- ==== Sys2Proof/Machine/Calib.lean ====
section
/-! DEFINITION. Trims and calibration (03): trim codes, ramps, drift ratios, AFE attempts with the quietness guard,
references, oscillators, temperature compensation and restores. -/

namespace Sys2Proof.Machine

open Sys2Proof

/-! Trims (Table CAL-1). References and oscillators are keys of the model (log 51). -/

def refUnit (u : Nat) : Nat := 0xA000 + u
def oscUnit (u : Nat) : Nat := 0xB000 + u

/-- The unit that a record names for a reference or an oscillator (log 51). -/
def recordUnit (unit : Nat) : Nat :=
  if unit / 4096 = 10 then (if unit % 4096 < 8 then unitCluster (unit % 4096) else unitDomain 2)
  else if unit / 4096 = 11 then (if unit % 4096 = 0 then unitDomain 0 else unitDomain 1)
  else unit

def State.onCal (s : State) (f : Cal → Cal) : State := { s with cal := f s.cal }

/-- Set a target code, limited to its range; a new target replaces the old one (R64, R77). -/
def State.setTarget (s : State) (k : Nat) (v : Int) : State :=
  s.onCal fun c => { c with target := trimSet c.target k (clampI (trimRange k).1 (trimRange k).2 v) }

/-- A CAL record: CAL_UNSTABLE's measurement number is nowhere given, so it is a free value (log 53). -/
def State.calUnstable (s : State) (unit : Nat) : State :=
  let (n, s) := s.drawNat
  s.fault clsCal 1 (recordUnit unit) noParty (n % 4294967296)

/-! The ramp (R77, R78) -/

/-- One ramp step from a code towards its target. -/
def rampStep (size : Nat) (a b : Int) : Int :=
  if (b - a).natAbs ≤ size then b else if a < b then a + size else a - size

/-- The ramp moves a trim: a pod's only while it is active (R67, R78). -/
def State.ramped (s : State) (k : Nat) : Bool :=
  k / 4096 / 4096 ≠ 2 || s.reg (podReg (k / 4096 % 4096) 1) = 0

/-- Task 2 of KEEP stages a move for each ramped trim away from its target (R78). -/
def State.stageRamps (s : State) : State :=
  let mode := s.inForce 0x310001
  let n := max 1 (s.inForce 0x310002)
  let size := if mode = 1 then 2 else if mode = 2 then 4 else 1
  if mode = 3 ∧ s.frame.number % n ≠ 0 then s.onCal fun c => { c with moves := [] }
  else
    let keys := (dedupNat ((s.cal.target ++ s.cal.applied).map (·.1))).filter s.ramped
    s.onCal fun c => { c with moves := (keys.filter fun k => trimGet c.target k ≠ trimGet c.applied k).map fun k =>
      (k, rampStep size (trimGet c.applied k) (trimGet c.target k)) }

/-- A unit's targets become what is applied: a pod that leaves active service stops its ramps (R78). -/
def State.stopRamps (s : State) (unit : Nat) : State :=
  s.onCal fun c =>
    let here (x : Nat × Int) : Bool := x.1 / 4096 = unit
    { c with target := (c.target.filter here).foldl (fun m x => trimSet m x.1 (trimGet c.applied x.1))
               ((c.applied.filter here).foldl (fun m x => trimSet m x.1 (trimGet c.applied x.1)) c.target),
             moves := c.moves.filter fun x => !here x }

/-- At the boundary the staged moves and the trims applied at once come into force; a frame with new trims has a new
calibration epoch (R67, R78, Table SCOPE-2). -/
def State.applyTrims (s : State) : State :=
  let ms := s.cal.moves ++ s.cal.atOnce
  if ms.isEmpty then s
  else
    (s.onCal fun c =>
      { c with applied := ms.foldl (fun m x => trimSet m x.1 x.2) c.applied,
               target := c.atOnce.foldl (fun m x => trimSet m x.1 x.2) c.target, moves := [], atOnce := [] }).bump
      0x310003

/-! Pods: base codes, drift, spare calibration (R65 to R69) -/

/-- Pod calibration entries: 0x3110 + pod. -/
def calReg (pod sub : Nat) : Nat := okey (0x3110 + pod) sub

/-- The unlimited gain code of a group: base code plus drift term, which groups 128 and 129 do not take (R65, Table
CAL-1). -/
def State.gainCode (s : State) (pod g : Nat) : Int :=
  trimGet s.cal.calibrated (trimKey (unitPod pod) g) + (if g = 128 ∨ g = 129 then 0 else mget 0 s.cal.drift pod)

/-- A pod's quality status: LIMIT while a trim of it stands clamped, else what its last calibration left (R65, Table CAL-4). -/
def State.showQuality (s : State) (pod : Nat) : State :=
  let mine (k : Nat) : Bool := k / 4096 = unitPod pod
  s.setReg (calReg pod 4) (if s.cal.limited.any mine || s.cal.baseLimit.any mine then 3 else mget 4 s.cal.quality pod)

/-- Gain codes outside their range are clamped, and so is a base code that its calibration clamped: status LIMIT, and one record
for each group that has become so; a pod whose trims are all back in range leaves LIMIT (R65, R79). -/
def State.limitCheck (s : State) (pod : Nat) : State :=
  let key (g : Nat) : Nat := trimKey (unitPod pod) g
  let out := (List.range 132).filter fun g => trimClamped (key g) (s.gainCode pod g) || s.cal.baseLimit.contains (key g)
  let new := out.filter fun g => !s.cal.limited.contains (key g)
  let s := (s.onCal fun c =>
    { c with limited := out.foldl (fun l g => sins l (key g)) (c.limited.filter fun k => k / 4096 ≠ unitPod pod) }).showQuality
      pod
  new.foldl (fun (s : State) g =>
    s.fault clsCal 3 (unitGroup pod g) noParty (unsignedOf 32 (clampI 0 63 (s.gainCode pod g)))) s

/-- A calibrated set is written to the vault: the copy that stood there is the alternate one (R67, 03 Edges). -/
def Cal.putSet (c : Cal) (unit : Nat) (set_ : List (Nat × Int)) : Cal :=
  { c with vault := mins c.vault unit set_,
           vaultAlt := match c.vault.find? (·.1 = unit) with
             | some x => mins c.vaultAlt unit x.2
             | none => c.vaultAlt }

/-- Set the targets of every gain and offset of a pod from its base codes and drift term. -/
def State.podTargets (s : State) (pod : Nat) : State :=
  (List.range 264).foldl (fun s i =>
    let k := trimKey (unitPod pod) i
    s.setTarget k (if i < 132 then s.gainCode pod i else trimGet s.cal.calibrated k)) s

/-- The pod's role is spare, or its cluster carries no loaded work (R66, R171). -/
def State.asSpare (s : State) (pod : Nat) : Bool := s.reg (podReg pod 1) = 1 || s.clusterFree (pod / 5)

/-- MVM intervals of spare calibration, in slices of the configured length (R66). -/
def State.calSlices (s : State) : Nat := ceilDiv 2112 (max 1 (s.inForce 0x300200 * 1000 / 320))

/-- The spare's own gate is on at once: it is needed (R59). -/
def State.powerSpare (s : State) (pod : Nat) : State :=
  if s.reg (podReg pod 1) = 1 then s.setReg (podReg pod 11) 1 else s

/-- Begin a spare's calibration (R59, R66). -/
def State.beginCal (s : State) (pod : Nat) : State :=
  ((s.onPod pod fun p => { p with calLeft := s.calSlices, calTries := 0 }).spareState pod 2).powerSpare pod

/-- New group residuals of a pod, measured values that nothing here fixes, and the worst of them (R79). -/
def State.newResid (s : State) (pod : Nat) : State :=
  let rs := (List.range 132).map fun g => Config.freeNat (s.free + g) % 65536
  let s : State := { s with free := s.free + 132, cal := { s.cal with resid := mins s.cal.resid pod rs } }
  s.setReg (calReg pod 5) (rs.foldl max 0)

/-! The two steps of spare calibration (R66) -/

/-- The range at which calibration converts a group: the pod's, and 1 for the reference groups, as in drift reads (R66, R68;
log 145). -/
def calRange (p : Pod) (g : Nat) : Nat := if g = 128 ∨ g = 129 then 1 else groupRange p g

/-- The expected low-phase sum of a column under calibration vector v at one pulse, from the content of the pod. -/
def calSum (p : Pod) (v col : Nat) : Int :=
  p.cells.foldl (fun a x => if x.1 % 1056 = col
    then a + clampI (-1) 1 (Config.calVector v (x.1 / 1056)) * ((x.2 / 16 % 16 : Nat) - (x.2 % 16 : Nat) : Int) else a) 0

/-- The vectors and columns of a group with their expected sums. -/
def calSums (p : Pod) (g : Nat) : List (Nat × Nat × Int) :=
  (List.range 8).flatMap fun v => (List.range 8).map fun j => (v, 8 * g + j, calSum p v (8 * g + j))

/-- The amplitude of a group: the largest whose expected sums stay within 90 % of full scale, where it reaches 25 % (R66). DESIGN
CHOICE (log 179): a group whose sums exceed 90 % already at 1 pulse has no amplitude either, and takes the pod's median. -/
def calAmp (p : Pod) (g : Nat) : Option Nat :=
  let m := ((calSums p g).map fun x => x.2.2.natAbs).foldl max 0
  let full := 255 * rangeLsb (calRange p g)
  match [15, 7, 3, 1].find? fun a => decide (10 * (a * m) ≤ 9 * full) with
  | some a => if full ≤ 4 * (a * m) then some a else none
  | none => none

/-- The fitted gain of a group in 10⁻⁶, by least squares over 8 vectors and 8 columns (R66). -/
def calGain (p : Pod) (m : CalMeas) (g amp : Nat) : Int :=
  let xs := calSums p g
  let dev (v col : Nat) : Int := ((m.dev.find? fun d => d.1 = v ∧ d.2.1 = col).map (·.2.2)).getD 0
  let ed := xs.foldl (fun a x => a + x.2.2 * dev x.1 x.2.1) (0 : Int)
  let ee := xs.foldl (fun a x => a + x.2.2 * x.2.2) (0 : Int)
  1000000 + roundDiv (1000000 * (rangeLsb (calRange p g) : Int) * ed) (64 * amp * ee.toNat)

/-- The code that brings a gain, fitted under code `cur`, nearest to 1 (R66, Table CAL-1). -/
def gainFor (cur gain : Int) : Int :=
  if gain ≤ 0 then 63
  else 16 + roundDiv (roundDiv ((1000000 + 1500 * (cur - 16)) * 1000000) gain.toNat - 1000000) 1500

/-- The middle of a list of codes, the lower of two (R66; log 145). -/
def median (l : List Int) : Option Int :=
  let xs := (l.map fun x => (x + 1048576).toNat).foldr (insBy id) []
  (xs[(xs.length - 1) / 2]?).map fun (x : Nat) => (x : Int) - 1048576

/-- Measurements A and B of a pod agree within Table CAL-2: every offset within 0.25 LSB and every gain within 0.5 LSB at code
255 (R70). -/
def calAgrees (p : Pod) (a b : CalMeas) : Bool :=
  ((List.range 132).all fun g => decide ((a.zero.getD g 0 - b.zero.getD g 0).natAbs ≤ 16)) &&
    (List.range 132).all fun g =>
      match calAmp p g with
      | some amp => decide (510 * (calGain p a g amp - calGain p b g amp).natAbs ≤ 1000000)
      | none => true

/-- The codes that a pair gives a pod: base gain codes, and offset codes that bring each ADC's mean nearest to 0 (R66). -/
def State.calCodes (s : State) (pod : Nat) (a b : CalMeas) : List Int × List Int :=
  let p := s.pod pod
  let cur (i : Nat) : Int := trimGet s.cal.applied (trimKey (unitPod pod) i)
  let fit (g : Nat) : Option Int := (calAmp p g).map fun amp =>
    gainFor (cur g) (Int.fdiv (calGain p a g amp + calGain p b g amp) 2)
  let fits := (List.range 132).map fit
  let med := (median (fits.filterMap id)).getD 16
  (fits.map fun f => f.getD med,
    (List.range 132).map fun g => cur (132 + g) - roundDiv (a.zero.getD g 0 + b.zero.getD g 0) 8)

/-- Spare calibration ends with an agreeing pair: its trims wait for the next boundary, where they are applied at once (R67).
A base gain or offset code that its range does not hold is clamped, which is LIMIT until the next calibration, with one record
for each group whose gain is (R65, Table CAL-4). -/
def State.endCal (s : State) (pod : Nat) (base offs : List Int) (refs : List Nat) : State :=
  let u := unitPod pod
  let codes := ((List.range 132).map fun g => (g, clampI 0 63 (base.getD g 16))) ++
    (List.range 132).map fun g => (132 + g, clampI (-32) 31 (offs.getD g 0))
  let bad := (List.range 132).filter fun g => trimClamped (trimKey u g) (base.getD g 16)
  let badOff := (List.range 132).filter fun g => trimClamped (trimKey u (132 + g)) (offs.getD g 0)
  let others (l : List Nat) : List Nat := l.filter fun k => k / 4096 ≠ u
  let s := s.onCal fun c =>
    { c with atOnce := c.atOnce ++ codes.map (fun x => (trimKey u x.1, x.2)), verifyNext := some (pod, some (codes, refs.take 15)),
             podDue := sdel c.podDue pod, quality := mset 4 c.quality pod 0,
             limited := bad.foldl (fun l g => sins l (trimKey u g)) (others c.limited),
             baseLimit := (bad ++ badOff.map (132 + ·)).foldl (fun l i => sins l (trimKey u i)) (others c.baseLimit) }
  let s := ((s.showQuality pod).setReg (calReg pod 8) stOk).newResid pod
  bad.foldl (fun (s : State) g =>
    s.fault clsCal 3 (unitGroup pod g) noParty (unsignedOf 32 (clampI 0 63 (base.getD g 16)))) s

/-- Spare calibration ends without an agreeing pair: the spare keeps its trims and still becomes VERIFIED (R67, R70). DESIGN
CHOICE (log 146): last result (0x3110:08, and 0x2A00:09 of a channel) keeps its value, since Table SCOPE-4 has no status code
for CAL_UNSTABLE. DESIGN CHOICE (log 180): the record names the pod, whose pair it is, also where single column groups
disagree; Table INTEG-3 lists both. -/
def State.endCalUnstable (s : State) (pod : Nat) : State :=
  let s := s.onCal fun c => { c with verifyNext := some (pod, none), podDue := sdel c.podDue pod, quality := mset 4 c.quality pod 2 }
  (s.showQuality pod).calUnstable (unitPod pod)

/-- The drift reference of the factory baseline: column m reads 16·m codes (R68). -/
def factoryRefs : List Nat := (List.range 15).map fun m => 1024 * (m + 1)

/-- What the vault holds of a pod's set beside its codes: the drift reference at indices 264 to 278 (R80, Table CAL-5). -/
def refCodes (refs : List Nat) : List (Nat × Int) := refs.zipIdx.map fun x => (264 + x.2, (x.1 : Int))

/-- At the boundary after its calibration a spare becomes VERIFIED: its base codes and its drift reference are recorded and the
set written to the vault; a BULK pod leaves the list (R67, R171). -/
def State.verifySpare (s : State) : State :=
  match s.cal.verifyNext with
  | none => s
  | some (i, set_) =>
    let s : State := match set_ with
      | none => s
      | some (codes, refs) =>
        let s := s.onCal fun c => Cal.putSet
          { c with calibrated := codes.foldl (fun m x => trimSet m (trimKey (unitPod i) x.1) x.2) c.calibrated,
                   drift := mset 0 c.drift i 0 } (unitPod i) (codes ++ refCodes refs)
        (s.onPod i fun p => { p with refs := refs, visits := 0, driftAcc := [] }).setReg (calReg i 7) 1000000
    let s := s.spareState i 3
    { s with
      cal := { s.cal with verifyNext := none },
      loader := { s.loader with pending := s.loader.pending.map fun x =>
        { x with bulk := x.bulk.filter fun b => b.1 ≠ i } } }

/-- u = (1/ρ − 1) / 0.0015 differs from the current drift term by more than 0.6 codes, with ρ in 10⁻⁶ (R69). -/
def driftMoves (rho : Nat) (d : Int) : Bool :=
  decide (9 * rho < ((1000000 - (rho : Int)) * 10000 - d * 15 * rho).natAbs)

/-- The rounded drift term. -/
def driftTerm (rho : Nat) : Int := roundDiv ((1000000 - (rho : Int)) * 10000) (15 * rho)

/-- The drift ratio ρ of a pod in 10⁻⁶, from the sums of 64 reads and its drift reference; none where a sum is not positive
(R68; log 141). -/
def driftRho (p : Pod) : Option Nat :=
  let cs := p.driftAcc
  let num := (List.range 15).foldl (fun a m => a + (cs.getD (m + 1) 0 - cs.getD 0 0)) (0 : Int)
  let den := p.refs.foldl (· + ·) 0
  let rho := roundDiv (1000000 * num) den
  if den = 0 ∨ rho ≤ 0 then none else some (rho.toNat % 4294967296)

/-- A drift ratio moves the drift term when it differs by more than 0.6 codes, through the ramp (R69). -/
def State.moveDrift (s : State) (pod rho : Nat) : State :=
  if driftMoves rho (mget 0 s.cal.drift pod) then
    (s.onCal fun c => { c with drift := mset 0 c.drift pod (driftTerm rho) }).podTargets pod
  else s

/-- DRIFT_RATIO: an active pod with 16 visits forms ρ, publishes its figures and moves its drift term (R68, R69, R79). -/
def execDriftRatio (pod : Nat) (s : State) : Out :=
  .next (
    if !s.active || decide ((s.pod pod).visits < 16) then s
    else
      let rho := driftRho (s.pod pod)
      let s := s.onPod pod fun p => { p with visits := 0, driftAcc := [] }
      match rho with
      | none => s
      | some rho => (((s.setReg (calReg pod 7) rho).newResid pod).moveDrift pod rho).limitCheck pod)

/-- CALIBRATE_NOW: a spare only (R66, 0x3110:09). -/
def State.calibrateOrder (s : State) (r : Req) (pod v : Nat) : State :=
  s.ordered r (0x3110 + pod) 9 v (if s.reg (podReg pod 1) = 1 then stOk else stBusy) fun s =>
    s.onCal fun c => { c with podDue := sins c.podDue pod }

def execCalibrateNow (r : Req) (pod v : Nat) (s : State) : Out := .next (s.calibrateOrder r pod v)

/-! AFE channels (R71 to R74) -/

def afeReg (i sub : Nat) : Nat := okey (0x2A00 + i) sub

/-- The group of four of a channel. -/
def sameFour (a b : Nat) : Bool := a / 4 = b / 4

/-- The die sensor whose temperature triggers a channel (Table POWER-5). -/
def afeSensor (i : Nat) : Nat := if i < 8 then 12 else 13

def State.sensorAt (s : State) (n : Nat) : Int :=
  if s.thermal.inService.getD n true then s.thermal.readings.getD n 0 else s.thermal.readings.getD 15 0

/-- The last successful calibration of a channel: real-time clock, reading. -/
def State.afeLastOf (s : State) (i : Nat) : Option (Nat × Int) := (s.cal.afeLast.find? (·.1 = i)).map (·.2)

/-- A channel falls due: not calibrated since the sprout, its interval has elapsed, or its sensor has moved since its last
success (R73). -/
def State.afeFalls (s : State) (i : Nat) : Bool :=
  !s.cal.afeSince.testBit i ||
    match s.afeLastOf i with
    | none => true
    | some (t, r) =>
      decide (t + s.inForce 0x2A2001 ≤ s.rtc ∨ (4 * s.inForce 0x2A2002 : Int) ≤ (s.sensorAt (afeSensor i) - r).natAbs)

/-- AFE_CAL_DUE: a channel in AUTO falls due. -/
def execAfeCalDue (i : Nat) (s : State) : Out :=
  .next (if s.frame.running && s.inForce (afeReg i 7) = 0 && s.afeFalls i then
    s.onCal fun c => { c with afeDue := setBit c.afeDue i } else s)

/-- At a boundary every FRESH channel whose interval has elapsed without success is STALE (Table CAL-4). -/
def State.staleAfes (s : State) : State :=
  (List.range 16).foldl (fun (s : State) i =>
    match s.afeLastOf i with
    | some (t, _) => if t + s.inForce 0x2A2001 ≤ s.rtc ∧ s.reg (afeReg i 3) = 0 then s.setReg (afeReg i 3) 1 else s
    | none => s) s

/-- AFE_CALIBRATE_NOW: the channel is due whatever its mode (R73). -/
def State.afeCalibrateOrder (s : State) (r : Req) (i v : Nat) : State :=
  s.ordered r (0x2A00 + i) 8 v stOk fun s => s.onCal fun c => { c with afeAsked := setBit c.afeAsked i }

/-- A channel waits for its calibration: ordered, or due while its mode is AUTO (R73). -/
def State.afeWaits (s : State) (i : Nat) : Bool :=
  s.cal.afeAsked.testBit i || (s.cal.afeDue.testBit i && s.inForce (afeReg i 7) = 0)

/-- A channel has its calibration, or has failed it: it is neither due nor asked for (R70, R73). -/
def Cal.afeServed (c : Cal) (i : Nat) : Cal :=
  { c with afeDue := c.afeDue &&& (0xFFFF ^^^ (1 <<< i)), afeAsked := c.afeAsked &&& (0xFFFF ^^^ (1 <<< i)) }

def execAfeCalibrateNow (r : Req) (i v : Nat) (s : State) : Out := .next (s.afeCalibrateOrder r i v)

/-- A channel of the group of four flagged OVR at or after an instant. -/
def State.fourOvr (s : State) (i t : Nat) : Bool :=
  (List.range 16).any fun j => sameFour i j &&
    (match (s.channels.getD j Channel.blank).lastOvr with
     | some u => decide (t ≤ u)
     | none => false)

/-- An attempt ends NOT_QUIET: the 16th in a row raises one record and makes the channel STALE (R72). -/
def State.notQuiet (s : State) (i : Nat) : State :=
  let s := s.setReg (afeReg i 9) stNotQuiet
  if s.cal.quietRaised.testBit i then s
  else
    let n := s.reg (afeReg i 10) + 1
    let s := s.setReg (afeReg i 10) (min 65535 n)
    if 16 ≤ n then
      ((s.onCal fun c => { c with quietRaised := setBit c.quietRaised i }).setReg (afeReg i 3) 1).fault clsCal 2
        (unitAfe i) noParty n
    else s

/-- The integer square root of n < 4 ^ k, a bit of the result at a time. -/
def isqrt : Nat → Nat → Nat
  | 0, _ => 0
  | k + 1, n =>
    let r := 2 * isqrt k (n / 4)
    if (r + 1) * (r + 1) ≤ n then r + 1 else r

/-- The RMS of some values in nV after removal of their mean, in µV (R71). -/
def rmsOf (xs : List Int) : Nat :=
  let n := xs.length
  let sum : Int := xs.foldl (fun a x => a + x) 0
  let sq : Int := xs.foldl (fun a x => a + x * x) 0
  let v := ((n : Int) * sq - sum * sum).toNat / (n * n)
  isqrt (v.log2 + 1) v / 1000

/-- What the quietness detector of a channel reads over a window: the RMS of the input-referred signal less its mean, from the
samples whose instants lie in it (R71). DEDUCED (log 52): the signal is what the channel's samples show of it; fewer than two
of them fix no reading, which is then a free value. -/
def State.detect (s : State) (i from_ to_ : Nat) : Nat × State :=
  let xs := ((s.channels.getD i Channel.blank).recent.filter fun x => decide (from_ ≤ x.1 ∧ x.1 ≤ to_)).map (·.2)
  if 2 ≤ xs.length then (rmsOf xs % 4294967296, s)
  else
    let (n, s) := s.drawNat
    (n % 4294967296, s)

/-- The detector of a channel is read over a window, and 0x2800 + i:0D shows it (R71). -/
def State.readQuiet (s : State) (i from_ to_ : Nat) : Nat × State :=
  let (q, s) := s.detect i from_ to_
  (q, s.onCal fun c => { c with quiet := mset 0 c.quiet i q })

/-- KEEP evaluates one waiting channel: a quiet one starts at the next boundary (R71 to R73). -/
def State.evalAfe (s : State) (i : Nat) : State :=
  if !s.afeWaits i || s.cal.afe.isSome || s.fourOvr i (s.now - 1000000) then s
  else
    let (q, s) := s.readQuiet i (s.now - 1000000) s.now
    if q < s.inForce (afeReg i 6) then
      s.onCal fun c => { c with afe := some ⟨i, 0, 0, 0, none, none, 0, false, none⟩ }
    else s.notQuiet i

/-- The evaluations of one KEEP, in ascending unit index; none in T3, HOLD or SAFE (R71). -/
def State.evalAfes (s : State) : State :=
  if s.tier = 3 ∨ s.husk.power = .hold ∨ s.husk.power = .safe then s else (List.range 16).foldl State.evalAfe s

/-- The effective PGA setting of a channel (0x2800 + i:06). -/
def State.pga (s : State) (i : Nat) : Nat := if i < 8 then s.reg (okey (0x2800 + i) 6) else 0

/-! Times of an attempt (Table CAL-3) -/

/-- A sample period at a rate code, in 1/64 ns (09 Table SENSE-1). -/
def periodOf (i rate : Nat) : Nat :=
  if i < 8 then 250000 * 2 ^ rate else if i < 12 then 32000 * 2 ^ rate else if i < 16 then 16000000 * 2 ^ rate else 0

def State.samplePeriod (s : State) (i : Nat) : Nat := periodOf i (s.reg (okey (0x2800 + i) 4))

/-- The k-th time of Table CAL-3, ns from the attempt's start: 100, 300, 500, 700, 900, 1,000 and 2,000 µs; on a T channel
each span stretches to whole output words (R71). -/
def State.afeTime (s : State) (i k : Nat) : Nat :=
  let word := max 1 (s.samplePeriod i / 64)
  (([100000, 200000, 200000, 200000, 200000, 100000, 1000000].take k).map fun n =>
    if 12 ≤ i then ceilDiv n word * word else n).foldl (· + ·) 0

/-- An attempt ends: the input is reconnected, and its samples keep their SUS until the settling is over, 100 µs after an early
end (Table CAL-3; log 147). -/
def State.endAfe (s : State) : State :=
  match s.cal.afe with
  | none => s
  | some a =>
    s.onCal fun c =>
      { c with afe := none,
               susSpans := if a.stage = 0 then c.susSpans
                 else (c.susSpans.filter fun x => decide (s.now < x.2.2 + 4000000000)) ++
                   [(a.ch, a.start, min (s.now + 100000) (a.start + s.afeTime a.ch 6))] }

/-- Samples of a channel carry SUS from the boundary until 1,000 µs, also those that become ready later (Table CAL-3, R71,
09 R190). -/
def State.calSus (s : State) (i t : Nat) : Bool :=
  (match s.cal.afe with
   | some a => a.ch = i && a.stage ≠ 0 && decide (a.start ≤ t ∧ t < a.start + s.afeTime i 6)
   | none => false) || s.cal.susSpans.any fun x => x.1 = i && decide (x.2.1 ≤ t ∧ t < x.2.2)

/-- A channel flags OVR at an instant: an attempt in its group of four notes it between 0 and 2,000 µs (R72). -/
def State.noteOvr (s : State) (i t : Nat) : State :=
  let noted (a : AfeCal) : AfeCal :=
    if sameFour a.ch i && decide (a.stage ≠ 0) && decide (a.start ≤ t ∧ t ≤ a.start + s.afeTime a.ch 7) then
      { a with ovr := true } else a
  s.onCal fun c => { c with afe := c.afe.map noted }

/-- The new code: the old one moved against the mean error, by the step of the trim (Table CAL-1; log 54). -/
def afeCode (old : Int) (m : Int × Int) (step : Nat) : Int := old - roundDiv (m.1 + m.2) (2 * step)

/-- AFE_CAL_STEP: measurements A and B of the zero and then of the gain, in 0.1 ppm; a pair that does not agree is
repeated up to three times, and CAL_UNSTABLE breaks the row of NOT_QUIET attempts (R70 to R72, Table CAL-2). DESIGN CHOICE
(log 182): a repeated pair takes no time of Table CAL-3, whose later times and end of SUS stay where they are. -/
def execAfeCalStep (a b : Int) (s : State) : Out :=
  .next (
    match s.cal.afe with
    | none => s
    | some x =>
      let since := s.now - x.start
      let tol := if x.stage = 1 then 20 else 100
      if (x.stage = 1 ∧ s.afeTime x.ch 3 ≤ since) ∨ (x.stage = 2 ∧ s.afeTime x.ch 5 ≤ since) then
        if (a - b).natAbs ≤ tol then
          s.onCal fun c => { c with afe := some (if x.stage = 1 then { x with stage := 2, offs := some (a, b), tries := 0 }
            else { x with stage := 3, gain := some (a, b), tries := 0 }) }
        else if x.tries < 3 then s.onCal fun c => { c with afe := some { x with tries := x.tries + 1 } }
        else
          let s := (s.endAfe).onCal fun c => c.afeServed x.ch
          ((s.setReg (afeReg x.ch 3) 2).setReg (afeReg x.ch 10) 0).calUnstable (unitAfe x.ch)
      else s)

/-- AFE_CAL_END: the post-check over 1,000 µs to 2,000 µs: passed, or the attempt ends NOT_QUIET (R71, R72). -/
def execAfeCalEnd (offRes gainRes : Int) (s : State) : Out :=
  .next (
    match s.cal.afe with
    | none => s
    | some x =>
      if x.stage ≠ 3 ∨ x.passed.isSome ∨ s.now < x.start + s.afeTime x.ch 7 then s
      else
        let (q, s) := s.readQuiet x.ch (x.start + s.afeTime x.ch 6) (x.start + s.afeTime x.ch 7)
        if s.inForce (afeReg x.ch 6) ≤ q || x.ovr then (s.endAfe).notQuiet x.ch
        else s.onCal fun c => { c with afe := some { x with passed := some (offRes, gainRes) } })

/-- The trims of an attempt that passed go into the ramp at the boundary, for the PGA setting it measured (R71, R74, R79). -/
def State.acceptAfe (s : State) (x : AfeCal) (offRes gainRes : Int) : State :=
  let s := s.endAfe
  match x.offs, x.gain with
  | some o, some g =>
    let u := unitAfe x.ch
    let kg := trimKey u (2 * x.pga)
    let ko := trimKey u (2 * x.pga + 1)
    let ng := afeCode (trimGet s.cal.applied kg) g 50
    let no := afeCode (trimGet s.cal.applied ko) o 5
    let lim := trimClamped kg ng || trimClamped ko no
    let cg := clampI (-2048) 2047 ng
    let co := clampI (-2048) 2047 no
    let s := s.onCal fun c => (Cal.putSet
      { c with calibrated := trimSet (trimSet c.calibrated kg cg) ko co, afeSince := setBit c.afeSince x.ch,
               quietRaised := c.quietRaised &&& (0xFFFF ^^^ (1 <<< x.ch)),
               afeLast := (x.ch, s.rtc, s.sensorAt (afeSensor x.ch)) :: c.afeLast.filter fun e => e.1 ≠ x.ch } u
      (((mget [] c.vault u).filter fun e => e.1 ≠ 2 * x.pga ∧ e.1 ≠ 2 * x.pga + 1) ++
        [(2 * x.pga, cg), (2 * x.pga + 1, co)])).afeServed x.ch
    let s := (s.setTarget kg cg).setTarget ko co
    let s := (s.setReg (afeReg x.ch 3) (if lim then 3 else 0)).setReg (afeReg x.ch 9) stOk
    ((s.setReg (afeReg x.ch 10) 0).setReg (afeReg x.ch 4) (unsignedOf 16 (clampI (-32768) 32767 offRes))).setReg
      (afeReg x.ch 5) (unsignedOf 16 (clampI (-32768) 32767 gainRes))
  | _, _ => s

/-- At the boundary, under the PGA settings that it brings: an attempt that passed takes effect, a staged one starts (its input
switches to the zero source), and a running one is aborted by a PGA change or by T3 (R71, R74, 03 Edges). -/
def State.afeBoundary (s : State) : State :=
  match s.cal.afe with
  | none => s
  | some a =>
    match a.passed with
    | some r => s.acceptAfe a r.1 r.2
    | none =>
      if s.tier = 3 ∨ s.husk.power = .hold then (s.endAfe).setReg (afeReg a.ch 9) stAborted
      else if a.stage = 0 then
        s.onCal fun c => { c with afe := some { a with start := s.now, stage := 1, pga := s.pga a.ch } }
      else if s.pga a.ch ≠ a.pga then (s.endAfe).setReg (afeReg a.ch 9) stAborted
      else s

/-! References, oscillators, compensation (R75, R76) -/

/-- The limited sum of calibrated code and compensation component becomes the target (R76). -/
def State.compTarget (s : State) (unit : Nat) : State :=
  let k := trimKey unit 0
  s.setTarget k (trimGet s.cal.calibrated k + mget 0 s.cal.comp unit)

/-- The first pair, of a measurement and at most three repeats, whose values agree within a tolerance; none yet with fewer
than four pairs (R70). -/
inductive Agreed where
  | pair (a b : Int)
  | unstable
  | notYet
  deriving DecidableEq, Repr

def agreed (tol : Nat) (pairs : List (Int × Int)) : Agreed :=
  match (pairs.take 4).find? fun x => decide ((x.1 - x.2).natAbs ≤ tol) with
  | some x => .pair x.1 x.2
  | none => if 4 ≤ pairs.length then .unstable else .notYet

/-- A reference or oscillator measured with mean error m: the code that takes it away from the applied one, less the
compensation, becomes its calibrated code and its vault set (R75, R76, Table CAL-1; log 148). -/
def State.recalibrate (s : State) (unit : Nat) (a b : Int) (step : Nat) : State :=
  let k := trimKey unit 0
  let v := clampI (trimRange k).1 (trimRange k).2 (trimGet s.cal.applied k - roundDiv (a + b) (2 * step) - mget 0 s.cal.comp unit)
  (s.onCal fun c => Cal.putSet { c with calibrated := trimSet c.calibrated k v } unit [(0, v)]).compTarget unit

/-- A measurement of a reference or oscillator: an agreeing pair sets its code and its published error (R70, R75, R79). -/
def State.measured (s : State) (unit key tol step : Nat) (pairs : List (Int × Int)) : State :=
  match agreed tol pairs with
  | .pair a b => (s.recalibrate unit a b step).setReg key (unsignedOf 32 (Int.fdiv (a + b) 2))
  | .unstable => s.calUnstable unit
  | .notYet => s

/-- A row of pairs settles a measurement: one of them agrees, or the measurement and its three repeats do not; fewer that
disagree leave it due (R70). -/
def settles (tol : Nat) (pairs : List (Int × Int)) : Bool := agreed tol pairs ≠ .notYet

/-- A reference is due: not measured since the sprout, or 3,600 s ago (R75). -/
def State.refDue (s : State) (u : Nat) : Bool :=
  match s.cal.refAt.find? (·.1 = u) with
  | some (_, t) => decide (t + 3600 * second ≤ s.now)
  | none => true

/-- REFERENCE_MEASURE: a due pod or AFE reference is measured against the bandgap; pairs of its deviation from the factory
ratio in µV (R75). -/
def execReferenceMeasure (u : Nat) (pairs : List (Int × Int)) (s : State) : Out :=
  .next (if s.husk.power = .off ∨ s.husk.power = .safe ∨ s.husk.power = .sprout ∨ s.refDue u = false ∨ !settles 100 pairs then s
    else (s.onCal fun c => { c with refAt := mins c.refAt u s.now }).measured (refUnit u) (okey (0x2480 + u) 2) 100 50 pairs)

/-- CTRL is powered: its rail is up (R75, 21 R427). -/
def State.ctrlOn (s : State) : Bool := s.husk.supply && s.husk.rails.getD 0 false

/-- OSCILLATOR_TRIM: every 1 s while CTRL is powered the husk oscillator is counted against the crystal and trimmed; pairs of
its error in 0.01 ppm (R75). -/
def execOscillatorTrim (pairs : List (Int × Int)) (s : State) : Out :=
  .next (if !s.ctrlOn ∨ s.husk.xtalStopped ∨ !settles 400 pairs ∨ (s.cal.oscAt.any fun t => decide (s.now < t + second)) then s
    else (s.onCal fun c => { c with oscAt := some s.now }).measured (oscUnit 0) 0x249002 400 200 pairs)

/-- A polynomial at a sensor reading, scaled by 400³ × 1,000: c0 + c1·x + c2·x² + c3·x³ with x = (T − 25 °C) / 100 °C. -/
def polyAt (c : Int × Int × Int × Int) (reading : Int) : Int :=
  let d := reading - 100
  c.1 * 64000000 + c.2.1 * d * 160000 + c.2.2.1 * d * d * 400 + c.2.2.2 * d * d * d

/-- COMPENSATION_EVAL: a component that differs by more than 0.6 codes moves to the rounded polynomial (R76). -/
def execCompensationEval (s : State) : Out :=
  .next (
    if !s.active || s.frame.number % (max 1 (s.inForce 0x310004)) ≠ 0 then s
    else s.cal.poly.foldl (fun s x =>
      let p := polyAt x.2.1 (s.sensorAt x.2.2)
      let cur := mget 0 s.cal.comp x.1
      if 600 * 64000000 < (p - cur * 1000 * 64000000).natAbs then
        (s.onCal fun c => { c with comp := mset 0 c.comp x.1 (roundDiv p (1000 * 64000000)) }).compTarget x.1
      else s) s)

/-! Restores (R80, R81) -/

/-- Number of code bytes of a unit's trim bank (Table CAL-5). -/
def bankBytes (unit : Nat) : Nat := if unit / 4096 = 2 then 298 else if unit % 4096 < 8 then 20 else 4

/-- The codes of a trim bank: index and code. -/
def bankCodes (unit : Nat) (d : List Byte) : List (Nat × Int) :=
  if unit / 4096 = 2 then
    ((List.range 132).map fun i => (i, (field d (28 + i) 1 : Int))) ++
      (List.range 132).map fun i => (132 + i, signedOf 8 (field d (160 + i) 1))
  else (List.range (bankBytes unit / 2)).map fun i => (i, signedOf 16 (field d (28 + 2 * i) 2))

/-- The entry whose value a unit's trim bank is. -/
def bankIndex (unit : Nat) : Nat := if unit / 4096 = 2 then 0x3110 + unit % 4096 else 0x2A00 + unit % 4096

/-- The checks of R81, in order. -/
def State.restoreStatus (s : State) (unit : Nat) (d : List Byte) : Nat :=
  if d.length ≠ 28 + bankBytes unit ∨ field d 2 1 ≠ 1 ∨ field d 18 2 ≠ bankBytes unit then stBadType
  else if crc32 (d.take 24 ++ d.drop 28) ≠ field d 24 4 then stIntegrity
  else if field d 0 2 ≠ unit ∨ field d 4 4 ≠ s.reg 0x200003 % 4294967296 then stDenied
  else if unit / 4096 = 2 ∧ field d 8 8 ≠ s.reg (podReg (unit % 4096) 4) then stStale
  else if (bankCodes unit d).any fun x => trimClamped (trimKey unit x.1) x.2 then stRange
  else if unit / 4096 = 2 ∧ (s.reg (podReg (unit % 4096) 3) = 2 ∨ (s.pod (unit % 4096)).calLeft ≠ 0 ∨
      s.cal.verifyNext.any fun v => v.1 = unit % 4096) ∨
      unit / 4096 = 5 ∧ (s.cal.afe.any fun a => a.ch = unit % 4096) then stBusy
  else stOk

/-- An accepted restore sets the targets; a spare takes its trims at once (R81). DESIGN CHOICE (log 149): the drift reference
codes and ρ of a pod's bank become the pod's, and the drift term is that of this ρ, without the test of 0.6 codes; a ρ of 0,
which no ratio is, leaves the drift term. -/
def State.restoreBank (s : State) (unit : Nat) (d : List Byte) : State :=
  let trims := (bankCodes unit d).map fun x => (trimKey unit x.1, x.2)
  let s := s.onCal fun c => { c with calibrated := trims.foldl (fun m x => trimSet m x.1 x.2) c.calibrated,
                                     baseLimit := c.baseLimit.filter fun k => k / 4096 ≠ unit }
  if unit / 4096 = 2 then
    let pod := unit % 4096
    let rho := field d (28 + 294) 4
    let s := (s.onPod pod fun p => { p with refs := (List.range 15).map fun i => field d (292 + 2 * i) 2 }).setReg
      (calReg pod 7) rho
    let s := if rho = 0 then s else s.onCal fun c => { c with drift := mset 0 c.drift pod (driftTerm rho) }
    let s := if s.reg (podReg pod 1) = 1 then
        s.onCal fun c => { c with atOnce := c.atOnce ++ trims.map fun x =>
          (x.1, if x.1 % 4096 < 132 then clampI 0 63 (s.gainCode pod (x.1 % 4096)) else x.2) }
      else s.podTargets pod
    s.limitCheck pod
  else trims.foldl (fun s x => s.setTarget x.1 x.2) s

/-- TRIM_RESTORE: a write of a unit's trim bank (R81). -/
def State.trimRestoreOrder (s : State) (r : Req) (unit : Nat) (data : List Byte) : State :=
  s.orderBytes r (bankIndex unit) 1 data.length (s.restoreStatus unit data) fun s => s.restoreBank unit data

def execTrimRestore (r : Req) (unit : Nat) (data : List Byte) (s : State) : Out := .next (s.trimRestoreOrder r unit data)

/-- At sprout 64 drift reads of an active pod set its drift term, and its gains apply at once (R80). -/
def State.sproutDrift (s : State) (pod : Nat) : State :=
  let s := s.driftReads pod 64
  let rho := driftRho (s.pod pod)
  let s := s.onPod pod fun p => { p with visits := 0, driftAcc := [] }
  match rho with
  | none => s
  | some rho =>
    let s := ((s.onCal fun c => { c with drift := mset 0 c.drift pod (driftTerm rho) }).setReg (calReg pod 7) rho).podTargets pod
    (s.onCal fun c => { c with applied := (List.range 132).foldl (fun m g =>
      trimSet m (trimKey (unitPod pod) g) (trimGet c.target (trimKey (unitPod pod) g))) c.applied }).limitCheck pod

/-- The drift reference of a pod's set in the vault. -/
def vaultRefs (set_ : List (Nat × Int)) : List Nat := (set_.filter fun x => decide (264 ≤ x.1)).map fun x => x.2.toNat

/-- Sprout loads each unit's calibrated set from the vault, the baseline's codes where there is none, at once and without
a ramp; 64 drift reads set each drift term (R80). -/
def State.loadTrims (s : State) : State :=
  let sets := s.cal.vault.flatMap fun u => (u.2.filter fun x => decide (x.1 < 264)).map fun x => (trimKey u.1 x.1, x.2)
  let codes := sets.foldl (fun m x => trimSet m x.1 x.2) []
  let s := s.onCal fun c =>
    { c with calibrated := codes, target := codes, applied := codes, comp := [], drift := [], moves := [], atOnce := [],
             afe := none, afeDue := 0, afeAsked := 0, afeSince := 0, susSpans := [], quietRaised := 0, verifyNext := none,
             podDue := [], limited := [], baseLimit := [],
             quality := (List.range 40).foldl (fun m i =>
               mset 4 m i (if (mget [] c.vault (unitPod i)).isEmpty then 4 else 0)) [], refAt := [], oscAt := none }
  let s := (List.range 16).foldl (fun (s : State) i =>
    s.setReg (afeReg i 3) (if s.cal.vault.any fun u => u.1 = unitAfe i then 0 else 4)) s
  (List.range 40).foldl (fun (s : State) i =>
    let s := (s.onPod i fun p =>
      { p with visits := 0, driftAcc := [],
               refs := let set_ := mget [] s.cal.vault (unitPod i)
                 if set_.isEmpty then factoryRefs else vaultRefs set_ }).showQuality i
    if s.reg (podReg i 1) = 0 then s.sproutDrift i else s) s

end Sys2Proof.Machine
end

