-- ==== Sys2Proof/Machine/Rotation.lean ====
section
/-! DEFINITION. Rotation (02 R51 to R61): programming, spares, swaps, update groups; lifts, the shadow and set-downs of
in-place images (07 R150 to R155). -/

namespace Sys2Proof.Machine

open Sys2Proof

/-! Spares -/

/-- Rotation state of a cluster (0x3010 + c:03); an interval of 0 reads as OFF (log 55). Gate mode OFF makes it OFF (R59).
DESIGN CHOICE (log 176): where several other states hold at once the order is STOPPED_NO_SPARE, OFF by gate mode, STOPPED_WORN,
OFF by an interval of 0, SUSPENDED_FAULT, PAUSED_TIER; the spec names no precedence. -/
def State.rotState (s : State) (c : Nat) : Nat :=
  match s.spare c with
  | none => 2
  | some sp =>
    if s.inForce (cluReg c 6) = 1 then 4
    else if s.reg (podReg sp 3) = 6 then 3
    else if s.inForce 0x300100 = 0 then 4
    else if (s.clu c).suspended then 5
    else if s.tier = 3 then 1 else 0

/-- The next target slot of a cluster: ascending from the last one, slots served by WORN pods skipped (R55). -/
def State.nextTarget (s : State) (c : Nat) : Option Nat :=
  ((List.range 4).map fun i => ((s.clu c).next + i) % 4).find? fun sl =>
    decide (s.reg (podReg (s.slotPod c sl) 5) < 10000)

/-- The slot that a retiring pod of a cluster serves (R58). -/
def State.retiringSlot (s : State) (c : Nat) : Option Nat :=
  (List.range 4).find? fun sl => (s.pod (s.slotPod c sl)).retired

/-- A spare that may be programmed now: its cluster has one, it is neither WORN nor staged for a swap, and its gate is not OFF
(R51, R53, R59). -/
def State.programmable (s : State) (c : Nat) : Option Nat :=
  match s.spare c with
  | some sp =>
    if s.reg (podReg sp 3) = 6 ∨ s.reg (podReg sp 3) = 4 ∨ (s.clu c).staged.isSome ∨ s.inForce (cluReg c 6) = 1 then none
    else some sp
  | none => none

/-- A pod is the source of a lift or set-down check that the present KEEP carries: it issues no MVM then and takes no drift read
(07 R152, R154). -/
def State.liftSource (s : State) (pod : Nat) : Bool :=
  s.frame.phase = .keep && (s.clu (pod / 5)).liftKeep.any fun x =>
    x.1 = s.frame.number && x.2.any fun sl => s.slotPod (pod / 5) sl = pod

/-- A program that stops before its end leaves the pod DIRTY, and nothing is being programmed (R57, R58). -/
def State.stopProgram (s : State) : State :=
  let pod := s.reg 0x300300
  if pod < 40 then ((s.onPod pod fun p => { p with batches := 0, fails := 0, hash := 0 }).spareState pod 5).setReg 0x300300 0xFF else s

/-- Begin programming a pod with a slot's content; whatever ran on it is abandoned, no verify of this program has failed, and its
gate is on (R51, R52, R57, R59). -/
def State.beginProgram (s : State) (pod slot : Nat) (fresh : Bool) (hash : Nat) : State :=
  ((((s.onPod pod fun p =>
    { p with mirror := slot, fresh := fresh, target := hash, batches := 0, calLeft := 0,
             fails := 0 }).spareState pod 1).powerSpare pod).setReg 0x300300 pod)

/-- Interval in force, ns. -/
def State.rotInterval (s : State) : Nat := s.inForce 0x300100 * second

/-- An update group or a load takes a cluster's spare: a refresh or calibration that runs on it is abandoned, and the spare is
DIRTY (R57). -/
def State.claimSpare (s : State) (c : Nat) : State :=
  match s.spare c with
  | some sp =>
    let st := s.reg (podReg sp 3)
    if s.reg 0x300300 = sp then s.stopProgram
    else if st = 2 then
      ((s.onPod sp fun p => { p with calLeft := 0, hash := 0 }).onCal fun k =>
        { k with verifyNext := k.verifyNext.filter fun v => v.1 ≠ sp,
                 atOnce := k.atOnce.filter fun x => x.1 / 4096 ≠ unitPod sp }).spareState sp 5
    else s
  | none => s

/-- The hash of what the plan in force places on a slot. -/
def State.hashOf (s : State) (c sl : Nat) : Nat :=
  match s.loader.plan with
  | some p => slotHash p c sl
  | none => 0

/-- The replacement that a cluster needs programmed: spare, slot and hash. None while the spare already holds or takes the
retiring pod's content, or while the cluster's rotation is suspended (R52, R58, log 135). -/
def State.replacement (s : State) (c : Nat) : Option (Nat × Nat × Nat) :=
  match s.retiringSlot c, s.programmable c with
  | some sl, some sp =>
    let st := s.reg (podReg sp 3)
    let holds := !(s.pod sp).fresh && (s.pod sp).mirror = sl && (st = 1 || st = 2 || st = 3)
    if ((s.clu c).suspended ∧ (s.clu c).dueAt.isSome) ∨ holds = true then none else some (sp, sl, s.hashOf c sl)
  | _, _ => none

/-- The refreshes that wait, by the due time of their cluster's swap (R55); they rest while rotation does not run, while the
outgoing pod's test or a set-down check comes first (20 R401, 07 R154). -/
def State.refreshes (s : State) : List (Nat × Nat × Nat × Nat) :=
  sortBy (·.1) ((List.range 8).filterMap fun c =>
    match s.programmable c, s.nextTarget c with
    | some sp, some sl =>
      if s.rotState c = 0 && !s.clusterFree c && !(s.pod sp).testFirst && (s.clu c).setDown.isEmpty && !s.liftKeep c &&
          (s.reg (podReg sp 3) = 0 || s.reg (podReg sp 3) = 5) then
        some ((s.clu c).dueAt.getD 0, sp, sl, s.hashOf c sl)
      else none
    | _, _ => none)

/-- The pod being programmed takes the place of a retiring pod (R58). -/
def State.replacing (s : State) : Bool :=
  let pod := s.reg 0x300300
  decide (pod < 40) && !(s.pod pod).fresh && s.retiringSlot (pod / 5) = some (s.pod pod).mirror

/-- The next programming work, in the order of R58: replacements, which stop another pod's program but not another replacement,
then the update group and BULK pods, then refreshes. A BULK pod whose count has reached 10,000 is never programmed (R53). -/
def State.pickProgram (s : State) : State :=
  match if s.replacing then none else (List.range 8).findSome? s.replacement with
  | some (sp, sl, h) => s.stopProgram.beginProgram sp sl false h
  | none =>
    if s.reg 0x300300 ≠ 0xFF ∨ (List.range 40).any fun i => (s.pod i).calLeft ≠ 0 then s
    else
      match (s.loader.group.map (·.members)).getD [] |>.findSome? fun m =>
          match s.programmable m.1 with
          | some sp => if (s.pod sp).fresh && s.reg (podReg sp 3) = 3 then none else some (sp, m.2.1, m.2.2)
          | none => none with
      | some (sp, sl, h) => s.beginProgram sp sl true h
      | none =>
        match (s.loader.pending.map (·.bulk)).getD [] |>.find? fun b => decide (s.reg (podReg b.1 5) < 10000) with
        | some (pod, h) => s.beginProgram pod (s.reg (podReg pod 2)) true h
        | none =>
          match s.refreshes.head? with
          | some (_, sp, sl, h) => s.beginProgram sp sl false h
          | none => s

/-- What programming writes into a pod (R48 to R51). -/
def State.contentOf (s : State) (pod : Nat) : Option PlanImage :=
  if (s.pod pod).fresh then s.nextPlan else s.loader.plan

/-- The pod's programmed cells, digital segment, ranges and recorded hash after a program. -/
def State.writeContent (s : State) (pod : Nat) : State :=
  let sl := (s.pod pod).mirror
  match s.contentOf pod with
  | some p => s.onPod pod fun x =>
      { x with cells := slotCells p (pod / 5) sl, digital := slotDigital p (pod / 5) sl,
               ranges := slotRanges p (pod / 5) sl, hash := x.target }
  | none => s

/-- Rotation in a cluster is suspended until its next rotation interval elapses: at its next due time, which is one
interval from now when the last one has passed already (R52, log 135). -/
def State.suspendRotation (s : State) (c : Nat) : State :=
  s.onClu c fun x => { x with
    suspended := true
    dueAt := x.dueAt.map fun t => if t ≤ s.now then s.now + s.rotInterval else t }

/-- A spare whose gate mode is OFF: it stays gated, and nothing programs or calibrates it (R59). -/
def State.gateOff (s : State) (pod : Nat) : Bool := s.reg (podReg pod 1) = 1 && s.inForce (cluReg (pod / 5) 6) = 1

/-- Programming pulses may have run: BULK in a cluster without loaded work, else within KEEP's slice, which has begun; never in
T3, outside RUN and DOZE, in a gated cluster or on a spare that gate mode OFF gates (R29, R51, R59). -/
def State.programRuns (s : State) (pod : Nat) : Bool :=
  s.active && decide (s.tier ≠ 3) && (s.husk.power = .run || s.husk.power = .doze) &&
    s.reg (okey (0x2420 + pod / 5) 2) = 1 && !s.gateOff pod &&
    (s.clusterFree (pod / 5) ||
      (s.frame.phase = .keep && s.frame.tasksDone.testBit 1 && !s.liftKeep (pod / 5) &&
        decide (s.now ≤ s.frame.start + s.keepStart + 2000 + s.inForce 0x300200 * 1000)))

/-- The verify of a pod's last batch passes: it holds its content and is calibrated (R51, R66). -/
def State.programPassed (s : State) (pod : Nat) : State :=
  let s := s.setReg (podReg pod 4) s.rtc
  ((s.writeContent pod).onPod pod fun p => { p with batches := 17, fails := 0, verifiedAt := s.unsetClock }).beginCal pod

/-- A verify fails: DIRTY and programmed anew from the first batch; the second failure in a row raises a record, suspends
rotation and ends a group that counted on the spare (R52, R57). -/
def State.programFailed (s : State) (pod batch : Nat) : State :=
  let s := (s.onPod pod fun p => { p with fails := p.fails + 1, batches := 0, hash := 0 }).spareState pod 5
  if (s.pod pod).fails < 2 then (s.setReg 0x300300 pod).spareState pod 1
  else
    let s := (s.fault clsAnalog 1 (unitPod pod) noParty batch).onPod pod fun p => { p with fails := 0 }
    let s := s.suspendRotation (pod / 5)
    if (s.pod pod).fresh then s.groupLoses (pod / 5) else s

/-- PROGRAM_COMPLETE: the next batch in order verifies, its last batch ends the program, or a verify fails; each end counts a
cycle, and the 10,000th makes the pod WORN (R51 to R53). -/
def execProgramComplete (pass : Bool) (compensated : Nat) (s : State) : Out :=
  .next (
    let pod := s.reg 0x300300
    let batch := (s.pod pod).batches
    if pod ≥ 40 ∨ s.programRuns pod = false then s
    else if pass ∧ batch < 16 then s.onPod pod fun p => { p with batches := batch + 1 }
    else
      let n := min 65535 (s.reg (podReg pod 5) + 1)
      let s := (s.setReg (podReg pod 5) n).setReg (podReg pod 6) (compensated % 65536)
      let s := s.setReg 0x300300 0xFF
      let s := if pass then s.programPassed pod else s.programFailed pod batch
      if n = 10000 then
        let s := (s.fault clsAnalog 2 (unitPod pod) noParty n).onPod pod fun p => { p with calLeft := 0 }
        let s := (s.setReg 0x300300 0xFF).spareState pod 6
        s.groupLoses (pod / 5)
      else s)

/-! Swap due times (R55) -/

/-- Due times as after sprout: c + 1 eighths of the interval from now. -/
def State.startDues (s : State) : State :=
  { s with clusters := (s.clusters.zipIdx).map fun x =>
      { x.1 with dueAt := if s.rotInterval = 0 then none else some (s.now + (x.2 + 1) * s.rotInterval / 8), due := false } }

/-- A changed interval takes effect at the boundary (R55). A cluster without a swap since sprout counts as after sprout
(log 56). -/
def State.intervalChange (s : State) (old : Nat) : State :=
  let new := s.inForce 0x300100
  if old = new then s
  else if new = 0 then
    { s with clusters := s.clusters.map fun x => { x with dueAt := none, due := false } }
  else if old = 0 then s.startDues
  else
    { s with clusters := (s.clusters.zipIdx).map fun x =>
        { x.1 with due := false, dueAt := some (match x.1.prevSwap with
          | some t => max s.now (t + s.rotInterval)
          | none => s.now + (x.2 + 1) * s.rotInterval / 8) } }

/-- SWAP_DUE: a cluster's due time is reached; a suspension of R52 ends with the interval. -/
def execSwapDue (c : Nat) (s : State) : Out :=
  .next (match (s.clu c).dueAt with
    | some t => if s.frame.running && decide (t ≤ s.now) then s.onClu c fun x => { x with due := true, suspended := false }
                else s
    | none => s)

/-- ROTATION_INTERVAL_WRITE (R55, 0x3001): the due times follow at the boundary. -/
def execRotationIntervalWrite (r : Req) (v : Nat) (s : State) : Out := .next (s.setting r 0x3001 0 v stOk)

/-- ROTATE_NOW: the next KEEP stages a swap if R56 allows it; the interval restarts (0x3010 + c:04). -/
def State.rotateNowOrder (s : State) (r : Req) (c v : Nat) : State :=
  s.ordered r (0x3010 + c) 4 v stOk fun s => s.onClu c fun x =>
    { x with now := true, dueAt := if s.rotInterval = 0 then none else some (s.now + s.rotInterval) }

def execRotateNow (r : Req) (c v : Nat) (s : State) : Out := .next (s.rotateNowOrder r c v)

/-! Swaps (R56 to R58) -/

/-- Footprint bytes of an in-place image. -/
def footprint (d : DrainPip) : Nat := d.blocks * 512

/-- Footprint of the in-place images of a slot; 0 without one. -/
def State.footprintAt (s : State) (c sl : Nat) : Nat := ((s.inPlaceAt c sl).map fun x => footprint x.2).foldl (· + ·) 0

/-- The digital rows of a slot's in-place images. -/
def State.imageRows (s : State) (c sl : Nat) : List Nat := (s.inPlaceAt c sl).flatMap fun x => blockRows x.2.block x.2.blocks

/-- Free space of a cluster's shadow, bytes (R152, 0x3340:03). -/
def State.shadowFree (s : State) (c : Nat) : Nat := 8192 - s.reg (okey (0x3340 + c) 3)

/-- The in-place images of a slot do not bar its swap at the next tick: none there, lifted, without a source already, or
deferred, where they do not fit the shadow's free space, to a frame without a trigger of any of them (R56, R153). The second
value says that the swap leaves them without source. -/
def State.pipAllows (s : State) (c slot : Nat) : Bool × Bool :=
  let l := s.inPlaceAt c slot
  if l.isEmpty || (s.clu c).shadow.contains slot || (s.clu c).noSource.contains slot then (true, false)
  else if s.shadowFree c < s.footprintAt c slot then
    (l.all fun x => decide ((s.frame.number + 1) % max 1 x.2.d ≠ x.2.phase), true)
  else (false, false)

/-- The slot whose swap a cluster wants outside a group: the replacement of a retiring pod, or a due or ordered swap. -/
def State.wantsSwap (s : State) (c : Nat) : Option Nat :=
  match s.spare c with
  | none => none
  | some sp =>
    let p := s.pod sp
    if s.reg (podReg sp 3) ≠ 3 ∨ p.fresh ∨ s.tier = 3 ∨ s.inForce (cluReg c 6) = 1 ∨ (s.clu c).staged.isSome then none
    else if s.retiringSlot c = some p.mirror then some p.mirror
    else if (s.retiringSlot c).isNone && ((s.clu c).due || (s.clu c).now) then some p.mirror
    else none

/-- Stage a cluster's swap. -/
def State.stageSwap (s : State) (c slot : Nat) : State :=
  match s.spare c with
  | none => s
  | some sp =>
    let d := (s.pipAllows c slot).2
    let s := (s.setReg (podReg sp 3) 4).onClu c fun x =>
      { x with staged := some slot, noSource := if d then sins x.noSource slot else x.noSource }
    if d then s.countImages c slot (okey (0x3340 + c) 5) else s

/-- Every member of the update group has its new version VERIFIED, and the load that formed it has no pod left to program
(R57, 08 R171). -/
def State.groupVerified (s : State) (g : Group) : Bool :=
  (s.loader.pending.all fun x => x.bulk.isEmpty) && g.members.all fun m =>
    match s.spare m.1 with
    | some sp => (s.pod sp).fresh && s.reg (podReg sp 3) = 3
    | none => false

/-- The group's swaps can be staged: not in T3, and no in-place image bars one (R56, R57). -/
def State.groupReady (s : State) (g : Group) : Bool :=
  decide (s.tier ≠ 3) && s.groupVerified g && g.members.all fun m => (s.pipAllows m.1 m.2.1).1

/-- KEEP evaluates swaps: the group's together, then each cluster's own (R56, R57). -/
def State.stageSwaps (s : State) : State :=
  let s := match s.loader.group with
    | some g =>
      if s.groupReady g && g.members.all fun m => (s.clu m.1).staged.isNone then
        g.members.foldl (fun s m => s.stageSwap m.1 m.2.1) s
      else s
    | none => s
  (List.range 8).foldl (fun s c =>
    match s.wantsSwap c with
    | some sl => if (s.pipAllows c sl).1 then s.stageSwap c sl else s
    | none => s) s

/-- Byte `slot` of a slot map set to position k. -/
def mapSet (m slot k : Nat) : Nat := m - (m / 256 ^ slot % 256) * 256 ^ slot + k * 256 ^ slot

/-- A staged swap takes effect (R56, R58): the spare serves the slot and the outgoing pod becomes the spare, DIRTY, or
leaves service if it was retiring. A replacement that is no swap of the update group leaves the cluster without a spare, and
ends a group with a member there (R57). -/
def State.doSwap (s : State) (c slot : Nat) : State :=
  match s.spare c with
  | none => s.onClu c fun x => { x with staged := none }
  | some sp =>
    let old := s.slotPod c slot
    let gone := (s.pod old).retired
    let inPlace := !(s.inPlaceAt c slot).isEmpty
    let fresh := (s.pod sp).fresh
    let s := s.setReg (cluReg c 1) (mapSet (s.reg (cluReg c 1)) slot (sp % 5))
    let s := (s.setReg (cluReg c 2) (if gone then 0xFF else old % 5)).bump (cluReg c 5)
    let s := ((s.setReg (podReg sp 1) 0).setReg (podReg sp 2) slot).setReg (podReg sp 3) 0xFF
    let s := ((s.setReg (podReg old 1) (if gone then 2 else 1)).setReg (podReg old 2) 0xFF).setReg (podReg old 3)
      (if gone then 0xFF else if 10000 ≤ s.reg (podReg old 5) then 6 else 5)
    let s := (s.onPod sp fun p => { p with fresh := false, mirror := 0xFF }).onPod old fun p =>
      { p with mirror := 0xFF, fresh := false, downUntilSwap := false,
               testFirst := !gone && s.test.due.any fun (u : Nat × Nat) => u.1 = unitPod old,
               visits := 0, driftAcc := [] }
    let s := s.stopRamps (unitPod old)
    let s := if gone && !fresh then s.groupLoses c else s
    s.onClu c fun x =>
      { x with staged := none, due := false, now := false, prevSwap := some s.now,
               dueAt := if s.rotInterval = 0 then none else some (s.now + s.rotInterval), next := (slot + 1) % 4,
               setDown := if inPlace then sins x.setDown slot else x.setDown }

/-- At a tick every staged swap takes effect, and the pod epoch advances once (R56). -/
def State.doSwaps (s : State) : State :=
  if s.clusters.any fun x => x.staged.isSome then
    let s := (List.range 8).foldl (fun s c =>
      match (s.clu c).staged with
      | some sl => s.doSwap c sl
      | none => s) s
    s.bump 0x300000
  else s

/-- Every member of the group has the swap of its new version staged: the group takes effect at this tick. -/
def State.groupStaged (s : State) : Bool :=
  match s.loader.group with
  | some g => !g.members.isEmpty && g.members.all fun m =>
      (s.clu m.1).staged = some m.2.1 && (s.spare m.1).any fun sp => (s.pod sp).fresh
  | none => false

/-- A test uses a spare: a slice-based one of its own, or a test of its cluster (R59). -/
def State.spareTested (s : State) (sp : Nat) : Bool :=
  (s.test.slice.any fun x => x.1 = unitPod sp) || s.test.cluster.any fun x => x.cluster = sp / 5

/-- The spare's gate at a boundary (R59): powered while it is programmed, calibrated or tested, under FULL ballast, or
while it may duplicate; winnow powers it in the KEEP of its vector. Gate mode OFF gates it. DESIGN CHOICE (log 177): a program
or calibration that runs on the spare when OFF takes effect is abandoned, and the spare is DIRTY. -/
def State.spareGate (s : State) (c : Nat) : State :=
  let s := if s.inForce (cluReg c 6) = 1 then s.claimSpare c else s
  match s.spare c with
  | none => s
  | some sp =>
    let busy := s.reg (podReg sp 3) = 1 ∨ s.reg (podReg sp 3) = 2
    let dup := s.reg 0x400005 ≠ 0 ∧ s.tier ≤ 1 ∧ s.reg (podReg sp 3) = 3 ∧ (s.pod sp).fresh = false
    let on := s.inForce (cluReg c 6) = 0 ∧ s.reg (okey (0x2420 + c) 2) = 1 ∧ (busy ∨ s.spareTested sp ∨ s.ballast = 2 ∨ dup)
    (s.setReg (podReg sp 11) (if on then 1 else 0)).setReg (cluReg c 7) (s.inForce (cluReg c 6))

/-! KEEP's task 2: drift reads (R68) -/

/-- Active pods in ascending number. -/
def State.activePods (s : State) : List Nat := (List.range 40).filter fun i => s.reg (podReg i 1) = 0

/-- Four drift reads on the next active pod, unless it is the source of a lift or set-down check or its cluster is gated (R68,
07 R152). -/
def State.driftVisit (s : State) : State :=
  let ps := s.activePods
  match ps.find? (fun i => decide (s.cal.visit ≤ i)) <|> ps.head? with
  | none => s
  | some i =>
    let s := s.onCal fun c => { c with visit := i + 1 }
    if s.liftSource i || s.reg (okey (0x2420 + i / 5) 2) ≠ 1 || decide (16 ≤ (s.pod i).visits) then s
    else (s.driftReads i 4).onPod i fun p => { p with visits := p.visits + 1 }

/-! KEEP's task 3: the rotation slice (R51, R66, R67) -/

/-- The rotation slice may run: in KEEP, from 2 µs, not in T3, once (R32, Table FRAME-2). -/
def State.sliceOpen (s : State) : Bool :=
  s.active && s.frame.phase = .keep && decide (s.tier ≠ 3) && !s.frame.tasksDone.testBit 1 &&
    decide (s.frame.start + s.keepStart + 2000 ≤ s.now)

/-- ROTATION_SLICE: programming pulses on the pod being programmed, or one slice of spare calibration with, in its last
slice, measurements A and B of the pair and the reference columns' readings. A KEEP that carries a lift in the cluster has no
slice (R152). DESIGN CHOICE (log 150): a calibration ordered for a spare that is not VERIFIED waits until it is; R66 says
only that an order for an active pod is BUSY. No MVM runs in any pod of a cluster during its slice (R51); a gated cluster has
none. -/
def State.rotationSlice (s : State) (a b : CalMeas) (refs : List Nat) : State :=
  match (List.range 40).find? fun i => (s.pod i).calLeft ≠ 0 with
  | some i =>
    if s.liftKeep (i / 5) || s.gateOff i || s.reg (okey (0x2420 + i / 5) 2) ≠ 1 then s
    else if 1 < (s.pod i).calLeft then s.onPod i fun p => { p with calLeft := p.calLeft - 1 }
    else
      let s := s.onPod i fun p => { p with calLeft := 0 }
      if calAgrees (s.pod i) a b then
        let q := s.calCodes i a b
        s.endCal i q.1 q.2 refs
      else if (s.pod i).calTries < 3 then
        s.onPod i fun p => { p with calLeft := s.calSlices, calTries := p.calTries + 1 }
      else s.endCalUnstable i
  | none =>
    let s := s.pickProgram
    if s.reg 0x300300 ≠ 0xFF then s
    else
      match s.cal.podDue.find? fun i => s.asSpare i && s.reg (podReg i 3) = 3 && !s.gateOff i with
      | some i => s.beginCal i
      | none => s

/-! Lifts and set-downs (07 R152 to R155) -/

/-- Conditions that a lift and a set-down check share: KEEP with 40 µs left, T0 to T2. -/
def State.liftOpen (s : State) : Bool :=
  s.active && s.frame.phase = .keep && decide (s.tier ≠ 3) &&
    decide (s.now + 40000 ≤ s.frame.start + max s.pFloor s.period)

/-- The slot of a cluster whose swap waits for a lift: its own due swap, or that of a group all of whose spares are VERIFIED. -/
def State.liftSlot (s : State) (c : Nat) : Option Nat :=
  match s.wantsSwap c with
  | some sl => some sl
  | none =>
    match s.loader.group with
    | some g => if s.groupVerified g then (g.members.find? fun m => m.1 = c).map fun m => m.2.1 else none
    | none => none

/-- A lift can start in this KEEP: the slot's image runs in place and fits the shadow's free space (R152). -/
def State.liftReady (s : State) (c : Nat) : Option (Nat × Nat) :=
  match s.liftSlot c with
  | none => none
  | some sl =>
    let x := s.clu c
    if s.liftOpen && !(s.inPlaceAt c sl).isEmpty && !x.shadow.contains sl && !x.noSource.contains sl && x.lifting.isNone &&
        decide (s.footprintAt c sl ≤ s.shadowFree c) then some (sl, s.footprintAt c sl)
    else none

/-- KEEP begins: the clusters in which it carries a lift or a set-down check, and so no rotation slice, BIST slice or pooled
tile, and no drift read of the source pod (R152, R154). -/
def State.planLifts (s : State) : State :=
  (List.range 8).foldl (fun (s : State) c =>
    let sources := (s.liftReady c).toList.map (·.1) ++ (if s.liftOpen then (s.clu c).setDown else [])
    if sources.isEmpty then s else s.onClu c fun x => { x with liftKeep := some (s.frame.number, sources) }) s

/-- LIFT: a footprint that fits the shadow is copied in a KEEP that carries the lift (R152). -/
def execLift (c : Nat) (s : State) : Out :=
  .next (
    match s.liftReady c with
    | none => s
    | some (sl, n) =>
      if s.liftKeep c then
        (s.onClu c fun x => { x with lifting := some (s.now, sl) }).bump (okey (0x3340 + c) 3) n
      else s)

/-- A lift of a slot comes to nothing: its space is free again; the image goes on in place, but of a pod that retires it has
no source from the next frame on (R152, R155). -/
def State.dropLift (s : State) (c sl : Nat) : State :=
  let n := s.footprintAt c sl
  let s := (s.onClu c fun x => { x with shadow := sdel x.shadow sl }).setReg (okey (0x3340 + c) 3)
    (s.reg (okey (0x3340 + c) 3) - n)
  let s := s.setReg (okey (0x3340 + c) 2) (s.slotPod c sl)
  if (s.pod (s.slotPod c sl)).retired then s.onClu c fun x => { x with unlifted := sins x.unlifted sl } else s

/-- Images in the shadow whose swap was not staged in their KEEP go on in place (R152). -/
def State.dropLifts (s : State) (c : Nat) : State :=
  ((s.clu c).shadow.filter fun sl => !(s.clu c).setDown.contains sl && (s.clu c).staged ≠ some sl).foldl
    (fun (s : State) sl => s.dropLift c sl) s

/-- Another member of the update group still runs its lift, so that the group's swaps wait for it. -/
def State.groupLifting (s : State) (c : Nat) : Bool :=
  match s.loader.group with
  | some g => (g.members.any fun m => m.1 = c) && g.members.any fun m => m.1 ≠ c && (s.clu m.1).lifting.isSome
  | none => false

/-- The clusters whose lifts end together: those of the update group's members, or one cluster alone. -/
def State.liftPeers (s : State) (c : Nat) : List Nat :=
  match s.loader.group with
  | some g => if g.members.any fun m => m.1 = c then g.members.map (·.1) else [c]
  | none => [c]

/-- LIFT_END: 40 µs later the rows have been read twice; a clean copy, every row decoded, runs from the shadow and its swap is
staged in the same KEEP, that of a group with its last lift; else the shadow is released and the image goes on in place (R152).
Corrected rows count, and a row that does not decode raises an ANALOG record naming the pod (R50, R61). -/
def execLiftEnd (c : Nat) (errs : List (Nat × Nat × Int)) (s : State) : Out :=
  .next (
    match (s.clu c).lifting with
    | none => s
    | some (t, sl) =>
      if s.now < t + 40000 ∨ !s.active then s
      else
        let s := s.onClu c fun x => { x with lifting := none }
        let pod := s.slotPod c sl
        let rows := s.imageRows c sl
        let q := readRows (s.convEnv pod) (s.pod pod) (rows ++ rows) errs
        let s := s.bump (podReg pod 10) q.1
        match q.2 with
        | some row => (s.fault clsAnalog 3 (unitPod pod) noParty (row % 64)).dropLift c sl
        | none =>
          let s := ((s.onClu c fun x => { x with shadow := sins x.shadow sl }).countImages c sl
            (okey (0x3340 + c) 4)).setReg (okey (0x3340 + c) 2) 0xFE
          if s.groupLifting c then s
          else
            let s := if s.frame.phase = .keep then s.stageSwaps else s
            (s.liftPeers c).foldl State.dropLifts s)

/-- The slots of a cluster whose set-down check has been made in this KEEP. -/
def State.checkedNow (s : State) (c : Nat) : List Nat :=
  match (s.clu c).checked with
  | some x => if x.1 = s.frame.number then x.2 else []
  | none => []

/-- The first row at which an image in the pod that serves its slot does not match it (R154). -/
def State.imageDiffers (s : State) (pod : Nat) (d : DrainPip) : Bool :=
  let held := (List.range (pipBytesOf d.image).length).map fun i => BitVec.ofNat 8 (mget 0 (s.pod pod).digital (512 * d.block + i))
  held ≠ pipBytesOf d.image

/-- SET_DOWN_CHECK: 40 µs into a KEEP that carries it, the footprint rows of the pod that now serves the slot are judged, each
pending slot once; where they decode and match the images, they run in place from the next tick on; otherwise an ANALOG record
with the failing row, and the check is repeated in every KEEP (R154). -/
def execSetDownCheck (c : Nat) (errs : List (Nat × Nat × Int)) (s : State) : Out :=
  .next (
    match (s.clu c).setDown.filter fun sl => !(s.checkedNow c).contains sl with
    | [] => s
    | sl :: _ =>
      if !s.active || s.frame.phase ≠ .keep || s.tier = 3 || !s.liftKeep c ||
          decide (s.now < s.frame.start + s.keepStart + 40000) then s
      else
        let pod := s.slotPod c sl
        let s := s.onClu c fun x => { x with checked := some (s.frame.number, s.checkedNow c ++ [sl]) }
        if (s.inPlaceAt c sl).isEmpty then s.onClu c fun x => { x with setDown := sdel x.setDown sl }
        else
          let q := readRows (s.convEnv pod) (s.pod pod) (s.imageRows c sl) errs
          let s := s.bump (podReg pod 10) q.1
          let bad := match q.2 with
            | some row => some row
            | none => ((s.inPlaceAt c sl).find? fun x => s.imageDiffers pod x.2).map fun x => 2 * x.2.block
          match bad with
          | some row =>
            (s.countImages c sl (okey (0x3340 + c) 6)).fault clsAnalog 3 (unitPod pod) noParty (row % 64)
          | none => s.onClu c fun x => { x with landing := sins x.landing sl })

/-- A checked image runs in place from the pod that serves its slot, and its shadow is released (R154). -/
def State.landSlot (s : State) (c sl : Nat) : State :=
  let n := if (s.clu c).shadow.contains sl then s.footprintAt c sl else 0
  let s := s.onClu c fun x =>
    { x with setDown := sdel x.setDown sl, shadow := sdel x.shadow sl, noSource := sdel x.noSource sl,
             unlifted := sdel x.unlifted sl, fetched := [] }
  (s.setReg (okey (0x3340 + c) 2) (s.slotPod c sl)).setReg (okey (0x3340 + c) 3) (s.reg (okey (0x3340 + c) 3) - n)

/-- At the tick the checked images land; lifts that led to no swap end (R152, R154). -/
def State.landImages (s : State) : State :=
  (List.range 8).foldl (fun (s : State) c =>
    let s := (s.clu c).landing.foldl (fun (s : State) sl => s.landSlot c sl) s
    (s.onClu c fun x => { x with landing := [] }).dropLifts c) s

/-- The images of a retired pod that cannot be lifted have no source from the next frame on: they do not fit the shadow's free
space, their lift failed, or no swap of the pod is due that a lift could precede (R152, R155). -/
def State.retiredSources (s : State) : State :=
  (List.range 8).foldl (fun s c =>
    match s.retiringSlot c with
    | some sl =>
      if (s.inPlaceAt c sl).isEmpty || (s.clu c).shadow.contains sl then s
      else if s.shadowFree c < s.footprintAt c sl ∨ (s.clu c).unlifted.contains sl ∨ s.liftSlot c ≠ some sl then
        s.onClu c fun x => { x with noSource := sins x.noSource sl }
      else s
    | none => s) s

/-! Fetch slots (02 R60, R61; 07 R150) -/

/-- The block that the cluster's engine wants of its pod's digital segment: the one it stalls for, else the block after the one
it executes, unless it is there or on its way (R150). -/
def State.wantedBlock (s : State) (c : Nat) : Option Nat :=
  let p := s.pip (c + 4)
  match (s.clu c).fetch with
  | some b => some b
  | none =>
    match p.image, s.runningPip c with
    | some img, some d =>
      let b := codeBlock p.pc + 1
      if p.running && p.stall.isNone && img.inPlace && !(s.clu c).shadow.contains d.slot && !(s.clu c).fetched.contains b &&
          (s.clu c).reading ≠ some b && decide (b < ceilDiv (16 + 4 * img.code.length + img.tables.length) 512) then some b
      else none
    | _, _ => none

/-- FETCH_SLOT: in an MVM interval whose number is 15 modulo 16, two digital rows are read for a pending fetch, one block in each
slot; without a fetch the slot is a dummy read, which shows nothing but that no filler runs in it (16 R343). Corrected
rows count, and a row that does not decode stops the run (R50, R60, R61, R150). -/
def execFetchSlot (c : Nat) (errs : List (Nat × Nat × Int)) (s : State) : Out :=
  .next (
    match s.wantedBlock c, s.runningPip c with
    | some b, some d =>
      let pod := s.slotPod c d.slot
      if !s.active || decide (s.sinceTick / 320 % 16 ≠ 15) || s.reg (podReg pod 9) = 0 ||
          (s.pod pod).slotRead = s.sinceTick / 320 + 1 then s
      else
        let q := readRows (s.convEnv pod) (s.pod pod) (blockRows (d.block + b) 1) errs
        let s := (s.bump (podReg pod 10) q.1).onPod pod fun p => { p with slotRead := s.sinceTick / 320 + 1 }
        match q.2 with
        | some row =>
          let s := s.fault clsAnalog 3 (unitPod pod) noParty (row % 64)
          (s.onClu c fun x => { x with fetch := none }).pipStop (c + 4) pxFetch
        | none => s.onClu c fun x => { x with fetch := none, reading := some b }
    | _, _ => s)

/-- The run goes on at a time: the cycles of its stall are the run's (R150). -/
def State.endStall (s : State) (e : Nat) : State :=
  s.onPip e fun p => { p with
    stall := none, cycle := max p.cycle (ceilDiv ((s.now - p.start) * 8) (pipPeriod e)) }

/-- FETCH_DELIVERED: the block replaces the older of the two, and the engine that stalled for it goes on (R61, R150). -/
def execFetchDelivered (c : Nat) (s : State) : Out :=
  .next (
    match (s.clu c).reading with
    | none => s
    | some b =>
      if !s.active then s
      else
        let s := s.onClu c fun x => { x with reading := none, fetched := (b :: x.fetched).take 2 }
        if (s.pip (c + 4)).stall = some b then s.endStall (c + 4) else s)

end Sys2Proof.Machine
end

