-- ==== Sys2Proof/Machine/Contexts.lean ====
section
/-! DEFINITION. Contexts: pages taken from a party's allotment and returned to it, root contexts, residency in the 48
slots, and the fence registry (13 R260 to R263, R268 to R271). -/

namespace Sys2Proof.Machine

open Sys2Proof

/-! Pages (R260, R261) -/

/-- Physical pages that a party's contexts map, each once. -/
def State.partyPages (s : State) (p : Nat) : List Nat :=
  dedupNat ((s.pool.ctxs.filter (·.party = p)).flatMap fun c => c.pages.map fun x => x.2.1)

/-- Pages allotted to a party, in force. -/
def State.pageAllot (s : State) (p : Nat) : Nat := s.inForce (okey (0x3800 + p) 2)

/-- The lowest n physical pages that no context maps (log 57). -/
def freePagesFrom (used : List Nat) : Nat → Nat → Nat → List Nat
  | 0, _, _ => []
  | _, 0, _ => []
  | fuel + 1, n + 1, i =>
    if used.contains i then freePagesFrom used fuel (n + 1) (i + 1) else i :: freePagesFrom used fuel n (i + 1)

def State.freePages (s : State) (n : Nat) : List Nat :=
  let used := s.pool.ctxs.flatMap fun c => c.pages.map fun x => x.2.1
  freePagesFrom used (used.length + n) n 0

/-- Insert pages in a context's table, by virtual page. -/
def putPages (c : Ctx) (ps : List (Nat × Nat × Bool)) : Ctx :=
  { c with pages := ps.foldl (fun m x => insBy (·.1) x m) c.pages }

/-- Pages are mapped: each takes the next token of this sprout (20 R414). -/
def State.giveTokens (s : State) (c : Nat) (vps : List Nat) : State :=
  vps.foldl (fun (s : State) v =>
    { s with pool := { s.pool with
        tokens := mset 0 s.pool.tokens (c * 268435456 + v) s.pool.nextToken, nextToken := s.pool.nextToken + 1 } }) s

/-- Pages are marked zero: they read as zeros, and DRAM keeps the ciphertext of those that had been written (R277, R278). -/
def State.zeroPages (s : State) (ps : List Nat) : State :=
  let gone := s.pool.live.filter fun x => ps.contains x.1
  { s with pool := { s.pool with
      cache := s.pool.cache.filter fun x => !ps.contains (x.2 / 32),
      live := s.pool.live.filter fun x => !ps.contains x.1,
      left := gone.foldl (fun m g => mins m g.1 (g.2, s.pool.mem.filter fun x => x.1 / 4096 = g.1)) s.pool.left,
      raw := s.pool.raw.filter fun x => !(gone.any fun g => g.1 = x.1 / 4096),
      mem := s.pool.mem.filter fun x => !ps.contains (x.1 / 4096),
      chaff := s.pool.chaff.filter fun l => !ps.contains (l / 64) } }

/-- An empty context of a party. -/
def newCtx (s : State) (num p : Nat) : Ctx :=
  { num := num, party := p, revoking := false, pages := [], queues := [], resident := false, lastUse := s.now,
    waits := 0, usage := [], created := s.frame.number }

def newQueue (num entries cmd cpl bell : Nat) : Queue :=
  { num := num, entries := entries, cmdRing := cmd, cplRing := cpl, bell := bell, prod := 0, started := 0,
    completed := 0, cur := none, ignored := 0 }

/-- Contexts in rising number. -/
def State.addCtx (s : State) (c : Ctx) : State :=
  { s with pool := { s.pool with ctxs := insBy (·.num) c s.pool.ctxs } }

/-! Residency (R262, R263) -/

/-- The contexts that a plan names: segment records, descriptors, streams; own fences lie in the segment's context. -/
def planCtxs (p : PlanImage) : List Nat :=
  dedupNat (p.comp.segs.map (·.ctx) ++ p.segs.flatMap fun g =>
    (g.descs.map fun d => dCtx d.2.2) ++ g.streams.map (·.ctx))

/-- Contexts with planned work. -/
def State.planned (s : State) : List Nat := (s.loader.plan.map planCtxs).getD []

/-- A context is pinned by planned work or by its pooled job. -/
def State.jobPins (s : State) (c : Nat) : Bool :=
  (List.range 16).any fun j => (s.jobState j = 1 || s.jobState j = 2) && (s.job j).ctx = c
def State.pinned (s : State) (c : Nat) : Bool := s.planned.contains c || s.jobPins c

/-- Shares of n things among parties in ascending order, the remainder to the lowest (R100, R263). -/
def shareOut (n : Nat) (ps : List Nat) (p : Nat) : Nat :=
  if ps.contains p then
    n / ps.length + (if (ps.filter (· < p)).length < n % ps.length then 1 else 0)
  else 0

/-- Parties with a root context that stands. -/
def State.rooted (s : State) : List Nat := (List.range 16).filter fun p => (s.ctx p).any fun c => !c.revoking

/-- Resident contexts that use a party's share: those without planned work. -/
def State.shareUse (s : State) (p : Nat) : List Ctx :=
  s.pool.ctxs.filter fun c => c.party = p && c.resident && !s.planned.contains c.num

/-- The context that a range of a POOL message names, through a grant where it carries a handle: context field and handle. -/
def State.namedCtx (s : State) (ctx h : Nat) : Option Nat :=
  if ctx ≠ 0xFFFF then some ctx
  else (s.pool.grants.find? fun g => g.live && g.idx = handleIdx h && g.gen = handleGen h).map (·.ctx)

/-- The contexts that a pool request's message names (Tables POOL-3, POOL-4). -/
def State.msgCtxs (s : State) (m : List Byte) : List Nat :=
  if field m 1 1 ≠ 2 then []
  else (s.namedCtx (field m 16 2) (field m 32 8)).toList ++
    (if field m 2 2 = 0x0121 ∨ field m 2 2 = 0x0122 then (s.namedCtx (field m 40 2) (field m 56 8)).toList else [])

/-- A resident context that may be evicted: not pinned, no command in execution, no pending pool operation. -/
def State.evictable (s : State) (c : Ctx) : Bool :=
  !s.pinned c.num && (c.queues.all fun q => q.cur.isNone) && !(s.pool.resWait.any fun w => w.2.1 = c.num) &&
    !(s.net.accepted.any fun m => (s.msgCtxs m.2.2.1).contains c.num)

/-- The least recently used evictable context of a party's share. -/
def State.victim (s : State) (p : Nat) : Option Ctx :=
  (sortBy (·.lastUse) ((s.shareUse p).filter s.evictable)).head?

/-- A party keeps no more slots than its share: the least recently used contexts that may be evicted go (R263). -/
def State.trimShare (s : State) (p : Nat) : State :=
  (List.range ((s.shareUse p).length - s.pool.shares.getD p 0)).foldl (fun (s : State) _ =>
    match s.victim p with
    | some v => s.onCtx v.num fun x => { x with resident := false }
    | none => s) s

/-- The division of the slots is made anew; contexts with planned work are resident, and no party keeps more than its share. -/
def State.reshare (s : State) : State :=
  let pl := s.planned
  let s : State := { s with pool := { s.pool with
      shares := (List.range 16).map fun p => shareOut (48 - pl.length) s.rooted p,
      ctxs := s.pool.ctxs.map fun c => if pl.contains c.num then { c with resident := true } else c } }
  (List.range 16).foldl State.trimShare s

/-- The party's share is 0, or every slot of it is pinned: a request for residency answers LIMIT at once. -/
def State.shareShut (s : State) (p : Nat) : Bool :=
  let n := s.pool.shares.getD p 0
  n = 0 || decide (n ≤ ((s.shareUse p).filter fun c => s.jobPins c.num).length)

/-- Make a context of a party resident if its share has room or a victim; unchanged otherwise. -/
def State.bringIn (s : State) (p c : Nat) : State :=
  let put (s : State) : State := s.onCtx c fun x => { x with resident := true, lastUse := s.now }
  let s := s.trimShare p
  if (s.shareUse p).length < s.pool.shares.getD p 0 then put s
  else
    match s.victim p with
    | some v => put (s.onCtx v.num fun x => { x with resident := false })
    | none => s

/-- The residency change of a party's KEEP slot: its oldest request that still waits (R263, R265). -/
def State.residencyChange (s : State) (p : Nat) : State :=
  match s.pool.resWait.find? fun w => w.1 = p with
  | none => s
  | some w =>
    let t : State := { s with pool := { s.pool with resWait := s.pool.resWait.filter fun x => x ≠ w } }
    let t := t.bringIn p w.2.1
    match t.ctx w.2.1 with
    | some x => if x.resident then t else s
    | none => t

/-- A request names a context that is not resident: it waits in arrival order, counted once (Table HOST-7). -/
def State.awaitResidency (s : State) (p c : Nat) : State :=
  if s.pool.resWait.any fun w => w.2.1 = c then s
  else
    ({ s with pool := { s.pool with resWait := s.pool.resWait ++ [(p, c, s.now)] } }).onCtx c fun x =>
      { x with waits := x.waits + 1 }

/-- Since when a request for a context's residency has waited. -/
def State.waitingSince (s : State) (c : Nat) : Option Nat := (s.pool.resWait.find? fun w => w.2.1 = c).map (·.2.2)

/-- A use of a resident context. -/
def State.touch (s : State) (c : Nat) : State := s.onCtx c fun x => { x with lastUse := s.now }

/-! Root contexts (R260, R276) -/

/-- A root context with its 16 pages and queue 0. -/
def State.createRoot (s : State) (p : Nat) : State :=
  let ps := s.freePages 16
  let s := s.zeroPages ps
  let c : Ctx := { newCtx s p p with
    pages := (ps.zipIdx).map fun x => (x.2, x.1, true), queues := [newQueue 0 64 0 0x1000 0x1800] }
  ((s.addCtx c).giveTokens p (List.range 16)).reshare.spoilScrub

/-- At a boundary every party with 16 pages or more and no root context gets one, unless it awaits the Owner's next
allotment write after a revocation. -/
def State.createRoots (s : State) : State :=
  (List.range 16).foldl (fun s p =>
    if (s.ctx p).isNone && decide (16 ≤ s.pageAllot p) && !s.pool.noRoot.testBit p then (s.newPoolKey p).createRoot p else s) s

/-! The fence registry (R268, R271) -/

/-- The lowest free index of the registry, for a party with room for one more; none otherwise. -/
def State.fenceRoom (s : State) (p : Nat) : Option Nat :=
  if s.pool.fences.length ≥ 4096 ∨ (s.pool.fences.filter (·.party = p)).length ≥ 256 then none
  else (List.range (s.pool.fences.length + 1)).find? fun i => !(s.pool.fences.any fun f => f.idx = i)

/-- A registry entry is taken with its generation raised by one. -/
def State.takeFence (s : State) (f : Fence) : State :=
  let g := (mget 0 s.pool.gens f.idx + 1) % 4294967296
  { s with pool := { s.pool with
      fences := insBy (·.idx) { f with gen := g } s.pool.fences, gens := mins s.pool.gens f.idx g } }

/-- Register the word at an address of a context as an own fence of a party: its line becomes a fence line whose other
words read as zero. Answers the status and the initial value (R268). -/
def State.registerFence (s : State) (p c a : Nat) : Nat × Nat × State :=
  match (s.ctx c).bind fun x => physOf x a with
  | none => (stNoObject, 0, s)
  | some ph =>
    let line := ph / 64
    let w := (s.heldBy line).isSome
    if a % 8 ≠ 0 then (stRange, 0, s)
    else if !(((s.ctx c).map fun x => writableRange x a 8).getD false) then (stDenied, 0, s)
    else if s.writeStatus p [line] ≠ stOk then (s.writeStatus p [line], 0, s)
    else if w then (stHeld, 0, s)
    else
      match s.fenceRoom p with
      | none => (stLimit, 0, s)
      | some i =>
        let v := leNat (readCells s.pool.mem ph 8)
        let t := (s.putLine line (List.replicate 64 0)).putLine line
          (List.replicate (ph % 64) 0 ++ leBytes 8 v ++ List.replicate (56 - ph % 64) 0)
        (stOk, v, t.takeFence ⟨i, 0, p, c, a, ph, v, [], false⟩)

/-- Handles of a fence that have been issued. -/
def fenceHandles (f : Fence) : List Nat := f.importers.map fun q => handleOf 1 f.party q f.idx f.gen

/-- Every handle of a fence is invalidated (R271). -/
def State.killHandles (s : State) (f : Fence) : State :=
  { s with pool := { s.pool with
      dead := s.pool.dead ++ fenceHandles f,
      fences := s.pool.fences.map fun x => if x.idx = f.idx then { x with importers := [] } else x } }

/-- A fence leaves the registry; its line is an ordinary line again. A wait on it as an own fence finds an index that no
entry has. -/
def State.dropFence (s : State) (f : Fence) : State :=
  let t := s.killHandles f
  { t with pool := { t.pool with
      fences := t.pool.fences.filter (·.idx ≠ f.idx),
      waits := t.pool.waits.map fun w => if w.fence = f.idx && w.handle = 0 then { w with fence := 4096 } else w } }

/-- Pages that no context maps any longer: their fences leave the registry, their holds end, their chaff marks go. -/
def State.releasePages (s : State) (ps : List Nat) : State :=
  let gone := ps.filter fun q => !(s.pool.ctxs.any fun c => c.pages.any fun x => x.2.1 = q)
  let s := (s.pool.fences.filter fun f => !f.mirror && gone.contains (f.phys / 4096)).foldl State.dropFence s
  let s := s.zeroPages gone
  { s with pool := { s.pool with holds := s.pool.holds.filter fun h => !gone.contains (h.line / 64) } }

end Sys2Proof.Machine
end

