-- ==== Sys2Proof/Machine/Curve.lean ====
section
/-! DEFINITION. Verification of ECDSA signatures on the curve P-384 (FIPS 186-5), by which images, plan key installs, SAK envelopes
and the Owner's lifecycle requests are signed (08 R159, 18 R367, R369, R374). Points are in Jacobian form, z = 0 being the point at
infinity; the functions pass numbers on evaluated, so that a kernel can check a signature. -/

namespace Sys2Proof.Machine

open Sys2Proof

/-- The field's prime, the order of the base point, the curve's b (a is −3), and the base point. -/
def curveP : Nat := 2 ^ 384 - 2 ^ 128 - 2 ^ 96 + 2 ^ 32 - 1
def curveN : Nat := 0xFFFFFFFFFFFFFFFFFFFFFFFFFFFFFFFFFFFFFFFFFFFFFFFFC7634D81F4372DDF581A0DB248B0A77AECEC196ACCC52973
def curveB : Nat := 0xB3312FA7E23EE7E4988E056BE3F82D19181D9C6EFE8141120314088F5013875AC656398D8A2ED19D2A85C8EDD3EC2AEF

structure Jac where
  x : Nat
  y : Nat
  z : Nat
  deriving DecidableEq, Repr

def curveG : Jac :=
  ⟨0xAA87CA22BE8B05378EB1C71EF320AD746E1D3B628BA79B9859F741E082542A385502F25DBF55296C3A545E3872760AB7,
   0x3617DE4A96262C6F5D9E98BF9292DC29F8F41DBD289A147CE9DA3113B5F0B8C00A60B1CE1D7E819D7A431D7C90EA0E5F, 1⟩

/-- A residue and its negative modulo the prime. -/
def modP (n : Nat) : Nat := n % curveP
def negP (n : Nat) : Nat := curveP - n

/-- Twice a point. -/
def Jac.double : Jac → Jac
  | ⟨x, y, z⟩ =>
    forceNat (modP (z * z)) fun d => forceNat (modP (y * y)) fun g => forceNat (modP (x * g)) fun b =>
    forceNat (modP (3 * ((x + negP d) * (x + d)))) fun a => forceNat (modP (a * a + 8 * negP b)) fun x' =>
    forceNat (modP (a * (4 * b + negP x') + 8 * negP (modP (g * g)))) fun y' =>
    forceNat (modP ((y + z) * (y + z) + negP g + negP d)) fun z' => ⟨x', y', z'⟩

/-- The sum of two points. -/
def Jac.add : Jac → Jac → Jac
  | ⟨x, y, z⟩, ⟨u, v, w⟩ =>
    if z = 0 then ⟨u, v, w⟩ else if w = 0 then ⟨x, y, z⟩
    else
      forceNat (modP (z * z)) fun zz => forceNat (modP (w * w)) fun ww =>
      forceNat (modP (x * ww)) fun a => forceNat (modP (y * modP (w * ww))) fun s =>
      forceNat (modP (u * zz + negP a)) fun h => forceNat (modP (v * modP (z * zz) + negP s)) fun r =>
      if h = 0 then (if r = 0 then Jac.double ⟨x, y, z⟩ else ⟨1, 1, 0⟩)
      else
        forceNat (modP (h * h)) fun hh => forceNat (modP (h * hh)) fun hhh => forceNat (modP (a * hh)) fun q =>
        forceNat (modP (r * r + negP hhh + 2 * negP q)) fun x' =>
        forceNat (modP (r * (q + negP x') + modP (s * negP hhh))) fun y' =>
        forceNat (modP (h * modP (z * w))) fun z' => ⟨x', y', z'⟩

/-- The sum of a multiple of p and a multiple of q, bit by bit from the n-th down; `pq` is p + q. -/
def Jac.combine (p q pq : Jac) (a b : Nat) : Nat → Jac → Jac
  | 0, t => t
  | n + 1, t =>
    match (if a.testBit n then (if b.testBit n then t.double.add pq else t.double.add p)
      else if b.testBit n then t.double.add q else t.double) with
    | ⟨x, y, z⟩ => Jac.combine p q pq a b n ⟨x, y, z⟩

/-- A power modulo m, bit by bit of the exponent from the n-th down. -/
def powMod (m b e : Nat) : Nat → Nat → Nat
  | 0, t => t
  | n + 1, t => forceNat (if e.testBit n then t * t % m * b % m else t * t % m) fun v => powMod m b e n v

/-- A public key of 96 bytes, X then Y, is a point of the curve. -/
def keyPoint (pub : List Byte) : Option Jac :=
  let x := field pub 0 48
  let y := field pub 48 48
  if x < curveP ∧ y < curveP ∧ y * y % curveP = modP (x * x * x + 3 * negP x + curveB) then some ⟨x, y, 1⟩ else none

/-- A signature of 96 bytes, r then s, on a SHA-384 digest is good under a public key. DEDUCED (log 202): the numbers are
little-endian as every field is (R9); the digest is a number as FIPS 186-5 reads it. -/
def signatureOk (pub digest sig : List Byte) : Bool :=
  match keyPoint pub with
  | none => false
  | some q =>
    let r := field sig 0 48
    let t := field sig 48 48
    if r = 0 ∨ curveN ≤ r ∨ t = 0 ∨ curveN ≤ t then false
    else
      forceNat (powMod curveN t (curveN - 2) 384 1) fun w =>
      forceNat (beNat digest * w % curveN) fun a => forceNat (r * w % curveN) fun b =>
        match Jac.combine curveG q (curveG.add q) a b 384 ⟨1, 1, 0⟩ with
        | ⟨x, _, z⟩ =>
          z ≠ 0 && (x = modP (r * modP (z * z)) || (decide (r + curveN < curveP) && x = modP ((r + curveN) * modP (z * z))))

end Sys2Proof.Machine
end

