-- ==== Sys2Proof/Machine/Image.lean ====
section
/-! DEFINITION. Images as bytes (08 R159 to R168, R179; 07 Table PIP-3; 09 R196): header, section table, and each section whose
layout the spec gives. What stands in sections without a layout comes with the command (log 105). -/

namespace Sys2Proof.Machine

open Sys2Proof

/-- Cut a string into records of n bytes; a shorter rest is dropped. -/
def cutRecs (n : Nat) : Nat → List Byte → List (List Byte)
  | 0, _ => []
  | k + 1, b => if n = 0 ∨ b.length < n then [] else b.take n :: cutRecs n k (b.drop n)

def recordsOf (n : Nat) (b : List Byte) : List (List Byte) := cutRecs n (b.length / max 1 n) b

/-- Bytes of a range are all zero (R10). -/
def zeros (b : List Byte) (off n : Nat) : Bool := ((b.drop off).take n).all (· = 0)

/-! Pip images (07 Table PIP-3) -/

/-- The length that a pip image's header gives. -/
def pipLen (b : List Byte) : Nat := 16 + 4 * field b 2 2 + field b 4 2

/-- A pip image from its bytes. -/
def readPip (b : List Byte) : PipImage :=
  let n := field b 2 2
  let b := b.take (pipLen b)
  { engine := field b 0 1, inPlace := (field b 1 1).testBit 0,
    code := (List.range n).map fun i => BitVec.ofNat 32 (field b (16 + 4 * i) 4),
    tables := b.drop (16 + 4 * n), entry := field b 6 2, budget := field b 8 4,
    crcOk := decide (b.length = pipLen b ∧ field b 1 1 < 2 ∧ crc32 (b.take 12 ++ b.drop 16) = field b 12 4) }

/-- Pip images that follow one another. -/
def readPips : Nat → List Byte → List PipImage
  | 0, _ => []
  | n + 1, b => if b.isEmpty then [] else readPip b :: readPips n (b.drop (pipLen b))

/-! Sections (Table LDR-2) -/

structure SecEntry where
  type : Nat
  off : Nat
  len : Nat
  crc : Nat
  deriving DecidableEq, Repr

def secTable (b : List Byte) : List SecEntry :=
  (List.range (min 32 (field b 6 2))).map fun i =>
    let e := b.drop (64 + 16 * i)
    ⟨field e 0 2, field e 4 4, field e 8 4, field e 12 4⟩

def secBytes (b : List Byte) (x : SecEntry) : List Byte := (b.drop x.off).take x.len

/-- The bytes of the section of a type; empty when the image has none. -/
def sectionOf (b : List Byte) (type : Nat) : List Byte :=
  match (secTable b).find? (·.type = type) with
  | some x => secBytes b x
  | none => []

/-- The section types of an image's kind, and those of them that it must have (Table LDR-2). -/
def secTypes (kind : Nat) : List Nat :=
  if kind = 1 then [1, 2, 3]
  else if kind = 2 then [0x101, 0x102, 0x103, 0x104, 0x105, 0x106, 0x107, 0x108, 0x109, 0x10A, 0x10B, 0x10C]
  else [0x106, 0x201]
def secNeeded (kind : Nat) : List Nat :=
  if kind = 1 then [1, 2, 3] else if kind = 2 then [0x101, 0x10B] else [0x106, 0x201]

/-! OBJECTS and LEVELS (R166, Tables TILE-1, NUM-1) -/

def blockOf (b : List Byte) : Block :=
  { k := field b 0 1 % 16, n := field b 0 1 / 16, slot := field b 1 1 % 4, rowOff := field b 2 2, colOff := field b 4 2,
    rows := field b 6 2, cols := field b 8 2 }

/-- The two-bit range settings from the i-th on, low bits first (R166). -/
def rangeBits (b : List Byte) (i n : Nat) : List Nat := (List.range n).map fun k => field b ((i + k) / 4) 1 / 4 ^ ((i + k) % 4) % 4

/-- Split the range settings over blocks. -/
def splitRanges (b : List Byte) : Nat → List Block → List (List Nat)
  | _, [] => []
  | i, x :: xs => rangeBits b i (x.cols / 8) :: splitRanges b (i + x.cols / 8) xs

/-- One OBJECTS record with its length and whether its reserved fields are zero. -/
structure ObjRec where
  obj : WObj
  len : Nat
  ok : Bool
  deriving DecidableEq, Repr

/-- An OBJECTS record; the contents of the side store come with the command, the levels from LEVELS. -/
def objRec (b : List Byte) (x : SegAux) : ObjRec :=
  let n := field b 6 1
  let num := (b.drop 8).take 72
  let bl := (List.range n).map fun i => (b.drop (80 + 12 * i)).take 12
  let blocks := bl.map blockOf
  let groups := (blocks.map (·.cols / 8)).foldl (· + ·) 0
  let rng := (b.drop (80 + 12 * n)).take ((2 * groups + 7) / 8)
  let len := 80 + 12 * n + (2 * groups + 7) / 8 + 48
  let id := field b 0 2
  let outs := field num 4 1
  let side := ((x.outliers.find? (·.1 = id)).map (·.2)).getD []
  { len := len,
    ok := decide (len ≤ b.length ∧ field num 0 1 < 2 ∧ field num 1 1 < 4 ∧ field num 2 1 < 5 ∧ field num 3 1 < 16 ∧
        outs ≤ 32 ∧ field num 5 1 < 2) && zeros num 6 2 && zeros num (8 + 2 * outs) (64 - 2 * outs) &&
      bl.all fun r => decide (field r 1 1 < 4) && zeros r 10 2,
    obj :=
      { id := id, K := field b 2 2, N := field b 4 2, head := field num 0 1 = 1, fmt := field num 1 1,
        transform := field num 2 1 % 8, tshift := field num 3 1, learnOk := (field num 5 1).testBit 0,
        replica := field b 7 1, blocks := blocks, ranges := splitRanges rng 0 blocks,
        outliers := (List.range outs).map fun i =>
          ⟨field num (8 + 2 * i) 2, (side.getD i ([], [])).1, (side.getD i ([], [])).2⟩,
        levels := [], masters := ((x.masters.find? (·.1 = id)).map (·.2)).getD [],
        hash := field b (80 + 12 * n + (2 * groups + 7) / 8) 48 } }

/-- The OBJECTS records up to the section's end. -/
def objRecs (x : SegAux) : Nat → List Byte → List ObjRec
  | 0, _ => []
  | n + 1, b => if b.isEmpty then [] else objRec b x :: objRecs x n (b.drop (objRec b x).len)

/-- Cut a string into pieces of given lengths; a rest makes one more piece. -/
def cutBytes : List Nat → List Byte → List (List Byte)
  | [], b => if b.isEmpty then [] else [b]
  | n :: ns, b => b.take n :: cutBytes ns (b.drop n)

/-- The bytes of an object's level image (R166). -/
def levelSize (o : WObj) : Nat := if o.head then 0 else (o.blocks.map fun b => b.rows * b.cols).foldl (· + ·) 0

/-- Give each ANALOGUE object its part of LEVELS, block by block. -/
def withLevels : List WObj → List Byte → List WObj
  | [], _ => []
  | o :: os, b =>
    { o with levels := if o.head then [] else cutBytes (o.blocks.map fun x => x.rows * x.cols) (b.take (levelSize o)) } ::
      withLevels os (b.drop (levelSize o))

/-- The level-image hash of an object: SHA-384 of its levels, block by block (R166). -/
def levelHash (levels : List (List Byte)) : Nat := leNat (sha384 levels.flatten)

/-! The other sections -/

/-- An entry record (R164). -/
def entryOf (b : List Byte) : Option (Nat × Nat) := if field b 0 2 = 0xFFFF then none else some (field b 0 2, field b 4 4)

/-- A segment record (R162, Table LDR-3). -/
def segRecOf (b : List Byte) : SegRec :=
  { seg := field b 0 1, party := field b 1 1, window := field b 2 1, critical := (field b 3 1).testBit 0,
    leastLen := field b 4 2, ctx := field b 6 2,
    worst := (List.range 5).map fun i => if field b (8 + 4 * i) 4 = 0xFFFFFFFF then none else some (field b (8 + 4 * i) 4),
    addr := field b 28 8, length := field b 36 4, hash := field b 40 48, current := field b 88 2 }

/-- A certificate record (R163). -/
def certOf (b : List Byte) : CertRec := ⟨field b 0 2, field b 2 2, field b 4 2, field b 6 2⟩

/-- A fence-table entry (R167). -/
def fenceOf (b : List Byte) : FenceE := ⟨field b 0 1, field b 8 8⟩

/-- A stream descriptor (R168, Table LDR-4). -/
def streamOf (b : List Byte) : StreamD :=
  { id := field b 0 2, dest := field b 2 1, inclMask := (field b 3 1).testBit 0, d := field b 4 2, phase := field b 6 2,
    payLen := field b 8 2, maskLen := field b 10 2, payAddr := field b 12 8, maskAddr := field b 20 8, ctx := field b 28 2 }

/-- An intake job record (09 Table SENSE-7). -/
def jobOf (b : List Byte) : IntakeJob :=
  { job := field b 0 1, engine := field b 1 1, image := field b 2 1, raw := (field b 3 1).testBit 0, channels := field b 4 4,
    limit := field b 8 2, vecSize := field b 10 2, maxVec := field b 12 2, runTime := field b 16 4, outAddr := field b 20 8,
    dataBase := field b 28 2, dataLen := field b 30 2 }

/-- A section has the size and the zero reserved fields of its type (R10). -/
def formOk (type : Nat) (b : List Byte) (x : SegAux) : Bool :=
  let n := b.length
  let all (k : Nat) (f : List Byte → Bool) : Bool := decide (n % k = 0) && (recordsOf k b).all f
  match type with
  | 0x001 => n = 16 && zeros b 9 7
  | 0x002 => all 96 fun r => decide (field r 3 1 < 2) && zeros r 90 6
  | 0x003 => n = 320
  | 0x101 => n = 96 && all 8 fun r => zeros r 2 2
  | 0x102 => n % 32 = 0
  | 0x104 => n % 64 = 0
  | 0x105 => let rs := objRecs x n b
             rs.all (·.ok) && decide ((rs.map (·.len)).foldl (· + ·) 0 = n)
  | 0x109 => ((readPips n b).map fun i => 16 + 4 * i.code.length + i.tables.length).foldl (· + ·) 0 = n
  | 0x10A => decide (40 * x.jobs ≤ n) && ((recordsOf 40 (b.take (40 * x.jobs))).all fun r =>
               decide (field r 3 1 < 2 ∧ field r 4 4 < 524288) && zeros r 14 2 && zeros r 32 8)
  | 0x10B => n = 256 && all 16 fun r => zeros r 1 7
  | 0x10C => all 32 fun r => decide (field r 3 1 < 2) && zeros r 30 2
  | 0x201 => n = 98
  | _ => true

/-- A section of an image of a kind is where and what it should be (R159): on a 64-byte boundary, within the image, clear of the
others, of a type of its kind that stands once, with its CRC and the form of its type. -/
def secOk (b : List Byte) (kind : Nat) (x : SegAux) (i : Nat) : Bool :=
  let t := secTable b
  match t[i]? with
  | none => false
  | some s =>
    decide (s.off % 64 = 0 ∧ 64 + 16 * t.length ≤ s.off ∧ s.off + s.len + 128 ≤ b.length) && zeros b (66 + 16 * i) 2 &&
      (secTypes kind).contains s.type && decide (crc32 (secBytes b s) = s.crc) &&
      ((t.zipIdx).all fun y => y.2 = i || (y.1.type ≠ s.type &&
        decide (s.off + s.len ≤ y.1.off ∨ y.1.off + y.1.len ≤ s.off))) &&
      formOk s.type (secBytes b s) x

/-- Sections whose sizes another section gives: SEGMENTS as many records as FRAME counts (R161), LEVELS the levels of OBJECTS
(R166). -/
def sizesBad (b : List Byte) (kind : Nat) (x : SegAux) : Option Nat :=
  let len (type : Nat) : Nat := (sectionOf b type).length
  let at_ (type : Nat) : Option Nat := some ((secTable b).findIdx fun s => s.type = type)
  if kind = 1 then (if len 2 = 96 * field (sectionOf b 1) 5 1 then none else at_ 2)
  else if kind = 2 then
    let os := (objRecs x (len 0x105) (sectionOf b 0x105)).map (·.obj)
    if len 0x106 = (os.map levelSize).foldl (· + ·) 0 then none else at_ 0x106
  else none

/-- The header of an image, with what its section table and its sections' forms say (R159, Tables LDR-1, LDR-2). -/
def hdrOf (b : List Byte) (x : SegAux) : ImgHdr :=
  let kind := field b 4 1
  let bad := (List.range (secTable b).length).find? fun i => !secOk b kind x i
  let miss := (secNeeded kind).any fun t => !((secTable b).any (·.type = t))
  let off := bad.or (if miss then some 0 else sizesBad b kind x)
  { magic := field b 0 4, kind := kind, version := field b 5 1, sections := field b 6 2, length := field b 8 4,
    part := field b 12 2, stepping := field b 14 1, planId := field b 16 4, revision := field b 20 4, party := field b 24 1,
    segment := field b 25 1, keyId := field b 28 4,
    placed := off.isNone && decide (field b 8 4 = b.length ∧ 64 + 16 * field b 6 2 + 128 ≤ b.length),
    resZero := zeros b 15 1 && zeros b 26 2 && zeros b 32 32 && zeros b (b.length - 32) 32,
    badSection := off.getD 0,
    digest := sha384 (b.take (b.length - 128)), sig := (b.drop (b.length - 128)).take 96 }

def SegAux.none_ : SegAux :=
  { codeBase := 0, dataBase := 0, dataLen := 0, descFirst := 0, side := [], outliers := [], masters := [], chains := [],
    banks := [], binds := [], jobs := 0 }

/-- A composition image (R161 to R163). -/
def readComp (b : List Byte) : Composition :=
  let f := sectionOf b 1
  { hdr := hdrOf b SegAux.none_, hash := leNat (sha384 b), pFloor := field f 0 4, leastIntake := field f 4 1,
    publishLen := field f 6 2, downMask := field f 8 1, segs := (recordsOf 96 (sectionOf b 2)).map segRecOf,
    cert := (recordsOf 8 (sectionOf b 3)).map certOf }

/-- The fences that FADV and FADVF of some code name (06 R128, Table CORE-5). -/
def codeFences (code : List Byte) : List Nat :=
  dedupNat ((recordsOf 32 code).filterMap fun u =>
    let w := bytesNat u
    if bitsOf w 152 8 = 3 ∨ bitsOf w 152 8 = 4 then some (bitsOf w 133 4) else none)

/-- A drain pip: its image with its binding. -/
def bindPip (i : PipImage) (x : PipBind) : DrainPip :=
  { cluster := x.cluster, pos := x.pos, image := i, desc := x.desc, d := x.d, phase := x.phase, runTime := x.runTime,
    slot := x.slot, block := x.block, blocks := x.blocks }

/-- A drain chain from the DRAIN section: steps of 64 bits (05 Table NUM-3). -/
def drainChain (drain : List Byte) (x : ChainAt) : Chain :=
  ⟨x.cluster, x.num, (List.range x.steps).map fun i => BitVec.ofNat 64 (field drain (x.at_ + 8 * i) 8)⟩

/-- Bank registers from the DRAIN section: scale registers of 32 bits, biases INTEGER32, table entries INTEGER16 (05). -/
def drainBank (drain : List Byte) (x : BankAt) : BankRun :=
  ⟨x.cluster, x.kind, x.base, (List.range x.count).map fun i =>
    if x.kind = 0 then (field drain (x.at_ + 4 * i) 4 : Int)
    else if x.kind = 1 then signedOf 32 (field drain (x.at_ + 4 * i) 4)
    else signedOf 16 (field drain (x.at_ + 2 * i) 2)⟩

/-- A segment image (R164 to R168): descriptor k of DESCRIPTORS has the number first + k and stands in the table of each cluster
of its mask (04 R85). -/
def readSeg (b : List Byte) (x : SegAux) : SegImage :=
  let code := sectionOf b 0x102
  let objs := (objRecs x (sectionOf b 0x105).length (sectionOf b 0x105)).map (·.obj)
  let ds := recordsOf 64 (sectionOf b 0x104)
  let intake := sectionOf b 0x10A
  let drain := sectionOf b 0x108
  let pips := sectionOf b 0x109
  { hdr := hdrOf b x, hash := leNat (sha384 b), party := field b 24 1,
    entries := (recordsOf 8 (sectionOf b 0x101)).map entryOf,
    codeBase := x.codeBase, codeLen := code.length / 32, code := code,
    dataBase := x.dataBase, dataLen := x.dataLen, data := sectionOf b 0x103,
    descFirst := x.descFirst, descCount := ds.length,
    descs := ds.zipIdx.flatMap fun d => (maskClusters (dMask d.1)).map fun c => (c, x.descFirst + d.2, d.1),
    objs := withLevels objs (sectionOf b 0x106), side := x.side, chains := x.chains.map (drainChain drain),
    banks := x.banks.map (drainBank drain),
    pips := ((readPips pips.length pips).zip x.binds).map fun y => bindPip y.1 y.2,
    intakeImages := readPips intake.length (intake.drop (40 * x.jobs)),
    jobs := (recordsOf 40 (intake.take (40 * x.jobs))).map jobOf,
    fences := (recordsOf 16 (sectionOf b 0x10B)).map fenceOf,
    streams := (recordsOf 32 (sectionOf b 0x10C)).map streamOf,
    advances := codeFences code,
    secs := (secTable b).map (·.type) }

/-- A weight update image for an object whose blocks have given sizes (R179). -/
def readUpdate (b : List Byte) (sizes : List Nat) : UpdateImage :=
  let u := sectionOf b 0x201
  { hdr := hdrOf b SegAux.none_, objId := field u 0 2, curHash := field u 2 48, newHash := field u 50 48,
    levels := cutBytes sizes (sectionOf b 0x106) }

/-! Reading through a context (R158) -/

/-- An image in a context: as many bytes as its header says. -/
def State.imageLength (s : State) (party ctx addr : Nat) : Nat := field (s.readCtx party ctx addr 64).2 8 4
def State.imageBytes (s : State) (party ctx addr : Nat) : List Byte :=
  (s.readCtx party ctx addr (s.imageLength party ctx addr)).2

end Sys2Proof.Machine
end

