-- ==== Sys2Proof/Machine/LoadChecks.lean ====
section
/-! DEFINITION. The loader's checks (08 R177, Table LDR-5) as functions of a plan and of what the Owner allots: each
answers the first failure's sub-reason and detail word, none when the check passes. -/

namespace Sys2Proof.Machine

open Sys2Proof

/-- A refusal: sub-reason and detail word. -/
abbrev Verdict := Option (Nat × Nat)

def bad (sub tier seg item : Nat) : Verdict := some (sub, detailWord tier seg item)

/-- What the plan is held against: by party the window numbers, window lengths in ns, current shares in mA and pod
allotments; by channel the mask of the parties that it is granted to; the INTAKE length in ns and the frame period in µs. -/
structure AllotEnv where
  windows : List Nat
  grants : List Nat
  lengths : List Nat
  shares : List Nat
  pods : List (List (Nat × Nat × Nat × Nat × Nat × Nat))
  intake : Nat
  period : Nat

/-- The allotments, period and INTAKE length from a register file and its pod allotments. -/
def allotFrom (reg : Nat → Nat) (pods : List (Nat × List Byte)) : AllotEnv :=
  let by_ (sub : Nat) : List Nat := (List.range 16).map fun p => reg (okey (0x3800 + p) sub)
  { windows := by_ 4,
    grants := (List.range 18).map fun i => reg (if i < 16 then okey (0x2800 + i) 8 else okey (0x2820 + (i - 16)) 7)
    lengths := (by_ 5).map (· * 500), shares := by_ 8,
    pods := (List.range 16).map fun p => allotRecs 64 (mget [] pods (okey (0x3800 + p) 3)),
    intake := reg 0x4C0700 * 1000, period := reg 0x4C0000 }

/-- As effective, and as accepted last (R175, R258): accepted writes take effect in their order, so a write is judged
against all that were accepted before it. -/
def State.allotForce (s : State) : AllotEnv := allotFrom s.inForce s.dict.domsLive
def State.allotCmd (s : State) : AllotEnv := allotFrom s.asked s.dict.doms

/-! The plan by segment and tier (R169) -/

def segsOf (p : PlanImage) : List SegRec := sortBy (·.seg) p.comp.segs
def imgOf (p : PlanImage) (g : Nat) : Option SegImage := p.segs.find? (·.hdr.segment = g)
def imgsOf (p : PlanImage) : List SegImage := sortBy (·.hdr.segment) p.segs

def hasTier (p : PlanImage) (t : Nat) : Bool := p.segs.any fun g => (g.entries.getD t none).isSome

/-- The tiers of a plan in the order of R177: T0, T1, T2 if present, T3, then the declared down variants. -/
def planTiers (p : PlanImage) : List Nat :=
  [0, 1] ++ (if hasTier p 2 then [2] else []) ++ [3] ++ (maskClusters p.comp.downMask).map (4 + ·)

/-- The certified worst case of a segment in a tier, ns: T1 falls back to T0, and only CRITICAL segments run in T3. -/
def worstOf (r : SegRec) (t : Nat) : Nat :=
  let w (i : Nat) : Option Nat := r.worst.getD i none
  if 4 ≤ t then (w 4).getD 0
  else if t = 1 then ((w 1) <|> (w 0)).getD 0
  else if t = 3 ∧ !r.critical then 0
  else (w t).getD 0

/-- The certificate row of a tier: T0's for a synthesised T1. -/
def certRow (p : PlanImage) (t : Nat) : Nat := if 4 ≤ t then 4 else if t = 1 ∧ !hasTier p 1 then 0 else t

def certAt (p : PlanImage) (t c : Nat) : CertRec := p.comp.cert.getD (certRow p t * 8 + c) ⟨0, 0, 0, 0⟩

/-- Certified current of a tier, mA: the core-rail figures under FULL ballast (R163). -/
def tierCurrent (p : PlanImage) (t : Nat) : Nat := (List.range 8).foldl (fun a c => a + (certAt p t c).full) 0

/-! Checks 1 and 2 -/

/-- Check 1 on a header of a kind: every field of Table LDR-1 and the section table (R159). -/
def hdrOk (h : ImgHdr) (kind : Nat) : Bool :=
  decide (h.magic = 0x50585654 ∧ h.kind = kind ∧ h.version = 1 ∧ 1 ≤ h.sections ∧ h.sections ≤ 32 ∧ h.length % 64 = 0 ∧
    h.part = 0x3208 ∧ h.stepping = 0xB1) && h.placed && h.resZero &&
  (if kind = 2 then decide (h.segment < 16) else h.segment = 0xFF)

/-- A composition names 1 to 16 segments, each number once, and 40 certificate records; that FRAME counts as many is a
matter of its section sizes (`sizesBad`). -/
def compOk (c : Composition) : Bool :=
  decide (1 ≤ c.segs.length ∧ c.segs.length ≤ 16 ∧ c.cert.length = 40) &&
    decide ((dedupNat (c.segs.map (·.seg))).length = c.segs.length) && c.segs.all fun r => decide (r.seg < 16)

/-- The image is signed with the installed plan key of its party that its key ID names (R158, R159, R367). -/
def State.keyOk (s : State) (h : ImgHdr) : Bool :=
  s.sec.planKeys.any fun k => k.party = h.party && k.keyId = h.keyId && signatureOk k.pub h.digest h.sig

/-- Every page of n bytes of a party's context is mapped. -/
def State.mapped (s : State) (p ctx a n : Nat) : Bool :=
  n = 0 || s.ctxStatus p ctx = stOk && (match s.ctx ctx with
    | some x => (List.range ((a + n + 4095) / 4096 - a / 4096)).all fun i => (pageOf x (a / 4096 + i)).isSome
    | none => false)

/-- Checks 1 and 2 on the composition, which the Owner signs; an image that cannot be read fails check 1. -/
def State.check12 (s : State) (p : PlanImage) (ctx addr : Nat) : Verdict :=
  if !hdrOk p.comp.hdr 1 || !compOk p.comp || !s.mapped 0 ctx addr p.comp.hdr.length then
    bad 1 0xFF 0xFF p.comp.hdr.badSection
  else if p.comp.hdr.party ≠ 0 || !s.keyOk p.comp.hdr then bad 2 0xFF 0xFF 0
  else none

/-- The segment records with the images that stand where they say, in ascending segment. -/
def recImgs (p : PlanImage) : List (SegRec × SegImage) := sortBy (·.1.seg) (p.comp.segs.zip p.segs)

/-- Check 1, then check 2, on the segment images, in ascending segment. -/
def State.checkSegs12 (s : State) (p : PlanImage) : Verdict :=
  ((recImgs p).findSome? fun x =>
    if hdrOk x.2.hdr 2 && s.mapped x.1.party x.1.ctx x.1.addr x.1.length then none else bad 1 0xFF x.1.seg x.2.hdr.badSection) <|>
    (recImgs p).findSome? fun x => if s.keyOk x.2.hdr then none else bad 2 0xFF x.1.seg 0

/-! Checks 3 to 5 -/

def check3 (p : PlanImage) : Verdict :=
  (segsOf p).findSome? fun r =>
    match imgOf p r.seg with
    | some g => if g.hash = r.hash ∧ g.hdr.party = r.party ∧ g.party = r.party then none else bad 3 0xFF r.seg 0
    | none => bad 3 0xFF r.seg 0

/-- Check 4 on one signer: bound, and its context neither revoked nor another party's. -/
def State.ctxOk (s : State) (party ctx : Nat) : Bool :=
  s.bindKind party ≠ 0 &&
    (match s.ctx ctx with
     | some x => x.party = party && !x.revoking
     | none => false)

def State.check4 (s : State) (p : PlanImage) (ctx : Nat) : Verdict :=
  if !s.ctxOk 0 ctx then bad 4 0xFF 0xFF ctx
  else (segsOf p).findSome? fun r => if s.ctxOk r.party r.ctx then none else bad 4 0xFF r.seg r.ctx

/-- R164 and R169 on one segment and tier. -/
def tierOk (p : PlanImage) (r : SegRec) (g : SegImage) (t : Nat) : Bool :=
  let e := g.entries.getD t none
  if 4 ≤ t then
    (match e with
     | some x => (match r.worst.getD 4 none with
       | some d => decide (x.2 ≤ d)
       | none => false)
     | none => !p.comp.downMask.testBit (t - 4))
  else
    (e.map (·.2)) = r.worst.getD t none && (t ≠ 0 || e.isSome) && (t ≠ 2 || !hasTier p 2 || e.isSome) &&
      (t ≠ 3 || e.isSome = r.critical)

/-- The code from an entry on names no descriptor on a cluster (R169; log 162). -/
def downClean (g : SegImage) (entry c : Nat) : Bool :=
  (bundlesFrom g (3 * g.codeLen + 1) [entry] []).all fun n =>
    (bundleDescs (bundleAt g n)).all fun d => !(g.descs.any fun x => x.1 = c && x.2.1 = d)

/-- The down variants of a segment keep off their clusters. -/
def downOk (g : SegImage) (t : Nat) : Bool :=
  match g.entries.getD t none with
  | some e => decide (t < 4) || downClean g e.1 (t - 4)
  | none => true

def check5 (p : PlanImage) : Verdict :=
  (segsOf p).findSome? fun r =>
    match imgOf p r.seg with
    | some g => (List.range 12).findSome? fun t => if tierOk p r g t && downOk g t then none else bad 5 t r.seg 0
    | none => none

/-! Check 6: ranges (R122, R165, R197) -/

/-- A claim on a resource: resource and instance, first element, count, and the section that makes it, as its type less
0x0101 (log 59). -/
structure Claim where
  res : Nat
  inst : Nat
  base : Nat
  len : Nat
  sec : Nat
  deriving DecidableEq, Repr

/-- First and one past the last element that a plan may use: code bundles, data bytes, descriptor numbers, chains, scale
and bias registers, table words, pip positions, job slots, intake data in 256 bytes, bytes of a side store, and 512-byte
blocks of a slot's digital segment, whose bounds check 11 holds (07 R151). -/
def resLimit : Nat → Nat × Nat
  | 0 => (1024, 8192)
  | 1 => (0x4000, 0x20000)
  | 2 => (0, 2048)
  | 3 => (0, 64)
  | 4 | 5 => (0, 16384)
  | 6 => (0, 8192)
  | 7 => (0, 8)
  | 8 => (0, 16)
  | 9 => (0, 128)
  | 11 => (0, 65536)
  | _ => (0, 262144)

/-- What a segment claims. -/
def claims (g : SegImage) : List Claim :=
  let descs := dedupNat (g.descs.map (·.1))
  [⟨0, 0, g.codeBase, g.codeLen, 1⟩, ⟨1, 0, g.dataBase, g.dataLen, 2⟩] ++
  (descs.map fun c => ⟨2, c, g.descFirst, g.descCount, 3⟩) ++
  (g.chains.map fun x => ⟨3, x.cluster, x.num, 1, 7⟩) ++
  (g.banks.map fun b => ⟨4 + min 2 b.kind, b.cluster, b.base, b.values.length, 7⟩) ++
  (g.pips.map fun x => ⟨7, x.cluster, x.pos, 1, 8⟩) ++
  ((dedupNat ((g.descs.filter fun d => dKind d.2.2 = 2).map fun d => dJob d.2.2)).map fun j => ⟨8, 0, j, 1, 3⟩) ++
  (g.jobs.map fun j => ⟨9, j.engine, j.dataBase, j.dataLen, 9⟩) ++
  (g.side.map fun x => ⟨10, x.1, x.2.1, x.2.2, 6⟩) ++
  ((g.pips.filter (·.image.inPlace)).map fun x => ⟨11, x.cluster * 4 + x.slot, x.block, x.blocks, 8⟩)

def claimOk (c : Claim) : Bool :=
  c.len = 0 || decide ((resLimit c.res).1 ≤ c.base ∧ c.base + c.len ≤ (resLimit c.res).2)

def claimsMeet (a b : Claim) : Bool :=
  decide (a.res = b.res ∧ a.inst = b.inst ∧ 0 < a.len ∧ 0 < b.len ∧ a.base < b.base + b.len ∧ b.base < a.base + a.len)

/-- Bytes that a segment needs of a cluster's side store: outlier codebooks and codes, head masters and codes (R109, R111). -/
def sideBytes (g : SegImage) (c : Nat) : Nat :=
  ((g.objs.filter fun o => o.replica.testBit c).map fun o =>
    o.outliers.length * (16 + (o.N + 1) / 2) + (if o.head then 2 * o.K * o.N + (o.K * o.N + 1) / 2 else 0)).foldl (· + ·) 0

/-- The first range of a segment that lies outside its resource, leaves the segment's own ranges or meets another, of another
segment or, among pip positions, intake data and in-place footprints, of its own; or a side
store range that does not hold what the segment has there. -/
def rangeBad (p : PlanImage) (g : SegImage) : Option Nat :=
  let own := claims g
  let others := (p.segs.filter (·.hdr.segment ≠ g.hdr.segment)).flatMap claims
  if g.entries.any fun e => match e with
      | some x => decide (g.codeLen ≤ x.1)
      | none => false then some 0
  else
    match own.zipIdx.find? fun x => !claimOk x.1 || others.any (claimsMeet x.1) ||
        (decide (x.1.res = 7 ∨ x.1.res = 9 ∨ x.1.res = 11) && (own.zipIdx.any fun y => y.2 ≠ x.2 && claimsMeet x.1 y.1)) with
    | some x => some x.1.sec
    | none =>
      if g.descs.any fun d => !decide (g.descFirst ≤ d.2.1 ∧ d.2.1 < g.descFirst + g.descCount) then some 3
      else if (List.range 8).any fun c =>
          decide ((((g.side.filter (·.1 = c)).map (·.2.2)).foldl (· + ·) 0) < sideBytes g c) then some 6
      else none

def check6 (p : PlanImage) : Verdict :=
  (imgsOf p).findSome? fun g => (rangeBad p g).bind fun sec =>
    bad 6 0xFF g.hdr.segment (g.secs.findIdx fun t => t = 0x101 + sec)

/-! Check 7: placement (R83, R84) -/

/-- The blocks of an object form a grid whose heights and widths partition K and N, and each fits its pod (R83). -/
def gridOk (o : WObj) : Bool :=
  let at_ (i j : Nat) : Option Block := o.blocks.find? fun b => b.k = i && b.n = j
  let nk := (o.blocks.filter fun b => b.n = 0).length
  let nn := (o.blocks.filter fun b => b.k = 0).length
  let hs := (List.range nk).map fun i => ((at_ i 0).map (·.rows)).getD 0
  let ws := (List.range nn).map fun j => ((at_ 0 j).map (·.cols)).getD 0
  decide (1 ≤ o.blocks.length ∧ o.blocks.length ≤ 16 ∧ o.blocks.length = nk * nn ∧ o.K ≤ 8192 ∧ o.N ≤ 8192) &&
    decide (hs.foldl (· + ·) 0 = o.K ∧ ws.foldl (· + ·) 0 = o.N) &&
    ((List.range nk).all fun i => (List.range nn).all fun j =>
      match at_ i j with
      | some b => decide (b.rows = hs.getD i 0 ∧ b.cols = ws.getD j 0)
      | none => false) &&
    o.blocks.all fun b => decide (b.slot < 4 ∧ 1 ≤ b.rows ∧ b.rowOff + b.rows ≤ 1024 ∧ 8 ≤ b.cols ∧ b.cols % 8 = 0 ∧
      b.colOff % 8 = 0 ∧ b.colOff + b.cols ≤ 1024)

/-- A block of an object with its range settings. -/
structure Placed where
  obj : Nat
  seg : Nat
  mask : Nat
  b : Block
  rs : List Nat
  deriving DecidableEq, Repr

def placedOf (p : PlanImage) : List Placed :=
  p.segs.flatMap fun g => (g.objs.filter (!·.head)).flatMap fun o =>
    (o.blocks.zipIdx).map fun x => ⟨o.id, g.hdr.segment, o.replica, x.1, o.ranges.getD x.2 []⟩

/-- Two blocks on one pod that share a cell, or a column group with different range settings. -/
def placedClash (x y : Placed) : Bool :=
  let cols := decide (x.b.colOff < y.b.colOff + y.b.cols ∧ y.b.colOff < x.b.colOff + x.b.cols)
  let rows := decide (x.b.rowOff < y.b.rowOff + y.b.rows ∧ y.b.rowOff < x.b.rowOff + x.b.rows)
  decide (x.mask &&& y.mask ≠ 0 ∧ x.b.slot = y.b.slot) && cols &&
    (rows || (List.range 128).any fun g =>
      decide (x.b.colOff / 8 ≤ g ∧ g < (x.b.colOff + x.b.cols) / 8 ∧ y.b.colOff / 8 ≤ g ∧ g < (y.b.colOff + y.b.cols) / 8) &&
        decide (x.rs.getD (g - x.b.colOff / 8) 0 ≠ y.rs.getD (g - y.b.colOff / 8) 0))

/-- A block lies within the union of a party's pod allotment records. -/
def blockAllotted (recs : List (Nat × Nat × Nat × Nat × Nat × Nat)) (c : Nat) (b : Block) : Bool :=
  let rs := recs.filter fun r => r.1 = c && r.2.1 = b.slot
  (List.range (b.cols / 8)).all fun g => (List.range b.rows).all fun i =>
    rs.any fun r =>
      decide (r.2.2.1 ≤ b.rowOff + i ∧ b.rowOff + i < r.2.2.1 + r.2.2.2.1 ∧ r.2.2.2.2.1 ≤ b.colOff + 8 * g ∧
        b.colOff + 8 * g + 8 ≤ r.2.2.2.2.1 + r.2.2.2.2.2)

/-- Every block of an object lies within the party's allotment on every cluster of its replica group. -/
def objAllotted (env : AllotEnv) (party : Nat) (o : WObj) : Bool :=
  (maskClusters o.replica).all fun c => o.blocks.all fun b => blockAllotted (env.pods.getD party []) c b

/-- R83 and R84 on one object; a HEAD object is no placement of blocks, but no larger than 8,192 by 8,192 either. -/
def objPlaced (env : AllotEnv) (p : PlanImage) (g : SegImage) (o : WObj) : Bool :=
  let all := (placedOf p).zipIdx
  [1, 2, 4, 8].contains (maskCount o.replica) && decide (o.replica < 256 ∧ o.K ≤ 8192 ∧ o.N ≤ 8192) &&
    (o.head || (gridOk o && objAllotted env g.party o &&
      (all.filter fun x => x.1.obj = o.id && x.1.seg = g.hdr.segment).all fun x =>
        all.all fun y => y.2 = x.2 || !placedClash x.1 y.1))

def check7 (env : AllotEnv) (p : PlanImage) : Verdict :=
  (imgsOf p).findSome? fun g => g.objs.findSome? fun o => if objPlaced env p g o then none else bad 7 0xFF g.hdr.segment o.id

/-! Checks 8 and 9 -/

/-- R88 items 1 to 7 and R108 on one descriptor. -/
def State.descStatic (s : State) (g : SegImage) (d : List Byte) : Bool :=
  (dKind d = 1 || dKind d = 2) && descOk s g g.party d (dKind d) &&
    (match objOf g (dObj d) with
     | some o => !(dLenK d && o.transform ≠ 0)
     | none => false)

def State.check8 (s : State) (p : PlanImage) : Verdict :=
  (imgsOf p).findSome? fun g => g.descs.findSome? fun d =>
    if s.descStatic g d.2.2 then none else bad 8 0xFF g.hdr.segment d.2.1

/-- R114 on one chain. DESIGN CHOICE (log 197): words after the END step are not looked at. -/
def chainValid (g : SegImage) (ch : Chain) : Bool :=
  let ops := ch.steps.map fun w => stepBits w 0 8
  let act := ops.takeWhile (· ≠ 0)
  let count (o : Nat) : Nat := (act.filter (· = o)).length
  let q := act.findIdx (· = 5)
  decide (ops.length ≤ 8) && (ops.contains 0 || ops.length = 8) && decide (count 5 = 1) &&
    ([1, 2, 3, 4].all fun o => decide (count o ≤ 1)) &&
    (act.zipIdx.all fun x => decide (x.1 ≤ 7) &&
      (if x.1 ≤ 4 then decide (x.2 < q) else if x.1 = 5 then true else decide (q < x.2))) &&
    (!act.contains 7 ||
      (((ch.steps.getD q 0) |> fun w => decide (stepBits w 8 2 = 1)) &&
        (g.descs.filter fun d => d.1 = ch.cluster && dChain d.2.2 = ch.num).all fun d =>
          match objOf g (dObj d.2.2) with
          | some o => o.head
          | none => false))

def check9 (p : PlanImage) : Verdict :=
  (imgsOf p).findSome? fun g => g.chains.findSome? fun ch =>
    if chainValid g ch then none else bad 9 0xFF g.hdr.segment ch.num

/-! Checks 10 and 11: pips (R142 to R151, R197) -/

/-- Only DBNZ branches backward (R142). -/
def forwardOnly (code : List Word) : Bool :=
  code.all fun w =>
    let op := w.toNat / 67108864
    !(decide (0x30 ≤ op ∧ op ≤ 0x33) && w.toNat.testBit 13)

/-- A pip image is sound: CRC, kind, length, entry, branches (Table PIP-3, R142). -/
def pipImageOk (x : PipImage) (engine maxCode : Nat) : Bool :=
  x.crcOk && decide (x.engine = engine ∧ 1 ≤ x.code.length ∧ x.code.length ≤ maxCode ∧ x.entry < x.code.length) &&
    forwardOnly x.code

/-- R146 and R147 on one drain pip. -/
def drainPipOk (g : SegImage) (x : DrainPip) : Bool :=
  pipImageOk x.image 1 4096 && decide (1 ≤ x.d ∧ x.d ≤ 65535 ∧ x.phase < x.d ∧ 5 * x.image.budget ≤ 2 * x.runTime) &&
    (g.descs.any fun d => d.1 = x.cluster && d.2.1 = x.desc && dKind d.2.2 = 1 && !dOutPool d.2.2) &&
    decide ((g.pips.filter fun y => y.cluster = x.cluster && y.desc = x.desc).length ≤ 1)

/-- Run times of an engine's jobs in a tier. -/
def engineTime (p : PlanImage) (e t : Nat) : Nat :=
  (p.segs.filter fun g => t ≠ 3 || (p.comp.segs.any fun r => r.seg = g.hdr.segment && r.critical)).foldl (fun a g =>
    (g.jobs.filter (·.engine = e)).foldl (fun a j => a + j.runTime) a) 0

/-- The INTAKE parts of check 10: the least INTAKE length, then each engine's schedule. -/
def check10Intake (env : AllotEnv) (p : PlanImage) : Verdict :=
  if env.intake < p.comp.leastIntake * 1000 then bad 10 0xFF 0xFF 0xFFFF
  else (planTiers p).findSome? fun t => (List.range 4).findSome? fun e =>
    if engineTime p e t + 2000 ≤ env.intake then none else bad 10 t 0xFF 0xFFFF

/-- The fields of a job record lie in their ranges (09 Table SENSE-7; log 162). -/
def jobFieldsOk (j : IntakeJob) : Bool := decide (j.job < 64 ∧ j.engine < 4 ∧ 1 ≤ j.maxVec)

/-- The images and run times of check 10. -/
def check10Images (p : PlanImage) : Verdict :=
  (imgsOf p).findSome? fun g =>
    ((g.pips.zipIdx).findSome? fun x => if drainPipOk g x.1 then none else bad 10 0xFF g.hdr.segment x.2) <|>
    ((g.intakeImages.zipIdx).findSome? fun x =>
      if pipImageOk x.1 0 4096 && !x.1.inPlace then none else bad 10 0xFF g.hdr.segment x.2) <|>
    (g.jobs.findSome? fun j =>
      if !jobFieldsOk j then bad 10 0xFF g.hdr.segment j.image
      else if j.raw then none
      else
        match g.intakeImages[j.image]? with
        | some x => if x.budget * 5 ≤ j.runTime then none else bad 10 0xFF g.hdr.segment j.image
        | none => bad 10 0xFF g.hdr.segment j.image)

/-- KEEP at P_floor, ns, signed. -/
def keepAtFloor (env : AllotEnv) (p : PlanImage) : Int :=
  (p.comp.pFloor * 1000 : Nat) - (env.intake : Int) - (p.comp.publishLen * 500 : Nat) -
    (((segsOf p).map fun r => env.lengths.getD r.party 0).foldl (· + ·) 0 : Nat)

/-- R151 on one in-place image. `swapped` says that the load's own group swaps a slot of a cluster. -/
def xipOk (env : AllotEnv) (p : PlanImage) (swapped : Nat → Nat → Bool) (x : DrainPip) : Bool :=
  !x.image.inPlace ||
    (decide (x.blocks * 512 ≤ 16384 ∧ x.block + x.blocks ≤ 32 ∧ (pipBytesOf x.image).length ≤ x.blocks * 512 ∧
        40000 ≤ keepAtFloor env p) &&
      !swapped x.cluster x.slot && !(decide (8192 < x.blocks * 512 ∧ x.d = 1)))

def check11 (env : AllotEnv) (p : PlanImage) (swapped : Nat → Nat → Bool) : Verdict :=
  (imgsOf p).findSome? fun g => (g.pips.zipIdx).findSome? fun x =>
    if xipOk env p swapped x.1 then none else bad 11 0xFF g.hdr.segment x.2

/-! Checks 12 and 13 -/

/-- A fence entry is well formed and, when own, mapped (R167, R268, Table HOST-5). -/
def State.fenceEntryOk (s : State) (r : SegRec) (e : FenceE) : Bool :=
  match e.kind with
  | 0 => true
  | 1 => e.value % 8 = 0 && (((s.ctx r.ctx).bind fun x => physOf x e.value).isSome)
  | 2 => handleKind e.value = 1 && handleImporter e.value = r.party
  | 3 => handleKind e.value = 2 && handleImporter e.value = r.party
  | _ => false

def State.check12Fence (s : State) (p : PlanImage) : Verdict :=
  (segsOf p).findSome? fun r =>
    match imgOf p r.seg with
    | none => none
    | some g =>
      ((g.fences.zipIdx).findSome? fun x => if s.fenceEntryOk r x.1 then none else bad 12 0xFF r.seg x.2) <|>
      (g.advances.findSome? fun f =>
        match g.fences[f]? with
        | some e => if e.kind = 2 ∨ e.kind = 3 then bad 12 0xFF r.seg f else none
        | none => none)

/-- The CAN stream map's stream IDs (0x3C60:05). -/
def canStreams : Nat → List Byte → List (Nat × Nat)
  | 0, _ => []
  | n + 1, b => if b.length < 4 then [] else (field b 0 2, field b 2 2) :: canStreams n (b.drop 4)

def State.canMap (s : State) : List (Nat × Nat) := canStreams 16 (mget [] s.dict.doms 0x3C6005)

/-- R168 and R225 on one stream. -/
def State.streamOk (s : State) (party : Nat) (x : StreamD) : Bool :=
  let mask := if x.inclMask then x.maskLen else 0
  decide (x.payLen + x.maskLen ≤ 4056 ∧ 1 ≤ x.d ∧ x.d ≤ 65535 ∧ x.phase < x.d) &&
    (match s.ctx x.ctx with
     | some c => c.party = party && !c.revoking
     | none => false) &&
    s.mapped party x.ctx x.payAddr x.payLen && s.mapped party x.ctx x.maskAddr mask &&
    (match s.bindKind party with
     | 1 | 2 => x.dest = 0
     | 3 => x.dest = 1
     | 4 => x.dest = 2
     | _ => false) &&
    (x.dest ≠ 1 || (decide (x.payLen + mask ≤ 896) && s.canMap.any fun m => m.1 = x.id))

def State.check13 (s : State) (p : PlanImage) : Verdict :=
  let all := (imgsOf p).flatMap fun g => g.streams.map fun x => (g, x)
  (all.zipIdx).findSome? fun x =>
    if s.streamOk x.1.1.party x.1.2 && !((all.take x.2).any fun y => y.2.id = x.1.2.id) then none
    else bad 13 0xFF x.1.1.hdr.segment x.1.2.id

/-! Checks 14 to 19: what the Owner allots (R24, R25, R175) -/

/-- Every channel of a mask is granted to a party (R195). -/
def channelsGranted (env : AllotEnv) (party mask : Nat) : Bool :=
  (List.range 18).all fun i => !mask.testBit i || (env.grants.getD i 0).testBit party

/-- A party's allotment reaches the slot of an in-place image (log 162). -/
def slotAllotted (env : AllotEnv) (party : Nat) (x : DrainPip) : Bool :=
  (env.pods.getD party []).any fun r => r.1 = x.cluster && r.2.1 = x.slot

def check14 (env : AllotEnv) (p : PlanImage) : Verdict :=
  (segsOf p).findSome? fun r =>
    match imgOf p r.seg with
    | none => none
    | some g =>
      if env.windows.getD r.party 0xFF = r.window && decide (r.leastLen * 500 ≤ env.lengths.getD r.party 0) &&
          (g.objs.all fun o => o.head || objAllotted env r.party o) &&
          (g.pips.all fun x => !x.image.inPlace || slotAllotted env r.party x) &&
          (g.jobs.all fun j => channelsGranted env r.party j.channels) then none
      else bad 14 0xFF r.seg 0

def check15 (env : AllotEnv) (p : PlanImage) : Verdict :=
  ((segsOf p).findSome? fun r => (planTiers p).findSome? fun t =>
    if worstOf r t + 2000 ≤ env.lengths.getD r.party 0 then none else bad 15 t r.seg 0) <|>
  (if (dedupNat (p.comp.segs.map (·.window))).length = p.comp.segs.length then none else bad 15 0xFF 0xFF 0)

/-- The first inequality of R25 in each tier; the excess in 0.5 µs, rounded up. -/
def check16 (env : AllotEnv) (p : PlanImage) : Verdict :=
  (planTiers p).findSome? fun t =>
    let sum := env.intake + p.comp.publishLen * 500 + 25000 + ((segsOf p).map fun r => worstOf r t).foldl (· + ·) 0
    if sum ≤ 850 * p.comp.pFloor then none else bad 16 t 0xFF (ceilDiv (sum - 850 * p.comp.pFloor) 500)

/-- The second inequality of R25, the same in every tier, so T0 fails first. -/
def check17 (env : AllotEnv) (p : PlanImage) : Verdict :=
  let sum := env.intake + ((segsOf p).map fun r => env.lengths.getD r.party 0).foldl (· + ·) 0 + p.comp.publishLen * 500 +
    25000
  if sum ≤ 1000 * p.comp.pFloor then none else bad 17 0 0xFF (ceilDiv (sum - 1000 * p.comp.pFloor) 500)

/-- Currents against step 7, T3's against step 0, and each window's against its party's share (R334). -/
def check18 (env : AllotEnv) (p : PlanImage) : Verdict :=
  ((planTiers p).findSome? fun t =>
    let lim := if t = 3 then 750 else 6000
    if tierCurrent p t ≤ lim then none else bad 18 t 0xFF (ceilDiv (tierCurrent p t - lim) 10)) <|>
  ((segsOf p).findSome? fun r =>
    let lim := env.shares.getD r.party 0
    if r.current ≤ lim then none else bad 18 0xFF r.seg (ceilDiv (r.current - lim) 10))

def check19 (env : AllotEnv) (p : PlanImage) : Verdict :=
  if 125 ≤ p.comp.pFloor ∧ p.comp.pFloor ≤ 20000 ∧ p.comp.pFloor ≤ env.period then none else bad 19 0xFF 0xFF 0

/-- Checks 14 to 19 in order. -/
def checkAllot (env : AllotEnv) (p : PlanImage) : Verdict :=
  check14 env p <|> check15 env p <|> check16 env p <|> check17 env p <|> check18 env p <|> check19 env p

/-! Checks 20 and 21: pods and resources (R170 to R172) -/

/-- The slots whose pods do not hold what a plan needs, with the hash they need (R171). -/
def State.slotChanges (s : State) (p : PlanImage) : List (Nat × Nat × Nat) :=
  (List.range 8).flatMap fun c => (List.range 4).filterMap fun sl =>
    let h := slotHash p c sl
    if h = 0 ∨ (s.pod (s.slotPod c sl)).hash = h then none else some (c, sl, h)

/-- A cluster's spare can take part in an update group. -/
def State.usableSpare (s : State) (c : Nat) : Bool :=
  match s.spare c with
  | some i => s.usable i
  | none => false

/-- The pods to program in BULK, in ascending number, and the members of the update group. -/
def State.bulkOf (s : State) (p : PlanImage) : List (Nat × Nat) :=
  sortBy (·.1) ((s.slotChanges p).filterMap fun x => if s.clusterFree x.1 then some (s.slotPod x.1 x.2.1, x.2.2) else none)
def State.groupOf (s : State) (p : PlanImage) : List (Nat × Nat × Nat) :=
  (s.slotChanges p).filter fun x => !s.clusterFree x.1

/-- Check 20; a pod that its cycle count bars from programming cannot take new content (02 R53; log 152). -/
def State.check20 (s : State) (p : PlanImage) : Verdict :=
  (List.range 8).findSome? fun c =>
    let n := ((s.groupOf p).filter fun x => x.1 = c).length
    let worn := (s.bulkOf p).any fun x => x.1 / 5 = c && decide (10000 ≤ s.reg (podReg x.1 5))
    if !worn && decide (n = 0 ∨ (n = 1 ∧ s.usableSpare c)) then none else bad 20 0xFF 0xFF c

/-- Level-image bytes against the 256 MiB of DRAM beside the pool, heads against their 16 numbers, contexts with planned
work against the 48 slots (log 60). -/
def check21 (p : PlanImage) : Verdict :=
  let bytes : Nat := p.segs.foldl (fun a g => g.objs.foldl (fun a o => o.blocks.foldl (fun a b => a + b.rows * b.cols) a) a) 0
  let heads : Nat := p.segs.foldl (fun a g => a + (g.objs.filter (·.head)).length) 0
  if bytes ≤ 268435456 ∧ (planCtxs p).length ≤ 48 ∧ heads ≤ 16 then none else bad 21 0xFF 0xFF 0

/-- All checks that follow the synchronous ones, in the order of Table LDR-5. -/
def State.verifyPlan (s : State) (p : PlanImage) (ctx : Nat) : Verdict :=
  let env := s.allotForce
  let grp := s.groupOf p
  s.checkSegs12 p <|> check3 p <|> s.check4 p ctx <|> check5 p <|> check6 p <|> check7 env p <|> s.check8 p <|>
    check9 p <|> check10Intake env p <|> check10Images p <|>
    check11 env p (fun c sl => grp.any fun m => m.1 = c && m.2.1 = sl) <|> s.check12Fence p <|> s.check13 p <|>
    checkAllot env p <|> s.check20 p <|> check21 p

/-- What R175 repeats at activation: check 4, the INTAKE parts of check 10, checks 14 to 19. -/
def State.recheck (s : State) (p : PlanImage) (ctx : Nat) : Verdict :=
  s.check4 p ctx <|> check10Intake s.allotForce p <|> checkAllot s.allotForce p

end Sys2Proof.Machine
end

