-- ==== Sys2Proof/Machine/Loader.lean ====
section
/-! DEFINITION. The loader (08): requests, verification, activation at a boundary, unload, weight updates and
consolidation, and the heads that a plan carries (05 R111, R113). -/

namespace Sys2Proof.Machine

open Sys2Proof

/-! Who may load (18 R374, R380) -/

/-- The scrub of a RETURNED device is complete (R376). -/
def State.scrubDone (s : State) : Bool := s.sec.scrub = 4

/-- What lifecycle and debug say of a plan load or a page allotment for a party: DENIED in BLANK, in RETURNED but for
party 0 once the scrub is complete, and while OPEN stands. -/
def State.lifecycleBars (s : State) (p : Nat) : Bool :=
  s.sec.lifecycle = 0 || s.sec.debug = 2 || (s.sec.lifecycle = 3 && !(p = 0 && s.scrubDone))

/-! Requests -/

/-- LOAD_REQUEST: BUSY while anything is pending, then checks 1 and 2 on the composition, whose bytes stand at the address,
then OK, and verification goes on in the background (R158, R170). A refusal is reported at once (R178). The engine's first
check, that the context is the loading party's, answers DENIED (14 R282, Table POOL-2). -/
def State.loadOrder (s : State) (r : Req) (ctx addr : Nat) : State :=
  match s.bytesCheck r 0x4C20 1 12 with
    | .silent => s
    | .held => s
    | .status st =>
      if st ≠ stOk then s.wrote r 0x4C2001 st
      else if s.loader.pending.isSome then s.wrote r 0x4C2001 stBusy
      else if s.lifecycleBars r.party || s.ctxStatus r.party ctx = stDenied then s.wrote r 0x4C2001 stDenied
      else
        let img : PlanImage := ⟨readComp (s.imageBytes r.party ctx addr), []⟩
        match s.check12 img ctx addr with
        | some (sub, det) => (s.reportEnd pendLoad r.party stPlanRejected sub det).wrote r 0x4C2001 stPlanRejected
        | none =>
          let x : Pending := ⟨pendLoad, r.party, ctx, addr, some img, none, 0, false, []⟩
          ({ s with loader := { s.loader with pending := some x } }).wrote r 0x4C2001 stOk

def execLoadRequest (r : Req) (ctx addr : Nat) (s : State) : Out := .next (s.loadOrder r ctx addr)

/-- A weight update request (R179, R181): the checks follow in the background. An image whose pages are not mapped answers
NO_OBJECT (log 58), and another party's context DENIED (14 R282). -/
def State.updateOrder (s : State) (r : Req) (ctx addr : Nat) : State :=
  match s.bytesCheck r 0x4C24 1 12 with
    | .silent => s
    | .held => s
    | .status st =>
      if st ≠ stOk then s.wrote r 0x4C2401 st
      else if s.loader.pending.isSome then s.wrote r 0x4C2401 stBusy
      else if s.ctxStatus r.party ctx = stDenied then s.wrote r 0x4C2401 stDenied
      else if !s.mapped r.party ctx addr (max 64 (s.imageLength r.party ctx addr)) then s.wrote r 0x4C2401 stNoObject
      else
        let x : Pending := ⟨pendUpdate, r.party, ctx, addr, none, none, 0, false, []⟩
        ({ s with loader := { s.loader with pending := some x } }).wrote r 0x4C2401 stOk

def execUpdateRequest (r : Req) (ctx addr : Nat) (s : State) : Out := .next (s.updateOrder r ctx addr)

/-- The head number and target of a consolidate write. -/
def consHead (v : Nat) : Nat := v / 65536 % 16
def consTarget (v : Nat) : Nat := v % 65536

/-- CONSOLIDATE: the party that owns the head asks; the masters are taken at the next boundary (R180, R181). -/
def State.consolidateOrder (s : State) (r : Req) (v : Nat) : State :=
  let own :=
    if s.loader.pending.isSome then stBusy
    else if v ≥ 1048576 then stRange
    else if s.reg (okey (0x3310 + consHead v) 1) ≠ r.party then stDenied else stOk
  s.ordered r 0x4C24 2 v own fun s =>
    let x : Pending := ⟨pendCons, r.party, 0, 0, none, none, consTarget v, false, []⟩
    ({ s with loader := { s.loader with pending := some x } }).stage (.consolidate (consHead v) (consTarget v))

def execConsolidate (r : Req) (v : Nat) (s : State) : Out := .next (s.consolidateOrder r v)

/-- Programming in BULK for a load that ended stops; a pod in the middle of its program holds nothing known (R54). -/
def State.dropBulk (s : State) : State :=
  match s.loader.pending with
  | none => s
  | some x =>
    x.bulk.foldl (fun (s : State) b =>
      let busy := s.reg 0x300300 = b.1
      let s := if busy then s.setReg 0x300300 0xFF else s
      s.onPod b.1 fun p =>
        { p with fresh := false, mirror := 0xFF, calLeft := 0,
                 hash := if busy || decide (p.calLeft ≠ 0) || s.cal.verifyNext.any fun v => v.1 = b.1 then 0 else p.hash }) s

/-- ABORT: a pending load ends with ABORTED (R176). With none pending it changes nothing. -/
def State.abortOrder (s : State) (r : Req) (v : Nat) : State :=
  s.ordered r 0x4C20 2 v stOk fun s =>
    match s.loader.pending with
    | some x => if x.kind = pendLoad then (s.dropBulk.dropGroup).reportEnd pendLoad r.party stAborted 0 0 else s
    | none => s

def execAbort (r : Req) (v : Nat) (s : State) : Out := .next (s.abortOrder r v)

/-- UNLOAD: no segment runs from the next boundary on (R176). -/
def State.unloadOrder (s : State) (r : Req) (v : Nat) : State := s.ordered r 0x4C20 3 v stOk fun s => s.stage .unload

def execUnload (r : Req) (v : Nat) (s : State) : Out := .next (s.unloadOrder r v)

/-! Verification -/

/-- An object of the writer's segments in the plan in force. -/
def State.partyObj (s : State) (party obj : Nat) : Option (SegImage × WObj) :=
  s.loader.plan.bind fun p => (p.segs.filter (·.party = party)).findSome? fun g =>
    (objOf g obj).bind fun o => if o.head then none else some (g, o)

/-- The slots of an object, each once. -/
def objSlots (o : WObj) : List Nat := dedupNat (o.blocks.map (·.slot))

/-- The members of an update group for an object: its one slot in each cluster of its replica group, with the content
that the update leads to. -/
def groupMembers (p : PlanImage) (o : WObj) : List (Nat × Nat × Nat) :=
  (maskClusters o.replica).map fun c => (c, (objSlots o).headD 0, slotHash p c ((objSlots o).headD 0))

/-- R181 and check 20: one slot in each cluster, and a usable spare there. -/
def State.updateScope (s : State) (g : SegImage) (o : WObj) : Verdict :=
  if (objSlots o).length ≠ 1 then bad 20 0xFF g.hdr.segment ((maskClusters o.replica).headD 0)
  else (maskClusters o.replica).findSome? fun c => if s.usableSpare c then none else bad 20 0xFF g.hdr.segment c

/-- The checks of a weight update (R179): 1, 2, the object, its current hash, the lengths of its blocks, then 20. -/
def State.checkUpdate (s : State) (x : Pending) (u : UpdateImage) : Verdict :=
  if !hdrOk u.hdr 3 then bad 1 0xFF 0xFF u.hdr.badSection
  else if u.hdr.party ≠ x.party || !s.keyOk u.hdr then bad 2 0xFF 0xFF 0
  else if !s.ctxOk x.party x.ctx then bad 4 0xFF 0xFF x.ctx
  else
    match s.partyObj x.party u.objId with
    | none => bad 7 0xFF 0xFF u.objId
    | some (g, o) =>
      if o.hash ≠ u.curHash then bad 3 0xFF g.hdr.segment 0
      else if u.levels.length ≠ o.blocks.length ||
          ((o.blocks.zip u.levels).any fun b => b.2.length ≠ b.1.rows * b.1.cols) then bad 1 0xFF g.hdr.segment 1
      else s.updateScope g o

/-- The target of a consolidation: ANALOGUE, of the head's segment, at least as large, one slot in each cluster (R180). -/
def State.checkTarget (s : State) (x : Pending) (h : Head) : Verdict :=
  match s.partyObj x.party x.target with
  | none => bad 7 0xFF 0xFF x.target
  | some (g, o) =>
    if (objOf g h.obj).isNone ∨ o.K < h.K ∨ o.N < h.N then bad 7 0xFF g.hdr.segment x.target else s.updateScope g o

/-- The loader reads an image of some bytes through a context against its own party's share (R158, R160, R170). -/
def State.readImage (s : State) (party ctx length : Nat) : State :=
  (s.charge party ctx (ceilDiv length 64) false).traceDevice party stOk (unitDomain 1) ctx 0 (ceilDiv length 64) 0

/-- A refusal of what is pending. -/
def State.refusePending (s : State) (x : Pending) (v : Nat × Nat) : State :=
  (s.dropBulk.dropGroup).reportEnd x.kind x.party stPlanRejected v.1 v.2

/-- An accepted update or consolidation forms an update group (R57, R179). -/
def State.formGroup (s : State) (x : Pending) (obj newHash : Nat) (levels : List (List Byte)) : State :=
  match s.loader.plan, s.partyObj x.party obj with
  | some p, some (_, o) =>
    let m := groupMembers (swapLevels p x.party obj newHash levels) o
    let s := m.foldl (fun (s : State) y => s.claimSpare y.1) s
    { s with loader := { s.loader with
        pending := some { x with verified := true }, group := some ⟨x.kind, x.party, obj, newHash, m⟩ } }
  | _, _ => s

/-- The segment images of a composition, copied from where its records say (R158, R160); `aux` gives by segment what stands in
the parts without a layout (log 105). -/
def State.copySegs (s : State) (c : Composition) (aux : List (Nat × SegAux)) : PlanImage :=
  { comp := c,
    segs := c.segs.map fun r =>
      readSeg (s.readCtx r.party r.ctx r.addr r.length).2 (((aux.find? (·.1 = r.seg)).map (·.2)).getD SegAux.none_) }

/-- The weight update image of a request, its levels cut into the blocks of the object that it names (R179). -/
def State.copyUpdate (s : State) (x : Pending) : UpdateImage :=
  let b := s.imageBytes x.party x.ctx x.addr
  let sizes := match s.partyObj x.party (readUpdate b []).objId with
    | some (_, o) => o.blocks.map fun k => k.rows * k.cols
    | none => []
  readUpdate b sizes

/-- VERIFICATION_COMPLETE: the images are copied and the checks of Table LDR-5 made on what is pending. A verified load leaves
pods to program in BULK and an update group (R160, R171, R172, R177). -/
def execVerificationComplete (aux : List (Nat × SegAux)) (s : State) : Out :=
  .next (match s.loader.pending with
    | none => s
    | some x =>
      if x.verified then s
      else
        match x.plan, x.update with
        | some q, _ =>
          let p := s.copySegs q.comp aux
          let s := p.comp.segs.foldl (fun (s : State) g => s.readImage g.party g.ctx g.length)
            (s.readImage x.party x.ctx p.comp.hdr.length)
          match s.verifyPlan p x.ctx with
          | some v => s.refusePending x v
          | none =>
            let m := s.groupOf p
            let s := m.foldl (fun (s : State) y => s.claimSpare y.1) s
            { s with loader := { s.loader with
                pending := some { x with plan := some p, verified := true, bulk := s.bulkOf p },
                group := if m.isEmpty then none else some ⟨pendLoad, 0, 0, 0, m⟩ } }
        | none, some u => s.formGroup x u.objId u.newHash u.levels
        | none, none =>
          if x.kind ≠ pendUpdate then s
          else
            let u := s.copyUpdate x
            let s := s.readImage x.party x.ctx u.hdr.length
            match s.checkUpdate x u with
            | some v => s.refusePending x v
            | none => s.formGroup { x with update := some u, target := u.objId } u.objId u.newHash u.levels)

/-! Heads (R111, R113, R174, R176) -/

/-- The head that a HEAD object of a new plan continues or begins, with version, saturations and learning command. DESIGN CHOICE
(log 196): a HEAD object of any size and format is computed, and with a replica mask of several clusters they share one head, which
shows the lowest of them; R111 gives the head's bounds and no check that holds an object to them. -/
def State.newHead (s : State) (party : Nat) (o : WObj) : Head × Nat × Nat × Nat :=
  let c := (maskClusters o.replica).headD 0
  let fresh : Head := ⟨o.id, party, c, o.K, o.N, o.learnOk, o.masters, o.masters, o.masters.map headCode, o.masters, o.hash⟩
  match s.heads.zipIdx.find? fun x => decide (0 < x.1.K) && x.1.party = party && x.1.obj = o.id with
  | none => (fresh, 0, 0, 0)
  | some (h, n) =>
    let k := 0x3310 + n
    let live := s.loader.plan.isSome
    let ver := (s.reg (okey k 5) + 1) % 4294967296
    if h.hash = o.hash then
      ({ h with cluster := c, learnOk := o.learnOk }, if live then s.reg (okey k 5) else ver, s.reg (okey k 6),
        s.reg (okey k 3))
    else if live then (fresh, ver, s.reg (okey k 6), s.reg (okey k 3))
    else (fresh, 0, 0, 0)

/-- The entries of a head number. -/
def State.putHeadRegs (s : State) (n : Nat) (x : Option (Head × Nat × Nat × Nat)) : State :=
  let k := 0x3310 + n
  match x with
  | some (h, ver, sat, cmd) =>
    ((((s.setReg (okey k 1) h.party).setReg (okey k 2) h.cluster).setReg (okey k 3) cmd).setReg (okey k 5) ver).setReg
      (okey k 6) sat
  | none =>
    (((((s.setReg (okey k 1) 0xFF).setReg (okey k 2) 0).setReg (okey k 3) 0).setReg (okey k 4) 0).setReg (okey k 5) 0).setReg
      (okey k 6) 0

/-- The heads of a new plan take numbers 0 upwards in ascending segment (log 61). -/
def State.setHeads (s : State) (p : PlanImage) : State :=
  let hs := ((imgsOf p).flatMap fun g => (g.objs.filter (·.head)).map fun o => s.newHead g.party o).take 16
  let s := (List.range 16).foldl (fun (s : State) n => s.putHeadRegs n hs[n]?) s
  { s with heads := s.heads.zipIdx.map fun x => (hs[x.2]?).elim Head.blank (·.1) }

/-- At a boundary the codes of every head follow its masters; a head whose codes change has a new version. Learning is
effective when commanded and allowed, in T0 and T1; the mirror is rewritten every 4,096 frames (R112, R113, R396). -/
def State.headBoundary (s : State) : State :=
  if s.loader.plan.isNone then s
  else
    (List.range 16).foldl (fun (s : State) n =>
      let h := s.heads.getD n Head.blank
      if h.K = 0 then s
      else
        let cs := h.masters.map headCode
        let s := if cs = h.codes then s else s.bump (okey (0x3310 + n) 5)
        let on := h.learnOk && s.inForce (okey (0x3310 + n) 3) = 1 && decide (s.tier ≤ 1)
        let s := s.setReg (okey (0x3310 + n) 4) (if on then 1 else 0)
        let mir := if s.frame.number % 4096 = 0 then h.masters else h.mirror
        { s with heads := setAt s.heads n { h with codes := cs, mirror := mir } }) s

/-! Activation (R173 to R175) -/

/-- The segments whose image is new or changed. -/
def changedSegs (old : Option PlanImage) (p : PlanImage) : List Nat :=
  (p.segs.filter fun g => match old.bind fun o => o.segs.find? (·.hdr.segment = g.hdr.segment) with
    | some x => x.hash ≠ g.hash
    | none => true).map (·.hdr.segment)

/-- The segments of the old plan that end or change: their jobs end. -/
def goneSegs (old : Option PlanImage) (p : PlanImage) : List SegImage :=
  match old with
  | some o => o.segs.filter fun g => match p.segs.find? (·.hdr.segment = g.hdr.segment) with
      | some x => x.hash ≠ g.hash
      | none => true
  | none => []

/-- The pooled job in a slot that a segment's descriptors name: no two segments name one slot (R165). -/
def State.segJob (s : State) (g : SegImage) (j : Nat) : Bool :=
  (s.jobState j = 1 || s.jobState j = 2) &&
    g.descs.any fun d => d.2.1 = (s.job j).desc && dKind d.2.2 = 2 && dJob d.2.2 = j

/-- End the pooled jobs of segments with ABORTED (R174, R176). -/
def State.abortJobs (s : State) (gs : List SegImage) : State :=
  (List.range 16).foldl (fun (s : State) j => if gs.any fun g => s.segJob g j then s.endJob j 4 else s) s

/-- Data memory: unchanged segments keep theirs, the others start from their DATA sections, zero beyond (R173). -/
def dataMemory (old : List Host.Cell) (p : PlanImage) (changed : List Nat) : List Host.Cell :=
  let keep := old.filter fun x => p.segs.any fun g =>
    !changed.contains g.hdr.segment && decide (g.dataBase ≤ x.1 ∧ x.1 < g.dataBase + g.dataLen)
  (p.segs.filter fun g => changed.contains g.hdr.segment).foldl (fun m g => writeCells m g.dataBase (g.data.take g.dataLen)) keep

/-- Intake data ranges of changed segments are zeroed (09 R199). -/
def State.zeroIntake (s : State) (p : PlanImage) (changed : List Nat) : State :=
  let js := (p.segs.filter fun g => changed.contains g.hdr.segment).flatMap (·.jobs)
  (List.range 4).foldl (fun (s : State) e => s.onPip e fun x =>
    { x with data := x.data.filter fun d => !(js.any fun j => j.engine = e &&
        decide (j.dataBase * 256 ≤ d.1 ∧ d.1 < (j.dataBase + j.dataLen) * 256)) }) s

/-- Descriptor tables and bank registers of every walker (R85, R115). -/
def State.loadWalkers (s : State) (p : Option PlanImage) : State :=
  let gs := (p.map (·.segs)).getD []
  { s with walkers := (s.walkers.zipIdx).map fun x =>
      { x.1 with
        descs := gs.flatMap fun g => (g.descs.filter fun d => d.1 = x.2).map fun d => (d.2.1, d.2.2),
        banks := gs.flatMap fun g => (g.banks.filter fun b => b.cluster = x.2).flatMap fun b =>
          (b.values.zipIdx).map fun v => (b.kind, b.base + v.2, v.1) } }

/-- Cache ways of each party (R100). DESIGN CHOICE (log 192): what the ways hold stays in them, so that a line may hit for the party
that its way goes to; the spec does not say that a plan load empties them. -/
def State.setWays (s : State) (p : Option PlanImage) : State :=
  let ps := match p with
    | some x => (List.range 16).filter fun q => x.segs.any fun g => g.party = q
    | none => []
  (List.range 16).foldl (fun (s : State) q => s.setReg (pkey q 0x322001) (shareOut 16 ps q)) s

/-- The execute-in-place flags of the pods, the images loaded and the in-place location of each cluster (0x3040:09,
0x3340:01, 0x3340:02). -/
def State.refreshXip (s : State) : State :=
  (List.range 8).foldl (fun (s : State) c =>
    let at_ := (List.range 4).filter fun sl => !(s.inPlaceAt c sl).isEmpty
    let n := (s.loader.plan.map fun p => (p.segs.flatMap fun g => g.pips.filter (·.cluster = c)).length).getD 0
    let s := s.setReg (okey (0x3340 + c) 1) n
    let s := (List.range 5).foldl (fun (s : State) k =>
      s.setReg (podReg (5 * c + k) 9) (if at_.any fun sl => s.slotPod c sl = 5 * c + k then 1 else 0)) s
    let loc := if !(s.clu c).shadow.isEmpty then 0xFE else
      match at_ with
      | sl :: _ => if (s.clu c).noSource.contains sl then 0xFF else s.slotPod c sl
      | [] => 0xFF
    s.setReg (okey (0x3340 + c) 2) loc) s

/-- The ranges of the pods that hold a plan's objects (R42). -/
def State.setRanges (s : State) (p : PlanImage) : State :=
  (List.range 32).foldl (fun (s : State) i =>
    let r := slotRanges p (i / 4) (i % 4)
    if r.isEmpty then s else s.onPod (s.slotPod (i / 4) (i % 4)) fun x => { x with ranges := r }) s

/-- The own fences of a plan that are not yet registered are registered; none, with the entry, when one does not fit
(R268). -/
def State.planFences (s : State) (p : PlanImage) : Except (Nat × Nat) State :=
  let all := (segsOf p).flatMap fun r => match imgOf p r.seg with
    | some g => ((g.fences.zipIdx).filter fun x => x.1.kind = 1).map fun x => (r, x.2, x.1.value)
    | none => []
  all.foldl (fun q x =>
    match q with
    | .error e => .error e
    | .ok s =>
      if (s.ownFence x.1.party x.1.ctx x.2.2).isSome then .ok s
      else
        match s.registerFence x.1.party x.1.ctx x.2.2 with
        | (st, _, t) => if st = stOk then .ok t else .error (x.1.seg, x.2.1)) (.ok s)

/-- Entries of the active plan (0x4C22, 0x4C04:03). -/
def State.planRegs (s : State) (p : Option PlanImage) : State :=
  match p with
  | some x => (((s.setReg 0x4C2201 x.comp.hdr.planId).setReg 0x4C2202 x.comp.hdr.revision).setReg 0x4C2204
      x.comp.downMask).setReg 0x4C0403 x.comp.pFloor
  | none => (((s.setReg 0x4C2201 0).setReg 0x4C2202 0).setReg 0x4C2204 0).setReg 0x4C0403 0

/-- A cluster that holds no in-place image outside its pods, and none buffered (07 R150, R152). -/
def Cluster.noImages (x : Cluster) : Cluster :=
  { x with shadow := [], noSource := [], setDown := [], landing := [], unlifted := [], lifting := none, fetched := [],
           fetch := none, reading := none }

/-- Two plans, if any, run the same images in place on a cluster. -/
def sameInPlace (old : Option PlanImage) (p : PlanImage) (c : Nat) : Bool :=
  old.any fun o => (List.range 4).all fun sl => (slotPips o c sl).map (·.2) = (slotPips p c sl).map (·.2)

/-- A plan comes into force: data memory, intake data, walkers, heads, ways, residency, fences, entries (R173, R174). -/
def State.install (s : State) (p : PlanImage) (changed : List Nat) : State :=
  let s := (s.setHeads p).zeroIntake p changed
  let old := s.loader.plan
  let s := (List.range 8).foldl (fun (s : State) c =>
    if sameInPlace old p c then s else (s.onClu c Cluster.noImages).setReg (okey (0x3340 + c) 3) 0) s
  let s := s.onCore fun c => { c with dmem := dataMemory c.dmem p changed }
  let s : State := { s with loader := { s.loader with plan := some p, idleSegs := 0 } }
  let s := ((s.loadWalkers (some p)).setWays (some p)).setRanges p
  let s : State := { s with pods := s.pods.map fun x => if x.fresh then { x with fresh := false, mirror := 0xFF } else x }
  ((s.planRegs (some p)).reshare.refreshXip).bump 0x4C2205

/-- A load takes effect at a boundary. -/
def State.activate (s : State) (p : PlanImage) : State :=
  let old := s.loader.plan
  let s := (s.abortJobs (goneSegs old p)).install p (changedSegs old p)
  let s : State := { s with loader := { s.loader with group := none } }
  s.spoilScrub.reportEnd pendLoad 0 stOk 0 0

/-- Staged swaps and what is pending, at a tick: a load activates with its group's swaps, or when no pod is left to
program; a weight update takes effect with its swaps; a failing check refuses the load (R173, R175, R179). -/
def State.planBoundary (s : State) : State :=
  let staged := s.groupStaged
  match s.loader.pending with
  | some x =>
    if !x.verified then s.doSwaps
    else
      match x.plan with
      | some p =>
        if x.bulk.isEmpty && (staged || s.loader.group.isNone) then
          match s.recheck p x.ctx with
          | some v => (s.refusePending x v).doSwaps
          | none =>
            match s.planFences p with
            | .error e => (s.refusePending x (12, detailWord 0xFF e.1 e.2)).doSwaps
            | .ok t => t.doSwaps.activate p
        else s.doSwaps
      | none =>
        if staged then
          match s.nextPlan with
          | some p =>
            let t := s.doSwaps
            let t : State := { t with loader := { t.loader with plan := some p, group := none } }
            t.reportEnd x.kind x.party stOk 0 0
          | none => s.doSwaps
        else s.doSwaps
  | none => s.doSwaps

/-- The unload at a boundary (R176): no segment runs, jobs end, heads' masters are saved, no ways are held, residency is
divided anew, data memories are discarded, and a refresh or calibration that runs on a spare stops. Contexts, fences,
allotments and bindings stay. A pending weight update has no object any longer and ends ABORTED (log 62). -/
def State.unloadPlan (s : State) : State :=
  match s.loader.plan with
  | none => s
  | some p =>
    let s := (List.range 8).foldl State.claimSpare (s.abortJobs p.segs)
    let s := match s.loader.pending with
      | some x => if x.kind = pendLoad then s else (s.dropGroup).reportEnd x.kind x.party stAborted 0 0
      | none => s
    let s := s.onCore fun c => { c with dmem := [] }
    let s : State := { s with
      loader := { s.loader with plan := none, idleSegs := 0 },
      pips := (s.pips.zipIdx).map fun x => if x.2 < 12 then { x.1 with data := [] } else x.1,
      clusters := s.clusters.map Cluster.noImages }
    let s := (s.loadWalkers none).setWays none
    let s := (List.range 8).foldl (fun (s : State) c => s.setReg (okey (0x3340 + c) 3) 0) s
    let s := (List.range 16).foldl (fun (s : State) n =>
      ((s.setReg (okey (0x3310 + n) 1) 0xFF).setReg (okey (0x3310 + n) 2) 0).setReg (okey (0x3310 + n) 4) 0) s
    ((s.planRegs none).reshare).refreshXip

/-- The masters are taken at a boundary and become the target's levels, zero outside the head (R180). -/
def State.takeMasters (s : State) (hn : Nat) : State :=
  match s.loader.pending with
  | none => s
  | some x =>
    if x.kind ≠ pendCons ∨ x.update.isSome then s
    else
      let h := s.heads.getD hn Head.blank
      match s.checkTarget x h, s.partyObj x.party x.target with
      | some v, _ => s.refusePending x v
      | none, none => s
      | none, some (g, o) =>
        let w (i j : Nat) : Int :=
          if i < h.K ∧ j < h.N then clampI (-15) 15 (rshr (h.masters.getD (i * h.N + j) 0) 11) else 0
        let levels := o.blocks.map fun b =>
          let r0 := (((kBlocks o b.n).find? fun y => y.2.k = b.k).map (·.1)).getD 0
          let c0 := (((nBlocks o).find? fun y => y.1 = b.n).map (·.2.1)).getD 0
          (List.range (b.rows * b.cols)).map fun q =>
            BitVec.ofNat 8 (weightLevel (w (r0 + q / b.cols) (c0 + q % b.cols)))
        let u : UpdateImage := ⟨g.hdr, x.target, o.hash, levelHash levels, levels⟩
        { s with loader := { s.loader with pending := some { x with update := some u } } }

/-! The loader's entries as they read (Table LDR-6) -/

/-- Pods that the pending load or update still has to program. -/
def State.podsToProgram (s : State) : Nat :=
  let bulk := (s.loader.pending.map (·.bulk.length)).getD 0
  let grp := (s.loader.group.map fun g => (g.members.filter fun m => match s.spare m.1 with
    | some sp => !((s.pod sp).fresh && (s.reg (podReg sp 3) = 3 || s.reg (podReg sp 3) = 4))
    | none => true).length).getD 0
  bulk + grp

/-- IDLE, VERIFYING, PROGRAMMING, READY or STAGED, for a load or for an update. -/
def State.loadState (s : State) (load : Bool) : Nat :=
  match s.loader.pending with
  | none => 0
  | some x =>
    if (x.kind = pendLoad) ≠ load then 0 else if !x.verified then 1 else if s.podsToProgram = 0 then 3 else 2

end Sys2Proof.Machine
end

