-- ==== Sys2Proof/Machine/Pool.lean ====
section
/-! DEFINITION. The shared pool's operations (14): the checks of Table POOL-2 in their order, reads, writes, holds and
leases, chaff, atomics, fences, near-memory operations and grants. -/

namespace Sys2Proof.Machine

open Sys2Proof

/-! Naming a range (R279 to R281) -/

/-- A range of a context, named directly or through a grant, from an address of the context. -/
structure Range where
  ctx : Ctx
  grant : Option Grant
  base : Nat
  deriving DecidableEq, Repr

/-- A failed check of Table POOL-2: its order and status. -/
abbrev Fail := Nat × Nat

def grantHandle (g : Grant) : Nat := handleOf 3 g.src g.importer g.idx g.gen

/-- The live grant behind a handle presented by a party: another party's handle is DENIED, an invalidated one REVOKED,
one that was never issued NO_OBJECT. -/
def State.grantOf (s : State) (p h : Nat) : Except Fail Grant :=
  if handleKind h ≠ 3 ∨ handleImporter h ≠ p then .error (1, stDenied)
  else if s.pool.dead.contains h then .error (2, stRevoked)
  else
    match s.pool.grants.find? fun g => g.live && grantHandle g = h with
    | some g => .ok g
    | none => .error (1, stNoObject)

/-- Checks 1 and 2 of Table POOL-2: whose range it is and whether it stands. A context of the requester's that has been freed is
NO_OBJECT (R275), any other that does not exist is nobody's. Party 0 may name any context in a CLEAR. -/
def State.locate (s : State) (p ctx addr handle : Nat) (clear : Bool) : Except Fail Range :=
  if ctx ≠ 0xFFFF then
    match s.ctx ctx with
    | none => .error (1, if mget noParty s.pool.former ctx = p then stNoObject else stDenied)
    | some c =>
      if c.party ≠ p && !(clear && p = 0) then .error (1, stDenied)
      else if c.revoking then .error (2, stRevoked)
      else if handle ≠ 0 then .error (3, stBadType)
      else .ok ⟨c, none, addr⟩
  else
    match s.grantOf p handle with
    | .error e => .error e
    | .ok g =>
      match s.ctx g.ctx with
      | some c => if c.revoking then .error (2, stRevoked) else .ok ⟨c, some g, g.addr + addr⟩
      | none => .error (2, stRevoked)

/-- Checks 4 and 5: mapped, inside the grant, and writable where the operation writes. -/
def reach (rg : Range) (n : Nat) (write : Bool) : Option Fail :=
  let outside := match rg.grant with
    | some g => decide (g.addr + g.pages * 4096 < rg.base + n)
    | none => false
  let pages := (List.range ((rg.base + n + 4095) / 4096 - rg.base / 4096)).map fun i => pageOf rg.ctx (rg.base / 4096 + i)
  if outside then some (4, stRange)
  else if pages.any (·.isNone) then some (4, stNoObject)
  else if write && (pages.any (fun x => x.any fun y => !y.2) || rg.grant.any fun g => !g.write) then some (5, stDenied)
  else none

/-- The physical addresses of n bytes of a range whose pages are mapped. -/
def addrsOf (rg : Range) (n : Nat) : List Nat := (physRange rg.ctx rg.base n).getD []

/-- What a request finds when its context is not resident (R263): it waits, or BUSY after 100 ms, or LIMIT at once. -/
inductive Resid where
  | resident
  | waits
  | refused (st : Nat)
  deriving DecidableEq, Repr

def State.residency (s : State) (c : Ctx) : Resid :=
  if c.resident then .resident
  else if s.shareShut c.party then .refused stLimit
  else
    match s.waitingSince c.num with
    | some t => if t + 100000000 ≤ s.now then .refused stBusy else .waits
    | none => .waits

/-- The waiting of a context's request has ended. -/
def State.dropWait (s : State) (c : Nat) : State :=
  { s with pool := { s.pool with resWait := s.pool.resWait.filter fun w => w.2.1 ≠ c } }

/-! The course of an operation (R282, R283, R297 to R302) -/

/-- What the device as a whole says of a pool request (R339, R387, R389): none when it may go on. -/
def State.poolServe (s : State) : Option Nat :=
  if s.husk.recovery then some stNotReady
  else if s.husk.safeAt.isSome then some stThermal
  else
    match s.husk.power with
    | .sprout => some stNotReady
    | .safe => some stThermal
    | _ => none

/-- No pool request is answered: powered off, stopped, or stopped by an uncorrectable error (R323). -/
def State.poolMute (s : State) : Bool :=
  (s.husk.power = .off && !s.husk.recovery) || s.husk.xtalStopped || !s.husk.supply || s.pool.closed

/-- The load of the pool engine: a sixteenth of its 256 slots occupied, which hold the pool requests accepted and not yet
answered (R302; log 63). -/
def State.poolLoad (s : State) : Nat := min 15 ((s.net.accepted.filter fun m => field m.2.2.1 1 1 = 2).length / 16)

/-- Answer a pool request. -/
def State.poolAnswer (s : State) (r : Req) (op st : Nat) (data : List Byte) : State :=
  s.respond r 2 op st s.poolLoad (s.creditField r.party) data

/-- A request waits for its turn: behind the pool requests of its party that arrived before it and are still to be accepted, and,
with ORDERED, behind every earlier request of its party that has not completed (R298). -/
def State.orderedWaits (s : State) (r : Req) (x : PoolReq) : Bool :=
  let mine := s.net.accepted.filter fun m => m.2.1 = r.party && field m.2.2.1 1 1 = 2
  !(mine.takeWhile fun m => !(m.1 = r.port && field m.2.2.1 8 4 = r.seq)).isEmpty ||
    (x.flags.testBit 0 && (s.pnet r.party).progress.contains r.seq &&
      !((s.pnet r.party).progress.takeWhile (· ≠ r.seq)).isEmpty)

/-- The switch has passed a request on (R207): it waits for the engine. -/
def State.passed (s : State) (r : Req) : Bool :=
  s.net.accepted.any fun m => m.1 = r.port && m.2.1 = r.party && field m.2.2.1 1 1 = 2 && field m.2.2.1 8 4 = r.seq

/-- The engine refuses at check 1 what the switch passed: DENIED, and a CHECK record names the engine (R282). -/
def State.tablesDiffer (s : State) (r : Req) (x : PoolReq) (f : Fail) : State :=
  if f.1 = 1 ∧ f.2 = stDenied ∧ r.port < 2 ∧ s.passed r = true then
    let rec_ := s.mkRec clsCheck 6 (unitPool 0) r.party x.ctx
    s.raise { rec_ with ctx := x.ctx % 4096 }
  else s

/-- An operation that was accepted: what it answers, how many lines it moved, what follows; or the status of check 8. -/
abbrev Done := Except Nat (Nat × Nat × List Byte × State)

/-- The trace kind of a pool operation (Table TEST-4). -/
def poolKind (op : Nat) : Nat :=
  if op = 0x0101 then 1 else if op = 0x0102 then 2 else if op < 0x0110 then 4 else if op < 0x0120 then 3
  else if op < 0x0130 then 5 else 6

/-- An operation is traced for its requester (20 R414), from the port it came by. -/
def State.tracePool (s : State) (r : Req) (op : Nat) (x : PoolReq) (st lines : Nat) : State :=
  s.traceOut ⟨poolKind op, r.party, false, false, st, unitPort r.port, if x.ctx = 0xFFFF then handleSrc x.handle else x.ctx,
    x.addr, lines, op, false⟩

/-- CLEAR, FENCE_ADVANCE and GRANT are always DENIED through a grant (R280). -/
def neverGranted (op : Nat) : Bool := [0x0106, 0x0113, 0x0130].contains op

/-- REDUCE is in neither right of a grant (R280): check 5. -/
def ownOnly (op : Nat) : Bool := decide (op = 0x0123)

/-- What checks 1 and 2 say of the ranges of an operation. -/
def earlyFails (op : Nat) (rs : List (Except Fail Range × Nat × Bool)) : List Fail :=
  rs.filterMap fun q => match q.1 with
    | .error f => if f.1 ≤ 2 then some f else none
    | .ok g => if neverGranted op && g.grant.isSome then some (2, stDenied) else none

/-- One operation on the ranges it names: checks 1 to 8 in order, the charge to the requester, the answer. `rs` are the
ranges with their bytes and whether they are written. -/
def State.poolRun (s : State) (r : Req) (op : Nat) (x : PoolReq) (argsOk : Bool)
    (rs : List (Except Fail Range × Nat × Bool)) (act : List Range → State → Done) : State :=
  if s.poolMute || s.orderedWaits r x then s
  else
    match s.poolServe with
    | some st => (s.tracePool r op x st 0).poolAnswer r op st []
    | none =>
      match (sortBy (·.1) (earlyFails op rs)).head? with
      | some f => ((s.tablesDiffer r x f).tracePool r op x f.2 0).poolAnswer r op f.2 []
      | none =>
        if !argsOk || x.flags ≥ 2 || rs.any (fun q => match q.1 with
            | .error _ => true
            | .ok _ => false) then (s.tracePool r op x stBadType 0).poolAnswer r op stBadType []
        else
          let gs := rs.filterMap fun q => match q.1 with
            | .ok g => some (g, q.2.1, q.2.2)
            | .error _ => none
          match (sortBy (·.1) (gs.filterMap fun g => reach g.1 g.2.1 g.2.2 <|>
              if ownOnly op && g.1.grant.isSome then some (5, stDenied) else none)).head? with
          | some f => (s.tracePool r op x f.2 0).poolAnswer r op f.2 []
          | none =>
            match gs.findSome? fun g => match s.residency g.1.ctx with
                | .resident => none
                | q => some (g.1.ctx, q) with
            | some (c, .refused st) => ((s.dropWait c.num).tracePool r op x st 0).poolAnswer r op st []
            | some (c, _) => s.awaitResidency c.party c.num
            | none =>
              if !s.credit r.party then (s.tracePool r op x stLimit 0).poolAnswer r op stLimit []
              else
                match act (gs.map (·.1)) s with
                | .error st => (s.tracePool r op x st 0).poolAnswer r op st []
                | .ok (st, lines, data, t) =>
                  let t := gs.foldl (fun (t : State) g => t.touch g.1.ctx.num) t
                  ((t.charge r.party x.ctx lines false).tracePool r op x st lines).poolAnswer r op st data

/-- Operations on one range. -/
def State.poolOne (s : State) (r : Req) (op : Nat) (x : PoolReq) (argsOk : Bool) (n : Nat) (write : Bool)
    (act : Range → State → Done) : State :=
  s.poolRun r op x argsOk [(s.locate r.party x.ctx x.addr x.handle (op = 0x0106), n, write)] fun gs s =>
    match gs with
    | g :: _ => act g s
    | [] => .error stNoObject

/-- The range of a prefix lies in the 40-bit address space. -/
def inSpace (x : PoolReq) (n : Nat) : Bool := decide (x.addr + n ≤ 1099511627776)

/-! READ and WRITE (R285) -/

/-- POOL_READ: the bytes as the requester sees them, with OK, CHAFF or HELD (R287, R291). `ecc` is what DRAM showed;
an uncorrectable line gives the requester no data (R323). -/
def execPoolRead (r : Req) (x : PoolReq) (ecc : Ecc) (s : State) : Out :=
  let t := s.poolOne r 0x0101 x
    (x.opFlags = 0 && x.args.isEmpty && decide (1 ≤ x.count ∧ x.count ≤ 1024 ∧ x.count ≤ s.payloadLimit r.port) &&
      inSpace x x.count) x.count false fun g s =>
    let as := addrsOf g x.count
    let s := s.eccRead ecc ((as.headD 0) / 64) r.party
    .ok (s.readStatus r.party (linesOf as), (linesOf as).length, as.map (s.peek r.party), s)
  .next (match t.pool.closed && !s.pool.closed, t.husk.ueLine with
    | true, some l => s.memFailed l r.party
    | _, _ => t)

/-- A write of a producer index to a doorbell line (R264): an index more than E beyond the last completed command is
ignored and counted; a context that is not resident is asked for, or its commands answer LIMIT at once (R263). -/
def State.ringOne (s : State) (c : Ctx) (q : Queue) (v : Nat) : State :=
  if c.revoking then s
  else if q.entries < (v + 4294967296 - q.completed) % 4294967296 then
    s.onQueue c.num q.num fun y => { y with ignored := y.ignored + 1 }
  else
    let s := (s.onQueue c.num q.num fun y => { y with prod := v }).traceOut
      ⟨0x30, c.party, false, false, stOk, unitPool 0, c.num, q.bell, 1, q.num, false⟩
    if c.resident then s
    else if s.shareShut c.party then s.refuseQueues c.num stLimit
    else s.awaitResidency c.party c.num

/-- Ring every queue whose doorbell word was written. -/
def State.doorbells (s : State) (p : Nat) (as : List Nat) : State :=
  (s.pool.ctxs.filter (·.party = p)).foldl (fun (s : State) c => c.queues.foldl (fun (s : State) q =>
    match physOf c q.bell with
    | some ph =>
      if as.any fun a => decide (ph ≤ a ∧ a < ph + 4) then
        s.ringOne c q (leNat ((List.range 4).map fun i => s.peek p (ph + i)))
      else s
    | none => s) s) s

/-- POOL_WRITE. -/
def execPoolWrite (r : Req) (x : PoolReq) (s : State) : Out :=
  .next (s.poolOne r 0x0102 x
    (x.opFlags = 0 && decide (1 ≤ x.count ∧ x.count ≤ 1024 ∧ x.count + 24 ≤ s.payloadLimit r.port) &&
      x.args.length = x.count && inSpace x x.count) x.count true fun g s =>
    let as := addrsOf g x.count
    let st := s.writeStatus r.party (linesOf as)
    if st ≠ stOk then .error st
    else .ok (stOk, (linesOf as).length, [], (s.pokes r.party (as.zip x.args)).doorbells r.party as))

/-! Holds and leases (R286 to R289) -/

/-- Count and address of an operation on lines: 1 to 64 lines within one page, line-aligned. -/
def linesOk (x : PoolReq) : Bool :=
  decide (1 ≤ x.count ∧ x.count ≤ 64 ∧ x.addr % 64 = 0 ∧ x.addr / 4096 = (x.addr + x.count * 64 - 1) / 4096) &&
    inSpace x (x.count * 64)

/-- Physical lines of such an operation. -/
def heldLines (g : Range) (x : PoolReq) : List Nat := linesOf (addrsOf g (x.count * 64))

/-- Lease in ms: 0 takes the default (R286). -/
def State.leaseMs (s : State) (x : PoolReq) : Nat :=
  let v := leNat x.args
  if v = 0 then s.inForce 0x388001 else v

def leaseOk (x : PoolReq) : Bool := x.args.length = 4 && decide (leNat x.args ≤ 5000)

/-- The tick of the lease clock at which a lease taken now ends, ns of device time (R289; log 64). -/
def State.leaseEnd (s : State) (ms : Nat) : Nat := ceilDiv (s.deviceTime + ms * 1000000) 1000000 * 1000000

def State.onHolds (s : State) (f : List Hold → List Hold) : State :=
  { s with pool := { s.pool with holds := f s.pool.holds } }

/-- Lines a party holds, and its limit (0x3800:09). -/
def State.heldCount (s : State) (p : Nat) : Nat := (s.pool.holds.filter (·.party = p)).length
def State.holdLimit (s : State) (p : Nat) : Nat := s.inForce (okey (0x3800 + p) 9)

/-- HOLD (R286). -/
def execHold (r : Req) (x : PoolReq) (s : State) : Out :=
  .next (s.poolOne r 0x0103 x (x.opFlags = 0 && linesOk x && leaseOk x) (x.count * 64) true fun g s =>
    let ls := heldLines g x
    let p := r.party
    let st := s.writeStatus p ls
    let new := ls.filter fun l => (s.heldBy l).isNone
    if st ≠ stOk then .error st
    else if s.pool.holds.length + new.length > 4096 ∨ s.heldCount p + new.length > s.holdLimit p then .error stLimit
    else
      let e := s.leaseEnd (s.leaseMs x)
      let t := s.onHolds fun hs => (hs.map fun h => if ls.contains h.line then { h with endAt := e } else h) ++
        new.map fun l => ⟨l, p, g.ctx.num, g.grant.map (·.idx), e, s.lineValue l⟩
      .ok (stOk, 0, leBytes 8 e, t))

/-- Write the working value of a held line back. -/
def State.writeBack (s : State) (line : Nat) : State :=
  match s.heldBy line with
  | some h => s.putLine line h.work
  | none => s

/-- The requester holds every line: else CHAFF where one is chaff, NO_OBJECT otherwise (R288, R291). -/
def State.notHolder (s : State) (p : Nat) (ls : List Nat) : Option Nat :=
  if ls.any s.isChaff then some stChaff
  else if ls.all fun l => (s.heldBy l).any fun h => h.party = p then none else some stNoObject

/-- RENEW (R288, R289). -/
def execRenew (r : Req) (x : PoolReq) (s : State) : Out :=
  .next (s.poolOne r 0x0104 x (decide (x.opFlags < 2) && linesOk x && leaseOk x) (x.count * 64) true fun g s =>
    let ls := heldLines g x
    match s.notHolder r.party ls with
    | some st => .error st
    | none =>
      let back := x.opFlags = 1
      let t := if back then ls.foldl State.writeBack s else s
      let e := s.leaseEnd (s.leaseMs x)
      let t := t.onHolds fun hs => hs.map fun h => if ls.contains h.line then { h with endAt := e } else h
      .ok (stOk, if back then ls.length else 0, leBytes 8 e, t))

/-- RELEASE: the working values stand, unless DISCARD drops them (R288). A chaff line is not held, so NO_OBJECT. -/
def execRelease (r : Req) (x : PoolReq) (s : State) : Out :=
  .next (s.poolOne r 0x0105 x (decide (x.opFlags < 2) && linesOk x && x.args.isEmpty) (x.count * 64) true fun g s =>
    let ls := heldLines g x
    if ls.all fun l => (s.heldBy l).any fun h => h.party = r.party then
      let back := x.opFlags = 0
      let t := if back then ls.foldl State.writeBack s else s
      .ok (stOk, if back then ls.length else 0, [], t.onHolds fun hs => hs.filter fun h => !ls.contains h.line)
    else .error stNoObject)

/-- A chaff line is cleared: its mark goes; a fence line takes its registry value, another its written-back value or zeros
(R269, R292). -/
def State.clearLine (s : State) (zero : Bool) (line : Nat) : State :=
  if !s.isChaff line then s
  else
    let s := s.uncache line
    let t : State := { s with pool := { s.pool with chaff := sdel s.pool.chaff line } }
    match s.pool.fences.find? fun f => !f.mirror && f.phys / 64 = line with
    | some f =>
      let t := t.putLine line (List.replicate 64 0)
      t.putMem f.phys (fenceBytes f.value)
    | none => if zero then t.putLine line (List.replicate 64 0) else t

/-- CLEAR: the owner through its own context, or party 0 (R292). -/
def execClear (r : Req) (x : PoolReq) (s : State) : Out :=
  .next (s.poolOne r 0x0106 x (decide (x.opFlags < 2) && linesOk x && x.args.isEmpty) (x.count * 64) false fun g s =>
    let ls := heldLines g x
    let zero := x.opFlags = 1
    .ok (stOk, if zero then 0 else ls.length, [], ls.foldl (fun (t : State) l => t.clearLine zero l) s))

/-! Atomics (R293) -/

/-- An atomic on one word: the old value is returned; one that writes nothing is charged its read alone (R300). -/
def State.atomic (s : State) (r : Req) (op : Nat) (x : PoolReq) (nargs : Nat) (writes : Nat → List Nat → Bool)
    (f : Nat → Nat → List Nat → Nat) : State :=
  let size := if x.opFlags = 1 then 8 else 4
  let args := (List.range nargs).map fun i => field x.args (8 * i) size
  s.poolOne r op x
    (decide (x.opFlags < 2) && x.count = 0 && x.args.length = 8 * nargs && x.addr % size = 0 && inSpace x size) size true
    fun g s =>
    let as := addrsOf g size
    let st := s.writeStatus r.party (linesOf as)
    if st ≠ stOk then .error st
    else
      let old := leNat (as.map (s.peek r.party))
      if writes old args then .ok (stOk, 2, leBytes 8 old, s.pokes r.party (as.zip (leBytes size (f (256 ^ size) old args))))
      else .ok (stOk, 1, leBytes 8 old, s)

/-- FADD: addition modulo 2³² or 2⁶⁴. -/
def execFadd (r : Req) (x : PoolReq) (s : State) : Out :=
  .next (s.atomic r 0x0110 x 1 (fun _ _ => true) fun m old a => (old + a.getD 0 0) % m)

/-- CAS: the new value when the word equals the expected one. -/
def execCas (r : Req) (x : PoolReq) (s : State) : Out :=
  .next (s.atomic r 0x0111 x 2 (fun old a => old = a.getD 0 0) fun _ _ a => a.getD 1 0)

/-- MAX: the unsigned maximum. -/
def execPoolMax (r : Req) (x : PoolReq) (s : State) : Out :=
  .next (s.atomic r 0x0112 x 1 (fun _ _ => true) fun _ old a => max old (a.getD 0 0))

/-! Fences (R269, R294) -/

/-- POOL_FENCE_ADVANCE: only on a registered word, through a context of its owner. -/
def execPoolFenceAdvance (r : Req) (x : PoolReq) (s : State) : Out :=
  .next (s.poolOne r 0x0113 x (x.opFlags = 0 && x.count = 0 && x.args.length = 8 && x.addr % 8 = 0 && inSpace x 8) 8 true
    fun g s =>
    match s.ownFence r.party g.ctx.num g.base with
    | none => .error stNoObject
    | some f =>
      let (st, v, t) := s.advanceFence f (leNat x.args)
      .ok (st, 2, leBytes 8 v, t))

/-- A refused handle as a failure of check 1 or 2 of Table POOL-2, for an operation that names no range. -/
def handleFail {α : Type} (x : Except Nat α) : List (Except Fail Range × Nat × Bool) :=
  match x with
  | .error st => [(.error (if st = stRevoked then 2 else 1, st), 0, false)]
  | .ok _ => []

/-- FENCE_READ: the value of the fence that a handle names, for its importer (R294). -/
def execFenceRead (r : Req) (x : PoolReq) (s : State) : Out :=
  .next (s.poolRun r 0x0114 x (x.opFlags = 0 && x.count = 0 && x.args.isEmpty && x.ctx = 0xFFFF && x.addr = 0)
    (handleFail (s.fenceByHandle r.party x.handle)) fun _ s =>
    match s.fenceByHandle r.party x.handle with
    | .error st => .error st
    | .ok f =>
      let (st, v) := s.fenceState f
      .ok (st, 1, leBytes 8 v, s))

/-! Near-memory operations (R295, R296) -/

/-- FILL. -/
def execFill (r : Req) (x : PoolReq) (s : State) : Out :=
  .next (s.poolOne r 0x0120 x
    (x.opFlags = 0 && decide (8 ≤ x.count ∧ x.count ≤ 1048576) && x.count % 8 = 0 && x.addr % 8 = 0 && x.args.length = 8 &&
      inSpace x x.count) x.count true fun g s =>
    let as := addrsOf g x.count
    let st := s.writeStatus r.party (linesOf as)
    if st ≠ stOk then .error st
    else .ok (stOk, (linesOf as).length, [],
      s.pokes r.party ((as.zipIdx).map fun a => (a.1, x.args.getD (a.2 % 8) 0))))

/-- The second range of COPY and COMPARE: context, reserved, address, handle. -/
def State.second (s : State) (p : Nat) (x : PoolReq) : Except Fail Range :=
  s.locate p (field x.args 0 2) (field x.args 8 8) (field x.args 16 8) false
def secondOk (x : PoolReq) : Bool :=
  x.args.length = 24 && field x.args 2 6 = 0 && decide (field x.args 8 8 + x.count ≤ 1099511627776)

/-- COPY: the source's bytes as they stood; a source line held by another or chaff shows in the status (R295). -/
def execCopy (r : Req) (x : PoolReq) (s : State) : Out :=
  let p := r.party
  .next (s.poolRun r 0x0121 x
    (x.opFlags = 0 && decide (1 ≤ x.count ∧ x.count ≤ 1048576) && secondOk x && inSpace x x.count)
    [(s.locate p x.ctx x.addr x.handle false, x.count, true), (s.second p x, x.count, false)] fun gs s =>
    match gs with
    | d :: q :: _ =>
      let ds := addrsOf d x.count
      let ss := addrsOf q x.count
      let st := s.writeStatus p (linesOf ds)
      if st ≠ stOk then .error st
      else .ok (s.readStatus p (linesOf ss), (linesOf ds).length + (linesOf ss).length, [],
        s.pokes p (ds.zip (ss.map (s.peek p))))
    | _ => .error stNoObject)

/-- The offset of the first difference of two byte strings. -/
def firstDiff (a b : List Byte) : Nat :=
  match (a.zip b).findIdx? fun x => x.1 ≠ x.2 with
  | some i => i
  | none => 0xFFFFFFFF

/-- COMPARE. -/
def execCompare (r : Req) (x : PoolReq) (s : State) : Out :=
  let p := r.party
  .next (s.poolRun r 0x0122 x
    (x.opFlags = 0 && decide (1 ≤ x.count ∧ x.count ≤ 1048576) && secondOk x && inSpace x x.count)
    [(s.locate p x.ctx x.addr x.handle false, x.count, false), (s.second p x, x.count, false)] fun gs s =>
    match gs with
    | d :: q :: _ =>
      let ds := addrsOf d x.count
      let ss := addrsOf q x.count
      .ok (s.readStatus p (linesOf (ds ++ ss)), (linesOf (ds ++ ss)).length,
        leBytes 4 (firstDiff (ds.map (s.peek p)) (ss.map (s.peek p))), s)
    | _ => .error stNoObject)

/-- FP16 bits: an infinity or NaN, or a multiple of 2⁻²⁴. -/
def fp16Special (w : Nat) : Bool := w / 1024 % 32 = 31
def fp16Nan (w : Nat) : Bool := fp16Special w && w % 1024 ≠ 0
def fp16Units (w : Nat) : Int :=
  let e := w / 1024 % 32
  let m := w % 1024
  let v : Nat := if e = 31 then 2 ^ 60 else if e = 0 then m else (1024 + m) * 2 ^ (e - 1)
  if w.testBit 15 then -(v : Int) else v

/-- A multiple of 2⁻²⁴ rounded to the 24 significant bits of FP32, to nearest even. -/
def round24 (v : Int) : Int :=
  let n := v.natAbs
  let k := Nat.log2 n
  if k ≤ 23 then v
  else
    let q : Nat := rneShift n (k - 23) * 2 ^ (k - 23)
    if v < 0 then -(q : Int) else q

/-- The FP32 bits of a multiple of 2⁻²⁴ that has at most 24 significant bits. -/
def fp32Bits (v : Int) : Nat :=
  let n := v.natAbs
  let k := Nat.log2 n
  let m := if k ≤ 23 then n * 2 ^ (23 - k) else n / 2 ^ (k - 23)
  (if v < 0 then 2147483648 else 0) + (if n = 0 then 0 else (k + 103) * 8388608 + (m - 8388608))

/-- An FP16 element widened to FP32; not for a NaN. -/
def fp16Widen (w : Nat) : Nat :=
  if fp16Special w then (if w.testBit 15 then 0xFF800000 else 0x7F800000)
  else if w = 0x8000 then 0x80000000 else fp32Bits (fp16Units w)

/-- The FP32 sum of FP16 elements in order: with infinities of one sign the infinity; a NaN element, or infinities of both
signs, give a NaN whose payload is open (log 65). -/
def fp16Sum (free : Nat) (ws : List Nat) : Nat :=
  let pos := ws.any fun w => fp16Special w && w % 1024 = 0 && !w.testBit 15
  let neg := ws.any fun w => fp16Special w && w % 1024 = 0 && w.testBit 15
  if ws.any fp16Nan ∨ (pos ∧ neg) then (Config.freeWord free ||| 0x7FC00000#32).toNat
  else if pos then 0x7F800000 else if neg then 0xFF800000
  else fp32Bits (ws.foldl (fun a w => round24 (a + fp16Units w)) 0)

/-- The first smallest or largest of some keys, with its index. -/
def firstBest (big : Bool) (xs : List (Int × Nat)) : Option (Int × Nat) :=
  xs.foldl (fun b x =>
    match b with
    | none => some x
    | some y => if (if big then y.1 < x.1 else x.1 < y.1) then some x else b) none

/-- Value and index of a reduction: operation 0 SUM, 1 MIN, 2 MAX over the bytes of its elements. -/
def reduceOf (free op : Nat) (fp : Bool) (bs : List Byte) (n : Nat) : Nat × Nat :=
  if fp then
    let ws := (List.range n).map fun i => field bs (2 * i) 2
    if op = 0 then (fp16Sum free ws, 0)
    else
      match firstBest (op = 2) ((ws.zipIdx.filter fun w => !fp16Nan w.1).map fun w => (fp16Units w.1, w.2)) with
      | some (_, i) => (fp16Widen (ws.getD i 0), i)
      | none => (0x7FC00000, 0xFFFFFFFF)
  else
    let vs := (List.range n).map fun i => signedOf 32 (field bs (4 * i) 4)
    if op = 0 then (unsignedOf 64 (vs.foldl (· + ·) 0), 0)
    else
      match firstBest (op = 2) vs.zipIdx with
      | some (v, i) => (unsignedOf 64 v, i)
      | none => (0, 0)

/-- REDUCE (R296). A grant carries no right to it (R280). -/
def execReduce (r : Req) (x : PoolReq) (s : State) : Out :=
  let fp := x.opFlags.testBit 2
  let op := x.opFlags % 4
  let size := if fp then 2 else 4
  let n := x.count * size
  .next (s.poolOne r 0x0123 x
    (decide (x.opFlags < 8 ∧ op < 3 ∧ 1 ≤ x.count ∧ x.count ≤ (if fp then 524288 else 262144)) && x.addr % size = 0 &&
      x.args.isEmpty && inSpace x n) n false fun g s =>
    let as := addrsOf g n
    let v := reduceOf s.free op fp (as.map (s.peek r.party)) x.count
    .ok (s.readStatus r.party (linesOf as), (linesOf as).length, leBytes 8 v.1 ++ leBytes 4 v.2,
      { s with free := s.free + 1 }))

/-! Grants (R280, R281) -/

/-- The table index of a new grant: the lowest that holds no live one. -/
def State.grantRoom (s : State) (p : Nat) : Option Nat :=
  let live := s.pool.grants.filter (·.live)
  if live.length ≥ 256 ∨ (live.filter (·.src = p)).length ≥ 32 then none
  else (List.range 256).find? fun i => !live.any fun g => g.idx = i

/-- GRANT: a range of the requester's context is opened to one other party. -/
def execGrant (r : Req) (x : PoolReq) (s : State) : Out :=
  .next (s.poolOne r 0x0130 x
    (x.opFlags = 0 && decide (1 ≤ x.count ∧ x.count ≤ 16384) && x.addr % 4096 = 0 && x.args.length = 8 &&
      decide (field x.args 0 1 < 16 ∧ field x.args 0 1 ≠ r.party ∧ 1 ≤ field x.args 1 1 ∧ field x.args 1 1 ≤ 2) &&
      field x.args 2 6 = 0 && inSpace x (x.count * 4096)) 0 false fun g s =>
    match s.grantRoom r.party with
    | none => .error stLimit
    | some i =>
      let old := (s.pool.grants.find? (·.idx = i)).elim 0 (·.gen)
      let new : Grant := ⟨i, (old + 1) % 4294967296, r.party, field x.args 0 1, g.ctx.num, x.addr, x.count,
        field x.args 1 1 = 2, true⟩
      let t : State := { s with pool := { s.pool with
        grants := insBy (·.idx) new (s.pool.grants.filter (·.idx ≠ i)) } }
      .ok (stOk, 0, leBytes 8 (grantHandle new), t))

/-- The grant that UNGRANT names: the granting party's own; through the importer it is DENIED. -/
def State.ungrantOf (s : State) (p h : Nat) : Except Nat Grant :=
  if handleKind h ≠ 3 ∨ handleSrc h ≠ p then .error stDenied
  else if s.pool.dead.contains h then .error stRevoked
  else
    match s.pool.grants.find? fun g => g.live && grantHandle g = h with
    | some g => .ok g
    | none => .error stNoObject

/-- UNGRANT: the grant is invalid from the next boundary. -/
def execUngrant (r : Req) (x : PoolReq) (s : State) : Out :=
  .next (s.poolRun r 0x0131 x
    (x.opFlags = 0 && x.count = 0 && x.args.isEmpty && x.ctx = 0xFFFF && x.addr = 0)
    (handleFail (s.ungrantOf r.party x.handle)) fun _ s =>
    match s.ungrantOf r.party x.handle with
    | .error st => .error st
    | .ok g => .ok (stOk, 0, [], s.stage (.ungrant (grantHandle g))))

/-- A grant is invalidated: its handle is dead, and holds taken through it end without write-back (R281). -/
def State.killGrant (s : State) (g : Grant) : State :=
  if !g.live then s
  else
    { s with pool := { s.pool with
        grants := s.pool.grants.map fun x => if x.idx = g.idx then { x with live := false } else x,
        dead := s.pool.dead ++ [grantHandle g],
        holds := s.pool.holds.filter fun h => h.grant ≠ some g.idx } }

def State.killGrants (s : State) (f : Grant → Bool) : State :=
  (s.pool.grants.filter f).foldl State.killGrant s

/-! The lease clock (R289) -/

/-- LEASE_EXPIRY: at a tick of 1 ms of device time every line whose lease has ended becomes chaff. -/
def execLeaseExpiry (s : State) : Out :=
  .next (
    let t := s.deviceTime / 1000000
    if s.poolMute || s.poolServe.isSome || decide (t ≤ s.pool.leaseTick) then s
    else
      let ended := s.pool.holds.filter fun h => decide (h.endAt ≤ t * 1000000)
      let s : State := { s with pool := { s.pool with leaseTick := t } }
      ended.foldl (fun (s : State) h => s.makeChaff h.line (s.pageOwner (h.line / 64))) s)

end Sys2Proof.Machine
end

