-- ==== Sys2Proof/Machine/Parties.lean ====
section
/-! DEFINITION. Parties, queue commands, fences, mirrors and revocation (13), and the pause of pooled jobs (04 R97). A queue
command acts on the command that its queue has in execution: KEEP_PARTY_SLOT copied it and judged its header. -/

namespace Sys2Proof.Machine

open Sys2Proof

/-! Roles and allotments (R256 to R259) -/

/-- The effective result of ROLE_WRITE: DENIED for party 0 or the value 2, else a setting whose effect waits. -/
def State.roleSetting (s : State) (r : Req) (p v : Nat) : State :=
  s.setting r (0x3800 + p) 1 v (if p = 0 ∨ v = 2 then stDenied else stOk)

/-- ROLE_WRITE (R256). -/
def execRoleWrite (r : Req) (p v : Nat) (s : State) : Out := .next (s.roleSetting r p v)

/-- The sum of an allotment entry over the parties, with one party's new value. -/
def State.allotSum (s : State) (sub p v : Nat) : Nat :=
  (List.range 16).foldl (fun a q => a + (if q = p then v else s.asked (okey (0x3800 + q) sub))) 0

/-- The allotments as commanded, with one entry of one party changed. -/
def State.allotIf (s : State) (sub p v : Nat) : AllotEnv :=
  allotFrom (fun k => if k = okey (0x3800 + p) sub then v else s.asked k) s.dict.doms

/-- A verdict of a check on the running plan, as a status. -/
def State.planDenies (s : State) (f : PlanImage → Verdict) : Bool :=
  match s.loader.plan with
  | some p => (f p).isSome
  | none => false

/-- A pod allotment record keeps the layout of Table HOST-2. -/
def allotRecOk (b : List Byte) : Bool :=
  decide (field b 0 1 < 8 ∧ field b 1 1 < 4 ∧ field b 2 2 = 0 ∧ 1 ≤ field b 6 2 ∧ field b 4 2 + field b 6 2 ≤ 1024 ∧
    8 ≤ field b 10 2 ∧ field b 10 2 % 8 = 0 ∧ field b 8 2 % 8 = 0 ∧ field b 8 2 + field b 10 2 ≤ 1024)

def allotBytesOk : Nat → List Byte → Bool
  | _, [] => true
  | 0, _ => false
  | n + 1, b => decide (12 ≤ b.length) && allotRecOk b && allotBytesOk n (b.drop 12)

/-- Two allotment records share a cell. -/
def recsMeet (a b : Nat × Nat × Nat × Nat × Nat × Nat) : Bool :=
  decide (a.1 = b.1 ∧ a.2.1 = b.2.1 ∧ a.2.2.1 < b.2.2.1 + b.2.2.2.1 ∧ b.2.2.1 < a.2.2.1 + a.2.2.2.1 ∧
    a.2.2.2.2.1 < b.2.2.2.2.1 + b.2.2.2.2.2 ∧ b.2.2.2.2.1 < a.2.2.2.2.1 + a.2.2.2.2.2)

/-- What Table HOST-1 says of a pod allotment. The areas that a plan uses are its objects' blocks and the slots of its in-place
images (07 R149). -/
def State.podAllotStatus (s : State) (p : Nat) (data : List Byte) : Nat :=
  let recs := allotRecs 64 data
  let others := (List.range 16).flatMap fun q =>
    if q = p then [] else allotRecs 64 (mget [] s.dict.doms (okey (0x3800 + q) 3))
  let env := allotFrom s.asked (mset [] s.dict.doms (okey (0x3800 + p) 3) data)
  if data.length % 12 ≠ 0 then stBadType
  else if !allotBytesOk 64 data || recs.any (fun a => others.any (recsMeet a)) then stRange
  else if s.planDenies fun pl => if pl.segs.any fun g => g.party = p && !((g.objs.all fun o => o.head || objAllotted env p o) &&
        g.pips.all fun x => !x.image.inPlace || slotAllotted env p x)
      then some (7, 0) else none then stDenied
  else stOk

/-- What Table HOST-1, and for pages R374 and R380, say of an allotment write. -/
def State.allotStatus (s : State) (p sub v : Nat) : Nat :=
  let env := s.allotIf sub p v
  match sub with
  | 2 =>
    if 851968 < s.allotSum 2 p v ∨ v < (s.partyPages p).length then stRange
    else if s.lifecycleBars p then stDenied else stOk
  | 4 =>
    if v ≠ 0xFF ∧ (List.range 16).any (fun q => q ≠ p && s.asked (okey (0x3800 + q) 4) = v) then stRange
    else if s.planDenies fun pl => check14 env pl <|> check15 env pl then stDenied else stOk
  | 5 => if s.planDenies fun pl => check14 env pl <|> check15 env pl <|> check17 env pl then stDenied else stOk
  | 6 => if 8000 < s.allotSum 6 p v then stRange else stOk
  | 7 => if 40000000 < s.allotSum 7 p v then stRange else stOk
  | 8 =>
    if 6000 < s.allotSum 8 p v then stRange
    else if s.planDenies fun pl => check18 env pl then stDenied else stOk
  | _ => stOk

/-- A numeric allotment entry is written (R258). -/
def State.allotSetting (s : State) (r : Req) (p sub v : Nat) : State :=
  let t := s.setting r (0x3800 + p) sub v (s.allotStatus p sub v)
  if sub = 2 ∧ s.writeCheck r (0x3800 + p) 2 v = .status stOk ∧ s.allotStatus p 2 v = stOk ∧
      (s.reg (okey (0x3800 + p) 2) = v ∧ s.committing (okey (0x3800 + p) 2) = false ∨
        t.dict.commits.length ≠ s.dict.commits.length)
    then t.stage (.allotPages p) else t

/-- The pod allotment is written (R259): its records hold from the next boundary. -/
def State.podAllotSetting (s : State) (r : Req) (p : Nat) (data : List Byte) : State :=
  match s.bytesCheck r (0x3800 + p) 3 data.length with
  | .silent => s
  | .held => s
  | .status st =>
    let a := lateStatus (s.bytesFit r (0x3800 + p) 3 data.length) st (s.podAllotStatus p data)
    if a ≠ stOk then s.wrote r (okey (0x3800 + p) 3) a
    else
      let t := s.storeBytes r (0x3800 + p) 3 data
      if mget [] t.dict.doms (okey (0x3800 + p) 3) = data then t.stage (.dom (okey (0x3800 + p) 3) data) else t

/-- ALLOTMENT_WRITE: subindex 2 and 4 to 9 carry a number, 3 the pod allotment's bytes. -/
def execAllotmentWrite (r : Req) (p sub v : Nat) (data : List Byte) (s : State) : Out :=
  .next (if sub = 3 then s.podAllotSetting r p data else s.allotSetting r p sub v)

/-- REVOKE (0x3800:0A): every context of the party, from the next boundary (R275, R276). -/
def State.revokeOrder (s : State) (r : Req) (p v : Nat) : State :=
  s.ordered r (0x3800 + p) 0x0A v stOk fun s => s.stage (.revokeParty p)

def execRevoke (r : Req) (p v : Nat) (s : State) : Out := .next (s.revokeOrder r p v)

/-! Commands in execution (R266) -/

/-- Run `f` on a command with opcode `op` that a queue has in execution, its context and its 64 bytes. -/
def State.command (s : State) (c q op : Nat) (f : Ctx → List Byte → State) : State :=
  match s.ctx c, (s.queue c q).bind (·.cur) with
  | some x, some cmd => if s.poolMute || s.poolServe.isSome || field cmd 0 2 ≠ op then s else f x cmd
  | _, _ => s

/-- The context that a command names, from a queue of context x: NO_OBJECT, DENIED for another party's or when neither
root nor target issues it, REVOKED. -/
def State.targetOf (s : State) (x : Ctx) (t : Nat) (own : Bool) : Except Nat Ctx :=
  match s.ctx t with
  | none => .error stNoObject
  | some y =>
    if y.party ≠ x.party then .error stDenied
    else if y.revoking then .error stRevoked
    else if x.num = x.party ∨ (own ∧ x.num = t) then .ok y else .error stDenied

/-- NOP. -/
def execCmdNop (c q : Nat) (s : State) : Out := .next (s.command c q 0x01 fun _ _ => s.complete c q stOk 0)

/-- The lowest context number from 16 to 4,095 that has been free for 1 s (R260). -/
def State.newCtxNum (s : State) : Option Nat :=
  let used := s.pool.ctxs.map (·.num)
  (List.range 4080).findSome? fun i =>
    let n := i + 16
    if used.contains n || (s.pool.freed.any fun f => f.1 = n && decide (s.now < f.2 + 1000000000)) then none else some n

/-- CTX_CREATE (R260): from the root context, at most 256 contexts of a party. -/
def execCtxCreate (c q : Nat) (s : State) : Out :=
  .next (s.command c q 0x02 fun x _ =>
    if x.num ≠ x.party then s.complete c q stDenied 0
    else if 256 ≤ (s.pool.ctxs.filter (·.party = x.party)).length then s.complete c q stLimit 0
    else
      match s.newCtxNum with
      | none => s.complete c q stLimit 0
      | some n => (s.addCtx (newCtx s n x.party)).complete c q stOk n)

/-- A revocation ordered by a queue's command is on its way. -/
def State.destroying (s : State) (c q : Nat) : Bool :=
  s.frame.staged.any fun x => match x.op with
    | .revokeCtx _ (some b) => b.1 = c && b.2.1 = q
    | .freeCtx _ (some b) => b.1 = c && b.2.1 = q
    | _ => false

/-- CTX_DESTROY (R275): the revocation is staged for the next boundary (Table HOST-8); the command completes when the context is
freed. -/
def execCtxDestroy (c q : Nat) (s : State) : Out :=
  .next (s.command c q 0x03 fun x cmd =>
    if s.destroying c q then s
    else
      match s.targetOf x (field cmd 8 2) false with
      | .error st => s.complete c q st 0
      | .ok y =>
        if y.num < 16 then s.complete c q stDenied 0
        else s.stageNext (.revokeCtx y.num (some (c, q, ((s.queue c q).map (·.started)).getD 0))))

/-! Mapping (R261) -/

/-- Count and address of a MAP or UNMAP: 1 to 256 pages, page-aligned, within the 40-bit space. -/
def pagesOk (n a : Nat) : Bool := decide (1 ≤ n ∧ n ≤ 256 ∧ a % 4096 = 0 ∧ a + n * 4096 ≤ 1099511627776)

/-- The physical pages that an alias names: pages of another context of the same party (log 66). -/
def State.aliasPages (s : State) (x y : Ctx) (src a n : Nat) : Except Nat (List Nat) :=
  match s.ctx src with
  | none => .error stNoObject
  | some z =>
    if z.party ≠ x.party then .error stDenied
    else if z.revoking then .error stRevoked
    else if z.num = y.num ∨ !pagesOk n a then .error stRange
    else
      let ps := (List.range n).filterMap fun i => (pageOf z (a / 4096 + i)).map (·.1)
      if ps.length = n then .ok ps else .error stNoObject

/-- MAP: n pages of the free allotment, read as zero, or an alias; nothing is mapped when it is refused. -/
def execMap (c q : Nat) (s : State) : Out :=
  .next (s.command c q 0x04 fun x cmd =>
    let fl := field cmd 10 1
    let n := field cmd 12 4
    let a := field cmd 16 8
    if field cmd 11 1 ≠ 0 ∨ field cmd 26 6 ≠ 0 ∨ 4 ≤ fl then s.complete c q stBadType 0
    else
      match s.targetOf x (field cmd 8 2) true with
      | .error st => s.complete c q st 0
      | .ok y =>
        if !pagesOk n a || ((List.range n).any fun i => (pageOf y (a / 4096 + i)).isSome) then s.complete c q stRange 0
        else
          let put (s : State) (ps : List Nat) : State :=
            (s.giveTokens y.num ((List.range ps.length).map fun i => a / 4096 + i)).onCtx y.num fun z =>
              putPages z ((ps.zipIdx).map fun g => (a / 4096 + g.2, g.1, fl.testBit 0))
          if fl.testBit 1 then
            match s.aliasPages x y (field cmd 24 2) (field cmd 32 8) n with
            | .error st => s.complete c q st 0
            | .ok ps => (put s ps).spoilScrub.complete c q stOk n
          else if s.pageAllot x.party < (s.partyPages x.party).length + n then s.complete c q stLimit 0
          else
            let ps := s.freePages n
            (put (s.zeroPages ps) ps).spoilScrub.complete c q stOk n)

/-- UNMAP: the mapped pages of the range; a page that no context maps any longer is free again. -/
def execUnmap (c q : Nat) (s : State) : Out :=
  .next (s.command c q 0x05 fun x cmd =>
    let n := field cmd 12 4
    let a := field cmd 16 8
    if field cmd 10 2 ≠ 0 then s.complete c q stBadType 0
    else
      match s.targetOf x (field cmd 8 2) true with
      | .error st => s.complete c q st 0
      | .ok y =>
        if !pagesOk n a then s.complete c q stRange 0
        else if y.num < 16 ∧ a < 65536 then s.complete c q stDenied 0
        else
          let hit (g : Nat × Nat × Bool) : Bool := decide (a / 4096 ≤ g.1 ∧ g.1 < a / 4096 + n)
          let gone := y.pages.filter hit
          let t := s.onCtx y.num fun z => { z with pages := z.pages.filter fun g => !hit g }
          (t.releasePages (gone.map (·.2.1))).complete c q stOk gone.length)

/-! Queues (R264, R266) -/

/-- Entries and places of a new queue: a power of two from 8 to 4,096, alignment, WRITE-mapped pages. -/
def queueOk (y : Ctx) (n e cr pr bl : Nat) : Bool :=
  decide (n < 4) && !(y.queues.any (·.num = n)) && [8, 16, 32, 64, 128, 256, 512, 1024, 2048, 4096].contains e &&
    decide (cr % 64 = 0 ∧ pr % 32 = 0 ∧ bl % 64 = 0) && writableRange y cr (e * 64) && writableRange y pr (e * 32) &&
    writableRange y bl 64

/-- QUEUE_CREATE. -/
def execQueueCreate (c q : Nat) (s : State) : Out :=
  .next (s.command c q 0x06 fun x cmd =>
    if field cmd 11 1 ≠ 0 then s.complete c q stBadType 0
    else
      match s.targetOf x (field cmd 8 2) true with
      | .error st => s.complete c q st 0
      | .ok y =>
        let n := field cmd 10 1
        let e := field cmd 12 4
        if queueOk y n e (field cmd 16 8) (field cmd 24 8) (field cmd 32 8) then
          let new := newQueue n e (field cmd 16 8) (field cmd 24 8) (field cmd 32 8)
          (s.onCtx y.num fun z => { z with queues := insBy (·.num) new z.queues }).complete c q stOk 0
        else s.complete c q stRange 0)

/-- QUEUE_DESTROY: not the queue itself; BUSY while a command of that queue is in execution (log 67). -/
def execQueueDestroy (c q : Nat) (s : State) : Out :=
  .next (s.command c q 0x07 fun x cmd =>
    match s.targetOf x (field cmd 8 2) true with
    | .error st => s.complete c q st 0
    | .ok y =>
      let n := field cmd 10 1
      if y.num = c ∧ n = q then s.complete c q stDenied 0
      else
        match y.queues.find? (·.num = n) with
        | none => s.complete c q stNoObject 0
        | some z =>
          if z.cur.isSome then s.complete c q stBusy 0
          else (s.onCtx y.num fun w => { w with queues := w.queues.filter (·.num ≠ n) }).complete c q stOk 0)

/-! Fences (R268 to R271) -/

/-- FENCE_CREATE: the word's value is the initial value. -/
def execFenceCreate (c q : Nat) (s : State) : Out :=
  .next (s.command c q 0x10 fun x cmd =>
    let (st, v, t) := s.registerFence x.party c (field cmd 8 8)
    t.complete c q st v)

/-- The fence of a fence reference: kind 1 an own fence's address in the issuing context, 2 a handle. -/
def State.fenceRef (s : State) (x : Ctx) (kind value : Nat) : Except Nat Fence :=
  match kind with
  | 1 =>
    match s.ownFence x.party x.num value with
    | some f => .ok f
    | none => .error stNoObject
  | 2 =>
    match s.fenceByHandle x.party value with
    | .ok f => if f.mirror && (s.pool.mirrors.any fun m => m.fence = f.idx && m.state = 3) then .error stRevoked else .ok f
    | .error e => .error e
  | _ => .error stRange

/-- FENCE_ADVANCE: an own fence only; a handle is DENIED (R271). -/
def execFenceAdvance (c q : Nat) (s : State) : Out :=
  .next (s.command c q 0x11 fun x cmd =>
    if field cmd 9 7 ≠ 0 then s.complete c q stBadType 0
    else if field cmd 8 1 = 2 then s.complete c q stDenied 0
    else
      match s.fenceRef x (field cmd 8 1) (field cmd 16 8) with
      | .error st => s.complete c q st 0
      | .ok f =>
        let (st, v, t) := s.advanceFence f (field cmd 24 8)
        t.complete c q st v)

/-- The value that the registry still holds for a fence reference that is refused: an invalidated handle's entry, while it is the
exporter's; 0 otherwise (R270). -/
def State.refusedValue (s : State) (p kind h : Nat) : Nat :=
  if kind = 2 && handleImporter h = p && s.pool.dead.contains h then
    ((s.pool.fences.find? fun f => f.idx = handleIdx h && !f.mirror && f.party = handleSrc h).map (·.value)).getD 0
  else
    match s.fenceByHandle p h with
    | .ok f => if kind = 2 then f.value else 0
    | .error _ => 0

/-- What a wait for a value sees on a fence: CHAFF, OK, or nothing yet (R270). -/
def State.waitSees (s : State) (f : Fence) (v : Nat) : Option Nat :=
  if (s.fenceState f).1 ≠ stOk then some (s.fenceState f).1 else if v ≤ f.value then some stOk else none

/-- FENCE_WAIT: tested once at its start; it then waits in the pool engine. -/
def execFenceWait (c q : Nat) (s : State) : Out :=
  .next (s.command c q 0x12 fun x cmd =>
    let lim := field cmd 32 4
    if s.pool.waits.any fun w => w.ctx = c && w.queue = q then s
    else if field cmd 9 7 ≠ 0 then s.complete c q stBadType 0
    else if 60000 < lim then s.complete c q stRange 0
    else
      match s.fenceRef x (field cmd 8 1) (field cmd 16 8) with
      | .error st => s.complete c q st (s.refusedValue x.party (field cmd 8 1) (field cmd 16 8))
      | .ok f =>
        match s.waitSees f (field cmd 24 8) with
        | some st => s.complete c q st f.value
        | none =>
          if lim = 0 then s.complete c q stBusy f.value
          else
            let h := if field cmd 8 1 = 2 then field cmd 16 8 else 0
            { s with pool := { s.pool with
                waits := s.pool.waits ++ [⟨c, q, f.idx, h, field cmd 24 8, lim, s.now⟩] } })

/-- The fence of a wait as it stands. -/
def State.waitFence (s : State) (w : FWait) (x : Ctx) : Except Nat Fence :=
  if w.handle ≠ 0 then s.fenceRef x 2 w.handle
  else
    match s.pool.fences.find? (·.idx = w.fence) with
    | some f => .ok f
    | none => .error stNoObject

/-- The value of a wait's fence while the registry has it. -/
def State.waitValue (s : State) (w : FWait) : Nat :=
  if w.handle = 0 then ((s.pool.fences.find? (·.idx = w.fence)).map (·.value)).getD 0
  else s.refusedValue (handleImporter w.handle) 2 w.handle

/-- How a wait ends now, if it does: CHAFF, REVOKED, NO_OBJECT, OK, or BUSY at its limit. -/
def State.waitEnds (s : State) (w : FWait) (x : Ctx) : Option Nat :=
  match s.waitFence w x with
  | .error st => some st
  | .ok f =>
    match s.waitSees f w.value with
    | some st => some st
    | none => if w.started + w.limit * 1000000 ≤ s.now then some stBusy else none

/-- A wait ends with a status. -/
def State.finishWait (s : State) (w : FWait) (st : Nat) : State :=
  let s := s.traceOut ⟨0x51, ((s.ctx w.ctx).map (·.party)).getD 0, false, false, st, unitPool 0, w.ctx, w.handle, 0, w.fence, false⟩
  ({ s with pool := { s.pool with waits := s.pool.waits.filter fun y => !(y.ctx = w.ctx && y.queue = w.queue) } }).complete
    w.ctx w.queue st (s.waitValue w)

/-- FENCE_WAIT_COMPLETE: the pool engine finds the wait at an end (R270). -/
def execFenceWaitComplete (c q : Nat) (s : State) : Out :=
  .next (if s.poolMute then s
    else
      match s.ctx c, s.pool.waits.find? fun w => w.ctx = c && w.queue = q with
      | some x, some w =>
        match s.waitEnds w x with
        | some st => s.finishWait w st
        | none => s
      | _, _ => s)

/-- FENCE_EXPORT: the handle for one other party. -/
def execFenceExport (c q : Nat) (s : State) : Out :=
  .next (s.command c q 0x13 fun x cmd =>
    let m := field cmd 16 1
    match s.ownFence x.party c (field cmd 8 8) with
    | none => s.complete c q stNoObject 0
    | some f =>
      if 16 ≤ m ∨ m = x.party then s.complete c q stRange 0
      else
        let t : State := { s with pool := { s.pool with fences := s.pool.fences.map fun y =>
            if y.idx = f.idx then { y with importers := sins y.importers m } else y } }
        t.complete c q stOk (handleOf 1 f.party m f.idx f.gen))

/-- A fence's handles are invalidated and its entry's generation is raised, so that a later export gives new handles
(R271, log 68). -/
def State.renewFence (s : State) (f : Fence) : State :=
  let t := s.killHandles f
  let g := (f.gen + 1) % 4294967296
  { t with pool := { t.pool with
      fences := t.pool.fences.map fun x => if x.idx = f.idx then { x with gen := g } else x,
      gens := mins t.pool.gens f.idx g } }

/-- FENCE_REVOKE: the exporting party invalidates every handle of the fence. -/
def execFenceRevoke (c q : Nat) (s : State) : Out :=
  .next (s.command c q 0x14 fun x cmd =>
    let h := field cmd 8 8
    if handleKind h ≠ 1 ∨ handleSrc h ≠ x.party then s.complete c q stDenied 0
    else if s.pool.dead.contains h then s.complete c q stRevoked 0
    else
      match s.fenceByHandle (handleImporter h) h with
      | .error st => s.complete c q st 0
      | .ok f => (s.renewFence f).complete c q stOk 0)

/-- FENCE_DESTROY. -/
def execFenceDestroy (c q : Nat) (s : State) : Out :=
  .next (s.command c q 0x15 fun x cmd =>
    match s.ownFence x.party c (field cmd 8 8) with
    | none => s.complete c q stNoObject 0
    | some f => (s.dropFence f).complete c q stOk 0)

/-! Pooled jobs (R262, R266, 04 R94 to R97) -/

/-- A descriptor of a cluster's table. -/
def State.descAt (s : State) (cl n : Nat) : Option (List Byte) :=
  ((s.walker cl).descs.find? (·.1 = n)).map (·.2)

/-- The tiles of a descriptor's instruction. -/
def State.descTiles (s : State) (n : Nat) (d : List Byte) : Nat :=
  ((s.segOfDesc n).bind fun g => objOf g (dObj d)).elim 0 fun o => tileCount o d

/-- A job takes its slot, RUNNING from tile 0. -/
def State.beginJob (s : State) (x : Ctx) (q n : Nat) (d : List Byte) : State :=
  let j := dJob d
  let s := ((((s.setReg (jobReg j 1) 1).setReg (jobReg j 2) 0).setReg (jobReg j 3) (s.descTiles n d)).setReg (jobReg j 4)
    x.party).setReg (jobReg j 5) (dMask d)
  { s with jobs := setAt s.jobs j ⟨n, x.num, d, some (x.num, q, ((s.queue x.num q).map (·.started)).getD 0), 0, false, []⟩ }

/-- JOB_START: completes when the job ends; BUSY for a slot that is not FREE. -/
def execJobStart (c q : Nat) (s : State) : Out :=
  .next (s.command c q 0x20 fun x cmd =>
    let n := field cmd 8 2
    let cl := field cmd 10 1
    if s.jobs.any fun j => match j.cmd with
        | some b => b.1 = c && b.2.1 = q
        | none => false then s
    else if 8 ≤ cl then s.complete c q stRange 0
    else
      match s.descAt cl n with
      | none => s.complete c q stNoObject 0
      | some d =>
        if dKind d ≠ 2 then s.complete c q stBadType 0
        else if dCtx d ≠ c then s.complete c q stDenied 0
        else if s.jobState (dJob d) ≠ 0 then s.complete c q stBusy 0
        else
          let t := if x.resident then s else s.bringIn x.party c
          if ((t.ctx c).map (·.resident)).getD false then t.beginJob x q n d else s.complete c q stLimit 0)

/-- JOB_CANCEL: the job ends ABORTED; the result is its counter. -/
def execJobCancel (c q : Nat) (s : State) : Out :=
  .next (s.command c q 0x21 fun _ cmd =>
    let j := field cmd 8 1
    if 16 ≤ j then s.complete c q stRange 0
    else if s.jobState j ≠ 1 ∧ s.jobState j ≠ 2 then s.complete c q stNoObject 0
    else if (s.job j).ctx ≠ c then s.complete c q stDenied 0
    else (s.endJob j 4).complete c q stOk (s.reg (jobReg j 2)))

/-- JOB_PAUSE: the Owner or the owning party pauses a job (R97). -/
def execJobPause (r : Req) (j : Nat) (s : State) : Out := .next (s.pauseEntry r j 1)

/-- JOB_RESUME: the pause is taken back; the job resumes at a frame in which nothing else holds it (R97). -/
def execJobResume (r : Req) (j : Nat) (s : State) : Out := .next (s.pauseEntry r j 0)

/-! Residency (R263) -/

/-- The pool requests that name a context and have not started end with a status. -/
def State.endPoolOps (s : State) (c st : Nat) : State :=
  (s.net.accepted.filter fun m => (s.msgCtxs m.2.2.1).contains c).foldl (fun (s : State) m =>
    s.poolAnswer ⟨m.2.1, m.1, field m.2.2.1 8 4⟩ (field m.2.2.1 2 2) st []) s

/-- RESIDENCY_TIMEOUT: the party's requests that have waited 100 ms end with BUSY, pool requests and rung queues alike. -/
def execResidencyTimeout (p : Nat) (s : State) : Out :=
  .next (if s.poolMute then s
    else
      let old := s.pool.resWait.filter fun w => w.1 = p && decide (w.2.2 + 100000000 ≤ s.now)
      let s : State := { s with pool := { s.pool with resWait := s.pool.resWait.filter fun w => !old.contains w } }
      old.foldl (fun (s : State) w => (s.endPoolOps w.2.1 stBusy).refuseQueues w.2.1 stBusy) s)

/-- Queues of a party's contexts with a command to start: context, queue. -/
def State.rung (s : State) (p : Nat) : List (Nat × Nat) :=
  (s.pool.ctxs.filter fun c => c.party = p && !c.revoking).flatMap fun c =>
    (c.queues.filter fun q => q.cur.isNone && q.prod ≠ q.started).map fun q => (c.num, q.num)

/-- Opcodes of Table HOST-3. -/
def commandOps : List Nat := [1, 2, 3, 4, 5, 6, 7, 0x10, 0x11, 0x12, 0x13, 0x14, 0x15, 0x20, 0x21]

/-- The next command of a queue starts: its 64 bytes are copied; an unknown opcode and a non-zero reserved field of the
header complete at once (R264, R266). -/
def State.startCommand (s : State) (p c q : Nat) : State :=
  match s.queue c q with
  | none => s
  | some y =>
    let cmd := (s.readCtx p c (y.cmdRing + 64 * (y.started % y.entries)) 64).2
    let s := ((s.charge p c 1 false).touch c).traceOut
      ⟨0x31, p, false, false, stOk, unitPool 0, c, y.cmdRing + 64 * (y.started % y.entries), 1, field cmd 0 2, false⟩
    let s := s.onQueue c q fun z => { z with started := (z.started + 1) % 4294967296, cur := some cmd }
    if !commandOps.contains (field cmd 0 2) then s.complete c q stNoObject 0
    else if field cmd 2 2 ≠ 0 then s.complete c q stBadType 0
    else s

/-- A party's slot of KEEP (R265): at most one residency change, then at most two commands in turn over its rung queues;
queued commands wait until both buckets are positive (R301). -/
def State.partySlot (s : State) (p : Nat) : State :=
  let s := ((s.rung p).filter fun x => !(((s.ctx x.1).map (·.resident)).getD false)).foldl
    (fun (s : State) x => if s.shareShut p then s.refuseQueues x.1 stLimit else s.awaitResidency p x.1) s
  let s := s.residencyChange p
  (List.range 2).foldl (fun (s : State) _ =>
    let ready := (s.rung p).filter fun x => ((s.ctx x.1).map (·.resident)).getD false
    let lastQ := mget 0 s.pool.turn p
    match (ready.filter fun x => decide (lastQ < 4 * x.1 + x.2 + 1)) ++ ready with
    | x :: _ =>
      if s.credit p then
        let s : State := { s with pool := { s.pool with turn := mset 0 s.pool.turn p (4 * x.1 + x.2 + 1) } }
        s.startCommand p x.1 x.2
      else s
    | [] => s) s

/-! Revocation at boundaries (R275, R276) -/

/-- Steps 2 and 3: pooled jobs of a context end ABORTED, its waits REVOKED. -/
def State.revokeWork (s : State) (c : Nat) : State :=
  let s := (List.range 16).foldl (fun (s : State) j =>
    if (s.jobState j = 1 || s.jobState j = 2) && (s.job j).ctx = c then s.endJob j 4 else s) s
  (s.pool.waits.filter (·.ctx = c)).foldl (fun (s : State) w => s.finishWait w stRevoked) s

/-- Step 4 on one queue: commands that have not started complete REVOKED; a FENCE_ADVANCE among them is performed. -/
def State.flushQueue (s : State) (x : Ctx) (q n : Nat) : State :=
  s.endQueue x q stRevoked (fun cmd s =>
    match field cmd 0 2, s.fenceRef x (field cmd 8 1) (field cmd 16 8) with
    | 0x11, .ok f => if f.mirror || field cmd 8 1 ≠ 1 then s else (s.advanceFence f (field cmd 24 8)).2.2
    | _, _ => s) n

/-- Step 5: the pending fence advances of the context's segments whose conditions hold are performed (R128). -/
def State.flushAdvances (s : State) (c : Nat) : State :=
  (s.core.fadvs.filter fun x => (s.segRec x.seg).any (fun r => r.ctx = c) && s.marksDone 0xFF x.marks).foldl
    State.performAdvance s

/-- Waits on a context's fences that have come to an end complete before the fences' handles go (R270, Table HOST-8). -/
def State.settleWaits (s : State) (c : Nat) : State :=
  s.pool.waits.foldl (fun (s : State) w =>
    match (s.ctx w.ctx).map (s.waitFence w) with
    | some (.ok f) =>
      match s.waitSees f w.value with
      | some st => if f.ctx = c && !f.mirror then s.finishWait w st else s
      | none => s
    | _ => s) s

/-- The boundary at which a revocation takes effect: the context is REVOKING and its work unwinds in R275's order; its
grants end (R281). It is freed at the following boundary. -/
def State.revokeCtx (s : State) (c : Nat) (by_ : Option (Nat × Nat × Nat)) : State :=
  let fail (s : State) (st : Nat) : State := match by_ with
    | some b => s.complete b.1 b.2.1 st 0
    | none => s
  match s.ctx c with
  | none => fail s stNoObject
  | some x =>
    if x.revoking then fail s stRevoked
    else
      let s := s.onCtx c fun y => { y with revoking := true }
      let s := s.revokeWork c
      let s := x.queues.foldl (fun (s : State) q => s.flushQueue x q.num q.entries) s
      let s := (s.flushAdvances c).endPoolOps c stRevoked
      let s : State := { s with pool := { s.pool with
        holds := s.pool.holds.filter (·.ctx ≠ c), resWait := s.pool.resWait.filter fun w => w.2.1 ≠ c } }
      let s := s.order.foldl (fun (s : State) g =>
        if g.ctx = c then { s with loader := { s.loader with idleSegs := setBit s.loader.idleSegs g.seg } } else s) s
      let s := s.settleWaits c
      let s := (s.pool.fences.filter fun f => f.ctx = c && !f.mirror).foldl State.killHandles s
      let s := s.killGrants fun g => g.ctx = c
      let s := if c < 16 then s.reshare else s
      s.stageNext (.freeCtx c by_)

/-- The boundary that follows: pages unmapped, registry entries and number freed, CTX_DESTROY complete. -/
def State.freeCtx (s : State) (c : Nat) (by_ : Option (Nat × Nat × Nat)) : State :=
  match s.ctx c with
  | none => s
  | some x =>
    let s := (s.pool.fences.filter fun f => f.ctx = c && !f.mirror).foldl State.dropFence s
    let s : State := { s with pool := { s.pool with
      ctxs := s.pool.ctxs.filter (·.num ≠ c), marks := s.pool.marks.filter (·.ctx ≠ c),
      freed := if c < 16 then s.pool.freed else mins s.pool.freed c s.now, former := mins s.pool.former c x.party,
      resWait := s.pool.resWait.filter fun w => w.2.1 ≠ c } }
    let s := s.releasePages (dedupNat (x.pages.map fun g => g.2.1))
    match by_ with
    | some b => s.complete b.1 b.2.1 stOk 0
    | none => s

/-- A revoke of a party: every context, root included, and every grant from or to it (R276, R281). -/
def State.revokeAll (s : State) (p : Nat) : State :=
  let s := (s.pool.ctxs.filter fun c => c.party = p && !c.revoking).foldl (fun (s : State) c => s.revokeCtx c.num none) s
  let s := s.killGrants fun g => g.src = p || g.importer = p
  { s with pool := { s.pool with noRoot := setBit s.pool.noRoot p } }

/-- A grant that was withdrawn ends at the boundary; a later one in its table entry has another handle (R281). -/
def State.ungrant (s : State) (h : Nat) : State := s.killGrants fun g => grantHandle g = h

/-! Mirrors (R272, R273) -/

/-- A mirror record's written fields: binding, period, party. Reserved bits and bytes are ignored (R10). -/
def mirrorRecOk (b : List Byte) : Bool :=
  decide (field b 0 1 < 16 ∧ 1 ≤ field b 2 2 ∧ field b 2 2 ≤ 4000 ∧ field b 4 1 < 16)

/-- A mirror record enables its mirror. -/
def mirrorEnable (b : List Byte) : Bool := (field b 1 1).testBit 0

def records (n : Nat) : Nat → List Byte → List (List Byte)
  | 0, _ => []
  | k + 1, b => if b.isEmpty then [] else b.take n :: records n k (b.drop n)

/-- Registry entries that the mirrors of some records need, of one party or of all. -/
def mirrorNeed (rs : List (List Byte)) (p : Option Nat) : Nat :=
  (rs.filter fun b => mirrorEnable b && (p.all fun q => field b 4 1 = q)).length

/-- What stands against a mirror table: BAD_TYPE for its length, RANGE, and LIMIT when the registry has no room (R268). -/
def State.mirrorStatus (s : State) (data : List Byte) : Nat :=
  let rs := records 32 33 data
  let own (p : Option Nat) : Nat := (s.pool.fences.filter fun f => !f.mirror && p.all fun q => f.party = q).length
  if data.length % 32 ≠ 0 ∨ 1024 < data.length then stBadType
  else if !rs.all mirrorRecOk then stRange
  else if 4096 < own none + mirrorNeed rs none ∨ (List.range 16).any (fun p => decide (256 < own (some p) + mirrorNeed rs (some p)))
    then stLimit else stOk

/-- MIRROR_TABLE_WRITE. -/
def State.mirrorSetting (s : State) (r : Req) (data : List Byte) : State :=
  s.orderBytes r 0x3890 2 data.length (s.mirrorStatus data) fun s =>
    ({ s with dict := { s.dict with doms := mset [] s.dict.doms 0x389002 data } }).stage (.mirrors data)

def execMirrorTableWrite (r : Req) (data : List Byte) (s : State) : Out := .next (s.mirrorSetting r data)

/-- A written record takes effect at a boundary: one that follows the same handle for the same party keeps its registry
entry and value, and a REVOKED one is LIVE again; any other starts anew (log 69). -/
def State.setMirror (s : State) (old : Option Mirror) (b : List Byte) : State × Mirror :=
  let off : Mirror := ⟨field b 0 1, mirrorEnable b, field b 2 2, field b 4 1, 0, field b 8 8, 0, 4096, 0, 0, 0⟩
  let same := match old with
    | some m => m.enable && off.enable && m.src = off.src && m.party = off.party && m.handle = off.handle
    | none => false
  match same, old with
  | true, some m => (s, { m with period := off.period, state := if m.state = 3 then 1 else m.state, missed := 0 })
  | _, _ =>
    let s := match old with
      | some m => if m.enable then (s.pool.fences.filter (·.idx = m.fence)).foldl State.dropFence s else s
      | none => s
    if !off.enable then (s, off)
    else
      match s.fenceRoom off.party with
      | none => (s, off)
      | some i =>
        (s.takeFence ⟨i, 0, off.party, 0xFFFF, 0, 0, 0, [], true⟩,
          { off with state := 1, fence := i, polled := s.frame.number })

/-- The mirror table takes effect. -/
def State.applyMirrors (s : State) (data : List Byte) : State :=
  let rs := records 32 32 data
  let olds := s.pool.mirrors
  let s := (olds.drop rs.length).foldl (fun (s : State) m =>
    if m.enable then (s.pool.fences.filter (·.idx = m.fence)).foldl State.dropFence s else s) s
  let (s, ms) := (rs.zipIdx).foldl (fun (q : State × List Mirror) x =>
    let (t, m) := q.1.setMirror olds[x.2]? x.1
    (t, q.2 ++ [m])) (s, [])
  { s with pool := { s.pool with mirrors := ms } }

/-- The local handle of a mirror (Table HOST-5). -/
def State.mirrorHandle (s : State) (m : Mirror) : Nat :=
  match s.pool.fences.find? (·.idx = m.fence) with
  | some f => handleOf 2 m.src m.party f.idx f.gen
  | none => 0

/-- A mirror after a poll: its answer's status and value, none when no answer came (R272, R273). An answer CHAFF carries the
source's registry value (R294). -/
def mirrorAfter (m : Mirror) (status : Option Nat) (value : Nat) : Mirror :=
  match status with
  | none => { m with missed := m.missed + 1, state := if 2 ≤ m.missed then 2 else m.state }
  | some st =>
    if st = stRevoked ∨ st = stNoObject then { m with state := 3, missed := 0 }
    else if st ≠ stOk ∧ st ≠ stChaff then { m with state := 1, missed := 0 }
    else if value < m.value then { m with state := 1, missed := 0, lower := m.lower + 1 }
    else { m with state := 1, missed := 0, value := value }

/-- MIRROR_POLL: a due mirror reads its source through the bound party's channel. The local party is charged (R300), in the
figures of its root context (R274; log 199). -/
def execMirrorPoll (i : Nat) (status : Option Nat) (value : Nat) (s : State) : Out :=
  .next (match s.pool.mirrors[i]? with
    | none => s
    | some m =>
      if s.poolMute || !s.active || !m.enable || m.state = 0 || m.state = 3 || decide (s.frame.number < m.polled + m.period)
        then s
      else
        let n := mirrorAfter { m with polled := s.frame.number } status value
        let s : State := { s with
          out := s.out ++ [.mirrorPoll m.src m.handle],
          pool := { s.pool with
            mirrors := setAt s.pool.mirrors i n,
            fences := s.pool.fences.map fun f => if f.idx = m.fence && f.mirror then { f with value := max f.value n.value } else f } }
        (s.charge m.party m.party 1 false).traceDevice m.party (status.getD stNotReady) (unitPool 0) m.party 0 1 i)

end Sys2Proof.Machine
end

