-- ==== Sys2Proof/Machine/Sense.lean ====
section
/-! DEFINITION. The sensor front end (09): samples and their marks, overload and recovery windows, bias states, Q counts
and marks, blocks cut at the tick, and intake jobs. Channels: V0 to V7 are 0 to 7, E0 to E3 8 to 11, T0 to T3 12 to 15,
Q0 and Q1 16 and 17. -/

namespace Sys2Proof.Machine

open Sys2Proof

/-! Entries of a channel (R203) -/

def chanReg (i sub : Nat) : Nat := okey (0x2800 + i) sub
def qReg (q sub : Nat) : Nat := okey (0x2820 + q) sub

def State.chan (s : State) (i : Nat) : Channel := s.channels.getD i Channel.blank
def State.onChan (s : State) (i : Nat) (f : Channel → Channel) : State := { s with channels := upd s.channels i f }

/-- The mode value OFF of a channel. -/
def chanOff (i : Nat) : Nat := if 12 ≤ i ∧ i < 16 then 3 else 2

/-- The mode in force (0x2800:02, 0x2820:02). -/
def State.chanMode (s : State) (i : Nat) : Nat := if i < 16 then s.reg (chanReg i 2) else s.reg (qReg (i - 16) 2)

/-- The latency from a sample's instant to its readiness, ns (Table SENSE-1). -/
def State.latency (s : State) (i : Nat) : Nat :=
  if i < 8 then s.samplePeriod i * 10 / 64 + 2000 else if i < 12 then 1000 else s.samplePeriod i * 3 / 64

/-- Samples of 50 ms at the highest rate: what a ring holds (R192; log 70). -/
def ringSize (i : Nat) : Nat := if i < 8 then 12800 else if i < 12 then 100000 else 200

/-! Overload (R189, R190) -/

/-- V and E channels have overload intervals. -/
def hasOverload (i : Nat) : Bool := decide (i < 12)

/-- The sign of the overload interval of a channel that an instant lies in. -/
def overloadSign (c : Channel) (t : Nat) : Option Bool :=
  match c.ovl with
  | some (pos, a) => if a ≤ t then some pos else (c.ovrWin.find? fun w => decide (w.1 ≤ t ∧ t < w.2.1)).map (·.2.2)
  | none => (c.ovrWin.find? fun w => decide (w.1 ≤ t ∧ t < w.2.1)).map (·.2.2)

/-- A SUS window covers an instant: the channel's own, or an interval of its group that still runs (Table SENSE-5). -/
def State.inSusWindow (s : State) (i t : Nat) : Bool :=
  ((s.chan i).susWin.any fun w => decide (w.1 ≤ t ∧ t < w.2)) ||
    (hasOverload i && (List.range 12).any fun j => j ≠ i && sameFour i j &&
      (match (s.chan j).ovl with
       | some (_, a) => decide (a ≤ t)
       | none => false))

/-- OVERLOAD_START: a V or E input goes beyond full scale. -/
def execOverloadStart (ch : Nat) (positive : Bool) (s : State) : Out :=
  .next (if !hasOverload ch || s.chanMode ch = chanOff ch || s.husk.xtalStopped || (s.chan ch).ovl.isSome then s
    else s.onChan ch fun c => { c with ovl := some (positive, s.now) })

/-- Windows that end long ago mark no sample any longer: the longest latency is below 10 ms. -/
def recentWin (now : Nat) (l : List (Nat × Nat)) : List (Nat × Nat) := l.filter fun w => decide (now < w.2 + 10000000)

/-- OVERLOAD_END: the recovery windows of the channel and of its group of four (Table SENSE-5). -/
def execOverloadEnd (ch : Nat) (s : State) : Out :=
  .next (match (s.chan ch).ovl with
    | none => s
    | some (pos, a) =>
      let per := ceilDiv (s.samplePeriod ch) 64
      let own := if ch < 8 then max 24000 (ceilDiv (3 * s.samplePeriod ch) 64) else 3000
      let others := if ch < 8 then max 6000 per else 1000
      let e := s.now
      let s := s.onChan ch fun c =>
        { c with ovl := none, susWin := recentWin e c.susWin ++ [(e, e + own)],
                 ovrWin := (c.ovrWin.filter fun w => decide (e < w.2.1 + 10000000)) ++ [(a, e, pos)] }
      (List.range 12).foldl (fun (s : State) j =>
        if j ≠ ch && sameFour ch j then s.onChan j fun c => { c with susWin := recentWin e c.susWin ++ [(a, e + others)] }
        else s) s)

/-! Samples (R183 to R193) -/

/-- A sample word (Tables SENSE-2 to SENSE-4): an OVR sample carries the clip code of its sign. -/
def sampleWord (i : Nat) (code : Int) (ovr : Option Bool) (sus bias : Bool) (pga : Nat) : BitVec 32 :=
  let w := if i < 8 then 20 else if i < 12 then 16 else 24
  let c : Int := match ovr with
    | some true => 2 ^ (w - 1) - 1
    | some false => -(2 ^ (w - 1) : Int)
    | none => satn w code
  let b (x : Bool) (n : Nat) : Nat := if x then 2 ^ n else 0
  BitVec.ofNat 32 (unsignedOf w c + b ovr.isSome w + b sus (w + 1) + (if i < 8 ∨ 12 ≤ i then b bias (w + 2) else 0) +
    (if i < 8 then pga * 2 ^ 24 else 0))

/-- The tick of the last cut is not over: what becomes ready by then belongs to the block cut at it, as a frame that a SYNC_IN
edge starts begins 80 ns after the edge (R192, R431). -/
def Channel.cutOpen (c : Channel) (now : Nat) : Bool := c.cutTick.any fun t => decide (now ≤ t)

/-- Put a sample in its ring; the oldest is overwritten when the ring is full (R192). -/
def pushSample (i : Nat) (c : Channel) (x : Sample) : Channel :=
  if c.cutOpen x.ready then
    if c.cut.length < ringSize i then { c with cut := c.cut ++ [x] }
    else { c with cut := c.cut.drop 1 ++ [x], cutGap := true }
  else if c.ring.length < ringSize i then { c with ring := c.ring ++ [x] }
  else { c with ring := c.ring.drop 1 ++ [x], gap := true }

/-- The input-referred value of a code, nV: its part of the full scale of Table SENSE-1; an RTD's ohms as the volts that 250 µA
drop over them (R186, R188). -/
def State.sampleNv (s : State) (i : Nat) (code : Int) (pga : Nat) : Int :=
  if i < 8 then Int.fdiv (code * 10000000000) (2 ^ (19 + pga))
  else if i < 12 then Int.fdiv (code * 2500000000) (2 ^ 15)
  else Int.fdiv (code * (if s.chanMode i = 0 then 2500000000 else if s.chanMode i = 1 then 78125000 else 1000000000)) (2 ^ 23)

/-- The PGA index under which a sample of an instant was converted (R184). -/
def State.pgaAt (s : State) (i t : Nat) : Nat :=
  match (s.chan i).pgaWas.find? fun x => decide (t < x.1) with
  | some x => x.2
  | none => s.pga i

/-- SAMPLE_READY: a conversion of V, E or T with its instant; not before its latency has passed. `beyond` says that a T
conversion saw its input beyond full scale, `openIn` that its burnout test found the input open. -/
def execSampleReady (ch : Nat) (code : Int) (instant : Nat) (beyond openIn : Bool) (s : State) : Out :=
  .next (if decide (16 ≤ ch) || !s.domainOn 2 || s.husk.power = .off || s.husk.xtalStopped || s.chanMode ch = chanOff ch ||
        decide (s.now + 20 < instant + s.latency ch) then s
    else
      let ovr := if ch < 12 then overloadSign (s.chan ch) instant else if beyond then some (decide (0 ≤ code)) else none
      let sus := ovr.isNone && (s.calSus ch instant || (decide (ch < 12) && s.inSusWindow ch instant))
      let bias := if ch < 8 then s.chanMode ch = 1 && s.reg (chanReg ch 11) ≠ 0
        else decide (12 ≤ ch) && openIn && decide (s.chanMode ch = 1 ∨ s.chanMode ch = 2)
      let s := if ovr.isSome then s.bump (chanReg ch 9) else s
      let s := if sus then s.bump (chanReg ch 10) else s
      let s := if ovr.isSome then s.noteOvr ch instant else s
      s.onChan ch fun c =>
        let x : Sample := ⟨c.seq, ((instant : Int) + s.husk.timeOff).toNat, s.now, sampleWord ch code ovr sus bias
          (s.pgaAt ch instant)⟩
        { pushSample ch c x with
          recent := (c.recent.filter fun y => decide (s.now < y.1 + 50000000)) ++
            [(instant, s.sampleNv ch code (s.pgaAt ch instant))]
          seq := c.seq + 1, lastOvr := if ovr.isSome then some instant else c.lastOvr })

/-- The bias state that the mean of some readings gives, in mV, under an IEPE supply: 2 SHORT below 1.0 V, 1 OPEN above the
supply less 1.0 V, else 0 OK (R185). -/
def biasOf (readings : List Int) (supply : Int) : Nat :=
  let sum := readings.foldl (· + ·) 0
  let n : Int := readings.length
  if sum < 1000 * n then 2 else if (supply - 1000) * n < sum then 1 else 0

/-- BIAS_STATE_CHANGE: the mean of a channel's DC level over 10 ms, given by its readings, leads to another bias state: 0 OK,
1 OPEN, 2 SHORT; OPEN and SHORT raise an ANALOG record (R185). -/
def execBiasStateChange (ch : Nat) (readings : List Int) (supply : Int) (s : State) : Out :=
  let st := biasOf readings supply
  .next (if 8 ≤ ch ∨ readings.isEmpty ∨ s.chanMode ch ≠ 1 ∨ s.reg (chanReg ch 11) = st ∨ s.husk.xtalStopped then s
    else
      let s := s.setReg (chanReg ch 11) st
      if st = 0 then s else s.fault clsAnalog 4 (unitAfe ch) noParty st)

/-! Q inputs (R187, R194) -/

/-- The place of a pair of levels in the quadrature cycle A before B. -/
def quadPos (a b : Bool) : Nat := if a then (if b then 2 else 1) else (if b then 3 else 0)

/-- What a level change counts: +1, −1, an error, or nothing. -/
inductive Edge where
  | step (d : Int)
  | error
  | none
  deriving DecidableEq, Repr

/-- QUAD counts each change by the phase, TACHO rising edges of A; a change of both levels is an error (log 71). -/
def edgeOf (mode : Nat) (a0 b0 a b : Bool) : Edge :=
  if mode = 1 then (if a && !a0 then .step 1 else .none)
  else if mode ≠ 0 then .none
  else
    match (quadPos a b + 4 - quadPos a0 b0) % 4 with
    | 0 => .none
    | 1 => .step 1
    | 3 => .step (-1)
    | _ => .error

/-- A count crosses a multiple of m on its way from a to b. DESIGN CHOICE (log 138): a count that goes up crosses k·m when it
arrives there, and one that goes down when it leaves it, from k·m to k·m − 1; the event or mark carries the count after the
edge (R20, R194). DESIGN CHOICE (log 139): the step between the greatest and the least 32-bit count always crosses one,
whatever m is; the spec does not say how multiples go on over the wrap. -/
def crosses (m : Nat) (a b : Int) : Bool := decide (Int.fdiv a m ≠ Int.fdiv b m) || decide (1 < (a - b).natAbs)

/-- The net count of a Q input. -/
def State.netCount (s : State) (q : Nat) : Int := signedOf 32 (s.reg (qReg q 5))

/-! The glitch filter (R187) -/

/-- One input's level changes at `now`: when the change before it had not been stable for the filter time f, both were a
glitch. -/
def seenChange (f now : Nat) (pend : List Nat) : List Nat :=
  match pend.getLast? with
  | some p => if p + f ≤ now then pend ++ [now] else pend.dropLast
  | none => [now]

/-- The levels at the balls are seen. -/
def Channel.seen (c : Channel) (a b : Bool) (f now : Nat) : Channel :=
  { c with rawA := a, pendA := if a = c.rawA then c.pendA else seenChange f now c.pendA,
           rawB := b, pendB := if b = c.rawB then c.pendB else seenChange f now c.pendB }

/-- A pending change is stable: another came after it, or the filter time has passed. -/
def stableFor (f now : Nat) : List Nat → Bool
  | [] => false
  | [p] => decide (p + f ≤ now)
  | _ :: _ => true

/-- The oldest change of A, of B or of both passes the filter, with the instant of the first; t is that instant. -/
def Channel.passEdge (c : Channel) (a b : Bool) (t : Nat) : Channel :=
  let c := { c with pendA := if a then c.pendA.drop 1 else c.pendA, pendB := if b then c.pendB.drop 1 else c.pendB }
  { c with edges := c.edges ++ [(t, c.rawA ^^ decide (c.pendA.length % 2 = 1), c.rawB ^^ decide (c.pendB.length % 2 = 1))] }

/-- The oldest change that has been stable for the filter time f passes the filter; changes of A and B that begin within one
filter time pass together, once both are stable (log 164). In TACHO B is ignored: each input passes for itself. -/
def Channel.filterOne (c : Channel) (tacho : Bool) (f now : Nat) : Channel :=
  let okA := stableFor f now c.pendA
  let okB := stableFor f now c.pendB
  match c.pendA, c.pendB with
  | [], [] => c
  | p :: _, [] => if okA then c.passEdge true false p else c
  | [], q :: _ => if okB then c.passEdge false true q else c
  | p :: _, q :: _ =>
    if tacho then (if okA then c.passEdge true false p else if okB then c.passEdge false true q else c)
    else if max p q < min p q + f then (if okA && okB then c.passEdge true true (min p q) else c)
    else if p < q then c.passEdge true false p
    else c.passEdge false true q

/-- Every change that has passed by now. -/
def Channel.filterAll (c : Channel) (tacho : Bool) (f now : Nat) : Channel :=
  (List.range (c.pendA.length + c.pendB.length)).foldl (fun c _ => c.filterOne tacho f now) c

/-- The stamp of an edge: the instant of its first level change, in steps of 5 ns. -/
def edgeStamp (t : Nat) : Nat := t / 5 * 5

/-- A mark joins those since the last cut, or those of the block whose tick is not over (R192, R194). -/
def Channel.addMark (c : Channel) (m : Mark) (now : Nat) : Channel :=
  if c.cutOpen now then { c with cutMarks := c.cutMarks ++ [m], seq := c.seq + 1 }
  else { c with marks := c.marks ++ [m], seq := c.seq + 1 }

/-- The counts at the tick include what counts up to it (R194). -/
def State.cutCounts (s : State) (q : Nat) : State :=
  if (s.chan (16 + q)).cutOpen s.now then
    s.onChan (16 + q) fun c => { c with cutCount := s.netCount q, cutErrs := s.reg (qReg q 6) }
  else s

/-- A filtered level change of a Q input, first seen at t: count, error count and marks. -/
def State.qChange (s : State) (q t : Nat) (a b : Bool) : State :=
  let c := s.chan (16 + q)
  let s := s.onChan (16 + q) fun c => { c with lvlA := a, lvlB := b }
  match edgeOf (s.chanMode (16 + q)) c.lvlA c.lvlB a b with
  | .none => s
  | .error => (s.bump (qReg q 6)).cutCounts q
  | .step d =>
    let n := s.netCount q
    let v := signedOf 32 (unsignedOf 32 (n + d))
    let u := s.setReg (qReg q 5) (unsignedOf 32 v)
    let u := if crosses (max 1 (s.inForce (qReg q 4))) n v then
        u.onChan (16 + q) fun c => c.addMark ⟨c.seq, ((edgeStamp t : Int) + s.husk.timeOff).toNat, v⟩ s.now
      else u
    u.cutCounts q

/-- The angle event of an edge: the selected input's count crosses a multiple of N (R19, R20): its instant, which is that
of a frame it starts without lag, and its count. -/
def State.angleEvent (s t : State) (q : Nat) : Option (Nat × Int) :=
  if s.source = 3 ∧ s.inForce 0x4C0401 = q ∧ crosses (max 1 (s.inForce 0x4C0402)) (s.netCount q) (t.netCount q) then
    some (s.now, t.netCount q)
  else none

/-! Configuration (R184, R195) -/

/-- The plan has an intake job that reads a channel. -/
def State.jobReads (s : State) (i : Nat) : Bool :=
  match s.loader.plan with
  | some p => p.segs.any fun g => g.jobs.any fun j => j.channels.testBit i
  | none => false

/-- The entry index of a channel. -/
def chanIndex (i : Nat) : Nat := if i < 16 then 0x2800 + i else 0x2820 + (i - 16)

/-- A change of mode or rate is DENIED while the plan reads the channel. -/
def State.chanStatus (s : State) (ch sub v : Nat) : Nat :=
  if (sub = 1 ∨ (sub = 3 ∧ ch < 16)) ∧ s.jobReads ch ∧ s.reg (okey (chanIndex ch) sub) ≠ v then stDenied else stOk

def State.chanSetting (s : State) (r : Req) (ch sub v : Nat) : State :=
  s.setting r (chanIndex ch) sub v (s.chanStatus ch sub v)

/-- CHANNEL_CONFIG_WRITE. -/
def execChannelConfigWrite (r : Req) (ch sub v : Nat) (s : State) : Out := .next (s.chanSetting r ch sub v)

/-- At a boundary mode, rate and PGA follow what is commanded; a change marks the next block. A channel that enters IEPE
has bias state OK, one that leaves it 3. `old` is the register file of the frame that ends. -/
def State.chanBoundary (s : State) (old : List (Nat × Nat)) : State :=
  let s := (List.range 16).foldl (fun (s : State) i =>
    let m := s.inForce (chanReg i 1)
    let was := s.reg (chanReg i 2)
    let chg := decide (was ≠ m ∨ s.reg (chanReg i 4) ≠ s.inForce (chanReg i 3) ∨
      (i < 8 ∧ (s.reg (chanReg i 6) ≠ s.inForce (chanReg i 5) ∨ mget 0 old (chanReg i 7) ≠ s.inForce (chanReg i 7))))
    let s := (s.setReg (chanReg i 2) m).setReg (chanReg i 4) (s.inForce (chanReg i 3))
    let s := if i < 8 ∧ s.pga i ≠ s.inForce (chanReg i 5) then
        (s.onChan i fun c => { c with
          pgaWas := (c.pgaWas.filter fun x => decide (s.now < x.1 + 10000000)) ++ [(s.now, s.pga i)] }).setReg (chanReg i 6)
          (s.inForce (chanReg i 5))
      else s
    let s := if i < 8 ∧ was ≠ m then s.setReg (chanReg i 11) (if m = 1 then 0 else 3) else s
    if chg then s.onChan i fun c => { c with changed := true } else s) s
  (List.range 2).foldl (fun (s : State) q =>
    let chg := decide (s.reg (qReg q 2) ≠ s.inForce (qReg q 1))
    let s := s.setReg (qReg q 2) (s.inForce (qReg q 1))
    if chg then s.onChan (16 + q) fun c => { c with changed := true } else s) s

/-! Blocks (R192 to R194) -/

/-- A segment's jobs run in this frame: not in T3 unless it is CRITICAL, not in DOZE, not when it is idle for a
revocation. -/
def State.jobsRun (s : State) (seg : Nat) : Bool :=
  decide (s.husk.power ≠ .doze) && (match s.segRec seg with
   | some r => decide (s.tier ≠ 3) || r.critical
   | none => false) && !s.loader.idleSegs.testBit seg

/-- An intake job that runs in this frame reads a channel (R192, R202). -/
def State.jobReadsNow (s : State) (i : Nat) : Bool :=
  s.loader.plan.any fun p => p.segs.any fun g => s.jobsRun g.hdr.segment && g.jobs.any fun j => j.channels.testBit i

/-- The cut at a tick, for each channel that an intake job of this frame reads, before the tick's changes of configuration take
effect (log 163); the rings of the others go on filling (R202). -/
def State.cutBlocks (s : State) : State :=
  (List.range 18).foldl (fun (s : State) i =>
    if !s.jobReadsNow i then s
    else
      let n := if i < 16 then 0 else s.netCount (i - 16)
      let e := if i < 16 then 0 else s.reg (qReg (i - 16) 6)
      s.onChan i fun c =>
        { c with cut := c.ring, ring := [], cutMarks := c.marks, marks := [], cutGap := c.gap, gap := false,
                 cutChg := c.changed, changed := false, cutPeriod := s.samplePeriod i, cutCount := n, cutErrs := e,
                 cutTick := some s.frame.start }) s

/-- The newest n of a list. -/
def newest {α : Type} (n : Nat) (l : List α) : List α := l.drop (l.length - n)

/-- OVR, SUS and BIAS or OPEN of a sample word. -/
def wordOvr (i : Nat) (w : BitVec 32) : Bool := w.toNat.testBit (if i < 8 then 20 else if i < 12 then 16 else 24)
def wordSus (i : Nat) (w : BitVec 32) : Bool := w.toNat.testBit (if i < 8 then 21 else if i < 12 then 17 else 25)
def wordBias (i : Nat) (w : BitVec 32) : Bool :=
  if i < 8 then w.toNat.testBit 22 else if i < 12 then false else w.toNat.testBit 26

/-- The samples of a block under a limit, and the marks of a Q block, at most 256. -/
def blockSamples (c : Channel) (limit : Nat) : List Sample := newest limit c.cut
def blockMarks (c : Channel) : List Mark := newest 256 c.cutMarks

/-- A block as bytes: header (Table SENSE-6), then words, or net count, error count and marks (R194). Unit 18, the NTC,
delivers no samples: its block is a header of an open kind (log 73). -/
def blockBytes (i : Nat) (c : Channel) (limit : Nat) : List Byte :=
  let b (x : Bool) (n : Nat) : Nat := if x then n else 0
  let head (kind flags count stamp period seq : Nat) : List Byte :=
    leBytes 2 i ++ leBytes 1 kind ++ leBytes 1 flags ++ leBytes 4 count ++ leBytes 8 stamp ++ leBytes 4 period ++
      leBytes 8 seq ++ leBytes 4 0
  if i < 16 then
    let xs := blockSamples c limit
    let kind := if i < 8 then 0 else if i < 12 then 1 else 2
    let fl := b (c.cutGap || decide (limit < c.cut.length)) 1 + b (xs.any fun x => wordOvr i x.word) 2 +
      b (xs.any fun x => wordSus i x.word) 4 + b (xs.any fun x => wordBias i x.word) 8 + b c.cutChg 16
    head kind fl xs.length ((xs.head?.map (·.instant)).getD 0) c.cutPeriod ((xs.head?.map (·.seq)).getD c.seq) ++
      xs.flatMap fun x => leBytes 4 x.word.toNat
  else if i = 18 then head (Config.freeNat 18 % 256) 0 0 0 0 0
  else
    let ms := blockMarks c
    head 3 (b (c.cutGap || decide (256 < c.cutMarks.length)) 1 + b c.cutChg 16) ms.length ((ms.head?.map (·.stamp)).getD 0) 0
        ((ms.head?.map (·.seq)).getD c.seq) ++
      leBytes 4 (unsignedOf 32 c.cutCount) ++ leBytes 4 c.cutErrs ++
      ms.flatMap fun m => leBytes 8 m.stamp ++ leBytes 4 (unsignedOf 32 m.count)

/-! Intake jobs (R196 to R202) -/

/-- The channels of a job in ascending index. -/
def jobChannels (j : IntakeJob) : List Nat := (List.range 19).filter fun i => j.channels.testBit i

/-- The blocks of a job back to back. -/
def State.jobInput (s : State) (j : IntakeJob) : List Byte :=
  (jobChannels j).flatMap fun i => blockBytes i (s.chan i) j.limit

/-- A sample that a job reads carries OVR or SUS (R190). -/
def State.jobMarked (s : State) (j : IntakeJob) : Bool :=
  (jobChannels j).any fun i => decide (i < 16) &&
    (blockSamples (s.chan i) j.limit).any fun x => wordOvr i x.word || wordSus i x.word

/-- Sample words that a job's blocks deliver. -/
def State.jobWords (s : State) (j : IntakeJob) : Nat :=
  ((jobChannels j).map fun i => if i < 16 then (blockSamples (s.chan i) j.limit).length else 0).foldl (· + ·) 0

/-- The offset of a job from the tick: 1 µs, then the run times before it on its engine (R197). A job that does not run in
T3 keeps its place (log 72). -/
def jobStart (p : PlanImage) (seg : Nat) (j : IntakeJob) : Nat :=
  1000 + (((imgsOf p).flatMap fun g => (sortBy (·.job) (g.jobs.filter (·.engine = j.engine))).map fun x =>
    if g.hdr.segment < seg ∨ (g.hdr.segment = seg ∧ x.job < j.job) then x.runTime else 0).foldl (· + ·) 0)

/-- A RAW job writes its blocks back to back from the output address (R196). -/
def State.rawJob (s : State) (seg : Nat) (j : IntakeJob) : State :=
  match s.segRec seg with
  | none => s
  | some r =>
    let bs := s.jobInput j
    let s := ((s.writeCtx r.party r.ctx j.outAddr bs).charge r.party r.ctx (lineCount j.outAddr bs.length) true).traceOut
      ⟨0x20, r.party, false, false, stOk, unitDomain 2, r.ctx, j.outAddr, lineCount j.outAddr bs.length, j.job, false⟩
    let n := min j.maxVec (s.jobWords j)
    s.onCore fun c => { c with counts := mset 0 c.counts (seg * 128 + j.job) n }

/-- A run whose certified time is over has stopped with TIME_LIMIT (R197). -/
def State.expireRun (s : State) (e : Nat) : State := if (s.pip e).running && s.pipLate e then s.pipStop e pxTime else s

/-- INTAKE_JOB: a job at its fixed start in INTAKE, once in a frame and after the engine's earlier jobs (R197). -/
def execIntakeJob (seg job : Nat) (s : State) : Out :=
  .next (match s.loader.plan, (s.segImg seg).bind fun g => (g.jobs.find? (·.job = job)).map fun j => (g, j) with
    | some p, some (g, j) =>
      let at_ := s.frame.start + jobStart p seg j
      let s := s.expireRun j.engine
      let e := s.pip j.engine
      if !s.active || s.frame.phase ≠ .intake || decide (s.now < at_) || e.running || !s.jobsRun seg ||
          (decide (s.frame.start < e.start) && decide (seg * 64 + job ≤ e.seg * 64 + e.item)) then s
      else
        let s := if s.jobMarked j then s.flagSus seg else s
        if j.raw then (s.rawJob seg j).onPip j.engine fun x => { x with seg := seg, item := job, start := at_ }
        else
          match g.intakeImages[j.image]? with
          | none => s
          | some img =>
            let k := okey (0x2840 + j.engine) 1
            let s := (s.bump64 k).bump64 (pkey (s.segParty seg) k)
            (s.startPip j.engine img seg job j.runTime (s.jobInput j)).onPip j.engine fun x => { x with start := at_ }
    | _, _ => s)

end Sys2Proof.Machine
end

