-- ==== Sys2Proof/Machine/Integ.lean ====
section
/-! DEFINITION. Silent errors (15): fencing of pods, their service and clear entries, winnow's sweeps, and what the checks
leave to a boundary. The checks themselves stand with the MVMs and the drain, the records with the operations. -/

namespace Sys2Proof.Machine

open Sys2Proof

/-! Fencing (R310, R311) -/

def serviceReg (pod sub : Nat) : Nat := okey (0x4030 + pod) sub

/-- The newest record of a list that meets a test, changed. -/
def onNewest (f : FaultRec → Bool) (g : FaultRec → FaultRec) (l : List FaultRec) : List FaultRec :=
  match l.reverse.findIdx? f with
  | some i => upd l (l.length - 1 - i) g
  | none => l

/-- A CHECK record of cause CHECKSUM or DUPLICATE that names a pod. -/
def namesPod (pod : Nat) (r : FaultRec) : Bool := r.cls = clsCheck && decide (r.cause ≤ 2) && r.unit = unitPod pod

/-- POD_FENCE: a pod named in its 8th consecutive checked frame is fenced at once; the record that named it carries
FENCED. -/
def execPodFence (pod : Nat) (s : State) : Out :=
  .next (
    let p := s.pod pod
    if 40 ≤ pod ∨ !p.named ∨ p.namedRun < 7 ∨ p.fenced ∨ p.retired then s
    else
      let g (r : FaultRec) : FaultRec := { r with flags := setBit r.flags 1 }
      let s := s.onPod pod fun x => { x with fenced := true }
      let mine (h : UnitHist) : Bool := h.unit = unitPod pod && h.last.any (namesPod pod)
      { s with integ := { s.integ with
          hist := s.integ.hist.map fun h => if mine h then { h with last := h.last.map g } else h,
          dirtyHist := if s.integ.hist.any mine then sins s.integ.dirtyHist (unitPod pod) else s.integ.dirtyHist,
          log := onNewest (namesPod pod) g s.integ.log, toSend := onNewest (namesPod pod) g s.integ.toSend } })

/-- POD_SERVICE_WRITE (R311). -/
def execPodServiceWrite (r : Req) (pod v : Nat) (s : State) : Out := .next (s.setting r (0x4030 + pod) 1 v stOk)

/-- POD_CLEAR: RANGE for a retired pod and for a fenced permanent one; else the fence ends at the next boundary (R244,
R254, R320). -/
def State.podClearOrder (s : State) (r : Req) (pod v : Nat) : State :=
  let p := s.pod pod
  s.ordered r (0x4030 + pod) 3 v
    (if p.retired || (p.fenced && (s.hist (unitPod pod)).permanent) then stRange else stOk)
    fun s => s.stage (.clearPod pod)

def execPodClear (r : Req) (pod v : Nat) (s : State) : Out := .next (s.podClearOrder r pod v)

/-- The fence of a pod ends at a boundary; the count of R310 starts anew. -/
def State.clearPod (s : State) (pod : Nat) : State :=
  let s : State := { s with frame := { s.frame with differ := s.frame.differ.filter (·.1 ≠ serviceReg pod 1) } }
  s.onPod pod fun p => { p with fenced := false, namedRun := 0 }

/-- A frame ends: it counts for R310 where a pod executed a judged MVM, and MVM intervals are numbered anew (R307). -/
def State.nameBoundary (s : State) : State :=
  { s with pods := s.pods.map fun p =>
      { p with namedRun := if p.judged then (if p.named then p.namedRun + 1 else 0) else p.namedRun,
               named := false, judged := false, mvms := 0, interval := 0, slotRead := 0 } }

/-- Effective service of every pod at a boundary: 2 retired, 0 fenced or out of service, else 1 (0x4030:02). -/
def State.serviceBoundary (s : State) : State :=
  (List.range 40).foldl (fun (s : State) i =>
    let p := s.pod i
    s.setReg (serviceReg i 2) (if p.retired then 2 else if p.fenced then 0 else s.inForce (serviceReg i 1))) s

/-- Clusters with a pod out of service or one that was fenced when it retired and still serves its slot, and permanent clusters
that the plan can run without (R311, R320, 15 Edges). -/
def State.faultDown (s : State) : Nat :=
  (List.range 8).foldl (fun m c =>
    let pods := (List.range 5).any fun k => s.reg (serviceReg (5 * c + k) 2) = 0 || (s.pod (5 * c + k)).downUntilSwap
    let perm := (s.hist (unitCluster c)).permanent &&
      (match s.loader.plan with
       | some p => p.comp.downMask.testBit c
       | none => false)
    if pods || perm then setBit m c else m) 0

/-! Winnow (R312, R313) -/

/-- Winnow runs: commanded on and effective, in T0 and T1. -/
def State.winnowOn (s : State) : Bool := s.active && s.reg 0x400007 = 1 && decide (s.tier ≤ 1) && !s.pool.closed

/-- Lines of DRAM: 3.5 GiB, the pool's pages first (R277, R312). -/
def dramLines : Nat := 58720256
def poolLines : Nat := 851968 * 64

/-- The next line of the sweep from a line on: zero-marked pages are skipped. -/
def State.sweepLine (s : State) (line : Nat) : Nat :=
  if poolLines ≤ line then line
  else
    match s.pool.live.find? fun x => decide (line / 64 ≤ x.1) with
    | some x => max line (x.1 * 64)
    | none => poolLines

/-- WINNOW_READ: the next line in ascending order, at most one in 2 µs, which is 32 MB/s (log 74); `ecc` is what inline ECC
found. A pass lasts from its first line to its last (R312). -/
def execWinnowRead (ecc : Ecc) (s : State) : Out :=
  .next (
    if !s.winnowOn || decide (s.now < s.integ.winnowNext) then s
    else
      let l := s.sweepLine s.integ.winnowLine
      let began := s.integ.winnowStart.getD s.now
      let s := if l + 1 < dramLines then
          { s with integ := { s.integ with winnowLine := l + 1, winnowStart := some began, winnowNext := s.now + 2000 } }
        else { s.setReg 0x400008 ((s.now - began) / 1000000000) with
          integ := { s.integ with winnowLine := 0, winnowStart := none, winnowNext := s.now + 2000 } }
      (s.traceDevice 0 stOk (unitPool 1) 0xFFF (l * 64) 1 0).eccRead ecc l noParty)

/-- A pod's digital rows can be read: powered, not programmed or calibrated, not retired, not the source of a lift (R313). -/
def State.rowReadable (s : State) (pod : Nat) : Bool :=
  let c := pod / 5
  !(s.pod pod).retired && s.reg (okey (0x2420 + c) 2) = 1 &&
    (s.reg (podReg pod 1) = 0 || s.reg (podReg pod 11) = 1) && s.reg 0x300300 ≠ pod && (s.pod pod).calLeft = 0 &&
    !s.liftSource pod

/-- One digital row in KEEP's task 2, under conversion errors listed by column (R50, R61, R313). -/
def State.winnowRowRead (s : State) (errs : List (Nat × Int)) : State :=
  if !s.winnowOn then s
  else
    match (List.range 2560).find? fun i => s.rowReadable ((s.integ.winnowRow + i) % 2560 / 64) with
    | none => s
    | some i =>
      let n := (s.integ.winnowRow + i) % 2560
      let s : State := { s with integ := { s.integ with winnowRow := (n + 1) % 2560 } }
      let wrong := rowErrors (s.convEnv (n / 64)) (s.pod (n / 64)) (n % 64) errs
      if 5 < wrong then s.fault clsAnalog 3 (unitPod (n / 64)) noParty (n % 64)
      else if 0 < wrong then s.bump (podReg (n / 64) 10) else s

/-- The pod that takes winnow's next vector: a VERIFIED spare or a fenced pod of a powered cluster (R313); gate mode OFF keeps a
spare out (02 R59). -/
def State.vectorPod (s : State) : Option Nat :=
  let ok (i : Nat) : Bool := s.reg (okey (0x2420 + i / 5) 2) = 1 &&
    ((s.reg (podReg i 3) = 3 && s.reg (podReg i 1) = 1 && !s.gateOff i) || (s.pod i).fenced)
  ((List.range 40).filter fun i => decide (s.integ.winnowPod ≤ i)).find? ok <|> (List.range 40).find? ok

/-- A pseudo-random vector on one VERIFIED spare or fenced pod, when the slice is free: its values are open, its checksums
are judged (R313). The spare's gate is on for it until the next boundary (02 R59). -/
def State.winnowVector (s : State) : State :=
  if !s.winnowOn || s.reg 0x400002 = 0 then s
  else
    match s.vectorPod with
    | none => s
    | some pod =>
      let rows : List (Nat × Int) := (List.range 1024).map fun r => (r, satn 8 (Config.freeInt (s.free + r)))
      let s : State := { s.powerSpare pod with free := s.free + 1024, integ := { s.integ with winnowPod := (pod + 1) % 40 } }
      let (cv, s) := s.mvm pod rows (s.nextInterval pod)
      let js := checkAll (s.pod pod) rows cv (s.inForce 0x400003)
      let s := if js.isEmpty then s else s.onPod pod fun x => { x with judged := true }
      (js.filter fun x => decide (0 < x.2.2)).foldl (fun (s : State) x =>
        let key := 0x13000000 + (64 + pod) * 32 + 31
        let s := s.onPod pod fun y => { y with named := true }
        if s.limited key s.frame.number 1 then s.countRaised noParty
        else (s.mark key s.frame.number).raise (s.mkRec clsCheck 1 (unitPod pod) noParty (checkDetail x))) s

/-! Commanded and effective pairs (R242, R243) -/

/-- A pair: the registers of its commanded and its effective entry, and its unit. -/
structure Pair where
  cmd : Nat
  eff : Nat
  unit : Nat
  deriving DecidableEq, Repr

/-- Every pair of the dictionary, in ascending order of the commanded entry. -/
def allPairs : List Pair :=
  let dev : Nat := unitDomain 1
  [⟨0x240001, 0x240002, dev⟩] ++
  ((List.range 4).map fun d => ⟨okey (0x2411 + d) 1, okey (0x2411 + d) 2, unitDomain (d + 1)⟩) ++
  ((List.range 8).map fun c => ⟨okey (0x2420 + c) 1, okey (0x2420 + c) 2, unitCluster c⟩) ++
  [⟨0x246201, 0x246202, dev⟩] ++
  ((List.range 16).flatMap fun i =>
    [⟨okey (0x2800 + i) 1, okey (0x2800 + i) 2, unitAfe i⟩, ⟨okey (0x2800 + i) 3, okey (0x2800 + i) 4, unitAfe i⟩] ++
      (if i < 8 then [⟨okey (0x2800 + i) 5, okey (0x2800 + i) 6, unitAfe i⟩] else [])) ++
  ((List.range 2).map fun q => ⟨okey (0x2820 + q) 1, okey (0x2820 + q) 2, unitDomain 2⟩) ++
  ((List.range 8).map fun c => ⟨okey (0x3010 + c) 6, okey (0x3010 + c) 7, unitCluster c⟩) ++
  ((List.range 16).map fun h => ⟨okey (0x3310 + h) 3, okey (0x3310 + h) 4, dev⟩) ++
  ([0, 1, 3].map fun u => ⟨okey (0x3C00 + u) 1, okey (0x3C00 + u) 2, unitPort u⟩) ++
  [⟨0x400001, 0x400002, dev⟩, ⟨0x400004, 0x400005, dev⟩, ⟨0x400006, 0x400007, dev⟩] ++
  ((List.range 40).map fun i => ⟨serviceReg i 1, serviceReg i 2, unitPod i⟩) ++
  [⟨0x4C0000, 0x4C0100, dev⟩, ⟨0x4C0200, 0x4C0300, dev⟩, ⟨0x4C0800, 0x4C0900, dev⟩]

/-- The state of the CTRL domain: on but in OFF (16 Table POWER-1); HUSK is always on. -/
def State.ctrlState (s : State) : Nat := if s.husk.power = .off then 0 else 1

/-- What the effective entry of a pair shows. -/
def State.pairEff (s : State) (x : Pair) : Nat :=
  if x.eff = 0x240002 then powerCode s.husk.power
  else if x.eff = 0x241102 then s.ctrlState
  else if x.unit / 4096 = 7 then s.net.ports.getD (x.unit % 4096) 0
  else s.reg x.eff

/-- Why a pair differs: 0 PENDING, 1 CEILING, 2 MEDIUM, 3 FENCED (Table OD-3). A cluster without a thermal gate and a pod
that is not fenced differ by a limit of the power state, the domain or a test; a retired pod takes no service. -/
def State.pairReason (s : State) (x : Pair) : Option Nat :=
  let cmd := s.reg x.cmd
  let eff := s.pairEff x
  if cmd = eff ∨ (x.unit / 4096 = 2 ∧ eff = 2) then none
  else if cmd ≠ s.inForce x.cmd then some 0
  else if x.unit / 4096 = 7 then (if eff = 3 then some 3 else some 2)
  else if x.unit / 4096 = 1 ∧ x.eff % 256 = 2 then (if eff = 2 then some 3 else some 1)
  else if x.unit / 4096 = 2 then (if (s.pod (x.unit % 4096)).fenced then some 3 else some 1)
  else some 1

/-- A pair at a boundary: consecutive boundaries at which it differed, those with reason FENCED, DISAGREE raised. -/
def differStep (l : List (Nat × Nat × Nat × Bool)) (key : Nat) (why : Option Nat) : List (Nat × Nat × Nat × Bool) :=
  match why with
  | none => l.filter (·.1 ≠ key)
  | some w =>
    match l.find? (·.1 = key) with
    | some (_, n, f, b) => l.map fun x => if x.1 = key then (key, n + 1, if w = 3 then f + 1 else 0, b) else x
    | none => l ++ [(key, 1, if w = 3 then 1 else 0, false)]

/-- The count of R243 at a boundary. -/
def State.differBoundary (s : State) : State :=
  { s with frame := { s.frame with differ := allPairs.foldl (fun l x => differStep l x.cmd (s.pairReason x)) s.frame.differ } }

end Sys2Proof.Machine
end

