-- ==== Sys2Proof/Machine/Thermal.lean ====
section
/-! DEFINITION. Power domains and clusters, power states by command, the die sensors, the current-limit ladder, thermal
gates and the orderly shutdown (16). The changes to OFF and the ways back through a sprout stand with the resets. -/

namespace Sys2Proof.Machine

open Sys2Proof

/-! Domains and clusters (R325 to R327) -/

def domReg (d sub : Nat) : Nat := okey (0x2410 + d) sub
def gateReg (c sub : Nat) : Nat := okey (0x2420 + c) sub

/-- What R326 says of a domain enable. -/
def State.domainStatus (s : State) (d v : Nat) : Nat :=
  if v ≠ 0 then stOk
  else if d = 1 ∨ d = 4 then stRange
  else if d = 2 then
    (if s.loader.plan.any fun p => p.segs.any fun g => !g.jobs.isEmpty then stDenied else stOk)
  else if s.loader.plan.isSome then stDenied else stOk

def State.domainSetting (s : State) (r : Req) (d v : Nat) : State :=
  s.setting r (0x2410 + d) 1 v (s.domainStatus d v)

/-- DOMAIN_ENABLE_WRITE. -/
def execDomainEnableWrite (r : Req) (d v : Nat) (s : State) : Out := .next (s.domainSetting r d v)

/-- CLUSTER_ENABLE_WRITE. -/
def execClusterEnableWrite (r : Req) (c v : Nat) (s : State) : Out := .next (s.setting r (0x2420 + c) 1 v stOk)

/-- POWER_STATE_WRITE: RUN or DOZE. -/
def execPowerStateWrite (r : Req) (v : Nat) (s : State) : Out := .next (s.setting r 0x2400 1 v stOk)

/-- Set rail enables, in the order of R427: CTRL, MEM 1.1, MEM 0.6, SENSE 1.8, SENSE 5.0, COMP core, COMP array. -/
def State.setRails (s : State) (is : List Nat) (v : Bool) : State :=
  { s with husk := { s.husk with rails := is.foldl (fun l i => setAt l i v) s.husk.rails } }

/-- Something on a cluster needs power outside plan work: a pod being programmed or calibrated, or a test. -/
def State.clusterBusy (s : State) (c : Nat) : Bool :=
  (List.range 5).any (fun k => s.reg 0x300300 = 5 * c + k || (s.pod (5 * c + k)).calLeft ≠ 0) ||
    (s.test.cluster.any fun t => t.cluster = c) || (s.test.staged.any fun t => t.1 = c) ||
    (s.loader.pending.any fun x => x.bulk.any fun b => b.1 / 5 = c)

/-- A cluster needs the COMP domain: in DOZE only one that is being programmed, calibrated or tested does (Table POWER-1,
R329). `doze` says whether the state in question is DOZE. -/
def State.compNeeded (s : State) (doze : Bool) : Bool := !doze || (List.range 8).any s.clusterBusy

/-- A domain goes off. -/
def State.domainOff (s : State) (d : Nat) (rails : List Nat) : State :=
  let s := s.setReg (domReg d 2) 0
  State.setRails { s with husk := { s.husk with powerUpAt := setAt s.husk.powerUpAt d none } } rails false

/-- At a boundary a domain commanded off is off: SENSE with its rails, COMP with every cluster gated; and COMP with its rails
is off in DOZE while no cluster is needed (R326, Table POWER-1; log 77). -/
def State.domainBoundary (s : State) : State :=
  let s := if s.inForce (domReg 2 1) = 0 then s.domainOff 2 [3, 4] else s
  if s.inForce (domReg 3 1) = 0 then s.domainOff 3 []
  else if s.compNeeded (s.husk.power = .doze) then s else s.domainOff 3 [6, 5]

/-- A domain is wanted in the frame after this one: SENSE always, COMP as the state that is commanded then needs it. -/
def State.domainWanted (s : State) (d : Nat) : Bool :=
  d = 2 || s.compNeeded (s.husk.power = .doze && decide (mget 0 s.frame.keepOd 0x240001 = 3))

/-- KEEP powers up a domain that is commanded on, wanted and off (R326, Table POWER-1). -/
def State.startPowerUps (s : State) : State :=
  [2, 3].foldl (fun (s : State) d =>
    if s.inForce (domReg d 1) = 1 ∧ s.reg (domReg d 2) = 0 ∧ (s.husk.powerUpAt.getD d none).isNone ∧ s.domainWanted d then
      ({ s with husk := { s.husk with powerUpAt := setAt s.husk.powerUpAt d (some (s.now + 200000)) } }).setRails
        (if d = 2 then [3, 4] else [5, 6]) true
    else s) s

/-- DOMAIN_POWER_UP: 200 µs after its start the domain is on. -/
def execDomainPowerUp (d : Nat) (s : State) : Out :=
  .next (match s.husk.powerUpAt.getD d none with
    | some t =>
      if t ≤ s.now ∧ !s.husk.xtalStopped then
        { s.setReg (domReg d 2) 1 with husk := { s.husk with powerUpAt := setAt s.husk.powerUpAt d none } }
      else s
    | none => s)

/-- A tier of the loaded plan uses a cluster (R327); without a plan none does (08 R176). -/
def State.clusterUsed (s : State) (c : Nat) : Bool :=
  match s.loader.plan with
  | some p => p.segs.any fun g => (segClusters g).testBit c
  | none => false

/-- The ladder is at step 0 and Tj at 125 °C or above. -/
def State.gateHeat (s : State) : Bool := s.reg 0x246003 = 0 && decide (500 ≤ s.tj)

/-- The gate of every cluster at a boundary (R326, R327, R329, R337): 2 for heat, 0 gated, 1 powered. -/
def State.gateBoundary (s : State) : State :=
  let s : State := { s with thermal := { s.thermal with
    gated := (s.thermal.gated.zip s.thermal.gateNext).map fun x => x.1 || x.2, gateNext := List.replicate 8 false } }
  (List.range 8).foldl (fun (s : State) c =>
    let on := s.inForce (gateReg c 1) = 1 && s.inForce (domReg 3 1) = 1 && s.reg (domReg 3 2) = 1 &&
      (s.clusterBusy c || (s.clusterUsed c && s.husk.power ≠ .doze))
    s.setReg (gateReg c 2) (if s.thermal.gated.getD c false then 2 else if on then 1 else 0)) s

/-- Clusters withdrawn by command or for heat (R327, R337), or, after DOZE, until COMP has powered up (R326; log 77). -/
def State.gateDown (s : State) : Nat :=
  (List.range 8).foldl (fun m c =>
    if s.thermal.gated.getD c false || s.inForce (gateReg c 1) = 0 || s.inForce (domReg 3 1) = 0 ||
        (s.husk.power ≠ .doze && s.reg (domReg 3 2) ≠ 1) then setBit m c else m) 0

/-! Readings (R331 to R338) -/

/-- The lowest sensor in service that reads Tj. -/
def State.hottest (s : State) : Nat :=
  ((List.range 16).find? fun i => s.thermal.inService.getD i true && s.thermal.readings.getD i 0 = s.tj).getD 0

/-- Twice the median of the sensors in service; of an even number, the mean of the middle two (log 75). -/
def median2 (rs : List Int) : Int :=
  let l := sortBy (fun (x : Int) => (x + 100000).toNat) rs
  l.getD ((l.length - 1) / 2) 0 + l.getD (l.length / 2) 0

/-- Since when a condition holds. -/
def since (now : Nat) (old : Option Nat) (holds : Bool) : Option Nat :=
  if holds then (match old with
    | some t => some t
    | none => some now) else none

/-- The readings of a conversion: sensors, highest since sprout, NTC, and which differ from the median (R331, R332). -/
def State.takeReadings (s : State) (vals : List Int) (ntc : Int) : State :=
  let t := s.thermal
  let ok := (vals.zip t.inService).filterMap fun x => if x.2 then some x.1 else none
  let m := median2 ok
  let s : State := { s with thermal := { t with
    readings := vals, readAt := s.now,
    apart := (List.range 16).map fun i => since s.now (t.apart.getD i none)
      (t.inService.getD i true && decide (120 < (2 * vals.getD i 0 - m).natAbs)) } }
  let s := (List.range 16).foldl (fun (s : State) i =>
    let k := okey (0x2440 + i) 2
    s.setReg k (unsignedOf 16 (max (signedOf 16 (s.reg k)) (vals.getD i 0)))) s
  let k := okey 0x2450 2
  (s.setReg (okey 0x2450 1) (unsignedOf 16 ntc)).setReg k (unsignedOf 16 (max (signedOf 16 (s.reg k)) ntc))

/-- The warning at 110 °C, re-armed below 105 °C (R333). -/
def State.warn (s : State) : State :=
  if 440 ≤ s.tj ∧ s.thermal.warnArmed then
    ({ s with thermal := { s.thermal with warnArmed := false } }.bump 0x246005).fault clsThermal 1 (unitDomain 0) noParty
      s.hottest
  else if s.tj < 420 then { s with thermal := { s.thermal with warnArmed := true } } else s

/-- The thermal ceiling at a step (R332, R336): the lowest-numbered tier whose certified current fits. -/
def State.ceilingAt (s : State) (step : Nat) : Nat :=
  if 4 ≤ (s.thermal.inService.filter (!·)).length then 3
  else
    match s.loader.plan with
    | none => 0
    | some p =>
      (([0, 1] ++ (if hasTier p 2 then [2] else [])).find? fun t => decide (tierCurrent p t ≤ 750 * (step + 1))).getD 3

/-- A decided step; a THROTTLE record when the ceiling changes (R335, Table POWER-9). -/
def State.decideStep (s : State) (n : Nat) : State :=
  let old := s.ceilingAt s.thermal.stagedStep
  let new := s.ceilingAt n
  let s : State := { s with thermal := { s.thermal with stagedStep := n, stepAt := some s.now } }
  if old = new then s else s.fault clsThermal 2 (unitDomain 3) noParty (n + 256 * new)

/-- The ladder on one reading (R335). -/
def State.ladder (s : State) : State :=
  let cool := since s.now s.thermal.coolSince (decide (s.tj < 440))
  let s : State := { s with thermal := { s.thermal with coolSince := cool } }
  let step := s.thermal.stagedStep
  let gap := match s.thermal.stepAt with
    | some t => s.now - t
    | none => 1000000000
  if 460 ≤ s.tj ∧ 0 < step ∧ 20000000 ≤ gap then s.decideStep (step - 1)
  else if step < 7 ∧ 100000000 ≤ gap ∧ (cool.any fun t => decide (t + 100000000 ≤ s.now)) then s.decideStep (step + 1)
  else s

/-- Consecutive readings of 130 °C or more, after one more; 3 marks that the ORDERLY record of HOLD has been raised, and after
HOLD the count starts anew (R338). -/
def State.count130 (s : State) : Nat :=
  let n := s.thermal.above130
  if s.tj < 520 then 0 else if n = 3 && !s.inHold then 1 else if n < 2 then n + 1 else n

/-- What firmware watches on each reading while frames run: ladder, gating, 130 °C. -/
def State.watchHeat (s : State) : State :=
  let s := s.ladder
  { s with thermal := { s.thermal with
      gateSince := since s.now s.thermal.gateSince s.gateHeat, above130 := s.count130 } }

/-- Firmware runs: from stage FIRMWARE of a sprout on, until OFF (R333, 19 R388). -/
def State.firmwareRuns (s : State) : Bool :=
  match s.husk.power with
  | .off => false
  | .sprout => decide (4 ≤ s.husk.stage)
  | _ => true

/-- The record of an orderly shutdown on its way holds the highest reading seen (R341, Table POWER-8). -/
def State.raiseShutdown (s : State) : State :=
  { s with husk := { s.husk with safeRec := s.husk.safeRec.map fun x => { x with tj := max x.tj s.tj } } }

/-- SENSOR_READING: every 100 µs, 16 readings in 0.25 °C and the NTC; firmware warns in every state that it runs in (R333); in
SAFE and OFF the husk watches for the cooling of R339 and R340. -/
def execSensorReading (vals : List Int) (ntc : Int) (s : State) : Out :=
  .next (if !s.husk.supply || vals.length ≠ 16 || decide (s.now < s.thermal.readAt + 100000) then s
    else
      let s := (s.takeReadings vals ntc).raiseShutdown
      let s := if s.firmwareRuns then s.warn else s
      let cold := (s.husk.power = .safe && decide (s.tj < 400)) || (s.husk.power = .off && decide (s.tj ≤ 400))
      let s : State := { s with husk := { s.husk with coolSince := since s.now s.husk.coolSince cold } }
      if s.frame.running && s.husk.safeAt.isNone then s.watchHeat else s)

/-- SENSOR_OUT_OF_SERVICE: 1 s apart from the median without a break, in any state (R332). In OFF no log has power to take the
record (DESIGN CHOICE, log 184). -/
def execSensorOutOfService (i : Nat) (s : State) : Out :=
  .next (match s.thermal.apart.getD i none with
    | some t =>
      if s.now < t + 1000000000 ∨ !s.thermal.inService.getD i false ∨ !s.husk.supply then s
      else
        let s : State := { s with thermal := { s.thermal with
            inService := setAt s.thermal.inService i false, apart := setAt s.thermal.apart i none } }
        if s.husk.power = .off then s else s.fault clsThermal 6 (unitDomain 0) noParty i
    | none => s)

/-! Thermal gates (R337) -/

/-- The cluster to gate: the hottest of sensors 0 to 7 in service whose cluster is not yet gated, the lowest of equals. -/
def State.gateTarget (s : State) : Option Nat :=
  let cs := (List.range 8).filter fun c =>
    s.thermal.inService.getD c true && !s.thermal.gated.getD c false && !s.thermal.gateNext.getD c false
  (sortBy (fun c => (100000 - s.thermal.readings.getD c 0).toNat) cs).head?

/-- CLUSTER_GATED: after a second of step 0 and 125 °C, and once in each further second. -/
def execClusterGated (s : State) : Out :=
  .next (match s.thermal.gateSince, s.gateTarget with
    | some t, some c =>
      if s.now < t + 1000000000 ∨ !s.frame.running then s
      else
        ({ s with thermal := { s.thermal with gateNext := setAt s.thermal.gateNext c true, gateSince := some s.now } }).fault
          clsThermal 3 (unitCluster c) noParty (unsignedOf 32 (s.thermal.readings.getD c 0))
    | _, _ => s)

/-- CLUSTER_CLEAR: the gating ends at the next boundary (R244), unless the heat stands when it is written (R337). -/
def State.clusterClearOrder (s : State) (r : Req) (c v : Nat) : State :=
  s.ordered r (0x2420 + c) 3 v stOk fun s => s.stage (.clearGate c s.gateHeat)

def execClusterClear (r : Req) (c v : Nat) (s : State) : Out := .next (s.clusterClearOrder r c v)

/-- The clear at its boundary: where the heat stood when it was written the gate latches again, with its record (R337). -/
def State.clearGate (s : State) (c : Nat) (heat : Bool) : State :=
  if !s.thermal.gated.getD c false then s
  else
    let s : State := { s with frame := { s.frame with differ := s.frame.differ.filter (·.1 ≠ okey (0x2420 + c) 1) } }
    if heat then s.fault clsThermal 3 (unitCluster c) noParty (unsignedOf 32 (s.thermal.readings.getD c 0))
    else { s with thermal := { s.thermal with gated := setAt s.thermal.gated c false } }

/-! Orderly shutdown (R338, R341) -/

/-- The record of a shutdown (Table POWER-8). -/
def State.shutdownRec (s : State) (kind sensor : Nat) (tj : Int) : ShutdownRec :=
  { kind := kind, sensor := sensor, tj := tj, wall := s.rtc % 4294967296, frame := s.frame.number,
    step := s.reg 0x246003, tier := s.tier, state := powerCode s.husk.power, ballast := s.ballast, volt := s.volt 3 0,
    restarts := (s.husk.hardTimes.filter fun t => decide (s.rtc < t + 86400)).length }

/-- The vault's ring of 32 shutdown records. -/
def State.addShutdown (s : State) (x : ShutdownRec) : State :=
  let l := s.husk.shutdowns ++ [x]
  { s with husk := { s.husk with shutdowns := l.drop (l.length - 32) } }

/-- Walkers, drains, pips and segment code stop at once; the pod being programmed becomes DIRTY, and a pod in service whose
calibration is cut holds nothing VERIFIED (R54, 08 R171); no frame runs (R338). -/
def State.stopWork (s : State) : State :=
  let pod := s.reg 0x300300
  let s := if pod < 40 then (s.onPod pod fun p => { p with hash := 0, batches := 0 }).spareState pod 5 else s
  let s := (s.setReg 0x300300 0xFF).dropAheads
  { s with
    core := { s.core with seg := none, wait := none, bundle := Bundle.blank, writes := [], fadvs := [], zeroing := none },
    walkers := s.walkers.map fun w => { w with queue := [], running := none, job := none, finished := w.issued },
    pips := s.pips.map fun p => { p with running := false },
    pods := s.pods.zipIdx.map fun x => { x.1 with
      calLeft := 0
      hash := if s.reg (podReg x.2 1) ≠ 1 && (x.1.calLeft ≠ 0 || s.cal.verifyNext.any fun v => v.1 = x.2) then 0 else x.1.hash },
    cal := { s.cal with afe := none, moves := [], atOnce := [], verifyNext := none },
    frame := { s.frame with running := false, phase := .idle } }

/-- ORDERLY: the second reading of 130 °C. In RUN and DOZE work stops and SAFE follows 2.5 ms later; in HOLD the record is
raised and the shutdown record marked, once, and the sequence goes on. -/
def execOrderly (s : State) : Out :=
  .next (if s.thermal.above130 ≠ 2 ∨ s.husk.safeAt.isSome then s
    else
      let h := s.hottest
      match s.husk.power with
      | .run | .doze =>
        let t := s.fault clsThermal 4 (unitDomain 0) noParty h
        let old := powerCode s.husk.power
        let t := t.eventAll 8 (leBytes 1 old ++ leBytes 1 5 ++ leBytes 1 1 ++ leBytes 1 0 ++ leBytes 8 0xFFFFFFFFFFFFFFFF)
        { t.stopWork with husk := { t.husk with safeAt := some (s.now + 2500000), safeRec := some (s.shutdownRec 1 h s.tj) } }
      | .hold =>
        let t := (s.fault clsThermal 4 (unitDomain 0) noParty h).addShutdown (s.shutdownRec 3 h s.tj)
        { t with thermal := { t.thermal with above130 := 3 } }
      | _ => s)

/-- The end of the orderly shutdown: the record made at its detection is written, SENSE and COMP are off, the state is SAFE
(R338, R341). -/
def State.enterSafe (s : State) : State :=
  let t := match s.husk.safeRec with
    | some x => s.addShutdown x
    | none => s
  let t := ((t.setReg (domReg 2 2) 0).setReg (domReg 3 2) 0).setRails [6, 5, 4, 3] false
  { t with husk := { t.husk with power := .safe, safeAt := none, safeRec := none, coolSince := none } }

/-! Ballast (R343, R344) -/

/-- A pod of a powered cluster that is itself powered: an active pod with its cluster, a spare by its own gate. -/
def State.podPowered (s : State) (i : Nat) : Bool :=
  s.reg (domReg 3 2) = 1 && s.reg (okey (0x2420 + i / 5) 2) = 1 &&
    (s.reg (podReg i 1) = 0 || (s.reg (podReg i 1) = 1 && s.reg (podReg i 11) = 1))

/-- Interval k of a pod, counted from the tick, is none that a filler fills: it has carried a real MVM, a duplicate or a drift
read, it is a fetch slot of a pod with execution in place, which reads or makes a dummy read (02 R60), the pod is being
programmed or the source of a lift or set-down check, or the cluster's rotation slice runs in it (02 R51, 07 R152; log 175). -/
def State.intervalTaken (s : State) (i k : Nat) : Bool :=
  (s.reg (podReg i 9) ≠ 0 && decide (k % 16 = 15)) || decide (k < (s.pod i).interval) || s.reg 0x300300 = i || s.liftSource i ||
    decide (s.frame.start + 320 * k < (s.clu (i / 5)).sliceUntil)

/-- A filler MVM on a pod: the cluster's LFSR goes on and gives its input vector; its partials are discarded, so that nothing
but the ballast counter shows it. -/
def State.filler (s : State) (i : Nat) : State :=
  (s.onClu (i / 5) fun c => { c with lfsr := Config.lfsr c.lfsr }).onPod i fun p => { p with fillers := p.fillers + 1 }

/-- When an MVM interval ends, every powered pod that used it for nothing has run a filler in it: under FULL in every
interval, under HALF in those with an even number. -/
def State.ballastMvms (s : State) : State :=
  let e := s.reg 0x246202
  let k := s.sinceTick / 320 - 1
  if !s.active ∨ s.sinceTick = 0 ∨ s.sinceTick % 320 ≠ 0 ∨ e = 0 ∨ (e = 1 ∧ k % 2 = 1) then s
  else (List.range 40).foldl (fun (s : State) i => if s.podPowered i && !s.intervalTaken i k then s.filler i else s) s

/-- What happens with time alone: issues reach their walkers, what a stop leaves is zeroed behind them, and a waiting fence is
read (R126, R133, R136). -/
def State.coreTimed (s : State) : State := (s.arrive.settleStop).readFence

/-- What the block does when no command waits: a nanosecond passes, with what falls due in it, and ballast fills an interval that
ends with it. -/
def State.idle (s : State) : State :=
  if !s.husk.supply || s.husk.xtalStopped then s.passTime
  else s.passTime.coreTimed.ballastMvms

end Sys2Proof.Machine
end

