-- ==== Sys2Proof/Machine/Reset.lean ====
section
/-! DEFINITION. What a reset leaves of the machine (19 R390 to R395, 16 R340, 17 R361): registers, pods, units, parties,
and the start of a sprout. -/

namespace Sys2Proof.Machine

open Sys2Proof

/-! Registers -/

/-- Registers that the vault or the husk keeps through every reset: slot maps, spares, pod roles, slots, states, programming
times and cycle counts (R393, R395), both epochs (R394), vault writes, the store's estimates and the last die and NTC
readings of the husk, last test results (20 R403; log 81). -/
def keptKeys : List Nat :=
  ((List.range 8).flatMap fun c => [cluReg c 1, cluReg c 2, okey (0x4410 + c) 1, okey (0x4410 + c) 2, okey (0x4410 + c) 3,
    okey (0x4410 + c) 4]) ++
  ((List.range 40).flatMap fun i => [podReg i 1, podReg i 2, podReg i 3, podReg i 4, podReg i 5, okey (0x4420 + i) 1,
    okey (0x4420 + i) 2, okey (0x4420 + i) 3]) ++
  [0x300000, 0x310003, 0x202003, 0x24A002, 0x24A003, 0x24A004, 0x24A005, 0x24A008, okey 0x2450 1, 0x3C8003]

/-- Registers that stand for what device-reserved DRAM keeps through a warm reset: pooled jobs, heads, the plan's entries
(R393, R396). -/
def warmKeys : List Nat :=
  ((List.range 16).flatMap fun j => [okey (0x3210 + j) 1, okey (0x3210 + j) 2, okey (0x3210 + j) 3, okey (0x3210 + j) 4,
    okey (0x3210 + j) 5, okey (0x3310 + j) 1, okey (0x3310 + j) 2, okey (0x3310 + j) 5, okey (0x3310 + j) 6]) ++
  [0x4C2201, 0x4C2202, 0x4C2204, 0x4C2205, 0x4C0403]

/-- The entries of pooled jobs that a reset without self-refresh has ended (R97). -/
def State.abortedKeys (s : State) : List Nat :=
  ((List.range 16).filter fun j => s.reg (okey (0x3210 + j) 1) = 4).flatMap fun j =>
    (List.range 5).map fun k => okey (0x3210 + j) (k + 1)

/-- RW entries and counters return to their defaults, RWP entries to the vault's values; the highest reading since sprout
starts from the reading in force (R232, R393; log 81). -/
def State.resetOd (s : State) (warm : Bool) : List (Nat × Nat) :=
  let m := s.dict.vault.foldl (fun m x => mset 0 m x.1 x.2) odDefaults
  let m := (keptKeys ++ if warm then warmKeys else s.abortedKeys).foldl (fun m k => mset 0 m k (s.reg k)) m
  let m := (List.range 16).foldl (fun m i => mset 0 m (okey (0x2440 + i) 2) (unsignedOf 16 (s.thermal.readings.getD i 0))) m
  mset 0 (mset 0 (mset 0 m (okey 0x2450 2) (s.reg (okey 0x2450 1))) 0x246003 7) 0x246004 6000

/-! Units -/

/-- A pod keeps its conductances, hash, references, retirement and scrub mark; its fence has ended (R393). -/
def Pod.afterReset (p : Pod) : Pod :=
  { p with target := 0, fresh := false, fails := 0, batches := 0, calTries := 0, visits := 0, driftAcc := [], namedRun := 0,
           named := false, judged := false, mvms := 0, interval := 0, slotRead := 0, fillers := 0, fenced := false, testFirst := false }

/-- The pod being programmed is DIRTY, a spare staged for a swap that has not happened is VERIFIED again, and a spare in
calibration begins it anew (R54, R395); another pod whose calibration is cut holds nothing VERIFIED (08 R171). -/
def State.resetPods (s : State) : State :=
  let pod := s.reg 0x300300
  let s := if pod < 40 then (s.onPod pod fun p => { p with hash := 0 }).spareState pod 5 else s
  let s := (List.range 40).foldl (fun (s : State) i =>
    let st := s.reg (podReg i 3)
    if st = 1 then s.spareState i 5
    else if st = 4 then s.spareState i 3
    else if st = 2 then s.onPod i fun p => { p with calLeft := s.calSlices }
    else s.onPod i fun p =>
      { p with calLeft := 0,
               hash :=
                 if decide (p.calLeft ≠ 0) || (s.cal.verifyNext.any fun v => v.1 = i) then 0 else p.hash })
      (s.setReg 0x300300 0xFF)
  { s with pods := s.pods.map Pod.afterReset }

/-- Pooled jobs of a warm reset are PAUSED with their saved counters; after another reset they have ended ABORTED (R97,
R393). -/
def State.resetJobs (s : State) (warm : Bool) : State :=
  if warm then (List.range 16).foldl (fun (s : State) j => s.pauseJob j) s
  else
    let s := (List.range 16).foldl (fun (s : State) j =>
      if s.jobState j = 1 ∨ s.jobState j = 2 then s.setReg (jobReg j 1) 4 else s) s
    { s with jobs := s.jobs.map fun _ => Job.blank }

/-- Keep-region records of Table HOLD-2 in a DOMAIN value, with nothing copied. -/
def regionRecs : Nat → List Byte → List KeepRegion
  | 0, _ => []
  | n + 1, b =>
    if b.length < 16 then []
    else ⟨field b 0 1, 0, field b 2 2, field b 4 4, field b 8 8, [], []⟩ :: regionRecs n (b.drop 16)

/-- The regions that stand are those of the vault. -/
def State.vaultRegions (s : State) : List KeepRegion :=
  let rs := regionRecs 16 (mget [] s.dict.vaultDoms 0x24A00A)
  let id (r : KeepRegion) := (r.party, r.ctx, r.length, r.addr)
  if rs.map id = s.store.regions.map id then s.store.regions else rs

/-- The store's sequence stops: estimates, what the vault holds and a reference pulse, which the husk runs, stay (Table
SPROUT-3). -/
def State.resetStore (s : State) : State :=
  { s with store := { s.store with
      lostAt := none, flushing := false, copying := none, snapped := false, ueStop := false, copyDone := false, verdict := (false, 0),
      events := [], pipRaised := false, returning := false, regions := s.vaultRegions } }

/-- The packet number a channel resumes with: transmit numbers stay in the husk, receive numbers come from the last save
(R393). -/
def resumePn (saved : List Sa) (a : Sa) : Sa :=
  if a.tx then a
  else
    match saved.find? fun b => b.party = a.party && !b.tx && b.an = a.an && b.keyId = a.keyId with
    | some b => { a with pn := b.pn }
    | none => { a with pn := 0 }

/-- The logic of CTRL, SENSE, COMP and MEM is reset. `warm`: DRAM keeps its content in self-refresh. Memory writes, RWP
commits and histories that had not reached the vault are lost. -/
def State.resetLogic (s : State) (warm : Bool) : State :=
  let s := (s.dropBulk.dropGroup).resetPods
  let s := (s.resetJobs warm).resetStore
  let regs := s.resetOd warm
  { s with
    od := regs,
    thermal := { Thermal.reset with readings := s.thermal.readings, readAt := s.thermal.readAt },
    frame := { Frame.reset with live := regs },
    clusters := s.clusters.map fun c => { Cluster.blank with next := c.next },
    cal := { s.cal with applied := [], target := [], calibrated := [], comp := [], drift := [], afeDue := 0, afe := none,
                        susSpans := [], quiet := [], quietRaised := 0, podDue := [], visit := 0, atOnce := [], moves := [],
                        verifyNext := none, limited := [], refAt := [], oscAt := none, xtalErr := 0, resid := [] },
    walkers := s.walkers.map fun _ => Walker.blank, ahead := [],
    heads := if warm then s.heads.map fun h => { h with masters := h.mirror } else s.heads.map fun _ => Head.blank,
    core := Core.blank,
    pips := s.pips.map fun _ => Pip.blank,
    loader := { Loader.reset with plan := if warm then s.loader.plan else none },
    channels := s.channels.map fun _ => Channel.blank,
    net := { Net.reset with parties := s.net.parties.map fun _ => PartyNet.blank,
                            sas := s.net.sas.map (resumePn s.net.savedSas), savedSas := s.net.savedSas,
                            sakCounter := s.net.sakCounter, classImage := s.net.classImage },
    dict := { Dict.reset with vault := s.dict.vault, vaultDoms := s.dict.vaultDoms, doms := s.dict.vaultDoms,
                              spare := s.dict.spare, spareDoms := s.dict.spareDoms,
                              domsLive := s.dict.vaultDoms, restore := s.dict.restore },
    pool := if warm then { s.pool with cache := [], resWait := [], traffic := [], turn := [], closed := true }
      else { Pool.reset with buckets := s.pool.buckets.map fun _ => Bucket.blank },
    integ := { Integ.reset with log := if warm then s.integ.log else [], sinceClear := if warm then s.integ.sinceClear else 0,
                                hist := s.integ.vaultHist, vaultHist := s.integ.vaultHist },
    sec := { s.sec with debug := 0, challenge := none, blocked := 0, halted := [] },
    test := { Test.reset with lastDone := s.test.lastDone, retest := s.test.retest },
    board := Board.reset }

/-! Sprouts -/

/-- The restore-defaults request takes effect: RWP entries outside 0x3800 to 0x3FFF leave the vault (R234). -/
def State.restoreVault (s : State) : State :=
  if s.dict.restore then
    let keep (k : Nat) : Bool := decide (0x3800 ≤ k / 256 ∧ k / 256 < 0x4000)
    { s with dict := { s.dict with
        restore := false, vault := s.dict.vault.filter fun x => keep x.1,
        spare := s.dict.spare.filter fun x => keep x.1,
        vaultDoms := s.dict.vaultDoms.filter fun x => keep x.1,
        spareDoms := s.dict.spareDoms.filter fun x => keep x.1 } }
  else s

/-- A sprout starts, at stage HUSK, or at stage SHELL after a warm trigger: both epochs advance by one, HRDY is low
(R385, R388, R394). Logic has been reset before. -/
def State.beginSprout (s : State) (kind : ResetKind) : State :=
  let s := s.restoreVault.resetLogic (kind = .warm)
  let s := (s.bump 0x300000).bump 0x310003
  { s with
    husk := { s.husk with
      power := .sprout, stage := if kind = .powerOn then 0 else if kind = .restart && s.husk.power = .off then 0 else 1,
      recovery := false, kind := kind, railAttempts := 0, railRetryAt := none, powerUpAt := List.replicate 5 none,
      safeAt := none, safeRec := none, resetAt := none, resetHeld := false, hrdy := false, coolSince := none,
      coldDue := s.husk.coldDue || decide (kind ≠ .warm) } }

/-- A warm reset: the logic is reset with DRAM in self-refresh; before DRAM is trained there is nothing to keep, and the
sprout repeats MEMORY as a RESTART (R392, R398). -/
def State.warmSprout (s : State) : State :=
  if s.husk.dramOk then s.beginSprout .warm else s.beginSprout .restart

/-- Every domain but HUSK loses its power: the state is OFF and everything volatile outside the husk is lost (R340,
R361). -/
def State.toOff (s : State) : State :=
  let s := (s.resetLogic false).toPower .off 0
  { s with
    husk := { s.husk with
      rails := List.replicate 7 false, dramOk := false, hrdy := false, recovery := false, stage := 0, railAttempts := 0,
      railRetryAt := none, powerUpAt := List.replicate 5 none, safeAt := none, safeRec := none, resetAt := none, resetHeld := false },
    store := { s.store with charging := false, pulse := none } }

/-- The husk saves its clock, the operating time, both epochs and the packet numbers (R394). -/
def State.saveHusk (s : State) : State :=
  { s with
    husk := { s.husk with saved := (s.husk.rtc, s.husk.oper, s.reg 0x300000, s.reg 0x310003), savedAt := s.now },
    net := { s.net with savedSas := s.net.sas } }

end Sys2Proof.Machine
end

