-- ==== Sys2Proof/Machine/Holdup.lean ====
section
/-! DEFINITION. The hold-up store, its charger and estimator, the HOLD sequence with keep regions, and the hold-up pip
(17). -/

namespace Sys2Proof.Machine

open Sys2Proof

def State.onStore (s : State) (f : Store → Store) : State := { s with store := f s.store }

/-! Estimates (R349 to R352) -/

/-- C_m, mF: the rated capacitance until the first measurement. -/
def State.capM (s : State) : Nat := if s.store.cM = 0 then s.reg 0x24A009 else s.store.cM

/-- V_oc, mV: the terminal voltage corrected by the current through the measured ESR. -/
def State.vOc (s : State) : Int := s.store.vTerm + roundDiv (s.store.amps * s.store.esr) 1000

/-- E_q, mJ: ½ C_m (V_q² − V_floor²) with V_q = Q / C_m; never below 0. -/
def chargeEnergy (q : Int) (c : Nat) : Nat :=
  (roundDiv (q * q - (c : Int) * c * 6250000) (2 * c * 1000000)).toNat

/-- E_v, mJ: ½ C_m (V_oc² − V_floor²); never below 0. -/
def voltageEnergy (v : Int) (c : Nat) : Nat := (roundDiv (c * (v * v - 6250000)) 2000000).toNat

/-- Estimator flags (0x24A0:05): [0] ESTIMATE_SPLIT, [1] voltage-only fallback. -/
def State.splitFlag (s : State) : Bool := (s.reg 0x24A005).testBit 0
def State.fallbackFlag (s : State) : Bool := (s.reg 0x24A005).testBit 1

/-- The decision energy (R350, 0x24A0:04), mJ. -/
def State.decision (s : State) : Nat := s.reg 0x24A004

/-- Set the three energies from the present samples (R349, R350). -/
def State.estimate (s : State) : State :=
  let eq := chargeEnergy s.store.q s.capM
  let ev := voltageEnergy s.vOc s.capM
  ((s.setReg 0x24A002 eq).setReg 0x24A003 ev).setReg 0x24A004 (if s.fallbackFlag then 3 * ev / 4 else min eq ev)

/-- The estimates differ by more than 15 % of the larger one. -/
def State.splits (s : State) : Bool :=
  let eq : Int := s.reg 0x24A002
  let ev : Int := s.reg 0x24A003
  decide (15 * max eq ev < 100 * (eq - ev).natAbs)

/-- ENERGY_EVALUATION: every 100 ms; in HOLD the hold-up pip runs on it; a new split sets its flag, raises its record and
runs the pip (R349 to R351, R364). -/
def execEnergyEvaluation (s : State) : Out :=
  .next (if !s.husk.supply || decide (s.now < s.store.evalAt + 100000000) then s
    else
      let s := (s.onStore fun x => { x with evalAt := s.now }).estimate
      let s := if s.inHold then s.holdEvent 3 else s
      if s.splits && !s.splitFlag then
        let eq : Int := s.reg 0x24A002
        let ev : Int := s.reg 0x24A003
        let d := (roundDiv (1000 * (eq - ev).natAbs) (max eq ev).toNat).toNat
        ((s.setReg 0x24A005 (setBit (s.reg 0x24A005) 0)).fault clsSupply 3 0x6000 noParty d).holdEvent 5
      else s)

/-- STORE_SAMPLE: at 1 kHz; the charge counter integrates the current of the millisecond, and the charger's delivery
counts (R348, R349). -/
def execStoreSample (ma : Int) (mv : Nat) (s : State) : Out :=
  .next (if !s.husk.supply || decide (s.now < s.store.sampleAt + 1000000) then s
    else
      s.onStore fun x =>
        { x with
          sampleAt := s.now, amps := ma, vTerm := mv, q := x.q - ma,
          chargeFrom := if x.charging then (x.chargeFrom.1, x.chargeFrom.2.1, x.chargeFrom.2.2 - ma) else x.chargeFrom,
          restSince := since s.now x.restSince (decide (-2 < ma ∧ ma < 2)) })

/-! Clean references (R352 to R354) -/

/-- 72 h, in ns. -/
abbrev hours72 : Nat := 259200000000000

/-- What every clean reference does, with a newly measured capacitance or the one in force: Q is anchored, the time is
recorded, the flags are cleared; STORE_LOW once when C_m falls below 0.8 of the rated capacitance. -/
def State.cleanReference (s : State) (c : Option Nat) : State :=
  let s := match c with
    | some n => s.onStore fun x => { x with cM := n }
    | none => s
  let v := s.vOc
  let q : Int := s.capM * v
  let s := s.onStore fun x =>
    { x with q := q, anchor := (q, v.toNat), cleanAt := s.now, pulseDue := s.now + hours72 }
  let s := (s.setReg 0x24A008 s.rtc).setReg 0x24A005 0
  let low := decide (10 * s.capM < 8 * s.reg 0x24A009)
  let raised := s.store.lowRaised
  let s := s.onStore fun x => { x with lowRaised := low }
  if low && !raised then s.fault clsSupply 5 0x6000 noParty (s.capM / 10) else s

/-- Start the charger (R347). -/
def State.chargeOn (s : State) : State :=
  s.onStore fun x => { x with charging := true, chargeFrom := (s.now, s.vOc.toNat, 0), timeoutRaised := false }

/-- The charger's FET is off in HOLD, in OFF, while input power is lost, and during a reference pulse (R347, R356). -/
def State.chargerBarred (s : State) : Bool :=
  s.inHold || s.husk.power = .off || s.store.lostAt.isSome || s.store.pulse.isSome || !s.husk.supply

/-- CHARGE_TERMINATION: at 5.00 V the current has fallen below 20 mA: the charger stops, a full reference. The rise of V_oc
since its start measures C_m when it is at least 0.2 V (R347, R352). -/
def execChargeTermination (s : State) : Out :=
  .next (let x := s.store
    if !x.charging || s.chargerBarred || decide (x.vTerm < 5000) || decide (x.amps ≤ -20) then s
    else
      let rise := s.vOc - x.chargeFrom.2.1
      let c := if 200 ≤ rise then some (roundDiv x.chargeFrom.2.2 rise.toNat).toNat else none
      (s.onStore fun x => { x with charging := false }).cleanReference c)

/-- CHARGER_RESTART: the store is below 4.90 V (R347). -/
def execChargerRestart (s : State) : Out :=
  .next (if s.store.charging || s.chargerBarred || decide (4900 ≤ s.store.vTerm) then s else s.chargeOn)

/-- CHARGE_TIMEOUT: a charge has not terminated within 1,200 s; the charging goes on (R347). -/
def execChargeTimeout (s : State) : Out :=
  .next (if !s.store.charging || s.chargerBarred || s.store.timeoutRaised ||
        decide (s.now < s.store.chargeFrom.1 + 1200000000000) then s
    else
      (s.onStore fun x => { x with timeoutRaised := true }).fault clsSupply 7 0x6000 noParty s.store.vTerm)

/-- REST_REFERENCE: the current has been below 2 mA for 5 s; while the estimates are split and V_oc has moved by 0.2 V
since the previous anchor, C_m is measured (R352). -/
def execRestReference (s : State) : Out :=
  .next (match s.store.restSince with
    | none => s
    | some t =>
      if s.now < t + 5000000000 ∨ !s.husk.supply then s
      else
        let x := s.store
        let dv := (s.vOc - x.anchor.2).natAbs
        let c := if s.splitFlag && decide (200 ≤ dv) then some (roundDiv (x.q - x.anchor.1).natAbs dv).toNat else none
        (s.onStore fun x => { x with restSince := some s.now }).cleanReference c)

/-- REFERENCE_PULSE: due since 72 h without a clean reference, in RUN at a frame boundary under T0 or T1; the charger is
paused (R353). -/
def execReferencePulse (s : State) : Out :=
  .next (if !s.frame.running || s.husk.power ≠ .run || s.store.lostAt.isSome || s.store.pulse.isSome ||
        decide (2 ≤ s.tier) || decide (s.sinceTick ≠ 0) || decide (s.now < s.store.pulseDue) then s
    else s.onStore fun x => { x with pulse := some (s.now, x.charging), charging := false })

/-- REFERENCE_PULSE_END: after 2 s; terminal voltages 10 µs before and 1 ms after the sink's onset, open-circuit voltages
at the start and the end of the rest. A result outside its bounds is discarded and the pulse is due again in 1 h (R353). -/
def execReferencePulseEnd (vBefore vOnset vStart vEnd : Nat) (s : State) : Out :=
  .next (match s.store.pulse with
    | none => s
    | some (t, on) =>
      if s.now < t + 2000000000 then s
      else
        let s := s.onStore fun x => { x with pulse := none }
        let s := s.onStore fun x => { x with charging := on && !s.chargerBarred }
        let esr := 5 * (vBefore - vOnset)
        let c := (roundDiv 399800 (vStart - vEnd)).toNat
        if vStart ≤ vEnd ∨ esr < 1 ∨ 2000 < esr ∨ c < 1000 ∨ 80000 < c then
          s.onStore fun x => { x with pulseDue := s.now + 3600000000000 }
        else (s.onStore fun x => { x with esr := esr }).cleanReference (some c))

/-- FALLBACK: a further 72 h have passed without a clean reference (R354). -/
def execFallback (s : State) : Out :=
  .next (if s.fallbackFlag || !s.husk.supply || decide (s.now < s.store.cleanAt + 2 * hours72) then s
    else
      (s.setReg 0x24A005 (setBit (s.reg 0x24A005) 1)).fault clsSupply 4 0x6000 noParty
        ((s.now - s.store.cleanAt) / 3600000000000))

/-! The keep copy (R358 to R360) -/

/-- The snapshot of a region: one atomic COPY as its party reads the lines; UNMAPPED where a page is missing. -/
def State.snapRegion (s : State) (r : KeepRegion) : KeepRegion :=
  match s.ctx r.ctx with
  | none => { r with state := 4, snap := [] }
  | some x =>
    if x.party ≠ r.party then { r with state := 4, snap := [] }
    else
      match physRange x r.addr r.length with
      | some as => { r with snap := as.map (s.peek r.party) }
      | none => { r with state := 4, snap := [] }

def State.snapRegions (s : State) : State :=
  s.onStore fun x =>
    { x with snapped := true,
             regions := (x.regions.map fun r => if r.state = 4 then { r with state := 0 } else r).map s.snapRegion }

/-- The energy that a region's vault write needs: E_r and 3.0 W at 8 MB/s (R359). -/
def State.affords (s : State) (r : KeepRegion) : Bool := decide (8000000 + 3 * r.length ≤ 8000 * s.decision)

/-- The copy ends: the hold-up pip runs on COPY_DONE. -/
def State.copyEnds (s : State) : State := (s.onStore fun x => { x with copying := none, copyDone := true }).holdEvent 2

/-- Start the write of the next region from index `i`, skipping unmapped regions and those of the pip's mask; without the
energy this and every later region are SKIPPED. -/
def State.copyFrom (s : State) : Nat → Nat → State
  | 0, _ => s.copyEnds
  | n + 1, i =>
    match s.store.regions[i]? with
    | none => s.copyEnds
    | some r =>
      if r.state = 4 then s.copyFrom n (i + 1)
      else if s.store.verdict.2.testBit i then
        (s.onStore fun x => { x with regions := upd x.regions i fun r => { r with state := 3 } }).copyFrom n (i + 1)
      else if s.affords r then
        s.onStore fun x =>
          { x with copying := some (i, s.now), regions := upd x.regions i fun r => { r with state := 2, copy := [] } }
      else
        (s.onStore fun x =>
          { x with regions := x.regions.zipIdx.map fun y => if i ≤ y.2 then { y.1 with state := 3 } else y.1 }).copyEnds

/-- The keep copy begins once the flush has ended and the snapshots stand (R359). -/
def State.startCopy (s : State) : State :=
  if s.store.snapped && !s.store.flushing && !s.store.copyDone && s.store.copying.isNone then s.copyFrom 17 0 else s

/-- The write of the region in progress ends: it is VALID, and the next one starts. -/
def State.regionDone (s : State) (i : Nat) : State :=
  (s.onStore fun x =>
    { x with copying := none, regions := upd x.regions i fun r => { r with state := 1, copy := r.snap } }).copyFrom 17 (i + 1)

/-- KEEP_REGION_DONE: at 8 MB/s a byte takes 125 ns (R357, R359). -/
def execKeepRegionDone (s : State) : Out :=
  .next (match s.store.copying with
    | none => s
    | some (i, t) =>
      let len := (s.store.regions[i]?.map (·.length)).getD 0
      if s.now < t + 125 * len then s else s.regionDone i)

/-- FLUSH_COMPLETE: 32,768 bytes at 8 MB/s after the loss (R356, R357). -/
def execFlushComplete (s : State) : Out :=
  .next (match s.store.lostAt with
    | none => s
    | some t =>
      if !s.store.flushing || decide (s.now < t + 4096000) then s
      else (s.onStore fun x => { x with flushing := false }).startCopy)

/-! Losing and regaining input power (R355 to R357, R362, R363) -/

/-- What the husk does at once at a loss in RUN, DOZE or SAFE: charger off, INPUT_LOST, flush, hold-up pip; a running
reference pulse is discarded. -/
def State.loseInput (s : State) : State :=
  let s := s.onStore fun x =>
    { x with charging := false, lostAt := some s.now, flushing := true, snapped := false, ueStop := false, copyDone := false,
             copying := none, verdict := (false, 0), events := [], pipRaised := false, returning := false,
             pulse := none, pulseDue := if x.pulse.isSome then s.now + 3600000000000 else x.pulseDue }
  let s := s.fault clsSupply 1 0x6000 noParty s.decision
  let s := s.onStore fun x =>
    { x with flushed := s.integ.log.drop (s.integ.log.length - 1024), flushedSince := min 1024 s.integ.sinceClear,
             flushedHighs := (List.range 17).map fun i => signedOf 16 (s.reg (okey (0x2440 + i) 2)) }
  s.holdEvent 1

/-- Work of segments that are not CRITICAL is abandoned; a tile in progress completes first (R26, R356). -/
def State.abandonOthers (s : State) : State :=
  (List.range 8).foldl (fun (s : State) c =>
    let w := s.walker c
    let g := match w.running, w.queue with
      | some r, _ => some r.seg
      | none, .run _ g _ _ :: _ => some g
      | none, _ => none
    let busy := match w.running with
      | some r => r.tile.isSome
      | none => false
    match g with
    | some g => if s.powerBars g && !busy then s.abandonCluster c else s
    | none => s) s

/-- PFAIL can have stayed at its other level for a time since input power was last lost or restored (R355). -/
def State.pfailStood (s : State) (width : Nat) : Bool := s.husk.pfailAt.all fun t => decide (t + width ≤ s.now)

/-- INPUT_LOST: PFAIL has been low for 2 µs (R355). A running cluster test is abandoned (R407). In a sprout the device stops
under R363. A further loss in HOLD before its return ends that return (log 82). -/
def execInputLost (s : State) : Out :=
  .next (if !s.husk.supply || !s.husk.inputOk || !s.pfailStood 2000 then s
    else
      let s : State := { s with husk := { s.husk with inputOk := false, pfailAt := some s.now } }
      match s.husk.power with
      | .off => s
      | .sprout => s.onStore fun x => { x with lostAt := some s.now }
      | .hold => s.onStore fun x => { x with returning := false }
      | .safe => s.loseInput.snapRegions
      | .run | .doze =>
        let s := s.loseInput.abandonOthers
        { s with test := { s.test with cluster := s.test.cluster.map fun t => { t with abandoned := true } } })

/-- The boundary after a loss: HOLD, supply ceiling T3, debug CLOSED, keep snapshots (R357, R359, R381). -/
def State.holdEntry (s : State) : State :=
  if s.store.lostAt.isSome && (s.husk.power = .run || s.husk.power = .doze) then
    let s := (s.toPower .hold 2).setReg 0x4C0A04 3
    ({ s with sec := { s.sec with debug := 0, challenge := none } }.snapRegions).startCopy
  else s

/-- The boundary at which HOLD ends after input power is back, the flush and the keep copy complete: the commanded power
state, supply ceiling T0, the charger on; a reset held in HOLD follows (R362, R392). -/
def State.holdExit (s : State) : State :=
  if s.inHold && s.husk.inputOk && s.store.returning && s.store.copyDone && !s.store.flushing &&
      !s.store.ueStop then
    let s := ((s.toPower (if s.inForce 0x240001 = 3 then .doze else .run) 2).setReg 0x4C0A04 0).resetStore.chargeOn
    if s.husk.resetHeld then
      { s with husk := { s.husk with resetHeld := false, resetAt := some (s.now + 2000) }, pool := { s.pool with closed := true } }
    else s
  else s

/-- INPUT_RESTORED: PFAIL has been high for 100 ms without a break (R355). In HOLD the pip runs and the device returns once
its copy is complete; in OFF a sprout begins, unless the device is hot from a hard shutdown or locked (R340, R362, R386). -/
def execInputRestored (s : State) : Out :=
  .next (if !s.husk.supply || s.husk.inputOk || !s.pfailStood 100000000 then s
    else
      let s : State := { s with husk := { s.husk with inputOk := true, pfailAt := some s.now } }
      match s.husk.power with
      | .hold => (s.onStore fun x => { x with returning := true }).holdEvent 4
      | .run | .doze => s.onStore fun x => { x with returning := true }
      | .off => if s.husk.lockedOff || s.husk.hardPending.isSome then s else s.beginSprout .restart
      | _ => s)

/-- Why HOLD ends in a stop now: 0 reserve, 1 pip request, 2 in SPROUT, 3 in SAFE (R361, R363, Table HOLD-5). For the stop
after an uncorrectable error (R324) the table gives no code: a free value (log 87). -/
def State.stopReason (s : State) : Option Nat :=
  let low := decide (s.decision ≤ 1000)
  match s.husk.power with
  | .hold =>
    if low then some 0
    else if s.store.copyDone && s.store.verdict.1 then some 1
    else if s.store.ueStop then some (Config.freeNat s.free % 256) else none
  | .sprout => if s.store.lostAt.isSome then some 2 else none
  | .safe => if s.store.lostAt.isSome && (low || s.store.copyDone) then some 3 else none
  | _ => none

/-- HOLD_STOP: the vault write in progress is completed, the record and the save are written, and the device is OFF. A stop
in a sprout leaves the keep copy and what the vault holds for R397 untouched (R361, R394, R398). -/
def execHoldStop (s : State) : Out :=
  .next (match s.stopReason with
    | none => s
    | some why =>
      let s := s.onStore fun x =>
        { x with flushing := false,
                 regions := match x.copying with
                   | some (i, _) => upd x.regions i fun r => { r with state := 1, copy := r.snap }
                   | none => x.regions,
                 copying := none }
      let bad := (s.store.regions.filter fun r => r.state ≠ 1).length
      let s : State := { s with
        free := s.free + 1,
        husk := { s.husk with
          stopPending := s.husk.stopPending ++ [s.mkRec clsSupply 2 0x6000 noParty (why + 256 * bad)],
          lastStopHold := if s.husk.power = .sprout then s.husk.lastStopHold else true } }
      s.saveHusk.toOff)

/-! Writes by the Owner -/

/-- The limits of R358 on the records of a keep-region write. -/
def regionsOk (data : List Byte) : Bool :=
  let rs := regionRecs 16 data
  data.length % 16 = 0 && decide (data.length ≤ 256) &&
    (rs.all fun r => r.party < 16 && r.length % 64 = 0 && decide (64 ≤ r.length ∧ r.length ≤ 1048576) &&
      r.addr % 64 = 0 && decide (r.addr + r.length ≤ 1099511627776)) &&
    decide ((rs.map (·.length)).foldl (· + ·) 0 ≤ 1048576)

/-- KEEP_REGIONS_WRITE: the records are RWP. They come into force at once, or when HOLD ends (log 83). -/
def State.keepRegionsOrder (s : State) (r : Req) (data : List Byte) : State :=
  match s.bytesCheck r 0x24A0 0x0A data.length with
    | .silent => s
    | .held => s
    | .status st =>
      let own := if data.length % 16 ≠ 0 then stBadType else if regionsOk data then stOk else stRange
      let a := lateStatus (s.bytesFit r 0x24A0 0x0A data.length) st own
      if a ≠ stOk then s.wrote r 0x24A00A a
      else if mget [] s.dict.doms 0x24A00A = data then s.storeBytes r 0x24A0 0x0A data
      else
        let t := s.storeBytes r 0x24A0 0x0A data
        if mget [] t.dict.doms 0x24A00A = data && t.store.lostAt.isNone then
          t.onStore fun x => { x with regions := regionRecs 16 data }
        else t

def execKeepRegionsWrite (r : Req) (data : List Byte) (s : State) : Out := .next (s.keepRegionsOrder r data)

/-- HOLD_UP_PIP_IMAGE_WRITE: bytes that are no image of Table PIP-3, or one for another engine, answer BAD_TYPE; a budget
above 4,000 instructions, or code that the engine cannot hold, answers RANGE (R144, R364, Tables PIP-3, PIP-4). -/
def State.holdUpImageOrder (s : State) (r : Req) (data : List Byte) : State :=
  let img := readPip data
  let own := if img.engine ≠ 2 ∨ img.inPlace ∨ !img.crcOk then stBadType
    else if 4000 < img.budget ∨ 1024 < img.code.length ∨ img.code.length ≤ img.entry then stRange else stOk
  s.orderBytes r 0x24A0 0x0B data.length own fun s => s.onStore fun x => { x with image := some img }

def execHoldUpPipImageWrite (r : Req) (data : List Byte) (s : State) : Out := .next (s.holdUpImageOrder r data)

end Sys2Proof.Machine
end

