-- ==== Sys2Proof/Machine/Security.lean ====
section
/-! DEFINITION. Keys, firmware slots, lifecycle, scrub and the end of debug (18). Signatures of plan keys are computed; verdicts on
Laniale's signatures, of whose keys the shell holds a hash only, and on unwrapping under the identity key are operands (log 8). -/

namespace Sys2Proof.Machine

open Sys2Proof

def State.onSec (s : State) (f : Sec → Sec) : State := { s with sec := f s.sec }

/-- A check of a DOMAIN write whose own rule puts SAFE and HOLD last: what remains to be judged, or the answer. -/
def State.sealedWrite (s : State) (r : Req) (index sub len : Nat) (own : Nat) (eff : State → State) : State :=
  match s.bytesCheck r index sub len with
  | .silent => s
  | .held => s
  | .status st =>
    let a := lateStatus (s.bytesFit r index sub len) (if st = stThermal then stOk else st) own
    if a ≠ stOk then s.wrote r (okey index sub) a
    else if st = stThermal then s.wrote r (okey index sub) stThermal
    else if s.inHold then s.wrote r (okey index sub) stNotReady
    else (eff s).wrote r (okey index sub) stOk

/-! Plan keys (R367, R368) -/

/-- Key installs that lifecycle refuses: in BLANK all but party 0's plan key, in RETURNED those of parties 1 to 15 (R374). -/
def State.keyBars (s : State) (p : Nat) (plan : Bool) : Bool :=
  (s.sec.lifecycle = 0 && !(plan && p = 0)) || (s.sec.lifecycle = 3 && p ≠ 0)

def State.planKeysOf (s : State) (p : Nat) : List PlanKey := s.sec.planKeys.filter (·.party = p)

/-- The public key of an install; one of zeros removes the key ID (R367). -/
def allZero (pub : List Byte) : Bool := pub.all (· = 0)

/-- Bytes are signed with a current plan key of a party. -/
def State.signedBy (s : State) (p : Nat) (bytes sig : List Byte) : Bool :=
  (s.planKeysOf p).any fun k => signatureOk k.pub (sha384 bytes) sig

/-- The serial number's bytes, which signatures cover (R367, R369). -/
def State.serial (s : State) : List Byte := leBytes 8 (s.reg 0x200003)

/-- The authorising signature of a plan key install is good: by a current Owner plan key, or by the first Owner key in BLANK
itself; and so is a countersignature, by a current plan key of the party named (R367). -/
def State.installSigned (s : State) (d : List Byte) : Bool :=
  let p := field d 0 1
  let text := d.take 104 ++ s.serial
  let sig := (d.drop 104).take 96
  (s.signedBy 0 text sig || (s.sec.lifecycle = 0 && p = 0 && (s.planKeysOf 0).isEmpty &&
      signatureOk ((d.drop 8).take 96) (sha384 text) sig)) &&
    (!(field d 1 1).testBit 0 || s.signedBy p text ((d.drop 200).take 96))

/-- New key IDs of a party that wait for the boundary. -/
def State.keysComing (s : State) (p : Nat) : List Nat :=
  dedupNat (s.frame.staged.filterMap fun x => match x.op with
    | .planKey q k pub _ => if q = p && !allZero pub && !((s.planKeysOf p).any fun y => y.keyId = k) then some k else none
    | _ => none)

/-- Status of a plan key install of some bytes: length, party and lifecycle, signatures, free slots. -/
def State.planKeyStatus (s : State) (d : List Byte) : Nat :=
  let p := field d 0 1
  let counter := (field d 1 1).testBit 0
  let id := field d 4 4
  let known := ((s.planKeysOf p).map (·.keyId) ++ s.keysComing p).contains id
  if d.length ≠ (if counter then 296 else 200) then stBadType
  else if 16 ≤ p then stRange
  else if s.keyBars p true then stDenied
  else if !s.installSigned d then stIntegrity
  else if !allZero ((d.drop 8).take 96) && !known && decide (2 ≤ (s.planKeysOf p).length + (s.keysComing p).length) then stLimit
  else stOk

/-- PLAN_KEY_INSTALL: the change takes effect at the next boundary. -/
def State.planKeyOrder (s : State) (r : Req) (data : List Byte) : State :=
  s.orderBytes r 0x2004 1 data.length (s.planKeyStatus data) fun s =>
    s.stage (.planKey (field data 0 1) (field data 4 4) ((data.drop 8).take 96) ((field data 1 1).testBit 0))

def execPlanKeyInstall (r : Req) (data : List Byte) (s : State) : Out := .next (s.planKeyOrder r data)

/-- The keep regions of a party are erased (R368). -/
def State.eraseRegions (s : State) (p : Nat) : State :=
  s.onStore fun x => { x with regions := x.regions.map fun r =>
    if r.party = p then { r with state := 0, snap := [], copy := [] } else r }

/-- A party becomes new: contexts, grants, SAKs, pool key and keep regions (R368). -/
def State.renewParty (s : State) (p : Nat) : State :=
  let s := s.revokeAll p
  let s : State := { s with net := { s.net with sas := s.net.sas.filter (·.party ≠ p) } }
  (s.newPoolKey p).eraseRegions p

/-- A plan key change at its boundary. -/
def State.putPlanKey (s : State) (p id : Nat) (pub : List Byte) (counter : Bool) : State :=
  let zero := allZero pub
  let had := !(s.planKeysOf p).isEmpty
  let s := if zero then
      s.onSec fun x => { x with planKeys := x.planKeys.filter fun k => !(k.party = p && k.keyId = id) }
    else
      match (s.planKeysOf p).find? (·.keyId = id) with
      | some _ => s.onSec fun x => { x with planKeys := x.planKeys.map fun k =>
          if k.party = p && k.keyId = id then { k with at_ := s.rtc, pub := pub } else k }
      | none =>
        let slot := if (s.planKeysOf p).any fun k => k.slot = 0 then 1 else 0
        s.onSec fun x => { x with planKeys := x.planKeys ++ [⟨p, id, slot, s.rtc, pub⟩] }
  let s := if p ≠ 0 && !zero then s.spoilScrub else s
  if p ≠ 0 && had && !counter then s.renewParty p else s

/-! SAKs (R369, R208) -/

/-- The transmit association in use. -/
def State.txSa (s : State) (p : Nat) : Option Sa := s.net.sas.find? fun a => a.party = p && a.tx && a.state = 1

/-- The checks of R369 in order; reserved values of direction and AN answer RANGE after the length (log 84). Whether the SAK
unwraps is an operand (log 8). -/
def State.sakStatus (s : State) (d : List Byte) (unwrapOk : Bool) : Nat :=
  let p := field d 0 1
  let dir := field d 1 1
  let an := field d 2 1
  if d.length ≠ 256 then stBadType
  else if 16 ≤ p ∨ 2 < dir ∨ 1 < an then stRange
  else if s.keyBars p false then stDenied
  else if s.bindKind p = 0 ∨ (s.planKeysOf p).isEmpty then stNoObject
  else if !s.signedBy p (d.take 160 ++ s.serial) ((d.drop 160).take 96) then stIntegrity
  else if field d 8 4 ≤ mget 0 s.net.sakCounter p then stStale
  else if !unwrapOk then stIntegrity
  else if 1 ≤ dir ∧ (s.txSa p).any (fun a => a.an = an) then stDenied
  else stOk

/-- SAK_INSTALL: the SAK is pending and becomes active at the next boundary. -/
def State.sakOrder (s : State) (r : Req) (data : List Byte) (unwrapOk : Bool) : State :=
  s.orderBytes r 0x2004 2 data.length (s.sakStatus data unwrapOk) fun s =>
    let p := field data 0 1
    let dir := field data 1 1
    let an := field data 2 1
    let id := field data 4 4
    let sa (tx : Bool) : Sa := ⟨p, tx, an, id, 2, 0, s.rtc⟩
    let new := (if dir = 1 then [] else [sa false]) ++ (if dir = 0 then [] else [sa true])
    let s : State := { s with net := { s.net with
      sas := (s.net.sas.filter fun a => !(a.state = 2 && new.any fun b => b.party = a.party && b.tx = a.tx && b.an = a.an)) ++
        new,
      sakCounter := mins s.net.sakCounter p (field data 8 4) } }
    s.stage (.sak p dir an id)

def execSakInstall (r : Req) (data : List Byte) (unwrapOk : Bool) (s : State) : Out := .next (s.sakOrder r data unwrapOk)

/-- A pending association becomes active; the one it replaces in its AN goes, and the transmit association in use before is
retired. -/
def State.activateSa (s : State) (p : Nat) (tx : Bool) (an id : Nat) : State :=
  if !(s.net.sas.any fun a => a.party = p && a.tx = tx && a.an = an && a.keyId = id && a.state = 2) then s
  else
    let mine (a : Sa) : Bool := a.party = p && a.tx = tx
    let l := s.net.sas.filter fun a => !(mine a && a.an = an && a.state ≠ 2)
    let fix (a : Sa) : Sa :=
      if mine a && a.an = an then { a with state := 1, pn := 0 }
      else if mine a && tx && a.state = 1 then { a with state := 3 } else a
    { s with net := { s.net with sas := l.map fix } }

/-- An accepted SAK at its boundary. -/
def State.putSak (s : State) (p dir an id : Nat) : State :=
  let s := if dir = 1 then s else s.activateSa p false an id
  let s := if dir = 0 then s else s.activateSa p true an id
  s.spoilScrub

/-! Pool keys (R370) -/

/-- POOL_KEY_INSTALL: DENIED while the party maps a page or owns a keep region. -/
def State.poolKeyOrder (s : State) (r : Req) (v : Nat) : State :=
  let own := if 16 ≤ v then stRange
    else if s.keyBars v false then stDenied
    else if !(s.partyPages v).isEmpty || (s.store.regions.any fun x => x.party = v) then stDenied else stOk
  s.orderBytes r 0x2004 3 1 own fun s => (s.newPoolKey v).spoilScrub

def execPoolKeyInstall (r : Req) (v : Nat) (s : State) : Out := .next (s.poolKeyOrder r v)

/-! Firmware slots (R371 to R373, R387) -/

/-- The slot that a firmware write goes to. -/
def State.inactiveSlot (s : State) : Nat := if s.husk.recovery then 0 else if s.sec.active = 0 then 1 else 0

/-- A firmware image from its bytes: header, code, signature block; reserved fields are ignored (R10, 18 Secure boot). DEDUCED
(log 187): the header's length is that of the whole image, as in Table LDR-1. -/
def readFirmware (b : List Byte) : FwImage :=
  { formatOk := b.take 4 = [0x54, 0x56, 0x58, 0x46] && decide (192 ≤ b.length ∧ b.length ≤ 1048576 ∧ field b 4 1 = 1 ∧
      field b 8 4 = b.length ∧ field b 12 2 = 0x3208 ∧ field b 14 1 = 0xB1),
    secVersion := field b 6 2, fwVersion := field b 16 4, length := b.length }

/-- FIRMWARE_IMAGE: the checks of R372; the slot is written in the background at 8 MB/s and holds no image meanwhile. A
second image while one is being written answers BUSY (log 85). -/
def State.firmwareOrder (s : State) (r : Req) (data : List Byte) (sigOk : Bool) : State :=
  let img := readFirmware data
  let n := s.inactiveSlot
  let own := if s.inHold then stNotReady
    else if !img.formatOk then stBadType
    else if !sigOk then stIntegrity
    else if img.secVersion < s.sec.minVersion then stStale
    else if s.sec.activate = some n ∨ s.sec.writing.isSome then stBusy else stOk
  s.orderBytes r 0x2001 4 data.length own fun s =>
    s.onSec fun x => { x with
      slots := setAt x.slots n none, writing := some (n, img.secVersion, img.fwVersion, s.now + 125 * img.length) }

def execFirmwareImage (r : Req) (data : List Byte) (sigOk : Bool) (s : State) : Out := .next (s.firmwareOrder r data sigOk)

/-- FIRMWARE_SLOT_WRITTEN: the slot holds the image; in recovery a new sprout starts with it. -/
def execFirmwareSlotWritten (s : State) : Out :=
  .next (match s.sec.writing with
    | none => s
    | some (n, sv, fv, t) =>
      if s.now < t ∨ !s.husk.supply then s
      else
        let s := s.onSec fun x => { x with slots := setAt x.slots n (some (sv, fv)), writing := none }
        if s.husk.recovery then (s.onSec fun x => { x with active := n }).beginSprout s.husk.kind else s)

/-- ACTIVATE_SLOT: the slot must hold an image that passes (R373). -/
def State.activateOrder (s : State) (r : Req) (v : Nat) : State :=
  let ok := match s.sec.slots.getD v none with
    | some x => decide (s.sec.minVersion ≤ x.1)
    | none => false
  s.ordered r 0x2001 5 v (if ok then stOk else stNoObject) fun s =>
    s.onSec fun x => { x with activate := some v }

def execActivateSlot (r : Req) (v : Nat) (s : State) : Out := .next (s.activateOrder r v)

/-! Lifecycle (R374, R375) -/

/-- Table SEC-4: from, to, signer 0 Owner or 1 Laniale, with its condition. -/
def State.transition (s : State) (target signer : Nat) : Bool :=
  match s.sec.lifecycle, target with
  | 0, 1 => signer = 0 && !(s.planKeysOf 0).isEmpty
  | 1, 2 => signer = 0
  | 1, 3 => signer ≤ 1
  | 2, 3 => signer ≤ 1
  | 3, 3 => signer ≤ 1
  | 3, 0 => signer = 1 && s.scrubDone
  | _, _ => false

/-- The checks of R374 before the power state. The Owner signs with a plan key of party 0; the verdict on Laniale's signature is the
operand (log 8). -/
def State.lifecycleStatus (s : State) (d : List Byte) (sigOk : Bool) : Nat :=
  if d.length ≠ 120 then stBadType
  else if field d 4 8 ≠ s.reg 0x200003 then stDenied
  else if !s.transition (field d 0 1) (field d 1 1) then stDenied
  else if field d 12 4 ≠ (s.sec.lcCounter + 1) % 4294967296 then stStale
  else if !(if field d 1 1 = 0 then s.signedBy 0 (d.take 24) ((d.drop 24).take 96) else sigOk) then stIntegrity
  else stOk

/-- LIFECYCLE_REQUEST: the counter rises, and the transition takes effect at the next boundary. -/
def State.lifecycleOrder (s : State) (r : Req) (data : List Byte) (sigOk : Bool) : State :=
  s.sealedWrite r 0x2002 2 data.length (s.lifecycleStatus data sigOk) fun s =>
    (s.onSec fun x => { x with lcCounter := (x.lcCounter + 1) % 4294967296 }).stage (.lifecycle (field data 0 1))

def execLifecycleRequest (r : Req) (data : List Byte) (sigOk : Bool) (s : State) : Out :=
  .next (s.lifecycleOrder r data sigOk)

/-- A register loses its value everywhere: commanded, in force and in the vault. -/
def State.eraseReg (s : State) (k : Nat) : State :=
  let d := mget 0 odDefaults k
  { s with
    od := mset 0 s.od k d,
    frame := { s.frame with live := mset 0 s.frame.live k d, keepOd := mset 0 s.frame.keepOd k d },
    dict := { s.dict with vault := mdel s.dict.vault k, spare := mdel s.dict.spare k } }

/-- The same for a DOMAIN. -/
def State.eraseDom (s : State) (k : Nat) : State :=
  { s with dict := { s.dict with
      doms := mdel s.dict.doms k, domsLive := mdel s.dict.domsLive k, vaultDoms := mdel s.dict.vaultDoms k,
      spareDoms := mdel s.dict.spareDoms k } }

/-- RETURNED at its boundary, in the order of R375. -/
def State.enterReturned (s : State) : State :=
  let s := match s.loader.pending with
    | some x => (s.dropBulk.dropGroup).reportEnd x.kind x.party stAborted 0 0
    | none => s
  let s := s.unloadPlan
  let s := (List.range 16).foldl (fun (s : State) p => s.revokeAll p) s
  let s : State := { s with pool := { s.pool with cache := [] } }
  let s := (List.range 15).foldl (fun (s : State) i =>
    [1, 2, 3, 4].foldl (fun (s : State) j => s.eraseReg (okey (0x3C30 + (i + 1)) j)) s) s
  let s := s.onSec fun x => { x with
    poolKeys := (x.poolKeys.zipIdx).map fun k => if k.2 = 0 then k.1 else ⟨[], 0⟩,
    planKeys := x.planKeys.filter (·.party = 0), scrub := 1, scrubPod := 0 }
  { s with net := { s.net with sas := s.net.sas.filter (·.party = 0) } }

/-- A lifecycle change at its boundary; any of them closes debug (R381). -/
def State.setLifecycle (s : State) (v : Nat) : State :=
  let s := s.onSec fun x => { x with lifecycle := v, debug := 0, challenge := none }
  if v = 3 then s.enterReturned
  else if v = 0 then s.onSec fun x => { x with planKeys := x.planKeys.filter (·.party ≠ 0) }
  else s

/-! Scrub (R376) -/

/-- The cells of a pod of weight 0: the reference columns of every row (R48). -/
def zeroCells : List (Nat × Nat) :=
  (List.range 1024).flatMap fun r => (List.range 15).map fun m => (r * 1056 + 1024 + (m + 1), 16 * (m + 1))

/-- One pod of the scrub has been programmed to weight 0; a failed verify is repeated once and then leaves the pod
unscrubbed. Every program counts; a spare's content is not one that rotation wants (R53, R376). -/
def State.scrubOne (s : State) (ok : Bool) : State :=
  let i := s.sec.scrubPod
  let s := s.setReg (podReg i 5) (min 65535 (s.reg (podReg i 5) + 1))
  let s := if s.reg (podReg i 5) = 10000 then s.fault clsAnalog 2 (unitPod i) noParty 10000 else s
  let s := s.spareState i (if 10000 ≤ s.reg (podReg i 5) then 6 else 5)
  let next (s : State) : State :=
    s.onSec fun x => { x with scrubPod := i + 1, scrub := if i + 1 = 40 then 3 else 2 }
  if ok then
    next (s.onPod i fun p =>
      { p with cells := zeroCells, digital := [], ranges := [], hash := 0, fails := 0, unscrubbed := false, fresh := false })
  else if (s.pod i).fails = 0 then s.onPod i fun p => { p with fails := 1, hash := 0 }
  else next (s.onPod i fun p => { p with fails := 0, hash := 0, unscrubbed := true })

/-- Entries of the store partition that belong to parties: allotments and bindings. -/
def partyKeys : List Nat :=
  (List.range 16).flatMap fun p => (if p = 0 then [] else [1, 2, 3, 4].map (okey (0x3C30 + p))) ++
    [1, 2, 4, 5, 6, 7, 8, 9].map (okey (0x3800 + p))

/-- The keep partition and the parties' records are erased; party 0's plan keys and binding stay (R375, R376). -/
def State.eraseParties (s : State) : State :=
  let s := partyKeys.foldl State.eraseReg s
  let s := (0x389002 :: 0x3C6005 :: 0x24A00A :: (List.range 16).map fun p => okey (0x3800 + p) 3).foldl State.eraseDom s
  let s : State := { s with pool := { s.pool with mirrors := [] }, pods := s.pods.map fun p => { p with hash := 0 } }
  s.onStore fun x => { x with regions := [] }

/-- What the engines still hold of the parties' work goes with DRAM, so that OPEN finds none of it: activation buffers, lengths,
head masters, codes and mirrors, pip images and data, the core's data memory, snapshots and staging areas (R8, R376; log 185). -/
def State.clearEngines (s : State) : State :=
  { s with
    heads := s.heads.map fun _ => Head.blank, ahead := [],
    walkers := s.walkers.map fun w => { w with buffer := [], valid := [], lens := List.replicate 16 0, running := none, job := none },
    pips := s.pips.zipIdx.map fun x => if x.2 < 12 then Pip.blank else x.1,
    core := { s.core with dmem := [], shown := [], regs := List.replicate 64 0, handles := List.replicate 16 0 },
    dict := { s.dict with snaps := [], stagings := [] } }

/-- SCRUB_STAGE_END: DRAM is zero; a pod has been programmed; the erasures are done. The vault records the progress (R376). -/
def execScrubStageEnd (verifyOk : Bool) (s : State) : Out :=
  .next (if s.sec.lifecycle ≠ 3 ∨ !s.frame.running ∨ s.husk.xtalStopped then s
    else
      match s.sec.scrub with
      | 1 =>
        let t : State := { s with
          pool := { s.pool with mem := [], live := [], left := [], raw := [], holds := [], chaff := [] } }
        t.clearEngines.onSec fun x => { x with scrub := 2, scrubPod := 0 }
      | 2 => s.scrubOne verifyOk
      | 3 => s.eraseParties.onSec fun x => { x with scrub := if s.pods.any (·.unscrubbed) then 5 else 4 }
      | _ => s)

/-! Debug (R377 to R381) -/

/-- A key is installed, or a page or keep region stands, for some party (byte 9 of the challenge). -/
def State.partyData (s : State) : Bool :=
  !s.pool.ctxs.isEmpty || !s.store.regions.isEmpty || !s.sec.planKeys.isEmpty || !s.net.sas.isEmpty ||
    s.sec.poolKeys.any fun k => !k.key.isEmpty

/-- A page is mapped by some context. -/
def State.pageMapped (s : State) : Bool := s.pool.ctxs.any fun c => !c.pages.isEmpty

/-- OPEN is permitted: BLANK, or RETURNED with the scrub complete, and no page mapped (R380). -/
def State.openAllowed (s : State) : Bool :=
  (s.sec.lifecycle = 0 || (s.sec.lifecycle = 3 && s.scrubDone)) && !s.pageMapped

/-- The checks of R377 before the power state. A requested state other than VENDOR or OPEN answers RANGE (log 86). -/
def State.debugStatus (s : State) (d : List Byte) (sigOk : Bool) : Nat :=
  if d.length ≠ 104 then stBadType
  else if s.sec.challenge.isNone ∨ field d 4 4 ≠ s.sec.dbgCounter then stStale
  else if !sigOk then stIntegrity
  else if field d 0 1 ≠ 1 ∧ field d 0 1 ≠ 2 then stRange
  else if field d 0 1 = 2 ∧ !s.openAllowed then stDenied
  else stOk

/-- A response uses up the challenge and raises the counter, whatever becomes of it; a failed one is noted. -/
def State.useChallenge (s : State) (failed : Bool) : State :=
  s.onSec fun x => { x with
    challenge := none, dbgCounter := (x.dbgCounter + 1) % 4294967296,
    dbgFails := if failed then (s.now :: x.dbgFails).take 3 else x.dbgFails }

/-- DEBUG_RESPONSE: an accepted state takes effect at the next boundary. -/
def State.debugOrder (s : State) (r : Req) (data : List Byte) (sigOk : Bool) : State :=
  match s.bytesCheck r 0x2003 3 data.length with
    | .silent => s
    | .held => s
    | .status st =>
      let own := s.debugStatus data sigOk
      let a := lateStatus (s.bytesFit r 0x2003 3 data.length) (if st = stThermal then stOk else st) own
      if st ≠ stOk ∧ st ≠ stThermal then s.wrote r 0x200303 a
      else
        let final := if a ≠ stOk then a else if st = stThermal then stThermal else if s.inHold then stNotReady else stOk
        let t := s.useChallenge (final ≠ stOk)
        if final ≠ stOk then t.wrote r 0x200303 final else (t.stage (.debug (field data 0 1))).wrote r 0x200303 stOk

def execDebugResponse (r : Req) (data : List Byte) (sigOk : Bool) (s : State) : Out := .next (s.debugOrder r data sigOk)

/-- DEBUG_CLOSE. -/
def State.debugCloseOrder (s : State) (r : Req) (v : Nat) : State :=
  s.ordered r 0x2003 4 v stOk fun s => s.stage (.debug 0)

def execDebugClose (r : Req) (v : Nat) (s : State) : Out := .next (s.debugCloseOrder r v)

/-- A debug state at its boundary; a debugger's halts end with it. -/
def State.setDebug (s : State) (v : Nat) : State :=
  let s := s.onSec fun x => { x with debug := v, debugAt := s.now, halted := if v = 0 then [] else x.halted }
  if v = 0 then { s with dict := { s.dict with halted := false } } else s

/-- OPEN does not stand at a boundary that leaves it no ground: another lifecycle, a page mapped (R8, R380; log 173). -/
def State.debugRecheck (s : State) : State := if s.sec.debug = 2 ∧ !s.openAllowed then s.setDebug 0 else s

/-- DEBUG_EXPIRY: 8 h after the state took effect, at a boundary: it ends to CLOSED (R381). -/
def execDebugExpiry (s : State) : Out :=
  .next (if s.sec.debug = 0 ∨ s.now < s.sec.debugAt + 28800000000000 ∨ !s.frame.running then s
    else if s.sinceTick = 0 then s.setDebug 0 else s.stageNext (.debug 0))

end Sys2Proof.Machine
end

