-- ==== Sys2Proof/Machine/Boot.lean ====
section
/-! DEFINITION. Resets and sprout stages (19, 15 R323, 16 R340, 21 R427 to R430). The last stage's end, which starts frame
0, stands with the frame timer; the board port's RESET with the board port. -/

namespace Sys2Proof.Machine

open Sys2Proof

def State.onHusk (s : State) (f : Husk → Husk) : State := { s with husk := f s.husk }

/-! Warm triggers (R392) -/

/-- A warm trigger: HRDY falls, the engines stop, the pool takes no request, and 2 µs later the logic is reset; with the
crystal stopped nothing runs that could be waited for. In HOLD it is held until HOLD ends. -/
def State.warmTrigger (s : State) : State :=
  match s.husk.power with
  | .off => s
  | .hold => s.onHusk fun h => { h with resetHeld := true }
  | _ =>
    let t := s.stopWork
    { t.onHusk fun h => { h with hrdy := false, resetAt := some (if s.husk.xtalStopped then s.now else s.now + 2000) } with
      pool := { t.pool with closed := true } }

/-- NRST: low for at least 1 µs starts a warm reset; a shorter pulse does nothing (R392, Table BOARD-9). -/
def execNrst (width : Nat) (s : State) : Out :=
  .next (if width < 1000 ∨ !s.husk.supply then s else (s.onHusk fun h => { h with nrstLow := true }).warmTrigger)

/-- NRST_RELEASE: the sprout may go on. -/
def execNrstRelease (s : State) : Out := .next (s.onHusk fun h => { h with nrstLow := false })

/-- WARM_RESET: the logic is reset with DRAM in self-refresh and a warm sprout begins (R392, Table INTEG-5). -/
def execWarmReset (s : State) : Out :=
  .next (match s.husk.resetAt with
    | none => s
    | some t =>
      if s.now < t ∨ !s.husk.supply ∨ s.husk.power = .off ∨ s.husk.power = .hold then s
      else (s.warmSprout).onHusk fun h => { h with xtalStopped := false })

/-! Power (R328, R392) -/

/-- POWER_ON: the husk starts empty but for what the vault holds; its clock and operating time resume from the last save,
the epochs and transmit packet numbers from the saved values plus 2²⁰ (R393, R394). -/
def execPowerOn (s : State) : Out :=
  .next (if s.husk.supply then s
    else
      let h := s.husk
      let sv := h.saved
      let husk : Husk := { Husk.reset with
        power := .off, rtc := sv.1, rtcShift := (sv.1 : Int) - s.unsetClock, oper := sv.2.1, saved := sv,
        shutdowns := h.shutdowns, hardTimes := h.hardTimes,
        hardPending := h.hardPending, stopPending := h.stopPending, lastStopHold := h.lastStopHold }
      let saved (a : Sa) : Nat := match s.net.savedSas.find? fun b =>
          b.party = a.party && b.tx = a.tx && b.an = a.an && b.keyId = a.keyId with
        | some b => b.pn
        | none => 0
      let s : State := { s with
        husk := husk, thermal := Thermal.reset,
        store := { Store.reset with regions := s.store.regions, image := s.store.image, flushed := s.store.flushed,
                                    flushedHighs := s.store.flushedHighs },
        net := { s.net with sas := s.net.sas.map fun a => if a.tx then { a with pn := saved a + 1048576 } else a },
        sec := { s.sec with writing := none, dbgFails := [], debugAt := 0 } }
      let s := [0x24A002, 0x24A003, 0x24A004, 0x24A005, 0x24A008].foldl (fun (s : State) k => s.setReg k 0) s
      let s := ((s.setReg (okey 0x2450 1) 100).setReg 0x300000 ((sv.2.2.1 + 1048576) % 4294967296)).setReg 0x310003
        ((sv.2.2.2 + 1048576) % 4294967296)
      s.beginSprout .powerOn)

/-- HUSK_SUPPLY_LOSS: OFF from any state; the husk's volatile state is lost, as POWER_ON will find it. -/
def execHuskSupplyLoss (s : State) : Out :=
  .next (if s.husk.supply then s.toOff.onHusk fun h => { h with supply := false, lockedOff := false, xtalStopped := false }
    else s)

/-- CRYSTAL_STOP (R430). -/
def execCrystalStop (s : State) : Out :=
  .next (if s.husk.supply && s.husk.power ≠ .off then s.onHusk fun h => { h with xtalStopped := true } else s)

/-- VAULT_SAVE: every 60 s (R394). -/
def execVaultSave (s : State) : Out :=
  .next (if !s.husk.supply ∨ s.husk.power = .off ∨ s.now < s.husk.savedAt + 60000000000 then s
    else (s.saveHusk).bump64 0x202003)

/-! Hard shutdown (R340, R341) -/

/-- HARD: a comparator has reached 140 °C: every rail but HUSK's falls, the shutdown record is written, the state is OFF.
Of three hard shutdowns within 24 h the third locks the device in OFF. A sprout that it cuts short leaves what R397 would
restore (R398). -/
def execHard (sensor : Nat) (reading : Int) (s : State) : Out :=
  .next (if !s.husk.supply ∨ s.husk.power = .off ∨ reading < 560 ∨ 16 ≤ sensor then s
    else
      let times := s.rtc :: s.husk.hardTimes.filter fun t => decide (s.rtc < t + 86400)
      let s := s.onHusk fun h => { h with hardTimes := times }
      let record := { s.mkRec clsThermal 5 0x6000 noParty sensor with temp := max reading s.tj }
      let s := s.addShutdown (s.shutdownRec 2 sensor (max reading s.tj))
      let s := s.onHusk fun h =>
        { h with hardPending := some record, lockedOff := decide (3 ≤ times.length), coolSince := none,
                 lastStopHold := if h.power = .sprout then h.lastStopHold else false }
      s.saveHusk.toOff)

/-- HARD_RESTART: after 10 s at or below 100 °C the husk starts a sprout (R340, R386). -/
def execHardRestart (s : State) : Out :=
  .next (match s.husk.coolSince with
    | none => s
    | some t =>
      if s.husk.power ≠ .off ∨ s.husk.hardPending.isNone ∨ s.husk.lockedOff ∨ !s.husk.inputOk ∨ !s.husk.supply ∨
          s.now < t + 10000000000 then s
      else s.beginSprout .restart)

/-! Rails (R427 to R429) -/

/-- RAIL_TIMEOUT: in stage RAILS every enable falls and the next attempt is due after 100 ms, after three failures every
10 s; a domain powered up by command loses its rails and stays off. The status word's rail fields follow. -/
def execRailTimeout (rail : Nat) (s : State) : Out :=
  let note (s : State) : State := s.onHusk fun h => { h with failedRail := rail, railFails := min 15 (h.railFails + 1) }
  .next (if 7 ≤ rail ∨ !s.husk.supply then s
    else if s.husk.power = .sprout ∧ s.husk.stage = 2 ∧ s.husk.railRetryAt.isNone then
      (note s).onHusk fun h =>
        { h with rails := List.replicate 7 false, railAttempts := h.railAttempts + 1,
                 railRetryAt := some (s.now + if h.railAttempts < 2 then 100000000 else 10000000000) }
    else
      let d := if rail = 3 ∨ rail = 4 then 2 else 3
      if 3 ≤ rail ∧ s.frame.running ∧ (s.husk.powerUpAt.getD d none).isSome then
        ((note s).setRails (if d = 2 then [4, 3] else [6, 5]) false).onHusk fun h =>
          { h with powerUpAt := setAt h.powerUpAt d none }
      else s)

/-- RAIL_RETRY: the enables rise again. -/
def execRailRetry (s : State) : Out :=
  .next (match s.husk.railRetryAt with
    | none => s
    | some t => if s.now < t ∨ s.husk.power ≠ .sprout then s else s.onHusk fun h => { h with railRetryAt := none })

/-! Sprout stages (Table SPROUT-1) -/

/-- The stage that runs is over. -/
def State.nextStage (s : State) : State := s.onHusk fun h => { h with stage := h.stage + 1 }

/-- The vault's values after its copies have been read: an entry whose newest copy is invalid takes the other one, and one
without a valid copy is gone (R232; log 172). -/
def validCopies {α : Type} (x : StageEnv) (vault spare : List (Nat × α)) : List (Nat × α) :=
  vault.filterMap fun e =>
    if !x.badNew.contains e.1 then some e
    else if x.badOld.contains e.1 then none
    else spare.find? fun o => o.1 = e.1

/-- Stage HUSK: the vault's copies are read; an entry without a valid copy takes its default and counts as a fallback
(R232), and a calibrated set without one is gone (R80); the charger is on. -/
def State.huskStage (s : State) (x : StageEnv) : State :=
  let d := s.dict
  let v := validCopies x d.vault d.spare
  let ds := validCopies x d.vaultDoms d.spareDoms
  let n := (d.vault.length - v.length) + (d.vaultDoms.length - ds.length)
  let s := if x.badNew.isEmpty && x.badOld.isEmpty then s
    else
      let good (k : Nat) : Bool := !x.badNew.contains k && !x.badOld.contains k
      let s : State := { s with
        dict := { d with vault := v, vaultDoms := ds, doms := ds, domsLive := ds,
                         spare := d.spare.filter (good ·.1), spareDoms := d.spareDoms.filter (good ·.1) },
        cal := { s.cal with vault := validCopies x s.cal.vault s.cal.vaultAlt, vaultAlt := s.cal.vaultAlt.filter (good ·.1) } }
      let regs := s.resetOd false
      ({ s with od := regs, frame := { s.frame with live := regs } }).bump 0x201004 n
  s.chargeOn.nextStage

/-- A slot's image passes: good signature and no version below the minimum (R371). -/
def State.slotPasses (s : State) (n : Nat) (sig : Bool) : Bool :=
  match s.sec.slots.getD n none with
  | some x => sig && decide (s.sec.minVersion ≤ x.1)
  | none => false

/-- Stage SHELL: the slot activated for this sprout, else the active one, is verified; then the other; when both fail the
device is in recovery. The stage does not end while Tj is 125 °C or above (R371, R373, R386, R387). -/
def State.shellStage (s : State) (x : StageEnv) : State :=
  let a := s.sec.activate.getD s.sec.active
  let b := 1 - a
  let sig (n : Nat) : Bool := if n = 0 then x.sig0 else x.sig1
  let drop (s : State) (n : Nat) : State :=
    if s.slotPasses n (sig n) then s else s.onSec fun y => { y with slots := setAt y.slots n none }
  let s := drop s a
  if s.slotPasses a (sig a) || s.slotPasses b (sig b) then
    let s := if s.slotPasses a (sig a) then s.onSec fun y => { y with active := a, activate := none }
      else s.onSec fun y => { y with active := b, activate := none }
    if x.tj < 500 then s.nextStage else s
  else
    (drop s b).onHusk fun h => { h with recovery := true, rails := setAt (List.replicate 7 false) 0 true, hrdy := true }

/-- Held lines and the failing line become chaff, and the MEM_UE record is appended (R290, R323). -/
def State.afterWarm (s : State) : State :=
  let s := s.pool.holds.foldl (fun (s : State) h => s.makeChaff h.line (s.pageOwner (h.line / 64))) s
  let s : State := { s with pool := { s.pool with holds := [] } }
  let s := match s.husk.ueLine with
    | some l => s.makeChaff l (s.pageOwner (l / 64))
    | none => s
  let s := match s.husk.uePending with
    | some r => (s.onHusk fun h => { h with ueCause := some (r, h.ueRequester) }).raise r
    | none => s
  s.onHusk fun h => { h with ueLine := none, uePending := none }

/-- Stage MEMORY: DRAM trained and zero, or out of self-refresh. -/
def State.memoryStage (s : State) : State :=
  let s := if s.husk.kind = .warm then s.afterWarm else s
  let s := s.setReg (domReg 4 2) 1
  ({ s with pool := { s.pool with closed := false } }.onHusk fun h => { h with dramOk := true }).nextStage

/-- Stage UNITS: SENSE and COMP are powered; trims are loaded and drift terms set (R80). -/
def State.unitsStage (s : State) : State := (((s.setReg (domReg 2 2) 1).setReg (domReg 3 2) 1).loadTrims).nextStage

/-- Stage NETWORK: the strap is sampled, and ports commanded on wait for their medium (R214, R433). -/
def State.networkStage (s : State) (x : StageEnv) : State :=
  let up (u : Nat) : Nat := if s.inForce (okey (0x3C00 + u) 1) = 1 then 2 else 0
  let s : State := { s with net := { s.net with ports := [up 0, up 1, 0, up 3] } }
  (s.onHusk fun h => { h with strap := x.strap }).nextStage

/-- The plan is reinstated: its hashes match and the allotment checks pass; segments take their data memory, the heads'
versions rise; otherwise no plan is loaded and the Owner is told (R396). -/
def State.reinstate (s : State) (hashesOk : Bool) : State :=
  match s.loader.plan with
  | none => s
  | some p =>
    let v := if !hashesOk then some (3, detailWord 0 0 0) else checkAllot s.allotForce p
    match v with
    | some (sub, _) =>
      let s : State := { s with loader := { s.loader with plan := none } }
      let s := ((s.abortJobs p.segs).loadWalkers none).planRegs none
      s.reportEnd pendLoad 0 stPlanRejected sub 0
    | none =>
      let s : State := { s with loader := { s.loader with plan := none } }
      let s := s.install p (p.segs.map (·.hdr.segment))
      s

/-- Root contexts are re-created; a party that has no pool key gets one (R397). -/
def State.recreateRoots (s : State) : State :=
  (List.range 16).foldl (fun (s : State) p =>
    if (s.ctx p).isNone && decide (16 ≤ s.pageAllot p) then
      (if (s.poolKey p).isEmpty then s.newPoolKey p else s).createRoot p
    else s) s

/-- VALID keep regions of root contexts are written back; each then reads EMPTY (R397). A region whose range the root
context does not map cannot be written. -/
def State.restoreRegions (s : State) : State :=
  s.store.regions.zipIdx.foldl (fun (s : State) x =>
    let r := x.1
    if r.state = 1 && r.ctx = r.party then
      match (s.ctx r.ctx).bind fun c => physRange c r.addr r.length with
      | some as =>
        (s.pokes r.party (as.zip r.copy)).onStore fun y =>
          { y with regions := upd y.regions x.2 fun r => { r with state := 0, snap := [], copy := [] } }
      | none => s
    else s) s

/-- The fault log after a stop: what was flushed, then the records that the vault holds for this sprout (R340, R361,
R397). -/
def State.rebuildLog (s : State) : State :=
  let s := if s.husk.lastStopHold then
      { s with integ := { s.integ with log := s.store.flushed, sinceClear := s.store.flushedSince } } else s
  let rs := s.husk.hardPending.toList ++ s.husk.uePending.toList ++ s.husk.stopPending
  rs.foldl State.raise s

/-- Stage PLAN up to the first tick (R396, R397). -/
def State.planStage (s : State) (x : StageEnv) : State :=
  let s := if s.husk.kind = .warm then s.reinstate x.hashesOk else s
  let s := if s.husk.coldDue then
      let s := s.recreateRoots
      (if s.husk.lastStopHold then s.restoreRegions else s).rebuildLog
    else s.husk.hardPending.toList.foldl State.raise s
  s.reshare.onHusk fun h => { h with hardPending := none, uePending := none, stopPending := [] }

/-- Every keep copy that was not restored is erased at the tick of frame 0 (R397). -/
def State.eraseCopies (s : State) : State :=
  s.onStore fun x => { x with regions := x.regions.map fun r => { r with state := 0, snap := [], copy := [] } }

/-- The end of a stage before PLAN. -/
def State.stageEnd (s : State) (x : StageEnv) : State :=
  match s.husk.stage with
  | 0 => s.huskStage x
  | 1 => s.shellStage x
  | 2 => if s.husk.railRetryAt.isSome ∨ s.husk.xtalStopped then s
    else (s.onHusk fun h => { h with rails := List.replicate 7 true, railAttempts := 0 }).nextStage
  | 3 => (s.onHusk fun h => { h with hrdy := true }).nextStage
  | 4 => s.memoryStage
  | 5 => s.unitsStage
  | 6 => s.networkStage x
  | _ => s

end Sys2Proof.Machine
end

