-- ==== Sys2Proof/Machine/SelfTest.lean ====
section
/-! DEFINITION. Self-test and transaction trace (20): due units and their order, cluster tests out of the plan, BIST slices,
results, overdue units, and the configuration of a party's trace. -/

namespace Sys2Proof.Machine

open Sys2Proof

def State.onTest (s : State) (f : Test → Test) : State := { s with test := f s.test }

/-! Units (Table TEST-1) -/

/-- A unit of Table TEST-1. -/
def testUnit (u : Nat) : Bool :=
  decide (0x1000 ≤ u ∧ u < 0x1008) || decide (0x2000 ≤ u ∧ u < 0x2028) || [0x6001, 0x6002, 0x8000, 0x8002].contains u

def isClusterUnit (u : Nat) : Bool := u / 4096 = 1
def isPodUnit (u : Nat) : Bool := u / 4096 = 2

/-- Slices of the histogram check of a pod. -/
def histSlices : Nat := 1200

/-- Slices of a slice-based test: the durations of Table TEST-1. A WORN pod receives the histogram check only (R401). -/
def State.sliceCount (s : State) (u : Nat) : Nat :=
  if isPodUnit u then (if s.reg (podReg (u % 4096) 3) = 6 then histSlices else histSlices + 48000)
  else if u = 0x6001 then 6000 else if u = 0x6002 then 3000 else if u = 0x8000 then 2000 else 16000

/-- The test of a unit runs. -/
def State.testRuns (s : State) (u : Nat) : Bool :=
  (s.test.cluster.any fun t => unitCluster t.cluster = u) || (s.test.staged.any fun t => unitCluster t.1 = u) ||
    (s.test.slice.any fun t => t.1 = u)

/-- Test registers of a cluster and a pod. -/
def bistReg (c sub : Nat) : Nat := okey (0x4410 + c) sub
def marchReg (pod sub : Nat) : Nat := okey (0x4420 + pod) sub

/-! Due times (R403, R404, R409) -/

/-- Insert by due time, ties to the lower unit code (R404). -/
def insDue (u t : Nat) : List (Nat × Nat) → List (Nat × Nat)
  | [] => [(u, t)]
  | x :: xs => if t < x.2 ∨ (t = x.2 ∧ u < x.1) then (u, t) :: x :: xs else x :: insDue u t xs

/-- A unit falls due now; a cluster shows since when (R410). -/
def State.fallDue (s : State) (u : Nat) : State :=
  if s.test.due.any fun x => x.1 = u then s
  else
    let s := s.onTest fun x => { x with due := insDue u s.rtc x.due }
    if isClusterUnit u then s.setReg (bistReg (u % 4096) 5) s.rtc else s

/-- The interval since a unit's last completed test has elapsed. -/
def State.scheduledDue (s : State) (u : Nat) : Bool :=
  s.reg 0x440001 ≠ 0 && decide (mget 0 s.test.lastDone u + s.reg 0x440001 ≤ s.rtc)

/-- The retest of a failed unit has come; instant 0 stands for a retest that has been used. -/
def State.retestDue (s : State) (u : Nat) : Bool :=
  s.test.retest.any fun x => x.1 = u && x.2.1 ≠ 0 && decide (x.2.1 ≤ s.oper)

/-- TEST_DUE: by schedule, which ends a chain of retests, or as one of the two retests after a failure. -/
def execTestDue (u : Nat) (s : State) : Out :=
  .next (
    if !testUnit u || !s.frame.running || (s.test.due.any fun x => x.1 = u) then s
    else if s.scheduledDue u then
      (s.onTest fun x => { x with retest := x.retest.filter fun y => y.1 ≠ u }).fallDue u
    else if s.retestDue u then
      (s.onTest fun x => { x with retest := x.retest.map fun y => if y.1 = u then (u, 0, y.2.2) else y }).fallDue u
    else s)

/-- What R403 says of a write of 0x4400:02. -/
def State.startTestStatus (s : State) (v : Nat) : Nat :=
  if !testUnit v then stRange else if s.testRuns v then stBusy else stOk

/-- START_TEST: the unit is due at once. -/
def State.startTestOrder (s : State) (r : Req) (v : Nat) : State :=
  s.ordered r 0x4400 2 v (s.startTestStatus v) fun s => s.fallDue v

def execStartTest (r : Req) (v : Nat) (s : State) : Out := .next (s.startTestOrder r v)

/-! Results (R409) -/

/-- A unit whose test failed falls due again 120 s of operating time later, at most twice. -/
def retestAfter (l : List (Nat × Nat × Nat)) (u oper : Nat) : List (Nat × Nat × Nat) :=
  let n := ((l.find? fun y => y.1 = u).map (·.2.2)).getD 0
  let rest := l.filter fun y => y.1 ≠ u
  if n < 2 then (u, oper + 120, n + 1) :: rest else rest

/-- A test completes: the unit is neither due nor overdue, its time is kept in the vault, and a failed one raises its TEST
record (R403, R409, R410). -/
def State.testDone (s : State) (u : Nat) (failed : Option (Nat × Nat)) : State :=
  let s := s.onTest fun x => { x with
    due := x.due.filter fun y => y.1 ≠ u, overdue := x.overdue.filter (· ≠ u), lastDone := mins x.lastDone u s.rtc,
    retest := match failed with
      | some _ => retestAfter x.retest u s.oper
      | none => x.retest.filter fun y => y.1 ≠ u }
  let s := s.traceDevice 0 (if failed.isSome then stIntegrity else stOk) u 0 0 0 u
  match failed with
  | some (cause, detail) => s.fault clsTest cause u noParty detail
  | none => s

/-- The status that a result entry shows. -/
def resultStatus (failed : Option (Nat × Nat)) : Nat := if failed.isSome then stIntegrity else stOk

/-! Cluster tests (R402, R405 to R407) -/

/-- The down row of the plan's certificate fits the effective step. -/
def State.downFits (s : State) : Bool :=
  s.loader.plan.any fun p => decide (tierCurrent p 4 ≤ 750 * (s.reg 0x246003 + 1))

/-- Another cluster than c has a fenced pod, is gated, or is out of the plan. -/
def State.otherDown (s : State) (c : Nat) : Bool :=
  ((List.range 40).any fun i => i / 5 ≠ c && (s.pod i).fenced) ||
    ((List.range 8).any fun d => d ≠ c && (s.frame.down.testBit d || s.thermal.gated.getD d false))

/-- The cluster does not carry work that a test would have to displace: free, or no window runs. -/
def State.idleFor (s : State) (c : Nat) : Bool := s.clusterFree c || s.husk.power = .doze

/-- The plan declares a variant without cluster c. -/
def State.declaresDown (s : State) (c : Nat) : Bool := s.loader.plan.any fun p => p.comp.downMask.testBit c

/-- The conditions of R405 for cluster c. -/
def State.clusterTestable (s : State) (c : Nat) : Bool :=
  (s.idleFor c || (s.declaresDown c && decide (s.tier ≤ 1) && s.downFits)) && !s.otherDown c &&
    s.test.cluster.isNone && s.test.staged.isNone && (s.clu c).shadow.isEmpty && (s.clu c).lifting.isNone &&
    (s.husk.power = .run || s.husk.power = .doze)

/-- KEEP stages the first due cluster test whose conditions hold (R404, R405; log 88). -/
def State.stageTest (s : State) : State :=
  match s.test.due.find? fun x => isClusterUnit x.1 && s.clusterTestable (x.1 % 4096) with
  | some (u, _) => s.onTest fun x => { x with staged := some (u % 4096, !s.idleFor (u % 4096)) }
  | none => s

/-- The clusters under test: their work is withdrawn (R405). -/
def State.testDown (s : State) : Nat :=
  match s.test.cluster with
  | some t => 1 <<< t.cluster
  | none => 0

/-- R407: the running cluster test is abandoned; its reload runs. -/
def State.abandonTest (s : State) : State :=
  s.onTest fun x => { x with cluster := x.cluster.map fun t =>
    if t.abandoned || 3 ≤ t.stage then t else { t with abandoned := true, stage := 2 } }

/-- One of the events of R407 stands. A DOZE that ended leaves the down variant where the plan declares one. -/
def State.testBarred (s : State) (t : ClusterTest) : Bool :=
  let others := ((List.range 40).any fun i => i / 5 ≠ t.cluster && (s.pod i).fenced) ||
    (List.range 8).any fun d => d ≠ t.cluster && s.thermal.gated.getD d false
  let down := t.down || !s.idleFor t.cluster
  others || (s.husk.power ≠ .run && s.husk.power ≠ .doze) ||
    (down && (!s.declaresDown t.cluster || decide (1 < s.tier) || !s.downFits))

def State.judgeTest (s : State) : State :=
  match s.test.cluster with
  | some t => if s.testBarred t then s.abandonTest else s
  | none => s

/-- A test whose reload has ended returns its cluster and reports (R406, R407, R409): an abandoned one reads ABORTED and
stays due. -/
def State.returnCluster (s : State) (t : ClusterTest) : State :=
  let s := s.onTest fun x => { x with cluster := none }
  if t.abandoned then s.setReg (bistReg t.cluster 1) stAborted
  else
    let s := ((((s.setReg (bistReg t.cluster 1) (resultStatus t.failed)).setReg (bistReg t.cluster 2) t.signature).setReg
      (bistReg t.cluster 4) s.rtc).setReg (bistReg t.cluster 5) 0)
    s.testDone (unitCluster t.cluster) t.failed

/-- A staged test starts: the head data of the cluster is copied, and the result reads BUSY (R402, R405, R406). -/
def State.startCluster (s : State) (c : Nat) (down : Bool) : State :=
  { (s.setReg (bistReg c 1) stBusy) with
    test := { s.test with staged := none, cluster := some ⟨c, 0, down, none, 0, false⟩ },
    heads := s.heads.map fun h => if h.cluster = c then { h with mirror := h.masters } else h }

/-- Cluster tests at a boundary: a finished one returns, a staged one starts where COMP is powered, a barred one is abandoned. -/
def State.testBoundary (s : State) : State :=
  match s.test.cluster with
  | some t => if t.stage = 3 then s.returnCluster t else s.judgeTest
  | none =>
    match s.test.staged with
    | some (c, down) => if s.reg (domReg 3 2) = 1 then s.startCluster c down else s
    | none => s

/-- CLUSTER_TEST_STEP_END: the logic BIST ends with its signature, the march with its verdict, the reload ends (R402, R409).
The first failed check gives the cause. -/
def execClusterTestStepEnd (c signature : Nat) (memOk : Bool) (detail : Nat) (s : State) : Out :=
  .next (
    let s := s.judgeTest
    match s.test.cluster with
    | none => s
    | some t =>
      if t.cluster ≠ c ∨ s.husk.xtalStopped then s
      else
        let sig := signature % 4294967296
        let n : ClusterTest := match t.stage with
          | 0 => { t with stage := 1, signature := sig,
                          failed := if sig = s.reg (bistReg c 3) then t.failed else some (1, sig) }
          | 1 => { t with stage := 2, failed := if memOk then t.failed else t.failed <|> some (2, detail % 4294967296) }
          | 2 => { t with stage := 3 }
          | _ => t
        s.onTest fun x => { x with cluster := some n })

/-! BIST slices (R400, R401, R408) -/

/-- A due unit whose slice-based test can start: a pod that has just left active service while due, or another unit that is
no cluster. -/
def State.sliceStartable (s : State) (u : Nat) : Bool :=
  if isPodUnit u then (s.pod (u % 4096)).testFirst && (s.clu (u % 4096 / 5)).setDown.isEmpty &&
    !s.liftKeep (u % 4096 / 5) && (s.reg (podReg (u % 4096) 3) = 5 || s.reg (podReg (u % 4096) 3) = 6)
  else !isClusterUnit u

/-- The march of a pod has overwritten its digital cell pairs, which counts as one cycle; the pod may now be programmed. -/
def State.endPodTest (s : State) (pod : Nat) : State :=
  let worn := s.reg (podReg pod 3) = 6
  let s := s.onPod pod fun p => { p with testFirst := false, hash := if worn then p.hash else 0 }
  if worn then s
  else
    let n := min 65535 (s.reg (podReg pod 5) + 1)
    let s := s.setReg (podReg pod 5) n
    if n = 10000 then ((s.fault clsAnalog 2 (unitPod pod) noParty n).spareState pod 6).groupLoses (pod / 5) else s

/-- A slice-based test ends with its verdict. -/
def State.endSliceTest (s : State) (u : Nat) (failed : Option (Nat × Nat)) : State :=
  let s := s.onTest fun x => { x with slice := none }
  if isPodUnit u then
    let pod := u % 4096
    let (sig, s) := s.drawNat
    let s := ((s.setReg (marchReg pod 1) (resultStatus failed)).setReg (marchReg pod 2) (sig % 4294967296)).setReg
      (marchReg pod 3) s.rtc
    (s.endPodTest pod).testDone u failed
  else s.testDone u failed

/-- One slice of the test in progress; `pass` and `detail` are the verdict where a check ends in this slice. -/
def State.oneSlice (s : State) (u n : Nat) (hist : Option Nat) (pass : Bool) (detail : Nat) : State :=
  let hist := if isPodUnit u && n + 1 = histSlices && !pass then some (detail % 4294967296) else hist
  if s.sliceCount u ≤ n + 1 then
    let failed : Option (Nat × Nat) := match hist with
      | some d => some (3, d)
      | none => if pass then none else some (if isPodUnit u then 4 else 2, detail % 4294967296)
    s.endSliceTest u failed
  else s.onTest fun x => { x with slice := some (u, n + 1, hist) }

/-- BIST_SLICE: task 4 of KEEP, from 14 µs, not in T3, once in a frame; the test in progress goes on, or the first due unit
that can start does (R32, R404, R408). -/
def execBistSlice (pass : Bool) (detail : Nat) (s : State) : Out :=
  .next (
    if !s.active || s.frame.phase ≠ .keep || s.tier = 3 || s.frame.tasksDone.testBit 2 ||
        decide (s.now < s.frame.start + s.keepStart + 14000) then s
    else
      let s : State := { s with frame := { s.frame with tasksDone := setBit s.frame.tasksDone 2 } }
      match s.test.slice with
      | some (u, n, h) => if isPodUnit u && s.liftKeep (u % 4096 / 5) then s else s.oneSlice u n h pass detail
      | none =>
        match s.test.due.find? fun x => s.sliceStartable x.1 with
        | some (u, _) => s.oneSlice u 0 none pass detail
        | none => s)

/-- Entry to HOLD or SAFE abandons every test (R407): a slice-based one begins anew, its unit stays due. -/
def State.abandonTests (s : State) : State :=
  let s := match s.test.slice with
    | some (u, _, _) => if isPodUnit u then s.setReg (marchReg (u % 4096) 1) stAborted else s
    | none => s
  (s.onTest fun x => { x with slice := none, staged := none }).abandonTest

/-! Overdue units (R410) -/

/-- The condition that has held a test back longest. A pod waits for its spare turn, another slice-based unit for its tier,
a cluster without a down variant for DOZE; between the other conditions of a cluster nothing says which held longest. -/
def State.overdueReason (s : State) (u : Nat) : Nat × State :=
  if isPodUnit u then (3, s)
  else if !isClusterUnit u then (1, s)
  else if !s.declaresDown (u % 4096) then (0, s)
  else
    let (n, s) := s.drawNat
    ([1, 2, 4].getD (n % 3) 1, s)

/-- TEST_OVERDUE (Table TEST-3): once for each unit that stays due for the deferral limit. -/
def execTestOverdue (u : Nat) (s : State) : Out :=
  .next (match s.test.due.find? fun x => x.1 = u with
    | none => s
    | some (_, t) =>
      if s.test.overdue.contains u || !s.frame.running || decide (s.rtc < t + s.reg 0x440003) then s
      else
        let (why, s) := s.overdueReason u
        let s := s.onTest fun x => { x with overdue := sins x.overdue u }
        s.eventAll 4 (leBytes 2 u ++ leBytes 1 (if isClusterUnit u then 1 else if isPodUnit u then 2 else 3) ++
          leBytes 1 why ++ leBytes 8 t))

/-! Trace configuration (R411, R412) -/

/-- What R411 says of a write to 0x4800 + p: enabling checks the ring; reserved filter bits are ignored (R10). -/
def State.traceStatus (s : State) (p sub v : Nat) : Nat :=
  if sub = 1 ∧ v = 1 then
    let a := s.reg (okey (0x4800 + p) 2)
    let n := s.reg (okey (0x4800 + p) 3)
    if a % 32 ≠ 0 ∨ n < 1024 ∨ 16777216 < n ∨ !((s.ctx p).any fun c => writableRange c a n) then stRange else stOk
  else stOk

def State.traceSetting (s : State) (r : Req) (p sub v : Nat) : State :=
  s.setting r (0x4800 + p) sub v (s.traceStatus p sub v)

/-- TRACE_CONFIG_WRITE: the settings take effect at the next boundary. -/
def execTraceConfigWrite (r : Req) (p sub v : Nat) (s : State) : Out := .next (s.traceSetting r p sub v)

/-- The trace in force at a boundary: a party that has just enabled it counts records from 0. -/
def State.traceBoundary (s : State) : State :=
  let key (p sub : Nat) : Nat := s.inForce (okey (0x4800 + p) sub)
  let seqOf (p : Nat) : Nat := ((s.test.trace.find? fun y => y.1 = p).map (·.2.2.2.2)).getD 0
  let on := (List.range 16).filter fun p => key p 1 = 1
  s.onTest fun x => { x with trace := on.map fun p => (p, key p 2, key p 3, key p 4, seqOf p) }

end Sys2Proof.Machine
end

