-- ==== Sys2Proof/Machine/Board.lean ====
section
/-! DEFINITION. The board port (21 R416 to R423): the status word, PUT, GET, RESET, HRDY; and the debug port (18 R378,
R379). A transaction is one command: it runs from the fall of BP_CSN to its rise. What the service does with a message that
it takes from the mailbox stands with the transport. -/

namespace Sys2Proof.Machine

open Sys2Proof

def State.onBoard (s : State) (f : Board → Board) : State := { s with board := f s.board }

/-- The 32 bytes of a fault record (Table INTEG-2). -/
def recBytes (r : FaultRec) : List Byte :=
  leBytes 1 r.cls ++ leBytes 1 r.cause ++ leBytes 2 r.unit ++ leBytes 1 r.party ++ leBytes 1 r.flags ++ leBytes 2 r.ctx ++
    leBytes 2 r.desc ++ leBytes 2 r.tile ++ leBytes 6 r.frame ++ leBytes 2 r.tickOff ++ leBytes 4 r.wall ++
    leBytes 2 (unsignedOf 16 r.temp) ++ leBytes 2 r.volt ++ leBytes 4 r.detail

/-! Transactions (Table BOARD-1) -/

/-- Field `stage` of the status word: the sprout stage, 8 frames running, 9 SAFE, 15 recovery. -/
def State.stageField (s : State) : Nat :=
  if s.husk.recovery then 15
  else
    match s.husk.power with
    | .sprout => s.husk.stage
    | .safe => 9
    | _ => 8

/-- The status word of Table BOARD-2. -/
def State.statusWord (s : State) : Nat :=
  let bit (i : Nat) (b : Bool) : Nat := if b then 2 ^ i else 0
  s.stageField + bit 8 s.board.mailbox.isNone + bit 9 (!s.board.outq.isEmpty) + bit 10 s.board.putLost +
    bit 11 s.board.resetDenied + bit 12 s.boardParty.isSome + bit 13 s.board.ret + bit 14 s.board.badOp +
    ((s.board.outq.head?.map (·.2.length)).getD 0) * 2 ^ 16 + s.board.dropped % 65536 * 2 ^ 32 +
    (s.boardParty.getD 0) * 2 ^ 48 + powerCode s.husk.power * 2 ^ 52 + s.husk.failedRail % 16 * 2 ^ 56 +
    min 15 s.husk.railFails * 2 ^ 60

/-- STATUS: the word is sent, and its sticky bits are cleared (R418). -/
def execStatus (s : State) : Out :=
  .next (if !s.boardServed then s
    else
      ({ s with out := s.out ++ [OutMsg.board (leBytes 8 s.statusWord)] }).onBoard fun b =>
        { b with putLost := false, resetDenied := false, badOp := false })

/-- PUT of a declared length and the bytes clocked: accepted when the mailbox is free, the length lies in 16 to 4,116 and
exactly that many bytes came; HRDY falls. Any other PUT only sets PUT_LOST (R419, R423). -/
def execPut (len : Nat) (bytes : List Byte) (s : State) : Out :=
  .next (if !s.boardServed then s
    else if s.board.mailbox.isNone && decide (16 ≤ len ∧ len ≤ 4116 ∧ bytes.length = len) then
      (s.onHusk fun h => { h with hrdy := false }).onBoard fun b =>
        { b with mailbox := some bytes, pulse := none }
    else s.onBoard fun b => { b with putLost := true })

/-- Responses that waited for room enter the outbound queue in order (R421). -/
def State.takeIn : Nat → State → State
  | 0, s => s
  | n + 1, s =>
    match s.board.waiting with
    | [] => s
    | m :: rest =>
      match s.boardPush m.1 m.2 with
      | (true, t) => State.takeIn n (t.onBoard fun b => { b with waiting := rest })
      | (false, _) => s

/-- GET: the length of the head message and as many of its bytes as are clocked; it leaves the queue only when all were
(R420). -/
def execGet (clocked : Nat) (s : State) : Out :=
  .next (if !s.boardServed then s
    else
      match s.board.outq with
      | [] => { s with out := s.out ++ [OutMsg.board (leBytes 2 0)] }
      | m :: rest =>
        let s : State := { s with out := s.out ++ [OutMsg.board (leBytes 2 m.2.length ++ m.2.take clocked)] }
        if m.2.length ≤ clocked then
          let s := s.onBoard fun b => { b with outq := rest }
          State.takeIn s.board.waiting.length s
        else s)

/-- RESET: a warm reset for party 0 or in recovery with the two key bytes, else RESET_DENIED (R392, R422). -/
def execReset (b1 b2 : Byte) (s : State) : Out :=
  .next (if !s.boardServed then s
    else if b1 = 0xC3 ∧ b2 = 0xA5 ∧ s.boardParty = some 0 then s.warmTrigger
    else s.onBoard fun b => { b with resetDenied := true })

/-- BAD_OP: an opcode that Table BOARD-1 does not list. -/
def execBadOp (op : Byte) (s : State) : Out :=
  .next (if !s.boardServed ∨ op = 0x05 ∨ op = 0x02 ∨ op = 0x0B ∨ op = 0x99 then s
    else s.onBoard fun b => { b with badOp := true })

/-- ATTENTION_PULSE_END: 1.0 µs after it began, HRDY is high again while the mailbox is free (R423). -/
def execAttentionPulseEnd (s : State) : Out :=
  .next (match s.board.pulse with
    | none => s
    | some t =>
      if s.now < t + 1000 then s
      else
        (s.onBoard fun b => { b with pulse := none }).onHusk fun h =>
          { h with hrdy := s.boardServed && s.board.mailbox.isNone })

/-! The debug port (18 R378, R379) -/

/-- What debug reaches: in VENDOR the list of R378, in OPEN all but the key store. -/
def State.debugReaches (s : State) (t : DebugTarget) : Bool :=
  match t with
  | .keyStore _ => false
  | .bundle n => s.sec.debug = 2 || decide (n < 1024)
  | .coreData a => s.sec.debug = 2 || decide (a < 0x4000)
  | .dram _ => s.sec.debug = 2
  | .buffer _ _ => s.sec.debug = 2
  | .otherMemory _ => s.sec.debug = 2
  | _ => true

/-- A bundle of code memory as a number: the plan's code at its absolute place, zero where no segment has code (06 R122). -/
def State.codeBundle (s : State) (n : Nat) : Nat :=
  match (s.loader.plan.map (·.segs)).bind fun gs => gs.find? fun g => decide (g.codeBase ≤ n ∧ n < g.codeBase + g.codeLen) with
  | some g => leNat ((g.code.drop (32 * (n - g.codeBase))).take 32)
  | none => 0

/-- What a reached read returns; for what the specification gives no content the value is open, the device-reserved part of DRAM
included. DRAM holds ciphertext (R278). -/
def State.debugRead (s : State) (t : DebugTarget) : Nat × State :=
  match t with
  | .bundle n => (s.codeBundle n, s)
  | .coreData a => ((mget 0 s.core.dmem a).toNat, s)
  | .trim k => (unsignedOf 16 (mget 0 s.cal.applied k), s)
  | .sensor i => (unsignedOf 16 (s.thermal.readings.getD i 0), s)
  | .faultLog i => (((s.integ.log[i]?).map fun r => leNat (recBytes r)).getD 0, s)
  | .dram a => if a < poolBytes then ((s.dramByte a).toNat, s) else s.drawNat
  | .buffer c a => ((mget 0 (s.walker c).buffer a).toNat, s)
  | _ => s.drawNat

/-- A reached write: bytes of the core's data memory, of DRAM and of buffers are stored. VENDOR changes no result and no
timing of a party, so a write to any other place it reaches has no effect that the model shows. -/
def State.debugWrite (s : State) (t : DebugTarget) (v : Nat) : State :=
  let b := BitVec.ofNat 8 v
  match t with
  | .coreData a => { s with core := { s.core with dmem := mset 0 s.core.dmem a b } }
  | .dram a => if a < poolBytes then s.putDram a b else s
  | .buffer c a => s.onWalker c fun w => putBuf w a [b] true
  | _ => s

/-- A halt or its end reaches the service processor, and an engine in OPEN or while no plan is loaded. -/
def State.debugHalts (s : State) (t : DebugTarget) : Bool :=
  match t with
  | .service => true
  | .engine _ => s.sec.debug = 2 || s.loader.plan.isNone
  | _ => false

def State.setHalt (s : State) (t : DebugTarget) (on : Bool) : State :=
  match t with
  | .service => { s with dict := { s.dict with halted := on } }
  | .engine n => s.onSec fun x => { x with halted := if on then sins x.halted n else sdel x.halted n }
  | _ => s

/-- A blocked access is counted. -/
def State.block (s : State) : State := s.onSec fun x => { x with blocked := x.blocked + 1 }

/-- DEBUG_PORT_ACCESS: nothing answers while debug is CLOSED (Tables SEC-5, SEC-6). -/
def execDebugPortAccess (target : DebugTarget) (op : DebugOp) (s : State) : Out :=
  .next (if s.sec.debug = 0 ∨ s.husk.power = .off ∨ !s.husk.supply ∨ s.husk.xtalStopped then s
    else
      match op with
      | .read =>
        if s.debugReaches target then
          let (v, t) := s.debugRead target
          { t with out := t.out ++ [OutMsg.debugData v] }
        else
          let t := s.block
          { t with out := t.out ++ [OutMsg.debugData 0] }
      | .write v => if s.debugReaches target then s.debugWrite target v else s.block
      | .halt => if s.debugHalts target then s.setHalt target true else s.block
      | .resume => if s.debugHalts target then s.setHalt target false else s.block)

end Sys2Proof.Machine
end

