-- ==== Sys2Proof/Machine/Net.lean ====
section
/-! DEFINITION. Ports, switch and transport (10): port states, received messages and the classifier, requests and their
sequences, return addresses, events and records on their way out, time, CAN FD's heartbeat. -/

namespace Sys2Proof.Machine

open Sys2Proof

/-! Port states (R214, R215) -/

/-- A request that a service has accepted, as a requester. -/
def reqOf (m : Nat × Nat × List Byte × Bool) : Req := ⟨m.2.1, m.1, field m.2.2.1 8 4⟩

/-- Accepted pool operations that have not started end ABORTED (R205, R215, R220). -/
def State.abortPool (s : State) (f : Nat × Nat × List Byte × Bool → Bool) : State :=
  (s.net.accepted.filter fun m => field m.2.2.1 1 1 = 2 && f m).foldl (fun (s : State) m =>
    (s.portCount m.1 0x19).poolAnswer (reqOf m) (field m.2.2.1 2 2) stAborted []) s

/-- The retransmission timers of a port's parties go on after it was not UP. -/
def State.shiftTimers (s : State) (u t : Nat) : State :=
  (List.range 16).foldl (fun (s : State) p =>
    if s.portOf p = some u then
      s.onNet p fun n => { n with events := n.events.map fun e => { e with sentAt := e.sentAt.map (· + (s.now - t)) } }
    else s) s

/-- PLCA is configured: enabled, with a node ID. -/
def State.plcaSet (s : State) : Bool := s.inForce 0x3C1001 = 1 && s.inForce 0x3C1002 ≠ 255

/-- At node ID 0 the device is the coordinator and sends the BEACONs itself (Table NET-1), so that PLCA is active while N2 is UP
(log 188). -/
def State.plcaCoordinator (s : State) : Bool := s.plcaSet && s.inForce 0x3C1002 = 0

/-- A port takes an effective state: LINK tells the Owner, leaving UP ends what the pool engine has not started, and the
timers rest until the port is UP again. -/
def State.setPort (s : State) (u st : Nat) : State :=
  let old := s.net.ports.getD u 0
  if old = st ∨ 4 ≤ u then s
  else
    let s : State := { s with net := { s.net with ports := setAt s.net.ports u st } }
    let s := s.event 0 5 0 (leBytes 1 u ++ leBytes 1 old ++ leBytes 1 st ++ leBytes 1 0)
    let s : State := { s with net := { s.net with plca := s.net.plca || (u = 1 && st = 1 && s.plcaCoordinator) } }
    if old = 1 then
      let s : State := { s with net := { s.net with downAt := setAt s.net.downAt u (some s.now) } }
      s.abortPool fun m => m.1 = u
    else if st = 1 then
      match s.net.downAt.getD u none with
      | some t =>
        let r := s.shiftTimers u t
        { r with net := { r.net with downAt := setAt r.net.downAt u none } }
      | none => s
    else s

/-- The wired ports with a commanded state. -/
def cmdPorts : List Nat := [0, 1, 3]

/-- The network runs: stage NETWORK has ended and no reset is due. -/
def State.netRuns (s : State) : Bool :=
  s.husk.supply && !s.husk.xtalStopped && s.husk.resetAt.isNone &&
    (match s.husk.power with
     | .off => false
     | .sprout => decide (7 ≤ s.husk.stage)
     | _ => true)

/-- LINK_CHANGE: the medium of an enabled port that is not held down: 1 UP, 2 NO_LINK, on CAN FD 4 BUS_OFF. -/
def execLinkChange (port st : Nat) (s : State) : Out :=
  .next (if !cmdPorts.contains port || !s.netRuns || [0, 3].contains (s.net.ports.getD port 0) ||
        !(st = 1 || (st = 2 && port ≠ 3) || (st = 4 && port = 3)) then s
    else
      let s := if st = 4 ∧ s.net.ports.getD 3 0 ≠ 4 then s.portCount 3 0x1F else s
      s.setPort port st)

/-- JABBER: the device's own transmitter was active for more than 2 ms: DOWN_JABBER until the clear, and a NETWORK
record. -/
def execJabber (port : Nat) (s : State) : Out :=
  .next (if !cmdPorts.contains port || !s.netRuns || s.net.ports.getD port 0 ≠ 1 then s
    else ((s.portCount port 0x14).setPort port 3).fault clsNetwork 1 (unitPort port) noParty 0)

/-- RECEIVE_JABBER: a carrier of another node on N2 for more than 2 ms is counted (R215). -/
def execReceiveJabber (s : State) : Out :=
  .next (if s.netRuns && s.net.ports.getD 1 0 = 1 then s.portCount 1 0x14 else s)

/-- PORT_CLEAR: the commanded enable is applied at the next boundary (R214, R244). -/
def State.portClearOrder (s : State) (r : Req) (u v : Nat) : State :=
  s.ordered r (0x3C00 + u) 3 v stOk fun s => s.stage (.portClear u)

def execPortClear (r : Req) (u v : Nat) (s : State) : Out := .next (s.portClearOrder r u v)

/-- A clear at its boundary: a port held down for jabber is UP again if it is enabled. -/
def State.clearPort (s : State) (u : Nat) : State :=
  if s.net.ports.getD u 0 ≠ 3 then s
  else
    let s : State := { s with frame := { s.frame with differ := s.frame.differ.filter (·.1 ≠ okey (0x3C00 + u) 1) } }
    s.setPort u (if s.inForce (okey (0x3C00 + u) 1) = 1 then 1 else 0)

/-- Commanded enables at a boundary: an enabled port waits for its medium; PLCA switched off is inactive. -/
def State.portBoundary (s : State) : State :=
  cmdPorts.foldl (fun (s : State) u =>
    let on := s.inForce (okey (0x3C00 + u) 1) = 1
    let st := s.net.ports.getD u 0
    if on ∧ st = 0 then s.setPort u 2 else if ¬ on ∧ st ≠ 0 ∧ st ≠ 3 then s.setPort u 0 else s)
    { s with net := { s.net with
      plca := (s.net.plca && s.plcaSet) || (s.plcaCoordinator && s.net.ports.getD 1 0 = 1) } }

/-! PLCA (R213) -/

/-- PLCA_INACTIVE: no BEACON for 400 µs; the coordinator's own stand for it while N2 is UP. -/
def execPlcaInactive (s : State) : Out :=
  .next (if s.net.plca && !(s.plcaCoordinator && s.net.ports.getD 1 0 = 1) && decide (s.net.beaconAt + 400000 ≤ s.now) then
    { s with net := { s.net with plca := false } } else s)

/-- BEACON: PLCA is active again. -/
def execBeacon (s : State) : Out :=
  .next (if s.netRuns && s.net.ports.getD 1 0 = 1 then
      { s with net := { s.net with beaconAt := s.now, plca := s.plcaSet } }
    else s)

/-! Bindings (R205) -/

/-- The identity of a party as commanded, with one entry changed: kind and name; none without a binding. -/
def State.identity (s : State) (q p sub v : Nat) : Option (Nat × Nat) :=
  let key (i : Nat) : Nat := if q = p ∧ i = sub then v else s.reg (okey (0x3C30 + q) i)
  match key 1 with
  | 0 => none
  | 3 => some (3, key 3)
  | 4 => some (4, 0)
  | k => some (k, key 2)

/-- What R205 and R380 say of a binding write. -/
def State.bindingStatus (s : State) (p sub v : Nat) : Nat :=
  if s.sec.debug = 2 then stDenied
  else if p = 0 ∧ sub = 1 ∧ v = 3 then stDenied
  else if sub ≤ 3 ∧ (s.identity p p sub v).isSome ∧
      ((List.range 16).any fun q => q ≠ p && s.identity q p sub v = s.identity p p sub v) = true then stRange
  else stOk

def State.bindingSetting (s : State) (r : Req) (p sub v : Nat) : State :=
  s.setting r (0x3C30 + p) sub v (s.bindingStatus p sub v)

/-- BINDING_WRITE. -/
def execBindingWrite (r : Req) (p sub v : Nat) (s : State) : Out := .next (s.bindingSetting r p sub v)

/-- The binding of a party has changed: pending pool operations of the old identity end ABORTED, its return address goes, and the
party's selectors return to their defaults (R205, R253). -/
def State.dropBinding (s : State) (p : Nat) : State :=
  (((s.abortPool fun m => m.2.1 = p).onNet p fun n => { n with ret := none }).setReg (pkey p 0x384001) 0).setReg
    (pkey p 0x402001) 0

/-- Changed bindings take effect (R205). -/
def State.bindingBoundary (s : State) (old : List (Nat × Nat)) : State :=
  (List.range 16).foldl (fun (s : State) p =>
    if [1, 2, 3].any fun i => mget 0 old (okey (0x3C30 + p) i) ≠ s.inForce (okey (0x3C30 + p) i) then
      s.dropBinding p
    else s) s

/-! Received messages (R207, R218, R219) -/

/-- Opcodes of Table NET-4 and of the pool that a host sends, by class. -/
def hostOps (cls : Nat) : List Nat :=
  match cls with
  | 1 => [1, 2]
  | 2 => [0x0101, 0x0102, 0x0103, 0x0104, 0x0105, 0x0106, 0x0110, 0x0111, 0x0112, 0x0113, 0x0114, 0x0120, 0x0121, 0x0122,
          0x0123, 0x0130, 0x0131]
  | 4 => [0x00FF]
  | 5 => [1, 2, 3, 4]
  | _ => []

/-- Step 5: what R218 says of a header: none passes, BAD_TYPE, NO_OBJECT. -/
def headerStatus (msg : List Byte) : Option Nat :=
  let cls := field msg 1 1
  if cls = 0 ∨ 5 < cls ∨ field msg 6 2 ≠ msg.length - 16 then some stBadType
  else if !(hostOps cls).contains (field msg 2 2) then some stNoObject
  else if 16 ≤ field msg 4 1 ∨ 8 ≤ field msg 5 1 ∨ field msg 12 4 ≠ 0 then some stBadType
  else none

/-- Answer a message at once, without remembering the answer; a POOL response carries load and credit (R218, R302). -/
def State.quickAnswer (s : State) (port party : Nat) (msg : List Byte) (st : Nat) : State :=
  let pool := decide (field msg 1 1 = 2)
  s.sendResp (.resp party port (field msg 1 1) (field msg 2 2) (field msg 8 4) false st (if pool then s.poolLoad else 0)
    (if pool then s.creditField party else 0) [])

/-- A message of a bound party from a network port: its header is checked, and it waits for the classifier (R210, R218). A message
without a whole header counts as a mismatch. -/
def State.receive (s : State) (port party : Nat) (msg : List Byte) : State :=
  if msg.length < 16 ∨ field msg 0 1 ≠ 1 ∨ field msg 4 1 % 16 ≠ party then s.portCount port 0x18
  else
    match headerStatus msg with
    | some st => s.quickAnswer port party msg st
    | none =>
      if 32 ≤ s.net.classQ.length then s.portCount port 0x1C
      else { s with net := { s.net with classQ := s.net.classQ ++ [(port, party, msg)] } }

/-- The party bound to an Ethernet channel or a CAN node on a port (R205, R206). -/
def State.partyOn (s : State) (port sci : Nat) : Option Nat :=
  (List.range 16).find? fun p =>
    s.portOf p = some port && s.inForce (okey (0x3C30 + p) (if port = 3 then 3 else 2)) = sci

/-- MACsec accepts a frame under the association of its AN: its integrity is good and its packet number is inside the replay
window (R208); the window moves on. -/
def State.acceptPn (s : State) (p an : Nat) (ok : Bool) (pn : Nat) : Option State :=
  match s.net.sas.find? fun a => a.party = p && !a.tx && a.an = an && a.state = 1 with
  | none => none
  | some a =>
    if !ok || decide (pn + s.inForce (okey (0x3C30 + p) 4) < a.pn) then none
    else
      some { s with net := { s.net with sas := s.net.sas.map fun b => if b = a then { b with pn := max b.pn (pn + 1) } else b } }

/-- The answer inside a party's channel to a frame that is no Maelelo datagram: the port's MAC address, or the bytes of an echo
(R204, R206). -/
def State.answerIp (s : State) (p : Nat) (x : RxFrame) : State :=
  match s.transmit p x.port with
  | some t =>
    t.emitOn x.port (.ipAnswer p x.port x.proto (if x.proto = .echo then x.msg else leBytes 6 (s.reg (okey (0x3C00 + x.port) 4))))
  | none => s.portCount x.port 0x1B

/-- Step 4: the frame is for the device: its address and port, and ARP only while IPv4 is on (Table NET-1). -/
def State.forDevice (s : State) (x : RxFrame) : Bool := x.ipOk && (x.proto ≠ .arp || s.inForce 0x3C2004 ≠ 0)

/-- FRAME_RECEIVED: steps 1 to 5 of R207. -/
def execFrameReceived (x : RxFrame) (s : State) : Out :=
  .next (if !cmdPorts.contains x.port || !s.netRuns || s.net.ports.getD x.port 0 ≠ 1 then s
    else
      let s := (s.portCount x.port 0x10).portCount x.port 0x13 (if x.port = 3 then 0 else x.symErrs)
      if !x.fcsOk then s.portCount x.port 0x12
      else
        match (if x.port = 3 || x.tagged then s.partyOn x.port x.sci else none) with
        | none => s.portCount x.port 0x16
        | some p =>
          if x.port = 3 then s
          else
            match s.acceptPn p x.an x.macsecOk x.pn with
            | none => s.portCount x.port 0x17
            | some s =>
              if !s.forDevice x then { s with net := { s.net with ipDrops := upd s.net.ipDrops x.port (· + 1) } }
              else if x.proto ≠ .maelelo then s.answerIp p x
              else s.receive x.port p x.msg)

/-! The classifier (R209, R210) and requests (R219, R240) -/

/-- CLASSIFIER_IMAGE_WRITE. -/
def State.classifierOrder (s : State) (r : Req) (data : List Byte) : State :=
  let img := readPip data
  let own := if !pipImageOk img 3 2048 || img.inPlace then stBadType else if 2000 < img.budget then stRange else stOk
  s.orderBytes r 0x3C80 1 data.length own fun s =>
    { s.setReg 0x3C8003 (field data 12 4) with net := { s.net with classImage := some img } }

def execClassifierImageWrite (r : Req) (data : List Byte) (s : State) : Out := .next (s.classifierOrder r data)

/-- A LOW message goes behind everything of its party, an ACCEPT message before its party's LOW ones. -/
def insAccepted (m : Nat × Nat × List Byte × Bool) : List (Nat × Nat × List Byte × Bool) →
    List (Nat × Nat × List Byte × Bool)
  | [] => [m]
  | x :: xs => if !m.2.2.2 && x.2.2.2 && x.2.1 = m.2.1 then m :: x :: xs else x :: insAccepted m xs

/-- Accesses in the dictionary service's queue. -/
def State.odWaiting (s : State) : Nat := (s.net.accepted.filter fun m => field m.2.2.1 1 1 = 1).length

/-- A sequence lies more than 16 behind the highest one, modulo 2³². -/
def staleSeq (highest : Option Nat) (seq : Nat) : Bool :=
  match highest with
  | some h => let d := (h + 4294967296 - seq) % 4294967296; decide (16 < d ∧ d < 2147483648)
  | none => false

/-- The later of two sequences, modulo 2³². -/
def laterSeq (highest : Option Nat) (seq : Nat) : Nat :=
  match highest with
  | some h => if (h + 4294967296 - seq) % 4294967296 < 2147483648 then h else seq
  | none => seq

/-- Send a remembered response again with RETRY. -/
def retried : OutMsg → OutMsg
  | .resp party port cls op seq _ st load credit data => .resp party port cls op seq true st load credit data
  | m => m

/-- The ranges that a POOL message names: its prefix, and the second range of COPY and COMPARE (Tables POOL-3, POOL-4). -/
def poolNames (msg : List Byte) : List (Nat × Nat × Nat) :=
  let op := field msg 2 2
  let b := msg.drop 16
  if b.length < 24 then []
  else
    (field b 0 2, field b 8 8, field b 16 8) ::
      (if (op = 0x0121 ∨ op = 0x0122) ∧ 48 ≤ b.length then [(field b 24 2, field b 32 8, field b 40 8)] else [])

/-- Step 7 of R207: a range lies outside the party's, by the switch's copy of the party–range table (14 R279, R282). An
UNGRANT names a grant of the requester's own; a FENCE_READ names a fence, which is not in that table. -/
def State.switchDenies (s : State) (party : Nat) (msg : List Byte) : Bool :=
  let op := field msg 2 2
  if op = 0x0114 then false
  else if op = 0x0131 then
    match s.ungrantOf party (field msg 32 8) with
    | .error st => st = stDenied
    | .ok _ => false
  else (poolNames msg).any fun x =>
    match s.locate party x.1 x.2.1 x.2.2 (op = 0x0106) with
    | .error f => f = (1, stDenied)
    | .ok _ => false

/-- The answer to DISCOVER (Table NET-4). -/
def State.discoverData (s : State) : List Byte :=
  leBytes 2 0x3208 ++ leBytes 1 0xB1 ++ leBytes 1 0 ++ (mget [] s.dict.doms 0x3C2007 ++ List.replicate 16 0).take 16

/-- A message reaches its service. An ACK is no request; a request meets R219, then, for the pool, a payload without a whole
prefix is BAD_TYPE (Tables POOL-2 and POOL-3) and from N1 and N2 the party–range check follows, and for the dictionary the
service queue of 128 (R207, R240). A bound party's DISCOVER is answered here, while discovery is on (R221). -/
def State.passOn (s : State) (port party : Nat) (msg : List Byte) (low : Bool) : State :=
  let cls := field msg 1 1
  let seq := field msg 8 4
  let n := s.pnet party
  let take (s : State) : State := { s with net := { s.net with accepted := insAccepted (port, party, msg, low) s.net.accepted } }
  if cls = 4 then take s
  else
    match n.remembered.find? (·.1 = seq) with
    | some x => s.sendResp (retried x.2)
    | none =>
      if n.progress.contains seq then s
      else if staleSeq n.highest seq then s.bump (okey (0x3C30 + party) 0x11)
      else if 16 ≤ n.progress.length then s.quickAnswer port party msg stBusy
      else if cls = 5 ∧ field msg 2 2 = 3 then
        (if s.inForce 0x3C2006 = 1 then
          (s.onNet party fun n => { n with highest := some (laterSeq n.highest seq) }).respond ⟨party, port, seq⟩ 5 3 stOk 0 0
            s.discoverData
        else s)
      else if cls = 2 ∧ (msg.length < 40 ∨ port < 2 ∧ s.switchDenies party msg = true) then
        (s.onNet party fun n => { n with highest := some (laterSeq n.highest seq) }).respond ⟨party, port, seq⟩ 2 (field msg 2 2)
          (if msg.length < 40 then stBadType else stDenied) s.poolLoad (s.creditField party) []
      else if cls = 1 ∧ 128 ≤ s.odWaiting then (s.bump 0x201201).quickAnswer port party msg stBusy
      else
        take (s.onNet party fun n =>
          { n with progress := n.progress ++ [seq], highest := some (laterSeq n.highest seq) })

/-- A message of the board port's party goes straight to its service once its header is checked: the classifier sees what the
network ports receive (21 R419, 07 Table PIP-4). -/
def State.receiveBoard (s : State) (party : Nat) (msg : List Byte) : State :=
  if msg.length < 16 ∨ field msg 0 1 ≠ 1 ∨ field msg 4 1 % 16 ≠ party then s.portCount 4 0x18
  else
    match headerStatus msg with
    | some st => s.quickAnswer 4 party msg st
    | none => s.passOn 4 party msg false

/-- MAILBOX_TAKE: the service takes the inbound message, and HRDY rises (21 R419, R423). While the board port is unbound the
message is a stranger. -/
def execMailboxTake (s : State) : Out :=
  .next (match s.board.mailbox with
    | none => s
    | some msg =>
      if !s.boardServed then s
      else
        let s := (s.onBoard fun b => { b with mailbox := none }).onHusk fun h => { h with hrdy := true }
        match s.boardParty with
        | some p => s.receiveBoard p msg
        | none => s.portCount 4 0x16)

/-- A verdict on the first message of the queue: 0 ACCEPT, 1 DROP, 2 LOW; 3 is open between them. -/
def State.verdict (s : State) (v : Nat) : State :=
  match s.net.classQ with
  | [] => s
  | (port, party, msg) :: rest =>
    let s : State := { s with net := { s.net with classQ := rest } }
    let (w, s) := if v = 3 then let (n, s) := s.drawNat; (n % 3, s) else (v, s)
    if w = 1 then s else s.passOn port party msg (w = 2)

/-- The counter that a run names. -/
def State.countVerdict (s : State) (w : Nat) : State :=
  if w.testBit 14 then
    let k := w / 256 % 64
    { s with net := { s.net with classCounts := mset 0 s.net.classCounts k ((mget 0 s.net.classCounts k + 1) % 4294967296) } }
  else s

/-- CLASSIFIER_RUN: the first message waiting starts a run of the engine; once that run has ended, or at once without an
image, its verdict acts (R209, R210). A run that wrote no verdict accepts; a stopped one applies the fail verdict. -/
def execClassifierRun (s : State) : Out :=
  .next (match s.net.classQ, s.net.classImage with
    | [], _ => s
    | _, none => if s.boardServed then s.verdict 0 else s
    | (port, party, msg) :: _, some img =>
      let p := s.pip 13
      if p.running || !s.boardServed then s
      else
        match p.ended with
        | 0 => s.startPip 13 img port party 0 msg
        | 1 =>
          let w := (p.verdict.map (·.toNat)).getD 0
          ((s.onPip 13 fun p => { p with ended := 0 }).countVerdict w).verdict (w % 4)
        | _ => (s.onPip 13 fun p => { p with ended := 0 }).verdict (s.inForce 0x3C8002))

/-! Events on their way (R223, R225) -/

/-- A datagram of some bytes of UDP payload enters the first queue of an Ethernet port: its time at 100 or 10 Mb/s and R212's
bound on its completion; a datagram outside PUBLISH, or under CSMA/CD, has none. -/
def State.queueDatagram (s : State) (u bytes : Nat) : State :=
  let e := s.net.egress.getD u (0, 0, some 0)
  let t := (bytes + 118) * (if u = 0 then 80 else 800)
  let tEnd := s.frame.start + s.keepStart
  let tf := 800 * s.inForce 0x3C1005
  let late := if s.frame.phase ≠ .publish then none
    else if u = 0 then e.2.2.map fun h => max h (tEnd + 125600) + t
    else if s.net.plca then
      e.2.2.map fun h => max h (tEnd + tf) + s.inForce 0x3C1003 * (tf + 100 * s.inForce 0x3C1004) + 2000
    else none
  { s with net := { s.net with egress := setAt s.net.egress u (max s.now (e.1 + e.2.1), t, late) } }

/-- A message of the first queue leaves on an Ethernet port. -/
def State.emitFirst (s : State) (port bytes : Nat) (m : OutMsg) : State := (s.queueDatagram port bytes).emitOn port m

/-- Send one event now: none when it cannot leave. -/
def State.sendOne (s : State) (p : Nat) (e : Event) : Option State :=
  if s.bindKind p = 3 then
    (if s.portUp 3 then
      (s.transmit p 3).map fun (t : State) =>
        { t.portCount 3 0x11 with out := t.out ++ [OutMsg.canEvent p (s.inForce 0x3C6004)
          (leBytes 2 e.opcode ++ leBytes 1 p ++ leBytes 1 0 ++ leBytes 4 e.seq ++ e.payload)] }
    else none)
  else
    match (s.pnet p).ret with
    | none => none
    | some (port, _) =>
      if !s.portUp port then none
      else if port = 4 then
        match s.boardPush 0 (msgBytes 4 e.opcode p 2 e.seq e.status 0 0 e.payload) with
        | (true, t) => some t
        | (false, _) => none
      else (s.transmit p port).map fun (t : State) =>
        t.emitFirst port (16 + e.payload.length) (OutMsg.event p port e.opcode e.seq e.status e.payload)

/-- Put an event back after a send; on CAN FD it is not acknowledged and leaves the queue. An EVENT_LOST that is sent for the
first time has reported what was discarded. -/
def State.noteSent (s : State) (p : Nat) (e : Event) : State :=
  s.onNet p fun n =>
    let n := if e.unsentLost then { n with lost := 0 } else n
    if s.bindKind p = 3 then { n with events := n.events.filter (·.seq ≠ e.seq) }
    else { n with events := n.events.map fun x =>
      if x.seq = e.seq then { x with sentAt := some s.now, sends := x.sends + 1 } else x }

/-- Send what can leave of a party's events: those never sent, and with `again` those whose 20 ms are over; a fourth send
without an ACK is the last (R223). -/
def State.sendEvents (s : State) (p : Nat) (again : Bool) : State :=
  (s.pnet p).events.foldl (fun (s : State) e =>
    let up := match s.portOf p with
      | some u => s.portUp u
      | none => false
    match e.sentAt with
    | none =>
      match s.sendOne p e with
      | some t => t.noteSent p e
      | none => s
    | some t =>
      if !again || !up || decide (s.now < t + 20000000) then s
      else if 4 ≤ e.sends then
        (s.onNet p fun n => { n with events := n.events.filter (·.seq ≠ e.seq) }.reportLost).bump (okey (0x3C30 + p) 0x10)
      else
        match s.sendOne p e with
        | some t => t.noteSent p e
        | none => s) s

/-- Every party's events that have not been sent. -/
def State.flushEvents (s : State) : State := (List.range 16).foldl (fun (s : State) p => s.sendEvents p false) s

/-- EVENT_RESEND: a party's events that are due, and those that wait for their first send. -/
def execEventResend (p : Nat) (s : State) : Out := .next (if s.boardServed then s.sendEvents p true else s)

/-- ACK: the event with this sequence is done (R223). -/
def execAck (p seq : Nat) (s : State) : Out :=
  .next (if !s.boardServed then s
    else
      let mine (m : Nat × Nat × List Byte × Bool) : Bool := m.2.1 = p && field m.2.2.1 1 1 = 4 && field m.2.2.1 16 4 = seq
      let s : State := { s with net := { s.net with accepted := s.net.accepted.filter fun m => !mine m } }
      s.onNet p fun n => { n with events := n.events.filter fun e => !(e.seq = seq && e.sentAt.isSome) }.reportLost)

/-! Management (R221) -/

/-- Answer a management request. -/
def State.manage (s : State) (r : Req) (op st : Nat) (data : List Byte) : State := s.respond r 5 op st 0 0 data

/-- HELLO: the sender's address is the party's return address, and its waiting events leave. -/
def execHello (r : Req) (ip udp : Nat) (s : State) : Out :=
  .next (if !s.boardServed || !s.portUp r.port then s
    else
      let p := r.party
      let s := s.onNet p fun n => { n with ret := some (r.port, ip, udp) }
      let s := if r.port = 4 then s.onBoard fun b => { b with ret := true } else s
      let sprout := s.husk.power = .sprout
      (s.manage r 1 stOk (leBytes 1 p ++ leBytes 1 (s.role p) ++ leBytes 1 r.port ++
        leBytes 1 (if sprout then 0 else s.tier) ++ leBytes 8 (if sprout then 0 else s.frame.number) ++
        leBytes 2 (s.payloadLimit r.port))).sendEvents p false)

/-- ECHO: up to 64 bytes, returned unchanged. -/
def execEcho (r : Req) (data : List Byte) (s : State) : Out :=
  .next (if !s.boardServed || !s.portUp r.port then s
    else if 64 < data.length then s.manage r 2 stBadType [] else s.manage r 2 stOk data)

/-- BYE: the return address goes. -/
def execBye (r : Req) (s : State) : Out :=
  .next (if !s.boardServed || !s.portUp r.port then s
    else
      let s := s.onNet r.party fun n => { n with ret := none }
      let s := if r.port = 4 then s.onBoard fun b => { b with ret := false } else s
      s.manage r 4 stOk [])

/-- DISCOVER from a stranger: a frame received, answered while discovery is on, once in a second for each port; else a stranger
(R206, Table NET-8). -/
def execDiscover (port : Nat) (s : State) : Out :=
  .next (if !s.boardServed || !s.portUp port then s
    else
      let s := s.portCount port 0x10
      let soon := match s.net.discAt.getD port none with
        | some t => decide (s.now < t + 1000000000)
        | none => false
      if s.inForce 0x3C2006 = 1 && !soon then
        { s.portCount port 0x11 with
          out := s.out ++ [OutMsg.discover port s.discoverData],
          net := { (s.portCount port 0x11).net with discAt := setAt s.net.discAt port (some s.now) } }
      else s.portCount port 0x16)

/-! Records (R34, R222, R225) -/

/-- A record that was not queued or delivered: counted on the port of its party, or in the board port's status word. -/
def State.recordLost (s : State) (p : Nat) (full : Bool) : State :=
  if full then s.onBoard fun b => { b with dropped := (b.dropped + 1) % 65536 }
  else
    match s.portOf p with
    | some u => s.portCount u 0x1B
    | none => s

/-- Cut a record into parts of at most n bytes, each with its offset (R222). -/
def recordParts (n : Nat) : Nat → Nat → List Byte → List (Nat × List Byte)
  | 0, _, _ => []
  | k + 1, off, b => if b.isEmpty ∨ n = 0 then [] else (off, b.take n) :: recordParts n k (off + n) (b.drop n)

/-- The RECORD messages of a record on an Ethernet port, under one sequence; when the packet numbers end the rest is lost. -/
def State.sendParts (s : State) (p port stream seq total : Nat) : List (Nat × List Byte) → State
  | [] => s
  | x :: xs =>
    match s.transmit p port with
    | none => s.recordLost p false
    | some t =>
      (t.emitFirst port (20 + x.2.length) (.record p port stream seq (leBytes 2 x.1 ++ leBytes 2 total ++ x.2))).sendParts
        p port stream seq total xs

/-- A record with NO_BOUND set: bit 11 of the flags in bytes 28 and 29. -/
def withNoBound (bs : List Byte) : List Byte := upd bs 29 fun b => b ||| 8#8

/-- A record over Maelelo or the board port, in as many messages as it needs, under one sequence of its stream. -/
def State.sendMaelelo (s : State) (p stream seq : Nat) (bytes : List Byte) : State :=
  match (s.pnet p).ret with
  | none => s.recordLost p false
  | some (4, _) =>
    if !s.portUp 4 then s.recordLost p false
    else
      match s.boardPush 0 (msgBytes 3 1 p 0 seq 0 0 0 (leBytes 2 0 ++ leBytes 2 bytes.length ++ bytes)) with
      | (true, t) => t
      | (false, _) => s.recordLost p true
  | some (port, _) =>
    if !s.portUp port then s.recordLost p false
    else
      let free := port = 1 && !s.net.plca
      let s := if free && (s.transmit p port).isSome then s.portCount 1 0x1D else s
      s.sendParts p port stream seq bytes.length
        (recordParts (s.payloadLimit port - 4) bytes.length 0 (if free then withNoBound bytes else bytes))

/-- CAN FD frames of a record: a compact header and up to 56 bytes each (Table NET-6). -/
def canFrames (stream : Nat) (bytes : List Byte) : List (List Byte) :=
  let body := bytes.drop 40
  let n := ceilDiv body.length 56
  (List.range n).map fun i =>
    leBytes 1 stream ++ leBytes 1 (i + 16 * (n - 1)) ++ leBytes 2 (field bytes 4 2) ++ leBytes 2 (field bytes 28 2) ++
      leBytes 1 (field bytes 3 1) ++ leBytes 1 (field bytes 20 1 % 16 + 16 * (field bytes 24 1 % 16)) ++
      ((body.drop (56 * i)).take 56 ++ List.replicate 56 0).take 56

/-- The CAN-ID of a stream in the Owner's map. -/
def canIdOf (map : List Byte) (stream : Nat) : Option Nat :=
  ((List.range (map.length / 4)).find? fun i => field map (4 * i) 2 = stream).map fun i => field map (4 * i + 2) 2

/-- The party of a stream in the plan in force. -/
def State.partyOfStream (s : State) (id : Nat) : Option Nat :=
  s.loader.plan.bind fun p => (p.segs.find? fun g => g.streams.any (·.id = id)).map (·.party)

/-- Segments leave on CAN FD in their order: how many have left by now is open, as the bus is (log 93). -/
def State.canDrain (s : State) : State :=
  if s.net.canQ.isEmpty || !s.portUp 3 then s
  else
    let (n, s) := s.drawNat
    let k := n % (s.net.canQ.length + 1)
    let s := s.portCount 3 0x11 k
    { s with out := s.out ++ (s.net.canQ.take k).map fun (x : Nat × Nat × List Byte) =>
               OutMsg.record ((s.partyOfStream x.1).getD 0) 3 x.1 x.2.1 x.2.2,
             net := { s.net with canQ := s.net.canQ.drop k } }

/-- The segments of a record are queued back to back; what is still queued of the stream's last record is discarded and counted
(R225). -/
def State.sendCan (s : State) (stream : Nat) (segs : List (Nat × Nat × List Byte)) : State :=
  let s := s.canDrain
  let s := if s.net.canQ.any (·.1 = stream) then s.portCount 3 0x1B else s
  ({ s with net := { s.net with canQ := (s.net.canQ.filter fun (x : Nat × Nat × List Byte) => x.1 ≠ stream) ++ segs } }).canDrain

/-- Hand a record to its port (R34); its stream counts it whatever becomes of it. -/
def State.sendRecord (s : State) (p : Nat) (d : StreamD) (bytes : List Byte) : State :=
  let seq := mget 0 s.net.streamSeq d.id
  let s : State := { s with net := { s.net with streamSeq := mins s.net.streamSeq d.id ((seq + 1) % 4294967296) } }
  let s := s.traceOut ⟨0x41, p, false, false, stOk, unitPort ((s.portOf p).getD 2), d.ctx, d.payAddr,
    lineCount d.payAddr d.payLen, d.id, false⟩
  if d.dest = 1 then
    match canIdOf (mget [] s.dict.domsLive 0x3C6005) d.id with
    | some id =>
      if s.bindKind p = 3 ∧ s.portUp 3 then
        s.sendCan d.id ((canFrames d.id bytes).map fun f => (d.id, id, f))
      else s.recordLost p false
    | none => s.recordLost p false
  else if d.dest = 2 ∧ s.bindKind p ≠ 4 then s.recordLost p false
  else s.sendMaelelo p d.id seq bytes

/-- The first queue of an Ethernet port holds a datagram now: surely before the last one can start, surely not after R212's
bound; between them it is open (log 20). -/
def State.queueHolds (s : State) (u : Nat) : Bool × State :=
  let e := s.net.egress.getD u (0, 0, some 0)
  if s.now < e.1 then (true, s)
  else if e.2.2.any fun h => decide (h ≤ s.now) then (false, s)
  else let (n, s) := s.drawNat; (n % 2 = 1, s)

/-- A PUBLISH that starts while a port's first queue still holds a datagram is a backlog, and has no bound (R212). -/
def State.countBacklogs (s : State) : State :=
  let s := s.canDrain
  let s := if s.net.canQ.isEmpty then s else s.portCount 3 0x1A
  [0, 1].foldl (fun (s : State) u =>
    let e := s.net.egress.getD u (0, 0, some 0)
    let (holds, s) := s.queueHolds u
    let s := if holds then s.portCount u 0x1A else s
    { s with net := { s.net with egress := setAt s.net.egress u (e.1, e.2.1, if holds then none else some s.now) } }) s

/-! Time (R216 to R218) -/

/-- The port that gPTP follows. -/
def State.ptpPort (s : State) : Option Nat :=
  match s.inForce 0x3C5001 with
  | 0 => some 0
  | 1 => some 1
  | _ => none

/-- Far offsets that agree with one another within 1 µs. -/
def agree (l : List Int) (x : Int) : Bool := l.all fun y => decide ((x - y).natAbs ≤ 1000)

/-- The delay to the neighbour from the four instants of a peer-delay exchange: request sent, received, response sent,
received. -/
def peerDelay (x : Nat × Nat × Nat × Nat) : Int := (((x.2.2.2 : Int) - x.1) - ((x.2.2.1 : Int) - x.2.1)) / 2

/-- The offset of the time source from the time base: when it sent, plus the delay, less the device's own time. -/
def State.syncOffset (s : State) (origin : Nat) (peer : Nat × Nat × Nat × Nat) : Int :=
  origin + peerDelay peer - (s.now + s.husk.timeOff)

/-- A Sync comes from where the PTP port listens, at an interval that R216 allows: on N2 from the configured neighbour. -/
def State.syncTaken (s : State) (u src every : Nat) : Bool :=
  (u = 0 || src = s.inForce 0x3C5005) && decide (31250000 ≤ every ∧ every ≤ 1000000000)

/-- The error of the crystal against the time source since the last Sync, in 0.01 ppm, fast being positive (03 R75; log 168). -/
def State.measureXtal (s : State) (offset : Int) : State :=
  if s.reg 0x3C5002 = 1 ∧ s.net.syncAt < s.now then
    s.onCal fun c => { c with xtalErr := -offset * 100000000 / (s.now - s.net.syncAt : Nat) }
  else s

/-- SYNC: a Sync with its Follow_Up, sent by `src` at `origin` under a grandmaster and a sync interval, with the last peer-delay
exchange (R216, R217). While synchronised a far offset is ignored and counted, until eight in a row agree and the time base steps
to them; any other moves the time base, and four within ±50 ns synchronise it. The two messages are frames received (log 189). -/
def execSync (src gm origin every : Nat) (peer : Nat × Nat × Nat × Nat) (s : State) : Out :=
  let offset := s.syncOffset origin peer
  .next (match s.ptpPort with
    | none => s
    | some u =>
      if !s.netRuns || !s.portUp u then s
      else if !s.syncTaken u src every then s.portCount u 0x10 2
      else
        let s := s.portCount u 0x10 2
        let far := decide (s.reg 0x3C5002 = 1 ∧ 1000000 < offset.natAbs)
        let s := if far then s else s.measureXtal offset
        let s : State := { s with net := { s.net with syncAt := s.now, syncEvery := every } }
        let shift (s : State) (d : Int) : State := { s with husk := { s.husk with timeOff := s.husk.timeOff + d } }
        let note (s : State) : State := (s.setReg 0x3C5003 (unsignedOf 32 offset)).setReg 0x3C5004 gm
        if far then
          let far := if agree s.net.far offset then s.net.far ++ [offset] else [offset]
          let s := s.bump 0x3C5006
          if 8 ≤ far.length then { shift (note s) offset with net := { s.net with far := [] } }
          else { s with net := { s.net with far := far } }
        else
          let good := if offset.natAbs ≤ 50 then min 4 (s.net.good + 1) else 0
          let s := note (shift s offset)
          let s : State := { s with net := { s.net with far := [], good := good } }
          if 4 ≤ good then s.setReg 0x3C5002 1 else s)

/-- SYNC_LOSS: no Sync for three intervals of the source: holdover. -/
def execSyncLoss (s : State) : Out :=
  .next (if s.reg 0x3C5002 ≠ 1 ∨ s.now < s.net.syncAt + 3 * s.net.syncEvery ∨ !s.netRuns then s
    else { s.setReg 0x3C5002 2 with net := { s.net with good := 0, far := [] } })

/-! CAN FD (R224) -/

/-- NMT_COMMAND: a frame received, ignored and counted. -/
def execNmtCommand (s : State) : Out :=
  .next (if s.netRuns && s.portUp 3 then { s.portCount 3 0x10 with net := { s.net with nmt := s.net.nmt + 1 } } else s)

/-- HEARTBEAT: at the period of 0x3C61:01, 0 being off. -/
def execHeartbeat (s : State) : Out :=
  .next (if s.inForce 0x3C6101 = 0 || !s.netRuns || !s.portUp 3 ||
        decide (s.now < s.net.beatAt + s.inForce 0x3C6101 * 1000000) then s
    else
      let s : State := { s with net := { s.net with beatAt := s.now } }
      let s := s.portCount 3 0x11
      { s with out := s.out ++ [OutMsg.canHeartbeat false] })

end Sys2Proof.Machine
end

