-- ==== Sys2Proof/Machine/Views.lean ====
section
/-! DEFINITION. What the entries of the dictionary show (11, 12): numbers that other state gives, shares of the reading
party, and the bytes of every string and DOMAIN. -/

namespace Sys2Proof.Machine

open Sys2Proof

/-- An index of a group of n units from a base. -/
def within (base n index : Nat) : Bool := decide (base ≤ index ∧ index < base + n)

/-! Numbers -/

/-- Counters that show the device total to the Owner and the share of its own work to any other party (R101, R120, R157,
R182, R228). -/
def filtered (index sub : Nat) : Bool :=
  (within 0x3040 40 index && (sub = 7 || sub = 8)) || (within 0x3200 8 index && sub ≠ 0) ||
    (index = 0x3220 && (sub = 2 || sub = 3)) || (within 0x3300 8 index && sub ≠ 0) ||
    (within 0x3340 8 index && ([4, 5, 6, 7, 8, 0x0A].contains sub)) ||
    (within 0x2840 4 index && ([1, 2, 4].contains sub)) || (index = 0x3880 && sub = 3) || (index = 0x4010 && sub = 2) ||
    (index = 0x2012 && sub = 2) || (index = 0x4C21 && sub = 4)

/-- Selectors, of which each party holds its own value (R253). -/
def selector (index sub : Nat) : Bool := (index = 0x3840 || index = 0x4020) && sub = 1

/-- A member of a per-party group. -/
def State.usageView (s : State) (p sub : Nat) : Nat :=
  let cs := s.pool.ctxs.filter fun c => c.party = p
  match sub with
  | 1 => (s.partyPages p).length
  | 2 => (s.pool.holds.filter fun h => h.party = p).length
  | 3 => ((s.pool.traffic.filter fun x => x.2.1 = p && decide (s.now < x.1 + 1000000000)).map (·.2.2.2)).foldl (· + ·) 0 / 1000
  | 4 => s.creditField p
  | 5 => cs.length
  | _ => (cs.filter (·.resident)).length

/-- The bounds of R212 for the first datagram, in 0.1 µs: on N1 of the payload limit, on N2 under PLCA. -/
def State.portBound (s : State) (sub : Nat) : Nat :=
  let tf := 8 * s.inForce 0x3C1005
  if sub = 7 then 1256 + 1256 else tf + s.inForce 0x3C1003 * (tf + s.inForce 0x3C1004) + 20


/-- Ranges of a segment on the control core (Table CORE-11). -/
def State.segRange (s : State) (g sub : Nat) : Nat :=
  match s.segImg g with
  | none => 0
  | some x =>
    match sub with
    | 1 => x.codeBase % 65536 + 65536 * x.codeLen
    | 2 => x.dataBase / 256 % 65536 + 65536 * ceilDiv x.dataLen 256
    | _ => x.descFirst % 65536 + 65536 * x.descCount

/-- Images of a cluster: of every party for the Owner, else of the reader's own segments. -/
def State.imagesOf (s : State) (p c : Nat) : Nat :=
  if p = 0 then s.reg (okey (0x3340 + c) 1)
  else (s.loader.plan.map fun x => (x.segs.flatMap fun g =>
    if g.party = p then g.pips.filter (·.cluster = c) else []).length).getD 0

/-- Bits of the error register: classes of the records visible to a party and raised since the last clear (R249). -/
def State.errorRegister (s : State) (p : Nat) : Nat :=
  let rs := (s.integ.log.drop (s.integ.log.length - s.integ.sinceClear)).filter fun r =>
    p = 0 || r.party = p || decide (16 ≤ r.party)
  let bit (b : Nat) (f : Nat → Bool) : Nat := if rs.any fun r => f r.cls then 2 ^ b else 0
  let other (c : Nat) : Bool := c ≠ clsSupply && c ≠ clsThermal && c ≠ clsNetwork
  (if rs.isEmpty then 0 else 1) + bit 2 (· = clsSupply) + bit 3 (· = clsThermal) + bit 4 (· = clsNetwork) + bit 7 other

/-- The firmware version of a slot; 0 when it is empty (0x2001). -/
def State.slotVersion (s : State) (n : Nat) : Nat := ((s.sec.slots.getD n none).map (·.2)).getD 0

/-- Numbers that other state than the register file gives. -/
def State.derived (s : State) (p index sub : Nat) : Option Nat :=
  if within 0x3010 8 index && sub = 3 then some (s.rotState (index - 0x3010))
  else if index = 0x2491 && sub = 2 then some (if s.reg 0x3C5002 = 1 then unsignedOf 32 s.cal.xtalErr else 0x7FFFFFFF)
  else if within 0x3040 40 index && sub = 11 then
    let i := index - 0x3040
    let on := s.reg (okey (0x2420 + i / 5) 2)
    some (if s.reg (podReg i 1) = 0 then on else if s.reg (podReg i 1) = 1 ∧ on = 1 then s.reg (podReg i 11) else 0)
  else if within 0x2480 11 index && sub = 1 then
    some (unsignedOf 16 (trimGet s.cal.applied (trimKey (refUnit (index - 0x2480)) 0)))
  else if within 0x2490 2 index && sub = 1 then
    some (unsignedOf 16 (trimGet s.cal.applied (trimKey (oscUnit (index - 0x2490)) 0)))
  else if within 0x3340 8 index && sub = 1 then some (s.imagesOf p (index - 0x3340))
  else if within 0x4C40 16 index && decide (1 ≤ sub ∧ sub ≤ 3) then some (s.segRange (index - 0x4C40) sub)
  else if within 0x2800 16 index && sub = 0x0C then
    some (Config.groupDelay (index - 0x2800) (s.reg (okey index 4)) % 4294967296)
  else if within 0x2800 16 index && sub = 0x0D then some (mget 0 s.cal.quiet (index - 0x2800))
  else if index = 0x2410 && sub = 2 then some 1
  else if index = 0x2411 && sub = 2 then some s.ctrlState
  else if within 0x2410 5 index && sub = 3 then some (s.volt (index - 0x2410) 0)
  else if within 0x2410 5 index && sub = 4 then some (s.volt (index - 0x2410) 1)
  else if within 0x2440 16 index && sub = 1 then some (unsignedOf 16 (s.thermal.readings.getD (index - 0x2440) 0))
  else if index = 0x3C02 && sub = 2 then some s.ctrlState
  else if within 0x3C00 4 index && sub = 2 then some (s.net.ports.getD (index - 0x3C00) 0)
  else if within 0x3C30 16 index && sub = 6 then
    some (((s.net.sas.find? fun a => a.party = index - 0x3C30 && a.tx && a.state = 1).map (·.pn)).getD 0)
  else if within 0x3820 16 index then some (s.usageView (index - 0x3820) sub)
  else
    match index, sub with
    | 0x4C21, 1 => some (s.loadState true)
    | 0x4C21, 5 => some s.podsToProgram
    | 0x4C24, 3 => some (s.loadState false)
    | 0x3C10, 6 => some (if s.net.plca then 1 else 0)
    | 0x3C10, 7 => some (s.portBound 7)
    | 0x3C10, 8 => some (s.portBound 8)
    | 0x1001, 0 => some (s.errorRegister p)
    | 0x1017, 0 => some (s.reg 0x3C6101)
    | 0x1018, 4 => some (s.reg 0x200003 % 4294967296)
    | 0x2001, 1 => some s.sec.active
    | 0x2020, 2 => some (Config.vaultFree (s.reg 0x202003) % 4194305)
    | 0x2001, 2 => some (s.slotVersion 0)
    | 0x2001, 3 => some (s.slotVersion 1)
    | 0x2002, 1 => some s.sec.lifecycle
    | 0x2003, 1 => some s.sec.debug
    | 0x2400, 2 => some (powerCode s.husk.power)
    | 0x2460, 1 => some (unsignedOf 16 s.tj)
    | 0x2460, 2 => some s.hottest
    | 0x2462, 3 => some (Config.ballastPower s.now % 65536)
    | 0x24A0, 1 => some s.store.vTerm
    | 0x24A0, 6 => some s.capM
    | 0x24A0, 7 => some s.store.esr
    | 0x24C0, 1 => some s.rtc
    | 0x24C0, 2 => some s.deviceTime
    | 0x3880, 2 => some s.pool.holds.length
    | 0x3880, 4 => some s.poolLoad
    | 0x3890, 1 => some (s.pool.fences.filter (·.mirror)).length
    | _, _ => none

/-- The number that an entry shows to a party. -/
def State.number (s : State) (p index sub : Nat) : Nat :=
  if sub = 0 ∧ (odRow index 0).isNone then highestSub index
  else if index = 0x3800 && sub = 1 then 2
  else
    match s.derived p index sub with
    | some v => v
    | none =>
      let k := okey index sub
      if selector index sub then s.reg (pkey p k)
      else if filtered index sub && p ≠ 0 then s.reg (pkey p k) else s.reg k

/-! Strings -/

/-- A text as bytes, padded with 0 (R229). -/
def padded (n : Nat) (t : List Nat) : List Byte := (t.map fun c => BitVec.ofNat 8 c) ++ List.replicate (n - t.length) 0

/-- "TVX-3208". -/
def partName : List Nat := [0x54, 0x56, 0x58, 0x2D, 0x33, 0x32, 0x30, 0x38]

/-- The link-local address made from a MAC address in [47:0], first byte highest (0x3C20:01 when unset). -/
def linkLocal (mac : Nat) : List Byte :=
  let m (i : Nat) : Nat := mac / 256 ^ (5 - i) % 256
  padded 16 ([0xFE, 0x80, 0, 0, 0, 0, 0, 0, m 0 ^^^ 2, m 1, m 2, 0xFF, 0xFE, m 3, m 4, m 5])

/-- The bytes of a string entry. -/
def State.text (s : State) (index sub size : Nat) : List Byte :=
  let stored := mget [] s.dict.doms (okey index sub)
  if index = 0x1008 then padded 8 partName
  else if index = 0x1009 then padded 2 [0x42, 0x31]
  else if index = 0x100A then
    (List.range 16).map fun i => BitVec.ofNat 8 (Config.versionText (s.slotVersion s.sec.active) i)
  else if index = 0x2000 then padded 16 (partName ++ [0x2D, 0x49, 0x58])
  else if within 0x3C30 16 index then
    match (s.pnet (index - 0x3C30)).ret with
    | some (_, ip, udp) => leBytes 16 ip ++ leBytes 2 udp
    | none => List.replicate 18 0
  else if index = 0x3C20 ∧ sub = 1 ∧ stored = [] then linkLocal (s.reg 0x3C0004)
  else if stored = [] then List.replicate size 0 else stored

/-! DOMAINs -/

/-- Code bytes of a trim bank from a set of codes (Table CAL-5): base gains and offsets of a pod, its drift references
and ρ; gain and offset of each PGA setting of an AFE channel. -/
def codeBytes (unit : Nat) (code : Nat → Int) (refs : List Nat) (rho : Nat) : List Byte :=
  if unit / 4096 = 2 then
    ((List.range 264).flatMap fun i => leBytes 1 (unsignedOf 8 (code i))) ++
      ((List.range 15).flatMap fun i => leBytes 2 (refs.getD i 0)) ++ leBytes 4 rho
  else (List.range (bankBytes unit / 2)).flatMap fun i => leBytes 2 (unsignedOf 16 (code i))

/-- A trim bank object with its header and CRC (Table CAL-5). -/
def State.bankObject (s : State) (unit flags : Nat) (codes : List Byte) : List Byte :=
  let temp := if unit / 4096 = 2 then s.sensorAt (unit % 4096 / 5) else s.sensorAt (afeSensor (unit % 4096))
  let at_ := if unit / 4096 = 2 then s.reg (podReg (unit % 4096) 4) else 0
  let hdr := leBytes 2 unit ++ leBytes 1 1 ++ leBytes 1 flags ++ leBytes 4 (s.reg 0x200003) ++ leBytes 8 at_ ++
    leBytes 2 (unsignedOf 16 temp) ++ leBytes 2 codes.length ++ leBytes 4 (s.reg 0x310003)
  hdr ++ leBytes 4 (crc32 (hdr ++ codes)) ++ codes

/-- The live trim bank: base gains as calibrated, other codes as applied. -/
def State.liveBank (s : State) (unit : Nat) : List Byte :=
  s.bankObject unit 0 (codeBytes unit (fun i =>
    if unit / 4096 = 2 ∧ i < 132 then trimGet s.cal.calibrated (trimKey unit i) else trimGet s.cal.applied (trimKey unit i))
    (s.pod (unit % 4096)).refs (s.reg (calReg (unit % 4096) 7)))

/-- A set of the vault: the calibrated one, or what stands before any calibration (log 92). -/
def State.vaultBank (s : State) (unit : Nat) (factory : Bool) : List Byte :=
  let set_ := if factory then [] else mget [] s.cal.vault unit
  s.bankObject unit (if set_.isEmpty then 0 else 1) (codeBytes unit (fun i =>
    match set_.find? (·.1 = i) with
    | some x => x.2
    | none => trimDefault (trimKey unit i)) (if set_.isEmpty then factoryRefs else vaultRefs set_) 1000000)

/-- Two codes of 4 bits in a byte, the first in the low nibble. -/
def nibbles : List Int → List Byte
  | [] => []
  | [a] => [BitVec.ofNat 8 (unsignedOf 4 a)]
  | a :: b :: r => BitVec.ofNat 8 (unsignedOf 4 a + 16 * unsignedOf 4 b) :: nibbles r

/-- A shutdown record (Table POWER-8). -/
def shutdownBytes (x : ShutdownRec) : List Byte :=
  leBytes 1 x.kind ++ leBytes 1 x.sensor ++ leBytes 2 (unsignedOf 16 x.tj) ++ leBytes 4 x.wall ++ leBytes 8 x.frame ++
    leBytes 1 x.step ++ leBytes 1 x.tier ++ leBytes 1 x.state ++ leBytes 1 x.ballast ++ leBytes 2 x.volt ++
    leBytes 2 x.restarts

/-- An incident of a history (Table INTEG-4). -/
def incidentBytes (x : Incident) : List Byte := leBytes 4 x.start ++ leBytes 1 x.cls ++ leBytes 1 x.cause ++ leBytes 2 x.count

/-- A unit history (Table INTEG-4). -/
def State.histBytes (s : State) (h : UnitHist) : List Byte :=
  let inc := h.lastFour.flatMap incidentBytes
  leBytes 2 h.unit ++ leBytes 1 (if h.permanent then 2 else if h.records = 0 then 0 else 1) ++
    leBytes 1 (if h.retired then 1 else 0) ++ leBytes 4 h.records ++ leBytes 4 h.incidents ++ leBytes 4 s.oper ++
    inc ++ List.replicate (32 - inc.length) 0 ++ (match h.last with
      | some r => recBytes r
      | none => List.replicate 32 0)

/-- A unit code of Table SCOPE-6. -/
def unitExists (u : Nat) : Bool :=
  match u / 4096, u % 4096 with
  | 1, i => i < 8
  | 2, i => i < 40
  | 3, i => i < 2640
  | 4, i => i < 2640
  | 5, i => i < 19
  | 6, i => i < 5
  | 7, i => i < 5
  | 8, i => i < 3
  | _, _ => false

/-- The history that the selector of a party names, as the vault holds it. -/
def State.historyView (s : State) (p : Nat) : Option (List Byte) :=
  let u := s.reg (pkey p 0x402001)
  if !unitExists u then none
  else some (s.histBytes ((s.integ.vaultHist.find? (·.unit = u)).getD (UnitHist.blank u)))

/-- Records of the fault log that a party sees, oldest first (R315). -/
def State.logView (s : State) (p : Nat) : List Byte :=
  (s.integ.log.filter fun r => p = 0 || r.party = p || decide (16 ≤ r.party)).flatMap recBytes

/-- A record of the key table (18 Keys): key ID, party, kind, slot or AN, state, installation time. -/
def keyRec (id party kind slot st t : Nat) : List Byte :=
  leBytes 4 id ++ leBytes 1 party ++ leBytes 1 kind ++ leBytes 1 slot ++ leBytes 1 st ++ leBytes 8 t

/-- The key table: plan keys, associations, pool keys. A pool key carries no key ID. -/
def State.keyTable (s : State) : List Byte :=
  (s.sec.planKeys.flatMap fun k => keyRec k.keyId k.party 1 k.slot 1 k.at_) ++
    (s.net.sas.flatMap fun a => keyRec a.keyId a.party (if a.tx then 3 else 2) a.an a.state a.at_) ++
    (s.sec.poolKeys.zipIdx.flatMap fun k => if k.1.key.isEmpty then [] else keyRec 0 k.2 4 0 1 k.1.at_)

/-- A party may read both entries of a pair. -/
def State.seesPair (s : State) (p port : Nat) (x : Pair) : Bool :=
  [x.cmd, x.eff].all fun k => !s.hidden p port (k / 256) && (match odRow (k / 256) (k % 256) with
    | some r => s.permits p r (k / 256) (k % 256) false
    | none => false)

/-- The disagreement list of a party, at most 64 records (R245). -/
def State.disagreeView (s : State) (p port : Nat) : List Byte :=
  ((allPairs.filterMap fun x =>
    match s.pairReason x with
    | some w =>
      if !s.seesPair p port x then none
      else
        let n := ((s.frame.differ.find? (·.1 = x.cmd)).map (·.2.1)).getD 0
        some (leBytes 2 (x.cmd / 256) ++ leBytes 1 x.cmd ++ leBytes 1 w ++ leBytes 2 (x.eff / 256) ++ leBytes 1 x.eff ++
          leBytes 1 0 ++ leBytes 4 n)
    | none => none).take 64).flatten

/-- A share in 0.01 %, limited to the whole. -/
def share (n d : Nat) : Nat := if d = 0 then 0 else min 10000 (10000 * n / d)

/-- Time of a party in a frame, ns: its window and the pooled time of KEEP (R32, R33, R274; log 91). -/
def State.partyTime (s : State) (p : Nat) : Nat := s.winLen p + (s.pFloor - 2000 - (s.keepStart + 25000))

/-- MVM intervals and drain lane cycles available to a party in a frame of the present layout (R274). -/
def State.availOf (s : State) (p : Nat) : Nat × Nat :=
  let pods := (dedupNat ((s.allotment p).map fun r => 4 * r.1 + r.2.1)).length
  (pods * s.partyTime p / 320, maskCount (s.partyClusters p) * s.partyTime p * 4 / 5)

/-- What was available to a party in the n frames before the present one. -/
def State.available (s : State) (p n : Nat) : Nat × Nat :=
  let lo := s.frame.number - n
  (s.pool.avail.foldl (fun (q : Nat × Nat × Nat) x =>
    let k := q.1 - max x.1 lo
    let a := x.2.getD p (0, 0)
    (min q.1 x.1, q.2.1 + k * a.1, q.2.2 + k * a.2)) (s.frame.number, 0, 0)).2

/-- Utilisation of a context (Table HOST-7). -/
def State.utilisation (s : State) (c : Ctx) : List Byte :=
  let frames := min 4096 (s.frame.number - c.created)
  let us := c.usage.filter fun u => decide (s.frame.number ≤ u.frame + frames ∧ u.frame < s.frame.number)
  let sum (f : Usage → Nat) : Nat := (us.map f).foldl (· + ·) 0
  let t := s.available c.party frames
  leBytes 2 c.num ++ leBytes 1 (if c.revoking then 2 else 1) ++ leBytes 1 0 ++ leBytes 4 frames ++
    leBytes 2 (share (sum (·.mvms)) t.1) ++ leBytes 2 (share (sum (·.lanes)) t.2) ++
    leBytes 4 ((us.map (·.peak)).foldl max 0) ++ leBytes 4 (sum (·.tiles)) ++ leBytes 4 (sum (·.cmds)) ++
    leBytes 4 (sum (·.cancelled)) ++ leBytes 4 (sum (·.overruns))

/-- Memory use of a context (Table HOST-7). -/
def State.memoryUse (s : State) (c : Ctx) : List Byte :=
  let shared := (c.pages.filter fun x => s.pool.ctxs.any fun d => d.num ≠ c.num && d.pages.any fun y => y.2.1 = x.2.1).length
  let tr := s.pool.traffic.filter fun x => x.2.2.1 = c.num && decide (s.now < x.1 + 1000000000)
  let out (q : Nat) : Nat := ((c.queues.find? (·.num = q)).map fun x => (x.prod + 4294967296 - x.completed) % 4294967296).getD 0
  leBytes 2 c.num ++ leBytes 1 (if s.pinned c.num then 2 else if c.resident then 1 else 0) ++ leBytes 1 c.queues.length ++
    leBytes 4 c.pages.length ++ leBytes 4 shared ++ leBytes 2 (s.pool.holds.filter (·.ctx = c.num)).length ++
    leBytes 2 (s.pool.fences.filter fun f => !f.mirror && f.ctx = c.num).length ++
    leBytes 4 ((tr.map (·.2.2.2)).foldl (· + ·) 0 / 1000) ++ leBytes 4 tr.length ++
    ((List.range 4).flatMap fun q => leBytes 2 (min 65535 (out q))) ++ leBytes 4 c.waits

/-- The query of a party's selected context: the Owner sees every number, another party its own contexts (R253, R274). -/
def State.contextView (s : State) (p sub : Nat) : Option (List Byte) :=
  let n := s.reg (pkey p 0x384001)
  match s.ctx n with
  | some c => if p ≠ 0 ∧ c.party ≠ p then none else some (if sub = 2 then s.utilisation c else s.memoryUse c)
  | none => if p ≠ 0 then none else some (leBytes 2 n ++ List.replicate (if sub = 2 then 30 else 34) 0)

/-- The mirror table as written, with the fields that the device fills in (Table HOST-6). -/
def State.mirrorView (s : State) : List Byte :=
  (records 32 32 (mget [] s.dict.doms 0x389002)).zipIdx.flatMap fun x =>
    let b := x.1
    match s.pool.mirrors[x.2]? with
    | some m =>
      b.take 5 ++ leBytes 1 m.state ++ leBytes 2 0 ++ (b.drop 8).take 8 ++ leBytes 8 m.value ++ leBytes 8 (s.mirrorHandle m)
    | none => b.take 5 ++ leBytes 3 0 ++ (b.drop 8).take 8 ++ leBytes 16 0

/-- The keep-region entry: the records as written, with the state of a region that is in force (17 R358, Table HOLD-2). -/
def State.regionView (s : State) : List Byte :=
  (records 16 16 (mget [] s.dict.doms 0x24A00A)).zipIdx.flatMap fun x =>
    let b := x.1
    let st := match s.store.regions[x.2]? with
      | some r => if r.party = field b 0 1 ∧ r.ctx = field b 2 2 ∧ r.length = field b 4 4 ∧ r.addr = field b 8 8 then r.state else 0
      | none => 0
    b.take 1 ++ leBytes 1 st ++ b.drop 2

/-- The data range of a segment as the last boundary left it (0x4C40:0A). -/
def State.dataView (s : State) (g : Nat) : List Byte :=
  match s.segImg g with
  | some x => readCells s.core.shown x.dataBase x.dataLen
  | none => []

/-- The bytes of a DOMAIN for a party on a port; none where the selected unit or context is not the party's to see. DESIGN
CHOICE (log 156): the ways per party (0x3220:01) are 0 before the first plan load. -/
def State.bytesOf (s : State) (p port index sub : Nat) : Option (List Byte) :=
  if within 0x3110 40 index then
    let pod := index - 0x3110
    some (match sub with
      | 1 => s.liveBank (unitPod pod)
      | 2 => s.vaultBank (unitPod pod) false
      | 3 => s.vaultBank (unitPod pod) true
      | _ => ((List.range 132).flatMap fun g => leBytes 2 ((mget [] s.cal.resid pod).getD g 0)))
  else if within 0x2A00 16 index then
    some (if sub = 1 then s.liveBank (unitAfe (index - 0x2A00)) else s.vaultBank (unitAfe (index - 0x2A00)) true)
  else if within 0x3310 16 index then
    let h := s.heads.getD (index - 0x3310) Head.blank
    some (if sub = 7 then (h.shown.flatMap fun v => leBytes 2 (unsignedOf 16 v)) else nibbles h.codes)
  else if within 0x4C40 16 index then
    let g := index - 0x4C40
    some (if sub = 9 then (List.range 5).flatMap fun i => leBytes 4 (s.reg (part i (coreReg g 9))) else s.dataView g)
  else
    match index, sub with
    | 0x3220, 1 => some ((List.range 16).flatMap fun q => leBytes 1 (s.reg (pkey q 0x322001)))
    | 0x4C22, 3 => some (leBytes 48 ((s.loader.plan.map fun x => x.comp.hash).getD 0))
    | 0x3C80, 4 => some ((List.range 64).flatMap fun i => leBytes 4 (mget 0 s.net.classCounts i))
    | 0x2011, 1 => some (s.disagreeView p port)
    | 0x2004, 4 => some s.keyTable
    | 0x2460, 6 => some (s.husk.shutdowns.flatMap shutdownBytes)
    | 0x3840, n => s.contextView p n
    | 0x3890, 2 => some s.mirrorView
    | 0x2003, 2 => some (s.sec.challenge.getD (List.replicate 64 0))
    | 0x24A0, 0x0A => some s.regionView
    | 0x4010, 1 => some (s.logView p)
    | 0x4020, 2 => s.historyView p
    | 0x4020, 3 => some ((sortBy id ((s.integ.hist.filter (·.permanent)).map (·.unit))).flatMap fun u => leBytes 2 u)
    | 0x4400, 4 => some (s.test.overdue.flatMap fun u => leBytes 2 u)
    | _, _ => some (mget [] s.dict.doms (okey index sub))

end Sys2Proof.Machine
end

