-- ==== Sys2Proof/Machine/Dictionary.lean ====
section
/-! DEFINITION. Accesses of the dictionary (11 R231 to R245): reads and snapshots, writes and staging areas, USDO transfers,
vault commits, restore-defaults, disagreement records, and the settings of the frame. -/

namespace Sys2Proof.Machine

open Sys2Proof

def State.onDict (s : State) (f : Dict → Dict) : State := { s with dict := f s.dict }

/-! Settings of the frame (R16, R22, R28, R37) -/

/-- The frame period is not below P_floor. -/
def State.periodSetting (s : State) (r : Req) (v : Nat) : State :=
  s.setting r 0x4C00 0 v (if s.loader.plan.any fun p => decide (v < p.comp.pFloor) then stRange else stOk)

/-- FRAME_PERIOD_WRITE: the value takes effect at the next boundary. -/
def execFramePeriodWrite (r : Req) (v : Nat) (s : State) : Out := .next (s.periodSetting r v)

/-- DENIED when the running plan would fail R25, R197 or its least INTAKE length (R22), with the window lengths accepted so
far: those are in force when the new length is. -/
def State.intakeSetting (s : State) (r : Req) (v : Nat) : State :=
  let env := { s.allotCmd with intake := v * 1000 }
  s.setting r 0x4C07 0 v (if s.planDenies fun p => check10Intake env p <|> check16 env p <|> check17 env p then stDenied
    else stOk)

/-- INTAKE_LENGTH_WRITE. -/
def execIntakeLengthWrite (r : Req) (v : Nat) (s : State) : Out := .next (s.intakeSetting r v)

/-- Any write returns the timing ceiling to T0. -/
def State.timingClearOrder (s : State) (r : Req) (v : Nat) : State :=
  s.ordered r 0x4C0B 0 v stOk fun s => s.setReg 0x4C0A03 0

/-- TIMING_CLEAR. -/
def execTimingClear (r : Req) (v : Nat) (s : State) : Out := .next (s.timingClearOrder r v)

/-! Orders of the dictionary itself -/

/-- The real-time clock is set (0x24C0:01). -/
def State.clockOrder (s : State) (r : Req) (v : Nat) : State :=
  s.ordered r 0x24C0 1 v stOk fun s => { s with husk :=
    { s.husk with rtc := v * 1000000000, rtcShift := s.husk.rtcShift + ((v * 1000000000 : Nat) - (s.husk.rtc : Int)) } }

def State.restoreOrder (s : State) (r : Req) (v : Nat) : State :=
  s.ordered r 0x2010 1 v stOk fun s => s.onDict fun d => { d with restore := true }

/-- RESTORE_DEFAULTS (R234): 0x5A5A, which is the entry's only value in range. -/
def execRestoreDefaults (r : Req) (v : Nat) (s : State) : Out := .next (s.restoreOrder r v)

def State.clearLogOrder (s : State) (r : Req) (v : Nat) : State :=
  s.ordered r 0x4010 4 v stOk fun s =>
    { s with integ := { s.integ with log := [], sinceClear := 0 }, store := { s.store with flushedSince := 0 } }

/-- CLEAR_LOG: the log and the bits of 0x1001. -/
def execClearLog (r : Req) (v : Nat) (s : State) : Out := .next (s.clearLogOrder r v)

/-! Reads (R231, R235, R236) -/

/-- The snapshot of a party, if it is of an entry. -/
def State.snapOf (s : State) (p k : Nat) : Option Snapshot := s.dict.snaps.find? fun x => x.party = p && x.key = k

/-- The party's one snapshot becomes a value of an entry. -/
def State.takeSnap (s : State) (p k : Nat) (data : List Byte) : State :=
  s.onDict fun d => { d with snaps := ⟨p, k, data, s.now⟩ :: d.snaps.filter (·.party ≠ p) }

/-- Checks 1 to 5 of a READ (Table OD-2). -/
def State.readCheck (s : State) (r : Req) (index sub offset : Nat) : Serve :=
  if s.mute then .silent
  else
    match entryRow index sub with
    | none => .status stNoObject
    | some row =>
      if s.hidden r.party r.port index then .status stNoObject
      else if !s.permits r.party row index sub false then .status stDenied
      else if row.kind ≠ .domain ∧ offset ≠ 0 then .status stBadType
      else if row.kind = .domain ∧ offset ≠ 0 ∧ offset ≠ 0xFFFFFFFF ∧
          (s.snapOf r.party (okey index sub)).any (fun x => decide (x.data.length < offset)) = true then .status stRange
      else s.serve r index sub false

/-- Bytes of a value that one READ response can carry (R235); a USDO moves the whole. -/
def State.readRoom (s : State) (r : Req) : Nat := if r.port = 3 then 4294967295 else s.payloadLimit r.port - 8

/-- A part of a DOMAIN: its length, its first part with a new snapshot, or a later part (R236). -/
def State.readDomain (s : State) (r : Req) (index sub offset : Nat) : State :=
  let k := okey index sub
  let room := s.readRoom r
  if offset = 0xFFFFFFFF then
    match s.bytesOf r.party r.port index sub with
    | some d => s.readAnswer r index sub offset stOk (leBytes 4 d.length)
    | none => s.readAnswer r index sub offset stNoObject []
  else if offset = 0 then
    match s.bytesOf r.party r.port index sub with
    | some d => (if r.port = 3 then s else s.takeSnap r.party k d).readAnswer r index sub offset stOk (d.take room)
    | none => s.readAnswer r index sub offset stNoObject []
  else
    match s.snapOf r.party k with
    | some x => (s.takeSnap r.party k x.data).readAnswer r index sub offset stOk ((x.data.drop offset).take room)
    | none => s.readAnswer r index sub offset stStale []

/-- A whole value is returned, and is the party's snapshot (R235, R236); a USDO keeps its own (R238). -/
def State.readWhole (s : State) (r : Req) (index sub : Nat) (data : List Byte) : State :=
  (if r.port = 3 then s else s.takeSnap r.party (okey index sub) data).readAnswer r index sub 0 stOk data

/-- Reads of the challenge answer BUSY for 60 s after three failed responses within 24 h (18 R377). -/
def State.challengeBusy (s : State) : Bool :=
  match s.sec.dbgFails with
  | [a, _, c] => decide (a ≤ c + 86400000000000 ∧ s.now < a + 60000000000)
  | _ => false

/-- A new challenge: serial number, lifecycle, scrub and party data, counter, a nonce that nothing fixes (18 R377). -/
def State.newChallenge (s : State) : List Byte :=
  leBytes 8 (s.reg 0x200003) ++ leBytes 1 s.sec.lifecycle ++
    leBytes 1 ((if s.scrubDone then 1 else 0) + (if s.partyData then 2 else 0)) ++ leBytes 2 0 ++
    leBytes 4 s.sec.dbgCounter ++ ((List.range 32).map fun i => BitVec.ofNat 8 (Config.freeNat (s.free + i))) ++
    List.replicate 16 0

/-- The challenge is read at offset 0: it is a new one each time. -/
def State.readChallenge (s : State) (r : Req) : State :=
  match s.readCheck r 0x2003 2 0 with
  | .silent => s
  | .held => s
  | .status st =>
    if st ≠ stOk then s.readAnswer r 0x2003 2 0 st []
    else if s.challengeBusy then s.readAnswer r 0x2003 2 0 stBusy []
    else
      let c := s.newChallenge
      let t : State := { s with free := s.free + 32, sec := { s.sec with challenge := some c } }
      (t.takeSnap r.party 0x200302 c).readAnswer r 0x2003 2 0 stOk c

/-- DEBUG_CHALLENGE. -/
def execDebugChallenge (r : Req) (s : State) : Out := .next (if s.odTurn r then s.readChallenge r else s)

/-- A READ of an entry whose turn it is. What the sprout holds is answered when MEMORY ends (19 R389). A READ at offset 0 of any
entry is the party's new snapshot (R236). -/
def State.readNow (s : State) (r : Req) (index sub offset : Nat) : State :=
  match s.readCheck r index sub offset with
  | .silent => s
  | .held => (s.taken r).onDict fun d => { d with held := d.held ++ [(r, okey index sub, offset, s.now)] }
  | .status st =>
    if st ≠ stOk then s.readAnswer r index sub offset st []
    else if index = 0x2003 ∧ sub = 2 ∧ offset = 0 then s.readChallenge r
    else
      match entryRow index sub with
      | none => s.readAnswer r index sub offset stNoObject []
      | some row =>
        match row.kind with
        | .domain => s.readDomain r index sub offset
        | .str => s.readWhole r index sub (s.text index sub row.size)
        | _ => s.readWhole r index sub (leBytes row.size (s.number r.party index sub))

/-- A READ of an entry, in its turn (R240). -/
def State.readEntry (s : State) (r : Req) (index sub offset : Nat) : State :=
  if s.odTurn r then s.readNow r index sub offset else s

/-- OD_READ. -/
def execOdRead (r : Req) (index sub offset : Nat) (s : State) : Out := .next (s.readEntry r index sub offset)

/-- Reads held by the sprout are answered; one that waited 100 ms answers NOT_READY. -/
def State.answerHeld (s : State) : State :=
  let hs := s.dict.held
  hs.foldl (fun (s : State) h =>
    if h.2.2.2 + 100000000 ≤ s.now then s.readAnswer h.1 (h.2.1 / 256) (h.2.1 % 256) h.2.2.1 stNotReady []
    else s.readNow h.1 (h.2.1 / 256) (h.2.1 % 256) h.2.2.1) (s.onDict fun d => { d with held := [] })

/-! Writes (R231 to R237) -/

/-- A write of a selector: the party's own value (R253). -/
def State.selectorSetting (s : State) (r : Req) (index sub v : Nat) : State :=
  s.ordered r index sub v stOk fun s => s.setReg (pkey r.party (okey index sub)) v

/-- Numbers of the per-unit groups and of the entries with a status or an effect of their own. -/
def State.writeNumber (s : State) (r : Req) (index sub v : Nat) : State :=
  if within 0x3010 8 index && sub = 4 then s.rotateNowOrder r (index - 0x3010) v
  else if within 0x3110 40 index && sub = 9 then s.calibrateOrder r (index - 0x3110) v
  else if within 0x2A00 16 index && sub = 8 then s.afeCalibrateOrder r (index - 0x2A00) v
  else if within 0x3210 16 index && sub = 6 then s.pauseEntry r (index - 0x3210) v
  else if within 0x2800 16 index then s.chanSetting r (index - 0x2800) sub v
  else if within 0x2820 2 index then s.chanSetting r (16 + (index - 0x2820)) sub v
  else if within 0x3C00 4 index && sub = 3 then s.portClearOrder r (index - 0x3C00) v
  else if within 0x3C30 16 index then s.bindingSetting r (index - 0x3C30) sub v
  else if within 0x2411 4 index && sub = 1 then s.domainSetting r (index - 0x2410) v
  else if within 0x2420 8 index && sub = 3 then s.clusterClearOrder r (index - 0x2420) v
  else if within 0x3800 16 index then
    if sub = 1 then s.roleSetting r (index - 0x3800) v
    else if sub = 0x0A then s.revokeOrder r (index - 0x3800) v
    else s.allotSetting r (index - 0x3800) sub v
  else if within 0x4030 40 index && sub = 3 then s.podClearOrder r (index - 0x4030) v
  else if within 0x4800 16 index then s.traceSetting r (index - 0x4800) sub v
  else if selector index sub then s.selectorSetting r index sub v
  else
    match index, sub with
    | 0x4C00, 0 => s.periodSetting r v
    | 0x4C07, 0 => s.intakeSetting r v
    | 0x4C0B, 0 => s.timingClearOrder r v
    | 0x4C20, 2 => s.abortOrder r v
    | 0x4C20, 3 => s.unloadOrder r v
    | 0x4C24, 2 => s.consolidateOrder r v
    | 0x2010, 1 => s.restoreOrder r v
    | 0x2001, 5 => s.activateOrder r v
    | 0x2003, 4 => s.debugCloseOrder r v
    | 0x24C0, 1 => s.clockOrder r v
    | 0x4010, 4 => s.clearLogOrder r v
    | 0x4400, 2 => s.startTestOrder r v
    | _, _ => s.setting r index sub v stOk

/-- A length that an entry accepts (R237). -/
def lenAccepted (index sub n : Nat) : Bool :=
  if within 0x3110 40 index then n = 326
  else if within 0x2A00 16 index then n = 28 + bankBytes (unitAfe (index - 0x2A00))
  else if within 0x3800 16 index then n % 12 = 0 && decide (n ≤ 768)
  else
    match index, sub with
    | 0x3890, 2 => n % 32 = 0 && decide (n ≤ 1024)
    | 0x24A0, 0x0A => n % 16 = 0 && decide (n ≤ 256)
    | 0x3C60, 5 => n % 4 = 0 && decide (n ≤ 64)
    | 0x4C20, 1 => n = 12
    | 0x4C24, 1 => n = 12
    | 0x2004, 1 => n = 200 || n = 296
    | 0x2004, 2 => n = 256
    | 0x2004, 3 => n = 1
    | 0x2002, 2 => n = 120
    | 0x3C80, 1 => decide (20 ≤ n ∧ n ≤ 16 + 8192 + 65535)
    | 0x24A0, 0x0B => decide (20 ≤ n ∧ n ≤ 16 + 4096 + 65535)
    | 0x2003, 3 => n = 104
    | 0x2001, 4 => decide (192 ≤ n ∧ n ≤ 1048576)
    | _, _ => n ≤ 262144

/-- The stored strings and the CAN stream map: RWP, through the vault; the map takes effect at a boundary (R241). -/
def State.bytesSetting (s : State) (r : Req) (index sub : Nat) (data : List Byte) : State :=
  match s.bytesCheck r index sub data.length with
  | .silent => s
  | .held => s
  | .status st =>
    let own := if index = 0x3C60 && !lenAccepted index sub data.length then stBadType else stOk
    let a := lateStatus (s.bytesFit r index sub data.length) st own
    if a ≠ stOk then s.wrote r (okey index sub) a
    else
      let t := s.storeBytes r index sub data
      if index = 0x3C60 && mget [] t.dict.doms (okey index sub) = data then t.stage (.dom (okey index sub) data) else t

/-- The DOMAINs that order something of the shell, the loader, the classifier or the hold-up pip. What their own commands take as
verdicts of the shell (a signature of Laniale's, an unwrapping) is a free value here (log 95). -/
def State.orderDomain (s : State) (r : Req) (index sub : Nat) (data : List Byte) : Option State :=
  let v := Config.freeNat s.free
  let t : State := { s with free := s.free + 1 }
  match index, sub with
  | 0x4C20, 1 => some (s.loadOrder r (field data 0 2) (field data 4 8))
  | 0x4C24, 1 => some (s.updateOrder r (field data 0 2) (field data 4 8))
  | 0x3C80, 1 => some (s.classifierOrder r data)
  | 0x2001, 4 => some (t.firmwareOrder r data (v.testBit 0))
  | 0x2002, 2 => some (t.lifecycleOrder r data (v.testBit 0))
  | 0x2003, 3 => some (t.debugOrder r data (v.testBit 0))
  | 0x2004, 1 => some (s.planKeyOrder r data)
  | 0x2004, 2 => some (t.sakOrder r data (v.testBit 0))
  | 0x2004, 3 => some (s.poolKeyOrder r (field data 0 1))
  | 0x24A0, 0x0B => some (s.holdUpImageOrder r data)
  | _, _ => none

/-- What stands against the length of a write of bytes: check 3, before what the service and the unit can take now (R231). -/
def State.lengthBars (s : State) (r : Req) (index sub len : Nat) : Bool :=
  !s.mute && s.odTurn r && s.bytesFit r index sub len = stOk && !lenAccepted index sub len

/-- A whole value of bytes is written. -/
def State.writeBytes (s : State) (r : Req) (index sub : Nat) (data : List Byte) : State :=
  if s.lengthBars r index sub data.length then s.wrote r (okey index sub) stBadType
  else match s.orderDomain r index sub data with
  | some t => t
  | none =>
  if within 0x3110 40 index then s.trimRestoreOrder r (unitPod (index - 0x3110)) data
  else if within 0x2A00 16 index then s.trimRestoreOrder r (unitAfe (index - 0x2A00)) data
  else if within 0x3800 16 index then s.podAllotSetting r (index - 0x3800) data
  else if index = 0x3890 then s.mirrorSetting r data
  else if index = 0x24A0 then s.keepRegionsOrder r data
  else s.bytesSetting r index sub data

/-- A whole value is written: a number of exactly its type's size, or bytes. -/
def State.writeWhole (s : State) (r : Req) (index sub : Nat) (data : List Byte) : State :=
  match entryRow index sub with
  | none => s.writeNumber r index sub 0
  | some row =>
    match row.kind with
    | .domain => s.writeBytes r index sub data
    | .str => s.writeBytes r index sub data
    | _ =>
      if data.length = row.size then s.writeNumber r index sub (field data 0 row.size)
      else
        match s.writeCheck r index sub 0 with
        | .silent => s
        | .held => s
        | .status _ =>
          s.wrote r (okey index sub) (if s.mayWrite r index sub = stOk then stBadType else s.mayWrite r index sub)

def State.stagingOf (s : State) (p k : Nat) : Option Staging := s.dict.stagings.find? fun x => x.party = p && x.key = k

def State.dropStaging (s : State) (p : Nat) : State :=
  s.onDict fun d => { d with stagings := d.stagings.filter (·.party ≠ p) }

/-- A part of a longer DOMAIN: the next in order is staged, and the last executes the write (R237). `st` is what the service
says of the access now, which comes after the part's offset and length (R231). -/
def State.writePart (s : State) (r : Req) (index sub offset st : Nat) (data : List Byte) (x : Staging) : State :=
  let k := okey index sub
  if offset ≠ x.data.length then (s.dropStaging r.party).wrote r k stRange
  else if x.len < x.data.length + data.length then (s.dropStaging r.party).wrote r k stBadType
  else if st ≠ stOk then s.wrote r k st
  else
    let all := x.data ++ data
    let t := s.dropStaging r.party
    if all.length = x.len then t.writeBytes r index sub all
    else (t.onDict fun d => { d with stagings := ⟨r.party, k, x.len, all, s.now⟩ :: d.stagings }).wrote r k stOk

/-- A declaration opens the party's staging area; a declared length of 0 is reached at once. -/
def State.declare (s : State) (r : Req) (index sub st : Nat) (data : List Byte) : State :=
  let k := okey index sub
  let n := field data 0 4
  if data.length ≠ 4 ∨ lenAccepted index sub n = false then s.wrote r k stBadType
  else if st ≠ stOk then s.wrote r k st
  else
    let t := s.dropStaging r.party
    if n = 0 then t.writeBytes r index sub []
    else (t.onDict fun d => { d with stagings := ⟨r.party, k, n, [], s.now⟩ :: d.stagings }).wrote r k stOk

/-- A WRITE to a DOMAIN by its offset (R237), once checks 1 and 2 pass. -/
def State.writeDomain (s : State) (r : Req) (index sub offset : Nat) (data : List Byte) : State :=
  let k := okey index sub
  match s.bytesCheck r index sub data.length with
  | .silent => s
  | .held => s
  | .status st =>
    if s.mayWrite r index sub ≠ stOk then s.wrote r k st
    else if offset = 0xFFFFFFFF then s.declare r index sub st data
    else
      match s.stagingOf r.party k with
      | some x => s.writePart r index sub offset st data x
      | none => if offset ≠ 0 then s.wrote r k stRange else s.writeBytes r index sub data

/-- A WRITE of an entry. -/
def State.writeEntry (s : State) (r : Req) (index sub offset : Nat) (data : List Byte) : State :=
  match entryRow index sub with
  | none => s.writeWhole r index sub data
  | some row =>
    if row.kind = .domain then s.writeDomain r index sub offset data
    else if offset = 0 then s.writeWhole r index sub data
    else s.writeWhole r index sub (data ++ List.replicate (row.size + 1) 0)

/-- OD_WRITE. -/
def execOdWrite (r : Req) (index sub offset : Nat) (data : List Byte) (s : State) : Out :=
  .next (s.writeEntry r index sub offset data)

/-! Expiry and commit (R232, R236, R237) -/

/-- SNAPSHOT_EXPIRY: 1 s after the party's last read of it. -/
def execSnapshotExpiry (p : Nat) (s : State) : Out :=
  .next (if s.dict.snaps.any fun x => x.party = p && decide (x.last + 1000000000 ≤ s.now) then
      (s.onDict fun d => { d with snaps := d.snaps.filter (·.party ≠ p) }).bumpFor p 0x201202
    else s)

/-- STAGING_EXPIRY: 1 s after its last part. -/
def execStagingExpiry (p : Nat) (s : State) : Out :=
  .next (if s.dict.stagings.any fun x => x.party = p && decide (x.last + 1000000000 ≤ s.now) then
      (s.dropStaging p).bumpFor p 0x201202
    else s)

/-- The vault took a value: commits and vault writes are counted. -/
def State.countCommit (s : State) : State := (s.bump 0x201002).bump64 0x202003

/-- The other copy of an entry once a commit has been written over the older of the two: it is the value that was newest,
where there was one (R232). -/
def overwritten {α : Type} (spare vault : List (Nat × α)) (k : Nat) : List (Nat × α) :=
  match vault.find? fun e => e.1 = k with
  | some e => mins spare k e.2
  | none => mdel spare k

/-- VAULT_COMMIT: the oldest commit in progress reaches the vault, and the write is answered OK. -/
def execVaultCommit (s : State) : Out :=
  .next (
    let num (c : Req × Nat × Nat × Nat) (rest : List (Req × Nat × Nat × Nat)) : State :=
      ((s.onDict fun d => { d with commits := rest, vault := mins d.vault c.2.1 c.2.2.1,
                                   spare := overwritten d.spare d.vault c.2.1 }).countCommit).wrote c.1 c.2.1 stOk
    let dom (c : Req × Nat × List Byte × Nat) (rest : List (Req × Nat × List Byte × Nat)) : State :=
      ((s.onDict fun d => { d with domCommits := rest, vaultDoms := mins d.vaultDoms c.2.1 c.2.2.1,
                                   spareDoms := overwritten d.spareDoms d.vaultDoms c.2.1 }).countCommit).wrote c.1 c.2.1 stOk
    if s.mute then s
    else
      match s.dict.commits, s.dict.domCommits with
      | [], [] => s
      | c :: cs, [] => num c cs
      | [], d :: ds => dom d ds
      | c :: cs, d :: ds => if c.2.2.2 ≤ d.2.2.2 then num c cs else dom d ds)

/-! Disagreement (R243) -/

/-- DISAGREE: a pair that has differed with reason FENCED at 16 boundaries raises one record until it converges. -/
def execDisagree (index sub : Nat) (s : State) : Out :=
  .next (
    let k := okey index sub
    match allPairs.find? fun x => x.cmd = k with
    | none => s
    | some x =>
      match s.frame.differ.find? fun d => d.1 = k with
      | some (_, _, f, raised) =>
        if f < 16 ∨ raised = true then s
        else
          let t : State := { s with frame := { s.frame with differ := s.frame.differ.map fun d =>
            if d.1 = k then (d.1, d.2.1, d.2.2.1, true) else d } }
          (t.bump 0x201102).fault clsDisagree 1 x.unit noParty (index + 65536 * sub)
      | none => s)

/-! USDO (R224, R238, R240, R389) -/

/-- The party that a CAN node is bound to. -/
def State.nodeParty (s : State) (node : Nat) : Option Nat :=
  (List.range 16).find? fun p => s.bindKind p = 3 && s.inForce (okey (0x3C30 + p) 3) = node

/-- A USDO of a node: nothing for a stranger, abort 0x0800_0022 before NETWORK ends, else the service. -/
def State.usdo (s : State) (node : Nat) (f : State → Nat → State) : State :=
  if s.mute ∨ s.husk.recovery = true then s
  else
    let early := decide (s.husk.power = .sprout) && decide (s.husk.stage < 7)
    match s.nodeParty node with
    | none => if early || !s.portUp 3 then s else s.portCount 3 0x16
    | some p =>
      if early then s.usdoOut node 0x08000022 []
      else if !s.portUp 3 then s
      else f (s.portCount 3 0x10) p

/-- An initiate ends the node's open transfer. -/
def State.endUsdo (s : State) (node : Nat) : State :=
  { s with net := { s.net with usdo := s.net.usdo.filter (·.node ≠ node) } }

/-- A whole access by USDO takes its place in the service's queue of 128: it runs at once where it is next, waits behind what came
before it, and OD_READ or OD_WRITE then executes it; it is BUSY where the queue is full (R240). -/
def State.usdoAccess (s : State) (p op index sub : Nat) (data : List Byte) (f : State → State) : State :=
  let s : State := { s with net := { s.net with accepted := s.net.accepted.filter fun m => !(m.1 = 3 && m.2.1 = p) } }
  if 128 ≤ s.odWaiting then (s.bump 0x201201).usdoOut (s.inForce (okey (0x3C30 + p) 3)) (abortCode false stBusy) []
  else if s.odFirst.isNone then f s
  else
    let msg := msgBytes 1 op p 0 0 0 0 0 (leBytes 2 index ++ leBytes 1 sub ++ leBytes 1 0 ++ leBytes 4 0 ++ data)
    { s with net := { s.net with accepted := s.net.accepted ++ [(3, p, msg, false)] } }

/-- A segment of an open upload; the last ends the transfer. -/
def State.usdoSegment (s : State) (node : Nat) : State :=
  match s.net.usdo.find? fun x => x.node = node && x.up with
  | none => s.usdoOut node 0x05040001 []
  | some x =>
    let t := (s.endUsdo node).usdoOut node 0 (x.data.take usdoRoom)
    let rest := x.data.drop usdoRoom
    if rest.isEmpty then t
    else { t with net := { t.net with usdo := { x with data := rest, last := s.now } :: t.net.usdo } }

/-- USDO_UPLOAD: service 0 initiates an upload, whose snapshot is the value as it stands then; 1 asks for the next segment; any
other is no service of the device (R238). -/
def execUsdoUpload (node index sub service : Nat) (s : State) : Out :=
  .next (s.usdo node fun s p =>
    match service with
    | 0 => (s.endUsdo node).usdoAccess p 1 index sub [] fun s => s.readEntry ⟨p, 3, 0⟩ index sub 0
    | 1 => s.usdoSegment node
    | _ => s.usdoOut node 0x05040001 [])

/-- USDO_DOWNLOAD: a segment; the last executes the write. A segment without a transfer is no service of the device. -/
def execUsdoDownload (node index sub : Nat) (first last : Bool) (data : List Byte) (s : State) : Out :=
  .next (s.usdo node fun s p =>
    let open_ : Option Usdo :=
      if first then some ⟨node, index, sub, [], s.now, false⟩ else s.net.usdo.find? fun x => x.node = node && !x.up
    match open_ with
    | none => s.usdoOut node 0x05040001 []
    | some x =>
      let x : Usdo := { x with data := x.data ++ data, last := s.now }
      let t := s.endUsdo node
      if last then t.usdoAccess p 2 x.index x.sub x.data fun t => t.writeWhole ⟨p, 3, 0⟩ x.index x.sub x.data
      else { t with net := { t.net with usdo := x :: t.net.usdo } })

/-- USDO_TIMEOUT: no segment for 1 s. -/
def execUsdoTimeout (node : Nat) (s : State) : Out :=
  .next (if s.net.usdo.any fun x => x.node = node && decide (x.last + 1000000000 ≤ s.now) then
      (s.endUsdo node).usdoOut node 0x05040000 []
    else s)

end Sys2Proof.Machine
end

