-- ==== Sys2Proof/Machine/Boundary.lean ====
section
/-! DEFINITION. The frame boundary (01 R2, R15 to R37, 11 R241, R242): every change that waits for a tick takes effect here,
in one operation that all sources of ticks share. -/

namespace Sys2Proof.Machine

open Sys2Proof

def State.onFrame (s : State) (f : Frame → Frame) : State := { s with frame := f s.frame }

/-! Effects that were left for the boundary -/

/-- One effect that waited for its boundary. -/
def State.boundaryOp (s : State) (op : BoundaryOp) : State :=
  match op with
  | .revokeCtx c q => s.revokeCtx c q
  | .freeCtx c q => s.freeCtx c q
  | .revokeParty p => s.revokeAll p
  | .ungrant h => s.ungrant h
  | .unload => s.unloadPlan
  | .portClear u => s.clearPort u
  | .dom k data => { s with dict := { s.dict with domsLive := mins s.dict.domsLive k data } }
  | .allotPages p => { s with pool := { s.pool with noRoot := s.pool.noRoot &&& (0xFFFF ^^^ (1 <<< p)) } }
  | .planKey p id z c => s.putPlanKey p id z c
  | .sak p d an id => s.putSak p d an id
  | .lifecycle v => s.setLifecycle v
  | .debug v => s.setDebug v
  | .consolidate h _ => s.takeMasters h
  | .mirrors data => s.applyMirrors data
  | .clearPod i => s.clearPod i
  | .clearGate c h => s.clearGate c h

/-- Every effect that is due at the frame that starts, debug states first (R241; log 173). -/
def State.boundaryOps (s : State) : State :=
  let due := s.frame.staged.filter fun x => decide (x.due ≤ s.frame.number)
  let t := s.onFrame fun f => { f with staged := f.staged.filter fun x => decide (f.number < x.due) }
  let dbg (o : BoundaryOp) : Bool := match o with | .debug _ => true | _ => false
  ((due.filter fun x => dbg x.op) ++ due.filter fun x => !dbg x.op).foldl (fun (s : State) x => s.boundaryOp x.op) t

/-! The frame that starts (R15, R35, R241) -/

/-- A new frame: its number, its start, and the register file that is in force in it. Settings written since KEEP began
wait for the tick after (R241). The first frame under a new tick source carries TICK_SWITCH (R15), and every frame under PTP
without synchronisation PTP_HOLDOVER (R18, R391). DESIGN CHOICE (log 136): the angle field of a frame under ANGLE that no
angle event started, frame 0 or the first frame after a switch, is 0; Table FRAME-3 gives it no value. -/
def State.newFrame (s : State) (t : Nat) (flags : BitVec 16) (lag : Nat) (angle : Int) : State :=
  let live := if s.frame.phase = .keep then s.frame.keepOd else s.od
  let n := if s.frame.running then s.frame.number + 1 else 0
  let src := mget 0 live 0x4C0200
  let fl := if s.frame.running && decide (src ≠ s.source) then flags ||| 128#16 else flags
  let fl := if src = 1 ∧ s.reg 0x3C5002 ≠ 1 then fl ||| 64#16 else fl
  let s := (s.setReg 0x4C0300 src).bump64 0x4C1001
  s.onFrame fun f =>
    { f with running := true, number := n, start := t, tickTime := ((t : Int) + s.husk.timeOff).toNat, phase := .intake,
             flags := fl, lag := lag, angle := if src = 3 then angle else 0,
             pending := if src = 3 then f.pending else none, syncMissing := src = 2 && f.syncMissing,
             overrun := 0, late := 0, fault := 0, clip := 0, sus := 0, live := live }

/-! Power states at a boundary (R328 to R330, R357, R362, R391) -/

/-- The power state that the Owner commands. -/
def State.commandedPower (s : State) : PowerState := if s.inForce 0x240001 = 3 then .doze else .run

/-- RUN and DOZE follow the command, frame 0 leaves SPROUT, and a loss of input power or its end moves HOLD. -/
def State.powerBoundary (s : State) : State :=
  match s.husk.power with
  | .sprout => s.toPower s.commandedPower 3
  | .run | .doze =>
    if s.store.lostAt.isSome then s.holdEntry.abandonTests
    else if s.husk.power = s.commandedPower then s else s.toPower s.commandedPower 0
  | .hold => s.holdExit
  | _ => s

/-- What only frame 0 does: an accepted image raises the minimum security version, keep copies that were not restored are
erased, swaps fall due anew, and the boot-up message is sent (R55, R373, R391, R397). -/
def State.firstFrame (s : State) : State :=
  let v := match s.sec.slots.getD s.sec.active none with
    | some x => x.1
    | none => 0
  let s := (s.onSec fun x => { x with minVersion := max x.minVersion v }).eraseCopies
  let s := (s.onHusk fun h => { h with coldDue := false, lastStopHold := false }).startDues
  if s.portUp 3 then { s.portCount 3 0x11 with out := s.out ++ [OutMsg.canHeartbeat true] } else s

/-! Tier, ballast and checking (R29 to R31, R336, R344) -/

/-- The four ceilings: commanded, thermal, timing, supply. -/
def State.ceilings (s : State) : List Nat := [1, 2, 3, 4].map fun i => s.reg (okey 0x4C0A i)

/-- The tier that the ceilings give: the highest number; T2 becomes T3 when the plan has no T2 variant (R30). -/
def State.tierOf (s : State) (cs : List Nat) : Nat :=
  let m := cs.foldl max 0
  if m = 2 && s.loader.plan.any (fun p => !hasTier p 2) then 3 else m

/-- The ceiling that determines a tier: of those at the highest number, the first that changed since the boundary before, else
the first. -/
def decidingCeiling (old new : List Nat) : Nat :=
  let m := new.foldl max 0
  let at_ := (List.range 4).filter fun i => new.getD i 0 = m
  ((at_.find? fun i => old.getD i 0 ≠ new.getD i 0) <|> at_.head?).getD 0

/-- Ceilings, ladder and tier at a boundary; a changed tier is announced in this frame's PUBLISH, and every stream's next
record carries TIER_CHG (R31). -/
def State.tierBoundary (s : State) : State :=
  let old := s.frame.ceilWas
  let s := (s.setReg 0x246003 s.thermal.stagedStep).setReg 0x246004 (750 * (s.thermal.stagedStep + 1))
  let s := (s.setReg 0x4C0A01 (s.inForce 0x4C0800)).setReg 0x4C0A02 (s.ceilingAt s.thermal.stagedStep)
  let was := s.tier
  let new := s.tierOf s.ceilings
  let s := s.onFrame fun f => { f with ceilWas := s.ceilings }
  if was = new then s
  else
    let ids := match s.loader.plan with
      | some p => p.segs.flatMap fun g => g.streams.map (·.id)
      | none => []
    (s.setReg 0x4C0900 new).onFrame fun f =>
      { f with tierEvent := some (was, new, decidingCeiling old s.ceilings), tierStreams := ids }

/-- Effective ballast (R344). -/
def State.ballastBoundary (s : State) : State :=
  let c := s.inForce 0x246201
  s.setReg 0x246202 (if s.tier = 3 ∨ s.husk.power = .doze ∨ s.husk.power = .hold then 0
    else if s.tier = 2 ∧ c = 2 then 1 else c)

/-- Effective checksum columns, duplicate fraction and winnow (R29, Table FRAME-2), and the frame period (R37). -/
def State.checkBoundary (s : State) : State :=
  let on (k : Nat) : Nat := if s.tier ≤ 1 then s.inForce k else 0
  (((s.setReg 0x400002 (on 0x400001)).setReg 0x400005 (on 0x400004)).setReg 0x400007 (on 0x400006)).setReg 0x4C0100
    (s.inForce 0x4C0000)

/-! Pooled jobs (04 R97) -/

/-- What holds a pooled job: tier, DOZE, a test on one of its clusters, COMP going off, or a pause asked for. -/
def State.jobHeld (s : State) (j : Nat) : Bool :=
  decide (s.tier ≠ 0) || s.husk.power = .doze || (s.job j).asked || s.inForce (domReg 3 1) = 0 ||
    decide (s.testDown &&& s.reg (jobReg j 5) ≠ 0)

/-- Jobs pause, and resume from their saved counters, at a boundary; run-ahead does not reach beyond it (R93). -/
def State.jobBoundary (s : State) : State :=
  (List.range 16).foldl (fun (s : State) j =>
    if s.jobHeld j then s.pauseJob j
    else if s.jobState j = 2 then (s.setReg (jobReg j 1) 1).setReg (jobReg j 2) (s.job j).saved
    else s) s.dropAheads

/-- A slot whose job was DONE or ABORTED when the boundary came is FREE again. DESIGN CHOICE (log 120): the spec has a JOB_START
on a slot that is not FREE answer BUSY and names no step that frees one. -/
def State.freeSlots (s : State) : State :=
  (List.range 16).foldl (fun (s : State) j => if 3 ≤ s.jobState j then s.setReg (jobReg j 1) 0 else s) s

/-- What the frame that begins makes available to each party is noted where it differs (13 R274); 4,096 frames are kept. -/
def State.availBoundary (s : State) : State :=
  let l := (List.range 16).map s.availOf
  if s.pool.avail.head?.map (·.2) = some l then s
  else
    let old := s.pool.avail
    let keep := old.takeWhile fun x => decide (s.frame.number < x.1 + 4096)
    { s with pool := { s.pool with avail := (s.frame.number, l) :: old.take (keep.length + 1) } }

/-! The boundary -/

/-- What DOMAIN entries show as of a boundary: the core's data memory and the heads' masters. -/
def State.showBoundary (s : State) : State :=
  { s with core := { s.core with shown := s.core.dmem, counts := [] },
           heads := s.heads.map fun h => { h with shown := h.masters } }

/-- The identity that a party is bound to in force (R205, R374). -/
def State.boundTo (s : State) (p : Nat) : Nat × Nat × Nat :=
  (s.bindKind p, s.inForce (okey (0x3C30 + p) 2), s.inForce (okey (0x3C30 + p) 3))

/-- Bindings that what was ordered has changed: those that RETURNED clears, and every one where BLANK begins or ends (R253, R374,
R375). -/
def State.rebind (s : State) (was : List (Nat × Nat × Nat)) : State :=
  (List.range 16).foldl (fun (s : State) p => if was[p]? = some (s.boundTo p) then s else s.dropBinding p) s

/-- The parties' side of a boundary: what was ordered, bindings, ports, root contexts, whether OPEN may stand, the plan. -/
def State.partyBoundary (s : State) (old : List (Nat × Nat)) : State :=
  let s := (s.bindingBoundary old).portBoundary
  ((s.boundaryOps.rebind ((List.range 16).map s.boundTo)).createRoots).debugRecheck.planBoundary

/-- Trims, spares, pods and heads. -/
def State.podBoundary (s : State) (old : List (Nat × Nat)) : State :=
  let s := ((s.applyTrims.verifySpare.nameBoundary.serviceBoundary).intervalChange (mget 0 old 0x300100)).landImages.retiredSources
  s.headBoundary

/-- Domains, gates, tests, and the clusters whose work is withdrawn in the frame. -/
def State.clusterBoundary (s : State) : State :=
  let s := s.domainBoundary.gateBoundary.testBoundary.gateBoundary
  let s := (List.range 8).foldl State.spareGate s
  s.onFrame fun f => { f with down := s.faultDown ||| s.gateDown ||| s.testDown }

/-- Every effect of a boundary, in the frame that has just begun. `old` is the register file of the frame that ended. -/
def State.boundary (s : State) (old : List (Nat × Nat)) : State :=
  let s := (s.freeSlots.partyBoundary old).powerBoundary.tierBoundary.ballastBoundary.checkBoundary
  let s := (s.podBoundary old).clusterBoundary.jobBoundary.cutBlocks.chanBoundary old
  s.afeBoundary.staleAfes.refreshXip.traceBoundary.showBoundary.differBoundary.availBoundary

/-- A frame starts at instant t (R15 to R21, R35). -/
def State.startFrame (s : State) (t : Nat) (flags : BitVec 16) (lag : Nat) (angle : Int) : State :=
  let old := s.frame.live
  let first := !s.frame.running
  let s := (s.newFrame t flags lag angle).boundary old
  if first then s.firstFrame else s

end Sys2Proof.Machine
end

