-- ==== Sys2Proof/Machine/FrameTimer.lean ====
section
/-! DEFINITION. The frame timer (01): ticks of the four sources, windows, PUBLISH and KEEP with their tasks; and the state
changes outside frames, SAFE and the end of a sprout stage, that start or end the running of frames. An event of the timer
acts from its instant on: when it comes early, or the frame stands elsewhere, nothing happens. -/

namespace Sys2Proof.Machine

open Sys2Proof

/-! Ticks (R15 to R21) -/

/-- A frame may start now: KEEP has begun and P_floor is over (R16, R22). -/
def State.mayStart (s : State) : Bool :=
  s.active && s.frame.phase = .keep && decide (s.frame.start + s.pFloor ≤ s.now)

/-- TICK: under INTERNAL a frame starts every P (R17). -/
def execTick (s : State) : Out :=
  .next (if s.mayStart && s.source = 0 && decide (s.frame.start + s.period ≤ s.now) then s.startFrame s.now 0 0 0 else s)

/-- How much a frame is lengthened under PTP: while synchronised, towards the next multiple of P after the phase offset, at
most 0.5 % of P; nothing within 50 ns of a multiple (R18). -/
def State.lengthening (s : State) : Nat :=
  let p := s.period
  if s.reg 0x3C5002 ≠ 1 ∨ p = 0 then 0
  else
    let t : Int := ((s.frame.start + p : Nat) : Int) + s.husk.timeOff - signedOf 32 (s.inForce 0x4C0600)
    let e := (t % p).toNat
    if e ≤ 50 then 0 else min (p - e) (p / 200)

/-- PTP_TICK: under PTP a frame starts every P, lengthened for a phase correction (R18, R391); newFrame sets
PTP_HOLDOVER. -/
def execPtpTick (s : State) : Out :=
  .next (if s.mayStart && s.source = 1 && decide (s.frame.start + s.period + s.lengthening ≤ s.now) then
      s.startFrame s.now 0 0 0
    else s)

/-- SYNC_IN_EDGE: an active edge of a pulse that is seen starts a frame 80 ns later; one before the floor is only counted
(R19, R431). -/
def execSyncInEdge (rising : Bool) (width : Nat) (seen : Bool) (s : State) : Out :=
  .next (
    let active := decide ((s.inForce 0x4C0500 = 0) = (rising = true))
    if !s.active || s.source ≠ 2 || !active || !(decide (100 ≤ width) || (decide (40 ≤ width) && seen)) then s
    else if s.mayStart then (s.onFrame fun f => { f with syncMissing := false }).startFrame (s.now + 80) 0 0 0
    else s.bump 0x4C1005)

/-- SYNC_MISS: no edge within 2 P, or within P once edges are missing (R19). -/
def execSyncMiss (s : State) : Out :=
  .next (
    let p := if s.frame.syncMissing then s.period else 2 * s.period
    if s.mayStart && s.source = 2 && decide (s.frame.start + p ≤ s.now) then
      ((s.bump 0x4C1006).onFrame fun f => { f with syncMissing := true }).startFrame s.now 32 0 0
    else s)

/-- An angle event at instant t: a frame starts with it, or it waits for the floor in place of an older one (R20). -/
def State.angleArrives (s : State) (t : Nat) (count : Int) : State :=
  if s.mayStart && s.frame.pending.isNone then s.startFrame s.now 0 0 count
  else
    let drop := s.frame.pending.isSome
    let s := if drop then s.bump 0x4C1004 else s
    s.onFrame fun f => { f with pending := some (t, count, drop) }

/-- A filtered change of a Q input is counted; the edge may be an angle event (R20, R187). -/
def State.countEdge (s : State) (q : Nat) (x : Nat × Bool × Bool) : State :=
  let t := s.qChange q x.1 x.2.1 x.2.2
  match State.angleEvent s t q with
  | some (at_, n) => if s.active then t.angleArrives at_ n else t
  | none => t

/-- Q_EDGE: the levels at the balls of a Q input as they are now. Changes that have been stable for the filter time are counted
50 ns after it; the same levels again stand for that instant (R187, Table SENSE-1; log 164). -/
def execQEdge (q : Nat) (a b : Bool) (s : State) : Out :=
  .next (if s.husk.xtalStopped || s.reg (domReg 2 2) ≠ 1 then s
    else
      let f := s.inForce (qReg q 3)
      let tacho := decide (s.chanMode (16 + q) = 1)
      let c := (((s.chan (16 + q)).filterAll tacho f s.now).seen a b f s.now).filterAll tacho f s.now
      let due := c.edges.takeWhile fun x => decide (x.1 + f + 50 ≤ s.now)
      due.foldl (fun s x => s.countEdge q x) (s.onChan (16 + q) fun _ => { c with edges := c.edges.drop due.length }))

/-- ANGLE_LAG: the pending event's frame starts at the floor, and states its lag in 0.1 µs (R20). DEDUCED (log 137): the lag
counts from the instant at which the event would have started a frame, and is rounded to the nearest 0.1 µs, halves up: the
worked example's 227.295 µs is recorded as 2,273. -/
def execAngleLag (s : State) : Out :=
  .next (match s.frame.pending with
    | some (t, n, drop) =>
      if s.mayStart && s.source = 3 then
        ((s.bump 0x4C1003).onFrame fun f => { f with pending := none }).startFrame s.now (if drop then 12 else 4)
          (min 0xFFFF ((s.now - t + 50) / 100)) n
      else s
    | none => s)

/-- ANGLE_STALL: no event for 20 ms (R21). -/
def execAngleStall (s : State) : Out :=
  .next (if s.mayStart && s.source = 3 && s.frame.pending.isNone && decide (s.frame.start + 20000000 ≤ s.now) then
      s.startFrame s.now 16 0 s.frame.angle
    else s)

/-! Windows (R22 to R28) -/

/-- The window that comes next: the first after INTAKE, then in ascending window number. -/
def State.nextWindow (s : State) : Option (SegRec × Nat × Nat) :=
  match s.frame.phase with
  | .intake => s.spans.head?
  | .gap w => s.spans.find? fun x => decide (w < x.1.window)
  | _ => none

/-- Zero what a window uses on one cluster: activation buffer with its validity bits, length registers, the drain pip's
data memory (R24, R119, R123, R384). -/
def State.clearForWindow (s : State) (p c : Nat) : State :=
  let s := s.onWalker c fun w => { w with buffer := [], valid := [], lens := List.replicate 16 0 }
  let s := s.onPip (4 + c) fun x => { x with data := [] }
  s.onClu c fun x => { x with lastParty := some p }

/-- WINDOW_CLEAR: the next window begins with its clear. -/
def execWindowClear (s : State) : Out :=
  .next (match s.nextWindow with
    | some x =>
      if !s.active || decide (s.now < s.frame.start + x.2.1) then s
      else
        let t := (maskClusters (s.partyClusters x.1.party)).foldl
          (fun (s : State) c => s.clearForWindow x.1.party c) s
        t.onFrame fun f => { f with phase := .clear x.1.window }
    | none => s)

/-- Segment code starts at a bundle with every register zero (R123). -/
def State.enterSegment (s : State) (g pc : Nat) : State :=
  s.onCore fun c =>
    { c with regs := List.replicate 64 0, handles := List.replicate 16 0, pc := pc, cycle := 0, entry := s.now, seg := some g,
             writes := [], bundle := Bundle.blank, wait := none, issued := [], descExc := 0 }

/-- SEGMENT_ENTRY: 2 µs after the window's start the core runs the segment's variant; an idle window runs no code. -/
def execSegmentEntry (s : State) : Out :=
  .next (match s.frame.phase with
    | .clear w =>
      match s.spanOf w with
      | some x =>
        if !s.active || decide (s.now < s.frame.start + x.2.1 + 2000) then s
        else
          let t := s.onFrame fun f => { f with phase := .window w }
          match s.segRun x.1.seg, s.segImg x.1.seg with
          | .runs v, some img =>
            match img.entries.getD v none with
            | some e => t.enterSegment x.1.seg e.1
            | none => t
          | _, _ => t
      | none => s
    | _ => s)

/-- What is left on a cluster at its window's end is abandoned, with its drain pip's run. -/
def State.cutCluster (s : State) (c : Nat) : State :=
  let w := s.walker c
  let s := s.dropAhead c
  if (w.running.isSome && w.job.isNone) || !w.queue.isEmpty then
    (s.onPip (4 + c) fun x => { x with running := false }).abandonCluster c
  else s

/-- Consecutive overruns of a segment: one more, or none; a third one waits for its fault (R28). -/
def State.countOverrun (s : State) (g : Nat) : State :=
  s.onFrame fun f =>
    { f with overruns := upd f.overruns g fun n => if f.overrun.testBit g then n + 1 else if 3 ≤ n then n else 0 }

/-- WINDOW_END: running code takes WINDOW_CUT, which counts as an overrun; unfinished instructions are abandoned (R26,
R137). -/
def execWindowEnd (s : State) : Out :=
  .next (match s.frame.phase with
    | .window w =>
      match s.spanOf w with
      | some x =>
        if !s.active || decide (s.now < s.frame.start + x.2.2) then s
        else
          let g := x.1.seg
          let s := s.arrive true
          let t := if s.core.seg = some g then (s.coreStop excWindowCut).markOverrun g else s
          let t := ((List.range 8).foldl State.cutCluster t).settleStop
          (t.countOverrun g).onFrame fun f => { f with phase := .gap w }
      | none => s
    | _ => s)

/-- The first cluster on which a segment places work. -/
def State.firstCluster (s : State) (g : Nat) : Nat :=
  match s.segImg g with
  | some img => ((maskClusters (segClusters img)).head?).getD 0
  | none => 0

/-- TIMING_FAULT: the third consecutive overrun raises a record and lowers the timing ceiling by one tier, at most to T3
(R28). -/
def execTimingFault (seg : Nat) (s : State) : Out :=
  .next (if s.active && decide (3 ≤ s.frame.overruns.getD seg 0) then
      let t := s.fault clsTiming 1 (unitCluster (s.firstCluster seg)) (s.segParty seg) seg
      let t := t.setReg 0x4C0A03 (min 3 (t.reg 0x4C0A03 + 1))
      t.onFrame fun f => { f with overruns := setAt f.overruns seg 0 }
    else s)

/-! PUBLISH (R27, R34, R36, R168, R316) -/

/-- The replica ID of a record built from pooled output: of the pooled tile that wrote the payload's first byte, else of the
first that wrote any of it (R96; log 16). -/
def State.pooledReplica (s : State) (d : StreamD) : Option Nat :=
  let ms := s.pool.pooled.filter fun m =>
    m.ctx = d.ctx && decide (d.payAddr < m.addr + m.size ∧ m.addr < d.payAddr + d.payLen)
  ((ms.find? fun m => decide (m.addr ≤ d.payAddr)).or ms.head?).map (·.cluster)

/-- The 40-byte header of a record (Table FRAME-3). -/
def State.recordHeader (s : State) (img : SegImage) (d : StreamD) (flags len replica : Nat) : List Byte :=
  leBytes 2 d.id ++ leBytes 1 (img.party % 16) ++ leBytes 1 (s.tier % 4 + 4 * (s.ballast % 4) + 16 * (s.source % 8)) ++
    leBytes 8 s.frame.number ++ leBytes 8 s.frame.tickTime ++ leBytes 4 (s.reg 0x300000) ++ leBytes 4 (s.reg 0x310003) ++
    leBytes 2 flags ++ leBytes 2 len ++ leBytes 4 (unsignedOf 32 s.frame.angle) ++ leBytes 2 s.frame.lag ++
    leBytes 1 img.hdr.segment ++ leBytes 1 replica

/-- A record's payload contains output bytes that carry LATE or CLIP, or its segment's records do (R27, R116). -/
def State.outFlagged (s : State) (late : Bool) (g : Nat) (d : StreamD) : Bool :=
  (if late then s.frame.late else s.frame.clip).testBit g ||
    s.pool.marks.any fun m => m.late = late && m.ctx = d.ctx &&
      decide (d.payAddr < m.addr + m.size ∧ m.addr < d.payAddr + d.payLen)

/-- The flags of a record (Table FRAME-4); a skipped record has no payload. -/
def State.recordFlags (s : State) (g : Nat) (d : StreamD) (skipped faulty pooled : Bool) : Nat :=
  let bit (i : Nat) (b : Bool) : Nat := if b then 2 ^ i else 0
  bit 0 (!skipped && s.outFlagged true g d) + bit 1 (s.frame.tierStreams.contains d.id) + s.frame.flags.toNat % 256 / 4 * 4 +
    bit 8 (faulty || s.frame.fault.testBit g) + bit 9 (!skipped && s.outFlagged false g d) + bit 10 (s.frame.sus.testBit g) +
    bit 12 pooled + bit 13 skipped

/-- Payload and mask of a stream, read from its context (R168). -/
def State.recordBody (s : State) (p : Nat) (d : StreamD) : List Byte :=
  (s.readCtx p d.ctx d.payAddr d.payLen).2 ++
    (if d.inclMask then (s.readCtx p d.ctx d.maskAddr d.maskLen).2 else [])

/-- One record, handed to its port. A segment that does not run in this frame publishes SKIPPED with an empty payload, with
FAULT when a cluster is down; one whose context is revoked publishes nothing (R29, R275, R311, R329). -/
def State.publishOne (s : State) (img : SegImage) (d : StreamD) : State :=
  let g := img.hdr.segment
  let seen (s : State) : State := s.onFrame fun f => { f with tierStreams := f.tierStreams.filter (· ≠ d.id) }
  match s.segRun g with
  | .revoked => s
  | .runs _ =>
    let rep := s.pooledReplica d
    let body := s.recordBody img.party d
    let h := s.recordHeader img d (s.recordFlags g d false false rep.isSome) body.length (rep.getD 0xFF)
    seen (((s.charge img.party d.ctx (lineCount d.payAddr d.payLen) true)).sendRecord img.party d (h ++ body))
  | .tierIdle =>
    seen (s.sendRecord img.party d (s.recordHeader img d (s.recordFlags g d true false false) 0 0xFF))
  | .downIdle =>
    seen (s.sendRecord img.party d (s.recordHeader img d (s.recordFlags g d true true false) 0 0xFF))

/-- The streams that emit a record in this frame, in ascending stream ID (R34, R212). -/
def State.dueStreams (s : State) : List (SegImage × StreamD) :=
  match s.loader.plan with
  | some p =>
    sortBy (fun (x : SegImage × StreamD) => x.2.id) ((p.segs.flatMap fun g => g.streams.map fun d => (g, d)).filter fun x =>
      decide (s.frame.number % max 1 x.2.d = x.2.phase))
  | none => []

/-- Every record that waits for a PUBLISH becomes a FAULT event of the parties entitled to it (R315, R316). -/
def State.queueFaults (s : State) : State :=
  let t : State := { s with integ := { s.integ with toSend := [] } }
  s.integ.toSend.foldl (fun (s : State) r =>
    (List.range 16).foldl (fun (s : State) p =>
      if p = 0 ∨ r.party = p ∨ r.party = noParty then s.event p 3 0 (recBytes r) else s) s) t

/-- The tier change is announced to every party (R31, Table NET-5). -/
def State.announceTier (s : State) : State :=
  match s.frame.tierEvent with
  | some (was, new, why) =>
    (s.onFrame fun f => { f with tierEvent := none }).eventAll 1
      (leBytes 1 was ++ leBytes 1 new ++ leBytes 1 why ++ leBytes 1 0 ++ leBytes 8 s.frame.number)
  | none => s

/-- The windows are over: the last one has ended, or the plan has none. -/
def State.computeOver (s : State) : Bool :=
  match s.frame.phase with
  | .intake => s.spans.isEmpty
  | .gap w => s.spans.all fun x => decide (x.1.window ≤ w)
  | _ => false

/-- PUBLISH: due records in ascending stream ID, then the frame's events (R31, R34, R316, R330). -/
def execPublish (s : State) : Out :=
  .next (if !s.active || !s.computeOver || decide (s.now < s.frame.start + s.computeEnd) then s
    else
      let s := s.onFrame fun f => { f with phase := .publish }
      if s.pool.closed then s
      else
        let s := s.countBacklogs
        let s := s.dueStreams.foldl (fun (s : State) x => s.publishOne x.1 x.2) s
        s.announceTier.queueFaults.flushEvents)

/-! KEEP (R32, R241) -/

/-- KEEP: settings from here on wait for the tick after the next; trims, drift reads, swaps, calibrations and tests are
staged. `errs` are the conversion errors in winnow's digital row, by column. -/
def execKeep (errs : List (Nat × Int)) (s : State) : Out :=
  .next (if !s.active || s.frame.phase ≠ .publish || decide (s.now < s.frame.start + s.keepStart) then s
    else
      let s := s.onFrame fun f => { f with phase := .keep, keepOd := s.od, slotsDone := 0, tasksDone := 0 }
      let s := (s.stageRamps.evalAfes.planLifts.driftVisit.winnowRowRead errs).saveHistories
      s.stageSwaps.stageTest.startPowerUps)

/-- KEEP_PARTY_SLOT: the slot of party p, 0.75 µs each from KEEP's start, once in a frame (R265). -/
def execKeepPartySlot (p : Nat) (s : State) : Out :=
  .next (if !s.active || s.frame.phase ≠ .keep || s.pool.closed || s.frame.slotsDone.testBit p || decide (16 ≤ p) ||
      decide (s.now < s.frame.start + s.keepStart + 750 * p) then s
    else (s.onFrame fun f => { f with slotsDone := setBit f.slotsDone p }).partySlot p)

/-- The pod that a rotation slice programs or calibrates. BULK programs outside the slice (R51, R313). -/
def State.slicePod (s : State) : Option Nat :=
  match (List.range 40).find? fun i => decide ((s.pod i).calLeft ≠ 0) with
  | some i => some i
  | none => if s.reg 0x300300 < 40 && !s.clusterFree (s.reg 0x300300 / 5) then some (s.reg 0x300300) else none

/-- No MVM runs in a pod's cluster until the rotation slice ends (02 R51). -/
def State.holdSlice (s : State) (pod : Option Nat) : State :=
  match pod with
  | some i => s.onClu (i / 5) fun x =>
      { x with sliceUntil := s.frame.start + s.keepStart + 2000 + s.inForce 0x300200 * 1000 }
  | none => s

/-- ROTATION_SLICE: from 2 µs of KEEP, programming or calibration of the spare; a slice that nothing uses takes winnow's
vector (R32, R51, R66, R313). -/
def execRotationSlice (a b : CalMeas) (refs : List Nat) (s : State) : Out :=
  .next (if !s.sliceOpen then s
    else
      let s := s.onFrame fun f => { f with tasksDone := setBit f.tasksDone 1 }
      let t := s.rotationSlice a b refs
      let pod := s.slicePod <|> t.slicePod
      if pod.isSome then t.holdSlice pod else t.winnowVector)

/-! SAFE and sprout -/

/-- SAFE_ENTRY: 2.5 ms after the orderly shutdown; its events leave at once (R330, R338). -/
def execSafeEntry (s : State) : Out :=
  .next (match s.husk.safeAt with
    | some t => if s.now < t ∨ s.husk.xtalStopped then s else (s.queueFaults.enterSafe).flushEvents
    | none => s)

/-- COOL_DOWN: below 100 °C for 10 s, SAFE ends by the warm path, with its POWER_STATE event of cause 4 (R330, R339). -/
def execCoolDown (s : State) : Out :=
  .next (match s.husk.coolSince with
    | some t =>
      if s.husk.power ≠ .safe ∨ s.now < t + 10000000000 ∨ s.husk.xtalStopped ∨ s.store.lostAt.isSome then s
      else
        ((s.eventAll 8 (leBytes 1 5 ++ leBytes 1 1 ++ leBytes 1 4 ++ leBytes 1 0 ++
          leBytes 8 0xFFFFFFFFFFFFFFFF)).flushEvents).warmSprout
    | none => s)

/-- A sprout goes on: supply and input power, no reset pending, not in recovery (R363, R385, R387, R392). -/
def State.sproutRuns (s : State) : Bool :=
  s.husk.supply && s.husk.power = .sprout && !s.husk.nrstLow && s.husk.resetAt.isNone && !s.husk.recovery &&
    s.store.lostAt.isNone && !(s.husk.xtalStopped && decide (2 ≤ s.husk.stage))

/-- SPROUT_STAGE_END: the running stage ends; requests held for the pool are answered after MEMORY, and PLAN ends with the
tick of frame 0 (R385 to R391). -/
def execSproutStageEnd (x : StageEnv) (s : State) : Out :=
  .next (if !s.sproutRuns then s
    else if s.husk.stage < 7 then
      let t := s.stageEnd x
      if s.husk.stage = 4 then t.answerHeld else t
    else (s.planStage x).startFrame s.now 0 0 0)

end Sys2Proof.Machine
end

