-- ==== Sys2Proof/Machine/Pips.lean ====
section
/-! DEFINITION. The operations of the pip machine (Table PIP-2) and the stops by budget and time (R142, R147, R197). -/

namespace Sys2Proof.Machine

open Sys2Proof

def execPipNop (e : Nat) (w : PipFields) (s : State) : Out :=
  s.pipDo e (w.d = 0 && w.a = 0 && w.b = 0 && w.imm = 0) fun s => s.pipNext e
def execPipAdd (e : Nat) (w : PipFields) (s : State) : Out := s.pipAlu e w 1 fun a b => a + b
def execPipSub (e : Nat) (w : PipFields) (s : State) : Out := s.pipAlu e w 1 fun a b => a - b
def execPipAnd (e : Nat) (w : PipFields) (s : State) : Out := s.pipAlu e w 1 fun a b => a &&& b
def execPipOr (e : Nat) (w : PipFields) (s : State) : Out := s.pipAlu e w 1 fun a b => a ||| b
def execPipXor (e : Nat) (w : PipFields) (s : State) : Out := s.pipAlu e w 1 fun a b => a ^^^ b
def execPipShl (e : Nat) (w : PipFields) (s : State) : Out := s.pipAlu e w 1 fun a b => a <<< shiftCount b
def execPipShr (e : Nat) (w : PipFields) (s : State) : Out := s.pipAlu e w 1 fun a b => a >>> shiftCount b
def execPipSar (e : Nat) (w : PipFields) (s : State) : Out := s.pipAlu e w 1 fun a b => a.sshiftRight (shiftCount b)
/-- MUL has a latency of 2 cycles (R141). -/
def execPipMul (e : Nat) (w : PipFields) (s : State) : Out := s.pipAlu e w 2 fun a b => a * b
def execPipMin (e : Nat) (w : PipFields) (s : State) : Out := s.pipAlu e w 1 minWord
def execPipMax (e : Nat) (w : PipFields) (s : State) : Out := s.pipAlu e w 1 maxWord
def execPipSlt (e : Nat) (w : PipFields) (s : State) : Out := s.pipAlu e w 1 sltWord
def execPipAddi (e : Nat) (w : PipFields) (s : State) : Out := s.pipImm e w fun a b => a + b
def execPipAndi (e : Nat) (w : PipFields) (s : State) : Out := s.pipImm e w fun a b => a &&& b
def execPipOri (e : Nat) (w : PipFields) (s : State) : Out := s.pipImm e w fun a b => a ||| b
def execPipShli (e : Nat) (w : PipFields) (s : State) : Out := s.pipImm e w fun a b => a <<< shiftCount b
def execPipShri (e : Nat) (w : PipFields) (s : State) : Out := s.pipImm e w fun a b => a >>> shiftCount b
def execPipSari (e : Nat) (w : PipFields) (s : State) : Out := s.pipImm e w fun a b => a.sshiftRight (shiftCount b)
/-- LUI uses no source register: a and b are zero. -/
def execLui (e : Nat) (w : PipFields) (s : State) : Out :=
  s.pipDo e (w.a = 0 && w.b = 0) fun s => (s.pipWrite e 1 w.d (w.imm.setWidth 32 <<< 18)).pipNext e
def execPipLdw (e : Nat) (w : PipFields) (s : State) : Out := s.pipLoad e w 4 fun bs => BitVec.ofNat 32 (leNat bs)
def execLdh (e : Nat) (w : PipFields) (s : State) : Out :=
  s.pipLoad e w 2 fun bs => (BitVec.ofNat 16 (leNat bs)).signExtend 32
def execLdb (e : Nat) (w : PipFields) (s : State) : Out :=
  s.pipLoad e w 1 fun bs => (BitVec.ofNat 8 (leNat bs)).signExtend 32
def execPipStw (e : Nat) (w : PipFields) (s : State) : Out := s.pipSt e w 4
def execPipSth (e : Nat) (w : PipFields) (s : State) : Out := s.pipSt e w 2
def execPipStb (e : Nat) (w : PipFields) (s : State) : Out := s.pipSt e w 1
def execPipBeq (e : Nat) (w : PipFields) (s : State) : Out := s.pipBranch e w fun a b => a = b
def execPipBne (e : Nat) (w : PipFields) (s : State) : Out := s.pipBranch e w fun a b => a ≠ b
def execPipBlt (e : Nat) (w : PipFields) (s : State) : Out := s.pipBranch e w fun a b => a.slt b
def execPipBge (e : Nat) (w : PipFields) (s : State) : Out := s.pipBranch e w fun a b => !a.slt b

/-- DBNZ decrements its counter and branches while it is not zero. -/
def execDbnz (e : Nat) (w : PipFields) (s : State) : Out :=
  s.pipDo e (w.a = 0 && w.b = 0) fun s =>
    let v := s.pipReg e w.d - 1
    let s := s.pipWrite e 1 w.d v
    if v ≠ 0 then s.pipGo e ((s.pip e).pc + w.imm.toInt) 2 else s.pipNext e

/-- HALT ends the run. -/
def execHalt (e : Nat) (w : PipFields) (s : State) : Out :=
  s.pipDo e (w.d = 0 && w.a = 0 && w.b = 0 && w.imm = 0) fun s =>
    let s := s.onPip e fun p => { p with steps := p.steps + 1, cycle := p.cycle + 1 }
    let s := if e < 4 then
        let k := okey (0x2840 + e) 4
        let t := (s.pip e).cycle * 5
        let s := if s.reg k < t then s.setReg k t else s
        let pk := pkey (s.segParty (s.pip e).seg) k
        if s.reg pk < t then s.setReg pk t else s
      else s
    s.pipHalt e

/-- The opcodes of Table PIP-2. -/
def pipOps : List Nat :=
  List.range 13 ++ [0x11, 0x13, 0x14, 0x16, 0x17, 0x18, 0x1A, 0x20, 0x21, 0x22, 0x24, 0x25, 0x26, 0x30, 0x31, 0x32, 0x33, 0x34,
    0x3F]

/-- R125, R140: a reserved or misplaced opcode stops the segment, or the run of a pip with ILLEGAL. -/
def execIllegalOp (place : OpPlace) (op : Nat) (s : State) : Out :=
  match place with
  | .core sl => s.slot ((slotOps sl).contains op) fun s _ => s
  | .pip e => s.pipDo e (pipOps.contains op) fun s => s

/-- R142: an engine that has executed its budget without HALT stops with STEP_LIMIT. -/
def execStepLimit (e : Nat) (s : State) : Out :=
  let p := s.pip e
  .next (if p.running && decide (((p.image.map (·.budget)).getD 0) ≤ p.steps) then s.pipStop e pxSteps else s)

/-- R147, R197: an intake or drain run still going at its start plus its certified run time stops with TIME_LIMIT. -/
def execTimeLimit (e : Nat) (s : State) : Out :=
  let p := s.pip e
  .next (if p.running && s.pipLate e then s.pipStop e pxTime else s)

end Sys2Proof.Machine
end

