-- ==== Sys2Proof/Machine/Dispatch.lean ====
section
/-! DEFINITION. One arm for each command: the meaning it calls. -/

namespace Sys2Proof.Machine

open Sys2Proof

def exec (i : Instr) (s : State) : Host.Outcome State Fault Refusal :=
  match i with
  | .tick => Sys2Proof.Machine.execTick s
  | .ptpTick => Sys2Proof.Machine.execPtpTick s
  | .syncInEdge rising width seen => Sys2Proof.Machine.execSyncInEdge rising width seen s
  | .syncMiss => Sys2Proof.Machine.execSyncMiss s
  | .angleLag => Sys2Proof.Machine.execAngleLag s
  | .angleStall => Sys2Proof.Machine.execAngleStall s
  | .windowClear => Sys2Proof.Machine.execWindowClear s
  | .segmentEntry => Sys2Proof.Machine.execSegmentEntry s
  | .windowEnd => Sys2Proof.Machine.execWindowEnd s
  | .timingFault seg => Sys2Proof.Machine.execTimingFault seg s
  | .publish => Sys2Proof.Machine.execPublish s
  | .keep errs => Sys2Proof.Machine.execKeep errs s
  | .keepPartySlot p => Sys2Proof.Machine.execKeepPartySlot p s
  | .rotationSlice a b refs => Sys2Proof.Machine.execRotationSlice a b refs s
  | .bistSlice pass detail => Sys2Proof.Machine.execBistSlice pass detail s
  | .framePeriodWrite r v => Sys2Proof.Machine.execFramePeriodWrite r v s
  | .intakeLengthWrite r v => Sys2Proof.Machine.execIntakeLengthWrite r v s
  | .timingClear r v => Sys2Proof.Machine.execTimingClear r v s
  | .fetchSlot c errs => Sys2Proof.Machine.execFetchSlot c errs s
  | .fetchDelivered c => Sys2Proof.Machine.execFetchDelivered c s
  | .programComplete pass compensated => Sys2Proof.Machine.execProgramComplete pass compensated s
  | .swapDue c => Sys2Proof.Machine.execSwapDue c s
  | .rotationIntervalWrite r v => Sys2Proof.Machine.execRotationIntervalWrite r v s
  | .rotateNow r c v => Sys2Proof.Machine.execRotateNow r c v s
  | .calibrateNow r pod v => Sys2Proof.Machine.execCalibrateNow r pod v s
  | .driftRatio pod => Sys2Proof.Machine.execDriftRatio pod s
  | .afeCalDue idx => Sys2Proof.Machine.execAfeCalDue idx s
  | .afeCalibrateNow r idx v => Sys2Proof.Machine.execAfeCalibrateNow r idx v s
  | .afeCalStep a b => Sys2Proof.Machine.execAfeCalStep a b s
  | .afeCalEnd offRes gainRes => Sys2Proof.Machine.execAfeCalEnd offRes gainRes s
  | .referenceMeasure u pairs => Sys2Proof.Machine.execReferenceMeasure u pairs s
  | .oscillatorTrim pairs => Sys2Proof.Machine.execOscillatorTrim pairs s
  | .compensationEval => Sys2Proof.Machine.execCompensationEval s
  | .trimRestore r unit data => Sys2Proof.Machine.execTrimRestore r unit data s
  | .instructionStart c => Sys2Proof.Machine.execInstructionStart c s
  | .tileCommit c ecc => Sys2Proof.Machine.execTileCommit c ecc s
  | .tileComplete c bad => Sys2Proof.Machine.execTileComplete c bad s
  | .macroInstructionComplete c => Sys2Proof.Machine.execMacroInstructionComplete c s
  | .jobPause r j => Sys2Proof.Machine.execJobPause r j s
  | .jobResume r j => Sys2Proof.Machine.execJobResume r j s
  | .nop sl => Sys2Proof.Machine.execNop sl s
  | .add sl f => Sys2Proof.Machine.execAdd sl f s
  | .sub sl f => Sys2Proof.Machine.execSub sl f s
  | .and sl f => Sys2Proof.Machine.execAnd sl f s
  | .or sl f => Sys2Proof.Machine.execOr sl f s
  | .xor sl f => Sys2Proof.Machine.execXor sl f s
  | .shl sl f => Sys2Proof.Machine.execShl sl f s
  | .shr sl f => Sys2Proof.Machine.execShr sl f s
  | .sar sl f => Sys2Proof.Machine.execSar sl f s
  | .slt sl f => Sys2Proof.Machine.execSlt sl f s
  | .sltu sl f => Sys2Proof.Machine.execSltu sl f s
  | .min sl f => Sys2Proof.Machine.execMin sl f s
  | .max sl f => Sys2Proof.Machine.execMax sl f s
  | .addi sl f => Sys2Proof.Machine.execAddi sl f s
  | .andi sl f => Sys2Proof.Machine.execAndi sl f s
  | .ori sl f => Sys2Proof.Machine.execOri sl f s
  | .shli sl f => Sys2Proof.Machine.execShli sl f s
  | .shri sl f => Sys2Proof.Machine.execShri sl f s
  | .sari sl f => Sys2Proof.Machine.execSari sl f s
  | .slti sl f => Sys2Proof.Machine.execSlti sl f s
  | .movi sl f => Sys2Proof.Machine.execMovi sl f s
  | .movhi sl f => Sys2Proof.Machine.execMovhi sl f s
  | .ldw sl f => Sys2Proof.Machine.execLdw sl f s
  | .ldhu sl f => Sys2Proof.Machine.execLdhu sl f s
  | .ldbu sl f => Sys2Proof.Machine.execLdbu sl f s
  | .stw sl f => Sys2Proof.Machine.execStw sl f s
  | .sth sl f => Sys2Proof.Machine.execSth sl f s
  | .stb sl f => Sys2Proof.Machine.execStb sl f s
  | .mul sl f => Sys2Proof.Machine.execMul sl f s
  | .mulh sl f => Sys2Proof.Machine.execMulh sl f s
  | .mulhu sl f => Sys2Proof.Machine.execMulhu sl f s
  | .issue sl f => Sys2Proof.Machine.execIssue sl f s
  | .issuei sl f => Sys2Proof.Machine.execIssuei sl f s
  | .fadv sl f => Sys2Proof.Machine.execFadv sl f s
  | .fadvf sl f => Sys2Proof.Machine.execFadvf sl f s
  | .fenceAdvancePerformed => Sys2Proof.Machine.execFenceAdvancePerformed s
  | .hset sl f => Sys2Proof.Machine.execHset sl f s
  | .hseti sl f => Sys2Proof.Machine.execHseti sl f s
  | .hadd sl f => Sys2Proof.Machine.execHadd sl f s
  | .hget sl f => Sys2Proof.Machine.execHget sl f s
  | .lset sl f => Sys2Proof.Machine.execLset sl f s
  | .lseti sl f => Sys2Proof.Machine.execLseti sl f s
  | .lget sl f => Sys2Proof.Machine.execLget sl f s
  | .stat sl f => Sys2Proof.Machine.execStat sl f s
  | .bstb sl f => Sys2Proof.Machine.execBstb sl f s
  | .bsth sl f => Sys2Proof.Machine.execBsth sl f s
  | .br sl f => Sys2Proof.Machine.execBr sl f s
  | .beq sl f => Sys2Proof.Machine.execBeq sl f s
  | .bne sl f => Sys2Proof.Machine.execBne sl f s
  | .blt sl f => Sys2Proof.Machine.execBlt sl f s
  | .bge sl f => Sys2Proof.Machine.execBge sl f s
  | .call sl f => Sys2Proof.Machine.execCall sl f s
  | .jr sl f => Sys2Proof.Machine.execJr sl f s
  | .endw sl f => Sys2Proof.Machine.execEndw sl f s
  | .waitto sl f => Sys2Proof.Machine.execWaitto sl f s
  | .waitc sl f => Sys2Proof.Machine.execWaitc sl f s
  | .waitf sl f => Sys2Proof.Machine.execWaitf sl f s
  | .waitEnd => Sys2Proof.Machine.execWaitEnd s
  | .illegalOp place op => Sys2Proof.Machine.execIllegalOp place op s
  | .pipNop e w => Sys2Proof.Machine.execPipNop e w s
  | .pipAdd e w => Sys2Proof.Machine.execPipAdd e w s
  | .pipSub e w => Sys2Proof.Machine.execPipSub e w s
  | .pipAnd e w => Sys2Proof.Machine.execPipAnd e w s
  | .pipOr e w => Sys2Proof.Machine.execPipOr e w s
  | .pipXor e w => Sys2Proof.Machine.execPipXor e w s
  | .pipShl e w => Sys2Proof.Machine.execPipShl e w s
  | .pipShr e w => Sys2Proof.Machine.execPipShr e w s
  | .pipSar e w => Sys2Proof.Machine.execPipSar e w s
  | .pipMul e w => Sys2Proof.Machine.execPipMul e w s
  | .pipMin e w => Sys2Proof.Machine.execPipMin e w s
  | .pipMax e w => Sys2Proof.Machine.execPipMax e w s
  | .pipSlt e w => Sys2Proof.Machine.execPipSlt e w s
  | .pipAddi e w => Sys2Proof.Machine.execPipAddi e w s
  | .pipAndi e w => Sys2Proof.Machine.execPipAndi e w s
  | .pipOri e w => Sys2Proof.Machine.execPipOri e w s
  | .pipShli e w => Sys2Proof.Machine.execPipShli e w s
  | .pipShri e w => Sys2Proof.Machine.execPipShri e w s
  | .pipSari e w => Sys2Proof.Machine.execPipSari e w s
  | .lui e w => Sys2Proof.Machine.execLui e w s
  | .pipLdw e w => Sys2Proof.Machine.execPipLdw e w s
  | .ldh e w => Sys2Proof.Machine.execLdh e w s
  | .ldb e w => Sys2Proof.Machine.execLdb e w s
  | .pipStw e w => Sys2Proof.Machine.execPipStw e w s
  | .pipSth e w => Sys2Proof.Machine.execPipSth e w s
  | .pipStb e w => Sys2Proof.Machine.execPipStb e w s
  | .pipBeq e w => Sys2Proof.Machine.execPipBeq e w s
  | .pipBne e w => Sys2Proof.Machine.execPipBne e w s
  | .pipBlt e w => Sys2Proof.Machine.execPipBlt e w s
  | .pipBge e w => Sys2Proof.Machine.execPipBge e w s
  | .dbnz e w => Sys2Proof.Machine.execDbnz e w s
  | .halt e w => Sys2Proof.Machine.execHalt e w s
  | .stepLimit e => Sys2Proof.Machine.execStepLimit e s
  | .timeLimit e => Sys2Proof.Machine.execTimeLimit e s
  | .lift c => Sys2Proof.Machine.execLift c s
  | .liftEnd c errs => Sys2Proof.Machine.execLiftEnd c errs s
  | .setDownCheck c errs => Sys2Proof.Machine.execSetDownCheck c errs s
  | .loadRequest r ctx addr => Sys2Proof.Machine.execLoadRequest r ctx addr s
  | .verificationComplete aux => Sys2Proof.Machine.execVerificationComplete aux s
  | .abort r v => Sys2Proof.Machine.execAbort r v s
  | .unload r v => Sys2Proof.Machine.execUnload r v s
  | .updateRequest r ctx addr => Sys2Proof.Machine.execUpdateRequest r ctx addr s
  | .consolidate r v => Sys2Proof.Machine.execConsolidate r v s
  | .sampleReady ch code instant beyond openIn => Sys2Proof.Machine.execSampleReady ch code instant beyond openIn s
  | .overloadStart ch positive => Sys2Proof.Machine.execOverloadStart ch positive s
  | .overloadEnd ch => Sys2Proof.Machine.execOverloadEnd ch s
  | .biasStateChange ch readings supply => Sys2Proof.Machine.execBiasStateChange ch readings supply s
  | .qEdge q a b => Sys2Proof.Machine.execQEdge q a b s
  | .channelConfigWrite r ch sub v => Sys2Proof.Machine.execChannelConfigWrite r ch sub v s
  | .intakeJob seg job => Sys2Proof.Machine.execIntakeJob seg job s
  | .frameReceived x => Sys2Proof.Machine.execFrameReceived x s
  | .classifierRun => Sys2Proof.Machine.execClassifierRun s
  | .classifierImageWrite r data => Sys2Proof.Machine.execClassifierImageWrite r data s
  | .bindingWrite r p sub v => Sys2Proof.Machine.execBindingWrite r p sub v s
  | .plcaInactive => Sys2Proof.Machine.execPlcaInactive s
  | .beacon => Sys2Proof.Machine.execBeacon s
  | .jabber port => Sys2Proof.Machine.execJabber port s
  | .linkChange port st => Sys2Proof.Machine.execLinkChange port st s
  | .portClear r u v => Sys2Proof.Machine.execPortClear r u v s
  | .sync src gm origin every peer => Sys2Proof.Machine.execSync src gm origin every peer s
  | .syncLoss => Sys2Proof.Machine.execSyncLoss s
  | .odRead r index sub offset => Sys2Proof.Machine.execOdRead r index sub offset s
  | .odWrite r index sub offset data => Sys2Proof.Machine.execOdWrite r index sub offset data s
  | .ack p seq => Sys2Proof.Machine.execAck p seq s
  | .hello r ip udp => Sys2Proof.Machine.execHello r ip udp s
  | .echo r data => Sys2Proof.Machine.execEcho r data s
  | .discover port => Sys2Proof.Machine.execDiscover port s
  | .bye r => Sys2Proof.Machine.execBye r s
  | .eventResend p => Sys2Proof.Machine.execEventResend p s
  | .usdoUpload node index sub service => Sys2Proof.Machine.execUsdoUpload node index sub service s
  | .usdoDownload node index sub first last data => Sys2Proof.Machine.execUsdoDownload node index sub first last data s
  | .usdoTimeout node => Sys2Proof.Machine.execUsdoTimeout node s
  | .nmtCommand => Sys2Proof.Machine.execNmtCommand s
  | .heartbeat => Sys2Proof.Machine.execHeartbeat s
  | .snapshotExpiry p => Sys2Proof.Machine.execSnapshotExpiry p s
  | .stagingExpiry p => Sys2Proof.Machine.execStagingExpiry p s
  | .vaultCommit => Sys2Proof.Machine.execVaultCommit s
  | .restoreDefaults r v => Sys2Proof.Machine.execRestoreDefaults r v s
  | .disagree index sub => Sys2Proof.Machine.execDisagree index sub s
  | .clearLog r v => Sys2Proof.Machine.execClearLog r v s
  | .roleWrite r p v => Sys2Proof.Machine.execRoleWrite r p v s
  | .allotmentWrite r p sub v data => Sys2Proof.Machine.execAllotmentWrite r p sub v data s
  | .revoke r p v => Sys2Proof.Machine.execRevoke r p v s
  | .residencyTimeout p => Sys2Proof.Machine.execResidencyTimeout p s
  | .cmdNop c q => Sys2Proof.Machine.execCmdNop c q s
  | .ctxCreate c q => Sys2Proof.Machine.execCtxCreate c q s
  | .ctxDestroy c q => Sys2Proof.Machine.execCtxDestroy c q s
  | .map c q => Sys2Proof.Machine.execMap c q s
  | .unmap c q => Sys2Proof.Machine.execUnmap c q s
  | .queueCreate c q => Sys2Proof.Machine.execQueueCreate c q s
  | .queueDestroy c q => Sys2Proof.Machine.execQueueDestroy c q s
  | .fenceCreate c q => Sys2Proof.Machine.execFenceCreate c q s
  | .fenceAdvance c q => Sys2Proof.Machine.execFenceAdvance c q s
  | .fenceWait c q => Sys2Proof.Machine.execFenceWait c q s
  | .fenceWaitComplete c q => Sys2Proof.Machine.execFenceWaitComplete c q s
  | .fenceExport c q => Sys2Proof.Machine.execFenceExport c q s
  | .fenceRevoke c q => Sys2Proof.Machine.execFenceRevoke c q s
  | .fenceDestroy c q => Sys2Proof.Machine.execFenceDestroy c q s
  | .jobStart c q => Sys2Proof.Machine.execJobStart c q s
  | .jobCancel c q => Sys2Proof.Machine.execJobCancel c q s
  | .mirrorTableWrite r data => Sys2Proof.Machine.execMirrorTableWrite r data s
  | .mirrorPoll m status value => Sys2Proof.Machine.execMirrorPoll m status value s
  | .poolRead r x ecc => Sys2Proof.Machine.execPoolRead r x ecc s
  | .poolWrite r x => Sys2Proof.Machine.execPoolWrite r x s
  | .hold r x => Sys2Proof.Machine.execHold r x s
  | .renew r x => Sys2Proof.Machine.execRenew r x s
  | .release r x => Sys2Proof.Machine.execRelease r x s
  | .clear r x => Sys2Proof.Machine.execClear r x s
  | .fadd r x => Sys2Proof.Machine.execFadd r x s
  | .cas r x => Sys2Proof.Machine.execCas r x s
  | .poolMax r x => Sys2Proof.Machine.execPoolMax r x s
  | .poolFenceAdvance r x => Sys2Proof.Machine.execPoolFenceAdvance r x s
  | .fenceRead r x => Sys2Proof.Machine.execFenceRead r x s
  | .fill r x => Sys2Proof.Machine.execFill r x s
  | .copy r x => Sys2Proof.Machine.execCopy r x s
  | .compare r x => Sys2Proof.Machine.execCompare r x s
  | .reduce r x => Sys2Proof.Machine.execReduce r x s
  | .grant r x => Sys2Proof.Machine.execGrant r x s
  | .ungrant r x => Sys2Proof.Machine.execUngrant r x s
  | .leaseExpiry => Sys2Proof.Machine.execLeaseExpiry s
  | .winnowRead ecc => Sys2Proof.Machine.execWinnowRead ecc s
  | .podFence pod => Sys2Proof.Machine.execPodFence pod s
  | .podServiceWrite r pod v => Sys2Proof.Machine.execPodServiceWrite r pod v s
  | .podClear r pod v => Sys2Proof.Machine.execPodClear r pod v s
  | .domainEnableWrite r d v => Sys2Proof.Machine.execDomainEnableWrite r d v s
  | .domainPowerUp d => Sys2Proof.Machine.execDomainPowerUp d s
  | .clusterEnableWrite r c v => Sys2Proof.Machine.execClusterEnableWrite r c v s
  | .powerStateWrite r v => Sys2Proof.Machine.execPowerStateWrite r v s
  | .sensorReading vals ntc => Sys2Proof.Machine.execSensorReading vals ntc s
  | .sensorOutOfService idx => Sys2Proof.Machine.execSensorOutOfService idx s
  | .clusterGated => Sys2Proof.Machine.execClusterGated s
  | .clusterClear r c v => Sys2Proof.Machine.execClusterClear r c v s
  | .orderly => Sys2Proof.Machine.execOrderly s
  | .safeEntry => Sys2Proof.Machine.execSafeEntry s
  | .coolDown => Sys2Proof.Machine.execCoolDown s
  | .hard sensor reading => Sys2Proof.Machine.execHard sensor reading s
  | .hardRestart => Sys2Proof.Machine.execHardRestart s
  | .storeSample ma mv => Sys2Proof.Machine.execStoreSample ma mv s
  | .energyEvaluation => Sys2Proof.Machine.execEnergyEvaluation s
  | .chargeTermination => Sys2Proof.Machine.execChargeTermination s
  | .chargerRestart => Sys2Proof.Machine.execChargerRestart s
  | .chargeTimeout => Sys2Proof.Machine.execChargeTimeout s
  | .restReference => Sys2Proof.Machine.execRestReference s
  | .referencePulse => Sys2Proof.Machine.execReferencePulse s
  | .referencePulseEnd vBefore vOnset vStart vEnd => Sys2Proof.Machine.execReferencePulseEnd vBefore vOnset vStart vEnd s
  | .fallback => Sys2Proof.Machine.execFallback s
  | .inputLost => Sys2Proof.Machine.execInputLost s
  | .flushComplete => Sys2Proof.Machine.execFlushComplete s
  | .keepRegionDone => Sys2Proof.Machine.execKeepRegionDone s
  | .inputRestored => Sys2Proof.Machine.execInputRestored s
  | .holdStop => Sys2Proof.Machine.execHoldStop s
  | .keepRegionsWrite r data => Sys2Proof.Machine.execKeepRegionsWrite r data s
  | .holdUpPipImageWrite r data => Sys2Proof.Machine.execHoldUpPipImageWrite r data s
  | .planKeyInstall r data => Sys2Proof.Machine.execPlanKeyInstall r data s
  | .sakInstall r data unwrapOk => Sys2Proof.Machine.execSakInstall r data unwrapOk s
  | .poolKeyInstall r v => Sys2Proof.Machine.execPoolKeyInstall r v s
  | .firmwareImage r img sigOk => Sys2Proof.Machine.execFirmwareImage r img sigOk s
  | .activateSlot r v => Sys2Proof.Machine.execActivateSlot r v s
  | .lifecycleRequest r data sigOk => Sys2Proof.Machine.execLifecycleRequest r data sigOk s
  | .debugChallenge r => Sys2Proof.Machine.execDebugChallenge r s
  | .debugResponse r data sigOk => Sys2Proof.Machine.execDebugResponse r data sigOk s
  | .debugClose r v => Sys2Proof.Machine.execDebugClose r v s
  | .debugExpiry => Sys2Proof.Machine.execDebugExpiry s
  | .scrubStageEnd verifyOk => Sys2Proof.Machine.execScrubStageEnd verifyOk s
  | .powerOn => Sys2Proof.Machine.execPowerOn s
  | .sproutStageEnd x => Sys2Proof.Machine.execSproutStageEnd x s
  | .railTimeout rail => Sys2Proof.Machine.execRailTimeout rail s
  | .railRetry => Sys2Proof.Machine.execRailRetry s
  | .nrst width => Sys2Proof.Machine.execNrst width s
  | .warmReset => Sys2Proof.Machine.execWarmReset s
  | .crystalStop => Sys2Proof.Machine.execCrystalStop s
  | .vaultSave => Sys2Proof.Machine.execVaultSave s
  | .testDue unit => Sys2Proof.Machine.execTestDue unit s
  | .startTest r v => Sys2Proof.Machine.execStartTest r v s
  | .clusterTestStepEnd c signature memOk detail => Sys2Proof.Machine.execClusterTestStepEnd c signature memOk detail s
  | .testOverdue unit => Sys2Proof.Machine.execTestOverdue unit s
  | .traceConfigWrite r p sub v => Sys2Proof.Machine.execTraceConfigWrite r p sub v s
  | .status => Sys2Proof.Machine.execStatus s
  | .put len bytes => Sys2Proof.Machine.execPut len bytes s
  | .get clocked => Sys2Proof.Machine.execGet clocked s
  | .reset b1 b2 => Sys2Proof.Machine.execReset b1 b2 s
  | .badOp op => Sys2Proof.Machine.execBadOp op s
  | .mailboxTake => Sys2Proof.Machine.execMailboxTake s
  | .huskSupplyLoss => Sys2Proof.Machine.execHuskSupplyLoss s
  | .receiveJabber => Sys2Proof.Machine.execReceiveJabber s
  | .nrstRelease => Sys2Proof.Machine.execNrstRelease s
  | .attentionPulseEnd => Sys2Proof.Machine.execAttentionPulseEnd s
  | .debugPortAccess target op => Sys2Proof.Machine.execDebugPortAccess target op s
  | .firmwareSlotWritten => Sys2Proof.Machine.execFirmwareSlotWritten s

end Sys2Proof.Machine
end

