-- ==== Sys2Proof/Safety.lean ====
section
/-! DEFINITION. What the statements say of a state: its units are all there, its memories are canonical. -/

namespace Sys2Proof.Machine

open Sys2Proof

/-- A memory is in canonical form: addresses rise strictly and no listed byte is what an unlisted address reads as. -/
def Memory.wf (m : List Host.Cell) : Bool := mwf 0 m

/-- What no command may change: the queue behind it, and how many units of each kind there are. -/
structure Shape where
  pending : List Instr
  pods : Nat
  clusters : Nat
  walkers : Nat
  jobs : Nat
  heads : Nat
  pips : Nat
  channels : Nat
  parties : Nat
  buckets : Nat

def State.shape (s : State) : Shape :=
  ⟨s.pending, s.pods.length, s.clusters.length, s.walkers.length, s.jobs.length, s.heads.length, s.pips.length,
    s.channels.length, s.net.parties.length, s.pool.buckets.length⟩

/-- The device has its 40 pods, 8 clusters and walkers, 16 job slots and heads, 14 pip engines, 18 channels and 16 parties
(R13, R14, Tables SCOPE-6, PIP-2, SENSE-1). -/
def Shape.full (x : Shape) : Prop :=
  x.pods = 40 ∧ x.clusters = 8 ∧ x.walkers = 8 ∧ x.jobs = 16 ∧ x.heads = 16 ∧ x.pips = 14 ∧ x.channels = 18 ∧
    x.parties = 16 ∧ x.buckets = 16

def State.Formed (s : State) : Prop := s.shape.full

/-- No issue is on its way to a walker: none of the last 4 cycles' bundles issued one (R134). -/
def noneOnWay (s : State) : Prop := ∀ c < 8, s.onWay c = []

/-! Frames: which fields of the state a group of effects may touch at all. Every other field is unchanged. -/

/-- Data of the pool at most: contents, holds, buckets, traffic. -/
def touchesPool (s t : State) : Prop := t = { s with pool := t.pool }

/-- Registers of the dictionary at most. -/
def touchesRegs (s t : State) : Prop := t = { s with od := t.od }

/-- What a traced transaction may touch: counters, the pool, the trace's sequence (20). -/
def touchesTrace (s t : State) : Prop := t = { s with od := t.od, pool := t.pool, test := t.test }

/-- What the record of a unit that is neither a pod nor a column group may touch: counters, the log and histories, and which
records of the frame carry FAULT (15, 01 R36). -/
def touchesRecord (s t : State) : Prop :=
  t = { s with od := t.od, frame := { s.frame with fault := t.frame.fault }, integ := t.integ }

/-- What raising a fault record may touch: that, and where it retires a pod (R320) the pods' roles and an update group that counted
on the pod, whose end is reported (02 R57). -/
def touchesFault (s t : State) : Prop :=
  t = { s with od := t.od, frame := { s.frame with fault := t.frame.fault }, integ := t.integ, pods := t.pods,
               clusters := t.clusters, loader := t.loader, net := t.net }

/-- What sending a message may touch: counters, the network's queues, the board port with HRDY, what is sent, and the free values
drawn for collisions (10, 21). -/
def touchesSend (s t : State) : Prop :=
  t = { s with od := t.od, husk := { s.husk with hrdy := t.husk.hrdy }, net := t.net, board := t.board, out := t.out,
               free := t.free }

/-- What answering a dictionary access may touch: that, and the trace of the access. -/
def touchesReply (s t : State) : Prop :=
  t = { s with od := t.od, husk := { s.husk with hrdy := t.husk.hrdy }, net := t.net, board := t.board, out := t.out,
               pool := t.pool, test := t.test, free := t.free }

/-- What an accepted setting may touch: the answer, and the dictionary service's commits. -/
def touchesSetting (s t : State) : Prop :=
  t = { s with od := t.od, husk := { s.husk with hrdy := t.husk.hrdy }, net := t.net, board := t.board, out := t.out,
               pool := t.pool, test := t.test, dict := t.dict, free := t.free }

/-- Counters that a message or a traced access may raise: a port's frames sent and frames lost for want of a packet number
(0x3C00 + u:11, :1B), a party's trace records written and dropped (0x4800 + p:05, :06), N2's collisions and drops under CSMA/CD
(0x3C01:15, :1E). -/
def answerCounter (k : Nat) : Prop :=
  (∃ u < 4, k = okey (0x3C00 + u) 0x11 ∨ k = okey (0x3C00 + u) 0x1B) ∨
    (∃ p, k = okey (0x4800 + p) 5 ∨ k = okey (0x4800 + p) 6) ∨ k = okey 0x3C01 0x15 ∨ k = okey 0x3C01 0x1E

/-- Every register but those named, and the counters of the answer, reads as before. -/
def otherRegs (s t : State) (keys : List Nat) : Prop := ∀ k, k ∉ keys → ¬ answerCounter k → t.reg k = s.reg k

/-- A request of class `cls` and opcode `op` is answered: the newest of the 16 responses remembered for its party is this
one, and the request is no longer in progress (R218, R219). -/
def answered (s t : State) (r : Req) (cls op st load credit : Nat) (data : List Byte) : Prop :=
  (t.pnet r.party).remembered =
    ((r.seq, OutMsg.resp r.party r.port cls op r.seq false st load credit data) :: (s.pnet r.party).remembered).take 16 ∧
  (t.pnet r.party).progress = (s.pnet r.party).progress.filter (· ≠ r.seq)

/-- A write of an entry is answered with a status: a Maelelo response of class OD, or on CAN FD the end of the USDO with
its abort code (R11, R218, R238). -/
def writeAnswered (s t : State) (r : Req) (index st : Nat) : Prop :=
  if r.port = 3 then
    s.portUp 3 = true → t.out = s.out ++ [.usdo (s.inForce (okey (0x3C30 + r.party) 3))
      (if st = stOk then 0 else abortCode (s.absentIndex r index) st) []]
  else r.party < s.net.parties.length → answered s t r 1 2 st 0 0 []

end Sys2Proof.Machine
end

