-- ==== Sys2Proof/Certificates/Slice0/Obligations.lean ====
section
/-! DEFINITION. The statements for the provers: what each family of commands does, what it leaves alone, and what no
command can change. -/

open Sys2Proof Sys2Proof.Machine

/-! ## The control core (06)

A bundle's slots stage their effects in `core.bundle`; the K slot takes them in, so that no slot sees another's result
in its own cycle (R124). `s.coreSeg = some g` says that segment g's code runs and no wait is in progress. -/

/-- The register forms of slots A and B with what each computes (R125, Table CORE-4). -/
def coreRegisterRows : List ((Slot → BitVec 40 → Instr) × (Word → Word → Word)) :=
  [(.add, fun a b => a + b), (.sub, fun a b => a - b), (.and, fun a b => a &&& b), (.or, fun a b => a ||| b),
   (.xor, fun a b => a ^^^ b), (.shl, fun a b => a <<< (b.toNat % 32)), (.shr, fun a b => a >>> (b.toNat % 32)),
   (.sar, fun a b => a.sshiftRight (b.toNat % 32)), (.slt, fun a b => if a.toInt < b.toInt then 1 else 0),
   (.sltu, fun a b => if a.toNat < b.toNat then 1 else 0), (.min, fun a b => if a.toInt ≤ b.toInt then a else b),
   (.max, fun a b => if a.toInt ≤ b.toInt then b else a)]

/-- The immediate forms of slots A and B; the immediate is sign-extended (R125, Table CORE-4). -/
def coreImmediateRows : List ((Slot → BitVec 40 → Instr) × (Word → Word → Word)) :=
  [(.addi, fun a b => a + b), (.andi, fun a b => a &&& b), (.ori, fun a b => a ||| b),
   (.shli, fun a b => a <<< (b.toNat % 32)), (.shri, fun a b => a >>> (b.toNat % 32)),
   (.sari, fun a b => a.sshiftRight (b.toNat % 32)), (.slti, fun a b => if a.toInt < b.toInt then 1 else 0),
   (.movi, fun _ b => b), (.movhi, fun a b => b.extractLsb' 0 16 ++ a.extractLsb' 0 16)]

/-- The multiplies of slot B (Tables CORE-4, CORE-9). -/
def coreMultiplyRows : List ((Slot → BitVec 40 → Instr) × (Word → Word → Word)) :=
  [(.mul, fun a b => BitVec.ofInt 32 (a.toInt * b.toInt)),
   (.mulh, fun a b => (BitVec.ofInt 64 (a.toInt * b.toInt)).extractLsb' 32 32),
   (.mulhu, fun a b => (BitVec.ofNat 64 (a.toNat * b.toNat)).extractLsb' 32 32)]

/-- Walkers other than c are as they were. -/
def otherWalkers (s t : State) (c : Nat) : Prop := ∀ c', c' ≠ c → t.walker c' = s.walker c'

/-- A result staged for a later cycle, and nothing else of the state changed. -/
def staged (s : State) (sl : Slot) (lat r : Nat) (v : Word) : State :=
  { s with core := { s.core with bundle := { s.core.bundle with
      writes := s.core.bundle.writes ++ [⟨s.core.cycle + lat, r, v, sl⟩] } } }

/-- Every register form in slot A or B with reserved bits zero completes: its result is staged with latency 1, and
nothing else changes. -/
def coreRegisterFormsPart : Prop :=
  ∀ x ∈ coreRegisterRows, ∀ (sl : Slot) (f : BitVec 40) (s : State) (g : Nat),
    s.coreSeg = some g → (sl = .a ∨ sl = .b) → f.extractLsb' 0 22 = 0 →
      exec (x.1 sl f) s = .next (staged s sl 1 (abRd f) (x.2 (s.g (abRa f)) (s.g (abRb f))))

/-- Every immediate form in slot A or B completes the same way, with the 28-bit immediate sign-extended. -/
def coreImmediateFormsPart : Prop :=
  ∀ x ∈ coreImmediateRows, ∀ (sl : Slot) (f : BitVec 40) (s : State) (g : Nat),
    s.coreSeg = some g → (sl = .a ∨ sl = .b) →
      exec (x.1 sl f) s = .next (staged s sl 1 (abRd f) (x.2 (s.g (abRa f)) ((f.extractLsb' 0 28).signExtend 32)))

/-- The multiplies complete in slot B with latency 3; in slot A they are misplaced opcodes. -/
def coreMultipliesPart : Prop :=
  ∀ x ∈ coreMultiplyRows, ∀ (f : BitVec 40) (s : State) (g : Nat), s.coreSeg = some g →
    (f.extractLsb' 0 22 = 0 →
      exec (x.1 .b f) s = .next (staged s .b 3 (abRd f) (x.2 (s.g (abRa f)) (s.g (abRb f))))) ∧
    exec (x.1 .a f) s = .next (s.coreStop excIllegal)

/-- Loads (opcode constructor, bytes) and stores of slot A (R122, R125). -/
def coreLoadRows : List ((Slot → BitVec 40 → Instr) × Nat) := [(.ldw, 4), (.ldhu, 2), (.ldbu, 1)]
def coreStoreRows : List ((Slot → BitVec 40 → Instr) × Nat) := [(.stw, 4), (.sth, 2), (.stb, 1)]

/-- The data address of a load or store: ra plus the sign-extended immediate, relative to the segment's data range. -/
def coreOffset (s : State) (f : BitVec 40) : Nat := (s.g (abRa f) + (f.extractLsb' 0 28).signExtend 32).toNat

/-- A load within the data range and aligned stages the bytes with latency 4; one beyond the range raises DMEM_BOUND, and
one within it that is not aligned raises DMEM_ALIGN (which of the two a doubly bad address raises is the model's choice,
log 33). -/
def coreLoadsPart : Prop :=
  ∀ x ∈ coreLoadRows, ∀ (f : BitVec 40) (s : State) (g : Nat) (img : SegImage),
    s.coreSeg = some g → s.segImg g = some img →
      (coreOffset s f + x.2 ≤ img.dataLen → coreOffset s f % x.2 = 0 →
        exec (x.1 .a f) s = .next (staged s .a 4 (abRd f)
          (BitVec.ofNat 32 (leNat (readCells s.core.dmem (img.dataBase + coreOffset s f) x.2))))) ∧
      (img.dataLen < coreOffset s f + x.2 → exec (x.1 .a f) s = .next (s.coreStop excDmemBound)) ∧
      (coreOffset s f + x.2 ≤ img.dataLen → coreOffset s f % x.2 ≠ 0 →
        exec (x.1 .a f) s = .next (s.coreStop excDmemAlign))

/-- A store within the data range and aligned is staged with its absolute address and its little-endian bytes. -/
def coreStoresPart : Prop :=
  ∀ x ∈ coreStoreRows, ∀ (f : BitVec 40) (s : State) (g : Nat) (img : SegImage),
    s.coreSeg = some g → s.segImg g = some img →
      (coreOffset s f + x.2 ≤ img.dataLen → coreOffset s f % x.2 = 0 →
        exec (x.1 .a f) s = .next { s with core := { s.core with bundle := { s.core.bundle with
          store := some (img.dataBase + coreOffset s f, leBytes x.2 (s.g (abRd f)).toNat) } } }) ∧
      (img.dataLen < coreOffset s f + x.2 → exec (x.1 .a f) s = .next (s.coreStop excDmemBound)) ∧
      (coreOffset s f + x.2 ≤ img.dataLen → coreOffset s f % x.2 ≠ 0 →
        exec (x.1 .a f) s = .next (s.coreStop excDmemAlign))

/-- Loads and stores of slot A (R122, R125). Commands that complete here: LDW, LDHU, LDBU, STW, STH, STB. -/
def Obligations.CoreMemoryFormsComplete : Prop :=
  coreLoadsPart ∧ coreStoresPart

/-- An opcode in a slot that does not offer it and a non-zero reserved field raise ILLEGAL_OP, in every slot; NOP outside slot K
does nothing of its own (R124, R125). An odd register pair, a count of clusters other than one in LGET and an odd address in
BSTH are read as ILLEGAL_OP too (log 35). -/
def coreMisplacedPart : Prop :=
  ∀ (s : State) (g : Nat), s.coreSeg = some g →
    (∀ sl : Slot, sl ≠ .k → exec (.nop sl) s = .next s) ∧
    (∀ x ∈ coreLoadRows ++ coreStoreRows, ∀ (sl : Slot) (f : BitVec 40), sl ≠ .a →
      exec (x.1 sl f) s = .next (s.coreStop excIllegal)) ∧
    (∀ x ∈ coreMultiplyRows, ∀ (sl : Slot) (f : BitVec 40), sl ≠ .b ∨ f.extractLsb' 0 22 ≠ 0 →
      exec (x.1 sl f) s = .next (s.coreStop excIllegal)) ∧
    (∀ x ∈ ([.issue, .issuei, .fadv, .fadvf] : List (Slot → BitVec 56 → Instr)), ∀ (sl : Slot) (f : BitVec 56),
      sl ≠ .m ∨ f.extractLsb' 0 31 ≠ 0 → exec (x sl f) s = .next (s.coreStop excIllegal)) ∧
    (∀ f : BitVec 56, mGp f % 2 = 1 → exec (.fadv .m f) s = .next (s.coreStop excIllegal)) ∧
    (∀ x ∈ ([.hset, .hseti, .hadd, .hget, .lset, .lseti, .lget, .stat, .bstb, .bsth] : List (Slot → BitVec 48 → Instr)),
      ∀ (sl : Slot) (f : BitVec 48), sl ≠ .v ∨ f.extractLsb' 20 10 ≠ 0 → exec (x sl f) s = .next (s.coreStop excIllegal)) ∧
    (∀ f : BitVec 48, (maskClusters (vMask f)).length ≠ 1 → exec (.lget .v f) s = .next (s.coreStop excIllegal)) ∧
    (∀ f : BitVec 48, (f.extractLsb' 0 20).toNat % 2 = 1 → exec (.bsth .v f) s = .next (s.coreStop excIllegal)) ∧
    (∀ x ∈ ([.br, .beq, .bne, .blt, .bge, .call, .jr, .endw, .waitto, .waitc, .waitf] : List (Slot → BitVec 32 → Instr)),
      ∀ (sl : Slot) (f : BitVec 32), sl ≠ .k → exec (x sl f) s = .next (s.coreStop excIllegal)) ∧
    (∀ x ∈ ([.br, .beq, .bne, .blt, .bge, .call] : List (Slot → BitVec 32 → Instr)), ∀ f : BitVec 32,
      f.extractLsb' 13 3 ≠ 0 → exec (x .k f) s = .next (s.coreStop excIllegal)) ∧
    (∀ f : BitVec 32, kGa f % 2 = 1 → exec (.waitf .k f) s = .next (s.coreStop excIllegal))

/-- The arithmetic of slots A and B, with every form that a slot does not offer (R125). Commands that complete here: ADD, SUB,
AND, OR, XOR, SHL, SHR, SAR, SLT, SLTU, MIN, MAX, ADDI, ANDI, ORI, SHLI, SHRI, SARI, SLTI, MOVI, MOVHI, MUL, MULH, MULHU. -/
def Obligations.CoreArithmeticComplete : Prop :=
  coreRegisterFormsPart ∧ coreImmediateFormsPart ∧ coreMultipliesPart ∧ coreMisplacedPart

/-- A bundle that holds one aligned store in slot A and NOP in slot K leaves the stored bytes in data memory and every
other byte of data memory as it was. -/
def coreStoreReachesDataMemoryPart : Prop :=
  ∀ x ∈ coreStoreRows, ∀ (f : BitVec 40) (s : State) (g : Nat) (img : SegImage),
    s.coreSeg = some g → s.segImg g = some img → s.core.bundle = Bundle.blank →
      s.core.pc + 1 < img.codeLen →
      coreOffset s f + x.2 ≤ img.dataLen → coreOffset s f % x.2 = 0 →
      ∃ t u, exec (x.1 .a f) s = .next t ∧ exec (.nop .k) t = .next u ∧ u.core.pc = s.core.pc + 1 ∧
        u.core.seg = some g ∧
        leNat (readCells u.core.dmem (img.dataBase + coreOffset s f) x.2) = (s.g (abRd f)).toNat % 256 ^ x.2 ∧
        ∀ a, (a < img.dataBase + coreOffset s f ∨ img.dataBase + coreOffset s f + x.2 ≤ a) →
          mget 0 u.core.dmem a = mget 0 s.core.dmem a

/-- A bundle that holds one register form in slot A and NOP in slot K: the next bundle reads the result, g0 aside, and
every other register as before (R134: the results of slots A and B have latency 1). -/
def coreResultIsSeenByNextBundlePart : Prop :=
  ∀ x ∈ coreRegisterRows, ∀ (f : BitVec 40) (s : State) (g : Nat) (img : SegImage),
    s.coreSeg = some g → s.segImg g = some img → s.core.bundle = Bundle.blank → s.core.writes = [] →
      s.core.regs.length = 64 → s.core.pc + 1 < img.codeLen → f.extractLsb' 0 22 = 0 →
      ∃ t u, exec (x.1 .a f) s = .next t ∧ exec (.nop .k) t = .next u ∧ u.core.pc = s.core.pc + 1 ∧
        (∀ r, t.g r = s.g r) ∧
        (∀ r, u.g r = if r ≠ 0 ∧ r = abRd f then x.2 (s.g (abRa f)) (s.g (abRb f)) else s.g r) ∧
        u.core.dmem = s.core.dmem ∧ u.core.handles = s.core.handles ∧ (noneOnWay s → u.walkers = s.walkers)

/-- What a bundle stages takes effect when the bundle ends (R124, R134). -/
def Obligations.CoreBundleEffectsAreSeen : Prop :=
  coreStoreReachesDataMemoryPart ∧ coreResultIsSeenByNextBundlePart

/-- ISSUE and ISSUEI stage the descriptor number, FADV and FADVF a fence advance; a ninth pending advance of the segment
raises QUEUE_FULL (R126, R128). -/
def coreIssueAndAdvancePart : Prop :=
  ∀ (f : BitVec 56) (s : State) (g : Nat), s.coreSeg = some g → f.extractLsb' 0 31 = 0 →
    exec (.issue .m f) s = .next { s with core := { s.core with bundle := { s.core.bundle with
      issues := s.core.bundle.issues ++ [s.core.handles.getD (mHandle f) 0] } } } ∧
    exec (.issuei .m f) s = .next { s with core := { s.core with bundle := { s.core.bundle with
      issues := s.core.bundle.issues ++ [mNumber f] } } } ∧
    ((s.core.fadvs.filter fun x => x.seg = g).length < 8 →
      exec (.fadvf .m f) s = .next { s with core := { s.core with bundle := { s.core.bundle with
        fadvs := s.core.bundle.fadvs ++ [(mFence f, s.frame.number)] } } } ∧
      (mGp f % 2 = 0 → exec (.fadv .m f) s = .next { s with core := { s.core with bundle := { s.core.bundle with
        fadvs := s.core.bundle.fadvs ++
          [(mFence f, (s.g (mGp f)).toNat + 2 ^ 32 * (s.g (mGp f + 1)).toNat)] } } })) ∧
    (8 ≤ (s.core.fadvs.filter fun x => x.seg = g).length →
      exec (.fadvf .m f) s = .next (s.coreStop excQueueFull) ∧
      (mGp f % 2 = 0 → exec (.fadv .m f) s = .next (s.coreStop excQueueFull)))

/-- A bundle of a segment that issues one descriptor and ends: every walker that the issue goes to has it on its way, to be
there 4 cycles after the bundle, behind what was queued before (R126, R127, R134). -/
def issuesGoOnTheirWayPart : Prop :=
  ∀ (s : State) (g n : Nat), s.coreSeg = some g → s.core.bundle = { Bundle.blank with issues := [n] } → noneOnWay s →
    s.core.pc + 1 < s.codeLen g → s.now < s.core.entry + (s.core.cycle + 4) * 5 / 2 → s.walkers.length = 8 →
      ∃ t, exec (.nop .k) s = .next t ∧ ∀ c, c < 8 →
        let new := ((s.issueTargets g n).filter (·.1 = c)).map fun x => QItem.arriving n g (s.core.cycle + 4) x.2
        (t.walker c).queue = (s.walker c).queue ++ new ∧ (t.walker c).issued = (s.walker c).issued + new.length ∧
          (t.walker c).running = (s.walker c).running

/-- An issue whose cycle has come reaches its walker, here one with nothing else queued. One that the walker takes stands at
the head of its queue; one that it refuses is done at once, the newest record is a CHECK of the cluster with the descriptor's
number, it is counted, and the core sees a descriptor exception and goes on (R89, R126, R127, R136). -/
def issuesReachTheirWalkersPart : Prop :=
  ∀ (s : State) (c n g due : Nat) (d : List Byte), c < 8 → s.walkers.length = 8 → s.core.wait = none →
    (s.walker c).queue = [.arriving n g due d] → (s.walker c).running = none → (∀ k, k < 8 → k ≠ c → s.onWay k = []) →
    due ≤ s.core.cycle →
      (s.issueOk c g n d = true → ∃ t, exec .waitEnd s = .next t ∧ (t.walker c).queue = [.run n g (dCtx d) d] ∧
        otherWalkers s t c ∧ t = { s with walkers := t.walkers }) ∧
      (s.issueOk c g n d = false → ∃ t, exec .waitEnd s = .next t ∧ (t.walker c).queue = [] ∧
        (t.walker c).finished = (s.walker c).finished + 1 ∧
        t.integ.log.getLast?.map (fun r => (r.cls, r.cause, r.unit, r.desc)) = some (clsCheck, 3, unitCluster c, n) ∧
        t.reg (okey (0x3200 + c) 4) = (s.reg (okey (0x3200 + c) 4) + 1) % 2 ^ 32 ∧
        t.reg (coreReg g 7) = (s.reg (coreReg g 7) + 1) % 2 ^ 32 ∧
        t.frame.fault.testBit g = true ∧ (s.core.seg = some g → t.core = { s.core with descExc := s.core.descExc + 1 }))

/-- The oldest pending fence advance whose earlier items are done is taken from the queue, and the segment's own fence
rises to the maximum of its value and the ordered one; a fence never falls (R128, R268). Issues that are due reach their
walkers first. -/
def performedAdvanceRaisesFencePart : Prop :=
  ∀ (s u : State) (x : FadvItem) (f : Fence), u = s.arrive →
    u.core.fadvs.find? (fun x => u.marksDone 0xFF x.marks) = some x →
    (u.onCore fun c => { c with fadvs := c.fadvs.erase x }).tableFence x.seg x.fence = .ok f →
    f.mirror = false → f.party = u.segParty x.seg →
      ∃ t, exec .fenceAdvancePerformed s = .next t ∧
        t.core = { u.core with fadvs := u.core.fadvs.erase x } ∧
        t.pool.fences = u.pool.fences.map (fun h => if h.idx = f.idx then { h with value := max f.value x.value } else h) ∧
        t = { u with core := t.core, pool := t.pool, od := t.od, test := t.test } ∧ (noneOnWay s → u = s)

/-- HSET, HSETI and HADD stage a handle of 11 bits (HADD saturates), HGET and STAT a register (R127, Tables CORE-6, CORE-7). -/
def coreHandleFormsPart : Prop :=
  ∀ (f : BitVec 48) (s : State) (g : Nat), s.coreSeg = some g → f.extractLsb' 20 10 = 0 →
    let hs := fun (v : Nat) => ({ s with core := { s.core with bundle := { s.core.bundle with
      handles := s.core.bundle.handles ++ [(vN f, v)] } } } : State)
    exec (.hset .v f) s = .next (hs ((s.g (vG f)).toNat % 2048)) ∧
    exec (.hseti .v f) s = .next (hs ((f.extractLsb' 0 20).toNat % 2048)) ∧
    exec (.hadd .v f) s = .next (hs
      (max 0 (min 2047 ((s.core.handles.getD (vN f) 0 : Int) + (f.extractLsb' 0 20).toInt))).toNat) ∧
    exec (.hget .v f) s = .next (staged s .v 1 (vG f) (BitVec.ofNat 32 (s.core.handles.getD (vN f) 0))) ∧
    exec (.stat .v f) s = .next (staged s .v 2 (vG f) (s.statItem g ((f.extractLsb' 0 20).toNat % 256)))

/-- Issues, fence advances and handles (R126 to R128). Commands that complete here: ISSUE, ISSUEI, FADV, FADVF,
FENCE_ADVANCE_PERFORMED, HSET, HSETI, HADD, HGET, STAT. -/
def Obligations.CoreIssuesAndHandlesComplete : Prop :=
  coreIssueAndAdvancePart ∧ issuesGoOnTheirWayPart ∧ issuesReachTheirWalkersPart ∧ performedAdvanceRaisesFencePart ∧
    coreHandleFormsPart

/-- LSET, LSETI, BSTB and BSTH stage one queued move for every cluster of the mask; a mask outside the allotment raises ALLOT
and a full queue QUEUE_FULL; LGET reads a length register with latency 4 (R127, R129). Commands that complete here: LSET,
LSETI, LGET, BSTB, BSTH. -/
def Obligations.CoreMoveFormsComplete : Prop :=
  ∀ (f : BitVec 48) (s : State) (g : Nat), s.coreSeg = some g → f.extractLsb' 20 10 = 0 →
    let rows : List (Instr × QItem) :=
      [(.lset .v f, .setLen (vN f) (max 0 (min 65535 (s.g (vG f)).toInt)).toNat),
       (.lseti .v f, .setLen (vN f) ((f.extractLsb' 0 20).toNat % 65536)),
       (.bstb .v f, .setByte (f.extractLsb' 0 20).toNat ((s.g (vG f)).toNat % 256))] ++
      (if (f.extractLsb' 0 20).toNat % 2 = 0 then
        [(.bsth .v f, .setHalf (f.extractLsb' 0 20).toNat ((s.g (vG f)).toNat % 65536))] else [])
    (s.outsideAllot g (vMask f) = false → (∀ c ∈ maskClusters (vMask f), movesIn (s.walker c) < 32) →
      ∀ x ∈ rows, exec x.1 s = .next { s with core := { s.core with bundle := { s.core.bundle with
        moves := s.core.bundle.moves ++ (maskClusters (vMask f)).map fun c => (c, x.2) } } }) ∧
    (s.outsideAllot g (vMask f) = true → ∀ x ∈ rows, exec x.1 s = .next (s.coreStop excAllot)) ∧
    (s.outsideAllot g (vMask f) = false → (∃ c ∈ maskClusters (vMask f), 32 ≤ movesIn (s.walker c)) →
      ∀ x ∈ rows, exec x.1 s = .next (s.coreStop excQueueFull)) ∧
    (∀ c, maskClusters (vMask f) = [c] → s.outsideAllot g (vMask f) = false →
      exec (.lget .v f) s = .next (staged s .v 4 (vG f) (BitVec.ofNat 32 ((s.walker c).lens.getD (vN f) 0))))

/-- Segment g goes on at a bundle some cycles later; when nothing was staged and neither a result nor an issue was under way,
nothing else of the state changes. -/
def goesOn (s t : State) (g pc cycles : Nat) : Prop :=
  t.core.seg = some g ∧ t.core.pc = pc ∧ t.core.cycle = s.core.cycle + cycles ∧ t.core.bundle = Bundle.blank ∧
    t.core.wait = none ∧
    (s.core.bundle = Bundle.blank → s.core.writes = [] → noneOnWay s →
      t = { s with core := { s.core with pc := pc, cycle := s.core.cycle + cycles } })

/-- A branch that is taken goes on at its target 3 cycles later, one that is not taken and NOP at the next bundle one cycle
later (R131, Table CORE-8). -/
def coreBranchesPart : Prop :=
  ∀ (f : BitVec 32) (s : State) (g : Nat), s.coreSeg = some g →
    (s.core.pc + 1 < s.codeLen g → ∃ t, exec (.nop .k) s = .next t ∧ goesOn s t g (s.core.pc + 1) 1) ∧
    (f.extractLsb' 13 3 = 0 → kTarget f < s.codeLen g → s.core.pc + 1 < s.codeLen g →
      (∃ t, exec (.br .k f) s = .next t ∧ goesOn s t g (kTarget f) 3) ∧
      ∀ x ∈ ([(.beq, fun a b => a = b), (.bne, fun a b => a ≠ b), (.blt, fun a b => a.toInt < b.toInt),
          (.bge, fun a b => b.toInt ≤ a.toInt)] : List ((Slot → BitVec 32 → Instr) × (Word → Word → Prop))),
        ∃ t, exec (x.1 .k f) s = .next t ∧
          (x.2 (s.g (kGa f)) (s.g (kGb f)) → goesOn s t g (kTarget f) 3) ∧
          (¬ x.2 (s.g (kGa f)) (s.g (kGb f)) → goesOn s t g (s.core.pc + 1) 1))

/-- CALL goes to its target and leaves the address of the next bundle in g63, JR goes where a register says, and ENDW
leaves the core idle with the bundle's effects done (R131, R137). -/
def coreCallReturnAndEndPart : Prop :=
  ∀ (f : BitVec 32) (s : State) (g : Nat), s.coreSeg = some g →
    (f.extractLsb' 13 3 = 0 → kTarget f < s.codeLen g → s.core.bundle = Bundle.blank → s.core.writes = [] →
      s.core.regs.length = 64 →
      ∃ t, exec (.call .k f) s = .next t ∧ t.core.seg = some g ∧ t.core.pc = kTarget f ∧
        t.core.cycle = s.core.cycle + 3 ∧ (∀ r, t.g r = if r = 63 then BitVec.ofNat 32 (s.core.pc + 1) else s.g r) ∧
        (noneOnWay s → t = { s with core := t.core, free := t.free })) ∧
    ((s.g (kGa f)).toNat % 8192 < s.codeLen g →
      ∃ t, exec (.jr .k f) s = .next t ∧ goesOn s t g ((s.g (kGa f)).toNat % 8192) 3) ∧
    (∃ t, exec (.endw .k f) s = .next t ∧ t.core.seg = none ∧ t.core.bundle = Bundle.blank ∧
      (s.core.bundle = Bundle.blank → s.core.writes = [] → t = { s with core := { s.core with seg := none } }))

/-- A stopping exception ends the segment: no slot of the bundle takes effect, the core keeps its registers, what was issued
before it goes on while walkers have work left, the exception code, the frame and the count are shown, the segment's records of
the frame carry FAULT, and one CHECK record in 4,096 frames names the CTRL domain and the segment (R136; the detail
code + 256 × segment is the model's own form; what was never issued is zeroed behind the items, log 38). An opcode
that the slot does not offer, or a register form outside slots A and B, raises ILLEGAL_OP (R125). A reserved opcode stops a
pip's run with ILLEGAL (R140). -/
def stoppingExceptionEndsSegmentPart : Prop :=
  ∀ (s : State) (g : Nat), s.coreSeg = some g →
    (∀ code, code ≠ excWindowCut → ∀ t, t = s.coreStop code →
      t.core = { s.core with seg := none, wait := none, bundle := Bundle.blank,
                             zeroing := if s.itemsDone then none else some (g, false) } ∧
      (s.itemsDone = false → t.walkers = s.walkers ∧ t.pool = s.pool) ∧
      t.reg (coreReg g 4) = code ∧ t.reg (coreReg g 5) = s.frame.number ∧
      t.reg (coreReg g 6) = (s.reg (coreReg g 6) + 1) % 2 ^ 32 ∧ t.frame.fault.testBit g = true ∧
      (s.limited (0x10000000 + g * 16 + code) s.frame.number 4096 = false →
        t.integ.log.getLast?.map (fun r => (r.cls, r.cause, r.unit, r.party, r.detail)) =
          some (clsCheck, 4, 0x6001, s.segParty g, code + 256 * g)) ∧
      (s.limited (0x10000000 + g * 16 + code) s.frame.number 4096 = true → t.integ = s.integ)) ∧
    (∀ (sl : Slot) (op : Nat), op ∉ slotOps sl → exec (.illegalOp (.core sl) op) s = .next (s.coreStop excIllegal)) ∧
    (∀ x ∈ coreRegisterRows ++ coreImmediateRows, ∀ (sl : Slot) (f : BitVec 40), sl ≠ .a → sl ≠ .b →
      exec (x.1 sl f) s = .next (s.coreStop excIllegal)) ∧
    (∀ x ∈ coreRegisterRows, ∀ (sl : Slot) (f : BitVec 40), f.extractLsb' 0 22 ≠ 0 →
      exec (x.1 sl f) s = .next (s.coreStop excIllegal))

/-- Branches, calls, the end of a segment's code, and stopping exceptions (R131, R136, R137). Commands that complete here: NOP,
BR, BEQ, BNE, BLT, BGE, CALL, JR, ENDW, ILLEGAL_OP. -/
def Obligations.CoreControlFlowComplete : Prop :=
  coreBranchesPart ∧ coreCallReturnAndEndPart ∧ stoppingExceptionEndsSegmentPart

/-- A wait whose condition holds already ends at once and the next bundle issues one cycle later; otherwise the bundle's
other slots take effect and the core waits; WAITC on clusters outside the party's allotment raises ALLOT (R132). WAITF writes
the outcome's code of R133 to its register and counts it; its first read, in the bundle's cycle, and each further one 320 ns
after it decide. -/
def coreWaitsPart : Prop :=
  ∀ (f : BitVec 32) (s : State) (g : Nat), s.coreSeg = some g → s.core.pc + 1 < s.codeLen g →
    (s.waitLimit g (kImm f) ≤ s.coreSince →
      ∃ t, exec (.waitto .k f) s = .next t ∧ goesOn s t g (s.core.pc + 1) 1) ∧
    (s.coreSince < s.waitLimit g (kImm f) →
      exec (.waitto .k f) s = .next ((s.takeBundle g).onCore fun c =>
        { c with wait := some (.to (s.waitLimit g (kImm f))) })) ∧
    (s.outsideAllot g (kImm f % 256) = false →
      ((s.takeBundle g).marksDone (kImm f % 256) (s.takeBundle g).issueMarks = true →
        ∃ t, exec (.waitc .k f) s = .next t ∧ goesOn s t g (s.core.pc + 1) 1) ∧
      ((s.takeBundle g).marksDone (kImm f % 256) (s.takeBundle g).issueMarks = false →
        exec (.waitc .k f) s = .next ((s.takeBundle g).onCore fun c =>
          { c with wait := some (.clusters (kImm f % 256) (s.takeBundle g).issueMarks) }))) ∧
    (s.outsideAllot g (kImm f % 256) = true → exec (.waitc .k f) s = .next (s.coreStop excAllot)) ∧
    (kGa f % 2 = 0 → s.core.bundle = Bundle.blank → s.core.writes = [] → s.core.regs.length = 64 →
      (∀ code, s.fenceCode g (kFence f) ((s.g (kGa f)).toNat + 2 ^ 32 * (s.g (kGa f + 1)).toNat) = some code ∨
          (s.fenceCode g (kFence f) ((s.g (kGa f)).toNat + 2 ^ 32 * (s.g (kGa f + 1)).toNat) = none ∧
            s.waitLimit g (kImm f) ≤ s.coreSince ∧ code = stBusy) →
        ∃ t, exec (.waitf .k f) s = .next t ∧ t.core.seg = some g ∧ t.core.pc = s.core.pc + 1 ∧ t.core.wait = none ∧
          t.core.cycle = s.core.cycle + 1 ∧
          (∀ r, t.g r = if r ≠ 0 ∧ r = kGb f then BitVec.ofNat 32 code else s.g r) ∧
          t.reg (part (outcomePart code) (coreReg g 9)) = (s.reg (part (outcomePart code) (coreReg g 9)) + 1) % 2 ^ 32 ∧
          t.pool.fences = s.pool.fences) ∧
      (s.fenceCode g (kFence f) ((s.g (kGa f)).toNat + 2 ^ 32 * (s.g (kGa f + 1)).toNat) = none →
        s.coreSince < s.waitLimit g (kImm f) →
        ∃ t, exec (.waitf .k f) s = .next t ∧
          t.core = { s.core with wait := some (.fence (kFence f)
            ((s.g (kGa f)).toNat + 2 ^ 32 * (s.g (kGa f + 1)).toNat) (s.waitLimit g (kImm f)) (kGb f)
            (s.core.entry + s.core.cycle * 5 / 2 + 320) none) }))

/-- A wait in progress ends when its condition holds, and the next bundle issues in the cycle after; until then nothing
happens but that issues which are due reach their walkers (R132). A fence is seen only in its reads every 320 ns, up to the
wait's limit: the wait keeps the code that a read found and ends with it; at the limit without a code it is BUSY (R133). -/
def coreWaitEndsPart : Prop :=
  ∀ (s u : State) (g : Nat), u = s.arrive → s.active = true → s.core.seg = some g → s.core.pc + 1 < s.codeLen g →
    (noneOnWay s → u = s) ∧
    (∀ lim, s.core.wait = some (.to lim) →
      (lim ≤ s.coreSince → ∃ t, exec .waitEnd s = .next t ∧ t.core.wait = none ∧ t.core.seg = some g ∧
        t.core.pc = s.core.pc + 1 ∧ t.core.cycle = max s.core.cycle (s.cyclesTo s.coreTime) + 1) ∧
      (s.coreSince < lim → exec .waitEnd s = .next u)) ∧
    (∀ m marks, s.core.wait = some (.clusters m marks) →
      ((∀ c ∈ maskClusters m, marks.getD c 0 ≤ (u.walker c).finished) →
        ∃ t, exec .waitEnd s = .next t ∧ t.core.wait = none ∧ t.core.seg = some g ∧ t.core.pc = s.core.pc + 1 ∧
          t.core.cycle = max s.core.cycle (s.cyclesTo s.coreTime) + 1) ∧
      ((∃ c ∈ maskClusters m, (u.walker c).finished < marks.getD c 0) → exec .waitEnd s = .next u)) ∧
    (∀ f v lim gb next seen, s.core.wait = some (.fence f v lim gb next seen) → gb < 64 → s.core.writes = [] →
      s.core.regs.length = 64 →
      (∀ code, seen = some code ∨ (seen = none ∧ lim ≤ s.coreSince ∧ code = stBusy) →
        ∃ t, exec .waitEnd s = .next t ∧ t.core.wait = none ∧ t.core.seg = some g ∧ t.core.pc = s.core.pc + 1 ∧
          (∀ r, t.g r = if r ≠ 0 ∧ r = gb then BitVec.ofNat 32 code else s.g r) ∧
          t.reg (part (outcomePart code) (coreReg g 9)) = (s.reg (part (outcomePart code) (coreReg g 9)) + 1) % 2 ^ 32) ∧
      (seen = none → s.coreSince < lim → exec .waitEnd s = .next u))

/-- The waits of slot K and their ends (R132, R133). Commands that complete here: WAITTO, WAITC, WAITF, WAIT_END. -/
def Obligations.CoreWaitsCompleteAndEnd : Prop :=
  coreWaitsPart ∧ coreWaitEndsPart

/-! ## The pips (07)

Engines 0 to 3 are the intake engines, 4 to 11 the drain engines of C0 to C7, 12 the hold-up engine, 13 the classifier. -/

/-- An engine is ready to run its next instruction: a run is in progress, not stalled, not halted by a debugger, clocked,
within its step budget and its certified run time, and the instruction's block is buffered when the image runs in place (R140,
R142, R147, R150). -/
def pipReady (s : State) (e : Nat) : Prop :=
  e < s.pips.length ∧ (s.pip e).running = true ∧ (s.pip e).stall = none ∧ (s.husk.xtalStopped = false ∨ e = 12) ∧
    e ∉ s.sec.halted ∧ (s.pip e).steps < (((s.pip e).image.map (·.budget)).getD 0) ∧ s.pipLate e = false ∧
    s.missing e (codeBlock (s.pip e).pc) = none ∧ (s.pip e).regs.length = 16

/-- An engine has run one instruction: it goes on at `pc` after some cycles, a result of some latency goes to a register
(p0 ignores it), and every other engine and everything else is unchanged. With no other result under way, the next
instruction sees the result when its latency is over and the previous value before (R140, R141). -/
def pipRan (s t : State) (e : Nat) (pc : Int) (cycles lat : Nat) (d : BitVec 4) (v : Word) : Prop :=
  (t.pip e).pc = pc.toNat ∧ (t.pip e).steps = (s.pip e).steps + 1 ∧ (t.pip e).cycle = (s.pip e).cycle + cycles ∧
    (t.pip e).running = true ∧ (t.pip e).data = (s.pip e).data ∧ (t.pip e).held = (s.pip e).held ∧
    (∀ e', e' ≠ e → t.pip e' = s.pip e') ∧ t = { s with pips := t.pips, free := t.free } ∧
    ((s.pip e).writes = [] → ∀ r, t.pipReg e r = if r ≠ 0 ∧ r = d ∧ lat ≤ cycles then v else s.pipReg e r)

/-- The three-register operations with latency and effect (Table PIP-2, R141). -/
def pipRegisterRows : List ((Nat → PipFields → Instr) × Nat × (Word → Word → Word)) :=
  [(.pipAdd, 1, fun a b => a + b), (.pipSub, 1, fun a b => a - b), (.pipAnd, 1, fun a b => a &&& b),
   (.pipOr, 1, fun a b => a ||| b), (.pipXor, 1, fun a b => a ^^^ b), (.pipShl, 1, fun a b => a <<< (b.toNat % 32)),
   (.pipShr, 1, fun a b => a >>> (b.toNat % 32)), (.pipSar, 1, fun a b => a.sshiftRight (b.toNat % 32)),
   (.pipMul, 2, fun a b => a * b), (.pipMin, 1, fun a b => if a.toInt ≤ b.toInt then a else b),
   (.pipMax, 1, fun a b => if a.toInt ≤ b.toInt then b else a),
   (.pipSlt, 1, fun a b => if a.toInt < b.toInt then 1 else 0)]

/-- The immediate operations; the immediate is sign-extended (Table PIP-2). -/
def pipImmediateRows : List ((Nat → PipFields → Instr) × (Word → Word → Word)) :=
  [(.pipAddi, fun a b => a + b), (.pipAndi, fun a b => a &&& b), (.pipOri, fun a b => a ||| b),
   (.pipShli, fun a b => a <<< (b.toNat % 32)), (.pipShri, fun a b => a >>> (b.toNat % 32)),
   (.pipSari, fun a b => a.sshiftRight (b.toNat % 32))]

/-- Every register and immediate operation, NOP and LUI complete on a ready engine when the fields they do not use are zero.
Commands that complete here: PIP_NOP, PIP_ADD, PIP_SUB, PIP_AND, PIP_OR, PIP_XOR, PIP_SHL, PIP_SHR, PIP_SAR, PIP_MUL,
PIP_MIN, PIP_MAX, PIP_SLT, PIP_ADDI, PIP_ANDI, PIP_ORI, PIP_SHLI, PIP_SHRI, PIP_SARI, LUI. -/
def Obligations.PipArithmeticCompletes : Prop :=
  ∀ (e : Nat) (w : PipFields) (s : State), pipReady s e →
    (∀ x ∈ pipRegisterRows, w.imm = 0 → ∃ t, exec (x.1 e w) s = .next t ∧
      pipRan s t e ((s.pip e).pc + 1) 1 x.2.1 w.d (x.2.2 (s.pipReg e w.a) (s.pipReg e w.b))) ∧
    (∀ x ∈ pipImmediateRows, w.b = 0 → ∃ t, exec (x.1 e w) s = .next t ∧
      pipRan s t e ((s.pip e).pc + 1) 1 1 w.d (x.2 (s.pipReg e w.a) (w.imm.signExtend 32))) ∧
    (w.a = 0 → w.b = 0 → ∃ t, exec (.lui e w) s = .next t ∧
      pipRan s t e ((s.pip e).pc + 1) 1 1 w.d ((w.imm ++ (0 : BitVec 18)))) ∧
    (w = ⟨0, 0, 0, 0⟩ → ∃ t, exec (.pipNop e w) s = .next t ∧ pipRan s t e ((s.pip e).pc + 1) 1 1 0 0)

/-- The address of a load or store. -/
def pipAddr (s : State) (e : Nat) (w : PipFields) : Nat := (s.pipReg e w.a + w.imm.signExtend 32).toNat

/-- Loads: bytes, and the word that they give. -/
def pipLoadRows : List ((Nat → PipFields → Instr) × Nat × (Nat → Word)) :=
  [(.pipLdw, 4, fun v => BitVec.ofNat 32 v), (.ldh, 2, fun v => (BitVec.ofNat 16 v).signExtend 32),
   (.ldb, 1, fun v => (BitVec.ofNat 8 v).signExtend 32)]

def pipStoreRows : List ((Nat → PipFields → Instr) × Nat) := [(.pipStw, 4), (.pipSth, 2), (.pipStb, 1)]

/-- An aligned load within the engine's map completes with latency 2, except that a drain run that loads a buffer byte
whose validity bit is clear is tainted; a misaligned one raises ALIGN, one outside the map BOUND (R141, R143, R148). The
table bytes of a run in place may have to be fetched first, which the premise rules out. -/
def pipLoadsPart : Prop :=
  ∀ x ∈ pipLoadRows, ∀ (e : Nat) (w : PipFields) (s : State), pipReady s e → w.b = 0 →
    (∀ img, (s.pip e).image = some img → 0x300000 ≤ pipAddr s e w → pipAddr s e w < 0x304000 →
      s.missing e (tableBlock img (pipAddr s e w - 0x300000)) = none) →
    (∀ bs, pipAddr s e w % x.2.1 = 0 → s.pipBytes e (pipAddr s e w) x.2.1 = some bs →
      ∃ t, exec (x.1 e w) s = .next t ∧
        pipRan (s.pipTaint e (pipAddr s e w) x.2.1) t e ((s.pip e).pc + 1) 1 2 w.d (x.2.2 (leNat bs))) ∧
    (pipAddr s e w % x.2.1 ≠ 0 → exec (x.1 e w) s = .next (s.pipStop e pxAlign)) ∧
    (pipAddr s e w % x.2.1 = 0 → s.pipBytes e (pipAddr s e w) x.2.1 = none →
      exec (x.1 e w) s = .next (s.pipStop e pxBound))

/-- An aligned store where the engine's map allows it performs `pipStore` with the little-endian bytes of register b and
the run goes on. In the engine's own data SRAM it changes these bytes alone; in the cluster's activation buffer it changes
these bytes, within the triggering instruction's output region, and sets their validity bits unless the run is tainted; a
length register's write is held, limited to 0 to 65,535 (R141, R148, Table PIP-5; a narrow store merges, log 43). -/
def pipStoresPart : Prop :=
  ∀ x ∈ pipStoreRows, ∀ (e : Nat) (w : PipFields) (s : State), pipReady s e → w.d = 0 →
    (∀ u, pipAddr s e w % x.2 = 0 →
      s.pipStore e (pipAddr s e w) (leBytes x.2 (s.pipReg e w.b).toNat) = some u →
      ∃ t, exec (x.1 e w) s = .next t ∧ (t.pip e).pc = (s.pip e).pc + 1 ∧ (t.pip e).steps = (s.pip e).steps + 1 ∧
        (t.pip e).cycle = (s.pip e).cycle + 1 ∧
        (4 ≤ e → e < 12 → pipAddr s e w + x.2 ≤ 0x2000 →
          t = { s with pips := t.pips, free := t.free } ∧
          leNat (readCells (t.pip e).data (pipAddr s e w) x.2) = (s.pipReg e w.b).toNat % 256 ^ x.2 ∧
          ∀ a, (a < pipAddr s e w ∨ pipAddr s e w + x.2 ≤ a) → mget 0 (t.pip e).data a = mget 0 (s.pip e).data a) ∧
        (4 ≤ e → e < 12 → 0x100000 ≤ pipAddr s e w → pipAddr s e w < 0x200000 → e - 4 < s.walkers.length →
          t = { s with pips := t.pips, walkers := t.walkers, od := t.od, pool := t.pool, test := t.test, free := t.free } ∧
          (s.drainRegion e).1 ≤ pipAddr s e w - 0x100000 ∧
          pipAddr s e w - 0x100000 + x.2 ≤ (s.drainRegion e).1 + (s.drainRegion e).2 ∧
          leNat (readCells (t.walker (e - 4)).buffer (pipAddr s e w - 0x100000) x.2) = (s.pipReg e w.b).toNat % 256 ^ x.2 ∧
          (∀ a, (a < pipAddr s e w - 0x100000 ∨ pipAddr s e w - 0x100000 + x.2 ≤ a) →
            mget 0 (t.walker (e - 4)).buffer a = mget 0 (s.walker (e - 4)).buffer a) ∧
          (∀ a, pipAddr s e w - 0x100000 ≤ a → a < pipAddr s e w - 0x100000 + x.2 →
            (a ∈ (t.walker (e - 4)).valid ↔ (s.pip e).tainted = false))) ∧
        (4 ≤ e → e < 12 → 0x200000 ≤ pipAddr s e w → pipAddr s e w < 0x200040 →
          let k := (pipAddr s e w - 0x200000) / 4
          t = { s with pips := t.pips, free := t.free } ∧
          mget 0 (t.pip e).held k = clampI 0 65535 (signedOf 32 (mergeWord
            (heldOr (s.pip e) k ((s.walker (e - 4)).lens.getD k 0 : Nat)) (pipAddr s e w % 4)
            (leBytes x.2 (s.pipReg e w.b).toNat))))) ∧
    (pipAddr s e w % x.2 ≠ 0 → exec (x.1 e w) s = .next (s.pipStop e pxAlign)) ∧
    (pipAddr s e w % x.2 = 0 →
      s.pipStore e (pipAddr s e w) (leBytes x.2 (s.pipReg e w.b).toNat) = none →
      exec (x.1 e w) s = .next (s.pipStop e pxBound))

/-- Loads and stores of the pips (Table PIP-2). Commands that complete here: PIP_LDW, LDH, LDB, PIP_STW, PIP_STH, PIP_STB. -/
def Obligations.PipMemoryCompletes : Prop :=
  pipLoadsPart ∧ pipStoresPart

/-- A taken branch goes to this instruction plus imm 2 cycles later, one not taken to the next; DBNZ decrements its counter
and branches while it is not zero (R141, R142, Table PIP-2). -/
def pipBranchesPart : Prop :=
  ∀ (e : Nat) (w : PipFields) (s : State), pipReady s e →
    (w.d = 0 → ∀ x ∈ ([(.pipBeq, fun a b => a = b), (.pipBne, fun a b => a ≠ b), (.pipBlt, fun a b => a.toInt < b.toInt),
        (.pipBge, fun a b => b.toInt ≤ a.toInt)] : List ((Nat → PipFields → Instr) × (Word → Word → Prop))),
      ∃ t, exec (x.1 e w) s = .next t ∧
        (x.2 (s.pipReg e w.a) (s.pipReg e w.b) → pipRan s t e ((s.pip e).pc + w.imm.toInt) 2 1 0 0) ∧
        (¬ x.2 (s.pipReg e w.a) (s.pipReg e w.b) → pipRan s t e ((s.pip e).pc + 1) 1 1 0 0)) ∧
    (w.a = 0 → w.b = 0 → ∃ t, exec (.dbnz e w) s = .next t ∧
      (s.pipReg e w.d ≠ 1 → pipRan s t e ((s.pip e).pc + w.imm.toInt) 2 1 w.d (s.pipReg e w.d - 1)) ∧
      (s.pipReg e w.d = 1 → pipRan s t e ((s.pip e).pc + 1) 1 1 w.d 0))

/-- HALT ends the run. On a drain engine the held length writes are performed together; on an intake engine the delivered
count becomes the held one, limited to the job's maximum, and a scalar is delivered unless a job later in the schedule has
written it; on the hold-up engine a verdict written in the run stands, its skip mask only in an INPUT_LOST run (R148, R200,
R364). -/
def pipHaltPart : Prop :=
  (∀ (s : State), pipReady s 12 → s.store.events = [] →
    ∃ t, exec (.halt 12 ⟨0, 0, 0, 0⟩) s = .next t ∧ (t.pip 12).running = false ∧ (t.pip 12).ended = 1 ∧
      t = { s with pips := t.pips, store := { s.store with verdict := t.store.verdict } } ∧
      t.store.verdict = match (s.pip 12).verdict with
        | none => s.store.verdict
        | some v => (v.getLsbD 0, if (s.pip 12).item = 1 then v.toNat / 65536 else s.store.verdict.2)) ∧
  ∀ (e : Nat) (s : State), pipReady s e → e ≠ 12 →
    ∃ t, exec (.halt e ⟨0, 0, 0, 0⟩) s = .next t ∧ (t.pip e).running = false ∧ (t.pip e).ended = 1 ∧ (t.pip e).held = [] ∧
      (t.pip e).verdict = (s.pip e).verdict ∧ (∀ e', e' ≠ e → t.pip e' = s.pip e') ∧
      (4 ≤ e → e < 12 → t = { s with pips := t.pips, walkers := t.walkers } ∧
        (e - 4 < s.walkers.length → t.walker (e - 4) = { s.walker (e - 4) with
          lens := (s.pip e).held.foldl (fun l x => setAt l x.1 x.2.toNat) (s.walker (e - 4)).lens }) ∧
        ∀ c, c ≠ e - 4 → t.walker c = s.walker c) ∧
      (e < 4 → t = { s with
            pips := t.pips, od := t.od, core := { s.core with
              scalars := t.core.scalars, scalarBy := t.core.scalarBy, counts := t.core.counts } } ∧
        (∀ j, s.intakeOf e = some j → mget 0 t.core.counts ((s.pip e).seg * 128 + (s.pip e).item) =
          min j.maxVec (mget 0 (s.pip e).held 16).toNat) ∧
        ∀ k v, k < 16 → (s.pip e).held = [(k, v)] →
          let i := (s.pip e).seg * 128 + k
          mget 0 t.core.scalars i =
            if mget 0 s.core.scalarBy i ≤ (s.pip e).jobKey then v else mget 0 s.core.scalars i)

/-- An engine that has run its step budget without HALT stops with STEP_LIMIT, an intake or drain run still going at its
start plus its certified run time with TIME_LIMIT, and a non-zero field that the operation does not use raises ILLEGAL
(R140, R142, R147). -/
def pipLimitsStopRunsPart : Prop :=
  ∀ (e : Nat) (s : State),
    ((s.pip e).running = true → (((s.pip e).image.map (·.budget)).getD 0) ≤ (s.pip e).steps →
      exec (.stepLimit e) s = .next (s.pipStop e pxSteps)) ∧
    ((s.pip e).running = true → e < 12 → (s.pip e).start + (s.pip e).limit ≤ s.pipTime e →
      exec (.timeLimit e) s = .next (s.pipStop e pxTime)) ∧
    (pipReady s e → ∀ w : PipFields,
      (∀ x ∈ pipRegisterRows, w.imm ≠ 0 → exec (x.1 e w) s = .next (s.pipStop e pxIllegal)) ∧
      (∀ x ∈ pipImmediateRows, w.b ≠ 0 → exec (x.1 e w) s = .next (s.pipStop e pxIllegal)) ∧
      (w ≠ ⟨0, 0, 0, 0⟩ → exec (.halt e w) s = .next (s.pipStop e pxIllegal) ∧
        exec (.pipNop e w) s = .next (s.pipStop e pxIllegal))) ∧
    (pipReady s e → ∀ op, op ∉ pipOps → exec (.illegalOp (.pip e) op) s = .next (s.pipStop e pxIllegal))

/-- When a drain run stops with an exception, its held length writes are discarded, the triggering instruction's output
region is zero and invalid, the segment's records carry FAULT, and the stop is counted under its cause; a CHECK record of
the cluster is raised unless one was in the last 4,096 frames, and none for FETCH_ERR (R143, R149). -/
def drainPipExceptionInvalidatesOutputPart : Prop :=
  ∀ (s : State) (e code : Nat), 4 ≤ e → e < 12 → (s.pip e).running = true → e < s.pips.length → e - 4 < s.walkers.length →
    ∀ t, t = s.pipStop e code →
      (t.pip e).running = false ∧ (t.pip e).held = [] ∧ (t.pip e).ended = 2 ∧
      (t.walker (e - 4)).lens = (s.walker (e - 4)).lens ∧
      (∀ a, (s.drainRegion e).1 ≤ a → a < (s.drainRegion e).1 + (s.drainRegion e).2 →
        mget 0 (t.walker (e - 4)).buffer a = 0 ∧ a ∉ (t.walker (e - 4)).valid) ∧
      (∀ a, (a < (s.drainRegion e).1 ∨ (s.drainRegion e).1 + (s.drainRegion e).2 ≤ a) →
        mget 0 (t.walker (e - 4)).buffer a = mget 0 (s.walker (e - 4)).buffer a) ∧
      t.frame.fault.testBit (s.pip e).seg = true ∧
      t.reg (okey (0x3340 + (e - 4)) 8) = (s.reg (okey (0x3340 + (e - 4)) 8) + 1) % 2 ^ 32 ∧
      t.reg (okey (0x3340 + (e - 4)) 9) = code ∧
      (code = pxFetch → t.integ = s.integ) ∧
      (code ≠ pxFetch → s.limited (0x15 * 2 ^ 72 + (((e - 4) * 2 ^ 32 + imageKey (s.pip e)) * 8 + code)) s.frame.number 4096 = false →
        t.integ.log.getLast?.map (fun r => (r.cls, r.cause, r.unit, r.desc, r.detail)) =
          some (clsCheck, 5, unitCluster (e - 4), (s.pip e).item, code))

/-- Branches, the end of a run, its limits, and what a drain pip's exception leaves (R140 to R143, R149). Commands that complete
here: PIP_BEQ, PIP_BNE, PIP_BLT, PIP_BGE, DBNZ, HALT, STEP_LIMIT, TIME_LIMIT. -/
def Obligations.PipControlCompletes : Prop :=
  pipBranchesPart ∧ pipHaltPart ∧ pipLimitsStopRunsPart ∧ drainPipExceptionInvalidatesOutputPart

/-! ## The tile walkers (04, 05) -/

/-- The object that an instruction's bytes name in a segment. -/
def objectOf (s : State) (seg : Nat) (d : List Byte) : Option WObj := (s.segImg seg).bind fun i => objOf i (dObj d)

/-- The instruction at the head of a cluster's queue starts in its segment's window: its length is read once and clamped to the
declared one, with the clamp counted; its share of the tiles is that of R94; the tiles at the share's start that begin at or
beyond the batch length are skipped; and an empty share is done at once (R90, R91, R94). Issues that are due reach their
walkers first. Commands that complete here: INSTRUCTION_START. -/
def Obligations.InstructionStartFixesLengthAndShare : Prop :=
  ∀ (s₀ s : State) (c n g ctx : Nat) (d : List Byte) (rest : List QItem) (x : SegRec × Nat × Nat) (o : WObj),
    s = s₀.arrive → s.active = true → s.openWindow = some x → x.1.seg = g → (s.walker c).running = none →
    (s.walker c).queue = .run n g ctx d :: rest → objectOf s g d = some o → c < 8 → c < s.walkers.length →
      let declared := if dLenK d then dK d else dB d
      let raw := (s.walker c).lens.getD (dLenReg d) 0
      let share := shareOf (tileCount o d) (dMask d) c
      (noneOnWay s₀ → s = s₀) ∧
      ∃ t r, exec (.instructionStart c) s₀ = .next t ∧ (t.walker c).running = some r ∧ (t.walker c).queue = rest ∧
        r.desc = n ∧ r.seg = g ∧ r.ctx = ctx ∧ r.bytes = d ∧
        r.len = (if dUseLen d then some (min raw declared) else none) ∧
        r.last = share.2 ∧ share.1 ≤ r.next ∧ r.next ≤ share.2 ∧
        (∀ i, share.1 ≤ i → i < r.next → ∃ q, tileAt o d i = some q ∧ batchLen r ≤ q.b0) ∧
        r.done = decide (share.2 ≤ r.next) ∧ r.tile = none ∧
        (dUseLen d = true → declared < raw →
          t.reg (okey (0x3200 + c) 5) = (s.reg (okey (0x3200 + c) 5) + 1) % 2 ^ 32) ∧
        ((dUseLen d = false ∨ raw ≤ declared) → t.reg (okey (0x3200 + c) 5) = s.reg (okey (0x3200 + c) 5)) ∧
        (t.walker c).lens = (s.walker c).lens ∧ (t.walker c).buffer = (s.walker c).buffer ∧
        (t.walker c).valid = (s.walker c).valid ∧ otherWalkers s t c ∧
        t = { s with walkers := t.walkers, ahead := t.ahead, od := t.od, pool := t.pool, test := t.test }

/-- The outputs of a tile are results of abandoned work: those in the pool are marked row by row, those in the buffer flag
the segment's records. -/
def isLate (t : State) (c : Nat) (o : WObj) (r : Running) (q : Tile) : Prop :=
  if dOutPool r.bytes then
    ∀ g size, t.segImg r.seg = some g → objOf g (dObj r.bytes) = some o → size = elemSize (chainOf g c (dChain r.bytes)) →
      ∀ b, b < q.nb → (⟨dCtx r.bytes, dOut r.bytes + (q.b0 + b) * dOutStride r.bytes + q.c0 * size, q.nc * size, true⟩ : OutMark) ∈
        t.pool.marks
  else t.frame.late.testBit r.seg = true

/-- A tile of the running instruction commits when its time is over and it ends within its window: it is the committed
tile, the next commit waits for the tile time, and one accumulator row stands for every vector below the batch length: those of
`tileAccs`, once its input was prefetched by run-ahead or is filled now (R26, R87, R91, R93); no byte of the buffer changes where
neither this tile nor the one prepared next is fed from the pool (where such input stands in the buffer is log 155). A tile that
would end after its window, and one of a segment that is not CRITICAL once input power is lost (R356), abandons what is
unfinished on the cluster instead. -/
def plannedTileCommitsPart : Prop :=
  ∀ (s : State) (c : Nat) (ecc : Ecc) (r : Running) (x : SegRec × Nat × Nat) (o : WObj) (q : Tile),
    s.active = true → s.pool.closed = false → (s.walker c).running = some r → (s.walker c).job = none →
    s.openWindow = some x → x.1.seg = r.seg → objectOf s r.seg r.bytes = some o → r.tile = none → r.done = false →
    r.ready ≤ s.now → tileAt o r.bytes r.next = some q → c < s.walkers.length →
      (s.now + dTime r.bytes ≤ s.frame.start + x.2.2 → s.powerBars r.seg = false → s.needsFenced c o q = false →
        ecc ≠ .uncorrectable →
        ∃ t r', exec (.tileCommit c ecc) s = .next t ∧ (t.walker c).running = some r' ∧
          r'.tile = some (r.next, s.now) ∧ r'.ready = s.now + dTime r.bytes ∧ r'.next = r.next ∧ r'.last = r.last ∧
          r'.bytes = r.bytes ∧ r'.accs.length = min q.nb (batchLen r - q.b0) ∧
          (dInPool r.bytes = false → (∀ y, s.nextTile c r = some y → dInPool y.2.2.1 = false) →
            (t.walker c).buffer = (s.walker c).buffer) ∧
          (t.walker c).valid = (s.walker c).valid ∧ (t.walker c).lens = (s.walker c).lens ∧ otherWalkers s t c ∧
          let p := s.segParty r.seg
          let n := min q.nb (batchLen r - q.b0)
          let ahead := s.takeAhead c r
          let v := if ahead.1.isSome then ahead.2 else ahead.2.fill c p r.desc r.bytes q n true false ecc
          let u := (v.bump64 (okey (0x3200 + c) 1)).bump64 (pkey p (okey (0x3200 + c) 1))
          let w := if ahead.1.isSome || !dInPool r.bytes then u
            else u.stow c (inputHalf r.bytes) (dInStride r.bytes)
              ((List.range n).map fun i => u.readVector c p o r.bytes (q.b0 + i))
          r'.accs = (w.tileAccs c { r with fetched := ahead.1 } o q n).1) ∧
      (s.frame.start + x.2.2 < s.now + dTime r.bytes ∨ s.powerBars r.seg = true →
        exec (.tileCommit c ecc) s = .next (s.abandonCluster c)) ∧
      (s.now + dTime r.bytes ≤ s.frame.start + x.2.2 → s.powerBars r.seg = false → s.needsFenced c o q = true →
        ∃ t r', exec (.tileCommit c ecc) s = .next t ∧ (t.walker c).running = some r' ∧ r'.tile = none ∧
          r.next < r'.next ∧ isLate t c o r q ∧ t.frame.fault.testBit r.seg = true ∧
          t.frame.overrun = s.frame.overrun)

/-- The length that a cluster works with on a pooled job: the register read once, when the cluster starts on the job, and
limited to the declared length; none without USE_LEN (R90). -/
def pooledLength (s : State) (c j : Nat) : Option Nat :=
  let d := (s.job j).bytes
  if dUseLen d then
    some (match (s.job j).lens.find? (·.1 = c) with
      | some y => y.2
      | none => min ((s.walker c).lens.getD (dLenReg d) 0) (if dLenK d then dK d else dB d))
  else none

/-- A cluster with nothing planned claims the next tile of the first job that may run: the job's counter is read and raised
by one in the claim, and the claimed tile is the committed one (R95); a tile that begins at or beyond the batch length is
claimed and skipped, and counted (R91). Another cluster that had prepared the claimed tile prepares the counter's new value
(R95); of other clusters nothing but input bytes in their buffers changes. -/
def pooledTileCommitsPart : Prop :=
  ∀ (s : State) (c j : Nat) (ecc : Ecc) (g : SegImage) (o : WObj) (q : Tile),
    s.active = true → s.pool.closed = false → (s.walker c).running = none → (s.walker c).queue = [] → c < 8 →
    c < s.walkers.length → (List.range 16).find? (s.claimable c) = some j → s.segOfDesc (s.job j).desc = some g →
    objOf g (dObj (s.job j).bytes) = some o → (dMask (s.job j).bytes).testBit c = true →
    descOk s g (s.reg (jobReg j 4)) (s.job j).bytes 2 = true →
    tileAt o (s.job j).bytes (s.reg (jobReg j 2)) = some q →
      let d := (s.job j).bytes
      let batch := match pooledLength s c j with
        | some l => if dLenK d then dB d else l
        | none => dB d
      (q.b0 < batch → ecc ≠ .uncorrectable →
        ∃ t r, exec (.tileCommit c ecc) s = .next t ∧ t.reg (jobReg j 2) = s.reg (jobReg j 2) + 1 ∧
          (t.walker c).job = some j ∧ (t.walker c).running = some r ∧ r.tile = some (s.reg (jobReg j 2), s.now) ∧
          r.desc = (s.job j).desc ∧ r.bytes = d ∧ r.ready = s.now + dTime d ∧ r.len = pooledLength s c j ∧
          r.accs.length = min q.nb (batch - q.b0) ∧ (t.walker c).queue = [] ∧
          (∀ k, k ≠ c → t.walker k = { s.walker k with buffer := (t.walker k).buffer }) ∧
          ((∀ a ∈ s.ahead, a.cluster ≠ c → a.job = some j → a.tile ≠ s.reg (jobReg j 2)) → otherWalkers s t c)) ∧
      (batch ≤ q.b0 →
        ∃ t, exec (.tileCommit c ecc) s = .next t ∧ t.reg (jobReg j 2) = s.reg (jobReg j 2) + 1 ∧
          t.reg (okey (0x3200 + c) 2) = (s.reg (okey (0x3200 + c) 2) + 1) % 2 ^ 32 ∧
          (∀ k, t.walker k = { s.walker k with buffer := (t.walker k).buffer }) ∧
          ((∀ a ∈ s.ahead, a.job = some j → a.tile ≠ s.reg (jobReg j 2)) → t.walkers = s.walkers))

/-- Abandoning a cluster's planned work empties its queue, counts every item as finished, and makes the
results of the running instruction's tiles LATE and its segment overrun, the overrun counted once in a frame (R26). -/
def abandonedWorkIsLatePart : Prop :=
  ∀ (s : State) (c : Nat) (r : Running), (s.walker c).running = some r → (s.walker c).job = none → c < s.walkers.length →
    ∀ t, t = s.abandonCluster c →
      (t.walker c).queue = [] ∧ (t.walker c).running = none ∧ (t.walker c).finished = (s.walker c).issued ∧
      t.frame.overrun.testBit r.seg = true ∧ (dOutPool r.bytes = false → t.frame.late.testBit r.seg = true) ∧
      ((s.walker c).queue = [] → ∀ o i q, objectOf s r.seg r.bytes = some o → r.next ≤ i → i < r.last →
        tileAt o r.bytes i = some q → isLate t c o r q) ∧
      ((s.walker c).queue = [] → t.reg 0x4C1002 =
        if s.frame.overrun.testBit r.seg then s.reg 0x4C1002 else (s.reg 0x4C1002 + 1) % 2 ^ 32) ∧
      otherWalkers s t c

/-- A planned tile commits when it ends inside its window; what cannot is abandoned (R26, R27). Commands that complete here:
TILE_COMMIT. -/
def Obligations.PlannedTilesCommitOrAreLate : Prop :=
  plannedTileCommitsPart ∧ abandonedWorkIsLatePart

/-- A committed tile completes when its time is over. A planned one leaves the instruction at a later tile, done when its
share is; a pooled one frees the cluster, and the job is DONE once its counter has reached its tile count and no cluster
holds a tile of it (R91, R96). -/
def tilePart : Prop :=
  ∀ (s : State) (c n at_ : Nat) (ups : List (Nat × Nat × Nat × Int)) (r : Running) (o : WObj) (q : Tile),
    s.active = true → (s.walker c).running = some r → r.tile = some (n, at_) → objectOf s r.seg r.bytes = some o →
    r.ready ≤ s.now → tileAt o r.bytes n = some q → c < 8 → c < s.walkers.length →
      ((s.walker c).job = none →
        ∃ t r', exec (.tileComplete c ups) s = .next t ∧ (t.walker c).running = some r' ∧ r'.tile = none ∧
          r'.accs = [] ∧ n < r'.next ∧ r'.did = r.did + 1 ∧ r'.last = r.last ∧ r'.done = decide (r.last ≤ r'.next) ∧
          (t.walker c).queue = (s.walker c).queue ∧ (t.walker c).lens = (s.walker c).lens ∧ otherWalkers s t c ∧
          t = { s with walkers := t.walkers, ahead := t.ahead, pool := t.pool, od := t.od, pods := t.pods, integ := t.integ,
                       heads := t.heads, test := t.test,
                       frame := { s.frame with fault := t.frame.fault, clip := t.frame.clip } }) ∧
      (∀ j, j < 16 → (s.walker c).job = some j →
        ∃ t, exec (.tileComplete c ups) s = .next t ∧ (t.walker c).running = none ∧ (t.walker c).job = none ∧
          (t.walker c).queue = (s.walker c).queue ∧ t.reg (jobReg j 2) = s.reg (jobReg j 2) ∧
          (s.reg (jobReg j 3) ≤ s.reg (jobReg j 2) → (∀ k, k ≠ c → (s.walker k).job ≠ some j) →
            t.jobState j = 3) ∧
          ((s.reg (jobReg j 2) < s.reg (jobReg j 3) ∨ ∃ k, k ≠ c ∧ (s.walker k).job = some j) →
            t.jobState j = s.jobState j))

/-- A vector whose input was tainted, and a vector beyond the batch length, come out as zeros with validity clear: every
element of the completed tile's row in the buffer (R91, R117). -/
def taintedVectorsAreInvalidPart : Prop :=
  ∀ (s : State) (c n at_ i j : Nat) (ups : List (Nat × Nat × Nat × Int)) (r : Running) (o : WObj) (q : Tile) (g : SegImage),
    s.active = true → (s.walker c).running = some r → r.tile = some (n, at_) → (s.walker c).job = none →
    s.segImg r.seg = some g → objOf g (dObj r.bytes) = some o → r.ready ≤ s.now → tileAt o r.bytes n = some q →
    c < s.walkers.length → dOutPool r.bytes = false → i < q.nb → j < q.nc →
    dN r.bytes * elemSize (chainOf g c (dChain r.bytes)) ≤ dOutStride r.bytes → q.c0 + q.nc ≤ dN r.bytes →
    (∀ row ∈ r.accs, row.length ≤ q.nc) → (r.accs[i]? = none ∨ (r.accs[i]?.isSome ∧ i ∈ r.taint)) →
      ∃ t, exec (.tileComplete c ups) s = .next t ∧
        ∀ k, k < elemSize (chainOf g c (dChain r.bytes)) →
          let a := dOut r.bytes + (q.b0 + i) * dOutStride r.bytes +
            (q.c0 + j) * elemSize (chainOf g c (dChain r.bytes)) + k
          mget 0 (t.walker c).buffer a = 0 ∧ a ∉ (t.walker c).valid

/-- What a drained element becomes in the buffer: an unmarked one, and a marked one under the policy SATURATE, its value
with validity set; a marked one under POISON zero with validity clear and counted (R116). One whose residue did not match in
some step is zero with validity clear, is counted, and its segment's records carry FAULT (R106). -/
def elementOutputFollowsClipPolicyPart : Prop :=
  ∀ (s : State) (c seg b j : Nat) (r : Running) (steps : List (BitVec 64)) (ups : List (Nat × Nat × Nat × Int)) (acc : Accum)
    (poison : Bool) (fmt : Nat) (v : Int) (e : Elem),
    c < 8 → c < s.walkers.length → dOutPool r.bytes = false →
    e = runChain (s.walker c) steps b j ((ups.filter fun y => y.1 = b && y.2.1 = j).map fun y => y.2.2) acc →
      let m := e.marked
      let size := elemSize steps
      let a := dOut r.bytes + b * dOutStride r.bytes + j * size
      ∀ t, t = (s.emit c seg r steps ups b j acc).2 →
        (e.bad ≠ none →
          leNat (readCells (t.walker c).buffer a size) = 0 ∧ (∀ k, k < size → a + k ∉ (t.walker c).valid) ∧
          t.reg (okey (0x3300 + c) 3) = (s.reg (okey (0x3300 + c) 3) + 1) % 2 ^ 32 ∧ t.frame.fault.testBit seg = true) ∧
        (e.bad = none → e.quant = some (fmt, v, poison) → m = false ∨ poison = false →
          leNat (readCells (t.walker c).buffer a size) = unsignedOf 16 v % 256 ^ size ∧
          (∀ k, k < size → a + k ∈ (t.walker c).valid) ∧
          (m = true → t.reg (okey (0x3300 + c) 1) = (s.reg (okey (0x3300 + c) 1) + 1) % 2 ^ 32 ∧
            t.frame.clip.testBit seg = true)) ∧
        (e.bad = none → e.quant = some (fmt, v, poison) → m = true → poison = true →
          leNat (readCells (t.walker c).buffer a size) = 0 ∧ (∀ k, k < size → a + k ∉ (t.walker c).valid) ∧
          t.reg (okey (0x3300 + c) 2) = (s.reg (okey (0x3300 + c) 2) + 1) % 2 ^ 32) ∧
        (∀ a', (a' < a ∨ a + size ≤ a') → mget 0 (t.walker c).buffer a' = mget 0 (s.walker c).buffer a') ∧
        otherWalkers s t c

/-- Validity of the output and the clip policy of its elements. Commands that complete here: TILE_COMPLETE. -/
def Obligations.ValidityAndClipPolicy : Prop :=
  taintedVectorsAreInvalidPart ∧ elementOutputFollowsClipPolicyPart

/-- An instruction whose tiles are done completes when no drain pip is triggered: the cluster is free, the item counts as
finished with the moves behind it, which are performed, and the queue goes on behind them. A triggered drain pip that fits
the window runs first; one that runs in place from a pod that is no source any more does not run, and the instruction
completes with zero output (R127, R146, R147, R155). -/
def instructionPart : Prop :=
  ∀ (s : State) (c : Nat) (r : Running), s.active = true → (s.walker c).running = some r → (s.walker c).job = none →
    r.done = true → r.tile = none → r.ready ≤ s.now → (s.pip (c + 4)).running = false → c < s.walkers.length →
      ((r.ran = true ∨ r.did = 0 ∨ s.trigger c r = none) →
        ∃ t, exec (.macroInstructionComplete c) s = .next t ∧ (t.walker c).running = none ∧
          (t.walker c).queue = (s.walker c).queue.dropWhile isMove ∧
          (t.walker c).finished = (s.walker c).finished + 1 + ((s.walker c).queue.takeWhile isMove).length ∧
          otherWalkers s t c ∧ t = { s with walkers := t.walkers, od := t.od, pool := t.pool, test := t.test } ∧
          ((s.walker c).queue.takeWhile isMove = [] → stepsOf (((s.segImg r.seg).map fun g =>
              chainOf g c (dChain r.bytes)).getD []) 6 = [] →
            (t.walker c).lens = (s.walker c).lens ∧ (t.walker c).buffer = (s.walker c).buffer)) ∧
      (∀ p, r.ran = false → r.did ≠ 0 → s.trigger c r = some p → p.image.inPlace = true → p.slot ∈ (s.clu c).noSource →
        (s.walker c).queue.takeWhile isMove = [] →
        ∃ t, exec (.macroInstructionComplete c) s = .next t ∧ (t.walker c).running = none ∧ t.pips = s.pips ∧
          let g := s.drainRegion (c + 4)
          (∀ a, g.1 ≤ a → a < g.1 + g.2 → mget 0 (t.walker c).buffer a = 0 ∧ a ∉ (t.walker c).valid) ∧
          ∀ a, (a < g.1 ∨ g.1 + g.2 ≤ a) → mget 0 (t.walker c).buffer a = mget 0 (s.walker c).buffer a) ∧
      (∀ p x, r.ran = false → r.did ≠ 0 → s.trigger c r = some p →
        ¬ (p.image.inPlace = true ∧ p.slot ∈ (s.clu c).noSource) →
        s.openWindow = some x → c + 4 < s.pips.length →
        (s.now + p.runTime ≤ s.frame.start + x.2.2 →
          ∃ t, exec (.macroInstructionComplete c) s = .next t ∧ (t.pip (c + 4)).running = true ∧
            (t.pip (c + 4)).image = some p.image ∧ (t.pip (c + 4)).pc = p.image.entry ∧ (t.pip (c + 4)).limit = p.runTime ∧
            (t.pip (c + 4)).start = s.now ∧ (t.pip (c + 4)).regs = List.replicate 16 0 ∧
            (t.walker c).running = some { r with ran := true } ∧ otherWalkers s t c) ∧
        (s.frame.start + x.2.2 < s.now + p.runTime →
          ∃ t, exec (.macroInstructionComplete c) s = .next t ∧ (t.walker c).running = none ∧
            t.frame.late.testBit r.seg = true ∧ t.frame.overrun.testBit r.seg = true))

/-- A tile's completion and its instruction's (R90 to R93, R146). Commands that complete here: TILE_COMPLETE,
MACRO_INSTRUCTION_COMPLETE. -/
def Obligations.TilesAndInstructionsComplete : Prop :=
  tilePart ∧ instructionPart

/-- The Owner or the owning party pauses a running job, which keeps its counter, and lets it resume (R97). -/
def jobPauseAndResumePart : Prop :=
  ∀ (s : State) (r : Req) (j v : Nat), v ≤ 1 → j < s.jobs.length → j < 16 →
    s.writeCheck r (0x3210 + j) 6 v = .status stOk →
    ((s.role r.party = 2 ∨ s.reg (jobReg j 4) = r.party) →
      ∃ t, exec (if v = 1 then .jobPause r j else .jobResume r j) s = .next t ∧
        (t.job j).asked = decide (v = 1) ∧ writeAnswered s t r (0x3210 + j) stOk ∧
        (v = 1 → s.jobState j = 1 → t.jobState j = 2 ∧ (t.job j).saved = s.reg (jobReg j 2)) ∧
        ((v = 0 ∨ s.jobState j ≠ 1) → t.jobState j = s.jobState j ∧ (t.job j).saved = (s.job j).saved) ∧
        otherRegs s t [jobReg j 1] ∧ (∀ i, i ≠ j → t.job i = s.job i) ∧
        touchesReply { s with jobs := t.jobs } t) ∧
    (s.role r.party ≠ 2 → s.reg (jobReg j 4) ≠ r.party →
      ∃ t, exec (if v = 1 then .jobPause r j else .jobResume r j) s = .next t ∧
        writeAnswered s t r (0x3210 + j) stDenied ∧ otherRegs s t [] ∧ touchesReply s t)

/-- Pooled tiles, and pause and resume of their jobs (R33, R96, R97). Commands that complete here: TILE_COMMIT, JOB_PAUSE,
JOB_RESUME. -/
def Obligations.PooledTilesAndJobsComplete : Prop :=
  pooledTileCommitsPart ∧ jobPauseAndResumePart

/-! ## The shared pool (14)

`s.peek p a` is the byte that party p reads at a physical address: zero on chaff, its own working value on a line it holds,
else the written-back value. `addrsOf g n` lists the physical addresses of the n bytes that a request names. -/

/-- A request on one range passes checks 1, 2, 4, 5, 6 and 7 of Table POOL-2: the range g of n bytes is the requester's or
granted to it and stands, its pages are mapped (and writable where the operation writes), the context is resident and the
credit covers it; the device serves the pool, and an ORDERED request has nothing before it (R283, R298, R301). -/
def poolPasses (s : State) (r : Req) (x : PoolReq) (g : Range) (n : Nat) (write clear : Bool) : Prop :=
  s.poolMute = false ∧ s.orderedWaits r x = false ∧ s.poolServe = none ∧ x.flags < 2 ∧ x.addr + n ≤ 2 ^ 40 ∧
    s.locate r.party x.ctx x.addr x.handle clear = .ok g ∧ reach g n write = none ∧ g.ctx.resident = true ∧
    s.credit r.party = true ∧ r.party < s.net.parties.length

/-- A pool request is answered; the load field is a sixteenth of the engine's occupied slots, at most 15 (which requests occupy
one is log 63), the credit field the bucket levels after the operation (R302). -/
def poolAnswered (s t : State) (r : Req) (op st : Nat) (data : List Byte) : Prop :=
  answered s t r 2 op st (min 15 ((s.net.accepted.filter fun m => field m.2.2.1 1 1 = 2).length / 16))
    (t.creditField r.party) data

/-- No byte of the pool changes for any party but at the named addresses, while no transaction trace is in force (a trace
writes its own ring, R411). -/
def poolFrame (s t : State) (as : List Nat) : Prop :=
  s.test.trace = [] → ∀ p a, a ∉ as → t.peek p a = s.peek p a

/-- The held lines with their working values are as before, while no transaction trace is in force. -/
def holdsKept (s t : State) : Prop := s.test.trace = [] → t.pool.holds = s.pool.holds

/-- What a pool operation may touch besides: its answer, counters, the log for a corrected line with the records of the frame
that carry FAULT for it, the count of free values. -/
def touchesPoolOp (s t : State) : Prop :=
  touchesReply { s with frame := { s.frame with fault := t.frame.fault }, integ := t.integ, free := t.free } t

/-- Every held line has a working value of 64 bytes (R287). -/
def workingValues (s : State) : Prop := ∀ h ∈ s.pool.holds, h.work.length = 64

/-- READ answers the bytes that the requester sees, with OK, CHAFF or HELD, and changes no byte; a line that DRAM cannot
correct gives no answer and stops the pool until the warm reset 2 µs later (R285, R287, R291, R323). -/
def poolReadAnswersWhatIsSeenPart : Prop :=
  ∀ (s : State) (r : Req) (x : PoolReq) (g : Range) (ecc : Ecc), poolPasses s r x g x.count false false →
    x.opFlags = 0 → x.args = [] → 1 ≤ x.count → x.count ≤ 1024 → x.count ≤ s.payloadLimit r.port →
      (ecc ≠ .uncorrectable →
        ∃ t, exec (.poolRead r x ecc) s = .next t ∧
          poolAnswered s t r 0x0101 (s.readStatus r.party (linesOf (addrsOf g x.count)))
            ((addrsOf g x.count).map (s.peek r.party)) ∧
          poolFrame s t [] ∧ touchesPoolOp s t) ∧
      (ecc = .uncorrectable → s.inHold = false →
        ∃ t, exec (.poolRead r x ecc) s = .next t ∧ t.pool.closed = true ∧ t.husk.resetAt = some (s.now + 2000) ∧
          t.husk.ueLine = some ((addrsOf g x.count).headD 0 / 64) ∧ t.net = s.net ∧ t.out = s.out ∧
          t.pool.mem = s.pool.mem)

/-- None of the named bytes belongs to a doorbell line of a queue whose commands would be refused at once: one of a party's
context that is not resident while no share of residency is open to it (R263, R264). -/
def noRefusedBell (s : State) (p : Nat) (as : List Nat) : Prop :=
  ∀ c ∈ s.pool.ctxs, c.party = p → c.resident = false → s.shareShut p = true → ∀ q ∈ c.queues, ∀ ph, physOf c q.bell = some ph →
    ∀ a ∈ as, a < ph ∨ ph + 4 ≤ a

/-- WRITE puts every byte of its data where the requester reads it, and no other byte changes, but for the completion records of
commands that a rung doorbell has refused (R263); where a line is a fence line, chaff or held by another party it answers DENIED,
CHAFF or HELD and changes nothing (R284, R285, R287, R291). -/
def poolWriteIsSeenAndBoundedPart : Prop :=
  ∀ (s : State) (r : Req) (x : PoolReq) (g : Range), poolPasses s r x g x.count true false → workingValues s →
    x.opFlags = 0 → 1 ≤ x.count → x.count ≤ 1024 → x.count + 24 ≤ s.payloadLimit r.port → x.args.length = x.count →
      let as := addrsOf g x.count
      ∃ t, exec (.poolWrite r x) s = .next t ∧ poolAnswered s t r 0x0102 (s.writeStatus r.party (linesOf as)) [] ∧
        touchesPoolOp s t ∧
        (s.writeStatus r.party (linesOf as) = stOk → noRefusedBell s r.party as → poolFrame s t as ∧
          (s.test.trace = [] → ∀ i, i < x.count → (∀ k, i < k → k < x.count → as.getD k 0 ≠ as.getD i 0) →
            t.peek r.party (as.getD i 0) = x.args.getD i 0)) ∧
        (s.writeStatus r.party (linesOf as) ≠ stOk → poolFrame s t [])

/-- READ and WRITE through the pool engine (R285). Commands that complete here: POOL_READ, POOL_WRITE. -/
def Obligations.PoolReadsAndWritesComplete : Prop :=
  poolReadAnswersWhatIsSeenPart ∧ poolWriteIsSeenAndBoundedPart

/-- The atomics: each answers the word's old value and leaves the new one, on the working value when the requester holds the
line; the word alone changes (R293). Commands that complete here: FADD, CAS, POOL_MAX. -/
def Obligations.PoolAtomicsReturnOldValue : Prop :=
  ∀ (s : State) (r : Req) (x : PoolReq) (g : Range),
    let size := if x.opFlags = 1 then 8 else 4
    let as := addrsOf g size
    let old := leNat (as.map (s.peek r.party))
    let arg := fun i => field x.args (8 * i) size
    ∀ row ∈ ([(.fadd, 0x0110, 1, (old + arg 0) % 256 ^ size), (.cas, 0x0111, 2, if old = arg 0 then arg 1 else old),
        (.poolMax, 0x0112, 1, max old (arg 0))] : List ((Req → PoolReq → Instr) × Nat × Nat × Nat)),
      poolPasses s r x g size true false → workingValues s → x.opFlags < 2 → x.count = 0 →
      x.args.length = 8 * row.2.2.1 → x.addr % size = 0 → as.Nodup →
        ∃ t, exec (row.1 r x) s = .next t ∧ touchesPoolOp s t ∧
          (s.writeStatus r.party (linesOf as) = stOk →
            poolAnswered s t r row.2.1 stOk (leBytes 8 old) ∧ poolFrame s t as ∧
            (s.test.trace = [] → leNat (as.map (t.peek r.party)) = row.2.2.2)) ∧
          (s.writeStatus r.party (linesOf as) ≠ stOk →
            poolAnswered s t r row.2.1 (s.writeStatus r.party (linesOf as)) [] ∧ poolFrame s t [])

/-- The checks of an operation on lines and leases: 1 to 64 lines within one page from a line-aligned address. -/
def lineArgs (x : PoolReq) : Prop :=
  1 ≤ x.count ∧ x.count ≤ 64 ∧ x.addr % 64 = 0 ∧ x.addr / 4096 = (x.addr + x.count * 64 - 1) / 4096

/-- HOLD takes every named line for the requester until the lease's end and answers that instant; no byte changes for
anybody. It answers DENIED, CHAFF, HELD or LIMIT and takes no line where a line or a limit forbids it (R286). -/
def holdTakesLinesPart : Prop :=
  ∀ (s : State) (r : Req) (x : PoolReq) (g : Range), poolPasses s r x g (x.count * 64) true false →
    x.opFlags = 0 → lineArgs x → x.args.length = 4 → leNat x.args ≤ 5000 →
      let ls := heldLines g x
      let new := ls.filter fun l => (s.heldBy l).isNone
      let tooMany := 4096 < s.pool.holds.length + new.length ∨ s.holdLimit r.party < s.heldCount r.party + new.length
      ∃ t, exec (.hold r x) s = .next t ∧ touchesPoolOp s t ∧ poolFrame s t [] ∧
        (s.writeStatus r.party ls = stOk → ¬ tooMany →
          poolAnswered s t r 0x0103 stOk (leBytes 8 (s.leaseEnd (s.leaseMs x))) ∧
          (∀ l ∈ ls, ∃ h, t.heldBy l = some h ∧ h.party = r.party ∧ h.endAt = s.leaseEnd (s.leaseMs x)) ∧
          (s.test.trace = [] → ∀ l, l ∉ ls → t.heldBy l = s.heldBy l)) ∧
        (s.writeStatus r.party ls ≠ stOk →
          poolAnswered s t r 0x0103 (s.writeStatus r.party ls) [] ∧ holdsKept s t) ∧
        (s.writeStatus r.party ls = stOk → tooMany → poolAnswered s t r 0x0103 stLimit [] ∧ holdsKept s t)

/-- RENEW moves the lease end of the lines it names, and RELEASE ends their holds: with WRITEBACK, or without DISCARD, the
written-back value becomes the working value; otherwise no written-back value changes. A line that the requester does not
hold answers NO_OBJECT, or CHAFF for a RENEW of a chaff line, and changes nothing (R288, R291). -/
def renewAndReleaseOfHoldsPart : Prop :=
  ∀ (s : State) (r : Req) (x : PoolReq) (g : Range), poolPasses s r x g (x.count * 64) true false → workingValues s →
    x.opFlags < 2 → lineArgs x →
      let ls := heldLines g x
      let mine := ∀ l ∈ ls, ∃ h, s.heldBy l = some h ∧ h.party = r.party
      let others := fun (t : State) => s.test.trace = [] → ∀ a, a / 64 ∉ ls → mget 0 t.pool.mem a = mget 0 s.pool.mem a
      let back := fun (t : State) => s.test.trace = [] → ∀ l ∈ ls, ∀ h, s.heldBy l = some h → ∀ i, i < 64 →
        mget 0 t.pool.mem (l * 64 + i) = h.work.getD i 0
      (x.args.length = 4 → leNat x.args ≤ 5000 → (∀ l ∈ ls, s.isChaff l = false) →
        ∃ t, exec (.renew r x) s = .next t ∧ touchesPoolOp s t ∧
          (mine → poolAnswered s t r 0x0104 stOk (leBytes 8 (s.leaseEnd (s.leaseMs x))) ∧
            (∀ l ∈ ls, (t.heldBy l).map (·.endAt) = some (s.leaseEnd (s.leaseMs x)) ∧
              (s.test.trace = [] → (t.heldBy l).map (·.work) = (s.heldBy l).map (·.work))) ∧
            (s.test.trace = [] → ∀ l, l ∉ ls → t.heldBy l = s.heldBy l) ∧ others t ∧
            (x.opFlags = 1 → back t) ∧ (x.opFlags = 0 → s.test.trace = [] → t.pool.mem = s.pool.mem)) ∧
          (¬ mine → poolAnswered s t r 0x0104 stNoObject [] ∧ holdsKept s t)) ∧
      (x.args.length = 4 → leNat x.args ≤ 5000 → (∃ l ∈ ls, s.isChaff l = true) →
        ∃ t, exec (.renew r x) s = .next t ∧ touchesPoolOp s t ∧ poolAnswered s t r 0x0104 stChaff [] ∧ holdsKept s t) ∧
      (x.args = [] →
        ∃ t, exec (.release r x) s = .next t ∧ touchesPoolOp s t ∧
          (mine → poolAnswered s t r 0x0105 stOk [] ∧ (∀ l ∈ ls, t.heldBy l = none) ∧
            (s.test.trace = [] → ∀ l, l ∉ ls → t.heldBy l = s.heldBy l) ∧ others t ∧
            (x.opFlags = 0 → back t) ∧ (x.opFlags = 1 → s.test.trace = [] → t.pool.mem = s.pool.mem)) ∧
          (¬ mine → poolAnswered s t r 0x0105 stNoObject [] ∧ holdsKept s t))

/-- HOLD, RENEW and RELEASE (R286 to R290). Commands that complete here: HOLD, RENEW, RELEASE. -/
def Obligations.HoldsComplete : Prop :=
  holdTakesLinesPart ∧ renewAndReleaseOfHoldsPart

/-- CLEAR takes the chaff mark from every line it names; without ZERO a line takes its written-back value, with ZERO zeros.
Lines that are not chaff, and lines it does not name, are unchanged; through a grant it is DENIED (R280, R292). -/
def clearRemovesChaffPart : Prop :=
  ∀ (s : State) (r : Req) (x : PoolReq) (g : Range), poolPasses s r x g (x.count * 64) false true →
    x.opFlags < 2 → lineArgs x → x.args = [] →
      let ls := heldLines g x
      ∃ t, exec (.clear r x) s = .next t ∧ touchesPoolOp s t ∧
        (g.grant ≠ none → poolAnswered s t r 0x0106 stDenied [] ∧ t.pool.chaff = s.pool.chaff) ∧
        (g.grant = none → poolAnswered s t r 0x0106 stOk [] ∧ (∀ l ∈ ls, t.isChaff l = false) ∧
          (∀ l, l ∉ ls → t.isChaff l = s.isChaff l) ∧
          (s.test.trace = [] → (∀ f ∈ s.pool.fences, f.mirror = false → f.phys % 64 ≤ 56) →
            (∀ l ∈ ls, s.isChaff l = true → s.fenceLine l = false → ∀ i, i < 64 →
              mget 0 t.pool.mem (l * 64 + i) = if x.opFlags = 1 then 0 else mget 0 s.pool.mem (l * 64 + i)) ∧
            (∀ a, (a / 64 ∉ ls ∨ s.isChaff (a / 64) = false) →
              mget 0 t.pool.mem a = mget 0 s.pool.mem a)))

/-- At a tick of the lease clock every line whose lease has ended is chaff and no longer held, no other line changes its
state, and no written-back value changes (R289, R290). -/
def leaseExpiryMakesChaffPart : Prop :=
  ∀ (s : State), s.poolMute = false → s.poolServe = none → s.pool.leaseTick < s.deviceTime / 1000000 →
    let ended := fun l => ∃ h ∈ s.pool.holds, h.line = l ∧ h.endAt ≤ s.deviceTime / 1000000 * 1000000
    ∃ t, exec .leaseExpiry s = .next t ∧ t.pool.leaseTick = s.deviceTime / 1000000 ∧
      (∀ l, ended l → t.isChaff l = true ∧ t.heldBy l = none) ∧
      (∀ l, ¬ ended l → t.isChaff l = s.isChaff l ∧ t.heldBy l = s.heldBy l) ∧
      t.pool.mem = s.pool.mem ∧ t = { s with pool := t.pool, od := t.od }

/-- A lease that ends makes chaff, and CLEAR removes it (R290 to R292). Commands that complete here: CLEAR, LEASE_EXPIRY. -/
def Obligations.ChaffBeginsAndEnds : Prop :=
  clearRemovesChaffPart ∧ leaseExpiryMakesChaffPart

/-- FILL repeats its pattern over the range, and COPY leaves at the destination the source's bytes as they stood, its status
showing chaff or held source lines; nothing else changes. A destination that forbids it leaves everything unchanged (R295). -/
def fillAndCopyPart : Prop :=
  ∀ (s : State) (r : Req) (x : PoolReq) (d : Range),
    let as := addrsOf d x.count
    let ok := s.writeStatus r.party (linesOf as) = stOk
    (poolPasses s r x d x.count true false → workingValues s → x.opFlags = 0 → as.Nodup →
      (8 ≤ x.count → x.count ≤ 1048576 → x.count % 8 = 0 → x.addr % 8 = 0 → x.args.length = 8 →
        ∃ t, exec (.fill r x) s = .next t ∧ touchesPoolOp s t ∧
          poolAnswered s t r 0x0120 (s.writeStatus r.party (linesOf as)) [] ∧
          (ok → poolFrame s t as ∧
            (s.test.trace = [] → ∀ i, i < x.count → t.peek r.party (as.getD i 0) = x.args.getD (i % 8) 0)) ∧
          (¬ ok → poolFrame s t [])) ∧
      (∀ q, 1 ≤ x.count → x.count ≤ 1048576 → secondOk x = true → s.second r.party x = .ok q →
        reach q x.count false = none → q.ctx.resident = true →
        ∃ t, exec (.copy r x) s = .next t ∧ touchesPoolOp s t ∧
          (ok → poolAnswered s t r 0x0121 (s.readStatus r.party (linesOf (addrsOf q x.count))) [] ∧ poolFrame s t as ∧
            (s.test.trace = [] → ∀ i, i < x.count →
              t.peek r.party (as.getD i 0) = s.peek r.party ((addrsOf q x.count).getD i 0))) ∧
          (¬ ok → poolAnswered s t r 0x0121 (s.writeStatus r.party (linesOf as)) [] ∧ poolFrame s t [])))

/-- COMPARE answers the first offset at which two ranges differ, all ones when they are equal; REDUCE of INT32 the exact sum,
or the smallest or largest element with its first index; through a grant REDUCE is DENIED. Neither changes a byte (R280,
R295, R296). -/
def compareAndReducePart : Prop :=
  ∀ (s : State) (r : Req) (x : PoolReq) (d : Range),
    (∀ q, poolPasses s r x d x.count false false → x.opFlags = 0 → 1 ≤ x.count → x.count ≤ 1048576 → secondOk x = true →
      s.second r.party x = .ok q → reach q x.count false = none → q.ctx.resident = true →
      let a := (addrsOf d x.count).map (s.peek r.party)
      let b := (addrsOf q x.count).map (s.peek r.party)
      ∃ t n, exec (.compare r x) s = .next t ∧ touchesPoolOp s t ∧ poolFrame s t [] ∧
        poolAnswered s t r 0x0122 (s.readStatus r.party (linesOf (addrsOf d x.count ++ addrsOf q x.count))) (leBytes 4 n) ∧
        (a = b → n = 0xFFFFFFFF) ∧
        (a ≠ b → n < x.count ∧ a.getD n 0 ≠ b.getD n 0 ∧ ∀ i, i < n → a.getD i 0 = b.getD i 0)) ∧
    (poolPasses s r x d (x.count * 4) false false → d.grant ≠ none → x.opFlags < 3 → 1 ≤ x.count → x.count ≤ 262144 →
      x.addr % 4 = 0 → x.args = [] →
      ∃ t, exec (.reduce r x) s = .next t ∧ touchesPoolOp s t ∧ poolFrame s t [] ∧ poolAnswered s t r 0x0123 stDenied []) ∧
    (poolPasses s r x d (x.count * 4) false false → d.grant = none → x.opFlags < 3 → 1 ≤ x.count → x.count ≤ 262144 →
      x.addr % 4 = 0 → x.args = [] →
      let bs := (addrsOf d (x.count * 4)).map (s.peek r.party)
      let el := fun i => (BitVec.ofNat 32 (field bs (4 * i) 4)).toInt
      ∃ t v i, exec (.reduce r x) s = .next t ∧ touchesPoolOp s t ∧ poolFrame s t [] ∧
        poolAnswered s t r 0x0123 (s.readStatus r.party (linesOf (addrsOf d (x.count * 4))))
          (leBytes 8 (BitVec.ofInt 64 v).toNat ++ leBytes 4 i) ∧
        (x.opFlags = 0 → v = ((List.range x.count).map el).sum ∧ i = 0) ∧
        (x.opFlags = 1 → i < x.count ∧ v = el i ∧ (∀ j, j < x.count → v ≤ el j) ∧ ∀ j, j < i → v < el j) ∧
        (x.opFlags = 2 → i < x.count ∧ v = el i ∧ (∀ j, j < x.count → el j ≤ v) ∧ ∀ j, j < i → el j < v))

/-- FILL, COPY, COMPARE and the reductions (R285, R293 to R296). Commands that complete here: FILL, COPY, COMPARE, REDUCE. -/
def Obligations.PoolBulkOperationsComplete : Prop :=
  fillAndCopyPart ∧ compareAndReducePart

/-- A fence never falls: FENCE_ADVANCE through a context of its owner raises it to the maximum of its value and the argument
and answers the value after; the word reads so unless its line is chaff, which answers CHAFF. Through a grant it is DENIED,
on another word NO_OBJECT. FENCE_READ answers the value that a handle names (R268, R269, R294). -/
def fencesThroughThePoolPart : Prop :=
  ∀ (s : State) (r : Req) (x : PoolReq),
    (∀ g, poolPasses s r x g 8 true false → x.opFlags = 0 → x.count = 0 → x.args.length = 8 → x.addr % 8 = 0 →
      ∃ t, exec (.poolFenceAdvance r x) s = .next t ∧
        (g.grant ≠ none → poolAnswered s t r 0x0113 stDenied [] ∧ t.pool.fences = s.pool.fences) ∧
        (g.grant = none → s.ownFence r.party g.ctx.num g.base = none →
          poolAnswered s t r 0x0113 stNoObject [] ∧ t.pool.fences = s.pool.fences) ∧
        (∀ f, g.grant = none → s.ownFence r.party g.ctx.num g.base = some f →
          poolAnswered s t r 0x0113 (if s.isChaff (f.phys / 64) then stChaff else stOk)
            (leBytes 8 (max f.value (leNat x.args))) ∧
          t.pool.fences = s.pool.fences.map (fun h =>
            if h.idx = f.idx then { h with value := max f.value (leNat x.args) } else h) ∧
          (s.test.trace = [] → (∀ a, (a < f.phys ∨ f.phys + 8 ≤ a) → mget 0 t.pool.mem a = mget 0 s.pool.mem a) ∧
            (s.isChaff (f.phys / 64) = false →
              leNat (readCells t.pool.mem f.phys 8) = max f.value (leNat x.args) % 2 ^ 64) ∧
            (s.isChaff (f.phys / 64) = true → t.pool.mem = s.pool.mem)))) ∧
    (∀ f, s.poolMute = false → s.orderedWaits r x = false → s.poolServe = none → x.flags < 2 → s.credit r.party = true →
      r.party < s.net.parties.length → x.opFlags = 0 → x.count = 0 → x.args = [] → x.ctx = 0xFFFF → x.addr = 0 →
      s.fenceByHandle r.party x.handle = .ok f →
      ∃ t, exec (.fenceRead r x) s = .next t ∧ touchesPoolOp s t ∧ poolFrame s t [] ∧
        poolAnswered s t r 0x0114 (if f.mirror = false ∧ s.isChaff (f.phys / 64) = true then stChaff else stOk)
          (leBytes 8 f.value))

/-- GRANT enters one live grant of the range for its importer, with a generation one above that of the entry's last use, and
answers its handle; at a limit it answers LIMIT. UNGRANT of an own live grant is answered OK and invalidates it at the
boundary of R241 (R280, R281). -/
def grantAndUngrantPart : Prop :=
  ∀ (s : State) (r : Req) (x : PoolReq),
    (∀ g, poolPasses s r x g 0 false false → g.grant = none → x.opFlags = 0 → 1 ≤ x.count → x.count ≤ 16384 →
      x.addr + x.count * 4096 ≤ 2 ^ 40 → x.addr % 4096 = 0 → x.args.length = 8 → field x.args 0 1 < 16 →
      field x.args 0 1 ≠ r.party → 1 ≤ field x.args 1 1 → field x.args 1 1 ≤ 2 → field x.args 2 6 = 0 →
      ∃ t, exec (.grant r x) s = .next t ∧ touchesPoolOp s t ∧ poolFrame s t [] ∧
        (s.grantRoom r.party = none → poolAnswered s t r 0x0130 stLimit [] ∧ t.pool.grants = s.pool.grants) ∧
        (∀ i, s.grantRoom r.party = some i →
          ∃ n ∈ t.pool.grants, poolAnswered s t r 0x0130 stOk (leBytes 8 (grantHandle n)) ∧ n.idx = i ∧
            n.gen = (((s.pool.grants.find? (·.idx = i)).map (·.gen)).getD 0 + 1) % 2 ^ 32 ∧ n.src = r.party ∧
            n.importer = field x.args 0 1 ∧ n.ctx = g.ctx.num ∧ n.addr = x.addr ∧ n.pages = x.count ∧
            n.write = decide (field x.args 1 1 = 2) ∧ n.live = true ∧
            (∀ m ∈ t.pool.grants, m ≠ n → m ∈ s.pool.grants) ∧
            (∀ m ∈ s.pool.grants, m.idx ≠ i → m ∈ t.pool.grants))) ∧
    (∀ g, s.poolMute = false → s.orderedWaits r x = false → s.poolServe = none → x.flags < 2 → s.credit r.party = true →
      r.party < s.net.parties.length → x.opFlags = 0 → x.count = 0 → x.args = [] → x.ctx = 0xFFFF → x.addr = 0 →
      s.ungrantOf r.party x.handle = .ok g →
      ∃ t, exec (.ungrant r x) s = .next t ∧ poolFrame s t [] ∧ poolAnswered s t r 0x0131 stOk [] ∧
        t.pool.grants = s.pool.grants ∧ t.frame.staged = s.frame.staged ++ [⟨s.dueFrame, .ungrant (grantHandle g)⟩] ∧
        touchesPoolOp { s with frame := { s.frame with staged := t.frame.staged } } t)

/-- Fences and grants through the pool engine (R270, R271, R280 to R282). Commands that complete here: POOL_FENCE_ADVANCE,
FENCE_READ, GRANT, UNGRANT. -/
def Obligations.PoolFencesAndGrantsComplete : Prop :=
  fencesThroughThePoolPart ∧ grantAndUngrantPart

/-- A request that fails one of the first two checks is refused with that check's status and changes no byte, hold, grant or
fence: another party's context is DENIED, a revoked one REVOKED (R279, R283). -/
def Obligations.RefusedPoolRequestChangesNothing : Prop :=
  ∀ (s : State) (r : Req) (x : PoolReq) (c : Ctx), s.poolMute = false → s.orderedWaits r x = false → s.poolServe = none →
    r.party < s.net.parties.length → x.ctx ≠ 0xFFFF → s.ctx x.ctx = some c →
      ∀ row ∈ ([(fun r x => .poolRead r x .clean, 0x0101), (.poolWrite, 0x0102), (.hold, 0x0103), (.renew, 0x0104),
          (.release, 0x0105), (.fadd, 0x0110), (.cas, 0x0111), (.poolMax, 0x0112), (.poolFenceAdvance, 0x0113),
          (.fill, 0x0120), (.reduce, 0x0123), (.grant, 0x0130)] : List ((Req → PoolReq → Instr) × Nat)),
        ∃ t, exec (row.1 r x) s = .next t ∧
          (c.party ≠ r.party → poolAnswered s t r row.2 stDenied [] ∧ poolFrame s t [] ∧
            holdsKept s t ∧ t.pool.grants = s.pool.grants ∧ t.pool.fences = s.pool.fences) ∧
          (c.party = r.party → c.revoking = true → poolAnswered s t r row.2 stRevoked [] ∧ poolFrame s t [] ∧
            holdsKept s t ∧ t.pool.grants = s.pool.grants ∧ t.pool.fences = s.pool.fences)

/-- The newest record of the fault log is one of this class, cause, unit and detail. -/
def raised (t : State) (cls cause unit detail : Nat) : Prop :=
  t.integ.log.getLast?.map (fun r => (r.cls, r.cause, r.unit, r.detail)) = some (cls, cause, unit, detail)

/-! ## The board port and the debug port (18, 21) -/

/-- A transaction on the board port while it is served: STATUS sends the word of Table BOARD-2 and clears its sticky bits; PUT
fills a free mailbox with 16 to 4,116 bytes of the declared length, and any other PUT only sets PUT_LOST; GET on an empty
queue sends the length 0; a bad opcode sets its bit. The attention pulse ends after 1 µs. A port that is not served does
nothing (R416 to R423). -/
def boardTransactionsPart : Prop :=
  ∀ s : State,
    (s.boardServed = true →
      exec .status s = .next { s with
        out := s.out ++ [.board (leBytes 8 s.statusWord)],
        board := { s.board with putLost := false, resetDenied := false, badOp := false } } ∧
      (s.husk.stage < 8 → (s.boardParty.getD 0) < 16 → s.husk.railFails < 16 → (∀ m ∈ s.board.outq, m.2.length < 65536) →
        s.statusWord % 256 = s.stageField ∧ s.statusWord.testBit 8 = s.board.mailbox.isNone ∧
        s.statusWord.testBit 9 = !s.board.outq.isEmpty ∧ s.statusWord.testBit 10 = s.board.putLost ∧
        s.statusWord.testBit 11 = s.board.resetDenied ∧ s.statusWord.testBit 14 = s.board.badOp ∧
        s.statusWord / 2 ^ 16 % 2 ^ 16 = (s.board.outq.head?.map (·.2.length)).getD 0 ∧
        s.statusWord / 2 ^ 48 % 16 = s.boardParty.getD 0 ∧ s.statusWord / 2 ^ 52 % 16 = powerCode s.husk.power) ∧
      (∀ len bytes, s.board.mailbox = none → 16 ≤ len → len ≤ 4116 → bytes.length = len →
        exec (.put len bytes) s = .next { s with
          husk := { s.husk with hrdy := false },
          board := { s.board with mailbox := some bytes, pulse := none } }) ∧
      (∀ len bytes, (s.board.mailbox ≠ none ∨ len < 16 ∨ 4116 < len ∨ bytes.length ≠ len) →
        exec (.put len bytes) s = .next { s with board := { s.board with putLost := true } }) ∧
      (∀ n, s.board.outq = [] → exec (.get n) s = .next { s with out := s.out ++ [.board (leBytes 2 0)] }) ∧
      (∀ op : Byte, op ≠ 0x05 → op ≠ 0x02 → op ≠ 0x0B → op ≠ 0x99 →
        exec (.badOp op) s = .next { s with board := { s.board with badOp := true } })) ∧
    (s.boardServed = false → exec .status s = .next s ∧ (∀ n b, exec (.put n b) s = .next s) ∧
      (∀ n, exec (.get n) s = .next s) ∧ (∀ b c, exec (.reset b c) s = .next s) ∧ ∀ b, exec (.badOp b) s = .next s) ∧
    (∀ p, s.board.pulse = some p →
      (p + 1000 ≤ s.now → exec .attentionPulseEnd s = .next { s with
        board := { s.board with pulse := none },
        husk := { s.husk with hrdy := s.boardServed && s.board.mailbox.isNone } }) ∧
      (s.now < p + 1000 → exec .attentionPulseEnd s = .next s))

/-- The debug port answers nothing while debug is CLOSED. In VENDOR it reaches the first 16 KiB of the core's data memory
but neither buffers nor DRAM, in OPEN those too; no state of debug reaches the key store. What is reached is read as it
stands, or written in that place alone: DRAM as the ciphertext it holds, of which a write changes at most the 16-byte block
of its byte in plain (R278; the device-reserved part of DRAM has no stated content). An access that is not reached reads zero,
writes nothing and is counted. An engine halts and resumes in OPEN (R376 to R379). -/
def debugPortFollowsItsStatePart : Prop :=
  ∀ s : State, s.husk.power ≠ .off → s.husk.supply = true → s.husk.xtalStopped = false →
    (s.sec.debug = 0 → ∀ x op, exec (.debugPortAccess x op) s = .next s) ∧
    (s.sec.debug ≠ 0 →
      (∀ a v, (a < 0x4000 ∨ s.sec.debug = 2) →
        exec (.debugPortAccess (.coreData a) .read) s =
          .next { s with out := s.out ++ [.debugData (mget 0 s.core.dmem a).toNat] } ∧
        ∃ t, exec (.debugPortAccess (.coreData a) (.write v)) s = .next t ∧
          t = { s with core := { s.core with dmem := t.core.dmem } } ∧
          ∀ b, mget 0 t.core.dmem b = if b = a then BitVec.ofNat 8 v else mget 0 s.core.dmem b) ∧
      (∀ a v, s.sec.debug = 2 →
        (a < poolBytes → exec (.debugPortAccess (.dram a) .read) s =
          .next { s with out := s.out ++ [.debugData (s.dramByte a).toNat] }) ∧
        (poolBytes ≤ a → ∃ t n, exec (.debugPortAccess (.dram a) .read) s = .next t ∧ t.out = s.out ++ [.debugData n] ∧
          t = { s with out := t.out, free := t.free }) ∧
        ∃ t, exec (.debugPortAccess (.dram a) (.write v)) s = .next t ∧ t = { s with pool := t.pool } ∧
          (poolBytes ≤ a → t = s) ∧
          (a < poolBytes → ∀ b, (b / 16 ≠ a / 16 → mget 0 t.pool.mem b = mget 0 s.pool.mem b ∧ t.dramByte b = s.dramByte b) ∧
            ((∀ x ∈ s.pool.live, x.1 ≠ a / 4096) → t.pool.mem = s.pool.mem ∧
              t.dramByte b = if b = a then BitVec.ofNat 8 v else s.dramByte b))) ∧
      (∀ n, s.sec.debug = 2 →
        ∃ t, exec (.debugPortAccess (.engine n) .halt) s = .next t ∧ n ∈ t.sec.halted ∧
          (∀ m, m ≠ n → (m ∈ t.sec.halted ↔ m ∈ s.sec.halted)) ∧ t = { s with sec := { s.sec with halted := t.sec.halted } }) ∧
      (∀ x, (∃ k, x = .keyStore k) ∨ (s.sec.debug ≠ 2 ∧ ((∃ a, x = .dram a) ∨ ∃ c a, x = .buffer c a)) →
        exec (.debugPortAccess x .read) s = .next { s with
          out := s.out ++ [.debugData 0], sec := { s.sec with blocked := s.sec.blocked + 1 } } ∧
        ∀ v, exec (.debugPortAccess x (.write v)) s =
          .next { s with sec := { s.sec with blocked := s.sec.blocked + 1 } }))

/-- The board port and the debug port (R376 to R379, R416 to R423). Commands that complete here: STATUS, PUT, GET, RESET,
BAD_OP, ATTENTION_PULSE_END, DEBUG_PORT_ACCESS. -/
def Obligations.BoardAndDebugPortsComplete : Prop :=
  boardTransactionsPart ∧ debugPortFollowsItsStatePart

/-! ## Resets, power and the sprout (15, 16, 19) -/

/-- NRST low for a microsecond starts a warm reset, a shorter pulse nothing: the engines stop, HRDY falls, the pool takes no
request, and the reset follows 2 µs later; in HOLD it is held until HOLD ends (R392). -/
def resetInputStartsWarmResetPart : Prop :=
  ∀ (s : State) (width : Nat),
    (1000 ≤ width → s.husk.supply = true → s.husk.power ≠ .off →
      ∃ t, exec (.nrst width) s = .next t ∧ t.husk.nrstLow = true ∧
        (s.husk.power = .hold → t = { s with husk := { s.husk with nrstLow := true, resetHeld := true } }) ∧
        (s.husk.power ≠ .hold → t.husk.resetAt = some (if s.husk.xtalStopped then s.now else s.now + 2000) ∧
          t.husk.hrdy = false ∧ t.pool.closed = true ∧ t.frame.running = false ∧ t.core.seg = none ∧
          (∀ c, (t.walker c).queue = [] ∧ (t.walker c).running = none) ∧ t.pool.mem = s.pool.mem)) ∧
    (width < 1000 → exec (.nrst width) s = .next s) ∧
    exec .nrstRelease s = .next { s with husk := { s.husk with nrstLow := false } }

/-- The group of a pending update names clusters of the device. -/
def groupInRange (s : State) : Prop := ∀ g, s.loader.group = some g → ∀ m ∈ g.members, m.1 < 8

/-- A reset that is due begins a warm sprout after the husk, with both epochs advanced by one: DRAM, its holds, the plan, the
fault log and the slot maps stay, every other part of the logic is at its reset value; before DRAM is trained the sprout
is a restart (R392, R393, R394, R398). -/
def warmResetKeepsDramPart : Prop :=
  ∀ (s : State) (at_ : Nat), groupInRange s → s.husk.resetAt = some at_ → at_ ≤ s.now → s.husk.supply = true → s.husk.power ≠ .off →
    s.husk.power ≠ .hold →
      ∃ t, exec .warmReset s = .next t ∧ t.husk.power = .sprout ∧ t.husk.stage = 1 ∧ t.husk.resetAt = none ∧
        t.husk.hrdy = false ∧ t.husk.xtalStopped = false ∧ t.frame = { Frame.reset with live := t.frame.live } ∧
        t.core = Core.blank ∧ t.board = Board.reset ∧
        t.reg 0x300000 = (s.reg 0x300000 + 1) % 2 ^ 32 ∧ t.reg 0x310003 = (s.reg 0x310003 + 1) % 2 ^ 32 ∧
        (∀ c, c < 8 → t.reg (cluReg c 1) = s.reg (cluReg c 1) ∧ t.reg (cluReg c 2) = s.reg (cluReg c 2)) ∧
        (s.husk.dramOk = true → t.husk.kind = .warm ∧ t.pool.mem = s.pool.mem ∧ t.pool.holds = s.pool.holds ∧
          t.pool.chaff = s.pool.chaff ∧ t.loader.plan = s.loader.plan ∧ t.integ.log = s.integ.log) ∧
        (s.husk.dramOk = false → t.husk.kind = .restart ∧ t.pool.mem = [] ∧ t.loader.plan = none ∧ t.integ.log = [])

/-- The reset input and the warm reset (R392, R393). Commands that complete here: NRST, WARM_RESET, NRST_RELEASE. -/
def Obligations.WarmResetsComplete : Prop :=
  resetInputStartsWarmResetPart ∧ warmResetKeepsDramPart

/-- OFF: no domain but HUSK is powered, no frame runs, and DRAM is lost. -/
def isOff (t : State) : Prop :=
  t.husk.power = .off ∧ t.husk.rails = List.replicate 7 false ∧ t.frame.running = false ∧ t.pool.mem = [] ∧
    t.loader.plan = none ∧ t.husk.hrdy = false

/-- The ways to OFF and back: a lost HUSK supply ends everything; a comparator at 140 °C turns the device off with a
shutdown record of kind HARD, and the third within 24 h locks it in OFF; 10 s cooled it restarts; the supply's return begins a
sprout with the saved clock and with both epochs advanced past the saved ones by 2^20 and one (R340, R341, R393, R394). -/
def powerOffAndOnPart : Prop :=
  ∀ s : State, groupInRange s →
    (s.husk.supply = true →
      ∃ t, exec .huskSupplyLoss s = .next t ∧ isOff t ∧ t.husk.supply = false) ∧
    (∀ sensor reading, s.husk.supply = true → s.husk.power ≠ .off → 560 ≤ reading → sensor < 16 →
      let times := s.rtc :: s.husk.hardTimes.filter fun x => decide (s.rtc < x + 86400)
      ∃ t, exec (.hard sensor reading) s = .next t ∧ isOff t ∧ t.husk.hardTimes = times ∧
        t.husk.lockedOff = decide (3 ≤ times.length) ∧ t.husk.hardPending.isSome = true ∧
        t.husk.shutdowns.getLast?.map (fun x => (x.kind, x.sensor)) = some (2, sensor)) ∧
    (∀ since, s.husk.coolSince = some since → s.husk.power = .off → s.husk.hardPending.isSome = true →
      s.husk.lockedOff = false → s.husk.inputOk = true → s.husk.supply = true → since + 10000000000 ≤ s.now →
      ∃ t, exec .hardRestart s = .next t ∧ t.husk.power = .sprout ∧ t.husk.stage = 0 ∧
        t.reg 0x300000 = (s.reg 0x300000 + 1) % 2 ^ 32 ∧ t.reg 0x310003 = (s.reg 0x310003 + 1) % 2 ^ 32) ∧
    (s.husk.supply = false →
      ∃ t, exec .powerOn s = .next t ∧ t.husk.power = .sprout ∧ t.husk.stage = 0 ∧ t.husk.supply = true ∧
        t.husk.rtc = s.husk.saved.1 ∧ t.husk.oper = s.husk.saved.2.1 ∧
        t.reg 0x300000 = (s.husk.saved.2.2.1 + 2 ^ 20 + 1) % 2 ^ 32 ∧
        t.reg 0x310003 = (s.husk.saved.2.2.2 + 2 ^ 20 + 1) % 2 ^ 32)

/-- A rail that does not come up in stage RAILS drops every rail, and the next attempt is due after 100 ms, after three
failures every 10 s; then the rails rise again. A stopped crystal is latched. The husk saves its clock, operating time, both
epochs and the packet numbers every 60 s (R394, R427 to R430). -/
def railsCrystalAndSavePart : Prop :=
  ∀ s : State, s.husk.supply = true →
    (∀ rail, rail < 7 → s.husk.power = .sprout → s.husk.stage = 2 → s.husk.railRetryAt = none →
      exec (.railTimeout rail) s = .next { s with husk := { s.husk with
        failedRail := rail, railFails := min 15 (s.husk.railFails + 1), rails := List.replicate 7 false,
        railAttempts := s.husk.railAttempts + 1,
        railRetryAt := some (s.now + if s.husk.railAttempts < 2 then 100000000 else 10000000000) } }) ∧
    (∀ at_, s.husk.railRetryAt = some at_ → s.husk.power = .sprout →
      (at_ ≤ s.now → exec .railRetry s = .next { s with husk := { s.husk with railRetryAt := none } }) ∧
      (s.now < at_ → exec .railRetry s = .next s)) ∧
    (s.husk.power ≠ .off → exec .crystalStop s = .next { s with husk := { s.husk with xtalStopped := true } }) ∧
    (s.husk.power ≠ .off → s.husk.savedAt + 60000000000 ≤ s.now →
      ∃ t, exec .vaultSave s = .next t ∧
        t.husk = { s.husk with saved := (s.husk.rtc, s.husk.oper, s.reg 0x300000, s.reg 0x310003), savedAt := s.now } ∧
        t.net = { s.net with savedSas := s.net.sas } ∧ t.reg 0x202003 = (s.reg 0x202003 + 1) % 2 ^ 64 ∧
        (∀ k, k ≠ 0x202003 → t.reg k = s.reg k) ∧ t = { s with husk := t.husk, net := t.net, od := t.od })

/-- The values that a list of vault copies keeps when copies are found bad: an entry whose newest copy is good keeps it, one whose
newest copy is bad takes the other one where that is good, and one without a good copy is gone. -/
def copiesKept {α : Type} (x : StageEnv) (vault spare out : List (Nat × α)) : Prop :=
  ∀ k : Nat, let find := fun (l : List (Nat × α)) => l.find? fun e => decide (e.1 = k)
    (k ∉ x.badNew → find out = find vault) ∧
    (k ∈ x.badNew → k ∉ x.badOld → find vault ≠ none → find out = find spare) ∧
    (k ∈ x.badNew → k ∈ x.badOld → find out = none)

/-- Stage HUSK ends with the charger on; with a bad copy in the vault each RWP entry has the value of its good copy, or its
default, and the entries without a good copy are counted; the calibrated sets follow their own copies (R80, R232). -/
def sproutReadsTheVaultPart : Prop :=
  ∀ (s : State) (x : StageEnv), s.sproutRuns = true → s.husk.stage = 0 →
    ∃ t, exec (.sproutStageEnd x) s = .next t ∧ t.husk = { s.husk with stage := 1 } ∧ t.store.charging = true ∧
      copiesKept x s.dict.vault s.dict.spare t.dict.vault ∧ copiesKept x s.dict.vaultDoms s.dict.spareDoms t.dict.vaultDoms ∧
      copiesKept x s.cal.vault s.cal.vaultAlt t.cal.vault ∧
      (x.badNew = [] → x.badOld = [] → t = { s with husk := t.husk, store := t.store }) ∧
      (x.badNew ≠ [] ∨ x.badOld ≠ [] →
        let regs := ({ s with dict := t.dict } : State).resetOd false
        let lost := (s.dict.vault.length - t.dict.vault.length) + (s.dict.vaultDoms.length - t.dict.vaultDoms.length)
        (∀ k, k ≠ 0x201004 → t.reg k = mget 0 regs k) ∧ t.reg 0x201004 = (mget 0 regs 0x201004 + lost) % 2 ^ 32 ∧
        t.frame.live = regs ∧ t.dict.doms = t.dict.vaultDoms) ∧
      t = { s with husk := t.husk, store := t.store, dict := t.dict, od := t.od, frame := { s.frame with live := t.frame.live },
                   cal := { s.cal with vault := t.cal.vault, vaultAlt := t.cal.vaultAlt } }

/-- The stages of a sprout that goes on end one after another: RAILS brings up the seven rails, FIRMWARE raises HRDY, UNITS
powers SENSE and COMP, NETWORK samples the strap and lets the ports that are commanded on wait for their medium; SHELL ends
below 125 °C with a slot whose signature is good and whose version is not below the minimum, and with none the device is in
recovery (R371, R373, R386, R387, R427, R433, Table SPROUT-1). -/
def sproutStagesEndInOrderPart : Prop :=
  ∀ (s : State) (x : StageEnv), s.sproutRuns = true →
    (s.husk.stage = 1 → x.tj < 500 →
      (s.slotPasses (s.sec.activate.getD s.sec.active) (if s.sec.activate.getD s.sec.active = 0 then x.sig0 else x.sig1) = true →
        ∃ t, exec (.sproutStageEnd x) s = .next t ∧ t.husk = { s.husk with stage := 2 } ∧
          t.sec = { s.sec with active := s.sec.activate.getD s.sec.active, activate := none } ∧
          t = { s with husk := t.husk, sec := t.sec })) ∧
    (s.husk.stage = 1 → (∀ n sig, n < 2 → s.slotPasses n sig = false) → s.sec.activate.getD s.sec.active < 2 →
      ∃ t, exec (.sproutStageEnd x) s = .next t ∧ t.husk.recovery = true ∧ t.husk.stage = 1 ∧ t.husk.hrdy = true ∧
        t = { s with husk := t.husk, sec := t.sec }) ∧
    (s.husk.stage = 2 → s.husk.railRetryAt = none →
      exec (.sproutStageEnd x) s = .next { s with husk := { s.husk with
        stage := 3, rails := List.replicate 7 true, railAttempts := 0 } }) ∧
    (s.husk.stage = 3 →
      exec (.sproutStageEnd x) s = .next { s with husk := { s.husk with stage := 4, hrdy := true } }) ∧
    (s.husk.stage = 5 → ∃ t, exec (.sproutStageEnd x) s = .next t ∧ t.husk = { s.husk with stage := 6 } ∧
      t.reg (domReg 2 2) = 1 ∧ t.reg (domReg 3 2) = 1) ∧
    (s.husk.stage = 6 → ∃ t, exec (.sproutStageEnd x) s = .next t ∧
      t.husk = { s.husk with stage := 7, strap := x.strap } ∧
      (∀ u, u = 0 ∨ u = 1 ∨ u = 3 → t.net.ports.getD u 0 = if s.inForce (okey (0x3C00 + u) 1) = 1 then 2 else 0) ∧
      t = { s with husk := t.husk, net := { s.net with ports := t.net.ports } })

/-- Power off and on, rails, crystal, and the stages of a sprout (R340, R341, R385 to R394, R427 to R430). Commands that
complete here: HARD, HARD_RESTART, POWER_ON, SPROUT_STAGE_END, RAIL_TIMEOUT, RAIL_RETRY, CRYSTAL_STOP, VAULT_SAVE,
HUSK_SUPPLY_LOSS. -/
def Obligations.PowerUpAndDownComplete : Prop :=
  powerOffAndOnPart ∧ railsCrystalAndSavePart ∧ sproutReadsTheVaultPart ∧ sproutStagesEndInOrderPart

/-! ## Temperature (16) -/

/-- A conversion of the 16 sensors, 100 µs or more after the last, is taken: the readings in force, the highest since the
sprout and the NTC's reading; an orderly shutdown on its way keeps the highest reading seen, firmware warns in every state it runs
in, and the ladder is watched while frames run (R331, R333, R341). One that comes early changes nothing. -/
def sensorReadingsAreTakenPart : Prop :=
  ∀ (s : State) (vals : List Int) (ntc : Int), s.husk.supply = true → vals.length = 16 →
    (s.now < s.thermal.readAt + 100000 → exec (.sensorReading vals ntc) s = .next s) ∧
    (s.thermal.readAt + 100000 ≤ s.now →
      ∃ t, exec (.sensorReading vals ntc) s = .next t ∧ t.thermal.readings = vals ∧ t.thermal.readAt = s.now ∧
        t.thermal.inService = s.thermal.inService ∧ t.reg (okey 0x2450 1) = unsignedOf 16 ntc ∧
        (∀ i, i < 16 → t.reg (okey (0x2440 + i) 2) =
          unsignedOf 16 (max (signedOf 16 (s.reg (okey (0x2440 + i) 2))) (vals.getD i 0))) ∧
        t.husk.safeRec = s.husk.safeRec.map (fun x => { x with tj := max x.tj t.tj }) ∧
        (s.firmwareRuns = true → s.thermal.warnArmed = true → 440 ≤ t.tj →
          t.thermal.warnArmed = false ∧ t.reg 0x246005 = (s.reg 0x246005 + 1) % 2 ^ 32) ∧
        touchesRecord { s with thermal := t.thermal,
                               husk := { s.husk with coolSince := t.husk.coolSince, safeRec := t.husk.safeRec } } t ∧
        (s.frame.running = true → s.husk.safeAt = none →
          (t.tj < 520 → t.thermal.above130 = 0) ∧
          (520 ≤ t.tj → s.thermal.above130 < 2 → t.thermal.above130 = s.thermal.above130 + 1)))

/-- What the watch on temperature does when its time has come: a sensor a second apart from the median leaves service, with a
record but in OFF; after a second of 125 °C at the lowest step the hottest cluster not yet gated is gated at the next boundary
with a record; the second reading of 130 °C stops all work with a record, and SAFE follows 2.5 ms later with SENSE and COMP
off and a shutdown record made at the detection; SAFE ends 10 s below 100 °C in a sprout (R330, R332, R337 to R339, R341; the
missing record in OFF is log 184). -/
def thermalProtectionPart : Prop :=
  ∀ s : State,
    (∀ i at_, s.thermal.apart.getD i none = some at_ → at_ + 1000000000 ≤ s.now → s.thermal.inService.getD i false = true →
      s.husk.supply = true →
      ∃ t, exec (.sensorOutOfService i) s = .next t ∧ t.thermal.inService = setAt s.thermal.inService i false ∧
        (s.husk.power = .off → t = { s with thermal := t.thermal }) ∧
        (s.husk.power ≠ .off → raised t clsThermal 6 0x6000 i ∧ touchesRecord { s with thermal := t.thermal } t)) ∧
    (∀ at_ c, s.thermal.gateSince = some at_ → s.gateTarget = some c → at_ + 1000000000 ≤ s.now → s.frame.running = true →
      ∃ t, exec .clusterGated s = .next t ∧ t.thermal.gateNext = setAt s.thermal.gateNext c true ∧
        t.thermal.gated = s.thermal.gated ∧ t.thermal.gateSince = some s.now ∧
        raised t clsThermal 3 (unitCluster c) (unsignedOf 32 (s.thermal.readings.getD c 0)) ∧
        touchesRecord { s with thermal := t.thermal } t) ∧
    (s.thermal.above130 = 2 → s.husk.safeAt = none → s.husk.power = .run ∨ s.husk.power = .doze →
      ∃ t, exec .orderly s = .next t ∧ raised t clsThermal 4 0x6000 s.hottest ∧
        t.husk.safeAt = some (s.now + 2500000) ∧ t.husk.safeRec = some (s.shutdownRec 1 s.hottest s.tj) ∧
        t.frame.running = false ∧ t.core.seg = none ∧
        (∀ c, (t.walker c).queue = [] ∧ (t.walker c).running = none) ∧ ∀ e, (t.pip e).running = false) ∧
    (∀ at_, s.husk.safeAt = some at_ → at_ ≤ s.now → s.husk.xtalStopped = false →
      ∃ t, exec .safeEntry s = .next t ∧ t.husk.power = .safe ∧ t.husk.safeAt = none ∧ t.reg (domReg 2 2) = 0 ∧
        t.reg (domReg 3 2) = 0 ∧
        ∀ x, s.husk.safeRec = some x → t.husk.shutdowns.getLast? = some x) ∧
    (∀ at_, s.husk.coolSince = some at_ → s.husk.power = .safe → at_ + 10000000000 ≤ s.now → s.husk.xtalStopped = false →
      s.store.lostAt = none →
      ∃ t, exec .coolDown s = .next t ∧ t.husk.power = .sprout ∧ t.husk.stage = 1 ∧
        t.reg 0x300000 = (s.reg 0x300000 + 1) % 2 ^ 32) ∧
    (∀ d at_, s.husk.powerUpAt.getD d none = some at_ → at_ ≤ s.now → s.husk.xtalStopped = false →
      ∃ t, exec (.domainPowerUp d) s = .next t ∧ t.reg (domReg d 2) = 1 ∧
        (∀ k, k ≠ domReg d 2 → t.reg k = s.reg k) ∧ t.husk.powerUpAt = setAt s.husk.powerUpAt d none ∧
        t = { s with od := t.od, husk := { s.husk with powerUpAt := t.husk.powerUpAt } })

/-- Readings of the sensors and what the device does about them (R330 to R339). Commands that complete here: DOMAIN_POWER_UP,
SENSOR_READING, SENSOR_OUT_OF_SERVICE, CLUSTER_GATED, ORDERLY, SAFE_ENTRY, COOL_DOWN. -/
def Obligations.TemperatureIsWatched : Prop :=
  sensorReadingsAreTakenPart ∧ thermalProtectionPart

/-! ## The hold-up store (17) -/

/-- A clean reference with capacitance `c` in mF: the charge is anchored at it, its time is recorded, the estimator's flags
are cleared, and STORE_LOW is raised once when the capacitance is below 0.8 of the rated one (R352). -/
def anchored (s t : State) (c : Nat) : Prop :=
  t.capM = c ∧ t.store.q = c * s.vOc ∧ t.store.anchor = (c * s.vOc, s.vOc.toNat) ∧ t.store.cleanAt = s.now ∧
    t.store.pulseDue = s.now + hours72 ∧ t.reg 0x24A005 = 0 ∧ t.reg 0x24A008 = s.rtc ∧
    (10 * c < 8 * s.reg 0x24A009 → s.store.lowRaised = false → raised t clsSupply 5 0x6000 (c / 10)) ∧
    touchesRecord { s with store := t.store } t

/-- The store is sampled every millisecond, its charge counted from the current; every 100 ms its energy is estimated from
charge and from voltage, and the decision energy is the smaller one, or three quarters of the second in fallback
(R348 to R350). A sample or an evaluation before its time changes nothing. -/
def storeIsSampledAndEvaluatedPart : Prop :=
  ∀ s : State, s.husk.supply = true →
    (∀ ma mv, s.store.sampleAt + 1000000 ≤ s.now →
      ∃ t, exec (.storeSample ma mv) s = .next t ∧ t = { s with store := t.store } ∧
        t.store.q = s.store.q - ma ∧ t.store.amps = ma ∧ t.store.vTerm = mv ∧ t.store.sampleAt = s.now ∧
        (s.store.charging = true → t.store.chargeFrom.2.2 = s.store.chargeFrom.2.2 - ma) ∧
        (s.store.charging = false → t.store.chargeFrom = s.store.chargeFrom)) ∧
    (∀ ma mv, s.now < s.store.sampleAt + 1000000 → exec (.storeSample ma mv) s = .next s) ∧
    (s.store.evalAt + 100000000 ≤ s.now →
      ∃ t, exec .energyEvaluation s = .next t ∧ t.store.evalAt = s.now ∧ t.reg 0x24A002 = chargeEnergy s.store.q s.capM ∧
        t.reg 0x24A003 = voltageEnergy s.vOc s.capM ∧
        t.reg 0x24A004 = (if s.fallbackFlag then 3 * voltageEnergy s.vOc s.capM / 4
          else min (chargeEnergy s.store.q s.capM) (voltageEnergy s.vOc s.capM)) ∧
        (t.reg 0x24A005 = s.reg 0x24A005 ∨ t.reg 0x24A005 = setBit (s.reg 0x24A005) 0 ∧ s.splitFlag = false)) ∧
    (s.now < s.store.evalAt + 100000000 → exec .energyEvaluation s = .next s)

/-- The charger stops at 5.00 V when the current has fallen below 20 mA, a full reference that measures the capacitance when the
voltage has risen by 0.2 V; it starts again below 4.90 V; a charge of 1,200 s raises its record once (R347, R352). -/
def chargerPart : Prop :=
  ∀ s : State, s.chargerBarred = false →
    (s.store.charging = true → 5000 ≤ s.store.vTerm → -20 < s.store.amps →
      ∃ t, exec .chargeTermination s = .next t ∧ t.store.charging = false ∧
        (s.vOc - s.store.chargeFrom.2.1 < 200 → anchored s t s.capM) ∧
        (200 ≤ s.vOc - s.store.chargeFrom.2.1 →
          ∀ c, c = (roundDiv s.store.chargeFrom.2.2 (s.vOc - s.store.chargeFrom.2.1).toNat).toNat → 0 < c → anchored s t c)) ∧
    (s.store.charging = false → s.store.vTerm < 4900 →
      exec .chargerRestart s = .next { s with store := { s.store with
        charging := true, chargeFrom := (s.now, s.vOc.toNat, 0), timeoutRaised := false } }) ∧
    (s.store.charging = true → s.store.timeoutRaised = false → s.store.chargeFrom.1 + 1200000000000 ≤ s.now →
      ∃ t, exec .chargeTimeout s = .next t ∧ t.store = { s.store with timeoutRaised := true } ∧
        raised t clsSupply 7 0x6000 s.store.vTerm ∧ touchesRecord { s with store := t.store } t)

/-- The other clean references: five seconds of rest; and the reference pulse, due 72 h after the last one in RUN at a
boundary under T0 or T1, which pauses the charger and after 2 s measures ESR and capacitance and lets the charger go on where
it may, a result outside its bounds being discarded and the pulse due again in 1 h. After a further 72 h without a reference
the estimator falls back to the voltage (R352 to R354). -/
def referencesPart : Prop :=
  ∀ s : State, s.husk.supply = true →
    (∀ at_, s.store.restSince = some at_ → at_ + 5000000000 ≤ s.now → s.splitFlag = false →
      ∃ t, exec .restReference s = .next t ∧ anchored s t s.capM ∧ t.store.restSince = some s.now) ∧
    (s.frame.running = true → s.husk.power = .run → s.store.lostAt = none → s.store.pulse = none → s.tier < 2 →
      s.sinceTick = 0 → s.store.pulseDue ≤ s.now →
      exec .referencePulse s = .next { s with store := { s.store with
        pulse := some (s.now, s.store.charging), charging := false } }) ∧
    (∀ at_ on v0 v1 v2 v3, s.store.pulse = some (at_, on) → at_ + 2000000000 ≤ s.now →
      let esr := 5 * (v0 - v1)
      let c := (roundDiv 399800 (v2 - v3)).toNat
      let again := on && !({ s with store := { s.store with pulse := none } } : State).chargerBarred
      ((v3 < v2 ∧ 1 ≤ esr ∧ esr ≤ 2000 ∧ 1000 ≤ c ∧ c ≤ 80000) →
        ∃ t, exec (.referencePulseEnd v0 v1 v2 v3) s = .next t ∧ t.store.pulse = none ∧ t.store.charging = again ∧
          t.store.esr = esr ∧ anchored { s with store := { s.store with esr := esr } } t c) ∧
      (¬ (v3 < v2 ∧ 1 ≤ esr ∧ esr ≤ 2000 ∧ 1000 ≤ c ∧ c ≤ 80000) →
        exec (.referencePulseEnd v0 v1 v2 v3) s = .next { s with store := { s.store with
          pulse := none, charging := again, pulseDue := s.now + 3600000000000 } })) ∧
    (s.fallbackFlag = false → s.store.cleanAt + 2 * hours72 ≤ s.now →
      ∃ t, exec .fallback s = .next t ∧ t.reg 0x24A005 = setBit (s.reg 0x24A005) 1 ∧
        raised t clsSupply 4 0x6000 ((s.now - s.store.cleanAt) / 3600000000000) ∧ touchesRecord s t)

/-- The store, its charger and its references (R346 to R354). Commands that complete here: STORE_SAMPLE, ENERGY_EVALUATION,
CHARGE_TERMINATION, CHARGER_RESTART, CHARGE_TIMEOUT, REST_REFERENCE, REFERENCE_PULSE, REFERENCE_PULSE_END, FALLBACK. -/
def Obligations.StoreAndReferencesComplete : Prop :=
  storeIsSampledAndEvaluatedPart ∧ chargerPart ∧ referencesPart

/-- A loss of input power in RUN or DOZE is flagged at once: the charger stops, the record names the decision energy, the
newest 1,024 records are flushed, and the flush ends 4,096 µs later; a region's write ends VALID with its snapshot, and the
next one starts. A loss within 2 µs of the last change of PFAIL is none (R355 to R359). -/
def inputLossIsFlushedPart : Prop :=
  ∀ s : State, s.husk.supply = true →
    (s.pfailStood 2000 = false → exec .inputLost s = .next s) ∧
    (s.husk.inputOk = true → s.pfailStood 2000 = true → s.husk.power = .run ∨ s.husk.power = .doze →
      ∃ t, exec .inputLost s = .next t ∧ t.husk.inputOk = false ∧ t.store.lostAt = some s.now ∧ t.store.flushing = true ∧
        t.store.charging = false ∧ t.store.pulse = none ∧ raised t clsSupply 1 0x6000 s.decision ∧
        t.store.flushed = t.integ.log.drop (t.integ.log.length - 1024) ∧ t.husk.power = s.husk.power ∧
        ∀ x, t.test.cluster = some x → x.abandoned = true) ∧
    (∀ at_, s.store.lostAt = some at_ → s.store.flushing = true → at_ + 4096000 ≤ s.now →
      ∃ t, exec .flushComplete s = .next t ∧ t.store.flushing = false ∧
        (s.store.snapped = false → t = { s with store := { s.store with flushing := false } })) ∧
    (∀ i at_ r, s.store.copying = some (i, at_) → s.store.regions[i]? = some r → at_ + 125 * r.length ≤ s.now →
      ∃ t, exec .keepRegionDone s = .next t ∧ t.store.regions.length = s.store.regions.length ∧
        t.store.regions[i]? = some { r with state := 1, copy := r.snap } ∧
        (∀ j, j < i → t.store.regions[j]? = s.store.regions[j]?) ∧
        (t.store.copyDone = true ∨ ∃ j, i < j ∧ t.store.copying = some (j, s.now)))

/-- Input power returns when PFAIL has been high for 100 ms, not before: in HOLD the device returns at a boundary once its
copy is complete, in OFF a sprout begins unless the device is hot or locked. HOLD stops when the decision energy is down to
the reserve: the record is kept for the next sprout and the device is off (R355, R361, R362, R386). -/
def inputReturnAndHoldStopPart : Prop :=
  ∀ s : State, groupInRange s → s.husk.supply = true →
    (s.pfailStood 100000000 = false → exec .inputRestored s = .next s) ∧
    (s.husk.inputOk = false → s.pfailStood 100000000 = true →
      (s.husk.power = .hold → ∃ t, exec .inputRestored s = .next t ∧ t.husk.inputOk = true ∧ t.store.returning = true ∧
        t.husk.power = .hold) ∧
      (s.husk.power = .off → s.husk.lockedOff = false → s.husk.hardPending = none →
        ∃ t, exec .inputRestored s = .next t ∧ t.husk.inputOk = true ∧ t.husk.power = .sprout ∧ t.husk.stage = 0 ∧
          t.reg 0x300000 = (s.reg 0x300000 + 1) % 2 ^ 32 ∧ t.reg 0x310003 = (s.reg 0x310003 + 1) % 2 ^ 32) ∧
      (s.husk.power = .off → s.husk.lockedOff = true →
        exec .inputRestored s = .next { s with husk := { s.husk with inputOk := true, pfailAt := some s.now } })) ∧
    (s.husk.power = .hold → s.decision ≤ 1000 →
      ∃ t, exec .holdStop s = .next t ∧ isOff t ∧ t.husk.lastStopHold = true ∧
        t.husk.stopPending.getLast?.map (fun r => (r.cls, r.cause, r.detail % 256)) = some (clsSupply, 2, 0) ∧
        t.husk.saved = (s.husk.rtc, s.husk.oper, s.reg 0x300000, s.reg 0x310003))

/-- Loss and return of input power (R355 to R363). Commands that complete here: INPUT_LOST, FLUSH_COMPLETE, KEEP_REGION_DONE,
INPUT_RESTORED, HOLD_STOP. -/
def Obligations.InputLossAndReturnComplete : Prop :=
  inputLossIsFlushedPart ∧ inputReturnAndHoldStopPart

/-! ## Security (18) -/

/-- Installs of keys. A plan key is staged for the next boundary; a SAK pends, with its counter; a pool key is 64 new bytes at once.
Each is refused with its own status, and then nothing changes but the answer (R367 to R370). -/
def keyInstallsPart : Prop :=
  ∀ (s : State) (r : Req) (data : List Byte) (ok : Bool),
    (s.bytesCheck r 0x2004 1 data.length = .status stOk →
      ∃ t, exec (.planKeyInstall r data) s = .next t ∧
        writeAnswered s t r 0x2004 (s.planKeyStatus data) ∧ otherRegs s t [] ∧
        (s.planKeyStatus data = stOk →
          t.frame.staged = s.frame.staged ++ [⟨s.dueFrame, .planKey (field data 0 1) (field data 4 4)
            ((data.drop 8).take 96) ((field data 1 1).testBit 0)⟩] ∧
          touchesReply { s with frame := { s.frame with staged := t.frame.staged } } t) ∧
        (s.planKeyStatus data ≠ stOk → touchesReply s t)) ∧
    (s.bytesCheck r 0x2004 2 data.length = .status stOk → s.sakStatus data ok = stOk →
      ∃ t, exec (.sakInstall r data ok) s = .next t ∧ writeAnswered s t r 0x2004 stOk ∧ otherRegs s t [] ∧
        (∀ tx : Bool, (if tx then 1 ≤ field data 1 1 else field data 1 1 ≠ 1) →
          ∃ a ∈ t.net.sas, a = ⟨field data 0 1, tx, field data 2 1, field data 4 4, 2, 0, s.rtc⟩) ∧
        (∀ a ∈ s.net.sas, a.state ≠ 2 → ∃ b ∈ t.net.sas, b = { a with pn := b.pn }) ∧
        t.frame.staged = s.frame.staged ++ [⟨s.dueFrame, .sak (field data 0 1) (field data 1 1) (field data 2 1) (field data 4 4)⟩]) ∧
    (s.bytesCheck r 0x2004 2 data.length = .status stOk → s.sakStatus data ok ≠ stOk →
      ∃ t, exec (.sakInstall r data ok) s = .next t ∧ writeAnswered s t r 0x2004 (s.sakStatus data ok) ∧
        otherRegs s t [] ∧ touchesReply s t) ∧
    (∀ v, v < 16 → s.bytesCheck r 0x2004 3 1 = .status stOk → s.keyBars v false = false → s.partyPages v = [] →
      (∀ x ∈ s.store.regions, x.party ≠ v) → v < s.sec.poolKeys.length →
      ∃ t key, exec (.poolKeyInstall r v) s = .next t ∧ writeAnswered s t r 0x2004 stOk ∧ otherRegs s t [] ∧
        key.length = 64 ∧ t.poolKey v = key ∧ t.sec.poolKeys = setAt s.sec.poolKeys v ⟨key, s.rtc⟩ ∧
        t.sec = { s.sec with poolKeys := t.sec.poolKeys, scrub := if s.sec.scrub = 4 then 0 else s.sec.scrub } ∧
        touchesReply { s with sec := t.sec } t)

/-- A firmware image whose bytes pass the format check is written to the inactive slot in the background at 8 MB/s, and the
slot holds it when that is done; a slot with a good image can be activated for the next sprout (R372, R373). -/
def firmwareSlotsPart : Prop :=
  ∀ (s : State) (r : Req),
    (∀ (data : List Byte) (img : FwImage), img = readFirmware data → s.bytesCheck r 0x2001 4 data.length = .status stOk →
      s.inHold = false → img.formatOk = true → s.sec.minVersion ≤ img.secVersion → s.sec.activate ≠ some s.inactiveSlot →
      s.sec.writing = none →
      ∃ t, exec (.firmwareImage r data true) s = .next t ∧ writeAnswered s t r 0x2001 stOk ∧ otherRegs s t [] ∧
        t.sec = { s.sec with
          slots := setAt s.sec.slots s.inactiveSlot none,
          writing := some (s.inactiveSlot, img.secVersion, img.fwVersion, s.now + 125 * img.length) } ∧
        touchesReply { s with sec := t.sec } t) ∧
    (∀ n sv fv at_, s.sec.writing = some (n, sv, fv, at_) → at_ ≤ s.now → s.husk.supply = true → s.husk.recovery = false →
      exec .firmwareSlotWritten s = .next { s with sec := { s.sec with
        slots := setAt s.sec.slots n (some (sv, fv)), writing := none } }) ∧
    (∀ v x, s.writeCheck r 0x2001 5 v = .status stOk → s.sec.slots.getD v none = some x → s.sec.minVersion ≤ x.1 →
      ∃ t, exec (.activateSlot r v) s = .next t ∧ writeAnswered s t r 0x2001 stOk ∧ otherRegs s t [] ∧
        t.sec = { s.sec with activate := some v } ∧ touchesReply { s with sec := t.sec } t)

/-- Keys and firmware slots (R366 to R373). Commands that complete here: PLAN_KEY_INSTALL, SAK_INSTALL, POOL_KEY_INSTALL,
FIRMWARE_IMAGE, ACTIVATE_SLOT, FIRMWARE_SLOT_WRITTEN. -/
def Obligations.KeysAndFirmwareComplete : Prop :=
  keyInstallsPart ∧ firmwareSlotsPart

/-- A lifecycle request and a debug response that pass their checks raise their counters, and the change waits for the next
boundary; a debug response uses up the challenge whatever becomes of it. A debug state ends after 8 h (R374, R377, R381). -/
def lifecycleAndDebugPart : Prop :=
  ∀ (s : State) (r : Req),
    (∀ data sigOk, s.bytesCheck r 0x2002 2 data.length = .status stOk → s.lifecycleStatus data sigOk = stOk → s.inHold = false →
      ∃ t, exec (.lifecycleRequest r data sigOk) s = .next t ∧ writeAnswered s t r 0x2002 stOk ∧ otherRegs s t [] ∧
        t.sec = { s.sec with lcCounter := (s.sec.lcCounter + 1) % 2 ^ 32 } ∧
        t.frame.staged = s.frame.staged ++ [⟨s.dueFrame, .lifecycle (field data 0 1)⟩]) ∧
    (∀ data sigOk, s.bytesCheck r 0x2002 2 data.length = .status stOk → s.lifecycleStatus data sigOk ≠ stOk →
      ∃ t, exec (.lifecycleRequest r data sigOk) s = .next t ∧
        writeAnswered s t r 0x2002 (s.lifecycleStatus data sigOk) ∧ otherRegs s t [] ∧ touchesReply s t) ∧
    (∀ data sigOk, s.bytesCheck r 0x2003 3 data.length = .status stOk → s.inHold = false →
      ∃ t, exec (.debugResponse r data sigOk) s = .next t ∧ writeAnswered s t r 0x2003 (s.debugStatus data sigOk) ∧
        otherRegs s t [] ∧ t.sec.challenge = none ∧ t.sec.dbgCounter = (s.sec.dbgCounter + 1) % 2 ^ 32 ∧
        t.sec.debug = s.sec.debug ∧
        t.frame.staged = s.frame.staged ++
          (if s.debugStatus data sigOk = stOk then [⟨s.dueFrame, .debug (field data 0 1)⟩] else [])) ∧
    (s.sec.debug ≠ 0 → s.sec.debugAt + 28800000000000 ≤ s.now → s.frame.running = true →
      ∃ t, exec .debugExpiry s = .next t ∧
        (s.sinceTick = 0 → t.sec.debug = 0 ∧ t.sec.halted = []) ∧
        (s.sinceTick ≠ 0 → t = { s with frame := { s.frame with
          staged := s.frame.staged ++ [⟨s.frame.number + 1, .debug 0⟩] } }))

/-- The scrub of a RETURNED device goes from stage to stage: DRAM is zero, every pod is programmed to weight 0, what belongs
to parties is erased; it is complete unless a pod could not be scrubbed (R376; what the engines still hold goes with DRAM, log
185). -/
def scrubStagesEndInOrderPart : Prop :=
  ∀ (s : State) (ok : Bool), s.sec.lifecycle = 3 → s.frame.running = true → s.husk.xtalStopped = false →
    (s.sec.scrub = 1 → ∃ t, exec (.scrubStageEnd ok) s = .next t ∧ t.sec = { s.sec with scrub := 2, scrubPod := 0 } ∧
      (∀ a, mget 0 t.pool.mem a = 0) ∧ (∀ a, t.dramByte a = 0) ∧ t.pool.holds = [] ∧ t.pool.chaff = [] ∧ t.od = s.od ∧
      (∀ c, (t.walker c).buffer = []) ∧ t.core.dmem = [] ∧ ∀ h ∈ t.heads, h = Head.blank) ∧
    (s.sec.scrub = 2 → s.sec.scrubPod < 40 → s.pods.length = 40 →
      ∃ t, exec (.scrubStageEnd ok) s = .next t ∧
        (ok = true → t.sec.scrubPod = s.sec.scrubPod + 1 ∧ t.sec.scrub = (if s.sec.scrubPod = 39 then 3 else 2) ∧
          (t.pod s.sec.scrubPod).cells = zeroCells ∧ (t.pod s.sec.scrubPod).hash = 0 ∧
          (t.pod s.sec.scrubPod).unscrubbed = false) ∧
        (ok = false → (s.pod s.sec.scrubPod).fails = 0 → t.sec.scrubPod = s.sec.scrubPod ∧
          (t.pod s.sec.scrubPod).fails = 1) ∧
        t.reg (podReg s.sec.scrubPod 5) = min 65535 (s.reg (podReg s.sec.scrubPod 5) + 1)) ∧
    (s.sec.scrub = 3 → ∃ t, exec (.scrubStageEnd ok) s = .next t ∧
      t.sec.scrub = (if s.pods.any (·.unscrubbed) then 5 else 4) ∧ t.store.regions = [] ∧ t.pool.mirrors = [] ∧
      (∀ k ∈ partyKeys, t.reg k = mget 0 odDefaults k) ∧ ∀ k, k ∉ partyKeys → t.reg k = s.reg k)

/-- Lifecycle, debug and scrub (R374 to R381). Commands that complete here: LIFECYCLE_REQUEST, DEBUG_RESPONSE, DEBUG_EXPIRY,
SCRUB_STAGE_END. -/
def Obligations.LifecycleDebugAndScrubComplete : Prop :=
  lifecycleAndDebugPart ∧ scrubStagesEndInOrderPart

/-! ## Settings and orders of the dictionary (11, 12, and the families that own the entries) -/

/-- An accepted setting: an RW value is stored and answered OK; an RWP value that is unchanged is answered OK; a changed one
is commanded at once and its commit to the vault begins, which answers it later, unless 16 commits began within the last
second, which answers BUSY and changes nothing; a value whose own commit is still in progress is committed and answered like a
changed one (R232, R233). -/
def settingDone (s t : State) (r : Req) (index sub v : Nat) : Prop :=
  ∀ row, entryRow index sub = some row →
    let k := okey index sub
    let rwp := row.own = .rwp ∨ row.op = .rwp
    (¬ rwp → t.reg k = v ∧ writeAnswered s t r index stOk ∧ otherRegs s t [k] ∧ touchesReply s t) ∧
    (rwp → s.reg k = v → s.committing k = false → writeAnswered s t r index stOk ∧ otherRegs s t [] ∧ touchesReply s t) ∧
    (rwp → s.reg k ≠ v ∨ s.committing k = true → s.commitsNow.length < 16 →
      t.reg k = v ∧ (∀ j, j ≠ k → t.reg j = s.reg j) ∧ t.dict.commits = s.dict.commits ++ [(r, k, v, s.now)] ∧
        t.dict.commitTimes = s.now :: s.commitsNow ∧
        t = { s with od := t.od, dict := { s.dict with commits := t.dict.commits, commitTimes := t.dict.commitTimes } }) ∧
    (rwp → s.reg k ≠ v ∨ s.committing k = true → 16 ≤ s.commitsNow.length →
      writeAnswered s t r index stBusy ∧ otherRegs s t [0x201003] ∧ touchesReply s t)

/-- The commands that write a setting, with their entry and what the entry's own rule asks of the value: a frame period not
below P_floor (R16), the enables of the domains by R326, no change of a channel that the plan reads (R195), the bindings by
R205, no role for party 0 and no second Owner (R256), and a trace ring that the party can write (R411). `n` is the unit. -/
def settingRow (s : State) (r : Req) (n sub v : Nat) (x : Instr × Nat × Nat × Prop) : Prop :=
  x ∈ ([(.framePeriodWrite r v, 0x4C00, 0, ∀ p, s.loader.plan = some p → p.comp.pFloor ≤ v),
   (.intakeLengthWrite r v, 0x4C07, 0, s.loader.plan = none),
   (.rotationIntervalWrite r v, 0x3001, 0, True), (.powerStateWrite r v, 0x2400, 1, True),
   (.domainEnableWrite r n v, 0x2410 + n, 1,
     v ≠ 0 ∨ ((n = 2 ∨ n = 3) ∧ s.loader.plan = none)),
   (.clusterEnableWrite r n v, 0x2420 + n, 1, True), (.podServiceWrite r n v, 0x4030 + n, 1, True),
   (.channelConfigWrite r n sub v, chanIndex n, sub,
     s.jobReads n = false ∨ (sub ≠ 1 ∧ sub ≠ 3) ∨ s.reg (okey (chanIndex n) sub) = v),
   (.bindingWrite r n sub v, 0x3C30 + n, sub, s.bindingStatus n sub v = stOk),
   (.roleWrite r n v, 0x3800 + n, 1, n ≠ 0 ∧ v ≠ 2),
   (.traceConfigWrite r n sub v, 0x4800 + n, sub, (sub = 1 ∧ v = 1) → s.traceStatus n 1 1 = stOk)] :
    List (Instr × Nat × Nat × Prop))

/-- Every write of a setting that passes the dictionary's checks and the entry's own rule is accepted; one that the
dictionary's checks refuse is answered with their status and changes nothing. A frame period below P_floor is out of range, which
comes before what the service can take now (R231, R232). -/
def settingsPart : Prop :=
  ∀ (s : State) (r : Req) (n sub v : Nat), sub < 16 → ∀ x, settingRow s r n sub v x →
    (s.writeCheck r x.2.1 x.2.2.1 v = .status stOk → x.2.2.2 →
      ∃ t, exec x.1 s = .next t ∧ settingDone s t r x.2.1 x.2.2.1 v) ∧
    (∀ st, s.writeCheck r x.2.1 x.2.2.1 v = .status st → st ≠ stOk → s.numberFits r x.2.1 x.2.2.1 v ≠ stOk ∨ x.2.2.2 →
      ∃ t, exec x.1 s = .next t ∧ writeAnswered s t r x.2.1 st ∧ otherRegs s t [] ∧ touchesReply s t) ∧
    (∀ st p, s.writeCheck r 0x4C00 0 v = .status st → s.numberFits r 0x4C00 0 v = stOk → s.loader.plan = some p →
      v < p.comp.pFloor →
      ∃ t, exec (.framePeriodWrite r v) s = .next t ∧ writeAnswered s t r 0x4C00 stRange ∧ otherRegs s t [] ∧
        touchesReply s t)

/-- Allotments: a number within its bounds is an RWP setting; a page allotment that stands also ends the bar on the party's
root context at the next boundary; the pod allotment's records are stored and hold from the next boundary (R258 to R260). -/
def allotmentsPart : Prop :=
  ∀ (s : State) (r : Req) (p : Nat), p < 16 →
    (∀ sub v data, sub ≠ 3 → sub < 16 → s.writeCheck r (0x3800 + p) sub v = .status stOk → s.allotStatus p sub v = stOk →
      ∃ t u, exec (.allotmentWrite r p sub v data) s = .next t ∧ settingDone s u r (0x3800 + p) sub v ∧
        (sub ≠ 2 → t = u) ∧
        (sub = 2 → s.commitsNow.length < 16 ∨
            (s.reg (okey (0x3800 + p) 2) = v ∧ s.committing (okey (0x3800 + p) 2) = false) →
          t = { u with frame := { u.frame with staged := s.frame.staged ++ [⟨s.dueFrame, .allotPages p⟩] } })) ∧
    (∀ sub v data, sub ≠ 3 → s.writeCheck r (0x3800 + p) sub v = .status stOk → s.allotStatus p sub v ≠ stOk →
      ∃ t, exec (.allotmentWrite r p sub v data) s = .next t ∧ writeAnswered s t r (0x3800 + p) (s.allotStatus p sub v) ∧
        otherRegs s t [] ∧ touchesReply s t) ∧
    (∀ data, s.bytesCheck r (0x3800 + p) 3 data.length = .status stOk → s.podAllotStatus p data = stOk →
      s.commitsNow.length < 16 →
      ∃ t, exec (.allotmentWrite r p 3 0 data) s = .next t ∧ mget [] t.dict.doms (okey (0x3800 + p) 3) = data ∧
        (∀ k, k ≠ okey (0x3800 + p) 3 → mget [] t.dict.doms k = mget [] s.dict.doms k) ∧
        t.frame.staged = s.frame.staged ++ [⟨s.dueFrame, .dom (okey (0x3800 + p) 3) data⟩])

/-- Settings of the dictionary and allotments (R231 to R233, R256 to R260). Commands that complete here: FRAME_PERIOD_WRITE,
INTAKE_LENGTH_WRITE, ROTATION_INTERVAL_WRITE, CHANNEL_CONFIG_WRITE, BINDING_WRITE, ROLE_WRITE, ALLOTMENT_WRITE,
POD_SERVICE_WRITE, DOMAIN_ENABLE_WRITE, CLUSTER_ENABLE_WRITE, POWER_STATE_WRITE, TRACE_CONFIG_WRITE. -/
def Obligations.SettingsAndAllotmentsComplete : Prop :=
  settingsPart ∧ allotmentsPart

/-- The orders whose effect waits for the next boundary, with their entry, what the entry's own rule asks, and the effect:
ends of gates, fences and port holds (R244, R320; whether a gate's cause still stands is judged when the clear is written,
R337), a party's revocation (R276), the unload (R176), the end of debug (R381). -/
def stagedOrderRow (s : State) (r : Req) (n v : Nat) (x : Instr × Nat × Nat × Prop × BoundaryOp) : Prop :=
  x ∈ ([(.clusterClear r n v, 0x2420 + n, 3, True, .clearGate n s.gateHeat),
   (.podClear r n v, 0x4030 + n, 3,
     (s.pod n).retired = false ∧ ((s.pod n).fenced = false ∨ (s.hist (unitPod n)).permanent = false), .clearPod n),
   (.portClear r n v, 0x3C00 + n, 3, True, .portClear n), (.revoke r n v, 0x3800 + n, 0x0A, True, .revokeParty n),
   (.unload r v, 0x4C20, 3, True, .unload), (.debugClose r v, 0x2003, 4, True, .debug 0)] :
    List (Instr × Nat × Nat × Prop × BoundaryOp))

/-- Each of these orders is answered OK and leaves its effect for the boundary of R241, and changes nothing else. -/
def stagedOrdersPart : Prop :=
  ∀ (s : State) (r : Req) (n v : Nat), ∀ x, stagedOrderRow s r n v x →
    s.writeCheck r x.2.1 x.2.2.1 v = .status stOk → x.2.2.2.1 →
      ∃ t, exec x.1 s = .next t ∧ writeAnswered s t r x.2.1 stOk ∧
        t.frame.staged = s.frame.staged ++ [⟨s.dueFrame, x.2.2.2.2⟩] ∧ otherRegs s t [] ∧
        touchesReply { s with frame := { s.frame with staged := t.frame.staged } } t

/-- The orders with an effect at once, TIMING_CLEAR, RESTORE_DEFAULTS, CLEAR_LOG, ROTATE_NOW, CALIBRATE_NOW, AFE_CALIBRATE_NOW and
START_TEST: the timing ceiling returns to T0 (R28), restore-defaults is marked for the next sprout
(R234), the fault log is cleared (R314), a swap is ordered for the next KEEP and its interval restarts (R55), a spare falls due
for calibration, a pod that is no spare answers BUSY (R66), a calibration of an AFE channel is ordered (R73), a unit for its
test (R403). Each is answered OK and changes nothing else. -/
def immediateOrdersPart : Prop :=
  ∀ (s : State) (r : Req) (n v : Nat),
    (s.writeCheck r 0x4C0B 0 v = .status stOk →
      ∃ t, exec (.timingClear r v) s = .next t ∧ t.reg 0x4C0A03 = 0 ∧ writeAnswered s t r 0x4C0B stOk ∧
        otherRegs s t [0x4C0A03] ∧ touchesReply s t) ∧
    (s.writeCheck r 0x2010 1 v = .status stOk →
      ∃ t, exec (.restoreDefaults r v) s = .next t ∧ t.dict = { s.dict with restore := true } ∧
        writeAnswered s t r 0x2010 stOk ∧ otherRegs s t [] ∧ touchesReply { s with dict := t.dict } t) ∧
    (s.writeCheck r 0x4010 4 v = .status stOk →
      ∃ t, exec (.clearLog r v) s = .next t ∧ t.integ = { s.integ with log := [], sinceClear := 0 } ∧
        t.store = { s.store with flushedSince := 0 } ∧ writeAnswered s t r 0x4010 stOk ∧ otherRegs s t [] ∧
        touchesReply { s with integ := t.integ, store := t.store } t) ∧
    (s.writeCheck r (0x3010 + n) 4 v = .status stOk → n < s.clusters.length →
      ∃ t, exec (.rotateNow r n v) s = .next t ∧ (t.clu n) = { s.clu n with
          now := true, dueAt := if s.inForce 0x300100 = 0 then none else some (s.now + s.inForce 0x300100 * 1000000000) } ∧
        (∀ c, c ≠ n → t.clu c = s.clu c) ∧ writeAnswered s t r (0x3010 + n) stOk ∧ otherRegs s t [] ∧
        touchesReply { s with clusters := t.clusters } t) ∧
    (s.writeCheck r (0x3110 + n) 9 v = .status stOk →
      (s.reg (podReg n 1) = 1 → ∃ t, exec (.calibrateNow r n v) s = .next t ∧ n ∈ t.cal.podDue ∧
        writeAnswered s t r (0x3110 + n) stOk ∧ otherRegs s t [] ∧
        touchesReply { s with cal := { s.cal with podDue := t.cal.podDue } } t) ∧
      (s.reg (podReg n 1) ≠ 1 → ∃ t, exec (.calibrateNow r n v) s = .next t ∧
        writeAnswered s t r (0x3110 + n) stBusy ∧ otherRegs s t [] ∧ touchesReply s t)) ∧
    (s.writeCheck r (0x2A00 + n) 8 v = .status stOk →
      ∃ t, exec (.afeCalibrateNow r n v) s = .next t ∧ t.cal.afeAsked = setBit s.cal.afeAsked n ∧
        writeAnswered s t r (0x2A00 + n) stOk ∧ otherRegs s t [] ∧
        touchesReply { s with cal := { s.cal with afeAsked := t.cal.afeAsked } } t) ∧
    (s.writeCheck r 0x4400 2 v = .status stOk → testUnit v = true → s.testRuns v = false →
      ∃ t, exec (.startTest r v) s = .next t ∧ (∃ at_, (v, at_) ∈ t.test.due) ∧ (∀ x ∈ s.test.due, x ∈ t.test.due) ∧
        writeAnswered s t r 0x4400 stOk ∧ otherRegs s t [bistReg (v % 4096) 5])

/-- Orders of the dictionary (R28, R234, R241, R403). Commands that complete here: TIMING_CLEAR, ROTATE_NOW, CALIBRATE_NOW,
AFE_CALIBRATE_NOW, UNLOAD, PORT_CLEAR, RESTORE_DEFAULTS, CLEAR_LOG, REVOKE, POD_CLEAR, CLUSTER_CLEAR, DEBUG_CLOSE,
START_TEST. -/
def Obligations.OrdersComplete : Prop :=
  stagedOrdersPart ∧ immediateOrdersPart

/-- What a write of these DOMAINs leaves: the mirror table is staged for the next boundary; the keep regions are the written
records; a hold-up image and a classifier image take their places; a restored trim bank becomes the unit's calibrated codes
(R81, R209, R268, R272, R358, R364). Commands that complete here: TRIM_RESTORE, CLASSIFIER_IMAGE_WRITE, MIRROR_TABLE_WRITE,
KEEP_REGIONS_WRITE, HOLD_UP_PIP_IMAGE_WRITE. -/
def Obligations.DomainWritesComplete : Prop :=
  ∀ (s : State) (r : Req),
    (∀ data, s.bytesCheck r 0x3890 2 data.length = .status stOk →
      ∃ t, exec (.mirrorTableWrite r data) s = .next t ∧ writeAnswered s t r 0x3890 (s.mirrorStatus data) ∧
        otherRegs s t [] ∧
        (s.mirrorStatus data = stOk → mget [] t.dict.doms 0x389002 = data ∧
          t.frame.staged = s.frame.staged ++ [⟨s.dueFrame, .mirrors data⟩]) ∧
        (s.mirrorStatus data ≠ stOk → touchesReply s t)) ∧
    (∀ data, s.bytesCheck r 0x24A0 0x0A data.length = .status stOk → regionsOk data = true →
      mget [] s.dict.doms 0x24A00A ≠ data → s.commitsNow.length < 16 →
      ∃ t, exec (.keepRegionsWrite r data) s = .next t ∧ mget [] t.dict.doms 0x24A00A = data ∧
        t.dict.domCommits = s.dict.domCommits ++ [(r, 0x24A00A, data, s.now)] ∧
        (s.store.lostAt = none → t.store = { s.store with regions := regionRecs 16 data }) ∧
        (s.store.lostAt ≠ none → t.store = s.store) ∧ t = { s with dict := t.dict, store := t.store }) ∧
    (∀ data, s.bytesCheck r 0x24A0 0x0B data.length = .status stOk →
      let img := readPip data
      (img.engine = 2 → img.inPlace = false → img.crcOk = true → img.budget ≤ 4000 → img.code.length ≤ 1024 →
        img.entry < img.code.length →
        ∃ t, exec (.holdUpPipImageWrite r data) s = .next t ∧ t.store = { s.store with image := some img } ∧
          writeAnswered s t r 0x24A0 stOk ∧ otherRegs s t [] ∧ touchesReply { s with store := t.store } t) ∧
      (img.engine ≠ 2 ∨ img.inPlace = true ∨ img.crcOk = false →
        ∃ t, exec (.holdUpPipImageWrite r data) s = .next t ∧ writeAnswered s t r 0x24A0 stBadType ∧ otherRegs s t [] ∧
          touchesReply s t)) ∧
    (∀ data, s.bytesCheck r 0x3C80 1 data.length = .status stOk →
      let img := readPip data
      (pipImageOk img 3 2048 = true → img.inPlace = false → img.budget ≤ 2000 →
        ∃ t, exec (.classifierImageWrite r data) s = .next t ∧ t.net.classImage = some img ∧
          t.reg 0x3C8003 = field data 12 4 ∧ writeAnswered s t r 0x3C80 stOk ∧ otherRegs s t [0x3C8003]) ∧
      (pipImageOk img 3 2048 = false ∨ img.inPlace = true →
        ∃ t, exec (.classifierImageWrite r data) s = .next t ∧ writeAnswered s t r 0x3C80 stBadType ∧ otherRegs s t [] ∧
          touchesReply s t)) ∧
    (∀ unit data, (unit / 4096 = 2 ∧ unit % 4096 < 40 ∨ unit / 4096 = 5 ∧ unit % 4096 < 16) →
      s.bytesCheck r (bankIndex unit) 1 data.length = .status stOk →
      ∃ t, exec (.trimRestore r unit data) s = .next t ∧
        (s.restoreStatus unit data = stOk → writeAnswered s t r (bankIndex unit) stOk ∧
          ∀ x ∈ bankCodes unit data, trimGet t.cal.calibrated (trimKey unit x.1) = x.2) ∧
        (s.restoreStatus unit data ≠ stOk → writeAnswered s t r (bankIndex unit) (s.restoreStatus unit data) ∧
          otherRegs s t [] ∧ touchesReply s t))

/-- Reads, each in its turn: a number is answered with its value in its type's size and a string with its bytes, a DOMAIN at
offset 0 with its first part; what is read at offset 0 becomes the party's one snapshot, and a part at a later offset comes
from that snapshot; without one it is STALE. Each READ of the challenge gives a new one. A refused access is answered with its
status (R231, R235, R236, R240, R377). -/
def readsPart : Prop :=
  ∀ (s : State) (r : Req) (index sub offset : Nat), r.port ≠ 3 → r.party < s.net.parties.length → s.odTurn r = true →
    let head := leBytes 2 index ++ leBytes 1 sub ++ leBytes 1 0 ++ leBytes 4 offset
    (∀ st, s.readCheck r index sub offset = .status st → st ≠ stOk →
      ∃ t, exec (.odRead r index sub offset) s = .next t ∧ answered s t r 1 1 st 0 0 head ∧ otherRegs s t [] ∧
        touchesReply s t) ∧
    (∀ row, s.readCheck r index sub offset = .status stOk → entryRow index sub = some row →
      (row.kind = .uns ∨ row.kind = .int) →
      ∃ t, exec (.odRead r index sub offset) s = .next t ∧
        answered s t r 1 1 stOk 0 0 (head ++ leBytes row.size (s.number r.party index sub)) ∧ otherRegs s t [] ∧
        t.snapOf r.party (okey index sub) =
          some ⟨r.party, okey index sub, leBytes row.size (s.number r.party index sub), s.now⟩ ∧
        touchesReply { s with dict := { s.dict with snaps := t.dict.snaps } } t) ∧
    (∀ row, s.readCheck r index sub offset = .status stOk → entryRow index sub = some row → row.kind = .str →
      ∃ t, exec (.odRead r index sub offset) s = .next t ∧
        answered s t r 1 1 stOk 0 0 (head ++ s.text index sub row.size) ∧ otherRegs s t [] ∧
        touchesReply { s with dict := { s.dict with snaps := t.dict.snaps } } t) ∧
    (∀ row d, s.readCheck r index sub offset = .status stOk → entryRow index sub = some row → row.kind = .domain →
      ¬ (index = 0x2003 ∧ sub = 2) → s.bytesOf r.party r.port index sub = some d →
      (offset = 0 → ∃ t, exec (.odRead r index sub offset) s = .next t ∧
        answered s t r 1 1 stOk 0 0 (head ++ d.take (s.payloadLimit r.port - 8)) ∧
        t.snapOf r.party (okey index sub) = some ⟨r.party, okey index sub, d, s.now⟩ ∧ otherRegs s t []) ∧
      (offset = 0xFFFFFFFF → ∃ t, exec (.odRead r index sub offset) s = .next t ∧
        answered s t r 1 1 stOk 0 0 (head ++ leBytes 4 d.length) ∧ otherRegs s t [] ∧ touchesReply s t) ∧
      (offset ≠ 0 → offset ≠ 0xFFFFFFFF →
        (∀ x, s.snapOf r.party (okey index sub) = some x → ∃ t, exec (.odRead r index sub offset) s = .next t ∧
          answered s t r 1 1 stOk 0 0 (head ++ (x.data.drop offset).take (s.payloadLimit r.port - 8)) ∧
          otherRegs s t []) ∧
        (s.snapOf r.party (okey index sub) = none → ∃ t, exec (.odRead r index sub offset) s = .next t ∧
          answered s t r 1 1 stStale 0 0 head ∧ otherRegs s t [] ∧ touchesReply s t))) ∧
    (s.readCheck r 0x2003 2 0 = .status stOk → s.challengeBusy = false →
      ∃ t c, exec (.debugChallenge r) s = .next t ∧ t.sec = { s.sec with challenge := some c } ∧ c.length = 64 ∧
        field c 12 4 = s.sec.dbgCounter % 2 ^ 32 ∧
        answered s t r 1 1 stOk 0 0 (leBytes 2 0x2003 ++ leBytes 1 2 ++ leBytes 1 0 ++ leBytes 4 0 ++ c) ∧
        otherRegs s t [])

/-- Writes by OD_WRITE: a number of its type's size in an entry without a rule of its own is a setting; an entry with a command
of its own is written as that command writes it; another length is BAD_TYPE. A longer DOMAIN is declared, its parts are
staged in order, and the last one executes the write. What waits a second longer is dropped and counted (R231, R236, R237). -/
def writesPart : Prop :=
  ∀ (s : State) (r : Req),
    (∀ v, s.writeCheck r 0x4C02 0 v = .status stOk → v < 256 →
      ∃ t, exec (.odWrite r 0x4C02 0 0 (leBytes 1 v)) s = .next t ∧ settingDone s t r 0x4C02 0 v) ∧
    (∀ v, v < 2 ^ 32 → exec (.odWrite r 0x4C00 0 0 (leBytes 4 v)) s = exec (.framePeriodWrite r v) s ∧
      exec (.odWrite r 0x3001 0 0 (leBytes 4 v)) s = exec (.rotationIntervalWrite r v) s) ∧
    (∀ v, v < 256 → exec (.odWrite r 0x4C07 0 0 (leBytes 1 v)) s = exec (.intakeLengthWrite r v) s ∧
      exec (.odWrite r 0x2400 1 0 (leBytes 1 v)) s = exec (.powerStateWrite r v) s ∧
      exec (.odWrite r 0x4C20 3 0 (leBytes 1 v)) s = exec (.unload r v) s ∧
      ∀ c, c < 8 → exec (.odWrite r (0x2420 + c) 3 0 (leBytes 1 v)) s = exec (.clusterClear r c v) s) ∧
    (∀ data, data.length ≠ 4 → s.mute = false → s.odTurn r = true → s.mayWrite r 0x4C00 0 = stOk →
      ∃ t, exec (.odWrite r 0x4C00 0 0 data) s = .next t ∧ writeAnswered s t r 0x4C00 stBadType ∧ otherRegs s t [] ∧
        touchesReply s t) ∧
    (∀ p n, p < 16 → s.bytesCheck r (0x3800 + p) 3 4 = .status stOk → 0 < n → n % 12 = 0 → n ≤ 768 →
      ∃ t, exec (.odWrite r (0x3800 + p) 3 0xFFFFFFFF (leBytes 4 n)) s = .next t ∧ writeAnswered s t r (0x3800 + p) stOk ∧
        t.stagingOf r.party (okey (0x3800 + p) 3) = some ⟨r.party, okey (0x3800 + p) 3, n, [], s.now⟩ ∧ otherRegs s t []) ∧
    (∀ p x data, p < 16 → s.bytesCheck r (0x3800 + p) 3 data.length = .status stOk →
      s.stagingOf r.party (okey (0x3800 + p) 3) = some x → x.data.length < 2 ^ 32 - 1 →
      (x.data.length + data.length < x.len →
        ∃ t, exec (.odWrite r (0x3800 + p) 3 x.data.length data) s = .next t ∧ writeAnswered s t r (0x3800 + p) stOk ∧
          t.stagingOf r.party (okey (0x3800 + p) 3) =
            some ⟨r.party, okey (0x3800 + p) 3, x.len, x.data ++ data, s.now⟩) ∧
      (x.data.length + data.length = x.len → lenAccepted (0x3800 + p) 3 x.len = true →
        exec (.odWrite r (0x3800 + p) 3 x.data.length data) s =
          exec (.allotmentWrite r p 3 0 (x.data ++ data)) (s.dropStaging r.party)) ∧
      (x.len < x.data.length + data.length →
        ∃ t, exec (.odWrite r (0x3800 + p) 3 x.data.length data) s = .next t ∧ writeAnswered s t r (0x3800 + p) stBadType ∧
          t.stagingOf r.party (okey (0x3800 + p) 3) = none)) ∧
    (∀ p x, x ∈ s.dict.snaps → x.party = p → x.last + 1000000000 ≤ s.now →
      ∃ t, exec (.snapshotExpiry p) s = .next t ∧ t.dict.snaps = s.dict.snaps.filter (fun y => y.party ≠ p) ∧
        t.reg 0x201202 = (s.reg 0x201202 + 1) % 2 ^ 32 ∧ (∀ k, k ≠ 0x201202 → k ≠ pkey p 0x201202 → t.reg k = s.reg k) ∧
        t = { s with od := t.od, dict := { s.dict with snaps := t.dict.snaps } }) ∧
    (∀ p x, x ∈ s.dict.stagings → x.party = p → x.last + 1000000000 ≤ s.now →
      ∃ t, exec (.stagingExpiry p) s = .next t ∧ t.dict.stagings = s.dict.stagings.filter (fun y => y.party ≠ p) ∧
        t.reg 0x201202 = (s.reg 0x201202 + 1) % 2 ^ 32 ∧
        t = { s with od := t.od, dict := { s.dict with stagings := t.dict.stagings } })

/-- The oldest commit reaches the vault, whose other copy of the entry is then the value that was newest; it answers the write
OK and counts the commit. A pair that has differed with reason FENCED at 16 boundaries raises one DISAGREE record until it
converges (R232, R243). -/
def commitsAndDisagreementPart : Prop :=
  ∀ s : State,
    (∀ r k v at_ rest, s.mute = false → s.dict.commits = (r, k, v, at_) :: rest → s.dict.domCommits = [] →
      ∃ t, exec .vaultCommit s = .next t ∧ t.dict.commits = rest ∧ mget 0 t.dict.vault k = v ∧
        (∀ j, j ≠ k → mget 0 t.dict.vault j = mget 0 s.dict.vault j) ∧
        (∀ e, s.dict.vault.find? (fun e => e.1 = k) = some e → mget 0 t.dict.spare k = e.2) ∧
        writeAnswered s t r (k / 256) stOk ∧
        t.reg 0x201002 = (s.reg 0x201002 + 1) % 2 ^ 32 ∧ t.reg 0x202003 = (s.reg 0x202003 + 1) % 2 ^ 64 ∧
        otherRegs s t [0x201002, 0x202003] ∧ touchesReply { s with dict := t.dict } t) ∧
    (∀ index sub x d, allPairs.find? (fun x => x.cmd = okey index sub) = some x →
      s.frame.differ.find? (fun d => d.1 = okey index sub) = some d → 16 ≤ d.2.2.1 → d.2.2.2 = false →
      ∃ t, exec (.disagree index sub) s = .next t ∧ raised t clsDisagree 1 x.unit (index + 65536 * sub) ∧
        (∀ e ∈ t.frame.differ, e.1 = okey index sub → e.2.2.2 = true) ∧
        t.reg 0x201102 = (s.reg 0x201102 + 1) % 2 ^ 32)

/-- Reads, writes, commits and disagreement (R231 to R243). Commands that complete here: OD_READ, OD_WRITE, DEBUG_CHALLENGE,
SNAPSHOT_EXPIRY, STAGING_EXPIRY, VAULT_COMMIT, DISAGREE. -/
def Obligations.DictionaryAccessesComplete : Prop :=
  readsPart ∧ writesPart ∧ commitsAndDisagreementPart

/-! ## Parties: queue commands, contexts, fences and jobs (13) -/

/-- Queue q of context c has a command of opcode `op` in execution, whose 64 bytes are `cmd`, and the pool is served. -/
def inExecution (s : State) (c q op : Nat) (x : Ctx) (cmd : List Byte) : Prop :=
  s.poolMute = false ∧ s.poolServe = none ∧ s.ctx c = some x ∧ (∃ y, s.queue c q = some y ∧ y.cur = some cmd) ∧
    field cmd 0 2 = op

/-- What the completion of a queue's command does: the queue has nothing in execution and has counted it, its record is
written to the next entry of the completion ring where the party may write there, and no other byte, fence or register but
those of the trace changes (R264 to R267, Table HOST-4). -/
def Obligations.CommandCompletionIsRecorded : Prop :=
  ∀ (s : State) (c q st result : Nat) (x : Ctx) (y : Queue) (cmd : List Byte) (as : List Nat), workingValues s →
    s.ctx c = some x → s.queue c q = some y → y.cur = some cmd →
    let seq := (y.started + 4294967295) % 2 ^ 32
    let t := s.complete c q st result
    t.queue c q = some { y with cur := none, completed := (y.completed + 1) % 2 ^ 32 } ∧ touchesTrace s t ∧
      t.pool.fences = s.pool.fences ∧ otherRegs s t [] ∧
      (physRange x (y.cplRing + 32 * (seq % y.entries)) 32 = some as → s.test.trace = [] →
        (∀ p a, a ∉ as → t.peek p a = s.peek p a) ∧
        (writableRange x (y.cplRing + 32 * (seq % y.entries)) 32 = true → s.writeStatus x.party (linesOf as) = stOk →
          as.map (t.peek x.party) = cplRecord cmd y.entries seq st s.frame.number result))

/-- A command of a queue ends as its completion says, on a state that its own effect has made of `s`. -/
def ends (i : Instr) (s u : State) (c q st result : Nat) : Prop := exec i s = .next (u.complete c q st result)

/-- NOP completes OK. CTX_CREATE from a root context makes an empty context with a number that was free; CTX_DESTROY from the
root context leaves the revocation to the boundary that follows, in KEEP too, and completes when the context is freed; another
context's order is DENIED, at 256 contexts, and without a free number, LIMIT (R260, R275). -/
def contextCommandsPart : Prop :=
  ∀ (s : State) (c q : Nat) (x : Ctx) (cmd : List Byte),
    (inExecution s c q 0x01 x cmd → ends (.cmdNop c q) s s c q stOk 0) ∧
    (inExecution s c q 0x02 x cmd →
      (x.num ≠ x.party → ends (.ctxCreate c q) s s c q stDenied 0) ∧
      (x.num = x.party → 256 ≤ (s.pool.ctxs.filter fun y => y.party = x.party).length →
        ends (.ctxCreate c q) s s c q stLimit 0) ∧
      (x.num = x.party → s.newCtxNum = none → ends (.ctxCreate c q) s s c q stLimit 0) ∧
      (∀ n, x.num = x.party → (s.pool.ctxs.filter fun y => y.party = x.party).length < 256 → s.newCtxNum = some n →
        16 ≤ n ∧ n < 4096 ∧ s.ctx n = none ∧
        ∃ u z, ends (.ctxCreate c q) s u c q stOk n ∧ u.ctx n = some z ∧ z.num = n ∧ z.party = x.party ∧ z.pages = [] ∧
          z.queues = [] ∧ z.revoking = false ∧ z.resident = false ∧ (∀ m, m ≠ n → u.ctx m = s.ctx m) ∧
          u = { s with pool := { s.pool with ctxs := u.pool.ctxs } })) ∧
    (inExecution s c q 0x03 x cmd → s.destroying c q = false →
      (∀ y z, s.targetOf x (field cmd 8 2) false = .ok y → 16 ≤ y.num → s.queue c q = some z →
        exec (.ctxDestroy c q) s = .next { s with frame := { s.frame with
          staged := s.frame.staged ++ [⟨s.frame.number + 1, .revokeCtx y.num (some (c, q, z.started))⟩] } }) ∧
      (∀ y, s.targetOf x (field cmd 8 2) false = .ok y → y.num < 16 → ends (.ctxDestroy c q) s s c q stDenied 0) ∧
      (∀ st, s.targetOf x (field cmd 8 2) false = .error st → ends (.ctxDestroy c q) s s c q st 0))

/-- MAP maps n pages that no context maps, each read as zero, at the pages of the range, and answers n; beyond the allotment
it is LIMIT and maps nothing. An alias maps the pages that another context of the party maps, whose bytes are unchanged. UNMAP
takes the range's mapped pages away and answers their number; a byte of a page that a context still maps is unchanged (R261). -/
def mapAndUnmapPart : Prop :=
  ∀ (s : State) (c q : Nat) (x y : Ctx) (cmd : List Byte),
    let n := field cmd 12 4
    let a := field cmd 16 8
    (inExecution s c q 0x04 x cmd → field cmd 11 1 = 0 → field cmd 26 6 = 0 → field cmd 10 1 < 2 →
      s.targetOf x (field cmd 8 2) true = .ok y → pagesOk n a = true →
      (∀ i, i < n → pageOf y (a / 4096 + i) = none) →
      (s.pageAllot x.party < (s.partyPages x.party).length + n → ends (.map c q) s s c q stLimit 0) ∧
      ((s.partyPages x.party).length + n ≤ s.pageAllot x.party →
        ∃ (u : State) (ps : List Nat) (z : Ctx), ends (.map c q) s u c q stOk n ∧ ps.length = n ∧ ps.Nodup ∧
          (∀ p ∈ ps, ∀ w ∈ s.pool.ctxs, ∀ g ∈ w.pages, g.2.1 ≠ p) ∧ u.ctx y.num = some z ∧
          (∀ i, i < n → pageOf z (a / 4096 + i) = some (ps.getD i 0, decide (field cmd 10 1 % 2 = 1))) ∧
          (∀ v, (v < a / 4096 ∨ a / 4096 + n ≤ v) → pageOf z v = pageOf y v) ∧
          (∀ m, m ≠ y.num → u.ctx m = s.ctx m) ∧
          ∀ b, mget 0 u.pool.mem b = if b / 4096 ∈ ps then 0 else mget 0 s.pool.mem b)) ∧
    (inExecution s c q 0x04 x cmd → field cmd 11 1 = 0 → field cmd 26 6 = 0 → 2 ≤ field cmd 10 1 → field cmd 10 1 < 4 →
      s.targetOf x (field cmd 8 2) true = .ok y → pagesOk n a = true →
      (∀ i, i < n → pageOf y (a / 4096 + i) = none) →
      (∀ ps, s.aliasPages x y (field cmd 24 2) (field cmd 32 8) n = .ok ps →
        ∃ u z, ends (.map c q) s u c q stOk n ∧ u.ctx y.num = some z ∧
          (∀ i, i < n → pageOf z (a / 4096 + i) = some (ps.getD i 0, decide (field cmd 10 1 % 2 = 1))) ∧
          (∀ v, (v < a / 4096 ∨ a / 4096 + n ≤ v) → pageOf z v = pageOf y v) ∧
          (∀ m, m ≠ y.num → u.ctx m = s.ctx m) ∧ u.pool.mem = s.pool.mem) ∧
      (∀ st, s.aliasPages x y (field cmd 24 2) (field cmd 32 8) n = .error st → ends (.map c q) s s c q st 0)) ∧
    (inExecution s c q 0x05 x cmd → field cmd 10 2 = 0 → s.targetOf x (field cmd 8 2) true = .ok y →
      pagesOk n a = true → ¬ (y.num < 16 ∧ a < 65536) →
      ∃ u z, ends (.unmap c q) s u c q stOk (y.pages.filter fun g => a / 4096 ≤ g.1 ∧ g.1 < a / 4096 + n).length ∧
        u.ctx y.num = some z ∧ z.pages = y.pages.filter (fun g => ¬ (a / 4096 ≤ g.1 ∧ g.1 < a / 4096 + n)) ∧
        (∀ m, m ≠ y.num → u.ctx m = s.ctx m) ∧
        ∀ b, (∃ w ∈ u.pool.ctxs, ∃ g ∈ w.pages, g.2.1 = b / 4096) → mget 0 u.pool.mem b = mget 0 s.pool.mem b)

/-- QUEUE_CREATE adds a queue with nothing produced; QUEUE_DESTROY takes one away, but not the queue itself and not one with a
command in execution (R264, R266; BUSY there is the model's choice, log 67). -/
def queueCommandsPart : Prop :=
  ∀ (s : State) (c q : Nat) (x y : Ctx) (cmd : List Byte), s.targetOf x (field cmd 8 2) true = .ok y →
    (inExecution s c q 0x06 x cmd → field cmd 11 1 = 0 →
      let n := field cmd 10 1
      (queueOk y n (field cmd 12 4) (field cmd 16 8) (field cmd 24 8) (field cmd 32 8) = true →
        ∃ u, ends (.queueCreate c q) s u c q stOk 0 ∧
          u.queue y.num n = some (newQueue n (field cmd 12 4) (field cmd 16 8) (field cmd 24 8) (field cmd 32 8)) ∧
          (∀ d m, (d, m) ≠ (y.num, n) → u.queue d m = s.queue d m) ∧
          u = { s with pool := { s.pool with ctxs := u.pool.ctxs } }) ∧
      (queueOk y n (field cmd 12 4) (field cmd 16 8) (field cmd 24 8) (field cmd 32 8) = false →
        ends (.queueCreate c q) s s c q stRange 0)) ∧
    (inExecution s c q 0x07 x cmd →
      let n := field cmd 10 1
      (y.num = c → n = q → ends (.queueDestroy c q) s s c q stDenied 0) ∧
      (∀ z, (y.num ≠ c ∨ n ≠ q) → y.queues.find? (fun k => k.num = n) = some z →
        (z.cur.isSome = true → ends (.queueDestroy c q) s s c q stBusy 0) ∧
        (z.cur = none → ∃ u, ends (.queueDestroy c q) s u c q stOk 0 ∧ u.queue y.num n = none ∧
          (∀ d m, (d, m) ≠ (y.num, n) → u.queue d m = s.queue d m) ∧
          u = { s with pool := { s.pool with ctxs := u.pool.ctxs } })))

/-- Commands of contexts, pages and queues (R260, R261, R264). Commands that complete here: CMD_NOP, CTX_CREATE, CTX_DESTROY,
MAP, UNMAP, QUEUE_CREATE, QUEUE_DESTROY. -/
def Obligations.ContextAndQueueCommandsComplete : Prop :=
  contextCommandsPart ∧ mapAndUnmapPart ∧ queueCommandsPart

/-- FENCE_CREATE registers a word that may be written as a fence with the word's value, and the line's other words read zero;
FENCE_EXPORT answers the importer's handle; FENCE_REVOKE ends every handle; FENCE_DESTROY takes the fence from the registry
(R268, R271; that FENCE_REVOKE raises the generation is the model's choice, log 68). -/
def fenceRegistryCommandsPart : Prop :=
  ∀ (s : State) (c q : Nat) (x : Ctx) (cmd : List Byte),
    (∀ ph i, inExecution s c q 0x10 x cmd → physOf x (field cmd 8 8) = some ph → field cmd 8 8 % 8 = 0 →
      writableRange x (field cmd 8 8) 8 = true → s.writeStatus x.party [ph / 64] = stOk → s.heldBy (ph / 64) = none →
      s.fenceRoom x.party = some i →
      let v := leNat (readCells s.pool.mem ph 8)
      ∃ u f, ends (.fenceCreate c q) s u c q stOk v ∧ f ∈ u.pool.fences ∧ f.idx = i ∧ f.party = x.party ∧ f.ctx = c ∧
        f.phys = ph ∧ f.value = v ∧ f.importers = [] ∧ f.mirror = false ∧ (∀ g ∈ s.pool.fences, g ∈ u.pool.fences) ∧
        leNat (readCells u.pool.mem ph 8) = v ∧
        (∀ a, a / 64 = ph / 64 → (a < ph ∨ ph + 8 ≤ a) → mget 0 u.pool.mem a = 0) ∧
        ∀ a, a / 64 ≠ ph / 64 → mget 0 u.pool.mem a = mget 0 s.pool.mem a) ∧
    (∀ f, inExecution s c q 0x13 x cmd → s.ownFence x.party c (field cmd 8 8) = some f → field cmd 16 1 < 16 →
      field cmd 16 1 ≠ x.party →
      ∃ u, ends (.fenceExport c q) s u c q stOk (handleOf 1 f.party (field cmd 16 1) f.idx f.gen) ∧
        u = { s with pool := { s.pool with fences := s.pool.fences.map fun y =>
          if y.idx = f.idx then { y with importers := sins y.importers (field cmd 16 1) } else y } }) ∧
    (∀ f, inExecution s c q 0x14 x cmd → handleKind (field cmd 8 8) = 1 → handleSrc (field cmd 8 8) = x.party →
      field cmd 8 8 ∉ s.pool.dead → s.fenceByHandle (handleImporter (field cmd 8 8)) (field cmd 8 8) = .ok f →
      ∃ u, ends (.fenceRevoke c q) s u c q stOk 0 ∧
        (∀ g ∈ u.pool.fences, g.idx = f.idx → g.importers = [] ∧ g.gen = (f.gen + 1) % 2 ^ 32) ∧
        (∀ m ∈ f.importers, handleOf 1 f.party m f.idx f.gen ∈ u.pool.dead) ∧
        u.pool.fences.length = s.pool.fences.length ∧ u.pool.mem = s.pool.mem) ∧
    (∀ f, inExecution s c q 0x15 x cmd → s.ownFence x.party c (field cmd 8 8) = some f →
      ∃ u, ends (.fenceDestroy c q) s u c q stOk 0 ∧
        (∀ g ∈ u.pool.fences, g.idx ≠ f.idx) ∧ (∀ g ∈ s.pool.fences, g.idx ≠ f.idx → g ∈ u.pool.fences) ∧
        (∀ m ∈ f.importers, handleOf 1 f.party m f.idx f.gen ∈ u.pool.dead) ∧ u.pool.mem = s.pool.mem)

/-- FENCE_ADVANCE raises an own fence to the maximum of its value and the argument and answers it; a handle is DENIED.
FENCE_WAIT completes at once when the fence has the value or its line is chaff, BUSY without a limit, with the refusal's
status and the registry's value where its fence is refused, and waits otherwise; the wait ends as soon as one of these holds,
BUSY at its limit (R268, R270, R271). -/
def fenceWaitsAndAdvancesPart : Prop :=
  ∀ (s : State) (c q : Nat) (x : Ctx) (cmd : List Byte),
    (inExecution s c q 0x11 x cmd → field cmd 9 7 = 0 →
      (field cmd 8 1 = 2 → ends (.fenceAdvance c q) s s c q stDenied 0) ∧
      (∀ f, field cmd 8 1 = 1 → s.ownFence x.party x.num (field cmd 16 8) = some f →
        ∃ u, ends (.fenceAdvance c q) s u c q (if s.isChaff (f.phys / 64) then stChaff else stOk)
            (max f.value (field cmd 24 8)) ∧
          u.pool.fences = s.pool.fences.map (fun h =>
            if h.idx = f.idx then { h with value := max f.value (field cmd 24 8) } else h) ∧ touchesTrace s u)) ∧
    (∀ f, inExecution s c q 0x12 x cmd → field cmd 9 7 = 0 → (∀ w ∈ s.pool.waits, ¬ (w.ctx = c ∧ w.queue = q)) →
      field cmd 32 4 ≤ 60000 → s.fenceRef x (field cmd 8 1) (field cmd 16 8) = .ok f →
      let chaff := f.mirror = false ∧ s.isChaff (f.phys / 64) = true
      (chaff → ends (.fenceWait c q) s s c q stChaff f.value) ∧
      (¬ chaff → field cmd 24 8 ≤ f.value → ends (.fenceWait c q) s s c q stOk f.value) ∧
      (¬ chaff → f.value < field cmd 24 8 → field cmd 32 4 = 0 → ends (.fenceWait c q) s s c q stBusy f.value) ∧
      (¬ chaff → f.value < field cmd 24 8 → field cmd 32 4 ≠ 0 →
        ∃ w, exec (.fenceWait c q) s = .next { s with pool := { s.pool with waits := s.pool.waits ++ [w] } } ∧
          w.ctx = c ∧ w.queue = q ∧ w.fence = f.idx ∧ w.value = field cmd 24 8 ∧ w.limit = field cmd 32 4 ∧
          w.started = s.now)) ∧
    (∀ st, inExecution s c q 0x12 x cmd → field cmd 9 7 = 0 → (∀ w ∈ s.pool.waits, ¬ (w.ctx = c ∧ w.queue = q)) →
      field cmd 32 4 ≤ 60000 → s.fenceRef x (field cmd 8 1) (field cmd 16 8) = .error st →
      ends (.fenceWait c q) s s c q st (s.refusedValue x.party (field cmd 8 1) (field cmd 16 8))) ∧
    (∀ w st, s.poolMute = false → s.ctx c = some x → s.pool.waits.find? (fun w => w.ctx = c && w.queue = q) = some w →
      s.waitEnds w x = some st →
      ∃ u, ends (.fenceWaitComplete c q) s u c q st (s.waitValue w) ∧
        u.pool.waits = s.pool.waits.filter (fun y => !(y.ctx = c && y.queue = q)) ∧ touchesTrace s u) ∧
    (∀ w f, s.waitFence w x = .ok f →
      ((f.mirror = false ∧ s.isChaff (f.phys / 64) = true) → s.waitEnds w x = some stChaff) ∧
      (¬ (f.mirror = false ∧ s.isChaff (f.phys / 64) = true) →
        (w.value ≤ f.value → s.waitEnds w x = some stOk) ∧
        (f.value < w.value → w.started + w.limit * 1000000 ≤ s.now → s.waitEnds w x = some stBusy) ∧
        (f.value < w.value → s.now < w.started + w.limit * 1000000 → s.waitEnds w x = none)))

/-- Commands of fences (R268 to R271). Commands that complete here: FENCE_CREATE, FENCE_ADVANCE, FENCE_WAIT,
FENCE_WAIT_COMPLETE, FENCE_EXPORT, FENCE_REVOKE, FENCE_DESTROY. -/
def Obligations.FenceCommandsComplete : Prop :=
  fenceRegistryCommandsPart ∧ fenceWaitsAndAdvancesPart

/-- JOB_START of a POOLED descriptor of the context takes the descriptor's free job slot, RUNNING from tile 0 with its tile
count, party and clusters; it completes when the job ends. A slot that is not FREE is BUSY. JOB_CANCEL ends a job of the
context ABORTED and answers its counter (R94 to R97, R266). -/
def jobCommandsPart : Prop :=
  ∀ (s : State) (c q : Nat) (x : Ctx) (cmd d : List Byte),
    (inExecution s c q 0x20 x cmd → (∀ j ∈ s.jobs, ∀ b, j.cmd = some b → ¬ (b.1 = c ∧ b.2.1 = q)) →
      field cmd 10 1 < 8 → s.descAt (field cmd 10 1) (field cmd 8 2) = some d → dKind d = 2 → dCtx d = c → dJob d < 16 →
      s.jobs.length = 16 → x.num = c →
      (s.jobState (dJob d) ≠ 0 → ends (.jobStart c q) s s c q stBusy 0) ∧
      (s.jobState (dJob d) = 0 → x.resident = true → ∃ t, exec (.jobStart c q) s = .next t ∧ t.jobState (dJob d) = 1 ∧
        t.reg (jobReg (dJob d) 2) = 0 ∧
        t.reg (jobReg (dJob d) 3) = s.descTiles (field cmd 8 2) d ∧ t.reg (jobReg (dJob d) 4) = x.party ∧
        t.reg (jobReg (dJob d) 5) = dMask d ∧ (t.job (dJob d)).desc = field cmd 8 2 ∧ (t.job (dJob d)).ctx = c ∧
        (t.job (dJob d)).bytes = d ∧ (∀ j, j ≠ dJob d → t.job j = s.job j) ∧
        (∀ k, (∀ i, i ≤ 5 → k ≠ jobReg (dJob d) i) → t.reg k = s.reg k) ∧ t = { s with od := t.od, jobs := t.jobs })) ∧
    (inExecution s c q 0x21 x cmd → field cmd 8 1 < 16 →
      (s.jobState (field cmd 8 1) = 1 ∨ s.jobState (field cmd 8 1) = 2) → (s.job (field cmd 8 1)).ctx = c →
      s.jobs.length = 16 →
      ∃ u, ends (.jobCancel c q) s u c q stOk (s.reg (jobReg (field cmd 8 1) 2)) ∧ u.jobState (field cmd 8 1) = 4 ∧
        (u.job (field cmd 8 1)).cmd = none ∧ ∀ j, j ≠ field cmd 8 1 → u.job j = s.job j) ∧
    (inExecution s c q 0x21 x cmd → 16 ≤ field cmd 8 1 → ends (.jobCancel c q) s s c q stRange 0)

/-- Requests for residency that have waited 100 ms are dropped, and the others go on; a mirror that is due reads its source,
and its fence rises to the answered value but never falls (R263, R272, R273). -/
def residencyAndMirrorsPart : Prop :=
  ∀ s : State,
    (∀ p, s.poolMute = false →
      ∃ t, exec (.residencyTimeout p) s = .next t ∧
        t.pool.resWait = s.pool.resWait.filter (fun w => !(w.1 = p && decide (w.2.2 + 100000000 ≤ s.now))) ∧
        ((∀ w ∈ s.pool.resWait, w.1 = p → s.now < w.2.2 + 100000000) → t = s)) ∧
    (∀ i m st v, s.poolMute = false → s.active = true → s.pool.mirrors[i]? = some m → m.enable = true → m.state ≠ 0 →
      m.state ≠ 3 → m.polled + m.period ≤ s.frame.number →
      ∃ t n, exec (.mirrorPoll i st v) s = .next t ∧ t.pool.mirrors[i]? = some n ∧ n.polled = s.frame.number ∧
        n.src = m.src ∧ n.party = m.party ∧ n.handle = m.handle ∧ n.fence = m.fence ∧ m.value ≤ n.value ∧
        (st = none → n.missed = m.missed + 1 ∧ n.value = m.value ∧ (2 ≤ m.missed → n.state = 2)) ∧
        (st = some stOk ∨ st = some stChaff → m.value ≤ v → n.state = 1 ∧ n.missed = 0 ∧ n.value = v) ∧
        (st = some stOk ∨ st = some stChaff → v < m.value → n.value = m.value ∧ n.lower = m.lower + 1) ∧
        ((st = some stRevoked ∨ st = some stNoObject) → n.state = 3 ∧ n.value = m.value) ∧
        (∀ j, j ≠ i → t.pool.mirrors[j]? = s.pool.mirrors[j]?) ∧
        t.pool.fences = s.pool.fences.map (fun f =>
          if f.idx = m.fence && f.mirror then { f with value := max f.value n.value } else f) ∧
        t.out = s.out ++ [.mirrorPoll m.src m.handle])

/-- Pooled jobs, residency and mirrors (R94 to R97, R263, R272, R273). Commands that complete here: RESIDENCY_TIMEOUT,
JOB_START, JOB_CANCEL, MIRROR_POLL. -/
def Obligations.JobsResidencyAndMirrorsComplete : Prop :=
  jobCommandsPart ∧ residencyAndMirrorsPart

/-! ## The loader (08) -/

/-- A load request with nothing pending from a context that is not another party's, whose composition, the bytes at its
address, passes checks 1 and 2 is pending; one that fails is refused and reported with its sub-reason and detail; while
anything is pending it is BUSY. An update request whose image is mapped is pending; another party's context is DENIED (R158,
R170, R177, R178, R282). -/
def loadAndUpdateRequestsPart : Prop :=
  ∀ (s : State) (r : Req) (ctx addr : Nat),
    (s.bytesCheck r 0x4C20 1 12 = .status stOk →
      let img : PlanImage := ⟨readComp (s.imageBytes r.party ctx addr), []⟩
      (s.loader.pending ≠ none → ∃ t, exec (.loadRequest r ctx addr) s = .next t ∧
        writeAnswered s t r 0x4C20 stBusy ∧ otherRegs s t [] ∧ touchesReply s t) ∧
      (s.loader.pending = none → s.lifecycleBars r.party = true ∨ s.ctxStatus r.party ctx = stDenied →
        ∃ t, exec (.loadRequest r ctx addr) s = .next t ∧
        writeAnswered s t r 0x4C20 stDenied ∧ otherRegs s t [] ∧ touchesReply s t) ∧
      (s.loader.pending = none → s.lifecycleBars r.party = false → s.ctxStatus r.party ctx ≠ stDenied →
        s.check12 img ctx addr = none →
        ∃ t, exec (.loadRequest r ctx addr) s = .next t ∧ writeAnswered s t r 0x4C20 stOk ∧ otherRegs s t [] ∧
          t.loader = { s.loader with pending := some ⟨pendLoad, r.party, ctx, addr, some img, none, 0, false, []⟩ } ∧
          touchesReply { s with loader := t.loader } t) ∧
      (∀ sub det, s.loader.pending = none → s.lifecycleBars r.party = false → s.ctxStatus r.party ctx ≠ stDenied →
        s.check12 img ctx addr = some (sub, det) →
        ∃ t, exec (.loadRequest r ctx addr) s = .next t ∧ writeAnswered s t r 0x4C20 stPlanRejected ∧
          t.reg 0x4C2102 = stPlanRejected ∧ t.reg 0x4C2103 = sub ∧ t.reg 0x4C2104 = det ∧ t.loader = s.loader)) ∧
    (s.bytesCheck r 0x4C24 1 12 = .status stOk → s.loader.pending = none →
      (s.ctxStatus r.party ctx = stDenied →
        ∃ t, exec (.updateRequest r ctx addr) s = .next t ∧ writeAnswered s t r 0x4C24 stDenied ∧ otherRegs s t [] ∧
          touchesReply s t) ∧
      (s.ctxStatus r.party ctx ≠ stDenied → s.mapped r.party ctx addr (max 64 (s.imageLength r.party ctx addr)) = true →
        ∃ t, exec (.updateRequest r ctx addr) s = .next t ∧ writeAnswered s t r 0x4C24 stOk ∧ otherRegs s t [] ∧
          t.loader = { s.loader with pending := some ⟨pendUpdate, r.party, ctx, addr, none, none, 0, false, []⟩ } ∧
          touchesReply { s with loader := t.loader } t) ∧
      (s.ctxStatus r.party ctx ≠ stDenied → s.mapped r.party ctx addr (max 64 (s.imageLength r.party ctx addr)) = false →
        ∃ t, exec (.updateRequest r ctx addr) s = .next t ∧ writeAnswered s t r 0x4C24 stNoObject ∧ otherRegs s t [] ∧
          touchesReply s t)) ∧
    (∀ v, s.writeCheck r 0x4C24 2 v = .status stOk → s.loader.pending = none → v < 2 ^ 20 →
      s.reg (okey (0x3310 + consHead v) 1) = r.party →
      ∃ t, exec (.consolidate r v) s = .next t ∧ writeAnswered s t r 0x4C24 stOk ∧ otherRegs s t [] ∧
        t.loader.pending = some ⟨pendCons, r.party, 0, 0, none, none, consTarget v, false, []⟩ ∧
        t.frame.staged = s.frame.staged ++ [⟨s.dueFrame, .consolidate (consHead v) (consTarget v)⟩]) ∧
    (∀ v, s.writeCheck r 0x4C20 2 v = .status stOk →
      ∃ t, exec (.abort r v) s = .next t ∧ writeAnswered s t r 0x4C20 stOk ∧ t.loader.plan = s.loader.plan ∧
        (s.loader.pending = none → otherRegs s t [] ∧ touchesReply s t) ∧
        (∀ x, s.loader.pending = some x → x.kind = pendLoad → t.loader.pending = none ∧ t.reg 0x4C2102 = stAborted))

/-- Verification of a pending load copies the segment images from where the composition's records say. A plan that passes Table
LDR-5 is verified with its pods to program, and the spares of its update group are given up by whatever used them; one that fails
is refused and reported, and the plan in force stays. A weight update is copied too, and one that passes forms an update group, as
an accepted consolidation does (R57, R158, R160, R171, R172, R175, R177 to R180). -/
def verificationPart : Prop :=
  ∀ (s : State) (aux : List (Nat × SegAux)) (x : Pending), s.loader.pending = some x → x.verified = false →
    (∀ q, x.plan = some q → x.kind = pendLoad →
      let p := s.copySegs q.comp aux
      ∃ t u w : State, exec (.verificationComplete aux) s = .next t ∧ touchesTrace s u ∧ t.loader.plan = s.loader.plan ∧
        w = { u with od := w.od, pods := w.pods, cal := w.cal } ∧
        (u.verifyPlan p x.ctx = none → t = { w with loader := { s.loader with
            pending := some { x with plan := some p, verified := true, bulk := w.bulkOf p },
            group := if u.groupOf p = [] then none else some ⟨pendLoad, 0, 0, 0, u.groupOf p⟩ } } ∧
          ∀ m ∈ u.groupOf p, ∀ sp, sp < 40 → s.spare m.1 = some sp → t.reg 0x300300 ≠ sp) ∧
        (∀ v, u.verifyPlan p x.ctx = some v → t.loader.pending = none ∧ t.loader.group = none ∧
          t.reg 0x4C2102 = stPlanRejected ∧ t.reg 0x4C2103 = v.1 ∧ t.reg 0x4C2104 = v.2)) ∧
    (x.plan = none → x.update = none → x.kind = pendUpdate →
      let i := s.copyUpdate x
      ∃ t u, exec (.verificationComplete aux) s = .next t ∧ touchesTrace s u ∧ t.loader.plan = s.loader.plan ∧
        (u.checkUpdate x i = none →
          t.loader.pending = some { x with update := some i, target := i.objId, verified := true } ∧
          ∃ g, t.loader.group = some g ∧ g.kind = pendUpdate ∧ g.party = x.party ∧ g.objId = i.objId ∧ g.newHash = i.newHash) ∧
        (∀ v, u.checkUpdate x i = some v → t.loader.pending = none ∧ t.reg 0x4C2404 = stPlanRejected)) ∧
    (∀ i, x.plan = none → x.update = some i → s.loader.plan ≠ none → (s.partyObj x.party i.objId).isSome = true →
      ∃ t g, exec (.verificationComplete aux) s = .next t ∧ t.loader.plan = s.loader.plan ∧
        t.loader.pending = some { x with verified := true } ∧ t.loader.group = some g ∧ g.kind = x.kind ∧
        g.party = x.party ∧ g.objId = i.objId ∧ g.newHash = i.newHash)

/-- Requests to the loader and their verification (R170 to R179). Commands that complete here: LOAD_REQUEST,
VERIFICATION_COMPLETE, ABORT, UPDATE_REQUEST, CONSOLIDATE. -/
def Obligations.LoadsAndVerificationComplete : Prop :=
  loadAndUpdateRequestsPart ∧ verificationPart

/-! ## Rotation (02, 07) -/

/-- Programming of a pod, while its pulses may have run: a batch that verifies goes on to the next one in order; the last one ends
the program, which counts a cycle, records the time, leaves the content with its hash, and begins calibration; a failed verify is
repeated once from the start, and a second one suspends the cluster's rotation with a record. Otherwise nothing happens (R29,
R51 to R53, R66). -/
def programmingPart : Prop :=
  ∀ (s : State) (comp : Nat), let pod := s.reg 0x300300
    let batch := (s.pod pod).batches
    pod < 40 → s.pods.length = 40 → s.clusters.length = 8 →
      (∀ pass, s.programRuns pod = false → exec (.programComplete pass comp) s = .next s) ∧
      (s.programRuns pod = true →
        (batch < 16 → ∃ t, exec (.programComplete true comp) s = .next t ∧ (t.pod pod).batches = batch + 1 ∧
          (∀ i, i ≠ pod → t.pod i = s.pod i) ∧ t = { s with pods := t.pods }) ∧
        (16 ≤ batch → s.reg (podReg pod 5) < 9999 →
          ∃ t, exec (.programComplete true comp) s = .next t ∧ t.reg (podReg pod 5) = s.reg (podReg pod 5) + 1 ∧
            t.reg (podReg pod 4) = s.rtc ∧ t.reg (podReg pod 6) = comp % 65536 ∧ t.reg 0x300300 = 0xFF ∧
            (t.pod pod).calLeft = s.calSlices ∧ (t.pod pod).fails = 0 ∧
            (∀ p, s.contentOf pod = some p → (t.pod pod).cells = slotCells p (pod / 5) (s.pod pod).mirror ∧
              (t.pod pod).hash = (s.pod pod).target) ∧
            (∀ i, i ≠ pod → t.pod i = s.pod i) ∧ t = { s with od := t.od, pods := t.pods }) ∧
        (s.reg (podReg pod 5) < 9999 → (s.pod pod).fails = 0 →
          ∃ t, exec (.programComplete false comp) s = .next t ∧ t.reg (podReg pod 5) = s.reg (podReg pod 5) + 1 ∧
            t.reg 0x300300 = pod ∧ (t.pod pod).fails = 1 ∧ (t.pod pod).batches = 0 ∧ (t.pod pod).hash = 0 ∧
            (∀ i, i ≠ pod → t.pod i = s.pod i)) ∧
        (s.reg (podReg pod 5) < 9999 → (s.pod pod).fails = 1 → (s.pod pod).fresh = false →
          ∃ t, exec (.programComplete false comp) s = .next t ∧ t.reg 0x300300 = 0xFF ∧ (t.pod pod).fails = 0 ∧
            (t.clu (pod / 5)).suspended = true ∧ raised t clsAnalog 1 (unitPod pod) batch))

/-- A cluster's due time is noted and ends a suspension (R52, R55). A slice of KEEP takes one slice of the spare's
calibration, and no MVM runs in the pod's cluster until it ends (R32, R51, R66). -/
def swapDuesAndSlicesPart : Prop :=
  ∀ s : State,
    (∀ c at_, (s.clu c).dueAt = some at_ → s.frame.running = true → c < s.clusters.length →
      (at_ ≤ s.now → ∃ t, exec (.swapDue c) s = .next t ∧ t.clu c = { s.clu c with due := true, suspended := false } ∧
        (∀ d, d ≠ c → t.clu d = s.clu d) ∧ t = { s with clusters := t.clusters }) ∧
      (s.now < at_ → exec (.swapDue c) s = .next s)) ∧
    (∀ i a b refs, s.sliceOpen = true → i < 40 → (∀ j, j < i → (s.pod j).calLeft = 0) → 1 < (s.pod i).calLeft →
      s.liftKeep (i / 5) = false → s.gateOff i = false → s.reg (okey (0x2420 + i / 5) 2) = 1 →
      ∃ t, exec (.rotationSlice a b refs) s = .next t ∧ (t.pod i).calLeft = (s.pod i).calLeft - 1 ∧
        (∀ j, j ≠ i → t.pod j = s.pod j) ∧ t.frame = { s.frame with tasksDone := setBit s.frame.tasksDone 1 } ∧
        (∀ c, c ≠ i / 5 → t.clu c = s.clu c) ∧
        (i / 5 < s.clusters.length → (t.clu (i / 5)).sliceUntil = s.frame.start + s.keepStart + 2000 + s.inForce 0x300200 * 1000) ∧
        t = { s with pods := t.pods, frame := t.frame, clusters := t.clusters }) ∧
    (∀ a b refs, s.sliceOpen = false → exec (.rotationSlice a b refs) s = .next s)

/-- Images run in place from a slot of a cluster, and its slot's pod; `rows` are their digital rows. -/
def imagesInPlace (s : State) (c sl : Nat) (rows : List Nat) (pod : Nat) : Prop :=
  s.inPlaceAt c sl ≠ [] ∧ rows = (s.inPlaceAt c sl).flatMap (fun x => blockRows x.2.block x.2.blocks) ∧ s.slotPod c sl = pod

/-- A lift begins in a KEEP that carries it when the footprint of the slot's in-place images fits the shadow's free space. 40 µs
later the footprint has been read twice, corrected rows counting: a copy of which every row decoded runs from the shadow with its
swap staged, or waits for its group's other lifts; another raises a record, gives the space back and the images go on in place, but
of a retired pod they have no source from the next frame on. A set-down check that passes lets the images run in place from the
next tick; one that does not decode or match raises a record and is repeated (R50, R61, R152, R154, R155). -/
def liftsAndSetDownsPart : Prop :=
  ∀ (s : State) (c : Nat), c < s.clusters.length → c < 8 →
    (∀ sl rows pod, s.liftSlot c = some sl → imagesInPlace s c sl rows pod → s.liftOpen = true → s.liftKeep c = true →
      sl ∉ (s.clu c).shadow → sl ∉ (s.clu c).noSource → (s.clu c).lifting = none →
      s.reg (okey (0x3340 + c) 3) + s.footprintAt c sl ≤ 8192 →
      ∃ t, exec (.lift c) s = .next t ∧ t.clu c = { s.clu c with lifting := some (s.now, sl) } ∧
        t.reg (okey (0x3340 + c) 3) = s.reg (okey (0x3340 + c) 3) + s.footprintAt c sl ∧ (∀ e, e ≠ c → t.clu e = s.clu e) ∧
        (∀ k, k ≠ okey (0x3340 + c) 3 → t.reg k = s.reg k) ∧ t = { s with clusters := t.clusters, od := t.od }) ∧
    (∀ at_ sl rows pod errs, (s.clu c).lifting = some (at_, sl) → at_ + 40000 ≤ s.now → s.active = true →
      imagesInPlace s c sl rows pod →
      let read := readRows (s.convEnv pod) (s.pod pod) (rows ++ rows) errs
      (∀ row, read.2 = some row → ∃ t, exec (.liftEnd c errs) s = .next t ∧ (t.clu c).lifting = none ∧
        sl ∉ (t.clu c).shadow ∧ ((s.pod pod).retired = true → sl ∈ (t.clu c).unlifted) ∧
        t.reg (podReg pod 10) = (s.reg (podReg pod 10) + read.1) % 2 ^ 32 ∧
        t.reg (okey (0x3340 + c) 3) = s.reg (okey (0x3340 + c) 3) - s.footprintAt c sl ∧ t.reg (okey (0x3340 + c) 2) = pod ∧
        raised t clsAnalog 3 (unitPod pod) (row % 64) ∧ touchesFault s t) ∧
      (read.2 = none → ∃ t, exec (.liftEnd c errs) s = .next t ∧ (t.clu c).lifting = none ∧
        t.reg (podReg pod 10) = (s.reg (podReg pod 10) + read.1) % 2 ^ 32 ∧
        (sl ∈ (t.clu c).shadow → s.groupLifting c = true ∨ (t.clu c).staged = some sl ∨ sl ∈ (t.clu c).setDown) ∧
        (s.groupLifting c = true → sl ∈ (t.clu c).shadow) ∧
        (s.frame.phase = .keep → s.loader.group = none → s.wantsSwap c = some sl → (s.clu c).shadow = [] →
          (t.clu c).shadow = [sl] ∧ (t.clu c).staged = some sl ∧ t.reg (okey (0x3340 + c) 2) = 0xFE))) ∧
    (∀ sl rest rows pod errs, (s.clu c).setDown.filter (fun x => x ∉ s.checkedNow c) = sl :: rest → s.active = true →
      s.frame.phase = .keep → s.tier ≠ 3 → s.liftKeep c = true → s.frame.start + s.keepStart + 40000 ≤ s.now →
      imagesInPlace s c sl rows pod →
      let read := readRows (s.convEnv pod) (s.pod pod) rows errs
      let image := fun x : SegImage × DrainPip => pipBytesOf x.2.image
      let held := fun x : SegImage × DrainPip => (List.range (image x).length).map fun i =>
        BitVec.ofNat 8 (mget 0 (s.pod pod).digital (512 * x.2.block + i))
      (read.2 = none → (∀ x ∈ s.inPlaceAt c sl, held x = image x) →
        ∃ t, exec (.setDownCheck c errs) s = .next t ∧
          t.clu c = { s.clu c with landing := sins (s.clu c).landing sl,
                                   checked := some (s.frame.number, s.checkedNow c ++ [sl]) } ∧
          t.reg (podReg pod 10) = (s.reg (podReg pod 10) + read.1) % 2 ^ 32 ∧ (∀ e, e ≠ c → t.clu e = s.clu e) ∧
          (∀ k, k ≠ podReg pod 10 → t.reg k = s.reg k) ∧ t = { s with clusters := t.clusters, od := t.od }) ∧
      (∀ row, (read.2 = some row ∨ (read.2 = none ∧ ∃ pre x post, s.inPlaceAt c sl = pre ++ x :: post ∧
            (∀ y ∈ pre, held y = image y) ∧ held x ≠ image x ∧ row = 2 * x.2.block)) →
        ∃ t, exec (.setDownCheck c errs) s = .next t ∧ (t.clu c).setDown = (s.clu c).setDown ∧
          (t.clu c).landing = (s.clu c).landing ∧ raised t clsAnalog 3 (unitPod pod) (row % 64) ∧ touchesFault s t))

/-- A fetch slot reads the block that the cluster's engine wants, counting corrected rows; delivered, it replaces the older of
the two buffered blocks, and the engine that stalled for it goes on, its stall counting in the run's time. A row that does not
decode stops the run and raises a record (R50, R60, R61, R150). -/
def fetchesPart : Prop :=
  ∀ (s : State) (c : Nat), c < s.clusters.length → c < 8 →
    (∀ b d pod errs, s.wantedBlock c = some b → s.runningPip c = some d → s.slotPod c d.slot = pod → pod < s.pods.length →
      s.active = true → s.sinceTick / 320 % 16 = 15 → s.reg (podReg pod 9) ≠ 0 →
      (s.pod pod).slotRead ≠ s.sinceTick / 320 + 1 →
      let read := readRows (s.convEnv pod) (s.pod pod) (blockRows (d.block + b) 1) errs
      (read.2 = none → ∃ t, exec (.fetchSlot c errs) s = .next t ∧
        t.clu c = { s.clu c with fetch := none, reading := some b } ∧
        t.reg (podReg pod 10) = (s.reg (podReg pod 10) + read.1) % 2 ^ 32 ∧
        (∀ k, k ≠ podReg pod 10 → t.reg k = s.reg k) ∧ (∀ e, e ≠ c → t.clu e = s.clu e) ∧
        t.pod pod = { s.pod pod with slotRead := s.sinceTick / 320 + 1 } ∧ (∀ i, i ≠ pod → t.pod i = s.pod i) ∧
        t = { s with clusters := t.clusters, od := t.od, pods := t.pods }) ∧
      (∀ row, read.2 = some row →
        ∃ t, exec (.fetchSlot c errs) s = .next t ∧ (t.clu c).fetch = none ∧
          (t.pip (c + 4)).running = false ∧ raised t clsAnalog 3 (unitPod pod) (row % 64))) ∧
    (∀ b, (s.clu c).reading = some b → s.active = true → c + 4 < s.pips.length →
      ∃ t, exec (.fetchDelivered c) s = .next t ∧
        t.clu c = { s.clu c with reading := none, fetched := (b :: (s.clu c).fetched).take 2 } ∧
        ((s.pip (c + 4)).stall = some b → t.pip (c + 4) = { s.pip (c + 4) with
          stall := none,
          cycle := max (s.pip (c + 4)).cycle (ceilDiv ((s.now - (s.pip (c + 4)).start) * 8) (pipPeriod (c + 4))) }) ∧
        ((s.pip (c + 4)).stall ≠ some b → t.pips = s.pips) ∧ t = { s with clusters := t.clusters, pips := t.pips })

/-- Rotation: programming, swaps, lifts and fetches (R51 to R61, R150 to R154). Commands that complete here: ROTATION_SLICE,
FETCH_SLOT, FETCH_DELIVERED, PROGRAM_COMPLETE, SWAP_DUE, LIFT, LIFT_END, SET_DOWN_CHECK. -/
def Obligations.RotationCompletes : Prop :=
  programmingPart ∧ swapDuesAndSlicesPart ∧ liftsAndSetDownsPart ∧ fetchesPart

/-! ## Calibration (03) -/

/-- The last slice of a spare's calibration with an agreeing pair leaves its base and offset codes, clamped to their ranges,
and its drift reference for the next boundary, and the pod shows LIMIT where a code was clamped and FRESH where none was; a
pair that does not agree is repeated at most three times, after which the spare keeps its trims. Neither changes a trim in
force, a base code or the vault before that boundary (R66, R67, R70). -/
def calibrationSlicesPart : Prop :=
  ∀ (s : State) (i : Nat) (a b : CalMeas) (refs : List Nat), s.sliceOpen = true → i < 40 → s.pods.length = 40 →
    (∀ j, j < i → (s.pod j).calLeft = 0) → (s.pod i).calLeft = 1 → s.liftKeep (i / 5) = false → s.gateOff i = false →
    s.reg (okey (0x2420 + i / 5) 2) = 1 →
    let codes := ((List.range 132).map fun g => (g, clampI 0 63 ((s.calCodes i a b).1.getD g 16))) ++
      (List.range 132).map fun g => (132 + g, clampI (-32) 31 ((s.calCodes i a b).2.getD g 0))
    let held : Prop := ∀ g, g < 132 → 0 ≤ (s.calCodes i a b).1.getD g 16 ∧ (s.calCodes i a b).1.getD g 16 ≤ 63 ∧
      -32 ≤ (s.calCodes i a b).2.getD g 0 ∧ (s.calCodes i a b).2.getD g 0 ≤ 31
    (calAgrees (s.pod i) a b = true →
      ∃ t, exec (.rotationSlice a b refs) s = .next t ∧ (t.pod i).calLeft = 0 ∧
        t.cal.verifyNext = some (i, some (codes, refs.take 15)) ∧ t.reg (calReg i 8) = stOk ∧
        (held → t.reg (calReg i 4) = 0) ∧ (¬ held → t.reg (calReg i 4) = 3) ∧
        t.cal.applied = s.cal.applied ∧ t.cal.target = s.cal.target ∧ t.cal.calibrated = s.cal.calibrated ∧
        t.cal.vault = s.cal.vault) ∧
    (calAgrees (s.pod i) a b = false → (s.pod i).calTries < 3 →
      ∃ t, exec (.rotationSlice a b refs) s = .next t ∧
        t.pod i = { s.pod i with calLeft := s.calSlices, calTries := (s.pod i).calTries + 1 } ∧ t.cal = s.cal) ∧
    (calAgrees (s.pod i) a b = false → 3 ≤ (s.pod i).calTries →
      ∃ t, exec (.rotationSlice a b refs) s = .next t ∧ t.cal.verifyNext = some (i, none) ∧
        ((∀ k ∈ s.cal.limited ++ s.cal.baseLimit, k / 4096 ≠ unitPod i) → t.reg (calReg i 4) = 2) ∧
        t.cal.applied = s.cal.applied ∧ t.cal.target = s.cal.target ∧ t.cal.calibrated = s.cal.calibrated ∧
        t.cal.vault = s.cal.vault ∧ t.integ.log.getLast?.map (fun r => (r.cls, r.cause, r.unit)) = some (clsCal, 1, unitPod i))

/-- A pod with 16 drift visits forms its ratio: the term moves when it differs by more than 0.6 codes, and the gain codes of
its weight groups follow it through the ramp; otherwise no target changes (R65, R68, R69). Each component of the
temperature compensation moves to its rounded polynomial when it differs by more than 0.6 codes (R76). -/
def driftAndCompensationPart : Prop :=
  ∀ s : State, s.active = true →
    (∀ pod, pod < 40 → s.pods.length = 40 → 16 ≤ (s.pod pod).visits →
      let reads := (s.pod pod).driftAcc
      let moved := (List.range 15).foldl (fun a m => a + (reads.getD (m + 1) 0 - reads.getD 0 0)) (0 : Int)
      let ref := (s.pod pod).refs.foldl (· + ·) 0
      let rho := (roundDiv (1000000 * moved) ref).toNat % 2 ^ 32
      (0 < ref → 0 < roundDiv (1000000 * moved) ref →
        ∃ t, exec (.driftRatio pod) s = .next t ∧ (t.pod pod).visits = 0 ∧ t.reg (calReg pod 7) = rho ∧
          t.cal.applied = s.cal.applied ∧
          (driftMoves rho (mget 0 s.cal.drift pod) = true → mget 0 t.cal.drift pod = driftTerm rho ∧
            ∀ g, g < 128 → trimGet t.cal.target (trimKey (unitPod pod) g) =
              clampI 0 63 (trimGet s.cal.calibrated (trimKey (unitPod pod) g) + driftTerm rho)) ∧
          (driftMoves rho (mget 0 s.cal.drift pod) = false → t.cal.drift = s.cal.drift ∧ t.cal.target = s.cal.target)) ∧
      (ref = 0 ∨ roundDiv (1000000 * moved) ref ≤ 0 →
        ∃ t, exec (.driftRatio pod) s = .next t ∧ (t.pod pod).visits = 0 ∧ t = { s with pods := t.pods })) ∧
    (s.frame.number % (max 1 (s.inForce 0x310004)) = 0 → (s.cal.poly.map (·.1)).Nodup →
      ∃ t, exec .compensationEval s = .next t ∧ t = { s with cal := { s.cal with comp := t.cal.comp, target := t.cal.target } } ∧
        ∀ x ∈ s.cal.poly, mget 0 t.cal.comp x.1 =
          let p := polyAt x.2.1 (s.sensorAt x.2.2)
          if 600 * 64000000 < (p - mget 0 s.cal.comp x.1 * 1000 * 64000000).natAbs then roundDiv p (1000 * 64000000)
          else mget 0 s.cal.comp x.1)

/-- An AFE attempt: a channel in AUTO falls due; measurements of the zero and then of the gain that agree go on, a pair that
does not agree is repeated up to three times, after which the row of NOT_QUIET attempts is broken; a quiet post-check without an
overload has passed, and one that is not quiet leaves the trims. At the next boundary an attempt that passed moves gain and offset
by the mean errors and ends, with its due. A T channel's times are whole output words (R70 to R74; the sign of the correction is
the model's reading, log 54). -/
def afeCalibrationPart : Prop :=
  ∀ s : State,
    (∀ i, s.frame.running = true → s.inForce (afeReg i 7) = 0 → s.afeFalls i = true →
      exec (.afeCalDue i) s = .next { s with cal := { s.cal with afeDue := setBit s.cal.afeDue i } }) ∧
    (∀ i, i < 12 → s.afeTime i 3 = 500000 ∧ s.afeTime i 5 = 900000 ∧ s.afeTime i 6 = 1000000 ∧ s.afeTime i 7 = 2000000) ∧
    (∀ i, 12 ≤ i → s.afeTime i 3 % (max 1 (s.samplePeriod i / 64)) = 0 ∧ 500000 ≤ s.afeTime i 3 ∧
      s.afeTime i 7 % (max 1 (s.samplePeriod i / 64)) = 0 ∧ 2000000 ≤ s.afeTime i 7) ∧
    (∀ a b x, s.cal.afe = some x → x.ch < 16 →
      (x.stage = 1 ∧ s.afeTime x.ch 3 ≤ s.now - x.start ∨ x.stage = 2 ∧ s.afeTime x.ch 5 ≤ s.now - x.start) →
      let tol := if x.stage = 1 then 20 else 100
      ((a - b).natAbs ≤ tol → x.stage = 1 → exec (.afeCalStep a b) s = .next { s with cal := { s.cal with
        afe := some { x with stage := 2, offs := some (a, b), tries := 0 } } }) ∧
      ((a - b).natAbs ≤ tol → x.stage = 2 → exec (.afeCalStep a b) s = .next { s with cal := { s.cal with
        afe := some { x with stage := 3, gain := some (a, b), tries := 0 } } }) ∧
      (tol < (a - b).natAbs → x.tries < 3 → exec (.afeCalStep a b) s = .next { s with cal := { s.cal with
        afe := some { x with tries := x.tries + 1 } } }) ∧
      (tol < (a - b).natAbs → 3 ≤ x.tries → ∃ t, exec (.afeCalStep a b) s = .next t ∧ t.cal.afe = none ∧
        t.reg (afeReg x.ch 3) = 2 ∧ t.reg (afeReg x.ch 10) = 0 ∧ t.cal.target = s.cal.target ∧
        t.integ.log.getLast?.map (fun r => (r.cls, r.cause, r.unit)) = some (clsCal, 1, unitAfe x.ch))) ∧
    (∀ x r1 r2, s.cal.afe = some x → x.stage = 3 → x.passed = none → x.start + s.afeTime x.ch 7 ≤ s.now →
      let q := (s.detect x.ch (x.start + s.afeTime x.ch 6) (x.start + s.afeTime x.ch 7)).1
      (q < s.inForce (afeReg x.ch 6) → x.ovr = false → ∃ t, exec (.afeCalEnd r1 r2) s = .next t ∧
        t.cal = { s.cal with afe := some { x with passed := some (r1, r2) }, quiet := t.cal.quiet } ∧
        mget 0 t.cal.quiet x.ch = q ∧ t = { s with cal := t.cal, free := t.free }) ∧
      (s.inForce (afeReg x.ch 6) ≤ q ∨ x.ovr = true →
        ∃ t, exec (.afeCalEnd r1 r2) s = .next t ∧ t.cal.afe = none ∧ t.cal.target = s.cal.target ∧
          t.cal.afeDue = s.cal.afeDue ∧ mget 0 t.cal.quiet x.ch = q ∧ t.reg (afeReg x.ch 9) = stNotQuiet)) ∧
    (∀ i a b, 2 ≤ ((s.channels.getD i Channel.blank).recent.filter fun x => decide (a ≤ x.1 ∧ x.1 ≤ b)).length →
      (s.detect i a b).1 =
        rmsOf (((s.channels.getD i Channel.blank).recent.filter fun x => decide (a ≤ x.1 ∧ x.1 ≤ b)).map (·.2)) % 2 ^ 32) ∧
    (∀ x o g r, s.cal.afe = some x → x.passed = some r → x.offs = some o → x.gain = some g → x.ch < 16 → x.pga < 8 →
      let kg := trimKey (unitAfe x.ch) (2 * x.pga)
      let ko := trimKey (unitAfe x.ch) (2 * x.pga + 1)
      let t := s.afeBoundary
      t.cal.afe = none ∧
        trimGet t.cal.target kg = clampI (-2048) 2047 (trimGet s.cal.applied kg - roundDiv (g.1 + g.2) 100) ∧
        trimGet t.cal.target ko = clampI (-2048) 2047 (trimGet s.cal.applied ko - roundDiv (o.1 + o.2) 10) ∧
        t.cal.applied = s.cal.applied ∧ t.cal.afeDue.testBit x.ch = false ∧ t.reg (afeReg x.ch 9) = stOk ∧
        t.reg (afeReg x.ch 10) = 0)

/-- Pairs of measurements of a reference or oscillator were taken, within `tol` of each other or not. The first of at most four that
agrees sets the unit's calibrated code: the applied one less the mean error by the trim's step, without the compensation, within its
range; the target is the limited sum with the compensation, and the mean error reads in the unit's entry. With four pairs of
which none agrees a record is raised and the trims stay. -/
def trimMeasured (s t : State) (unit key tol step : Nat) (pairs : List (Int × Int)) : Prop :=
  let k := trimKey unit 0
  let off := fun x : Int × Int => tol < (x.1 - x.2).natAbs
  t.cal.applied = s.cal.applied ∧
    (∀ pre a b post, pairs.take 4 = pre ++ (a, b) :: post → (∀ x ∈ pre, off x) → ¬ off (a, b) →
      let v := clampI (trimRange k).1 (trimRange k).2
        (trimGet s.cal.applied k - roundDiv (a + b) (2 * step) - mget 0 s.cal.comp unit)
      t.reg key = unsignedOf 32 (Int.fdiv (a + b) 2) ∧ trimGet t.cal.calibrated k = v ∧
        trimGet t.cal.target k = clampI (trimRange k).1 (trimRange k).2 (v + mget 0 s.cal.comp unit) ∧
        (∀ j, j ≠ key → t.reg j = s.reg j) ∧ t = { s with cal := t.cal, od := t.od }) ∧
    ((∀ x ∈ pairs.take 4, off x) → t.cal.calibrated = s.cal.calibrated ∧ t.cal.target = s.cal.target ∧
      t.reg key = s.reg key ∧
      t.integ.log.getLast?.map (fun r => (r.cls, r.cause, r.unit)) = some (clsCal, 1, recordUnit unit) ∧
      touchesRecord { s with free := t.free, cal := t.cal } t)

/-- A measurement is settled: a pair agrees within `tol`, or the measurement and its three repeats do not (R70). -/
def pairsSettle (tol : Nat) (pairs : List (Int × Int)) : Prop :=
  (∃ x ∈ pairs.take 4, (x.1 - x.2).natAbs ≤ tol) ∨ 4 ≤ pairs.length

/-- The eleven references are measured in RUN, DOZE and HOLD, after sprout and every 3,600 s; the husk oscillator every second
while CTRL is powered and the crystal runs. At another time, and while a measurement is not settled, nothing happens, and it stays
due (R70, R75, R76). -/
def referencesAndOscillatorsPart : Prop :=
  ∀ (s : State) (pairs : List (Int × Int)),
    (∀ u, u < 11 →
      (s.husk.power = .run ∨ s.husk.power = .doze ∨ s.husk.power = .hold → s.refDue u = true → pairsSettle 100 pairs →
        ∃ t, exec (.referenceMeasure u pairs) s = .next t ∧
          trimMeasured s t (refUnit u) (okey (0x2480 + u) 2) 100 50 pairs ∧ t.refDue u = false) ∧
      (s.husk.power = .off ∨ s.husk.power = .safe ∨ s.husk.power = .sprout ∨ s.refDue u = false ∨ ¬ pairsSettle 100 pairs →
        exec (.referenceMeasure u pairs) s = .next s)) ∧
    (s.husk.supply = true → s.husk.rails.getD 0 false = true → s.husk.xtalStopped = false →
      (∀ at_, s.cal.oscAt = some at_ → at_ + 1000000000 ≤ s.now) → pairsSettle 400 pairs →
      ∃ t, exec (.oscillatorTrim pairs) s = .next t ∧ trimMeasured s t (oscUnit 0) 0x249002 400 200 pairs ∧
        t.cal.oscAt = some s.now) ∧
    (s.husk.supply = false ∨ s.husk.rails.getD 0 false = false ∨ s.husk.xtalStopped = true ∨ ¬ pairsSettle 400 pairs ∨
        (∃ at_, s.cal.oscAt = some at_ ∧ s.now < at_ + 1000000000) → exec (.oscillatorTrim pairs) s = .next s)

/-- Calibration (R65 to R76). Commands that complete here: ROTATION_SLICE, DRIFT_RATIO, AFE_CAL_DUE, AFE_CAL_STEP, AFE_CAL_END,
REFERENCE_MEASURE, OSCILLATOR_TRIM, COMPENSATION_EVAL. -/
def Obligations.CalibrationCompletes : Prop :=
  calibrationSlicesPart ∧ driftAndCompensationPart ∧ afeCalibrationPart ∧ referencesAndOscillatorsPart

/-! ## The sensor front end (09) -/

/-- Bits of a sample's value: 20 on V, 16 on E, 24 on T (Tables SENSE-2 to SENSE-4). -/
def sampleWidth (ch : Nat) : Nat := if ch < 8 then 20 else if ch < 12 then 16 else 24

/-- A conversion of a channel that is on is taken once its latency has passed: it goes behind the ring's samples, or, up to
the tick of a block already cut, behind that block's, and where either is full the oldest goes and GAP is due; it carries the
channel's next sequence number. Within an overload interval it has OVR and the clip code of the interval's sign, else its code
limited to its width; OVR and SUS are never both set. An OVR sample changes of the calibrations only what the attempt in
progress notes (R72, R183, R189, R190, R192, R193). -/
def samplesPart : Prop :=
  ∀ (s : State) (ch instant : Nat) (code : Int) (beyond openIn : Bool), ch < 16 → s.channels.length = 18 →
    s.domainOn 2 = true → s.husk.power ≠ .off → s.husk.xtalStopped = false → s.chanMode ch ≠ chanOff ch →
    instant + s.latency ch ≤ s.now + 20 →
    let c := s.chan ch
    let ovr := if ch < 12 then overloadSign c instant else if beyond then some (decide (0 ≤ code)) else none
    let w := sampleWidth ch
    ∃ t x, exec (.sampleReady ch code instant beyond openIn) s = .next t ∧
      ((∀ u, c.cutTick = some u → u < s.now) → (t.chan ch).cut = c.cut ∧ (t.chan ch).cutGap = c.cutGap ∧
        (t.chan ch).ring = (if c.ring.length < ringSize ch then c.ring ++ [x] else c.ring.drop 1 ++ [x]) ∧
        (t.chan ch).gap = (c.gap || decide (ringSize ch ≤ c.ring.length))) ∧
      (∀ u, c.cutTick = some u → s.now ≤ u → (t.chan ch).ring = c.ring ∧ (t.chan ch).gap = c.gap ∧
        (t.chan ch).cut = (if c.cut.length < ringSize ch then c.cut ++ [x] else c.cut.drop 1 ++ [x]) ∧
        (t.chan ch).cutGap = (c.cutGap || decide (ringSize ch ≤ c.cut.length))) ∧
      x.seq = c.seq ∧ (t.chan ch).seq = c.seq + 1 ∧ x.ready = s.now ∧
      wordOvr ch x.word = ovr.isSome ∧ (wordOvr ch x.word = true → wordSus ch x.word = false) ∧
      (ovr = none → x.word.toNat % 2 ^ w = unsignedOf w (satn w code)) ∧
      (ovr = some true → x.word.toNat % 2 ^ w = 2 ^ (w - 1) - 1) ∧
      (ovr = some false → x.word.toNat % 2 ^ w = 2 ^ (w - 1)) ∧
      t.reg (chanReg ch 9) = (if ovr.isSome then (s.reg (chanReg ch 9) + 1) % 2 ^ 32 else s.reg (chanReg ch 9)) ∧
      (∀ i, i ≠ ch → t.chan i = s.chan i) ∧
      (∀ k, k ≠ chanReg ch 9 → k ≠ chanReg ch 10 → t.reg k = s.reg k) ∧
      (ovr = none → t.cal = s.cal) ∧
      (∀ a, ovr.isSome = true → s.cal.afe = some a → a.ch / 4 = ch / 4 → a.stage ≠ 0 →
        a.start ≤ instant → instant ≤ a.start + s.afeTime a.ch 7 → t.cal.afe = some { a with ovr := true }) ∧
      (ovr.isSome = true → s.cal.afe = none → t.cal.afe = none) ∧
      t = { s with channels := t.channels, od := t.od, cal := { s.cal with afe := t.cal.afe } }

/-- An overload interval of a V or E input that is on begins and ends. Its end leaves OVR over the interval, SUS on the channel
for 24 µs or three sample periods on V and 3 µs on E, and SUS on the others of its four from the start of the interval to
6 µs or one period, 1 µs on E, after its end (R189, R190, Table SENSE-5). -/
def overloadsPart : Prop :=
  ∀ (s : State) (ch : Nat), ch < 12 → s.channels.length = 18 →
    (∀ pos, s.chanMode ch ≠ chanOff ch → s.husk.xtalStopped = false → (s.chan ch).ovl = none →
      ∃ t, exec (.overloadStart ch pos) s = .next t ∧ t.chan ch = { s.chan ch with ovl := some (pos, s.now) } ∧
        (∀ i, i ≠ ch → t.chan i = s.chan i) ∧ t = { s with channels := t.channels }) ∧
    (∀ pos a, (s.chan ch).ovl = some (pos, a) →
      let own := if ch < 8 then max 24000 (ceilDiv (3 * s.samplePeriod ch) 64) else 3000
      let others := if ch < 8 then max 6000 (ceilDiv (s.samplePeriod ch) 64) else 1000
      ∃ t, exec (.overloadEnd ch) s = .next t ∧ (t.chan ch).ovl = none ∧
        (t.chan ch).susWin.getLast? = some (s.now, s.now + own) ∧ (t.chan ch).ovrWin.getLast? = some (a, s.now, pos) ∧
        (t.chan ch).ring = (s.chan ch).ring ∧
        (∀ i, i < 12 → i ≠ ch → i / 4 = ch / 4 → (t.chan i).susWin.getLast? = some (a, s.now + others) ∧
          t.chan i = { s.chan i with susWin := (t.chan i).susWin }) ∧
        (∀ i, i / 4 ≠ ch / 4 → t.chan i = s.chan i) ∧ t = { s with channels := t.channels })

/-- Samples, and overload intervals with their recovery windows (R183 to R193). Commands that complete here: SAMPLE_READY,
OVERLOAD_START, OVERLOAD_END. -/
def Obligations.SamplesAndOverloadsComplete : Prop := samplesPart ∧ overloadsPart

/-- The mean of a V channel's DC level in IEPE over 10 ms decides its bias state: SHORT below 1.0 V, OPEN above the supply less
1.0 V. A state that is not the shown one is shown; OPEN and SHORT raise an ANALOG record (R185). -/
def biasStatesPart : Prop :=
  ∀ (s : State) (ch : Nat) (readings : List Int) (supply : Int), s.husk.xtalStopped = false → ch < 8 → s.chanMode ch = 1 →
    readings ≠ [] →
    let n : Int := readings.length
    let st := if readings.sum < 1000 * n then 2 else if (supply - 1000) * n < readings.sum then 1 else 0
    (s.reg (chanReg ch 11) = st → exec (.biasStateChange ch readings supply) s = .next s) ∧
    (s.reg (chanReg ch 11) ≠ st →
      ∃ t, exec (.biasStateChange ch readings supply) s = .next t ∧ t.reg (chanReg ch 11) = st ∧
        (st = 0 → (∀ k, k ≠ chanReg ch 11 → t.reg k = s.reg k) ∧ t = { s with od := t.od }) ∧
        (st ≠ 0 → t.integ.log.getLast?.map (fun r => (r.cls, r.cause, r.unit, r.detail)) =
            some (clsAnalog, 4, unitAfe ch, st) ∧ touchesRecord s t))

/-- The glitch filter of a Q input: a change that goes back within the filter time leaves nothing; one that stays for it passes
with the instant it was first seen; changes of A and B that begin within one filter time pass each for itself in TACHO, which
ignores B, and else as one (R187; the last is the model's choice, log 164). -/
def glitchFilterPart : Prop :=
  ∀ (c : Channel) (tacho : Bool) (f t1 t2 : Nat) (a b : Bool), c.pendA = [] → c.pendB = [] → a ≠ c.rawA → t1 ≤ t2 →
    let c1 := c.seen a c.rawB f t1
    let c2 := c1.filterAll tacho f t2
    (t2 < t1 + f → c2.seen c.rawA c.rawB f t2 = c ∧ c2.edges = c.edges) ∧
    (t1 + f ≤ t2 → c2.edges = c.edges ++ [(t1, a, c.rawB)] ∧ c2.pendA = []) ∧
    (b ≠ c.rawB → t2 < t1 + f → ∀ t3, t2 + f ≤ t3 →
      (tacho = false → ((c2.seen a b f t2).filterAll tacho f t3).edges = c.edges ++ [(t1, a, b)]) ∧
      (tacho = true → t1 < t2 →
        ((c2.seen a b f t2).filterAll tacho f t3).edges = c.edges ++ [(t1, a, c.rawB), (t2, a, b)]))

/-- Levels at a Q input's balls: the changes that have been stable for the filter time are counted 50 ns after it, one after
the other, and the levels are seen. A filtered change that is no angle event gives the input its levels, counts by the phase
or raises the error count, and marks each multiple of the mark interval with the instant of the change, in steps of 5 ns, and
its count; up to the tick of a block already cut, counts and marks are that block's (R187, R192, R194). An angle event starts
the frame when the floor is over and none is pending; else it becomes the pending one, and an older one is dropped and counted
(R20). -/
def edgesPart : Prop :=
  ∀ s : State, s.channels.length = 18 →
    (∀ q a b, q < 2 → s.husk.xtalStopped = false → s.reg (domReg 2 2) = 1 →
      let f := s.inForce (qReg q 3)
      let tacho := decide (s.chanMode (16 + q) = 1)
      let c := (((s.chan (16 + q)).filterAll tacho f s.now).seen a b f s.now).filterAll tacho f s.now
      let due := c.edges.takeWhile fun x => decide (x.1 + f + 50 ≤ s.now)
      let u := { s with channels := setAt s.channels (16 + q) { c with edges := c.edges.drop due.length } }
      exec (.qEdge q a b) s = .next (due.foldl (fun u x => u.countEdge q x) u)) ∧
    (∀ q at_ a b, q < 2 →
      let c := s.chan (16 + q)
      let e := edgeOf (s.chanMode (16 + q)) c.lvlA c.lvlB a b
      let t := s.countEdge q (at_, a, b)
      (s.source ≠ 3 ∨ s.inForce 0x4C0401 ≠ q ∨ e = .none ∨ e = .error →
        (t.chan (16 + q)).lvlA = a ∧ (t.chan (16 + q)).lvlB = b ∧
          (e = .none → t.od = s.od ∧ (t.chan (16 + q)).marks = c.marks) ∧
          (e = .error → t.reg (qReg q 6) = (s.reg (qReg q 6) + 1) % 2 ^ 32 ∧ t.netCount q = s.netCount q ∧
            (c.cutOpen s.now = true → (t.chan (16 + q)).cutErrs = t.reg (qReg q 6))) ∧
          (∀ d, e = .step d → t.netCount q = signedOf 32 (unsignedOf 32 (s.netCount q + d)) ∧
            let m : Mark := ⟨c.seq, (((at_ / 5 * 5 : Nat) : Int) + s.husk.timeOff).toNat, t.netCount q⟩
            let marked := crosses (max 1 (s.inForce (qReg q 4))) (s.netCount q) (t.netCount q)
            (c.cutOpen s.now = false → (t.chan (16 + q)).cutMarks = c.cutMarks ∧
              (t.chan (16 + q)).marks = (if marked = true then c.marks ++ [m] else c.marks)) ∧
            (c.cutOpen s.now = true → (t.chan (16 + q)).marks = c.marks ∧ (t.chan (16 + q)).cutCount = t.netCount q ∧
              (t.chan (16 + q)).cutMarks = (if marked = true then c.cutMarks ++ [m] else c.cutMarks))) ∧
          (∀ i, i ≠ 16 + q → t.chan i = s.chan i) ∧ (∀ k, k ≠ qReg q 5 → k ≠ qReg q 6 → t.reg k = s.reg k) ∧
          t = { s with channels := t.channels, od := t.od }) ∧
      (s.source = 3 → s.inForce 0x4C0401 = q → s.active = true →
        let u := s.qChange q at_ a b
        let n := u.netCount q
        (s.netCount q ≠ n → crosses (max 1 (s.inForce 0x4C0402)) (s.netCount q) n = true →
          (s.mayStart = true → s.frame.pending = none → t = u.startFrame s.now 0 0 n) ∧
          (s.mayStart = false ∨ s.frame.pending.isSome = true →
            t.frame = { s.frame with pending := some (s.now, n, s.frame.pending.isSome) } ∧
              (s.frame.pending.isSome = true → t.reg 0x4C1004 = (s.reg 0x4C1004 + 1) % 2 ^ 32) ∧
              (s.frame.pending = none → t.od = u.od) ∧ t = { u with frame := t.frame, od := t.od })) ∧
        (crosses (max 1 (s.inForce 0x4C0402)) (s.netCount q) n = false → t = u))) ∧
    (∀ q a b, s.reg (domReg 2 2) ≠ 1 → exec (.qEdge q a b) s = .next s)

/-- An intake job at its start, once in a frame and in its engine's order: a pip job starts its engine with zero registers on the
job's blocks back to back and counts the run; a RAW job writes its blocks from the output address and counts the vectors that
fit. A marked sample among them sets SUS on the segment's records. A job of which the engine has run this or a later one in this
frame does not run, nor one whose engine still runs; a run whose certified time is over stops first
(R190, R196, R197, R202). -/
def intakeJobsPart : Prop :=
  ∀ (s : State) (seg job : Nat) (p : PlanImage) (g : SegImage) (j : IntakeJob), s.loader.plan = some p →
    s.segImg seg = some g → g.jobs.find? (·.job = job) = some j → s.active = true → s.frame.phase = .intake →
    s.frame.start + jobStart p seg j ≤ s.now → s.jobsRun seg = true → j.engine < s.pips.length →
    let e := s.pip j.engine
    let ran := decide (s.frame.start < e.start ∧ seg * 64 + job ≤ e.seg * 64 + e.item)
    (e.running = true → s.pipLate j.engine = false → exec (.intakeJob seg job) s = .next s) ∧
    (e.running = true → s.pipLate j.engine = true →
      exec (.intakeJob seg job) s = exec (.intakeJob seg job) (s.pipStop j.engine pxTime)) ∧
    (e.running = false → ran = true → exec (.intakeJob seg job) s = .next s) ∧
    (e.running = false → ran = false →
      (∀ img, j.raw = false → g.intakeImages[j.image]? = some img →
        ∃ t, exec (.intakeJob seg job) s = .next t ∧ (t.pip j.engine).running = true ∧
          (t.pip j.engine).regs = List.replicate 16 0 ∧ (t.pip j.engine).pc = img.entry ∧
          (t.pip j.engine).input = s.jobInput j ∧ (t.pip j.engine).limit = j.runTime ∧
          (t.pip j.engine).image = some img ∧ (t.pip j.engine).seg = seg ∧ (t.pip j.engine).item = job ∧
          (t.pip j.engine).start = s.frame.start + jobStart p seg j ∧ (t.pip j.engine).data = (s.pip j.engine).data ∧
          (∀ e, e ≠ j.engine → t.pip e = s.pip e) ∧
          t.reg (okey (0x2840 + j.engine) 1) = (s.reg (okey (0x2840 + j.engine) 1) + 1) % 2 ^ 64 ∧
          (s.jobMarked j = true → t.frame.sus.testBit seg = true) ∧ (s.jobMarked j = false → t.frame = s.frame) ∧
          t = { s with pips := t.pips, od := t.od, frame := { s.frame with sus := t.frame.sus } }) ∧
      (∀ r x as, j.raw = true → s.segRec seg = some r → s.ctx r.ctx = some x → x.party = r.party → x.revoking = false →
        physRange x j.outAddr (s.jobInput j).length = some as → as.Nodup → s.test.trace = [] →
        writableRange x j.outAddr (s.jobInput j).length = true → s.writeStatus r.party (linesOf as) = stOk →
        workingValues s →
        ∃ t, exec (.intakeJob seg job) s = .next t ∧ as.map (t.peek r.party) = s.jobInput j ∧
          (∀ q a, a ∉ as → t.peek q a = s.peek q a) ∧
          mget 0 t.core.counts (seg * 128 + job) = min j.maxVec (s.jobWords j) ∧
          (∀ e, e ≠ j.engine → t.pip e = s.pip e) ∧ (t.pip j.engine).running = false ∧
          (s.jobMarked j = true → t.frame.sus.testBit seg = true)))

/-- Bias states, Q edges and intake jobs (R185 to R202). Commands that complete here: BIAS_STATE_CHANGE, Q_EDGE, INTAKE_JOB. -/
def Obligations.EdgesAndIntakeComplete : Prop :=
  biasStatesPart ∧ glitchFilterPart ∧ edgesPart ∧ intakeJobsPart

/-! ## The frame timer (01) -/

/-- What starts a frame: under INTERNAL the end of P; under PTP the end of P with its lengthening; under SYNC_IN an active edge
of a pulse of at least 100 ns, or of at least 40 ns that was seen, 80 ns after it, or the lack of an edge for 2 P, or for P
once edges are missing; under ANGLE the floor for a pending event, or 20 ms without one. No other source's event starts one,
and no frame starts before the floor: an early edge is only counted (R15 to R21). What a start does is stated of
`State.startFrame`. Commands that complete here: TICK, PTP_TICK, SYNC_IN_EDGE, SYNC_MISS, ANGLE_LAG, ANGLE_STALL. -/
def Obligations.TicksStartFrames : Prop :=
  ∀ s : State,
    (s.mayStart = true →
      (s.source = 0 → s.frame.start + s.period ≤ s.now → exec .tick s = .next (s.startFrame s.now 0 0 0)) ∧
      (s.source = 1 → s.frame.start + s.period + s.lengthening ≤ s.now →
        exec .ptpTick s = .next (s.startFrame s.now 0 0 0)) ∧
      (∀ rising width seen, s.source = 2 → (rising = true ↔ s.inForce 0x4C0500 = 0) →
        100 ≤ width ∨ 40 ≤ width ∧ seen = true →
        exec (.syncInEdge rising width seen) s =
          .next (({ s with frame := { s.frame with syncMissing := false } }).startFrame (s.now + 80) 0 0 0)) ∧
      (s.source = 2 → s.frame.start + (if s.frame.syncMissing then s.period else 2 * s.period) ≤ s.now →
        exec .syncMiss s = .next (({ s.bump 0x4C1006 with frame := { s.frame with syncMissing := true } }).startFrame s.now 32 0 0)) ∧
      (∀ t n drop, s.source = 3 → s.frame.pending = some (t, n, drop) →
        exec .angleLag s = .next (({ s.bump 0x4C1003 with frame := { s.frame with pending := none } }).startFrame s.now
          (if drop then 12 else 4) (min 0xFFFF ((s.now - t + 50) / 100)) n)) ∧
      (s.source = 3 → s.frame.pending = none → s.frame.start + 20000000 ≤ s.now →
        exec .angleStall s = .next (s.startFrame s.now 16 0 s.frame.angle))) ∧
    (s.mayStart = false → exec .tick s = .next s ∧ exec .ptpTick s = .next s ∧ exec .syncMiss s = .next s ∧
      exec .angleLag s = .next s ∧ exec .angleStall s = .next s ∧
      ∀ rising width seen, s.active = true → s.source = 2 → (rising = true ↔ s.inForce 0x4C0500 = 0) →
        100 ≤ width ∨ 40 ≤ width ∧ seen = true →
        exec (.syncInEdge rising width seen) s = .next (s.bump 0x4C1005)) ∧
    (s.source ≠ 0 ∨ s.now < s.frame.start + s.period → exec .tick s = .next s) ∧
    (s.source ≠ 1 → exec .ptpTick s = .next s) ∧
    (∀ rising width seen, s.source ≠ 2 ∨ width < 40 ∨ width < 100 ∧ seen = false ∨ (rising = true ↔ s.inForce 0x4C0500 ≠ 0) →
      exec (.syncInEdge rising width seen) s = .next s) ∧
    (s.source ≠ 2 → exec .syncMiss s = .next s) ∧ (s.source ≠ 3 → exec .angleLag s = .next s ∧ exec .angleStall s = .next s)

/-- A frame that starts with nothing staged for its boundary, in RUN or DOZE with input power, has the next number, 0 for the
first, and the given start, lag and flags, with TICK_SWITCH when its source is another and PTP_HOLDOVER when it starts under PTP
without synchronisation; it is in INTAKE, no segment is late, overrun, clipped or saturated in it, none is at fault before the
boundary's own records, and the commanded source is effective (R15, R18, R35). -/
def Obligations.FrameStartsAtItsTick : Prop :=
  ∀ (s : State) (at_ lag : Nat) (flags : BitVec 16) (angle : Int), s.husk.power = .run ∨ s.husk.power = .doze →
    s.store.lostAt = none → s.frame.staged = [] → s.loader.pending = none → s.test.cluster = none → s.test.staged = none →
    let live := if s.frame.phase = .keep then s.frame.keepOd else s.od
    let source := mget 0 live 0x4C0200
    let switched : BitVec 16 := if s.frame.running = true ∧ source ≠ s.source then 128 else 0
    let holdover : BitVec 16 := if source = 1 ∧ s.reg 0x3C5002 ≠ 1 then 64 else 0
    let f := (s.startFrame at_ flags lag angle).frame
    f.running = true ∧ f.number = (if s.frame.running then s.frame.number + 1 else 0) ∧ f.start = at_ ∧ f.lag = lag ∧
      f.phase = .intake ∧ f.late = 0 ∧ f.overrun = 0 ∧ f.clip = 0 ∧ f.sus = 0 ∧
      (s.newFrame at_ flags lag angle).frame.fault = 0 ∧
      f.flags = flags ||| switched ||| holdover ∧ (s.startFrame at_ flags lag angle).source = source

/-- Windows: at its instant the next window's clear zeroes the buffers, length registers and drain pips' data memories of its
party's clusters and no others; 2 µs later its segment's code starts with every register zero, where the segment runs; at
its end the code that still runs is cut, and the next window's time begins (R22 to R26, R123, R137). -/
def windowsPart : Prop :=
  ∀ (s : State), s.active = true → s.walkers.length = 8 → s.pips.length = 14 →
    (∀ x, s.nextWindow = some x → s.frame.start + x.2.1 ≤ s.now →
      ∃ t, exec .windowClear s = .next t ∧ t.frame = { s.frame with phase := .clear x.1.window } ∧
        (∀ c, c < 8 → (s.partyClusters x.1.party).testBit c = true → (t.walker c).buffer = [] ∧ (t.walker c).valid = [] ∧
          (t.walker c).lens = List.replicate 16 0 ∧ (t.pip (4 + c)).data = []) ∧
        (∀ c, (s.partyClusters x.1.party).testBit c = false → t.walker c = s.walker c ∧ t.pip (4 + c) = s.pip (4 + c)) ∧
        t.od = s.od ∧ t.pool = s.pool ∧ t.core = s.core) ∧
    (∀ w x, s.frame.phase = .clear w → s.spanOf w = some x → s.frame.start + x.2.1 + 2000 ≤ s.now →
      (∀ v img e, s.segRun x.1.seg = .runs v → s.segImg x.1.seg = some img → img.entries.getD v none = some e →
        ∃ t, exec .segmentEntry s = .next t ∧ t.frame = { s.frame with phase := .window w } ∧ t.core.seg = some x.1.seg ∧
          t.core.pc = e.1 ∧ t.core.regs = List.replicate 64 0 ∧ t.core.handles = List.replicate 16 0 ∧
          t.core.cycle = 0 ∧ t.core.entry = s.now ∧ t.core.bundle = Bundle.blank ∧ t.core.dmem = s.core.dmem ∧
          t = { s with core := t.core, frame := t.frame }) ∧
      ((∀ v, s.segRun x.1.seg ≠ .runs v) →
        exec .segmentEntry s = .next { s with frame := { s.frame with phase := .window w } })) ∧
    (∀ w x, s.frame.phase = .window w → s.spanOf w = some x → s.frame.start + x.2.2 ≤ s.now →
      (∀ c, c < 8 → (s.walker c).queue = [] ∧ (s.walker c).running = none) → s.ahead = [] →
      x.1.seg < s.frame.overruns.length →
      ∃ t, exec .windowEnd s = .next t ∧ t.frame.phase = .gap w ∧ t.frame.number = s.frame.number ∧
        (s.core.seg ≠ some x.1.seg → s.core.zeroing = none →
          t = { s with frame := { s.frame with phase := .gap w, overruns := t.frame.overruns } }) ∧
        (s.core.seg = some x.1.seg → t.core.seg = none ∧ t.reg (coreReg x.1.seg 4) = excWindowCut ∧
          t.frame.overrun.testBit x.1.seg = true ∧ t.frame.fault.testBit x.1.seg = true ∧
          t.frame.overruns.getD x.1.seg 0 = s.frame.overruns.getD x.1.seg 0 + 1))

/-- The third overrun of a segment in a row raises a TIMING record that names its first cluster and the segment, lowers the
timing ceiling by one tier to at most T3, and the count begins anew; a smaller count changes nothing (R28). -/
def timingPart : Prop :=
  ∀ (s : State) (seg : Nat), s.active = true → seg < s.frame.overruns.length →
    (3 ≤ s.frame.overruns.getD seg 0 →
      ∃ t, exec (.timingFault seg) s = .next t ∧ t.reg 0x4C0A03 = min 3 (s.reg 0x4C0A03 + 1) ∧
        t.frame = { s.frame with overruns := setAt s.frame.overruns seg 0, fault := t.frame.fault } ∧
        (∀ g, s.frame.fault.testBit g = true → t.frame.fault.testBit g = true) ∧
        t.integ.log.getLast?.map (fun r => (r.cls, r.cause, r.unit, r.party, r.detail)) =
          some (clsTiming, 1, unitCluster (s.firstCluster seg), s.segParty seg, seg) ∧
        touchesRecord { s with frame := t.frame } t) ∧
    (s.frame.overruns.getD seg 0 < 3 → exec (.timingFault seg) s = .next s)

/-- Windows, and the third overrun in a row (R22 to R28, R123, R137). Commands that complete here: WINDOW_CLEAR, SEGMENT_ENTRY,
WINDOW_END, TIMING_FAULT. -/
def Obligations.WindowsAndOverrunsComplete : Prop := windowsPart ∧ timingPart

/-- PUBLISH begins when the last window has ended: every record that waits becomes an event of the parties entitled to it, the
tier change is announced to every party, and each due stream hands its record to its party's port, which its sequence counts.
The record of a segment that runs: the header with this frame's number and flags, then the payload as the party's context
reads it, cut into messages of the payload limit less 4 that carry offset and total length under one sequence (R22, R31, R34,
R222, R315, R316, Table FRAME-3). Before, nothing happens; while the pool is closed for a reset, PUBLISH sends nothing. -/
def publishPart : Prop :=
  ∀ s : State, s.active = true → s.computeOver = true →
    (s.now < s.frame.start + s.computeEnd → exec .publish s = .next s) ∧
    (s.frame.start + s.computeEnd ≤ s.now →
      (s.pool.closed = true → exec .publish s = .next { s with frame := { s.frame with phase := .publish } }) ∧
      (s.pool.closed = false → ∃ t, exec .publish s = .next t ∧
        t.frame = { s.frame with phase := .publish, tierEvent := none, tierStreams := t.frame.tierStreams } ∧
        (∀ id, let n := (s.dueStreams.filter fun x => x.2.id = id ∧ s.segRun x.1.hdr.segment ≠ .revoked).length
          n ≠ 0 → mget 0 t.net.streamSeq id = (mget 0 s.net.streamSeq id + n) % 2 ^ 32) ∧
        (s.test.trace = [] → t.pool.mem = s.pool.mem) ∧
        touchesReply { s with frame := t.frame, integ := { s.integ with toSend := [] } } t) ∧
      (s.pool.closed = false → s.dueStreams = [] → ∀ p, p < 16 → p < s.net.parties.length → s.bindKind p ≠ 0 →
        s.bindKind p ≠ 3 → (s.pnet p).ret = none → (s.pnet p).events.length < 32 →
        let newest := fun (op : Nat) (bytes : List Byte) => ∃ t, exec .publish s = .next t ∧
          ((t.pnet p).events.getLast?).map (fun e => (e.opcode, e.payload)) = some (op, bytes)
        (∀ r, s.integ.toSend = [r] → s.frame.tierEvent = none → p = 0 ∨ r.party = p ∨ r.party = noParty →
          newest 3 (recBytes r)) ∧
        (∀ was new why, s.integ.toSend = [] → s.frame.tierEvent = some (was, new, why) →
          newest 1 (leBytes 1 was ++ leBytes 1 new ++ leBytes 1 why ++ leBytes 1 0 ++ leBytes 8 s.frame.number))) ∧
      (∀ img d v ip udp sa, s.pool.closed = false → s.dueStreams = [(img, d)] → s.segRun img.hdr.segment = .runs v →
        d.dest = 0 → s.bindKind img.party = 1 → (s.pnet img.party).ret = some (0, ip, udp) → s.portUp 0 = true →
        s.net.sas.find? (fun a => a.party = img.party && a.tx && a.state = 1) = some sa →
        let body := (s.readCtx img.party d.ctx d.payAddr d.payLen).2 ++
          (if d.inclMask then (s.readCtx img.party d.ctx d.maskAddr d.maskLen).2 else [])
        let rep := s.pooledReplica d
        let bytes := s.recordHeader img d (s.recordFlags img.hdr.segment d false false rep.isSome) body.length
          (rep.getD 0xFF) ++ body
        sa.pn + bytes.length < 0xFFFFFFFF →
        ∃ t, exec .publish s = .next t ∧ t.frame.phase = .publish ∧
          (∀ i, 1432 * i < bytes.length → OutMsg.record img.party 0 d.id (mget 0 s.net.streamSeq d.id)
            (leBytes 2 (1432 * i) ++ leBytes 2 bytes.length ++ (bytes.drop (1432 * i)).take 1432) ∈ t.out) ∧
          mget 0 t.net.streamSeq d.id = (mget 0 s.net.streamSeq d.id + 1) % 2 ^ 32))

/-- KEEP begins after PUBLISH: from here on the settings that the next tick applies stand fixed. A party's slot, once in a
frame and at its place, starts the next command of its one ready queue: the command's 64 bytes are copied (R32, R241, R264,
R265). With nothing to do the slot only passes; whatever it does, it passes, and the contexts of other parties stay as they are. -/
def keepPart : Prop :=
  ∀ s : State, s.active = true →
    (∀ errs, s.frame.phase = .publish →
      (s.frame.start + s.keepStart ≤ s.now → ∃ t, exec (.keep errs) s = .next t ∧ t.frame.phase = .keep ∧
        t.frame.keepOd = s.od ∧ t.frame.number = s.frame.number ∧ t.frame.live = s.frame.live ∧ t.frame.slotsDone = 0 ∧
        t.frame.tasksDone = 0) ∧
      (s.now < s.frame.start + s.keepStart → exec (.keep errs) s = .next s)) ∧
    (∀ p, p < 16 → s.frame.phase = .keep → s.pool.closed = false → s.frame.slotsDone.testBit p = false →
      s.frame.start + s.keepStart + 750 * p ≤ s.now →
      ∃ t, exec (.keepPartySlot p) s = .next t ∧ t.frame = { s.frame with slotsDone := setBit s.frame.slotsDone p } ∧
        (∀ c x, s.ctx c = some x → x.party ≠ p → t.ctx c = some x) ∧ touchesReply { s with frame := t.frame } t) ∧
    (∀ p, p < 16 → s.frame.phase = .keep → s.pool.closed = false → s.frame.slotsDone.testBit p = false →
      s.frame.start + s.keepStart + 750 * p ≤ s.now → s.pool.resWait = [] →
      (s.rung p = [] → exec (.keepPartySlot p) s = .next { s with frame := { s.frame with
        slotsDone := setBit s.frame.slotsDone p } }) ∧
      (∀ c q x y as, s.rung p = [(c, q)] → s.ctx c = some x → x.party = p → x.revoking = false → x.resident = true →
        s.queue c q = some y → s.credit p = true →
        physRange x (y.cmdRing + 64 * (y.started % y.entries)) 64 = some as → s.test.trace = [] →
        commandOps.contains (field (as.map (s.peek p)) 0 2) = true → field (as.map (s.peek p)) 2 2 = 0 →
        ∃ t, exec (.keepPartySlot p) s = .next t ∧
          t.queue c q = some { y with started := (y.started + 1) % 2 ^ 32, cur := some (as.map (s.peek p)) } ∧
          (∀ d m, (d, m) ≠ (c, q) → t.queue d m = s.queue d m) ∧ t.pool.mem = s.pool.mem ∧ t.pool.fences = s.pool.fences ∧
          t = { s with frame := { s.frame with slotsDone := setBit s.frame.slotsDone p }, od := t.od, pool := t.pool,
                       test := t.test })) ∧
    (∀ p, s.frame.phase ≠ .keep ∨ s.pool.closed = true ∨ s.frame.slotsDone.testBit p = true ∨
        s.now < s.frame.start + s.keepStart + 750 * p → exec (.keepPartySlot p) s = .next s)

/-- PUBLISH, KEEP and the parties' slots in KEEP (R22, R31 to R36, R241, R264, R265, R316). Commands that complete here:
PUBLISH, KEEP, KEEP_PARTY_SLOT. -/
def Obligations.PublishAndKeepComplete : Prop := publishPart ∧ keepPart

/-! ## Ports, switch and transport (10, 11) -/

/-- A port's medium moves its state, and LINK tells the Owner; a transmitter that jabbered is held down, counted and recorded;
another node's jabber is only counted (R214, R215). -/
def portStatesPart : Prop :=
  ∀ (s : State) (port : Nat), s.netRuns = true → (port = 0 ∨ port = 1 ∨ port = 3) → s.net.ports.length = 4 →
    s.net.parties.length = 16 →
    let old := s.net.ports.getD port 0
    (∀ st, (st = 1 ∨ (st = 2 ∧ port ≠ 3) ∨ (st = 4 ∧ port = 3)) → old ≠ 0 → old ≠ 3 →
      (old = st → exec (.linkChange port st) s = .next s) ∧
      (old ≠ st → ∃ t, exec (.linkChange port st) s = .next t ∧ t.net.ports = setAt s.net.ports port st ∧
        (st = 4 → t.reg (okey 0x3C03 0x1F) = (s.reg (okey 0x3C03 0x1F) + 1) % 2 ^ 32) ∧
        (s.net.accepted = [] → (s.pnet 0).events.length < 32 →
          ((t.pnet 0).events.getLast?).map (fun e => (e.opcode, e.payload)) =
            some (5, leBytes 1 port ++ leBytes 1 old ++ leBytes 1 st ++ leBytes 1 0) ∧
          (∀ k, k ≠ okey 0x3C03 0x1F → t.reg k = s.reg k) ∧ t = { s with od := t.od, net := t.net }))) ∧
    (old = 0 ∨ old = 3 → ∀ st, exec (.linkChange port st) s = .next s) ∧
    (old = 1 → ∃ t, exec (.jabber port) s = .next t ∧ t.net.ports = setAt s.net.ports port 3 ∧
      t.reg (okey (0x3C00 + port) 0x14) = (s.reg (okey (0x3C00 + port) 0x14) + 1) % 2 ^ 32 ∧
      t.integ.log.getLast?.map (fun r => (r.cls, r.cause, r.unit)) = some (clsNetwork, 1, unitPort port)) ∧
    (old ≠ 1 → exec (.jabber port) s = .next s) ∧
    (s.net.ports.getD 1 0 = 1 → exec .receiveJabber s =
      .next (s.setReg (okey 0x3C01 0x14) ((s.reg (okey 0x3C01 0x14) + 1) % 2 ^ 32)))

/-- PLCA: a beacon on N2 makes it active where it is configured, and 400 µs without one inactive, but for the coordinator,
whose own beacons stand (R213; log 188). Sync, on N2 from the configured neighbour alone: the offset is the sender's instant
with the measured delay less the device's time; one that is not far moves the time base and is shown, and while synchronised
gives the crystal's error; the fourth in a row within ±50 ns synchronises; while synchronised one beyond 1 ms is counted and
ignored, until the eighth in a row that agrees. Three of the source's intervals without Sync are holdover (R75, R216, R217).
Sync and its Follow_Up are two frames received (log 189). CAN FD: NMT commands are ignored and counted, the heartbeat leaves
at its period (R224). -/
def timeAndBeaconsPart : Prop :=
  ∀ s : State, s.netRuns = true →
    let coordinates := s.inForce 0x3C1001 = 1 ∧ s.inForce 0x3C1002 = 0 ∧ s.net.ports.getD 1 0 = 1
    (s.net.ports.getD 1 0 = 1 → exec .beacon s = .next { s with net := { s.net with
      beaconAt := s.now, plca := decide (s.inForce 0x3C1001 = 1 ∧ s.inForce 0x3C1002 ≠ 255) } }) ∧
    (s.net.plca = true → s.net.beaconAt + 400000 ≤ s.now → ¬ coordinates →
      exec .plcaInactive s = .next { s with net := { s.net with plca := false } }) ∧
    (s.net.plca = false ∨ s.now < s.net.beaconAt + 400000 ∨ coordinates → exec .plcaInactive s = .next s) ∧
    (∀ src gm origin every peer, s.ptpPort = none → exec (.sync src gm origin every peer) s = .next s) ∧
    (∀ u src gm origin every peer, s.ptpPort = some u →
      (s.portUp u = false → exec (.sync src gm origin every peer) s = .next s) ∧
      (s.portUp u = true → (u = 1 ∧ src ≠ s.inForce 0x3C5005) ∨ every < 31250000 ∨ 1000000000 < every →
        exec (.sync src gm origin every peer) s =
          .next (s.setReg (okey (0x3C00 + u) 0x10) ((s.reg (okey (0x3C00 + u) 0x10) + 2) % 2 ^ 32)))) ∧
    (∀ u src gm origin every t1 t2 t3 t4 : Nat, s.ptpPort = some u → s.portUp u = true → (u = 0 ∨ src = s.inForce 0x3C5005) →
      31250000 ≤ every → every ≤ 1000000000 →
      let delay : Int := (((t4 : Int) - t1) - ((t3 : Int) - t2)) / 2
      let offset : Int := origin + delay - (s.now + s.husk.timeOff)
      let sync : Instr := .sync src gm origin every (t1, t2, t3, t4)
      let seen := okey (0x3C00 + u) 0x10
      (s.reg 0x3C5002 ≠ 1 ∨ offset.natAbs ≤ 1000000 →
        ∃ t, exec sync s = .next t ∧ t.husk = { s.husk with timeOff := s.husk.timeOff + offset } ∧
          t.reg 0x3C5003 = unsignedOf 32 offset ∧ t.reg 0x3C5004 = gm ∧
          (offset.natAbs ≤ 50 → 3 ≤ s.net.good → t.reg 0x3C5002 = 1) ∧
          (50 < offset.natAbs ∨ s.net.good < 3 → t.reg 0x3C5002 = s.reg 0x3C5002) ∧ t.net.syncAt = s.now ∧
          t.net.syncEvery = every ∧
          (s.reg 0x3C5002 = 1 → s.net.syncAt < s.now →
            t.cal = { s.cal with xtalErr := -offset * 100000000 / (s.now - s.net.syncAt : Nat) }) ∧
          (s.reg 0x3C5002 ≠ 1 → t.cal = s.cal) ∧
          t.reg seen = (s.reg seen + 2) % 2 ^ 32 ∧
          (∀ k, k ≠ 0x3C5002 → k ≠ 0x3C5003 → k ≠ 0x3C5004 → k ≠ seen → t.reg k = s.reg k) ∧
          t = { s with husk := t.husk, od := t.od, net := t.net, cal := t.cal }) ∧
      (s.reg 0x3C5002 = 1 → 1000000 < offset.natAbs → s.net.far.length < 7 →
        ∃ t, exec sync s = .next t ∧ t.husk = s.husk ∧ t.cal = s.cal ∧
          t.reg 0x3C5006 = (s.reg 0x3C5006 + 1) % 2 ^ 32 ∧ t.reg seen = (s.reg seen + 2) % 2 ^ 32 ∧
          (∀ k, k ≠ 0x3C5006 → k ≠ seen → t.reg k = s.reg k) ∧
          t.net.far.length ≤ s.net.far.length + 1) ∧
      (s.reg 0x3C5002 = 1 → 1000000 < offset.natAbs → s.net.far.length = 7 → (∀ y ∈ s.net.far, (offset - y).natAbs ≤ 1000) →
        ∃ t, exec sync s = .next t ∧ t.husk = { s.husk with timeOff := s.husk.timeOff + offset } ∧
          t.net.far = [])) ∧
    (s.reg 0x3C5002 = 1 → s.now < s.net.syncAt + 3 * s.net.syncEvery → exec .syncLoss s = .next s) ∧
    (s.reg 0x3C5002 = 1 → s.net.syncAt + 3 * s.net.syncEvery ≤ s.now →
      exec .syncLoss s = .next { s.setReg 0x3C5002 2 with net := { s.net with good := 0, far := [] } }) ∧
    (s.reg 0x3C5002 ≠ 1 → exec .syncLoss s = .next s) ∧
    (s.portUp 3 = true →
      (exec .nmtCommand s = .next { s.setReg (okey 0x3C03 0x10) ((s.reg (okey 0x3C03 0x10) + 1) % 2 ^ 32) with
        net := { s.net with nmt := s.net.nmt + 1 } }) ∧
      (s.inForce 0x3C6101 ≠ 0 → s.net.beatAt + s.inForce 0x3C6101 * 1000000 ≤ s.now →
        ∃ t, exec .heartbeat s = .next t ∧ t.out = s.out ++ [.canHeartbeat false] ∧ t.net.beatAt = s.now ∧
          t.reg (okey 0x3C03 0x11) = (s.reg (okey 0x3C03 0x11) + 1) % 2 ^ 32 ∧
          t = { s with out := t.out, net := { s.net with beatAt := s.now }, od := t.od })) ∧
    (s.inForce 0x3C6101 = 0 ∨ s.now < s.net.beatAt + s.inForce 0x3C6101 * 1000000 → exec .heartbeat s = .next s)

/-- Port states, PLCA, time and CAN FD's heartbeat (R213 to R217, R224). Commands that complete here: PLCA_INACTIVE, BEACON,
JABBER, LINK_CHANGE, SYNC, SYNC_LOSS, NMT_COMMAND, HEARTBEAT, RECEIVE_JABBER. -/
def Obligations.PortsAndTimeComplete : Prop :=
  portStatesPart ∧ timeAndBeaconsPart

/-- Management: HELLO takes the sender's address as the party's return address and answers party, role, port, tier, frame and
payload limit; ECHO returns up to 64 bytes, more is BAD_TYPE; BYE takes the return address away. DISCOVER is a frame received; it
is answered, with a frame sent, once in a second for each port while discovery is on, and else counts as a stranger
(R206, R221, Table NET-8). -/
def managementPart : Prop :=
  ∀ s : State, s.boardServed = true →
    let counted := fun (t : State) port a b =>
      let k := fun sub => okey (0x3C00 + port) sub
      t.reg (k a) = (s.reg (k a) + 1) % 2 ^ 32 ∧ t.reg (k b) = (s.reg (k b) + 1) % 2 ^ 32 ∧
        ∀ j, j ≠ k a → j ≠ k b → t.reg j = s.reg j
    (∀ r : Req, s.portUp r.port = true → r.party < s.net.parties.length →
      (∀ ip udp, ∃ t, exec (.hello r ip udp) s = .next t ∧ (t.pnet r.party).ret = some (r.port, ip, udp) ∧
        (s.husk.power ≠ .sprout → answered s t r 5 1 stOk 0 0 (leBytes 1 r.party ++ leBytes 1 (s.role r.party) ++
          leBytes 1 r.port ++ leBytes 1 s.tier ++ leBytes 8 s.frame.number ++ leBytes 2 (s.payloadLimit r.port))) ∧
        touchesSend s t) ∧
      (∀ data, data.length ≤ 64 → ∃ t, exec (.echo r data) s = .next t ∧ answered s t r 5 2 stOk 0 0 data ∧
        (t.pnet r.party).ret = (s.pnet r.party).ret ∧ touchesSend s t) ∧
      (∀ data, 64 < data.length → ∃ t, exec (.echo r data) s = .next t ∧ answered s t r 5 2 stBadType 0 0 [] ∧
        touchesSend s t) ∧
      (∃ t, exec (.bye r) s = .next t ∧ (t.pnet r.party).ret = none ∧ answered s t r 5 4 stOk 0 0 [] ∧ touchesSend s t)) ∧
    (∀ port, s.portUp port = true →
      (s.inForce 0x3C2006 = 1 → s.net.discAt.getD port none = none →
        ∃ t, exec (.discover port) s = .next t ∧ t.out = s.out ++ [.discover port ([0x08, 0x32, 0xB1, 0x00] ++
            (mget [] s.dict.doms 0x3C2007 ++ List.replicate 16 0).take 16)] ∧
          t.net.discAt = setAt s.net.discAt port (some s.now) ∧ (port < 4 → counted t port 0x10 0x11) ∧
          t = { s with od := t.od, out := t.out, net := t.net }) ∧
      ((s.inForce 0x3C2006 ≠ 1 ∨ ∃ at_, s.net.discAt.getD port none = some at_ ∧ s.now < at_ + 1000000000) → port < 4 →
        ∃ t, exec (.discover port) s = .next t ∧ counted t port 0x10 0x16 ∧ t = { s with od := t.od }))

/-- Events: an ACK ends the event with its sequence and no other. One that has waited 20 ms without an ACK is sent again, to the
party's return address, up to four times; then it is discarded and counted. Where events were discarded that no EVENT_LOST reports,
the room that either makes takes an EVENT_LOST with their number (R223; the moment is the model's choice, log 167). -/
def eventsPart : Prop :=
  ∀ (s : State) (p : Nat), s.boardServed = true → p < s.net.parties.length →
    (∀ seq, ∃ t, exec (.ack p seq) s = .next t ∧
      (let left := (s.pnet p).events.filter (fun e => !(e.seq = seq && e.sentAt.isSome))
       let told := (s.pnet p).lost = 0 ∨ (∃ e ∈ left, e.opcode = 6 ∧ e.sentAt = none) ∨ 32 ≤ left.length
       (told → (t.pnet p).events = left) ∧
         (¬ told → (t.pnet p).events.dropLast = left ∧
           ((t.pnet p).events.getLast?).map (fun e => (e.opcode, e.payload)) = some (6, leBytes 4 (s.pnet p).lost))) ∧
      (∀ m, m ≠ p → t.pnet m = s.pnet m) ∧
      t = { s with net := { s.net with parties := t.net.parties, accepted := t.net.accepted } }) ∧
    ((∀ e ∈ (s.pnet p).events, ∃ at_, e.sentAt = some at_ ∧ s.now < at_ + 20000000) → exec (.eventResend p) s = .next s) ∧
    (∀ e at_ ip udp a, (s.pnet p).events = [e] → e.sentAt = some at_ → at_ + 20000000 ≤ s.now → s.bindKind p = 1 →
      s.portUp 0 = true → (s.pnet p).ret = some (0, ip, udp) →
      s.net.sas.find? (fun a => a.party = p && a.tx && a.state = 1) = some a → a.pn + 1 < 0xC0000000 →
      (e.sends < 4 → ∃ t, exec (.eventResend p) s = .next t ∧
        t.out = s.out ++ [.event p 0 e.opcode e.seq e.status e.payload] ∧
        (t.pnet p).events = [{ e with sentAt := some s.now, sends := e.sends + 1 }]) ∧
      (4 ≤ e.sends → ∃ t, exec (.eventResend p) s = .next t ∧ t.out = s.out ∧
        ((s.pnet p).lost = 0 → (t.pnet p).events = []) ∧
        ((s.pnet p).lost ≠ 0 → (t.pnet p).events.map (fun e => (e.opcode, e.payload)) = [(6, leBytes 4 (s.pnet p).lost)]) ∧
        t.reg (okey (0x3C30 + p) 0x10) = (s.reg (okey (0x3C30 + p) 0x10) + 1) % 2 ^ 32))

/-- Management requests, and events on their way to their ACK (R206, R221, R223). Commands that complete here: ACK, HELLO, ECHO,
DISCOVER, BYE, EVENT_RESEND. -/
def Obligations.ManagementAndEventsComplete : Prop := managementPart ∧ eventsPart

/-- A command `c` that hands a message to its service, `u` being `s` without the message: an ACK, and a new request that nothing
bars, wait for their service, the request being in progress. One remembered is answered as before, with RETRY; one in progress is
dropped, and one more than 16 behind the highest sequence is counted. With 16 in progress, or 128 accesses waiting, the answer is
BUSY. A pool request without a whole prefix is answered BAD_TYPE, and DENIED from N1 or N2 where its range is not the party's; a
bound party's DISCOVER is answered while discovery is on (R207, R219, R221, R240). -/
def passedOn (c : Instr) (s u : State) (port party : Nat) (msg : List Byte) : Prop :=
  let seq := field msg 8 4
  let cls := field msg 1 1
  let n := u.pnet party
  let waits := fun (t : State) => (port, party, msg, false) ∈ t.net.accepted ∧
    (∀ m ∈ s.net.accepted, m ∈ t.net.accepted) ∧ t.net.accepted.length = s.net.accepted.length + 1 ∧
    t = { u with net := { u.net with accepted := t.net.accepted, parties := t.net.parties } }
  (cls = 4 → ∃ t, exec c s = .next t ∧ waits t ∧ t.net.parties = u.net.parties) ∧
  (∀ x, cls ≠ 4 → n.remembered.find? (·.1 = seq) = some x → exec c s = .next (u.sendResp (retried x.2))) ∧
  (cls ≠ 4 → n.remembered.find? (·.1 = seq) = none →
    (n.progress.contains seq = true → exec c s = .next u) ∧
    (n.progress.contains seq = false → staleSeq n.highest seq = true → exec c s =
      .next (u.setReg (okey (0x3C30 + party) 0x11) ((u.reg (okey (0x3C30 + party) 0x11) + 1) % 2 ^ 32))) ∧
    (n.progress.contains seq = false → staleSeq n.highest seq = false →
      (16 ≤ n.progress.length → exec c s = .next (u.quickAnswer port party msg stBusy)) ∧
      (n.progress.length < 16 →
        let discovers := cls = 5 ∧ field msg 2 2 = 3
        let barred := cls = 2 ∧ (msg.length < 40 ∨ (port < 2 ∧ u.switchDenies party msg = true))
        let full := cls = 1 ∧ 128 ≤ u.odWaiting
        (discovers → u.inForce 0x3C2006 = 1 → ∃ t, exec c s = .next t ∧
          answered u t ⟨party, port, seq⟩ 5 3 stOk 0 0 ([0x08, 0x32, 0xB1, 0x00] ++
            (mget [] u.dict.doms 0x3C2007 ++ List.replicate 16 0).take 16) ∧ touchesSend u t) ∧
        (discovers → u.inForce 0x3C2006 ≠ 1 → exec c s = .next u) ∧
        (barred → ∃ t, exec c s = .next t ∧ answered u t ⟨party, port, seq⟩ 2 (field msg 2 2)
          (if msg.length < 40 then stBadType else stDenied) u.poolLoad (u.creditField party) [] ∧ touchesSend u t) ∧
        (full → exec c s = .next ((u.setReg 0x201201 ((u.reg 0x201201 + 1) % 2 ^ 32)).quickAnswer port party msg stBusy)) ∧
        (¬ discovers → ¬ barred → ¬ full → ∃ t, exec c s = .next t ∧ waits t ∧
          t.pnet party = { n with progress := n.progress ++ [seq], highest := some (laterSeq n.highest seq) } ∧
          ∀ m, m ≠ party → t.pnet m = u.pnet m))))

/-- A frame on an Ethernet port that is UP is counted with its symbol errors, and its message waits for the classifier when its
checks pass: frame check, the party bound to its channel, MACsec under the association of its AN with the replay window, the
addresses, the message header. One that fails is dropped and counted under its cause; a neighbour or ARP request and an echo inside
a party's channel are answered there. On CAN FD a frame is counted alone, since its services are USDOs. The board port's message
goes straight to its service once its header is checked, and HRDY rises; while that port is unbound the message is a stranger's
(R204, R206, R207, R208, R210, R218, R219, R419). -/
def receivePart : Prop :=
  ∀ (s : State),
    (∀ x : RxFrame, s.netRuns = true → (x.port = 0 ∨ x.port = 1) → s.net.ports.getD x.port 0 = 1 →
      let seen := okey (0x3C00 + x.port) 0x10
      let k := fun sub => okey (0x3C00 + x.port) sub
      let counts := fun (t : State) sub => t.reg (k sub) = (s.reg (k sub) + 1) % 2 ^ 32 ∧
        (∀ j, j ≠ seen → j ≠ k 0x13 → j ≠ k sub → t.reg j = s.reg j)
      let alone := fun (t : State) sub => counts t sub ∧ t = { s with od := t.od }
      ∃ t, exec (.frameReceived x) s = .next t ∧ t.reg seen = (s.reg seen + 1) % 2 ^ 32 ∧
        t.reg (k 0x13) = (s.reg (k 0x13) + x.symErrs) % 2 ^ 32 ∧
        (x.fcsOk = false → alone t 0x12) ∧
        (x.fcsOk = true → (x.tagged = false ∨ s.partyOn x.port x.sci = none) → alone t 0x16) ∧
        (∀ p, x.fcsOk = true → x.tagged = true → s.partyOn x.port x.sci = some p →
          let live := fun a : Sa => a.party = p ∧ a.tx = false ∧ a.an = x.an ∧ a.state = 1
          ((∀ a ∈ s.net.sas, ¬ live a) ∨ x.macsecOk = false ∨
              (∃ a, s.net.sas.find? (fun a => decide (live a)) = some a ∧ x.pn + s.inForce (okey (0x3C30 + p) 4) < a.pn) →
            alone t 0x17) ∧
          (∀ a, s.net.sas.find? (fun a => decide (live a)) = some a → x.macsecOk = true →
            a.pn ≤ x.pn + s.inForce (okey (0x3C30 + p) 4) →
            let sas := s.net.sas.map fun b => if b = a then { b with pn := max b.pn (x.pn + 1) } else b
            let forUs := x.ipOk = true ∧ (x.proto = .arp → s.inForce 0x3C2004 ≠ 0)
            (¬ forUs → t = { s with od := t.od, net := { s.net with sas := sas, ipDrops := upd s.net.ipDrops x.port (· + 1) } } ∧
              ∀ j, j ≠ seen → j ≠ k 0x13 → t.reg j = s.reg j) ∧
            (forUs → x.proto ≠ .maelelo → x.port = 0 ∨ s.net.plca = true →
              (∃ b, sas.find? (fun b => b.party = p && b.tx && b.state = 1) = some b ∧ b.pn < 0xFFFFFFFF) →
              t.out = s.out ++ [.ipAnswer p x.port x.proto
                (if x.proto = .echo then x.msg else leBytes 6 (s.reg (k 4)))] ∧ t.net.classQ = s.net.classQ) ∧
            (forUs → x.proto = .maelelo →
              (x.msg.length < 16 ∨ field x.msg 0 1 ≠ 1 ∨ field x.msg 4 1 % 16 ≠ p → counts t 0x18 ∧
                t = { s with od := t.od, net := { s.net with sas := sas } }) ∧
              (16 ≤ x.msg.length → field x.msg 0 1 = 1 → field x.msg 4 1 = p → headerStatus x.msg = none →
                (s.net.classQ.length < 32 → (∀ j, j ≠ seen → j ≠ k 0x13 → t.reg j = s.reg j) ∧
                  t.net = { s.net with sas := sas, classQ := s.net.classQ ++ [(x.port, p, x.msg)] } ∧
                  t = { s with od := t.od, net := t.net }) ∧
                (32 ≤ s.net.classQ.length → counts t 0x1C ∧
                  t = { s with od := t.od, net := { s.net with sas := sas } })))))) ∧
    (∀ x : RxFrame, s.netRuns = true → x.port = 3 → s.net.ports.getD 3 0 = 1 →
      ∃ t, exec (.frameReceived x) s = .next t ∧ t = { s with od := t.od } ∧
        t.reg (okey 0x3C03 0x10) = (s.reg (okey 0x3C03 0x10) + 1) % 2 ^ 32 ∧
        t.reg (okey 0x3C03 0x12) =
          (if x.fcsOk = true then s.reg (okey 0x3C03 0x12) else (s.reg (okey 0x3C03 0x12) + 1) % 2 ^ 32) ∧
        t.reg (okey 0x3C03 0x16) = (if x.fcsOk = true ∧ s.partyOn 3 x.sci = none then
          (s.reg (okey 0x3C03 0x16) + 1) % 2 ^ 32 else s.reg (okey 0x3C03 0x16))) ∧
    (∀ msg, s.board.mailbox = some msg → s.boardServed = true → s.boardParty = none →
      exec .mailboxTake s = .next { s with
        board := { s.board with mailbox := none }, husk := { s.husk with hrdy := true },
        net := { s.net with boardCounts := mset 0 s.net.boardCounts 0x16 (mget 0 s.net.boardCounts 0x16 + 1) } }) ∧
    (∀ msg p, s.board.mailbox = some msg → s.boardServed = true → s.boardParty = some p → p < s.net.parties.length →
      let u := { s with board := { s.board with mailbox := none }, husk := { s.husk with hrdy := true } }
      (msg.length < 16 ∨ field msg 0 1 ≠ 1 ∨ field msg 4 1 % 16 ≠ p → exec .mailboxTake s = .next { u with
        net := { s.net with boardCounts := mset 0 s.net.boardCounts 0x18 (mget 0 s.net.boardCounts 0x18 + 1) } }) ∧
      (16 ≤ msg.length → field msg 0 1 = 1 → field msg 4 1 = p →
        (∀ st, headerStatus msg = some st → exec .mailboxTake s = .next (u.quickAnswer 4 p msg st)) ∧
        (headerStatus msg = none → passedOn .mailboxTake s u 4 p msg))) ∧
    (s.board.mailbox = none ∨ s.boardServed = false → exec .mailboxTake s = .next s)

/-- The classifier: without an image the first message waiting is accepted at once and reaches its service. With one, an idle engine
starts a run on it; a halted run's verdict 1 drops the message, with the count the run names, 0 accepts it, and a stopped run
applies the fail verdict (R209, R210). -/
def classifierPart : Prop :=
  ∀ (s : State) (port party : Nat) (msg : List Byte) (rest : List (Nat × Nat × List Byte)),
    s.net.classQ = (port, party, msg) :: rest → s.boardServed = true → party < s.net.parties.length → s.pips.length = 14 →
    (s.net.classImage = none → passedOn .classifierRun s { s with net := { s.net with classQ := rest } } port party msg) ∧
    (∀ img, s.net.classImage = some img → (s.pip 13).running = false →
      ((s.pip 13).ended = 0 → ∃ t, exec .classifierRun s = .next t ∧ (t.pip 13).running = true ∧ (t.pip 13).pc = img.entry ∧
        (t.pip 13).input = msg ∧ (t.pip 13).regs = List.replicate 16 0 ∧ t.net = s.net ∧ t = { s with pips := t.pips }) ∧
      (∀ w, (s.pip 13).ended = 1 → (s.pip 13).verdict = some w → w.toNat % 4 = 1 →
        let k := w.toNat / 256 % 64
        ∃ t, exec .classifierRun s = .next t ∧ t.net.classQ = rest ∧ t.net.accepted = s.net.accepted ∧ (t.pip 13).ended = 0 ∧
          (∀ j, mget 0 t.net.classCounts j = if w.toNat.testBit 14 = true ∧ j = k then (mget 0 s.net.classCounts j + 1) % 2 ^ 32
            else mget 0 s.net.classCounts j) ∧
          t = { s with pips := t.pips, net := { s.net with classQ := rest, classCounts := t.net.classCounts } }) ∧
      (∀ w, (s.pip 13).ended = 1 → (s.pip 13).verdict = some w → w.toNat % 4 = 0 → w.toNat.testBit 14 = false →
        let idle := fun p : Pip => { p with ended := 0 }
        passedOn .classifierRun s { s with pips := upd s.pips 13 idle, net := { s.net with classQ := rest } } port party msg) ∧
      ((s.pip 13).ended = 2 → s.inForce 0x3C8002 = 1 →
        ∃ t, exec .classifierRun s = .next t ∧ t.net = { s.net with classQ := rest } ∧ (t.pip 13).ended = 0 ∧
          t = { s with pips := t.pips, net := t.net }))

/-- Received frames and messages, and the classifier's runs (R207 to R210, R218, R219, R419). Commands that complete here:
FRAME_RECEIVED, CLASSIFIER_RUN, MAILBOX_TAKE. -/
def Obligations.ReceiveAndClassifyComplete : Prop := receivePart ∧ classifierPart

/-- USDO: an initiated upload reads the entry as the node's party and ends any transfer of the node; a longer value leaves in
segments of its snapshot, the last of which ends the transfer. A segment of a download that is not the last is kept, and the
last executes the write of the whole value. An access waits behind the accesses that arrived before it, and aborts as BUSY
where 128 wait. A segment without a transfer and any other service abort with 0504 0001, a transfer of 1 s without a segment
with 0504 0000; every request of a party is a frame received and every answer a frame sent (R224, R238, R240, R389, Table
NET-8; the length of a segment is log 186). Commands that complete here: USDO_UPLOAD, USDO_DOWNLOAD, USDO_TIMEOUT. -/
def Obligations.UsdoTransfersComplete : Prop :=
  ∀ (s : State) (node index sub : Nat),
    let sent := fun (t : State) (seen abort : Nat) (data : List Byte) => t.out = s.out ++ [.usdo node abort data] ∧
      t.reg (okey 0x3C03 0x10) = (s.reg (okey 0x3C03 0x10) + seen) % 2 ^ 32 ∧
      t.reg (okey 0x3C03 0x11) = (s.reg (okey 0x3C03 0x11) + 1) % 2 ^ 32
    (∀ p, s.mute = false → s.husk.recovery = false → s.husk.power ≠ .sprout → s.nodeParty node = some p → s.portUp 3 = true →
      let u := { s.setReg (okey 0x3C03 0x10) ((s.reg (okey 0x3C03 0x10) + 1) % 2 ^ 32) with
        net := { s.net with usdo := s.net.usdo.filter (·.node ≠ node),
                            accepted := s.net.accepted.filter fun m => !(m.1 = 3 && m.2.1 = p) } }
      let accesses := fun (c a : Instr) (op i j : Nat) (data : List Byte) =>
        (128 ≤ u.odWaiting → ∃ t, exec c s = .next t ∧ sent t 1 0x08000020 []) ∧
        (u.odFirst = none → ∃ t, exec c s = .next t ∧ exec a u = .next t) ∧
        (u.odFirst ≠ none → u.odWaiting < 128 → exec c s = .next { u with net := { u.net with accepted := u.net.accepted ++
          [(3, p, msgBytes 1 op p 0 0 0 0 0 (leBytes 2 i ++ leBytes 1 j ++ leBytes 1 0 ++ leBytes 4 0 ++ data), false)] } })
      accesses (.usdoUpload node index sub 0) (.odRead ⟨p, 3, 0⟩ index sub 0) 1 index sub [] ∧
      (∀ x, s.net.usdo.find? (fun x => x.node = node && x.up) = some x →
        ∃ t, exec (.usdoUpload node index sub 1) s = .next t ∧ sent t 1 0 (x.data.take 56) ∧
          t.net.usdo = (if x.data.length ≤ 56 then [] else [{ x with data := x.data.drop 56, last := s.now }]) ++
            s.net.usdo.filter (·.node ≠ node) ∧ t.net = { s.net with usdo := t.net.usdo } ∧
          t = { s with od := t.od, net := t.net, out := t.out }) ∧
      (∀ service, service = 1 ∧ s.net.usdo.find? (fun x => x.node = node && x.up) = none ∨ 2 ≤ service →
        ∃ t, exec (.usdoUpload node index sub service) s = .next t ∧ sent t 1 0x05040001 [] ∧
          t = { s with od := t.od, out := t.out }) ∧
      (∀ data, (∃ t, exec (.usdoDownload node index sub true false data) s = .next t ∧
          t.net = { s.net with usdo := ⟨node, index, sub, data, s.now, false⟩ :: s.net.usdo.filter (·.node ≠ node) } ∧
          t = { s with od := u.od, net := t.net }) ∧
        (∀ row, entryRow index sub = some row → row.kind ≠ .domain →
          accesses (.usdoDownload node index sub true true data) (.odWrite ⟨p, 3, 0⟩ index sub 0 data) 2 index sub data) ∧
        (∀ x row, s.net.usdo.find? (fun x => x.node = node && !x.up) = some x → entryRow x.index x.sub = some row →
          row.kind ≠ .domain → accesses (.usdoDownload node index sub false true data)
            (.odWrite ⟨p, 3, 0⟩ x.index x.sub 0 (x.data ++ data)) 2 x.index x.sub (x.data ++ data)) ∧
        (s.net.usdo.find? (fun x => x.node = node && !x.up) = none → ∀ last,
          ∃ t, exec (.usdoDownload node index sub false last data) s = .next t ∧ sent t 1 0x05040001 [] ∧
            t = { s with od := t.od, out := t.out }))) ∧
    (∀ x ∈ s.net.usdo, x.node = node → x.last + 1000000000 ≤ s.now →
      ∃ t, exec (.usdoTimeout node) s = .next t ∧ sent t 0 0x05040000 [] ∧
        t.net = { s.net with usdo := s.net.usdo.filter (·.node ≠ node) } ∧
        t = { s with od := t.od, net := t.net, out := t.out }) ∧
    ((∀ x ∈ s.net.usdo, x.node = node → s.now < x.last + 1000000000) → exec (.usdoTimeout node) s = .next s)

/-! ## Silent errors and self-test (15, 20) -/

/-- Winnow reads the next line of its sweep, no sooner than 2 µs after the last, and the last line ends the sweep with its
time, counted from its first line; a clean line changes nothing else. A pod named in its eighth checked frame in a row is
fenced, and its record carries FENCED (R310, R312). -/
def winnowPart : Prop :=
  ∀ s : State,
    (∀ ecc, s.winnowOn = true → s.integ.winnowNext ≤ s.now →
      let l := s.sweepLine s.integ.winnowLine
      let began := s.integ.winnowStart.getD s.now
      let after : Integ := if l + 1 < dramLines then
          { s.integ with winnowLine := l + 1, winnowStart := some began, winnowNext := s.now + 2000 }
        else { s.integ with winnowLine := 0, winnowStart := none, winnowNext := s.now + 2000 }
      ∃ t, exec (.winnowRead ecc) s = .next t ∧ t.integ.winnowLine = after.winnowLine ∧
        t.integ.winnowStart = after.winnowStart ∧ t.integ.winnowNext = after.winnowNext ∧
        t.reg 0x400008 = (if l + 1 < dramLines then s.reg 0x400008 else (s.now - began) / 1000000000) ∧
        (ecc = .clean → t.integ = after ∧ touchesTrace { s with integ := t.integ } t)) ∧
    (∀ ecc, s.winnowOn = false ∨ s.now < s.integ.winnowNext →
      exec (.winnowRead ecc) s = .next s) ∧
    (∀ pod, pod < 40 → s.pods.length = 40 →
      ((s.pod pod).named = true → 7 ≤ (s.pod pod).namedRun → (s.pod pod).fenced = false → (s.pod pod).retired = false →
        ∃ t, exec (.podFence pod) s = .next t ∧ t.pod pod = { s.pod pod with fenced := true } ∧
          (∀ i, i ≠ pod → t.pod i = s.pod i) ∧ t.integ.log.length = s.integ.log.length ∧ t.integ.hist = s.integ.hist ∧
          (∀ r l, s.integ.log = l ++ [r] → r.cls = clsCheck → r.cause = 1 → r.unit = unitPod pod →
            t.integ.log = l ++ [{ r with flags := setBit r.flags 1 }]) ∧
          t = { s with pods := t.pods, integ := t.integ }) ∧
      ((s.pod pod).named = false ∨ (s.pod pod).namedRun < 7 → exec (.podFence pod) s = .next s))

/-- A unit falls due when its interval since the last test, or the wait of its retest, has passed. A cluster test's steps follow
one another: the logic BIST's signature is compared, the march's verdict noted, the first failure kept, and after the reload
the cluster waits for its boundary (R402 to R405, R409). -/
def testDuesPart : Prop :=
  ∀ s : State,
    (∀ u, testUnit u = true → s.frame.running = true → (∀ x ∈ s.test.due, x.1 ≠ u) →
      (s.scheduledDue u = true ∨ s.retestDue u = true →
        ∃ t, exec (.testDue u) s = .next t ∧ (u, s.rtc) ∈ t.test.due ∧ (∀ x ∈ s.test.due, x ∈ t.test.due) ∧
          t.test.due.length = s.test.due.length + 1 ∧
          (isClusterUnit u = true → t.reg (bistReg (u % 4096) 5) = s.rtc) ∧
          (isClusterUnit u = false → t.od = s.od) ∧ t = { s with test := t.test, od := t.od }) ∧
      (s.scheduledDue u = false → s.retestDue u = false → exec (.testDue u) s = .next s)) ∧
    (∀ x sig memOk detail, s.test.cluster = some x → s.testBarred x = false → s.husk.xtalStopped = false → sig < 2 ^ 32 →
      detail < 2 ^ 32 → x.failed = none →
      (x.stage = 0 → exec (.clusterTestStepEnd x.cluster sig memOk detail) s = .next { s with test := { s.test with
        cluster := some { x with stage := 1, signature := sig,
                                 failed := if sig = s.reg (bistReg x.cluster 3) then none else some (1, sig) } } }) ∧
      (x.stage = 1 → exec (.clusterTestStepEnd x.cluster sig memOk detail) s = .next { s with test := { s.test with
        cluster := some { x with stage := 2, failed := if memOk then none else some (2, detail) } } }) ∧
      (x.stage = 2 → exec (.clusterTestStepEnd x.cluster sig memOk detail) s = .next { s with test := { s.test with
        cluster := some { x with stage := 3 } } }))

/-- A BIST slice of KEEP, once in a frame and from 14 µs on: the test in progress goes on by one slice; its last slice ends it,
a good one with the unit no longer due and its time kept, a failed one with a TEST record. A unit that stays due for the
deferral limit is overdue once, and every party is told. In the KEEP of a lift the cluster's pods are not tested
(R32, R152, R404, R408 to R410). -/
def testSlicesPart : Prop :=
  ∀ s : State,
    (s.active = true → s.frame.phase = .keep → s.tier ≠ 3 → s.frame.tasksDone.testBit 2 = false →
      s.frame.start + s.keepStart + 14000 ≤ s.now →
      (∀ u n h pass detail, s.test.slice = some (u, n, h) → isPodUnit u = true → s.liftKeep (u % 4096 / 5) = true →
        exec (.bistSlice pass detail) s = .next { s with
          frame := { s.frame with tasksDone := setBit s.frame.tasksDone 2 } }) ∧
      (∀ u n h pass detail, s.test.slice = some (u, n, h) → n + 1 < s.sliceCount u → n + 1 ≠ histSlices →
        (isPodUnit u = true → s.liftKeep (u % 4096 / 5) = false) →
        exec (.bistSlice pass detail) s = .next { s with
          frame := { s.frame with tasksDone := setBit s.frame.tasksDone 2 },
          test := { s.test with slice := some (u, n + 1, h) } }) ∧
      (∀ u n detail, s.test.slice = some (u, n, none) → s.sliceCount u = n + 1 → isPodUnit u = false → detail < 2 ^ 32 →
        (∃ t, exec (.bistSlice true detail) s = .next t ∧ t.test.slice = none ∧ (∀ x ∈ t.test.due, x.1 ≠ u) ∧
          mget 0 t.test.lastDone u = s.rtc ∧ t.integ = s.integ ∧
          t.frame = { s.frame with tasksDone := setBit s.frame.tasksDone 2 }) ∧
        (∃ t, exec (.bistSlice false detail) s = .next t ∧ t.test.slice = none ∧ (∀ x ∈ t.test.due, x.1 ≠ u) ∧
          t.integ.log.getLast?.map (fun r => (r.cls, r.cause, r.unit, r.detail)) = some (clsTest, 2, u, detail)))) ∧
    (∀ u at_, s.test.due.find? (fun x => x.1 = u) = some (u, at_) → u ∉ s.test.overdue → s.frame.running = true →
      at_ + s.reg 0x440003 ≤ s.rtc → s.net.parties.length = 16 →
      ∃ t why, exec (.testOverdue u) s = .next t ∧ t.test.overdue = sins s.test.overdue u ∧
        (isPodUnit u = true → why = 3) ∧ (isPodUnit u = false → isClusterUnit u = false → why = 1) ∧
        (isClusterUnit u = true → s.declaresDown (u % 4096) = false → why = 0) ∧
        (∀ p, p < 16 → (s.pnet p).events.length < 32 →
          ((t.pnet p).events.getLast?).map (fun e => (e.opcode, e.payload)) = some (4, leBytes 2 u ++
            leBytes 1 (if isClusterUnit u then 1 else if isPodUnit u then 2 else 3) ++ leBytes 1 why ++ leBytes 8 at_)) ∧
        t = { s with test := t.test, net := t.net, free := t.free }) ∧
    (∀ u, u ∈ s.test.overdue → exec (.testOverdue u) s = .next s)

/-- Winnow, fencing and self-test (R310, R312, R400 to R410). Commands that complete here: BIST_SLICE, WINNOW_READ, POD_FENCE,
TEST_DUE, CLUSTER_TEST_STEP_END, TEST_OVERDUE. -/
def Obligations.SilentErrorChecksAndTestsComplete : Prop :=
  winnowPart ∧ testDuesPart ∧ testSlicesPart

/-! ## Rules stated whole -/

/-- NOP bundles one after another. -/
def afterNops : Nat → State → Option State
  | 0, s => some s
  | k + 1, s =>
    match exec (.nop .k) s with
    | .next t => afterNops k t
    | _ => none

/-- R134: a result of latency n is visible to the bundle that issues n cycles after the producing bundle; a bundle that reads
the register earlier receives its previous value. -/
def Obligations.ResultOfLatencyNIsVisibleAfterNCycles : Prop :=
  ∀ (s : State) (g : Nat) (sl : Slot) (n r k : Nat) (v : Word), s.coreSeg = some g → s.core.bundle = Bundle.blank →
    s.core.writes = [] → s.core.regs.length = 64 → 0 < r → r < 64 → 1 ≤ n → s.core.pc + k < s.codeLen g →
    ∃ t, afterNops k (staged s sl n r v) = some t ∧ t.core.cycle = s.core.cycle + k ∧
      t.g r = (if n ≤ k then v else s.g r) ∧ ∀ q, q ≠ r → t.g q = s.g q

/-- R420: a GET removes the head message only when every byte of it was clocked; one that ends early leaves it, and the next
GET returns it again from its first byte. -/
def Obligations.GetRemovesOnlyAWholeMessage : Prop :=
  ∀ (s : State) (m : Nat × List Byte) (rest : List (Nat × List Byte)) (n : Nat), s.boardServed = true →
    s.board.outq = m :: rest →
    ∃ t, exec (.get n) s = .next t ∧ t.out = s.out ++ [.board (leBytes 2 m.2.length ++ m.2.take n)] ∧
      (n < m.2.length → t.board.outq = m :: rest ∧ t = { s with out := t.out } ∧
        ∀ k, ∃ u, exec (.get k) t = .next u ∧ u.out = t.out ++ [.board (leBytes 2 m.2.length ++ m.2.take k)]) ∧
      (m.2.length ≤ n → (s.board.waiting = [] → t.board.outq = rest ∧ t = { s with out := t.out, board := t.board }) ∧
        (∀ x ∈ rest, x ∈ t.board.outq) ∧
        t.board.outq.length + t.board.waiting.length = rest.length + s.board.waiting.length)

/-- R422: RESET with the two key bytes from party 0's board port, or in recovery, starts a warm reset, which HOLD holds; any
other RESET sets RESET_DENIED and has no effect. -/
def Obligations.ResetNeedsItsKeyAndParty0 : Prop :=
  ∀ (s : State) (b1 b2 : Byte), s.boardServed = true → s.husk.power ≠ .off →
    (b1 = 0xC3 → b2 = 0xA5 → (s.boardParty = some 0 ∨ s.husk.recovery = true) →
      (s.husk.power = .hold → exec (.reset b1 b2) s = .next { s with husk := { s.husk with resetHeld := true } }) ∧
      (s.husk.power ≠ .hold → ∃ t, exec (.reset b1 b2) s = .next t ∧ t.husk.resetAt = some (s.now + 2000) ∧
        t.husk.hrdy = false ∧ t.pool.closed = true ∧ t.frame.running = false ∧ t.core.seg = none ∧
        t.board.resetDenied = s.board.resetDenied)) ∧
    ((b1 ≠ 0xC3 ∨ b2 ≠ 0xA5 ∨ (s.boardParty ≠ some 0 ∧ s.husk.recovery = false)) →
      exec (.reset b1 b2) s = .next { s with board := { s.board with resetDenied := true } })

/-! ## The block as a whole -/

/-- A nanosecond has passed. -/
def later (s : State) : State := { s with husk := { s.husk with
  now := s.husk.now + 1, rtc := s.husk.rtc + 1, oper := if s.husk.power = .off then s.husk.oper else s.husk.oper + 1 } }

/-- An interval k of 320 ns ends now in which the ballast runs fillers: every one under FULL, the even ones under HALF. -/
def fillersDue (s : State) : Prop :=
  s.frame.running = true ∧ s.sinceTick ≠ 0 ∧ s.sinceTick % 320 = 0 ∧ s.ballast ≠ 0 ∧
    (s.ballast = 1 → (s.sinceTick / 320 - 1) % 2 = 0)

/-- The core has nothing that a nanosecond brings about: no issue on its way, nothing to zero behind a stop, and no read of a
fence falls due. -/
def coreStill (s : State) : Prop :=
  noneOnWay s ∧ s.core.zeroing = none ∧
    ∀ f v lim gb next, s.core.wait = some (.fence f v lim gb next none) → s.now + 1 < next ∨ s.frame.start + lim < next

/-- A read of a waiting fence falls due with the nanosecond: the wait keeps the code that the read found, or none, and the next
read follows 320 ns later (R133). -/
def waitingFenceIsReadPart : Prop :=
  ∀ (s : State) (g f v lim gb next : Nat), s.pending = [] → s.husk.supply = true → s.active = true → noneOnWay s →
    s.core.zeroing = none → ¬ fillersDue (later s) → s.core.seg = some g →
    s.core.wait = some (.fence f v lim gb next none) → next ≤ s.now + 1 → next ≤ s.frame.start + lim →
      ∃ t, step s = .next t ∧
        t.core = { s.core with wait := some (.fence f v lim gb (next + 320) (s.fenceCode g f v)) } ∧
        t = { later s with core := t.core, pool := t.pool }

/-- The command at the front of the queue runs with the queue's rest. On an empty queue one nanosecond passes: time, clock and
operating time advance; a waiting fence whose read falls due is read; and where a ballast interval ends with it, every powered pod
that used the interval for nothing has run a filler MVM, which changes the pod's count of fillers and its cluster's LFSR alone
(R343); without the HUSK supply nothing changes, and with the crystal stopped only the husk's clock (the step on an empty queue is
the model's choice, log 1). -/
def Obligations.StepRunsTheFrontCommand : Prop :=
  (∀ (c : Instr) (rest : List Instr) (s : State), step { s with pending := c :: rest } = exec c { s with pending := rest }) ∧
  ∀ s : State, s.pending = [] →
    (s.husk.supply = true → s.husk.xtalStopped = false → coreStill s → ¬ fillersDue (later s) → step s = .next (later s)) ∧
    (s.husk.supply = true → s.husk.xtalStopped = false → coreStill s → s.Formed → fillersDue (later s) →
      let u := later s
      let filled := fun i => u.podPowered i && !u.intervalTaken i (u.sinceTick / 320 - 1)
      ∃ t, step s = .next t ∧
        (∀ i, i < 40 → t.pod i = { s.pod i with fillers := (s.pod i).fillers + if filled i = true then 1 else 0 }) ∧
        (∀ c, c < 8 → t.clu c = { s.clu c with
          lfsr := Nat.repeat Config.lfsr ((List.range 5).filter fun k => filled (5 * c + k)).length (s.clu c).lfsr }) ∧
        t = { u with pods := t.pods, clusters := t.clusters }) ∧
    (s.husk.supply = true → s.husk.xtalStopped = true →
      step s = .next { s with husk := { s.husk with rtc := s.husk.rtc + 1 } }) ∧
    (s.husk.supply = false → step s = .next s) ∧
    waitingFenceIsReadPart

/-- Every command of the block answers a next state, and none changes the queue behind it or the number of the device's
units. -/
def Obligations.EveryCommandAnswersAndKeepsTheQueue : Prop :=
  ∀ (c : Instr) (s : State), ∃ t, exec c s = .next t ∧ t.pending = s.pending ∧ t.shape = s.shape

/-- Every step keeps the device's units: 40 pods, 8 clusters and walkers, 16 job slots, heads, parties and buckets, 14 pip
engines, 18 channels. -/
def Obligations.EveryStepKeepsTheUnits : Prop := ∀ s t : State, s.Formed → step s = .next t → t.Formed

/-- Every step keeps the canonical form of both memories, the pool's DRAM and the core's data memory: addresses rise strictly and
no listed byte is the zero that an unlisted address reads as. The form is the model's own; what it serves is that equal
contents are equal lists. -/
def Obligations.EveryStepKeepsMemoryCanonical : Prop :=
  ∀ s t : State, Memory.wf s.pool.mem = true → Memory.wf s.core.dmem = true → step s = .next t →
    Memory.wf t.pool.mem = true ∧ Memory.wf t.core.dmem = true

/-- The state after reset: all units are there, the sprout of a power-on is at its first stage, nothing waits, DRAM and data
memory list nothing, no plan is loaded, no frame runs, the board port is not served; both epochs stand at 2^20 + 1, above a
vault that was never written, the ports are down, the ladder is at step 7, and party 0 alone has a role by rule (R14, R230, R334,
R385, R394; what tables leave open is log 3, 4 and 5). -/
def Obligations.ResetIsAPowerOnSprout : Prop :=
  State.reset.Formed ∧ Memory.wf State.reset.pool.mem = true ∧ Memory.wf State.reset.core.dmem = true ∧
    State.reset.pending = [] ∧ State.reset.husk.power = .sprout ∧ State.reset.husk.stage = 0 ∧
    State.reset.husk.kind = .powerOn ∧ State.reset.frame.running = false ∧ State.reset.loader.plan = none ∧
    State.reset.pool.mem = [] ∧ State.reset.pool.ctxs = [] ∧ State.reset.boardServed = false ∧
    State.reset.reg 0x300000 = 2 ^ 20 + 1 ∧ State.reset.reg 0x310003 = 2 ^ 20 + 1 ∧ State.reset.reg 0x4C0000 = 250 ∧
    State.reset.reg 0x4C0700 = 20 ∧ State.reset.thermal.stagedStep = 7 ∧ State.reset.role 0 = 2 ∧ State.reset.role 1 = 0 ∧
    (∀ u < 4, State.reset.net.ports.getD u 1 = 0) ∧ ∀ c < 8, State.reset.spare c = some (5 * c + 4)
end

