-- ==== Sys2Proof/Laws/Shape.lean ====
section
/-! SUPPORT. The shape of a state through record updates, folds and pairs: the simp lemmas from which every operation's
shape lemma follows. -/

namespace Sys2Proof.Machine

open Sys2Proof

@[simp] theorem length_upd {α : Type} (l : List α) (i : Nat) (f : α → α) : (upd l i f).length = l.length := by
  induction l generalizing i with
  | nil => rfl
  | cons x xs ih => cases i <;> simp [upd, ih]

@[simp] theorem length_setAt {α : Type} (l : List α) (i : Nat) (x : α) : (setAt l i x).length = l.length := by simp [setAt]

/-- The shape of a state given by its fields. -/
@[simp] theorem shape_mk (a : List Instr) (b : List (Nat × Nat)) (c : Husk) (d : Thermal) (e : Store) (f : Frame)
    (g : List Pod) (h : List Cluster) (i : Cal) (j : List Walker) (j2 : List Ahead) (k : List Job) (l : List Head) (m : Core) (n : List Pip)
    (o : Loader) (p : List Channel) (q : Net) (r : Dict) (t : Pool) (u : Integ) (v : Sec) (w : Test) (x : Board) (y : Nat)
    (z : List OutMsg) :
    State.shape ⟨a, b, c, d, e, f, g, h, i, j, j2, k, l, m, n, o, p, q, r, t, u, v, w, x, y, z⟩ =
      ⟨a, g.length, h.length, j.length, k.length, l.length, n.length, p.length, q.parties.length, t.buckets.length⟩ := id rfl

/-- The parts of a state's shape together are its shape. -/
@[simp] theorem shape_eta (s : State) :
    (⟨s.pending, s.pods.length, s.clusters.length, s.walkers.length, s.jobs.length, s.heads.length, s.pips.length,
      s.channels.length, s.net.parties.length, s.pool.buckets.length⟩ : Shape) = s.shape := id rfl

/-! The parts of a shape, for states of which only some fields come from another state. -/

theorem pending_eq (s : State) : s.pending = s.shape.pending := rfl
theorem pods_eq (s : State) : s.pods.length = s.shape.pods := rfl
theorem clusters_eq (s : State) : s.clusters.length = s.shape.clusters := rfl
theorem walkers_eq (s : State) : s.walkers.length = s.shape.walkers := rfl
theorem jobs_eq (s : State) : s.jobs.length = s.shape.jobs := rfl
theorem heads_eq (s : State) : s.heads.length = s.shape.heads := rfl
theorem pips_eq (s : State) : s.pips.length = s.shape.pips := rfl
theorem channels_eq (s : State) : s.channels.length = s.shape.channels := rfl
theorem parties_eq (s : State) : s.net.parties.length = s.shape.parties := rfl
theorem buckets_eq (s : State) : s.pool.buckets.length = s.shape.buckets := rfl

@[simp] theorem shape_parts (x : Shape) :
    (⟨x.pending, x.pods, x.clusters, x.walkers, x.jobs, x.heads, x.pips, x.channels, x.parties, x.buckets⟩ : Shape) = x := id rfl

@[simp] theorem shape_ite (c : Prop) [Decidable c] (s t : State) :
    (if c then s else t).shape = if c then s.shape else t.shape := by split <;> rfl

theorem shape_of_ite {c : Prop} [Decidable c] {a b s : State} (ha : a.shape = s.shape) (hb : b.shape = s.shape) :
    (if c then a else b).shape = s.shape := by split <;> assumption

theorem foldl_shape {α : Type} (f : State → α → State) (h : ∀ s x, (f s x).shape = s.shape) (l : List α) (s : State) :
    (l.foldl f s).shape = s.shape := by
  induction l generalizing s with
  | nil => rfl
  | cons x xs ih => simp [ih, h]

/-- A fold whose state is the second part of what it carries, or the first. -/
theorem foldl_snd_shape {α β : Type} (f : β × State → α → β × State) (h : ∀ q x, (f q x).2.shape = q.2.shape) (l : List α)
    (q : β × State) : (l.foldl f q).2.shape = q.2.shape := by
  induction l generalizing q with
  | nil => rfl
  | cons x xs ih => simp [ih, h]

theorem foldl_fst_shape {α β : Type} (f : State × β → α → State × β) (h : ∀ q x, (f q x).1.shape = q.1.shape) (l : List α)
    (q : State × β) : (l.foldl f q).1.shape = q.1.shape := by
  induction l generalizing q with
  | nil => rfl
  | cons x xs ih => simp [ih, h]

/-- The state in a pair that an operation answers. -/
theorem shape_of_eq' {α : Type} {f : State × α} {a : α} {t : State} (h : f = (t, a)) : t.shape = f.1.shape := by rw [h]

theorem shape_of_eq {α : Type} {f : α × State} {a : α} {t : State} (h : f = (a, t)) : t.shape = f.2.shape := by rw [h]

/-- The state in a triple. -/
theorem shape_of_eq3 {α β : Type} {f : α × β × State} {a : α} {b : β} {t : State} (h : f = (a, b, t)) :
    t.shape = f.2.2.shape := by rw [h]

theorem shape_of_eq4 {α β γ : Type} {f : α × β × γ × State} {a : α} {b : β} {c : γ} {t : State} (h : f = (a, b, c, t)) :
    t.shape = f.2.2.2.shape := by rw [h]

/-- An answer that is a next state of the same shape. -/
def Keeps (o : Out) (s : State) : Prop := ∃ t, o = .next t ∧ t.shape = s.shape

@[simp] theorem keeps_next (t s : State) : Keeps (.next t) s ↔ t.shape = s.shape :=
  ⟨fun ⟨_, h, k⟩ => by cases h; exact k, fun h => ⟨t, rfl, h⟩⟩

/-- A pool operation's outcome keeps the shape. -/
def DoneKeeps (d : Done) (s : State) : Prop := ∀ q, d = .ok q → q.2.2.2.shape = s.shape

@[simp] theorem doneKeeps_ok (q : Nat × Nat × List Byte × State) (s : State) :
    DoneKeeps (.ok q) s ↔ q.2.2.2.shape = s.shape :=
  ⟨fun h => h q rfl, fun h r hr => by cases hr; exact h⟩

@[simp] theorem doneKeeps_error (e : Nat) (s : State) : DoneKeeps (.error e) s := fun _ h => by cases h

end Sys2Proof.Machine
end

