-- ==== Sys2Proof/Laws/KeepOps.lean ====
section
/-! SUPPORT. The operations of Machine/Ops.lean keep the queue and the units of the device. -/

namespace Sys2Proof.Machine

open Sys2Proof

@[simp] theorem State.setReg_shape (s : State) (k v : Nat) : (State.setReg s k v).shape = s.shape := by simp [State.setReg]

@[simp] theorem State.bump_shape (s : State) (k : Nat) (n : Nat) : (State.bump s k n).shape = s.shape := by simp [State.bump]

@[simp] theorem State.bump64_shape (s : State) (k : Nat) (n : Nat) : (State.bump64 s k n).shape = s.shape := by simp [State.bump64]

@[simp] theorem State.bumpFor_shape (s : State) (p k : Nat) (n : Nat) : (State.bumpFor s p k n).shape = s.shape := by simp [State.bumpFor]

@[simp] theorem State.drawInt_shape (s : State) : (State.drawInt s).2.shape = s.shape := by simp [State.drawInt]

@[simp] theorem State.drawNat_shape (s : State) : (State.drawNat s).2.shape = s.shape := by simp [State.drawNat]

@[simp] theorem State.drawWord_shape (s : State) : (State.drawWord s).2.shape = s.shape := by simp [State.drawWord]

@[simp] theorem State.passTime_shape (s : State) : (State.passTime s).shape = s.shape := by simp [State.passTime]

@[simp] theorem State.spoilScrub_shape (s : State) : (State.spoilScrub s).shape = s.shape := by simp [State.spoilScrub]

@[simp] theorem State.newPoolKey_shape (s : State) (p : Nat) : (State.newPoolKey s p).shape = s.shape := by simp [State.newPoolKey]

@[simp] theorem State.stage_shape (s : State) (op : BoundaryOp) : (State.stage s op).shape = s.shape := by simp [State.stage]

@[simp] theorem State.stageNext_shape (s : State) (op : BoundaryOp) : (State.stageNext s op).shape = s.shape := by simp [State.stageNext]

@[simp] theorem State.onNet_shape (s : State) (p : Nat) (f : PartyNet → PartyNet) : (State.onNet s p f).shape = s.shape := by simp [State.onNet]

@[simp] theorem State.event_shape (s : State) (p op st : Nat) (payload : List Byte) : (State.event s p op st payload).shape = s.shape := by simp [State.event]

@[simp] theorem State.eventAll_shape (s : State) (op : Nat) (payload : List Byte) : (State.eventAll s op payload).shape = s.shape := by
  unfold State.eventAll
  repeat' (first | split | (with_reducible refine foldl_shape _ (fun _ _ => ?_) _ _) | simp)

@[simp] theorem State.attention_shape (s : State) (wasEmpty : Bool) : (State.attention s wasEmpty).shape = s.shape := by simp [State.attention]

@[simp] theorem State.boardPush_shape (s : State) (kind : Nat) (bytes : List Byte) : (State.boardPush s kind bytes).2.shape = s.shape := by unfold State.boardPush; split <;> simp

@[simp] theorem State.portCount_shape (s : State) (u sub : Nat) (n : Nat) : (State.portCount s u sub n).shape = s.shape := by simp [State.portCount]

@[simp] theorem State.emitOn_shape (s : State) (port : Nat) (m : OutMsg) : (State.emitOn s port m).shape = s.shape := by simp [State.emitOn]

@[simp] theorem State.transmit_shape (s : State) (p port : Nat) {t : State} (h : State.transmit s p port = some t) :
    t.shape = s.shape := by
  unfold State.transmit at h
  dsimp only at h
  split at h
  · split at h
    · cases h
    · split at h
      · cases h
      · split at h
        · cases h; split <;> simp
        · cases h; simp
  · cases h; simp

@[simp] theorem State.sendResp_shape (s : State) (m : OutMsg) : (State.sendResp s m).shape = s.shape := by
  unfold State.sendResp
  repeat' (first
    | with_reducible rfl
    | assumption
    | (with_reducible refine (keeps_next _ _).mpr ?_)
    | (simp [*]; done)
    | (rintro ⟨⟩)
    | split
    | (with_reducible refine shape_of_ite ?_ ?_)
    | (with_reducible refine foldl_shape _ (fun _ _ => ?_) _ _)
    | (with_reducible refine (foldl_shape _ (fun _ _ => ?_) _ _).trans ?_)
    | (with_reducible refine (foldl_snd_shape _ (fun _ _ => ?_) _ _).trans ?_)
    | (with_reducible refine (foldl_fst_shape _ (fun _ _ => ?_) _ _).trans ?_)
    | (with_reducible refine (State.transmit_shape _ _ _ (by assumption)).trans ?_)
    | (with_reducible refine (shape_of_eq (by assumption)).trans ?_)
    | (with_reducible refine (shape_of_eq' (by assumption)).trans ?_)
    | (with_reducible refine (shape_of_eq3 (by assumption)).trans ?_)
    | (with_reducible refine (shape_of_eq4 (by assumption)).trans ?_)
    | simp)

@[simp] theorem State.taken_shape (s : State) (r : Req) : (State.taken s r).shape = s.shape := by simp [State.taken]

@[simp] theorem State.respond_shape (s : State) (r : Req) (cls op st load credit : Nat) (data : List Byte) : (State.respond s r cls op st load credit data).shape = s.shape := by simp [State.respond]

@[simp] theorem State.answer_shape (s : State) (r : Req) (op st : Nat) (data : List Byte := []) : (State.answer s r op st data).shape = s.shape := by simp [State.answer]

@[simp] theorem State.putHist_shape (s : State) (h : UnitHist) : (State.putHist s h).shape = s.shape := by simp [State.putHist]

@[simp] theorem State.onPod_shape (s : State) (i : Nat) (f : Pod → Pod) : (State.onPod s i f).shape = s.shape := by simp [State.onPod]

@[simp] theorem State.onClu_shape (s : State) (c : Nat) (f : Cluster → Cluster) : (State.onClu s c f).shape = s.shape := by simp [State.onClu]

@[simp] theorem State.reportEnd_shape (s : State) (kind party st sub detail : Nat) : (State.reportEnd s kind party st sub detail).shape = s.shape := by
  unfold State.reportEnd
  repeat' (first
    | with_reducible rfl
    | assumption
    | (with_reducible refine (keeps_next _ _).mpr ?_)
    | (simp [*]; done)
    | (rintro ⟨⟩)
    | split
    | (with_reducible refine shape_of_ite ?_ ?_)
    | (with_reducible refine foldl_shape _ (fun _ _ => ?_) _ _)
    | (with_reducible refine (foldl_shape _ (fun _ _ => ?_) _ _).trans ?_)
    | (with_reducible refine (foldl_snd_shape _ (fun _ _ => ?_) _ _).trans ?_)
    | (with_reducible refine (foldl_fst_shape _ (fun _ _ => ?_) _ _).trans ?_)
    | (with_reducible refine (State.transmit_shape _ _ _ (by assumption)).trans ?_)
    | (with_reducible refine (shape_of_eq (by assumption)).trans ?_)
    | (with_reducible refine (shape_of_eq' (by assumption)).trans ?_)
    | (with_reducible refine (shape_of_eq3 (by assumption)).trans ?_)
    | (with_reducible refine (shape_of_eq4 (by assumption)).trans ?_)
    | simp)

@[simp] theorem State.spareState_shape (s : State) (pod v : Nat) : (State.spareState s pod v).shape = s.shape := by simp [State.spareState]

@[simp] theorem State.dropGroup_shape (s : State) : (State.dropGroup s).shape = s.shape := by
  unfold State.dropGroup
  repeat' (first | split | (with_reducible refine foldl_shape _ (fun _ _ => ?_) _ _) | simp)

@[simp] theorem State.endGroup_shape (s : State) (c : Nat) : (State.endGroup s c).shape = s.shape := by unfold State.endGroup; split <;> simp

@[simp] theorem State.groupLoses_shape (s : State) (c : Nat) : (State.groupLoses s c).shape = s.shape := by unfold State.groupLoses; split <;> simp

@[simp] theorem State.retirePod_shape (s : State) (i : Nat) : (State.retirePod s i).2.shape = s.shape := by
  unfold State.retirePod
  repeat' (first | split | (with_reducible refine foldl_shape _ (fun _ _ => ?_) _ _) | simp)

@[simp] theorem State.keepPermanent_shape (s : State) (h : UnitHist) : (State.keepPermanent s h).shape = s.shape := by
  unfold State.keepPermanent
  repeat' (first | with_reducible rfl | assumption | (with_reducible refine (keeps_next _ _).mpr ?_) | simp [*])

@[simp] theorem State.countUnit_shape (s : State) (r : FaultRec) (u : Nat) : (State.countUnit s r u).2.shape = s.shape := by
  unfold State.countUnit
  repeat' (first | split | (with_reducible refine (shape_of_eq (by assumption)).trans ?_) | (with_reducible refine (foldl_shape _ (fun _ _ => ?_) _ _).trans ?_) | simp)

@[simp] theorem State.podPermanent_shape (s : State) (r : FaultRec) (i : Nat) : (State.podPermanent s r i).2.shape = s.shape := by
  unfold State.podPermanent
  repeat' (first | split | (with_reducible refine (shape_of_eq (by assumption)).trans ?_) | simp)

@[simp] theorem State.countRec_shape (s : State) (r : FaultRec) : (State.countRec s r).2.shape = s.shape := by
  unfold State.countRec
  repeat' (first | split | simp)

@[simp] theorem State.countRaised_shape (s : State) (party : Nat) : (State.countRaised s party).shape = s.shape := by
  unfold State.countRaised
  repeat' (first
    | with_reducible rfl
    | assumption
    | (with_reducible refine (keeps_next _ _).mpr ?_)
    | (simp [*]; done)
    | (rintro ⟨⟩)
    | split
    | (with_reducible refine shape_of_ite ?_ ?_)
    | (with_reducible refine foldl_shape _ (fun _ _ => ?_) _ _)
    | (with_reducible refine (foldl_shape _ (fun _ _ => ?_) _ _).trans ?_))

@[simp] theorem State.raise_shape (s : State) (r : FaultRec) : (State.raise s r).shape = s.shape := by
  unfold State.raise
  repeat' (first | with_reducible rfl | assumption | (with_reducible refine (keeps_next _ _).mpr ?_) | simp [*])

@[simp] theorem State.fault_shape (s : State) (cls cause unit party detail : Nat) : (State.fault s cls cause unit party detail).shape = s.shape := by simp [State.fault]

@[simp] theorem State.mark_shape (s : State) (key t : Nat) : (State.mark s key t).shape = s.shape := by simp [State.mark]

@[simp] theorem State.faultOnce_shape (s : State) (key t gap : Nat) (r : FaultRec) : (State.faultOnce s key t gap r).shape = s.shape := by simp [State.faultOnce]

@[simp] theorem State.toPower_shape (s : State) (p : PowerState) (cause : Nat) : (State.toPower s p cause).shape = s.shape := by simp [State.toPower]

end Sys2Proof.Machine
end

