-- ==== Sys2Proof/Laws/KeepMemory.lean ====
section
/-! SUPPORT. The operations of Machine/Memory.lean keep the queue and the units of the device. -/

namespace Sys2Proof.Machine

open Sys2Proof

@[simp] theorem State.onCtx_shape (s : State) (c : Nat) (f : Ctx → Ctx) : (State.onCtx s c f).shape = s.shape := by simp [State.onCtx]

@[simp] theorem State.putMem_shape (s : State) (a : Nat) (bs : List Byte) : (State.putMem s a bs).shape = s.shape := by simp [State.putMem]

@[simp] theorem State.putDram_shape (s : State) (a : Nat) (b : Byte) : (State.putDram s a b).shape = s.shape := by unfold State.putDram; split <;> simp

@[simp] theorem State.cacheRead_shape (s : State) (p line : Nat) : (State.cacheRead s p line).2.shape = s.shape := by
  unfold State.cacheRead
  repeat' (first
    | with_reducible rfl
    | assumption
    | (with_reducible refine (keeps_next _ _).mpr ?_)
    | (simp [*]; done)
    | (rintro ⟨⟩)
    | split)

@[simp] theorem State.cacheReads_shape (s : State) (p : Nat) (lines : List Nat) : (State.cacheReads s p lines).2.shape = s.shape := by
  unfold State.cacheReads
  repeat' (first
    | with_reducible rfl
    | assumption
    | (with_reducible refine (keeps_next _ _).mpr ?_)
    | (simp [*]; done)
    | (rintro ⟨⟩)
    | split
    | (with_reducible refine shape_of_ite ?_ ?_)
    | (with_reducible refine foldl_shape _ (fun _ _ => ?_) _ _)
    | (with_reducible refine (foldl_shape _ (fun _ _ => ?_) _ _).trans ?_)
    | (with_reducible refine (foldl_snd_shape _ (fun _ _ => ?_) _ _).trans ?_))

@[simp] theorem State.uncache_shape (s : State) (line : Nat) : (State.uncache s line).shape = s.shape := by simp [State.uncache]

@[simp] theorem State.poke_shape (s : State) (p a : Nat) (b : Byte) : (State.poke s p a b).shape = s.shape := by unfold State.poke; split <;> simp

@[simp] theorem State.pokes_shape (s : State) (p : Nat) (y0 : List (Nat × Byte)) : (State.pokes s p y0).shape = s.shape := by
  induction y0 generalizing s
  all_goals unfold State.pokes
  repeat' (first
    | with_reducible rfl
    | assumption
    | (with_reducible refine (keeps_next _ _).mpr ?_)
    | simp [*])

@[simp] theorem State.putLine_shape (s : State) (line : Nat) (bs : List Byte) : (State.putLine s line bs).shape = s.shape := by simp [State.putLine]

@[simp] theorem State.charge_shape (s : State) (p ctx lines : Nat) (planned : Bool) : (State.charge s p ctx lines planned).shape = s.shape := by simp [State.charge]

@[simp] theorem State.writePages_shape (s : State) (x : Ctx) (p a : Nat) (bs : List Byte) : (State.writePages s x p a bs).shape = s.shape := by
  unfold State.writePages
  repeat' (first
    | with_reducible rfl
    | assumption
    | (with_reducible refine (keeps_next _ _).mpr ?_)
    | (simp [*]; done)
    | (rintro ⟨⟩)
    | split
    | (with_reducible refine shape_of_ite ?_ ?_)
    | (with_reducible refine foldl_shape _ (fun _ _ => ?_) _ _))

@[simp] theorem State.writeCtx_shape (s : State) (p c a : Nat) (bs : List Byte) : (State.writeCtx s p c a bs).shape = s.shape := by
  unfold State.writeCtx
  repeat' (first | split | (with_reducible refine foldl_shape _ (fun _ _ => ?_) _ _) | simp)

@[simp] theorem State.traceTo_shape (s : State) (v : Nat) (t : TraceRec) : (State.traceTo s v t).shape = s.shape := by unfold State.traceTo; split <;> simp

@[simp] theorem State.traceOut_shape (s : State) (t : TraceRec) : (State.traceOut s t).shape = s.shape := by simp [State.traceOut]

@[simp] theorem State.traceDevice_shape (s : State) (party status source ctx addr lines op : Nat) : (State.traceDevice s party status source ctx addr lines op).shape = s.shape := by simp [State.traceDevice]

@[simp] theorem State.advanceFence_shape (s : State) (f : Fence) (v : Nat) : (State.advanceFence s f v).2.2.shape = s.shape := by
  unfold State.advanceFence
  repeat' split
  all_goals simp

@[simp] theorem State.makeChaff_shape (s : State) (line owner : Nat) : (State.makeChaff s line owner).shape = s.shape := by simp [State.makeChaff]

@[simp] theorem State.use_shape (s : State) (c : Nat) (f : Usage → Usage) : (State.use s c f).shape = s.shape := by simp [State.use]

end Sys2Proof.Machine
end

