-- ==== Sys2Proof/Laws/KeepWalk.lean ====
section
/-! SUPPORT. The operations of Machine/Walk.lean keep the queue and the units of the device. -/

namespace Sys2Proof.Machine

open Sys2Proof

@[simp] theorem State.onWalker_shape (s : State) (c : Nat) (f : Walker → Walker) : (State.onWalker s c f).shape = s.shape := by simp [State.onWalker]

@[simp] theorem State.dropAhead_shape (s : State) (c : Nat) : (State.dropAhead s c).shape = s.shape := by
  unfold State.dropAhead
  split <;> simp

@[simp] theorem State.dropAheads_shape (s : State) : (State.dropAheads s).shape = s.shape :=
  foldl_shape _ (fun t c => State.dropAhead_shape t c) _ _

@[simp] theorem State.dropAheadAt_shape (s : State) (c desc n : Nat) : (State.dropAheadAt s c desc n).shape = s.shape := by
  unfold State.dropAheadAt
  split <;> simp

@[simp] theorem State.unmark_shape (s : State) (ctx a n : Nat) : (State.unmark s ctx a n).shape = s.shape := by simp [State.unmark]

@[simp] theorem State.putOut_shape (s : State) (c seg : Nat) (d : List Byte) (esize b j : Nat) (bs : List Byte) (valid : Bool) : (State.putOut s c seg d esize b j bs valid).shape = s.shape := by simp [State.putOut]

@[simp] theorem State.zeroTile_shape (s : State) (c seg : Nat) (d : List Byte) (esize : Nat) (t : Tile) : (State.zeroTile s c seg d esize t).shape = s.shape := by
  unfold State.zeroTile
  repeat' (first | split | (with_reducible refine foldl_shape _ (fun _ _ => ?_) _ _) | simp)

@[simp] theorem State.chargeOut_shape (s : State) (seg : Nat) (d : List Byte) (lines : List Nat) (planned : Bool) : (State.chargeOut s seg d lines planned).shape = s.shape := by
  unfold State.chargeOut
  repeat' (first | with_reducible rfl | assumption | (with_reducible refine (keeps_next _ _).mpr ?_) | simp [*])

@[simp] theorem State.zeroTiles_shape (s : State) (c seg : Nat) (d : List Byte) (lo hi : Nat) : (State.zeroTiles s c seg d lo hi).shape = s.shape := by
  unfold State.zeroTiles
  repeat' (first | split | (with_reducible refine foldl_shape _ (fun _ _ => ?_) _ _) | simp)

@[simp] theorem State.flagLate_shape (s : State) (g : Nat) : (State.flagLate s g).shape = s.shape := by simp [State.flagLate]

@[simp] theorem State.flagFault_shape (s : State) (g : Nat) : (State.flagFault s g).shape = s.shape := by simp [State.flagFault]

@[simp] theorem State.flagClip_shape (s : State) (g : Nat) : (State.flagClip s g).shape = s.shape := by simp [State.flagClip]

@[simp] theorem State.flagSus_shape (s : State) (g : Nat) : (State.flagSus s g).shape = s.shape := by simp [State.flagSus]

@[simp] theorem State.markOut_shape (s : State) (g : Nat) (late : Bool) (d : List Byte) (a n : Nat) :
    (State.markOut s g late d a n).shape = s.shape := by
  unfold State.markOut
  split
  · simp
  · split <;> simp

@[simp] theorem State.lateTiles_shape (s : State) (c g : Nat) (d : List Byte) (lo hi : Nat) :
    (State.lateTiles s c g d lo hi).shape = s.shape := by
  unfold State.lateTiles
  split
  · simp
  · split
    · rfl
    · refine foldl_shape _ (fun t k => ?_) _ _
      split
      · exact foldl_shape _ (fun _ _ => by simp) _ _
      · rfl

@[simp] theorem State.issueRecord_shape (s : State) (c g n : Nat) : (State.issueRecord s c g n).shape = s.shape := by
  simp [State.issueRecord]

@[simp] theorem State.descException_shape (s : State) (g : Nat) : (State.descException s g).shape = s.shape := by simp [State.descException]

@[simp] theorem State.refuseIssue_shape (s : State) (c g n : Nat) (d : List Byte) : (State.refuseIssue s c g n d).shape = s.shape := by
  unfold State.refuseIssue
  repeat' split
  all_goals simp

@[simp] theorem State.issue_shape (s : State) (g n : Nat) : (State.issue s g n).shape = s.shape := by
  unfold State.issue
  repeat' (first | split | (with_reducible refine foldl_shape _ (fun _ _ => ?_) _ _) | simp)

@[simp] theorem State.arriveAt_shape (s : State) (c n g due : Nat) (d : List Byte) : (State.arriveAt s c n g due d).shape = s.shape := by simp [State.arriveAt]

@[simp] theorem State.arrive_shape (s : State) (all : Bool) : (State.arrive s all).shape = s.shape := by
  unfold State.arrive
  repeat' (first | split | (with_reducible refine foldl_shape _ (fun _ _ => ?_) _ _) | simp)

end Sys2Proof.Machine
end

