-- ==== Sys2Proof/Laws/KeepCtrlCore.lean ====
section
/-! SUPPORT. The operations of Machine/CtrlCore.lean keep the queue and the units of the device. -/

namespace Sys2Proof.Machine

open Sys2Proof

@[simp] theorem State.onCore_shape (s : State) (f : Core → Core) : (State.onCore s f).shape = s.shape := by simp [State.onCore]

@[simp] theorem State.onBundle_shape (s : State) (f : Bundle → Bundle) : (State.onBundle s f).shape = s.shape := by simp [State.onBundle]

@[simp] theorem State.retire_shape (s : State) : (State.retire s).shape = s.shape := by simp [State.retire]

@[simp] theorem State.stageWrite_shape (s : State) (sl : Slot) (lat r : Nat) (v : Word) : (State.stageWrite s sl lat r v).shape = s.shape := by simp [State.stageWrite]

@[simp] theorem State.zeroUnissued_shape (s : State) (g : Nat) (late : Bool) : (State.zeroUnissued s g late).shape = s.shape := by
  unfold State.zeroUnissued
  split
  · rfl
  · refine foldl_shape _ (fun s x => ?_) _ _
    refine shape_of_ite rfl ((State.chargeOut_shape _ _ _ _ _).trans (foldl_shape _ (fun s y => ?_) _ _))
    have h (s : State) (l : List Nat) (c : Nat → Bool) (f : State → Nat → State) (hf : ∀ s j, (f s j).shape = s.shape) :
        (l.foldl (fun s j => if c j = true then s else f s j) s).shape = s.shape :=
      foldl_shape _ (fun s j => shape_of_ite rfl (hf s j)) _ _
    refine shape_of_ite ((State.markOut_shape _ _ _ _ _ _).trans (h _ _ _ _ fun s j => ?_)) (h _ _ _ _ fun s j => ?_) <;>
      exact State.putOut_shape _ _ _ _ _ _ _ _ _

@[simp] theorem State.settleStop_shape (s : State) : (State.settleStop s).shape = s.shape := by
  unfold State.settleStop
  repeat' (first
    | with_reducible rfl
    | assumption
    | (with_reducible refine (keeps_next _ _).mpr ?_)
    | simp [*]
    | (rintro ⟨⟩)
    | split)

@[simp] theorem State.coreStop_shape (s : State) (code : Nat) : (State.coreStop s code).shape = s.shape := by unfold State.coreStop; split <;> simp

@[simp] theorem State.takeBundle_shape (s : State) (g : Nat) : (State.takeBundle s g).shape = s.shape := by
  unfold State.takeBundle
  repeat' (first | split | (with_reducible refine (shape_of_eq (by assumption)).trans ?_) | (with_reducible refine (foldl_shape _ (fun _ _ => ?_) _ _).trans ?_) | simp)

@[simp] theorem State.goto_shape (s : State) (g pc dc : Nat) : (State.goto s g pc dc).shape = s.shape := by simp [State.goto]

@[simp] theorem State.nextBundle_shape (s : State) (g : Nat) : (State.nextBundle s g).shape = s.shape := by simp [State.nextBundle]

@[simp] theorem State.branchTo_shape (s : State) (g target : Nat) : (State.branchTo s g target).shape = s.shape := by simp [State.branchTo]

@[simp] theorem State.slot_shape (s : State) (ok : Bool) (f : State → Nat → State) (h_f : ∀ s n, (f s n).shape = s.shape) : Keeps (State.slot s ok f) s := by
  unfold State.slot
  refine (keeps_next _ _).mpr ?_
  repeat' split
  all_goals simp [*]

@[simp] theorem State.aluReg_shape (s : State) (sl : Slot) (f : BitVec 40) (op : Word → Word → Word) : Keeps (State.aluReg s sl f op) s := by simp [State.aluReg]

@[simp] theorem State.aluImm_shape (s : State) (sl : Slot) (f : BitVec 40) (op : Word → Word → Word) : Keeps (State.aluImm s sl f op) s := by simp [State.aluImm]

@[simp] theorem State.mulReg_shape (s : State) (sl : Slot) (f : BitVec 40) (op : Word → Word → Word) : Keeps (State.mulReg s sl f op) s := by simp [State.mulReg]

@[simp] theorem State.load_shape (s : State) (sl : Slot) (f : BitVec 40) (n : Nat) : Keeps (State.load s sl f n) s := by
  unfold State.load
  refine (keeps_next _ _).mpr ?_
  repeat' (first | split | (with_reducible refine foldl_shape _ (fun _ _ => ?_) _ _) | simp)

@[simp] theorem State.store__shape (s : State) (sl : Slot) (f : BitVec 40) (n : Nat) : Keeps (State.store_ s sl f n) s := by
  unfold State.store_
  refine (keeps_next _ _).mpr ?_
  repeat' (first | split | (with_reducible refine foldl_shape _ (fun _ _ => ?_) _ _) | simp)

@[simp] theorem execNop_shape (sl : Slot) (s : State) : Keeps (execNop sl s) s := by simp [execNop]

@[simp] theorem execAdd_shape (sl : Slot) (f : BitVec 40) (s : State) : Keeps (execAdd sl f s) s := by simp [execAdd]

@[simp] theorem execSub_shape (sl : Slot) (f : BitVec 40) (s : State) : Keeps (execSub sl f s) s := by simp [execSub]

@[simp] theorem execAnd_shape (sl : Slot) (f : BitVec 40) (s : State) : Keeps (execAnd sl f s) s := by simp [execAnd]

@[simp] theorem execOr_shape (sl : Slot) (f : BitVec 40) (s : State) : Keeps (execOr sl f s) s := by simp [execOr]

@[simp] theorem execXor_shape (sl : Slot) (f : BitVec 40) (s : State) : Keeps (execXor sl f s) s := by simp [execXor]

@[simp] theorem execShl_shape (sl : Slot) (f : BitVec 40) (s : State) : Keeps (execShl sl f s) s := by simp [execShl]

@[simp] theorem execShr_shape (sl : Slot) (f : BitVec 40) (s : State) : Keeps (execShr sl f s) s := by simp [execShr]

@[simp] theorem execSar_shape (sl : Slot) (f : BitVec 40) (s : State) : Keeps (execSar sl f s) s := by simp [execSar]

@[simp] theorem execSlt_shape (sl : Slot) (f : BitVec 40) (s : State) : Keeps (execSlt sl f s) s := by simp [execSlt]

@[simp] theorem execSltu_shape (sl : Slot) (f : BitVec 40) (s : State) : Keeps (execSltu sl f s) s := by simp [execSltu]

@[simp] theorem execMin_shape (sl : Slot) (f : BitVec 40) (s : State) : Keeps (execMin sl f s) s := by simp [execMin]

@[simp] theorem execMax_shape (sl : Slot) (f : BitVec 40) (s : State) : Keeps (execMax sl f s) s := by simp [execMax]

@[simp] theorem execAddi_shape (sl : Slot) (f : BitVec 40) (s : State) : Keeps (execAddi sl f s) s := by simp [execAddi]

@[simp] theorem execAndi_shape (sl : Slot) (f : BitVec 40) (s : State) : Keeps (execAndi sl f s) s := by simp [execAndi]

@[simp] theorem execOri_shape (sl : Slot) (f : BitVec 40) (s : State) : Keeps (execOri sl f s) s := by simp [execOri]

@[simp] theorem execShli_shape (sl : Slot) (f : BitVec 40) (s : State) : Keeps (execShli sl f s) s := by simp [execShli]

@[simp] theorem execShri_shape (sl : Slot) (f : BitVec 40) (s : State) : Keeps (execShri sl f s) s := by simp [execShri]

@[simp] theorem execSari_shape (sl : Slot) (f : BitVec 40) (s : State) : Keeps (execSari sl f s) s := by simp [execSari]

@[simp] theorem execSlti_shape (sl : Slot) (f : BitVec 40) (s : State) : Keeps (execSlti sl f s) s := by simp [execSlti]

@[simp] theorem execMovi_shape (sl : Slot) (f : BitVec 40) (s : State) : Keeps (execMovi sl f s) s := by simp [execMovi]

@[simp] theorem execMovhi_shape (sl : Slot) (f : BitVec 40) (s : State) : Keeps (execMovhi sl f s) s := by simp [execMovhi]

@[simp] theorem execLdw_shape (sl : Slot) (f : BitVec 40) (s : State) : Keeps (execLdw sl f s) s := by simp [execLdw]

@[simp] theorem execLdhu_shape (sl : Slot) (f : BitVec 40) (s : State) : Keeps (execLdhu sl f s) s := by simp [execLdhu]

@[simp] theorem execLdbu_shape (sl : Slot) (f : BitVec 40) (s : State) : Keeps (execLdbu sl f s) s := by simp [execLdbu]

@[simp] theorem execStw_shape (sl : Slot) (f : BitVec 40) (s : State) : Keeps (execStw sl f s) s := by simp [execStw]

@[simp] theorem execSth_shape (sl : Slot) (f : BitVec 40) (s : State) : Keeps (execSth sl f s) s := by simp [execSth]

@[simp] theorem execStb_shape (sl : Slot) (f : BitVec 40) (s : State) : Keeps (execStb sl f s) s := by simp [execStb]

@[simp] theorem execMul_shape (sl : Slot) (f : BitVec 40) (s : State) : Keeps (execMul sl f s) s := by simp [execMul]

@[simp] theorem execMulh_shape (sl : Slot) (f : BitVec 40) (s : State) : Keeps (execMulh sl f s) s := by simp [execMulh]

@[simp] theorem execMulhu_shape (sl : Slot) (f : BitVec 40) (s : State) : Keeps (execMulhu sl f s) s := by simp [execMulhu]

@[simp] theorem State.stageIssue_shape (s : State) (n : Nat) : (State.stageIssue s n).shape = s.shape := by simp [State.stageIssue]

@[simp] theorem State.stageFadv_shape (s : State) (g f v : Nat) : (State.stageFadv s g f v).shape = s.shape := by simp [State.stageFadv]

@[simp] theorem execIssue_shape (sl : Slot) (f : BitVec 56) (s : State) : Keeps (execIssue sl f s) s := by simp [execIssue]

@[simp] theorem execIssuei_shape (sl : Slot) (f : BitVec 56) (s : State) : Keeps (execIssuei sl f s) s := by simp [execIssuei]

@[simp] theorem execFadv_shape (sl : Slot) (f : BitVec 56) (s : State) : Keeps (execFadv sl f s) s := by simp [execFadv]

@[simp] theorem execFadvf_shape (sl : Slot) (f : BitVec 56) (s : State) : Keeps (execFadvf sl f s) s := by simp [execFadvf]

@[simp] theorem State.performAdvance_shape (s : State) (x : FadvItem) : (State.performAdvance s x).shape = s.shape := by
  unfold State.performAdvance
  repeat' (first
    | with_reducible rfl
    | assumption
    | (with_reducible refine (keeps_next _ _).mpr ?_)
    | (simp [*]; done)
    | (rintro ⟨⟩)
    | split
    | (with_reducible refine shape_of_ite ?_ ?_)
    | (with_reducible refine foldl_shape _ (fun _ _ => ?_) _ _)
    | (with_reducible refine (foldl_shape _ (fun _ _ => ?_) _ _).trans ?_)
    | (with_reducible refine (foldl_snd_shape _ (fun _ _ => ?_) _ _).trans ?_)
    | (with_reducible refine (foldl_fst_shape _ (fun _ _ => ?_) _ _).trans ?_)
    | (with_reducible refine (State.ordered_shape _ _ _ _ _ _ _ (fun _ => ?_)).trans ?_)
    | (with_reducible refine (State.orderBytes_shape _ _ _ _ _ _ _ (fun _ => ?_)).trans ?_)
    | (with_reducible refine (State.command_shape _ _ _ _ _ (fun _ _ => ?_)).trans ?_)
    | (with_reducible refine (State.sealedWrite_shape _ _ _ _ _ _ _ (fun _ => ?_)).trans ?_)
    | (with_reducible refine (State.transmit_shape _ _ _ (by assumption)).trans ?_)
    | (with_reducible refine (shape_of_eq (by assumption)).trans ?_)
    | (with_reducible refine (shape_of_eq' (by assumption)).trans ?_)
    | (with_reducible refine (shape_of_eq3 (by assumption)).trans ?_)
    | (with_reducible refine (shape_of_eq4 (by assumption)).trans ?_)
    | simp)

@[simp] theorem execFenceAdvancePerformed_shape (s : State) : Keeps (execFenceAdvancePerformed s) s := by
  unfold execFenceAdvancePerformed
  refine (keeps_next _ _).mpr ?_
  repeat' (first | split | (with_reducible refine foldl_shape _ (fun _ _ => ?_) _ _) | simp)

@[simp] theorem State.stageMove_shape (s : State) (g : Nat) (f : BitVec 48) (x : QItem) : (State.stageMove s g f x).shape = s.shape := by simp [State.stageMove]

@[simp] theorem State.stageHandle_shape (s : State) (n v : Nat) : (State.stageHandle s n v).shape = s.shape := by simp [State.stageHandle]

@[simp] theorem execHset_shape (sl : Slot) (f : BitVec 48) (s : State) : Keeps (execHset sl f s) s := by simp [execHset]

@[simp] theorem execHseti_shape (sl : Slot) (f : BitVec 48) (s : State) : Keeps (execHseti sl f s) s := by simp [execHseti]

@[simp] theorem execHadd_shape (sl : Slot) (f : BitVec 48) (s : State) : Keeps (execHadd sl f s) s := by simp [execHadd]

@[simp] theorem execHget_shape (sl : Slot) (f : BitVec 48) (s : State) : Keeps (execHget sl f s) s := by simp [execHget]

@[simp] theorem execLset_shape (sl : Slot) (f : BitVec 48) (s : State) : Keeps (execLset sl f s) s := by simp [execLset]

@[simp] theorem execLseti_shape (sl : Slot) (f : BitVec 48) (s : State) : Keeps (execLseti sl f s) s := by simp [execLseti]

@[simp] theorem execLget_shape (sl : Slot) (f : BitVec 48) (s : State) : Keeps (execLget sl f s) s := by simp [execLget]

@[simp] theorem execStat_shape (sl : Slot) (f : BitVec 48) (s : State) : Keeps (execStat sl f s) s := by simp [execStat]

@[simp] theorem execBstb_shape (sl : Slot) (f : BitVec 48) (s : State) : Keeps (execBstb sl f s) s := by simp [execBstb]

@[simp] theorem execBsth_shape (sl : Slot) (f : BitVec 48) (s : State) : Keeps (execBsth sl f s) s := by simp [execBsth]

@[simp] theorem State.branch_shape (s : State) (sl : Slot) (f : BitVec 32) (taken : Bool) : Keeps (State.branch s sl f taken) s := by simp [State.branch]

@[simp] theorem execBr_shape (sl : Slot) (f : BitVec 32) (s : State) : Keeps (execBr sl f s) s := by simp [execBr]

@[simp] theorem execBeq_shape (sl : Slot) (f : BitVec 32) (s : State) : Keeps (execBeq sl f s) s := by simp [execBeq]

@[simp] theorem execBne_shape (sl : Slot) (f : BitVec 32) (s : State) : Keeps (execBne sl f s) s := by simp [execBne]

@[simp] theorem execBlt_shape (sl : Slot) (f : BitVec 32) (s : State) : Keeps (execBlt sl f s) s := by simp [execBlt]

@[simp] theorem execBge_shape (sl : Slot) (f : BitVec 32) (s : State) : Keeps (execBge sl f s) s := by simp [execBge]

@[simp] theorem execCall_shape (sl : Slot) (f : BitVec 32) (s : State) : Keeps (execCall sl f s) s := by simp [execCall]

@[simp] theorem execJr_shape (sl : Slot) (f : BitVec 32) (s : State) : Keeps (execJr sl f s) s := by simp [execJr]

@[simp] theorem execEndw_shape (sl : Slot) (_f : BitVec 32) (s : State) : Keeps (execEndw sl _f s) s := by simp [execEndw]

@[simp] theorem State.endWait_shape (s : State) (g t : Nat) : (State.endWait s g t).shape = s.shape := by simp [State.endWait]

@[simp] theorem State.endFenceWait_shape (s : State) (g gb code t : Nat) : (State.endFenceWait s g gb code t).shape = s.shape := by simp [State.endFenceWait]

@[simp] theorem execWaitto_shape (sl : Slot) (f : BitVec 32) (s : State) : Keeps (execWaitto sl f s) s := by simp [execWaitto]

@[simp] theorem execWaitc_shape (sl : Slot) (f : BitVec 32) (s : State) : Keeps (execWaitc sl f s) s := by simp [execWaitc]

@[simp] theorem State.chargeSeg_shape (s : State) (g n : Nat) : (State.chargeSeg s g n).shape = s.shape := by
  unfold State.chargeSeg
  repeat' (first | split | (with_reducible refine foldl_shape _ (fun _ _ => ?_) _ _) | simp)

@[simp] theorem execWaitf_shape (sl : Slot) (f : BitVec 32) (s : State) : Keeps (execWaitf sl f s) s := by
  unfold execWaitf
  refine (keeps_next _ _).mpr ?_
  repeat' (first | split | (with_reducible refine foldl_shape _ (fun _ _ => ?_) _ _) | simp)

@[simp] theorem State.readFence_shape (s : State) : (State.readFence s).shape = s.shape := by
  unfold State.readFence
  repeat' (first
    | with_reducible rfl
    | assumption
    | (with_reducible refine (keeps_next _ _).mpr ?_)
    | (simp [*]; done)
    | (rintro ⟨⟩)
    | split)

@[simp] theorem execWaitEnd_shape (s : State) : Keeps (execWaitEnd s) s := by
  unfold execWaitEnd
  repeat' (first | split | simp)

end Sys2Proof.Machine
end

