-- ==== Sys2Proof/Laws/KeepMvm.lean ====
section
/-! SUPPORT. The operations of Machine/Mvm.lean keep the queue and the units of the device. -/

namespace Sys2Proof.Machine

open Sys2Proof

@[simp] theorem State.memCorrected_shape (s : State) (page : Nat) : (State.memCorrected s page).shape = s.shape := by simp [State.memCorrected]

@[simp] theorem State.saveHistories_shape (s : State) : (State.saveHistories s).shape = s.shape := by simp [State.saveHistories]

@[simp] theorem State.memFailed_shape (s : State) (line requester : Nat) : (State.memFailed s line requester).shape = s.shape := by
  unfold State.memFailed
  repeat' (first | with_reducible rfl | assumption | (with_reducible refine (keeps_next _ _).mpr ?_) | simp [*])

@[simp] theorem State.eccRead_shape (s : State) (e : Ecc) (line requester : Nat) : (State.eccRead s e line requester).shape = s.shape := by
  unfold State.eccRead
  repeat' (first
    | with_reducible rfl
    | assumption
    | (with_reducible refine (keeps_next _ _).mpr ?_)
    | simp [*]
    | (rintro ⟨⟩)
    | split)

@[simp] theorem State.mvm_shape (s : State) (pod : Nat) (rows : List (Nat × Int)) (at_ : Nat) : (State.mvm s pod rows at_).2.shape = s.shape := by
  unfold State.mvm
  repeat' (first | with_reducible rfl | assumption | (with_reducible refine (keeps_next _ _).mpr ?_) | simp [*])

@[simp] theorem State.checkRecord_shape (s : State) (checked pod seg cause ctx desc tile detail : Nat) : (State.checkRecord s checked pod seg cause ctx desc tile detail).shape = s.shape := by
  unfold State.checkRecord
  repeat' (first | with_reducible rfl | assumption | (with_reducible refine (keeps_next _ _).mpr ?_) | simp [*])

@[simp] theorem State.checksums_shape (s : State) (pod seg ctx desc tile : Nat) (rows : List (Nat × Int)) (cv : List Conv) : (State.checksums s pod seg ctx desc tile rows cv).2.shape = s.shape := by
  unfold State.checksums
  repeat' (first
    | with_reducible rfl
    | assumption
    | (with_reducible refine (keeps_next _ _).mpr ?_)
    | (simp [*]; done)
    | (rintro ⟨⟩)
    | split
    | (with_reducible refine shape_of_ite ?_ ?_)
    | (with_reducible refine foldl_shape _ (fun _ _ => ?_) _ _)
    | (with_reducible refine (foldl_shape _ (fun _ _ => ?_) _ _).trans ?_))

@[simp] theorem State.oneRepeat_shape (s : State) (seg ctx desc tile : Nat) (x : BlockRun) : (State.oneRepeat s seg ctx desc tile x).2.shape = s.shape := by
  unfold State.oneRepeat
  repeat' (first
    | with_reducible rfl
    | assumption
    | (with_reducible refine (keeps_next _ _).mpr ?_)
    | (simp [*]; done)
    | (rintro ⟨⟩)
    | split
    | (with_reducible refine shape_of_ite ?_ ?_)
    | (with_reducible refine foldl_shape _ (fun _ _ => ?_) _ _)
    | (with_reducible refine (foldl_shape _ (fun _ _ => ?_) _ _).trans ?_)
    | (with_reducible refine (foldl_snd_shape _ (fun _ _ => ?_) _ _).trans ?_)
    | (with_reducible refine (foldl_fst_shape _ (fun _ _ => ?_) _ _).trans ?_)
    | (with_reducible refine (State.transmit_shape _ _ _ (by assumption)).trans ?_)
    | (with_reducible refine (shape_of_eq (by assumption)).trans ?_)
    | (with_reducible refine (shape_of_eq' (by assumption)).trans ?_)
    | (with_reducible refine (shape_of_eq3 (by assumption)).trans ?_)
    | (with_reducible refine (shape_of_eq4 (by assumption)).trans ?_)
    | simp)

@[simp] theorem State.blocksOnce_shape (s : State) (seg ctx desc tile : Nat) (xs : List BlockRun) : (State.blocksOnce s seg ctx desc tile xs).2.shape = s.shape := by
  unfold State.blocksOnce
  repeat' (first
    | with_reducible rfl
    | assumption
    | (with_reducible refine (keeps_next _ _).mpr ?_)
    | (simp [*]; done)
    | (rintro ⟨⟩)
    | split
    | (with_reducible refine shape_of_ite ?_ ?_)
    | (with_reducible refine foldl_shape _ (fun _ _ => ?_) _ _)
    | (with_reducible refine (foldl_shape _ (fun _ _ => ?_) _ _).trans ?_)
    | (with_reducible refine (foldl_snd_shape _ (fun _ _ => ?_) _ _).trans ?_))

@[simp] theorem State.driftReads_shape (s : State) (pod n : Nat) : (State.driftReads s pod n).shape = s.shape := by
  induction n generalizing s with
  | zero => rfl
  | succ n ih => simp [State.driftReads, ih]

@[simp] theorem State.repeats_shape (s : State) (seg ctx desc tile n : Nat) (xs : List BlockRun) :
    (State.repeats s seg ctx desc tile n xs).2.shape = s.shape := by
  induction n generalizing s xs with
  | zero => rfl
  | succ n ih => simp [State.repeats, ih]

@[simp] theorem State.judgeDup_shape (s : State) (seg ctx desc tile : Nat) (x : BlockRun) : (State.judgeDup s seg ctx desc tile x).shape = s.shape := by
  unfold State.judgeDup
  repeat' (first
    | with_reducible rfl
    | assumption
    | (with_reducible refine (keeps_next _ _).mpr ?_)
    | (simp [*]; done)
    | (rintro ⟨⟩)
    | split
    | (with_reducible refine shape_of_ite ?_ ?_)
    | (with_reducible refine foldl_shape _ (fun _ _ => ?_) _ _)
    | (with_reducible refine (foldl_shape _ (fun _ _ => ?_) _ _).trans ?_)
    | (with_reducible refine (foldl_snd_shape _ (fun _ _ => ?_) _ _).trans ?_)
    | (with_reducible refine (foldl_fst_shape _ (fun _ _ => ?_) _ _).trans ?_)
    | (with_reducible refine (State.ordered_shape _ _ _ _ _ _ _ (fun _ => ?_)).trans ?_)
    | (with_reducible refine (State.orderBytes_shape _ _ _ _ _ _ _ (fun _ => ?_)).trans ?_)
    | (with_reducible refine (State.command_shape _ _ _ _ _ (fun _ _ => ?_)).trans ?_)
    | (with_reducible refine (State.sealedWrite_shape _ _ _ _ _ _ _ (fun _ => ?_)).trans ?_)
    | (with_reducible refine (State.transmit_shape _ _ _ (by assumption)).trans ?_)
    | (with_reducible refine (shape_of_eq (by assumption)).trans ?_)
    | (with_reducible refine (shape_of_eq' (by assumption)).trans ?_)
    | (with_reducible refine (shape_of_eq3 (by assumption)).trans ?_)
    | (with_reducible refine (shape_of_eq4 (by assumption)).trans ?_)
    | simp)

end Sys2Proof.Machine
end

