-- ==== Sys2Proof/Laws/KeepDrain.lean ====
section
/-! SUPPORT. The operations of Machine/Drain.lean keep the queue and the units of the device. -/

namespace Sys2Proof.Machine

open Sys2Proof

@[simp] theorem State.residueFault_shape (s : State) (c seg ctx desc tile b j step : Nat) : (State.residueFault s c seg ctx desc tile b j step).shape = s.shape := by simp [State.residueFault]

@[simp] theorem State.emit_shape (s : State) (c seg : Nat) (r : Running) (steps : List (BitVec 64)) (ups : List (Nat × Nat × Nat × Int)) (b j : Nat) (a : Accum) : (State.emit s c seg r steps ups b j a).2.shape = s.shape := by
  unfold State.emit
  repeat' (first | split | (with_reducible refine foldl_shape _ (fun _ _ => ?_) _ _) | simp)

@[simp] theorem State.emitVector_shape (s : State) (c seg : Nat) (o : WObj) (r : Running) (t : Tile) (steps : List (BitVec 64)) (ups : List (Nat × Nat × Nat × Int)) (b : Nat) (accs : List Accum) (xs : List Int) : (State.emitVector s c seg o r t steps ups b accs xs).shape = s.shape := by
  unfold State.emitVector
  repeat' (first
    | with_reducible rfl
    | assumption
    | (with_reducible refine (keeps_next _ _).mpr ?_)
    | (simp [*]; done)
    | (rintro ⟨⟩)
    | split
    | (with_reducible refine shape_of_ite ?_ ?_)
    | (with_reducible refine foldl_shape _ (fun _ _ => ?_) _ _)
    | (with_reducible refine (foldl_shape _ (fun _ _ => ?_) _ _).trans ?_)
    | (with_reducible refine (foldl_snd_shape _ (fun _ _ => ?_) _ _).trans ?_)
    | (with_reducible refine (foldl_fst_shape _ (fun _ _ => ?_) _ _).trans ?_)
    | (with_reducible refine State.slot_shape _ _ _ (fun _ _ => ?_))
    | (with_reducible refine (State.transmit_shape _ _ _ (by assumption)).trans ?_)
    | (with_reducible refine (shape_of_eq (by assumption)).trans ?_)
    | (with_reducible refine (shape_of_eq' (by assumption)).trans ?_)
    | (with_reducible refine (shape_of_eq3 (by assumption)).trans ?_)
    | (with_reducible refine (shape_of_eq4 (by assumption)).trans ?_)
    | simp)

end Sys2Proof.Machine
end

