-- ==== Sys2Proof/Laws/KeepPipOps.lean ====
section
/-! SUPPORT. The operations of Machine/PipOps.lean keep the queue and the units of the device. -/

namespace Sys2Proof.Machine

open Sys2Proof

@[simp] theorem State.onPip_shape (s : State) (e : Nat) (f : Pip → Pip) : (State.onPip s e f).shape = s.shape := by simp [State.onPip]

@[simp] theorem State.pipRetire_shape (s : State) (e : Nat) : (State.pipRetire s e).shape = s.shape := by simp [State.pipRetire]

@[simp] theorem State.pipGo_shape (s : State) (e : Nat) (pc : Int) (dc : Nat) : (State.pipGo s e pc dc).shape = s.shape := by simp [State.pipGo]

@[simp] theorem State.pipNext_shape (s : State) (e : Nat) : (State.pipNext s e).shape = s.shape := by simp [State.pipNext]

@[simp] theorem State.pipWrite_shape (s : State) (e lat : Nat) (d : BitVec 4) (v : Word) : (State.pipWrite s e lat d v).shape = s.shape := by simp [State.pipWrite]

@[simp] theorem State.pipDraw_shape (s : State) (a : Nat) : (State.pipDraw s a).shape = s.shape := by simp [State.pipDraw]

@[simp] theorem State.pipTaint_shape (s : State) (e a n : Nat) : (State.pipTaint s e a n).shape = s.shape := by simp [State.pipTaint]

@[simp] theorem State.pipHold_shape (s : State) (e i : Nat) (v : Int) : (State.pipHold s e i v).shape = s.shape := by simp [State.pipHold]

@[simp] theorem State.pipData_shape (s : State) (e a : Nat) (bs : List Byte) : (State.pipData s e a bs).shape = s.shape := by simp [State.pipData]

@[simp] theorem State.pipVerdict_shape (s : State) (e off : Nat) (bs : List Byte) : (State.pipVerdict s e off bs).shape = s.shape := by simp [State.pipVerdict]

@[simp] theorem State.pipStore_shape (s : State) (e a : Nat) (bs : List Byte) {t : State} (h : State.pipStore s e a bs = some t) : t.shape = s.shape := by
  unfold State.pipStore at h
  revert h
  repeat' (first
    | with_reducible rfl
    | assumption
    | (with_reducible refine (keeps_next _ _).mpr ?_)
    | (simp [*]; done)
    | (rintro ⟨⟩)
    | split
    | (with_reducible refine shape_of_ite ?_ ?_)
    | (with_reducible refine foldl_shape _ (fun _ _ => ?_) _ _)
    | (with_reducible refine (foldl_shape _ (fun _ _ => ?_) _ _).trans ?_)
    | (with_reducible refine (foldl_snd_shape _ (fun _ _ => ?_) _ _).trans ?_)
    | (with_reducible refine (foldl_fst_shape _ (fun _ _ => ?_) _ _).trans ?_)
    | (with_reducible refine State.slot_shape _ _ _ (fun _ _ => ?_))
    | (with_reducible refine (State.transmit_shape _ _ _ (by assumption)).trans ?_)
    | (with_reducible refine (shape_of_eq (by assumption)).trans ?_)
    | (with_reducible refine (shape_of_eq' (by assumption)).trans ?_)
    | (with_reducible refine (shape_of_eq3 (by assumption)).trans ?_)
    | (with_reducible refine (shape_of_eq4 (by assumption)).trans ?_)
    | simp)

@[simp] theorem State.startPip_shape (s : State) (e : Nat) (img : PipImage) (seg item limit : Nat) (input : List Byte) : (State.startPip s e img seg item limit input).shape = s.shape := by simp [State.startPip]

@[simp] theorem State.holdEvent_shape (s : State) (code : Nat) : (State.holdEvent s code).shape = s.shape := by unfold State.holdEvent; split <;> simp

@[simp] theorem State.nextHoldEvent_shape (s : State) : (State.nextHoldEvent s).shape = s.shape := by unfold State.nextHoldEvent; split <;> simp

@[simp] theorem State.holdVerdict_shape (s : State) : (State.holdVerdict s).shape = s.shape := by
  unfold State.holdVerdict
  repeat' (first | split | (with_reducible refine foldl_shape _ (fun _ _ => ?_) _ _) | simp)

@[simp] theorem State.zeroRegion_shape (s : State) (c a n : Nat) : (State.zeroRegion s c a n).shape = s.shape := by simp [State.zeroRegion]

@[simp] theorem State.pipIdle_shape (s : State) (e how : Nat) : (State.pipIdle s e how).shape = s.shape := by simp [State.pipIdle]

@[simp] theorem State.pipStop_shape (s : State) (e code : Nat) : (State.pipStop s e code).shape = s.shape := by simp [State.pipStop]

@[simp] theorem State.pipHalt_shape (s : State) (e : Nat) : (State.pipHalt s e).shape = s.shape := by simp [State.pipHalt]

@[simp] theorem State.stallFor_shape (s : State) (e blk : Nat) : (State.stallFor s e blk).shape = s.shape := by simp [State.stallFor]

@[simp] theorem State.pipDo_shape (s : State) (e : Nat) (ok : Bool) (f : State → State) (h_f : ∀ s, (f s).shape = s.shape) : Keeps (State.pipDo s e ok f) s := by
  unfold State.pipDo
  refine (keeps_next _ _).mpr ?_
  repeat' split
  all_goals simp [*]

@[simp] theorem State.pipAlu_shape (s : State) (e : Nat) (w : PipFields) (lat : Nat) (op : Word → Word → Word) : Keeps (State.pipAlu s e w lat op) s := by simp [State.pipAlu]

@[simp] theorem State.pipImm_shape (s : State) (e : Nat) (w : PipFields) (op : Word → Word → Word) : Keeps (State.pipImm s e w op) s := by simp [State.pipImm]

@[simp] theorem State.pipLoad_shape (s : State) (e : Nat) (w : PipFields) (n : Nat) (sign : List Byte → Word) : Keeps (State.pipLoad s e w n sign) s := by
  unfold State.pipLoad
  refine (keeps_next _ _).mpr ?_
  repeat' (first | split | (with_reducible refine foldl_shape _ (fun _ _ => ?_) _ _) | simp)

@[simp] theorem State.pipSt_shape (s : State) (e : Nat) (w : PipFields) (n : Nat) : Keeps (State.pipSt s e w n) s := by
  unfold State.pipSt
  repeat' (first
    | with_reducible rfl
    | assumption
    | (with_reducible refine (keeps_next _ _).mpr ?_)
    | (simp [*]; done)
    | (rintro ⟨⟩)
    | split
    | (with_reducible refine shape_of_ite ?_ ?_)
    | (with_reducible refine foldl_shape _ (fun _ _ => ?_) _ _)
    | (with_reducible refine (foldl_shape _ (fun _ _ => ?_) _ _).trans ?_)
    | (with_reducible refine (foldl_snd_shape _ (fun _ _ => ?_) _ _).trans ?_)
    | (with_reducible refine (foldl_fst_shape _ (fun _ _ => ?_) _ _).trans ?_)
    | (with_reducible refine State.slot_shape _ _ _ (fun _ _ => ?_))
    | (with_reducible refine State.pipDo_shape _ _ _ _ (fun _ => ?_))
    | (with_reducible refine (State.transmit_shape _ _ _ (by assumption)).trans ?_)
    | (with_reducible refine (State.pipStore_shape _ _ _ _ (by assumption)).trans ?_)
    | (with_reducible refine (shape_of_eq (by assumption)).trans ?_)
    | (with_reducible refine (shape_of_eq' (by assumption)).trans ?_)
    | (with_reducible refine (shape_of_eq3 (by assumption)).trans ?_)
    | (with_reducible refine (shape_of_eq4 (by assumption)).trans ?_)
    | simp)

@[simp] theorem State.pipBranch_shape (s : State) (e : Nat) (w : PipFields) (op : Word → Word → Bool) : Keeps (State.pipBranch s e w op) s := by simp [State.pipBranch]

end Sys2Proof.Machine
end

