-- ==== Sys2Proof/Laws/KeepPips.lean ====
section
/-! SUPPORT. The operations of Machine/Pips.lean keep the queue and the units of the device. -/

namespace Sys2Proof.Machine

open Sys2Proof

@[simp] theorem execPipNop_shape (e : Nat) (w : PipFields) (s : State) : Keeps (execPipNop e w s) s := by simp [execPipNop]

@[simp] theorem execPipAdd_shape (e : Nat) (w : PipFields) (s : State) : Keeps (execPipAdd e w s) s := by simp [execPipAdd]

@[simp] theorem execPipSub_shape (e : Nat) (w : PipFields) (s : State) : Keeps (execPipSub e w s) s := by simp [execPipSub]

@[simp] theorem execPipAnd_shape (e : Nat) (w : PipFields) (s : State) : Keeps (execPipAnd e w s) s := by simp [execPipAnd]

@[simp] theorem execPipOr_shape (e : Nat) (w : PipFields) (s : State) : Keeps (execPipOr e w s) s := by simp [execPipOr]

@[simp] theorem execPipXor_shape (e : Nat) (w : PipFields) (s : State) : Keeps (execPipXor e w s) s := by simp [execPipXor]

@[simp] theorem execPipShl_shape (e : Nat) (w : PipFields) (s : State) : Keeps (execPipShl e w s) s := by simp [execPipShl]

@[simp] theorem execPipShr_shape (e : Nat) (w : PipFields) (s : State) : Keeps (execPipShr e w s) s := by simp [execPipShr]

@[simp] theorem execPipSar_shape (e : Nat) (w : PipFields) (s : State) : Keeps (execPipSar e w s) s := by simp [execPipSar]

@[simp] theorem execPipMul_shape (e : Nat) (w : PipFields) (s : State) : Keeps (execPipMul e w s) s := by simp [execPipMul]

@[simp] theorem execPipMin_shape (e : Nat) (w : PipFields) (s : State) : Keeps (execPipMin e w s) s := by simp [execPipMin]

@[simp] theorem execPipMax_shape (e : Nat) (w : PipFields) (s : State) : Keeps (execPipMax e w s) s := by simp [execPipMax]

@[simp] theorem execPipSlt_shape (e : Nat) (w : PipFields) (s : State) : Keeps (execPipSlt e w s) s := by simp [execPipSlt]

@[simp] theorem execPipAddi_shape (e : Nat) (w : PipFields) (s : State) : Keeps (execPipAddi e w s) s := by simp [execPipAddi]

@[simp] theorem execPipAndi_shape (e : Nat) (w : PipFields) (s : State) : Keeps (execPipAndi e w s) s := by simp [execPipAndi]

@[simp] theorem execPipOri_shape (e : Nat) (w : PipFields) (s : State) : Keeps (execPipOri e w s) s := by simp [execPipOri]

@[simp] theorem execPipShli_shape (e : Nat) (w : PipFields) (s : State) : Keeps (execPipShli e w s) s := by simp [execPipShli]

@[simp] theorem execPipShri_shape (e : Nat) (w : PipFields) (s : State) : Keeps (execPipShri e w s) s := by simp [execPipShri]

@[simp] theorem execPipSari_shape (e : Nat) (w : PipFields) (s : State) : Keeps (execPipSari e w s) s := by simp [execPipSari]

@[simp] theorem execLui_shape (e : Nat) (w : PipFields) (s : State) : Keeps (execLui e w s) s := by simp [execLui]

@[simp] theorem execPipLdw_shape (e : Nat) (w : PipFields) (s : State) : Keeps (execPipLdw e w s) s := by simp [execPipLdw]

@[simp] theorem execLdh_shape (e : Nat) (w : PipFields) (s : State) : Keeps (execLdh e w s) s := by simp [execLdh]

@[simp] theorem execLdb_shape (e : Nat) (w : PipFields) (s : State) : Keeps (execLdb e w s) s := by simp [execLdb]

@[simp] theorem execPipStw_shape (e : Nat) (w : PipFields) (s : State) : Keeps (execPipStw e w s) s := by simp [execPipStw]

@[simp] theorem execPipSth_shape (e : Nat) (w : PipFields) (s : State) : Keeps (execPipSth e w s) s := by simp [execPipSth]

@[simp] theorem execPipStb_shape (e : Nat) (w : PipFields) (s : State) : Keeps (execPipStb e w s) s := by simp [execPipStb]

@[simp] theorem execPipBeq_shape (e : Nat) (w : PipFields) (s : State) : Keeps (execPipBeq e w s) s := by simp [execPipBeq]

@[simp] theorem execPipBne_shape (e : Nat) (w : PipFields) (s : State) : Keeps (execPipBne e w s) s := by simp [execPipBne]

@[simp] theorem execPipBlt_shape (e : Nat) (w : PipFields) (s : State) : Keeps (execPipBlt e w s) s := by simp [execPipBlt]

@[simp] theorem execPipBge_shape (e : Nat) (w : PipFields) (s : State) : Keeps (execPipBge e w s) s := by simp [execPipBge]

@[simp] theorem execDbnz_shape (e : Nat) (w : PipFields) (s : State) : Keeps (execDbnz e w s) s := by simp [execDbnz]

@[simp] theorem execHalt_shape (e : Nat) (w : PipFields) (s : State) : Keeps (execHalt e w s) s := by simp [execHalt]

@[simp] theorem execIllegalOp_shape (place : OpPlace) (op : Nat) (s : State) : Keeps (execIllegalOp place op s) s := by unfold execIllegalOp; split <;> simp

@[simp] theorem execStepLimit_shape (e : Nat) (s : State) : Keeps (execStepLimit e s) s := by simp [execStepLimit]

@[simp] theorem execTimeLimit_shape (e : Nat) (s : State) : Keeps (execTimeLimit e s) s := by simp [execTimeLimit]

end Sys2Proof.Machine
end

