-- ==== Sys2Proof/Laws/KeepQueueOps.lean ====
section
/-! SUPPORT. The operations of Machine/QueueOps.lean keep the queue and the units of the device. -/

namespace Sys2Proof.Machine

open Sys2Proof

@[simp] theorem State.onQueue_shape (s : State) (c q : Nat) (f : Queue → Queue) : (State.onQueue s c q f).shape = s.shape := by simp [State.onQueue]

@[simp] theorem State.completeAs_shape (s : State) (c q : Nat) (cmd : List Byte) (seq st result : Nat) : (State.completeAs s c q cmd seq st result).shape = s.shape := by unfold State.completeAs; split <;> simp

@[simp] theorem State.complete_shape (s : State) (c q st result : Nat) : (State.complete s c q st result).shape = s.shape := by
  unfold State.complete
  repeat' split
  all_goals simp

theorem State.endQueue_shape (s : State) (x : Ctx) (q st : Nat) (each : List Byte → State → State)
    (h : ∀ cmd s, (each cmd s).shape = s.shape) (n : Nat) : (State.endQueue s x q st each n).shape = s.shape := by
  induction n generalizing s with
  | zero => rfl
  | succ n ih =>
    unfold State.endQueue
    repeat' split
    all_goals simp [ih, h]

@[simp] theorem State.refuseQueues_shape (s : State) (c st : Nat) : (State.refuseQueues s c st).shape = s.shape := by
  unfold State.refuseQueues
  split
  · exact foldl_shape _ (fun _ _ => State.endQueue_shape _ _ _ _ _ (fun _ _ => rfl) _) _ _
  · rfl

@[simp] theorem State.endJob_shape (s : State) (j how : Nat) : (State.endJob s j how).shape = s.shape := by
  unfold State.endJob
  repeat' (first
    | with_reducible rfl
    | assumption
    | (with_reducible refine (keeps_next _ _).mpr ?_)
    | (simp [*]; done)
    | (rintro ⟨⟩)
    | split
    | (with_reducible refine shape_of_ite ?_ ?_)
    | (with_reducible refine foldl_shape _ (fun _ _ => ?_) _ _)
    | (with_reducible refine (foldl_shape _ (fun _ _ => ?_) _ _).trans ?_)
    | (with_reducible refine (foldl_snd_shape _ (fun _ _ => ?_) _ _).trans ?_)
    | (with_reducible refine (foldl_fst_shape _ (fun _ _ => ?_) _ _).trans ?_)
    | (with_reducible refine State.slot_shape _ _ _ (fun _ _ => ?_))
    | (with_reducible refine State.pipDo_shape _ _ _ _ (fun _ => ?_))
    | (with_reducible refine (State.transmit_shape _ _ _ (by assumption)).trans ?_)
    | (with_reducible refine (State.pipStore_shape _ _ _ _ (by assumption)).trans ?_)
    | (with_reducible refine (shape_of_eq (by assumption)).trans ?_)
    | (with_reducible refine (shape_of_eq' (by assumption)).trans ?_)
    | (with_reducible refine (shape_of_eq3 (by assumption)).trans ?_)
    | (with_reducible refine (shape_of_eq4 (by assumption)).trans ?_)
    | simp
    | simp [pending_eq, pods_eq, clusters_eq, walkers_eq, jobs_eq, heads_eq, pips_eq, channels_eq, parties_eq, buckets_eq])

@[simp] theorem State.pauseJob_shape (s : State) (j : Nat) : (State.pauseJob s j).shape = s.shape := by
  unfold State.pauseJob
  repeat' (first
    | with_reducible rfl
    | assumption
    | (with_reducible refine (keeps_next _ _).mpr ?_)
    | (simp [*]; done)
    | (rintro ⟨⟩)
    | split
    | (with_reducible refine shape_of_ite ?_ ?_)
    | (with_reducible refine foldl_shape _ (fun _ _ => ?_) _ _)
    | (with_reducible refine (foldl_shape _ (fun _ _ => ?_) _ _).trans ?_)
    | (with_reducible refine (foldl_snd_shape _ (fun _ _ => ?_) _ _).trans ?_)
    | (with_reducible refine (foldl_fst_shape _ (fun _ _ => ?_) _ _).trans ?_)
    | (with_reducible refine State.slot_shape _ _ _ (fun _ _ => ?_))
    | (with_reducible refine State.pipDo_shape _ _ _ _ (fun _ => ?_))
    | (with_reducible refine (State.transmit_shape _ _ _ (by assumption)).trans ?_)
    | (with_reducible refine (State.pipStore_shape _ _ _ _ (by assumption)).trans ?_)
    | (with_reducible refine (shape_of_eq (by assumption)).trans ?_)
    | (with_reducible refine (shape_of_eq' (by assumption)).trans ?_)
    | (with_reducible refine (shape_of_eq3 (by assumption)).trans ?_)
    | (with_reducible refine (shape_of_eq4 (by assumption)).trans ?_)
    | simp
    | simp [pending_eq, pods_eq, clusters_eq, walkers_eq, jobs_eq, heads_eq, pips_eq, channels_eq, parties_eq, buckets_eq])

end Sys2Proof.Machine
end

