-- ==== Sys2Proof/Laws/KeepWalkers.lean ====
section
/-! SUPPORT. The operations of Machine/Walkers.lean keep the queue and the units of the device. -/

namespace Sys2Proof.Machine

open Sys2Proof

@[simp] theorem State.markOverrun_shape (s : State) (g : Nat) : (State.markOverrun s g).shape = s.shape := by
  unfold State.markOverrun
  repeat' (first | split | (with_reducible refine foldl_shape _ (fun _ _ => ?_) _ _) | simp)

@[simp] theorem State.abandonCluster_shape (s : State) (c : Nat) : (State.abandonCluster s c).shape = s.shape := by
  unfold State.abandonCluster
  repeat' (first | split | (with_reducible refine (shape_of_eq (by assumption)).trans ?_) | (with_reducible refine (foldl_shape _ (fun _ _ => ?_) _ _).trans ?_) | simp)

@[simp] theorem State.skipTiles_shape (s : State) (c : Nat) (o : WObj) (y0 : Nat) (y1 : Running) : (State.skipTiles s c o y0 y1).2.shape = s.shape := by
  induction y0 generalizing s y1
  all_goals unfold State.skipTiles
  repeat' (first
    | with_reducible rfl
    | assumption
    | (with_reducible refine (keeps_next _ _).mpr ?_)
    | simp [*]
    | (rintro ⟨⟩)
    | split)

@[simp] theorem execInstructionStart_shape (c : Nat) (s : State) : Keeps (execInstructionStart c s) s := by
  unfold execInstructionStart
  refine (keeps_next _ _).mpr ?_
  repeat' (first | split | (with_reducible refine foldl_shape _ (fun _ _ => ?_) _ _) | simp)

@[simp] theorem State.addBlock_shape (s : State) (seg : Nat) (r : Running) (x : BlockRun) (accs : List Accum) : (State.addBlock s seg r x accs).2.shape = s.shape := by simp [State.addBlock]

@[simp] theorem State.vectorAcc_shape (s : State) (c : Nat) (r : Running) (o : WObj) (t : Tile) (b : Nat) : (State.vectorAcc s c r o t b).2.2.2.shape = s.shape := by
  unfold State.vectorAcc
  repeat' (first
    | with_reducible rfl
    | assumption
    | (with_reducible refine (keeps_next _ _).mpr ?_)
    | (simp [*]; done)
    | (rintro ⟨⟩)
    | split
    | (with_reducible refine shape_of_ite ?_ ?_)
    | (with_reducible refine foldl_shape _ (fun _ _ => ?_) _ _)
    | (with_reducible refine (foldl_shape _ (fun _ _ => ?_) _ _).trans ?_)
    | (with_reducible refine (foldl_snd_shape _ (fun _ _ => ?_) _ _).trans ?_)
    | (with_reducible refine (foldl_fst_shape _ (fun _ _ => ?_) _ _).trans ?_)
    | (with_reducible refine State.slot_shape _ _ _ (fun _ _ => ?_))
    | (with_reducible refine State.pipDo_shape _ _ _ _ (fun _ => ?_))
    | (with_reducible refine (State.transmit_shape _ _ _ (by assumption)).trans ?_)
    | (with_reducible refine (State.pipStore_shape _ _ _ _ (by assumption)).trans ?_)
    | (with_reducible refine (shape_of_eq (by assumption)).trans ?_)
    | (with_reducible refine (shape_of_eq' (by assumption)).trans ?_)
    | (with_reducible refine (shape_of_eq3 (by assumption)).trans ?_)
    | (with_reducible refine (shape_of_eq4 (by assumption)).trans ?_)
    | simp)

@[simp] theorem State.tileAccs_shape (s : State) (c : Nat) (r : Running) (o : WObj) (t : Tile) (y0 : Nat) : (State.tileAccs s c r o t y0).2.2.2.shape = s.shape := by
  induction y0 generalizing s
  all_goals unfold State.tileAccs
  repeat' (first
    | with_reducible rfl
    | assumption
    | (with_reducible refine (keeps_next _ _).mpr ?_)
    | simp [*])

@[simp] theorem State.fill_shape (s : State) (c p desc : Nat) (d : List Byte) (t : Tile) (n : Nat) (planned ahead : Bool) (ecc : Ecc) :
    (State.fill s c p desc d t n planned ahead ecc).shape = s.shape := by simp [State.fill]

@[simp] theorem State.stow_shape (s : State) (c a stride : Nat) (xs : List (List Byte × Bool)) : (State.stow s c a stride xs).shape = s.shape := by
  unfold State.stow
  repeat' (first | with_reducible rfl | assumption | (with_reducible refine (keeps_next _ _).mpr ?_) | simp [*])

@[simp] theorem State.runAhead_shape (s : State) (c : Nat) (planned : Bool) (ecc : Ecc) :
    (State.runAhead s c planned ecc).shape = s.shape := by
  unfold State.runAhead
  repeat' (first | with_reducible rfl | split | dsimp only | simp)

@[simp] theorem State.takeAhead_shape (s : State) (c : Nat) (r : Running) : (State.takeAhead s c r).2.shape = s.shape := by
  unfold State.takeAhead
  repeat' (first | with_reducible rfl | split | simp)

@[simp] theorem State.aheadLost_shape (s : State) (c j n : Nat) : (State.aheadLost s c j n).shape = s.shape :=
  foldl_shape _ (fun t a => by simp) _ _

@[simp] theorem State.notePeak_shape (s : State) (ctx : Nat) : (State.notePeak s ctx).shape = s.shape := by
  unfold State.notePeak
  repeat' (first
    | with_reducible rfl
    | assumption
    | (with_reducible refine (keeps_next _ _).mpr ?_)
    | simp [*]
    | (rintro ⟨⟩)
    | split)

@[simp] theorem State.commitTile_shape (s : State) (c : Nat) (r : Running) (o : WObj) (t : Tile) (planned : Bool) (ecc : Ecc) : (State.commitTile s c r o t planned ecc).shape = s.shape := by
  unfold State.commitTile
  dsimp only
  split <;> simp

@[simp] theorem State.commitPlanned_shape (s : State) (c : Nat) (r : Running) (ecc : Ecc) : (State.commitPlanned s c r ecc).shape = s.shape := by
  unfold State.commitPlanned
  repeat' split
  all_goals simp

@[simp] theorem State.clearCluster_shape (s : State) (c : Nat) : (State.clearCluster s c).shape = s.shape := by simp [State.clearCluster]

@[simp] theorem State.pooledLen_shape (s : State) (c j : Nat) : (State.pooledLen s c j).2.shape = s.shape := by
  unfold State.pooledLen
  repeat' (first | split | simp)

@[simp] theorem State.commitPooled_shape (s : State) (c j : Nat) (ecc : Ecc) : (State.commitPooled s c j ecc).shape = s.shape := by
  unfold State.commitPooled
  repeat' (first | split | (with_reducible refine foldl_shape _ (fun _ _ => ?_) _ _) | simp)

@[simp] theorem execTileCommit_shape (c : Nat) (ecc : Ecc) (s : State) : Keeps (execTileCommit c ecc s) s := by
  unfold execTileCommit
  refine (keeps_next _ _).mpr ?_
  repeat' (first | split | (with_reducible refine foldl_shape _ (fun _ _ => ?_) _ _) | simp)

@[simp] theorem State.writeTile_shape (s : State) (c : Nat) (o : WObj) (r : Running) (t : Tile) (ups : List (Nat × Nat × Nat × Int)) : (State.writeTile s c o r t ups).shape = s.shape := by
  unfold State.writeTile
  repeat' (first | split | (with_reducible refine foldl_shape _ (fun _ _ => ?_) _ _) | simp)

@[simp] theorem State.notePooled_shape (s : State) (c : Nat) (r : Running) (t : Tile) : (State.notePooled s c r t).shape = s.shape := by simp [State.notePooled]

@[simp] theorem execTileComplete_shape (c : Nat) (ups : List (Nat × Nat × Nat × Int)) (s : State) : Keeps (execTileComplete c ups s) s := by
  unfold execTileComplete
  refine (keeps_next _ _).mpr ?_
  repeat' (first | split | (with_reducible refine foldl_shape _ (fun _ _ => ?_) _ _) | simp)

@[simp] theorem State.finishInstruction_shape (s : State) (c : Nat) (r : Running) : (State.finishInstruction s c r).shape = s.shape := by simp [State.finishInstruction]

@[simp] theorem execMacroInstructionComplete_shape (c : Nat) (s : State) : Keeps (execMacroInstructionComplete c s) s := by
  unfold execMacroInstructionComplete
  refine (keeps_next _ _).mpr ?_
  repeat' (first | split | (with_reducible refine foldl_shape _ (fun _ _ => ?_) _ _) | simp)

end Sys2Proof.Machine
end

