-- ==== Sys2Proof/Laws/KeepService.lean ====
section
/-! SUPPORT. The operations of Machine/Service.lean keep the queue and the units of the device. -/

namespace Sys2Proof.Machine

open Sys2Proof

@[simp] theorem State.traceOd_shape (s : State) (r : Req) (k st : Nat) : (State.traceOd s r k st).shape = s.shape := by simp [State.traceOd]

@[simp] theorem State.usdoOut_shape (s : State) (node abort : Nat) (data : List Byte) : (State.usdoOut s node abort data).shape = s.shape := by
  unfold State.usdoOut
  repeat' (first | with_reducible rfl | assumption | (with_reducible refine (keeps_next _ _).mpr ?_) | simp [*])

@[simp] theorem State.usdoEnd_shape (s : State) (r : Req) (index st : Nat) (data : List Byte) : (State.usdoEnd s r index st data).shape = s.shape := by simp [State.usdoEnd]

@[simp] theorem State.usdoValue_shape (s : State) (r : Req) (index sub st : Nat) (data : List Byte) : (State.usdoValue s r index sub st data).shape = s.shape := by
  unfold State.usdoValue
  repeat' (first | with_reducible rfl | assumption | (with_reducible refine (keeps_next _ _).mpr ?_) | simp [*])

@[simp] theorem State.wrote_shape (s : State) (r : Req) (k st : Nat) : (State.wrote s r k st).shape = s.shape := by simp [State.wrote]

@[simp] theorem State.readAnswer_shape (s : State) (r : Req) (index sub offset st : Nat) (data : List Byte) : (State.readAnswer s r index sub offset st data).shape = s.shape := by simp [State.readAnswer]

@[simp] theorem State.beginCommit_shape (s : State) (r : Req) (key v : Nat) : (State.beginCommit s r key v).shape = s.shape := by simp [State.beginCommit]

@[simp] theorem State.beginDomCommit_shape (s : State) (r : Req) (key : Nat) (v : List Byte) : (State.beginDomCommit s r key v).shape = s.shape := by simp [State.beginDomCommit]

@[simp] theorem State.storeValue_shape (s : State) (r : Req) (row : OdRow) (index sub v : Nat) : (State.storeValue s r row index sub v).shape = s.shape := by simp [State.storeValue]

@[simp] theorem State.setting_shape (s : State) (r : Req) (index sub v own : Nat) : (State.setting s r index sub v own).shape = s.shape := by
  unfold State.setting
  repeat' split
  all_goals simp

@[simp] theorem State.ordered_shape (s : State) (r : Req) (index sub v own : Nat) (eff : State → State) (h_eff : ∀ s, (eff s).shape = s.shape) : (State.ordered s r index sub v own eff).shape = s.shape := by
  unfold State.ordered
  repeat' split
  all_goals simp [*]

@[simp] theorem State.orderBytes_shape (s : State) (r : Req) (index sub len own : Nat) (eff : State → State) (h_eff : ∀ s, (eff s).shape = s.shape) : (State.orderBytes s r index sub len own eff).shape = s.shape := by
  unfold State.orderBytes
  repeat' split
  all_goals simp [*]

@[simp] theorem State.storeBytes_shape (s : State) (r : Req) (index sub : Nat) (data : List Byte) : (State.storeBytes s r index sub data).shape = s.shape := by unfold State.storeBytes; split <;> simp

@[simp] theorem State.pauseEntry_shape (s : State) (r : Req) (j v : Nat) : (State.pauseEntry s r j v).shape = s.shape := by simp [State.pauseEntry]

end Sys2Proof.Machine
end

