-- ==== Sys2Proof/Laws/KeepCalib.lean ====
section
/-! SUPPORT. The operations of Machine/Calib.lean keep the queue and the units of the device. -/

namespace Sys2Proof.Machine

open Sys2Proof

@[simp] theorem State.onCal_shape (s : State) (f : Cal → Cal) : (State.onCal s f).shape = s.shape := by simp [State.onCal]

@[simp] theorem State.setTarget_shape (s : State) (k : Nat) (v : Int) : (State.setTarget s k v).shape = s.shape := by simp [State.setTarget]

@[simp] theorem State.calUnstable_shape (s : State) (unit : Nat) : (State.calUnstable s unit).shape = s.shape := by simp [State.calUnstable]

@[simp] theorem State.stageRamps_shape (s : State) : (State.stageRamps s).shape = s.shape := by simp [State.stageRamps]

@[simp] theorem State.stopRamps_shape (s : State) (unit : Nat) : (State.stopRamps s unit).shape = s.shape := by simp [State.stopRamps]

@[simp] theorem State.applyTrims_shape (s : State) : (State.applyTrims s).shape = s.shape := by simp [State.applyTrims]

@[simp] theorem State.showQuality_shape (s : State) (pod : Nat) : (State.showQuality s pod).shape = s.shape := by
  unfold State.showQuality
  repeat' (first | with_reducible rfl | assumption | (with_reducible refine (keeps_next _ _).mpr ?_) | simp [*])

@[simp] theorem State.limitCheck_shape (s : State) (pod : Nat) : (State.limitCheck s pod).shape = s.shape := by
  unfold State.limitCheck
  repeat' (first
    | with_reducible rfl
    | assumption
    | (with_reducible refine (keeps_next _ _).mpr ?_)
    | (simp [*]; done)
    | (rintro ⟨⟩)
    | split
    | (with_reducible refine shape_of_ite ?_ ?_)
    | (with_reducible refine foldl_shape _ (fun _ _ => ?_) _ _)
    | (with_reducible refine (foldl_shape _ (fun _ _ => ?_) _ _).trans ?_))

@[simp] theorem State.podTargets_shape (s : State) (pod : Nat) : (State.podTargets s pod).shape = s.shape := by
  unfold State.podTargets
  repeat' (first | split | (with_reducible refine foldl_shape _ (fun _ _ => ?_) _ _) | simp)

@[simp] theorem State.powerSpare_shape (s : State) (pod : Nat) : (State.powerSpare s pod).shape = s.shape := by simp [State.powerSpare]

@[simp] theorem State.beginCal_shape (s : State) (pod : Nat) : (State.beginCal s pod).shape = s.shape := by simp [State.beginCal]

@[simp] theorem State.newResid_shape (s : State) (pod : Nat) : (State.newResid s pod).shape = s.shape := by simp [State.newResid]

@[simp] theorem State.endCal_shape (s : State) (pod : Nat) (base offs : List Int) (refs : List Nat) : (State.endCal s pod base offs refs).shape = s.shape := by
  unfold State.endCal
  repeat' (first
    | with_reducible rfl
    | assumption
    | (with_reducible refine (keeps_next _ _).mpr ?_)
    | (simp [*]; done)
    | (rintro ⟨⟩)
    | split
    | (with_reducible refine shape_of_ite ?_ ?_)
    | (with_reducible refine foldl_shape _ (fun _ _ => ?_) _ _)
    | (with_reducible refine (foldl_shape _ (fun _ _ => ?_) _ _).trans ?_))

@[simp] theorem State.endCalUnstable_shape (s : State) (pod : Nat) : (State.endCalUnstable s pod).shape = s.shape := by simp [State.endCalUnstable]

@[simp] theorem State.verifySpare_shape (s : State) : (State.verifySpare s).shape = s.shape := by
  unfold State.verifySpare
  repeat' (first | split | simp)

@[simp] theorem State.moveDrift_shape (s : State) (pod rho : Nat) : (State.moveDrift s pod rho).shape = s.shape := by simp [State.moveDrift]

@[simp] theorem execDriftRatio_shape (pod : Nat) (s : State) : Keeps (execDriftRatio pod s) s := by
  unfold execDriftRatio
  repeat' (first | split | simp)

@[simp] theorem State.calibrateOrder_shape (s : State) (r : Req) (pod v : Nat) : (State.calibrateOrder s r pod v).shape = s.shape := by simp [State.calibrateOrder]

@[simp] theorem execCalibrateNow_shape (r : Req) (pod v : Nat) (s : State) : Keeps (execCalibrateNow r pod v s) s := by simp [execCalibrateNow]

@[simp] theorem execAfeCalDue_shape (i : Nat) (s : State) : Keeps (execAfeCalDue i s) s := by
  unfold execAfeCalDue
  refine (keeps_next _ _).mpr ?_
  repeat' (first | split | (with_reducible refine foldl_shape _ (fun _ _ => ?_) _ _) | simp)

@[simp] theorem State.staleAfes_shape (s : State) : (State.staleAfes s).shape = s.shape := by
  unfold State.staleAfes
  repeat' (first | split | (with_reducible refine foldl_shape _ (fun _ _ => ?_) _ _) | simp)

@[simp] theorem State.afeCalibrateOrder_shape (s : State) (r : Req) (i v : Nat) : (State.afeCalibrateOrder s r i v).shape = s.shape := by simp [State.afeCalibrateOrder]

@[simp] theorem execAfeCalibrateNow_shape (r : Req) (i v : Nat) (s : State) : Keeps (execAfeCalibrateNow r i v s) s := by simp [execAfeCalibrateNow]

@[simp] theorem State.notQuiet_shape (s : State) (i : Nat) : (State.notQuiet s i).shape = s.shape := by simp [State.notQuiet]

@[simp] theorem State.detect_shape (s : State) (i from_ to_ : Nat) : (State.detect s i from_ to_).2.shape = s.shape := by
  unfold State.detect
  repeat' (first
    | with_reducible rfl
    | assumption
    | (with_reducible refine (keeps_next _ _).mpr ?_)
    | (simp [*]; done)
    | (rintro ⟨⟩)
    | split
    | (with_reducible refine shape_of_ite ?_ ?_)
    | (with_reducible refine foldl_shape _ (fun _ _ => ?_) _ _)
    | (with_reducible refine (foldl_shape _ (fun _ _ => ?_) _ _).trans ?_)
    | (with_reducible refine (foldl_snd_shape _ (fun _ _ => ?_) _ _).trans ?_)
    | (with_reducible refine (foldl_fst_shape _ (fun _ _ => ?_) _ _).trans ?_)
    | (with_reducible refine (State.ordered_shape _ _ _ _ _ _ _ (fun _ => ?_)).trans ?_)
    | (with_reducible refine (State.orderBytes_shape _ _ _ _ _ _ _ (fun _ => ?_)).trans ?_)
    | (with_reducible refine (State.command_shape _ _ _ _ _ (fun _ _ => ?_)).trans ?_)
    | (with_reducible refine (State.sealedWrite_shape _ _ _ _ _ _ _ (fun _ => ?_)).trans ?_)
    | (with_reducible refine (State.transmit_shape _ _ _ (by assumption)).trans ?_)
    | (with_reducible refine (State.pipStore_shape _ _ _ _ (by assumption)).trans ?_)
    | (with_reducible refine (shape_of_eq (by assumption)).trans ?_)
    | (with_reducible refine (shape_of_eq' (by assumption)).trans ?_)
    | (with_reducible refine (shape_of_eq3 (by assumption)).trans ?_)
    | (with_reducible refine (shape_of_eq4 (by assumption)).trans ?_)
    | simp)

@[simp] theorem State.readQuiet_shape (s : State) (i from_ to_ : Nat) : (State.readQuiet s i from_ to_).2.shape = s.shape := by
  unfold State.readQuiet
  repeat' (first | with_reducible rfl | assumption | (with_reducible refine (keeps_next _ _).mpr ?_) | simp [*])

@[simp] theorem State.evalAfe_shape (s : State) (i : Nat) : (State.evalAfe s i).shape = s.shape := by simp [State.evalAfe]

@[simp] theorem State.evalAfes_shape (s : State) : (State.evalAfes s).shape = s.shape := by
  unfold State.evalAfes
  repeat' (first | split | (with_reducible refine foldl_shape _ (fun _ _ => ?_) _ _) | simp)

@[simp] theorem State.endAfe_shape (s : State) : (State.endAfe s).shape = s.shape := by unfold State.endAfe; split <;> simp

@[simp] theorem State.acceptAfe_shape (s : State) (x : AfeCal) (offRes gainRes : Int) : (State.acceptAfe s x offRes gainRes).shape = s.shape := by unfold State.acceptAfe; split <;> simp

@[simp] theorem State.afeBoundary_shape (s : State) : (State.afeBoundary s).shape = s.shape := by
  unfold State.afeBoundary
  repeat' (first | split | simp)

@[simp] theorem State.noteOvr_shape (s : State) (i t : Nat) : (State.noteOvr s i t).shape = s.shape := by simp [State.noteOvr]

@[simp] theorem execAfeCalStep_shape (a b : Int) (s : State) : Keeps (execAfeCalStep a b s) s := by unfold execAfeCalStep; refine (keeps_next _ _).mpr ?_; split <;> simp

@[simp] theorem execAfeCalEnd_shape (offRes gainRes : Int) (s : State) : Keeps (execAfeCalEnd offRes gainRes s) s := by
  unfold execAfeCalEnd
  repeat' (first
    | with_reducible rfl
    | assumption
    | (with_reducible refine (keeps_next _ _).mpr ?_)
    | (simp [*]; done)
    | (rintro ⟨⟩)
    | split)

@[simp] theorem State.compTarget_shape (s : State) (unit : Nat) : (State.compTarget s unit).shape = s.shape := by simp [State.compTarget]

@[simp] theorem State.recalibrate_shape (s : State) (unit : Nat) (a b : Int) (step : Nat) : (State.recalibrate s unit a b step).shape = s.shape := by simp [State.recalibrate]

@[simp] theorem State.measured_shape (s : State) (unit key tol step : Nat) (pairs : List (Int × Int)) : (State.measured s unit key tol step pairs).shape = s.shape := by unfold State.measured; split <;> simp

@[simp] theorem execReferenceMeasure_shape (u : Nat) (pairs : List (Int × Int)) (s : State) : Keeps (execReferenceMeasure u pairs s) s := by simp [execReferenceMeasure]

@[simp] theorem execOscillatorTrim_shape (pairs : List (Int × Int)) (s : State) : Keeps (execOscillatorTrim pairs s) s := by simp [execOscillatorTrim]

@[simp] theorem execCompensationEval_shape (s : State) : Keeps (execCompensationEval s) s := by
  unfold execCompensationEval
  refine (keeps_next _ _).mpr ?_
  repeat' (first | split | (with_reducible refine foldl_shape _ (fun _ _ => ?_) _ _) | simp)

@[simp] theorem State.restoreBank_shape (s : State) (unit : Nat) (d : List Byte) : (State.restoreBank s unit d).shape = s.shape := by
  unfold State.restoreBank
  repeat' (first | split | (with_reducible refine (shape_of_eq (by assumption)).trans ?_) | (with_reducible refine (foldl_shape _ (fun _ _ => ?_) _ _).trans ?_) | simp)

@[simp] theorem State.trimRestoreOrder_shape (s : State) (r : Req) (unit : Nat) (data : List Byte) : (State.trimRestoreOrder s r unit data).shape = s.shape := by simp [State.trimRestoreOrder]

@[simp] theorem execTrimRestore_shape (r : Req) (unit : Nat) (data : List Byte) (s : State) : Keeps (execTrimRestore r unit data s) s := by simp [execTrimRestore]

@[simp] theorem State.sproutDrift_shape (s : State) (pod : Nat) : (State.sproutDrift s pod).shape = s.shape := by
  unfold State.sproutDrift
  repeat' (first | split | simp)

@[simp] theorem State.loadTrims_shape (s : State) : (State.loadTrims s).shape = s.shape := by
  unfold State.loadTrims
  repeat' (first | split | (with_reducible refine (shape_of_eq (by assumption)).trans ?_) | (with_reducible refine (foldl_shape _ (fun _ _ => ?_) _ _).trans ?_) | simp)

/-- The root is the greatest number whose square is at most n. -/
theorem isqrt_spec (k : Nat) : ∀ n, n < 4 ^ k →
    isqrt k n * isqrt k n ≤ n ∧ n < (isqrt k n + 1) * (isqrt k n + 1) := by
  induction k with
  | zero => intro n h; simp only [isqrt]; omega
  | succ k ih =>
    intro n h
    obtain ⟨lo, hi⟩ := ih (n / 4) (by rw [Nat.pow_succ] at h; omega)
    simp only [isqrt]
    generalize isqrt k (n / 4) = r at lo hi ⊢
    have low : 2 * r * (2 * r) = 4 * (r * r) := by ring
    have high : (2 * r + 1 + 1) * (2 * r + 1 + 1) = 4 * ((r + 1) * (r + 1)) := by ring
    split <;> omega

end Sys2Proof.Machine
end

