-- ==== Sys2Proof/Laws/KeepRotation.lean ====
section
/-! SUPPORT. The operations of Machine/Rotation.lean keep the queue and the units of the device. -/

namespace Sys2Proof.Machine

open Sys2Proof

@[simp] theorem State.countImages_shape (s : State) (c slot key : Nat) : (State.countImages s c slot key).shape = s.shape :=
  foldl_shape _ (fun _ _ => State.bumpFor_shape _ _ _ _) _ _

@[simp] theorem State.suspendRotation_shape (s : State) (c : Nat) : (State.suspendRotation s c).shape = s.shape := by simp [State.suspendRotation]
@[simp] theorem State.stopProgram_shape (s : State) : (State.stopProgram s).shape = s.shape := by simp [State.stopProgram]

@[simp] theorem State.beginProgram_shape (s : State) (pod slot : Nat) (fresh : Bool) (hash : Nat) : (State.beginProgram s pod slot fresh hash).shape = s.shape := by simp [State.beginProgram]

@[simp] theorem State.claimSpare_shape (s : State) (c : Nat) : (State.claimSpare s c).shape = s.shape := by unfold State.claimSpare; split <;> simp

@[simp] theorem State.pickProgram_shape (s : State) : (State.pickProgram s).shape = s.shape := by
  unfold State.pickProgram
  repeat' (first | split | (with_reducible refine foldl_shape _ (fun _ _ => ?_) _ _) | simp)

@[simp] theorem State.writeContent_shape (s : State) (pod : Nat) : (State.writeContent s pod).shape = s.shape := by unfold State.writeContent; split <;> simp

@[simp] theorem State.programPassed_shape (s : State) (pod : Nat) : (State.programPassed s pod).shape = s.shape := by simp [State.programPassed]

@[simp] theorem State.programFailed_shape (s : State) (pod batch : Nat) : (State.programFailed s pod batch).shape = s.shape := by simp [State.programFailed]

@[simp] theorem execProgramComplete_shape (pass : Bool) (compensated : Nat) (s : State) : Keeps (execProgramComplete pass compensated s) s := by simp [execProgramComplete]

@[simp] theorem State.startDues_shape (s : State) : (State.startDues s).shape = s.shape := by simp [State.startDues]

@[simp] theorem State.intervalChange_shape (s : State) (old : Nat) : (State.intervalChange s old).shape = s.shape := by simp [State.intervalChange]

@[simp] theorem execSwapDue_shape (c : Nat) (s : State) : Keeps (execSwapDue c s) s := by unfold execSwapDue; refine (keeps_next _ _).mpr ?_; split <;> simp

@[simp] theorem execRotationIntervalWrite_shape (r : Req) (v : Nat) (s : State) : Keeps (execRotationIntervalWrite r v s) s := by simp [execRotationIntervalWrite]

@[simp] theorem State.rotateNowOrder_shape (s : State) (r : Req) (c v : Nat) : (State.rotateNowOrder s r c v).shape = s.shape := by simp [State.rotateNowOrder]

@[simp] theorem execRotateNow_shape (r : Req) (c v : Nat) (s : State) : Keeps (execRotateNow r c v s) s := by simp [execRotateNow]

@[simp] theorem State.stageSwap_shape (s : State) (c slot : Nat) : (State.stageSwap s c slot).shape = s.shape := by
  unfold State.stageSwap
  repeat' (first
    | with_reducible rfl
    | assumption
    | (with_reducible refine (keeps_next _ _).mpr ?_)
    | (simp [*]; done)
    | (rintro ⟨⟩)
    | split)

@[simp] theorem State.stageSwaps_shape (s : State) : (State.stageSwaps s).shape = s.shape := by
  unfold State.stageSwaps
  repeat' (first | split | (with_reducible refine (shape_of_eq (by assumption)).trans ?_) | (with_reducible refine (foldl_shape _ (fun _ _ => ?_) _ _).trans ?_) | simp)

@[simp] theorem State.doSwap_shape (s : State) (c slot : Nat) : (State.doSwap s c slot).shape = s.shape := by unfold State.doSwap; split <;> simp

@[simp] theorem State.doSwaps_shape (s : State) : (State.doSwaps s).shape = s.shape := by
  unfold State.doSwaps
  repeat' (first | split | (with_reducible refine foldl_shape _ (fun _ _ => ?_) _ _) | simp)

@[simp] theorem State.spareGate_shape (s : State) (c : Nat) : (State.spareGate s c).shape = s.shape := by
  unfold State.spareGate
  repeat' (first
    | with_reducible rfl
    | assumption
    | (with_reducible refine (keeps_next _ _).mpr ?_)
    | (simp [*]; done)
    | (rintro ⟨⟩)
    | split
    | (with_reducible refine shape_of_ite ?_ ?_)
    | (with_reducible refine foldl_shape _ (fun _ _ => ?_) _ _)
    | (with_reducible refine (foldl_shape _ (fun _ _ => ?_) _ _).trans ?_)
    | (with_reducible refine (foldl_snd_shape _ (fun _ _ => ?_) _ _).trans ?_)
    | (with_reducible refine (foldl_fst_shape _ (fun _ _ => ?_) _ _).trans ?_)
    | (with_reducible refine (State.ordered_shape _ _ _ _ _ _ _ (fun _ => ?_)).trans ?_)
    | (with_reducible refine (State.orderBytes_shape _ _ _ _ _ _ _ (fun _ => ?_)).trans ?_)
    | (with_reducible refine (State.command_shape _ _ _ _ _ (fun _ _ => ?_)).trans ?_)
    | (with_reducible refine (State.sealedWrite_shape _ _ _ _ _ _ _ (fun _ => ?_)).trans ?_)
    | (with_reducible refine (State.transmit_shape _ _ _ (by assumption)).trans ?_)
    | (with_reducible refine (State.pipStore_shape _ _ _ _ (by assumption)).trans ?_)
    | (with_reducible refine (shape_of_eq (by assumption)).trans ?_)
    | (with_reducible refine (shape_of_eq' (by assumption)).trans ?_)
    | (with_reducible refine (shape_of_eq3 (by assumption)).trans ?_)
    | (with_reducible refine (shape_of_eq4 (by assumption)).trans ?_)
    | simp)

@[simp] theorem State.driftVisit_shape (s : State) : (State.driftVisit s).shape = s.shape := by
  unfold State.driftVisit
  repeat' (first | split | (with_reducible refine foldl_shape _ (fun _ _ => ?_) _ _) | simp)

@[simp] theorem State.rotationSlice_shape (s : State) (a b : CalMeas) (refs : List Nat) : (State.rotationSlice s a b refs).shape = s.shape := by
  unfold State.rotationSlice
  repeat' (first | split | (with_reducible refine foldl_shape _ (fun _ _ => ?_) _ _) | simp)

@[simp] theorem State.planLifts_shape (s : State) : (State.planLifts s).shape = s.shape := by
  unfold State.planLifts
  repeat' (first | split | (with_reducible refine foldl_shape _ (fun _ _ => ?_) _ _) | simp)

@[simp] theorem execLift_shape (c : Nat) (s : State) : Keeps (execLift c s) s := by
  unfold execLift
  refine (keeps_next _ _).mpr ?_
  repeat' split
  all_goals simp

@[simp] theorem State.dropLift_shape (s : State) (c sl : Nat) : (State.dropLift s c sl).shape = s.shape := by simp [State.dropLift]

@[simp] theorem State.dropLifts_shape (s : State) (c : Nat) : (State.dropLifts s c).shape = s.shape := by
  unfold State.dropLifts
  repeat' (first | split | (with_reducible refine foldl_shape _ (fun _ _ => ?_) _ _) | simp)

@[simp] theorem execLiftEnd_shape (c : Nat) (errs : List (Nat × Nat × Int)) (s : State) : Keeps (execLiftEnd c errs s) s := by
  unfold execLiftEnd
  repeat' (first
    | with_reducible rfl
    | assumption
    | (with_reducible refine (keeps_next _ _).mpr ?_)
    | (simp [*]; done)
    | (rintro ⟨⟩)
    | split
    | (with_reducible refine shape_of_ite ?_ ?_)
    | (with_reducible refine foldl_shape _ (fun _ _ => ?_) _ _)
    | (with_reducible refine (foldl_shape _ (fun _ _ => ?_) _ _).trans ?_)
    | (with_reducible refine (foldl_snd_shape _ (fun _ _ => ?_) _ _).trans ?_)
    | (with_reducible refine (foldl_fst_shape _ (fun _ _ => ?_) _ _).trans ?_)
    | (with_reducible refine (State.ordered_shape _ _ _ _ _ _ _ (fun _ => ?_)).trans ?_)
    | (with_reducible refine (State.orderBytes_shape _ _ _ _ _ _ _ (fun _ => ?_)).trans ?_)
    | (with_reducible refine (State.command_shape _ _ _ _ _ (fun _ _ => ?_)).trans ?_)
    | (with_reducible refine (State.sealedWrite_shape _ _ _ _ _ _ _ (fun _ => ?_)).trans ?_)
    | (with_reducible refine (State.transmit_shape _ _ _ (by assumption)).trans ?_)
    | (with_reducible refine (State.pipStore_shape _ _ _ _ (by assumption)).trans ?_)
    | (with_reducible refine (shape_of_eq (by assumption)).trans ?_)
    | (with_reducible refine (shape_of_eq' (by assumption)).trans ?_)
    | (with_reducible refine (shape_of_eq3 (by assumption)).trans ?_)
    | (with_reducible refine (shape_of_eq4 (by assumption)).trans ?_)
    | simp)

@[simp] theorem execSetDownCheck_shape (c : Nat) (errs : List (Nat × Nat × Int)) (s : State) : Keeps (execSetDownCheck c errs s) s := by
  unfold execSetDownCheck
  repeat' (first | split | simp)

@[simp] theorem State.landSlot_shape (s : State) (c sl : Nat) : (State.landSlot s c sl).shape = s.shape := by
  unfold State.landSlot
  repeat' (first | with_reducible rfl | assumption | (with_reducible refine (keeps_next _ _).mpr ?_) | simp [*])

@[simp] theorem State.landImages_shape (s : State) : (State.landImages s).shape = s.shape := by
  unfold State.landImages
  repeat' (first | split | (with_reducible refine foldl_shape _ (fun _ _ => ?_) _ _) | simp)

@[simp] theorem State.retiredSources_shape (s : State) : (State.retiredSources s).shape = s.shape := by
  unfold State.retiredSources
  repeat' (first | split | (with_reducible refine foldl_shape _ (fun _ _ => ?_) _ _) | simp)

@[simp] theorem execFetchSlot_shape (c : Nat) (errs : List (Nat × Nat × Int)) (s : State) : Keeps (execFetchSlot c errs s) s := by
  unfold execFetchSlot
  repeat' (first | split | simp)

@[simp] theorem State.endStall_shape (s : State) (e : Nat) : (State.endStall s e).shape = s.shape := by
  unfold State.endStall
  repeat' (first | with_reducible rfl | assumption | (with_reducible refine (keeps_next _ _).mpr ?_) | simp [*])

@[simp] theorem execFetchDelivered_shape (c : Nat) (s : State) : Keeps (execFetchDelivered c s) s := by
  unfold execFetchDelivered
  repeat' (first
    | with_reducible rfl
    | assumption
    | (with_reducible refine (keeps_next _ _).mpr ?_)
    | (simp [*]; done)
    | (rintro ⟨⟩)
    | split
    | (with_reducible refine shape_of_ite ?_ ?_))

end Sys2Proof.Machine
end

