-- ==== Sys2Proof/Laws/KeepContexts.lean ====
section
/-! SUPPORT. The operations of Machine/Contexts.lean keep the queue and the units of the device. -/

namespace Sys2Proof.Machine

open Sys2Proof

@[simp] theorem State.giveTokens_shape (s : State) (c : Nat) (vps : List Nat) : (State.giveTokens s c vps).shape = s.shape := by
  unfold State.giveTokens
  repeat' (first | split | (with_reducible refine foldl_shape _ (fun _ _ => ?_) _ _) | simp)

@[simp] theorem State.zeroPages_shape (s : State) (ps : List Nat) : (State.zeroPages s ps).shape = s.shape := by simp [State.zeroPages]

@[simp] theorem State.addCtx_shape (s : State) (c : Ctx) : (State.addCtx s c).shape = s.shape := by simp [State.addCtx]

@[simp] theorem State.trimShare_shape (s : State) (p : Nat) : (State.trimShare s p).shape = s.shape := by
  unfold State.trimShare
  repeat' (first
    | with_reducible rfl
    | assumption
    | (with_reducible refine (keeps_next _ _).mpr ?_)
    | (simp [*]; done)
    | (rintro ⟨⟩)
    | split
    | (with_reducible refine shape_of_ite ?_ ?_)
    | (with_reducible refine foldl_shape _ (fun _ _ => ?_) _ _))

@[simp] theorem State.reshare_shape (s : State) : (State.reshare s).shape = s.shape := by
  unfold State.reshare
  repeat' (first
    | with_reducible rfl
    | assumption
    | (with_reducible refine (keeps_next _ _).mpr ?_)
    | (simp [*]; done)
    | (rintro ⟨⟩)
    | split
    | (with_reducible refine shape_of_ite ?_ ?_)
    | (with_reducible refine foldl_shape _ (fun _ _ => ?_) _ _)
    | (with_reducible refine (foldl_shape _ (fun _ _ => ?_) _ _).trans ?_))

@[simp] theorem State.bringIn_shape (s : State) (p c : Nat) : (State.bringIn s p c).shape = s.shape := by
  unfold State.bringIn
  repeat' (first
    | with_reducible rfl
    | assumption
    | (with_reducible refine (keeps_next _ _).mpr ?_)
    | (simp [*]; done)
    | (rintro ⟨⟩)
    | split
    | (with_reducible refine shape_of_ite ?_ ?_))

@[simp] theorem State.residencyChange_shape (s : State) (p : Nat) : (State.residencyChange s p).shape = s.shape := by
  unfold State.residencyChange
  repeat' (first | split | (with_reducible refine foldl_shape _ (fun _ _ => ?_) _ _) | simp)

@[simp] theorem State.awaitResidency_shape (s : State) (p c : Nat) : (State.awaitResidency s p c).shape = s.shape := by simp [State.awaitResidency]

@[simp] theorem State.touch_shape (s : State) (c : Nat) : (State.touch s c).shape = s.shape := by simp [State.touch]

@[simp] theorem State.createRoot_shape (s : State) (p : Nat) : (State.createRoot s p).shape = s.shape := by simp [State.createRoot]

@[simp] theorem State.createRoots_shape (s : State) : (State.createRoots s).shape = s.shape := by
  unfold State.createRoots
  repeat' (first | split | (with_reducible refine foldl_shape _ (fun _ _ => ?_) _ _) | simp)

@[simp] theorem State.takeFence_shape (s : State) (f : Fence) : (State.takeFence s f).shape = s.shape := by simp [State.takeFence]

@[simp] theorem State.registerFence_shape (s : State) (p c a : Nat) : (State.registerFence s p c a).2.2.shape = s.shape := by
  unfold State.registerFence
  repeat' (first | split | (with_reducible refine foldl_shape _ (fun _ _ => ?_) _ _) | simp)

@[simp] theorem State.killHandles_shape (s : State) (f : Fence) : (State.killHandles s f).shape = s.shape := by simp [State.killHandles]

@[simp] theorem State.dropFence_shape (s : State) (f : Fence) : (State.dropFence s f).shape = s.shape := by simp [State.dropFence]

@[simp] theorem State.releasePages_shape (s : State) (ps : List Nat) : (State.releasePages s ps).shape = s.shape := by
  unfold State.releasePages
  repeat' (first | split | (with_reducible refine foldl_shape _ (fun _ _ => ?_) _ _) | simp)

end Sys2Proof.Machine
end

