-- ==== Sys2Proof/Laws/KeepLoader.lean ====
section
/-! SUPPORT. The operations of Machine/Loader.lean keep the queue and the units of the device. -/

namespace Sys2Proof.Machine

open Sys2Proof

@[simp] theorem State.loadOrder_shape (s : State) (r : Req) (ctx addr : Nat) : (State.loadOrder s r ctx addr).shape = s.shape := by
  unfold State.loadOrder
  repeat' (first
    | with_reducible rfl
    | assumption
    | (with_reducible refine (keeps_next _ _).mpr ?_)
    | (simp [*]; done)
    | (rintro ⟨⟩)
    | split
    | (with_reducible refine shape_of_ite ?_ ?_)
    | (with_reducible refine foldl_shape _ (fun _ _ => ?_) _ _)
    | (with_reducible refine (foldl_shape _ (fun _ _ => ?_) _ _).trans ?_)
    | (with_reducible refine (foldl_snd_shape _ (fun _ _ => ?_) _ _).trans ?_)
    | (with_reducible refine (foldl_fst_shape _ (fun _ _ => ?_) _ _).trans ?_)
    | (with_reducible refine (State.ordered_shape _ _ _ _ _ _ _ (fun _ => ?_)).trans ?_)
    | (with_reducible refine (State.orderBytes_shape _ _ _ _ _ _ _ (fun _ => ?_)).trans ?_)
    | (with_reducible refine (State.command_shape _ _ _ _ _ (fun _ _ => ?_)).trans ?_)
    | (with_reducible refine (State.sealedWrite_shape _ _ _ _ _ _ _ (fun _ => ?_)).trans ?_)
    | (with_reducible refine (State.transmit_shape _ _ _ (by assumption)).trans ?_)
    | (with_reducible refine (State.pipStore_shape _ _ _ _ (by assumption)).trans ?_)
    | (with_reducible refine (shape_of_eq (by assumption)).trans ?_)
    | (with_reducible refine (shape_of_eq' (by assumption)).trans ?_)
    | (with_reducible refine (shape_of_eq3 (by assumption)).trans ?_)
    | (with_reducible refine (shape_of_eq4 (by assumption)).trans ?_)
    | simp)

@[simp] theorem execLoadRequest_shape (r : Req) (ctx addr : Nat) (s : State) : Keeps (execLoadRequest r ctx addr s) s := by
  unfold execLoadRequest
  repeat' (first | split | simp)

@[simp] theorem State.updateOrder_shape (s : State) (r : Req) (ctx addr : Nat) : (State.updateOrder s r ctx addr).shape = s.shape := by
  unfold State.updateOrder
  repeat' (first
    | with_reducible rfl
    | assumption
    | (with_reducible refine (keeps_next _ _).mpr ?_)
    | (simp [*]; done)
    | (rintro ⟨⟩)
    | split)

@[simp] theorem execUpdateRequest_shape (r : Req) (ctx addr : Nat) (s : State) : Keeps (execUpdateRequest r ctx addr s) s := by
  unfold execUpdateRequest
  repeat' (first | with_reducible rfl | assumption | (with_reducible refine (keeps_next _ _).mpr ?_) | simp [*])

@[simp] theorem State.consolidateOrder_shape (s : State) (r : Req) (v : Nat) : (State.consolidateOrder s r v).shape = s.shape := by simp [State.consolidateOrder]

@[simp] theorem execConsolidate_shape (r : Req) (v : Nat) (s : State) : Keeps (execConsolidate r v s) s := by simp [execConsolidate]

@[simp] theorem State.dropBulk_shape (s : State) : (State.dropBulk s).shape = s.shape := by
  unfold State.dropBulk
  repeat' (first | split | (with_reducible refine foldl_shape _ (fun _ _ => ?_) _ _) | simp)

@[simp] theorem State.abortOrder_shape (s : State) (r : Req) (v : Nat) : (State.abortOrder s r v).shape = s.shape := by
  unfold State.abortOrder
  repeat' (first
    | with_reducible rfl
    | assumption
    | (with_reducible refine (keeps_next _ _).mpr ?_)
    | simp [*]
    | (rintro ⟨⟩)
    | split
    | (with_reducible refine shape_of_ite ?_ ?_)
    | (with_reducible refine foldl_shape _ (fun _ _ => ?_) _ _)
    | (with_reducible refine (foldl_shape _ (fun _ _ => ?_) _ _).trans ?_)
    | (with_reducible refine (foldl_snd_shape _ (fun _ _ => ?_) _ _).trans ?_)
    | (with_reducible refine (foldl_fst_shape _ (fun _ _ => ?_) _ _).trans ?_)
    | (with_reducible refine State.slot_shape _ _ _ (fun _ _ => ?_))
    | (with_reducible refine State.pipDo_shape _ _ _ _ (fun _ => ?_))
    | (with_reducible refine (State.ordered_shape _ _ _ _ _ _ _ (fun _ => ?_)).trans ?_))

@[simp] theorem execAbort_shape (r : Req) (v : Nat) (s : State) : Keeps (execAbort r v s) s := by simp [execAbort]

@[simp] theorem State.unloadOrder_shape (s : State) (r : Req) (v : Nat) : (State.unloadOrder s r v).shape = s.shape := by simp [State.unloadOrder]

@[simp] theorem execUnload_shape (r : Req) (v : Nat) (s : State) : Keeps (execUnload r v s) s := by simp [execUnload]

@[simp] theorem State.readImage_shape (s : State) (party ctx length : Nat) : (State.readImage s party ctx length).shape = s.shape := by simp [State.readImage]

@[simp] theorem State.refusePending_shape (s : State) (x : Pending) (v : Nat × Nat) : (State.refusePending s x v).shape = s.shape := by simp [State.refusePending]

@[simp] theorem State.formGroup_shape (s : State) (x : Pending) (obj newHash : Nat) (levels : List (List Byte)) : (State.formGroup s x obj newHash levels).shape = s.shape := by
  unfold State.formGroup
  repeat' (first | split | (with_reducible refine foldl_shape _ (fun _ _ => ?_) _ _) | simp)

@[simp] theorem execVerificationComplete_shape (aux : List (Nat × SegAux)) (s : State) : Keeps (execVerificationComplete aux s) s := by
  unfold execVerificationComplete
  refine (keeps_next _ _).mpr ?_
  repeat' (first | split | (with_reducible refine (shape_of_eq (by assumption)).trans ?_) | (with_reducible refine (foldl_shape _ (fun _ _ => ?_) _ _).trans ?_) | simp)

@[simp] theorem State.putHeadRegs_shape (s : State) (n : Nat) (x : Option (Head × Nat × Nat × Nat)) : (State.putHeadRegs s n x).shape = s.shape := by unfold State.putHeadRegs; split <;> simp

@[simp] theorem State.setHeads_shape (s : State) (p : PlanImage) : (State.setHeads s p).shape = s.shape := by
  unfold State.setHeads
  repeat' (first | split | (with_reducible refine foldl_shape _ (fun _ _ => ?_) _ _) | simp)

@[simp] theorem State.headBoundary_shape (s : State) : (State.headBoundary s).shape = s.shape := by
  unfold State.headBoundary
  repeat' (first | split | (with_reducible refine foldl_shape _ (fun _ _ => ?_) _ _) | simp)

@[simp] theorem State.abortJobs_shape (s : State) (gs : List SegImage) : (State.abortJobs s gs).shape = s.shape := by
  unfold State.abortJobs
  repeat' (first | split | (with_reducible refine foldl_shape _ (fun _ _ => ?_) _ _) | simp)

@[simp] theorem State.zeroIntake_shape (s : State) (p : PlanImage) (changed : List Nat) : (State.zeroIntake s p changed).shape = s.shape := by
  unfold State.zeroIntake
  repeat' (first | split | (with_reducible refine foldl_shape _ (fun _ _ => ?_) _ _) | simp)

@[simp] theorem State.loadWalkers_shape (s : State) (p : Option PlanImage) : (State.loadWalkers s p).shape = s.shape := by simp [State.loadWalkers]

@[simp] theorem State.setWays_shape (s : State) (p : Option PlanImage) : (State.setWays s p).shape = s.shape := by
  unfold State.setWays
  repeat' (first | split | (with_reducible refine foldl_shape _ (fun _ _ => ?_) _ _) | simp)

@[simp] theorem State.refreshXip_shape (s : State) : (State.refreshXip s).shape = s.shape := by
  unfold State.refreshXip
  repeat' (first | split | (with_reducible refine (shape_of_eq (by assumption)).trans ?_) | (with_reducible refine (foldl_shape _ (fun _ _ => ?_) _ _).trans ?_) | simp)

@[simp] theorem State.setRanges_shape (s : State) (p : PlanImage) : (State.setRanges s p).shape = s.shape := by
  unfold State.setRanges
  repeat' (first | split | (with_reducible refine foldl_shape _ (fun _ _ => ?_) _ _) | simp)

theorem State.planFences_shape (s : State) (p : PlanImage) {t : State} (h : State.planFences s p = .ok t) :
    t.shape = s.shape := by
  unfold State.planFences at h
  dsimp only at h
  have key : ∀ (l : List (SegRec × Nat × Nat)) (q : Except (Nat × Nat) State),
      (∀ u, q = .ok u → u.shape = s.shape) → ∀ t, (l.foldl (fun q x =>
        match q with
        | .error e => .error e
        | .ok s =>
          if (s.ownFence x.1.party x.1.ctx x.2.2).isSome then .ok s
          else
            match s.registerFence x.1.party x.1.ctx x.2.2 with
            | (st, _, t) => if st = stOk then .ok t else .error (x.1.seg, x.2.1)) q) = .ok t → t.shape = s.shape := by
    intro l
    induction l with
    | nil => intro q hq t ht; exact hq t ht
    | cons x xs ih =>
      intro q hq t ht
      refine ih _ (fun u hu => ?_) t ht
      cases q with
      | error e => cases hu
      | ok v =>
        dsimp only at hu
        split at hu
        · cases hu; exact hq _ rfl
        · split at hu
          · cases hu; exact (State.registerFence_shape _ _ _ _).trans (hq _ rfl)
          · cases hu
  exact key _ _ (fun u hu => by cases hu; rfl) t h

@[simp] theorem State.planRegs_shape (s : State) (p : Option PlanImage) : (State.planRegs s p).shape = s.shape := by unfold State.planRegs; split <;> simp

@[simp] theorem State.install_shape (s : State) (p : PlanImage) (changed : List Nat) : (State.install s p changed).shape = s.shape := by
  unfold State.install
  repeat' (first
    | with_reducible rfl
    | assumption
    | (with_reducible refine (keeps_next _ _).mpr ?_)
    | (simp [*]; done)
    | (rintro ⟨⟩)
    | split
    | (with_reducible refine shape_of_ite ?_ ?_)
    | (with_reducible refine foldl_shape _ (fun _ _ => ?_) _ _)
    | (with_reducible refine (foldl_shape _ (fun _ _ => ?_) _ _).trans ?_)
    | (with_reducible refine (foldl_snd_shape _ (fun _ _ => ?_) _ _).trans ?_)
    | (with_reducible refine (foldl_fst_shape _ (fun _ _ => ?_) _ _).trans ?_)
    | (with_reducible refine (State.ordered_shape _ _ _ _ _ _ _ (fun _ => ?_)).trans ?_)
    | (with_reducible refine (State.orderBytes_shape _ _ _ _ _ _ _ (fun _ => ?_)).trans ?_)
    | (with_reducible refine (State.command_shape _ _ _ _ _ (fun _ _ => ?_)).trans ?_)
    | (with_reducible refine (State.sealedWrite_shape _ _ _ _ _ _ _ (fun _ => ?_)).trans ?_)
    | (with_reducible refine (State.transmit_shape _ _ _ (by assumption)).trans ?_)
    | (with_reducible refine (State.pipStore_shape _ _ _ _ (by assumption)).trans ?_)
    | (with_reducible refine (State.planFences_shape _ _ (by assumption)).trans ?_)
    | (with_reducible refine (shape_of_eq (by assumption)).trans ?_)
    | (with_reducible refine (shape_of_eq' (by assumption)).trans ?_)
    | (with_reducible refine (shape_of_eq3 (by assumption)).trans ?_)
    | (with_reducible refine (shape_of_eq4 (by assumption)).trans ?_)
    | simp)

@[simp] theorem State.activate_shape (s : State) (p : PlanImage) : (State.activate s p).shape = s.shape := by simp [State.activate]

@[simp] theorem State.planBoundary_shape (s : State) : (State.planBoundary s).shape = s.shape := by
  unfold State.planBoundary
  repeat' (first
    | with_reducible rfl
    | assumption
    | (with_reducible refine (keeps_next _ _).mpr ?_)
    | (simp [*]; done)
    | (rintro ⟨⟩)
    | split
    | (with_reducible refine shape_of_ite ?_ ?_)
    | (with_reducible refine foldl_shape _ (fun _ _ => ?_) _ _)
    | (with_reducible refine (foldl_shape _ (fun _ _ => ?_) _ _).trans ?_)
    | (with_reducible refine (foldl_snd_shape _ (fun _ _ => ?_) _ _).trans ?_)
    | (with_reducible refine (foldl_fst_shape _ (fun _ _ => ?_) _ _).trans ?_)
    | (with_reducible refine State.slot_shape _ _ _ (fun _ _ => ?_))
    | (with_reducible refine State.pipDo_shape _ _ _ _ (fun _ => ?_))
    | (with_reducible refine (State.ordered_shape _ _ _ _ _ _ _ (fun _ => ?_)).trans ?_)
    | (with_reducible refine (State.orderBytes_shape _ _ _ _ _ _ _ (fun _ => ?_)).trans ?_)
    | (with_reducible refine (State.transmit_shape _ _ _ (by assumption)).trans ?_)
    | (with_reducible refine (State.pipStore_shape _ _ _ _ (by assumption)).trans ?_)
    | (with_reducible refine (State.planFences_shape _ _ (by assumption)).trans ?_)
    | (with_reducible refine (shape_of_eq (by assumption)).trans ?_)
    | (with_reducible refine (shape_of_eq' (by assumption)).trans ?_)
    | (with_reducible refine (shape_of_eq3 (by assumption)).trans ?_)
    | (with_reducible refine (shape_of_eq4 (by assumption)).trans ?_)
    | simp)

@[simp] theorem State.unloadPlan_shape (s : State) : (State.unloadPlan s).shape = s.shape := by
  unfold State.unloadPlan
  repeat' (first | split | (with_reducible refine (shape_of_eq (by assumption)).trans ?_) | (with_reducible refine (foldl_shape _ (fun _ _ => ?_) _ _).trans ?_) | simp)

@[simp] theorem State.takeMasters_shape (s : State) (hn : Nat) : (State.takeMasters s hn).shape = s.shape := by
  unfold State.takeMasters
  repeat' (first | split | (with_reducible refine (shape_of_eq (by assumption)).trans ?_) | (with_reducible refine (foldl_shape _ (fun _ _ => ?_) _ _).trans ?_) | simp)

end Sys2Proof.Machine
end

