-- ==== Sys2Proof/Laws/KeepPool.lean ====
section
/-! SUPPORT. The operations of Machine/Pool.lean keep the queue and the units of the device. -/

namespace Sys2Proof.Machine

open Sys2Proof

@[simp] theorem State.dropWait_shape (s : State) (c : Nat) : (State.dropWait s c).shape = s.shape := by simp [State.dropWait]

@[simp] theorem State.poolAnswer_shape (s : State) (r : Req) (op st : Nat) (data : List Byte) : (State.poolAnswer s r op st data).shape = s.shape := by simp [State.poolAnswer]

@[simp] theorem State.tablesDiffer_shape (s : State) (r : Req) (x : PoolReq) (f : Fail) : (State.tablesDiffer s r x f).shape = s.shape := by simp [State.tablesDiffer]

@[simp] theorem State.tracePool_shape (s : State) (r : Req) (op : Nat) (x : PoolReq) (st lines : Nat) : (State.tracePool s r op x st lines).shape = s.shape := by simp [State.tracePool]

@[simp] theorem State.poolRun_shape (s : State) (r : Req) (op : Nat) (x : PoolReq) (argsOk : Bool)
    (rs : List (Except Fail Range × Nat × Bool)) (act : List Range → State → Done)
    (h_act : ∀ g t, DoneKeeps (act g t) t) : (State.poolRun s r op x argsOk rs act).shape = s.shape := by
  have key : ∀ gs q, act gs s = .ok q → q.2.2.2.shape = s.shape := fun gs q h => h_act gs s q h
  unfold State.poolRun
  repeat' (first
    | with_reducible rfl
    | assumption
    | exact key _ _ (by assumption)
    | (simp [*]; done)
    | split
    | (with_reducible refine (foldl_shape _ (fun _ _ => ?_) _ _).trans ?_)
    | simp)

@[simp] theorem State.poolOne_shape (s : State) (r : Req) (op : Nat) (x : PoolReq) (argsOk : Bool) (n : Nat) (write : Bool)
    (act : Range → State → Done) (h_act : ∀ g t, DoneKeeps (act g t) t) :
    (State.poolOne s r op x argsOk n write act).shape = s.shape := by
  unfold State.poolOne
  refine State.poolRun_shape _ _ _ _ _ _ _ fun g t => ?_
  split
  · exact h_act _ _
  · exact doneKeeps_error _ _

@[simp] theorem execPoolRead_shape (r : Req) (x : PoolReq) (ecc : Ecc) (s : State) : Keeps (execPoolRead r x ecc s) s := by unfold execPoolRead; refine (keeps_next _ _).mpr ?_; split <;> simp

@[simp] theorem State.ringOne_shape (s : State) (c : Ctx) (q : Queue) (v : Nat) : (State.ringOne s c q v).shape = s.shape := by simp [State.ringOne]

@[simp] theorem State.doorbells_shape (s : State) (p : Nat) (as : List Nat) : (State.doorbells s p as).shape = s.shape := by
  unfold State.doorbells
  repeat' (first | split | (with_reducible refine foldl_shape _ (fun _ _ => ?_) _ _) | simp)

@[simp] theorem execPoolWrite_shape (r : Req) (x : PoolReq) (s : State) : Keeps (execPoolWrite r x s) s := by
  unfold execPoolWrite
  repeat' (first
    | with_reducible rfl
    | assumption
    | (with_reducible refine (doneKeeps_ok _ _).mpr ?_)
    | exact doneKeeps_error _ _
    | (with_reducible refine (keeps_next _ _).mpr ?_)
    | (simp [*]; done)
    | (rintro ⟨⟩)
    | split
    | (with_reducible refine shape_of_ite ?_ ?_)
    | (with_reducible refine foldl_shape _ (fun _ _ => ?_) _ _)
    | (with_reducible refine (foldl_shape _ (fun _ _ => ?_) _ _).trans ?_)
    | (with_reducible refine (foldl_snd_shape _ (fun _ _ => ?_) _ _).trans ?_)
    | (with_reducible refine (foldl_fst_shape _ (fun _ _ => ?_) _ _).trans ?_)
    | (with_reducible refine State.slot_shape _ _ _ (fun _ _ => ?_))
    | (with_reducible refine State.pipDo_shape _ _ _ _ (fun _ => ?_))
    | (with_reducible refine (State.ordered_shape _ _ _ _ _ _ _ (fun _ => ?_)).trans ?_)
    | (with_reducible refine (State.orderBytes_shape _ _ _ _ _ _ _ (fun _ => ?_)).trans ?_)
    | (with_reducible refine (State.poolRun_shape _ _ _ _ _ _ _ (fun _ _ => ?_)).trans ?_)
    | (with_reducible refine (State.poolOne_shape _ _ _ _ _ _ _ _ (fun _ _ => ?_)).trans ?_)
    | (with_reducible refine (State.transmit_shape _ _ _ (by assumption)).trans ?_)
    | (with_reducible refine (State.pipStore_shape _ _ _ _ (by assumption)).trans ?_)
    | (with_reducible refine (State.planFences_shape _ _ (by assumption)).trans ?_)
    | (with_reducible refine (shape_of_eq (by assumption)).trans ?_)
    | (with_reducible refine (shape_of_eq' (by assumption)).trans ?_)
    | (with_reducible refine (shape_of_eq3 (by assumption)).trans ?_)
    | (with_reducible refine (shape_of_eq4 (by assumption)).trans ?_)
    | simp)

@[simp] theorem State.onHolds_shape (s : State) (f : List Hold → List Hold) : (State.onHolds s f).shape = s.shape := by simp [State.onHolds]

@[simp] theorem execHold_shape (r : Req) (x : PoolReq) (s : State) : Keeps (execHold r x s) s := by
  unfold execHold
  repeat' (first
    | with_reducible rfl
    | assumption
    | (with_reducible refine (doneKeeps_ok _ _).mpr ?_)
    | exact doneKeeps_error _ _
    | (with_reducible refine (keeps_next _ _).mpr ?_)
    | (simp [*]; done)
    | (rintro ⟨⟩)
    | split
    | (with_reducible refine shape_of_ite ?_ ?_)
    | (with_reducible refine foldl_shape _ (fun _ _ => ?_) _ _)
    | (with_reducible refine (foldl_shape _ (fun _ _ => ?_) _ _).trans ?_)
    | (with_reducible refine (foldl_snd_shape _ (fun _ _ => ?_) _ _).trans ?_)
    | (with_reducible refine (foldl_fst_shape _ (fun _ _ => ?_) _ _).trans ?_)
    | (with_reducible refine State.slot_shape _ _ _ (fun _ _ => ?_))
    | (with_reducible refine State.pipDo_shape _ _ _ _ (fun _ => ?_))
    | (with_reducible refine (State.ordered_shape _ _ _ _ _ _ _ (fun _ => ?_)).trans ?_)
    | (with_reducible refine (State.orderBytes_shape _ _ _ _ _ _ _ (fun _ => ?_)).trans ?_)
    | (with_reducible refine (State.poolRun_shape _ _ _ _ _ _ _ (fun _ _ => ?_)).trans ?_)
    | (with_reducible refine (State.poolOne_shape _ _ _ _ _ _ _ _ (fun _ _ => ?_)).trans ?_)
    | (with_reducible refine (State.transmit_shape _ _ _ (by assumption)).trans ?_)
    | (with_reducible refine (State.pipStore_shape _ _ _ _ (by assumption)).trans ?_)
    | (with_reducible refine (State.planFences_shape _ _ (by assumption)).trans ?_)
    | (with_reducible refine (shape_of_eq (by assumption)).trans ?_)
    | (with_reducible refine (shape_of_eq' (by assumption)).trans ?_)
    | (with_reducible refine (shape_of_eq3 (by assumption)).trans ?_)
    | (with_reducible refine (shape_of_eq4 (by assumption)).trans ?_)
    | simp)

@[simp] theorem State.writeBack_shape (s : State) (line : Nat) : (State.writeBack s line).shape = s.shape := by unfold State.writeBack; split <;> simp

@[simp] theorem execRenew_shape (r : Req) (x : PoolReq) (s : State) : Keeps (execRenew r x s) s := by
  unfold execRenew
  repeat' (first
    | with_reducible rfl
    | assumption
    | (with_reducible refine (doneKeeps_ok _ _).mpr ?_)
    | exact doneKeeps_error _ _
    | (with_reducible refine (keeps_next _ _).mpr ?_)
    | (simp [*]; done)
    | (rintro ⟨⟩)
    | split
    | (with_reducible refine shape_of_ite ?_ ?_)
    | (with_reducible refine foldl_shape _ (fun _ _ => ?_) _ _)
    | (with_reducible refine (foldl_shape _ (fun _ _ => ?_) _ _).trans ?_)
    | (with_reducible refine (foldl_snd_shape _ (fun _ _ => ?_) _ _).trans ?_)
    | (with_reducible refine (foldl_fst_shape _ (fun _ _ => ?_) _ _).trans ?_)
    | (with_reducible refine State.slot_shape _ _ _ (fun _ _ => ?_))
    | (with_reducible refine State.pipDo_shape _ _ _ _ (fun _ => ?_))
    | (with_reducible refine (State.ordered_shape _ _ _ _ _ _ _ (fun _ => ?_)).trans ?_)
    | (with_reducible refine (State.orderBytes_shape _ _ _ _ _ _ _ (fun _ => ?_)).trans ?_)
    | (with_reducible refine (State.poolRun_shape _ _ _ _ _ _ _ (fun _ _ => ?_)).trans ?_)
    | (with_reducible refine (State.poolOne_shape _ _ _ _ _ _ _ _ (fun _ _ => ?_)).trans ?_)
    | (with_reducible refine (State.transmit_shape _ _ _ (by assumption)).trans ?_)
    | (with_reducible refine (State.pipStore_shape _ _ _ _ (by assumption)).trans ?_)
    | (with_reducible refine (State.planFences_shape _ _ (by assumption)).trans ?_)
    | (with_reducible refine (shape_of_eq (by assumption)).trans ?_)
    | (with_reducible refine (shape_of_eq' (by assumption)).trans ?_)
    | (with_reducible refine (shape_of_eq3 (by assumption)).trans ?_)
    | (with_reducible refine (shape_of_eq4 (by assumption)).trans ?_)
    | simp)

@[simp] theorem execRelease_shape (r : Req) (x : PoolReq) (s : State) : Keeps (execRelease r x s) s := by
  unfold execRelease
  repeat' (first
    | with_reducible rfl
    | assumption
    | (with_reducible refine (doneKeeps_ok _ _).mpr ?_)
    | exact doneKeeps_error _ _
    | (with_reducible refine (keeps_next _ _).mpr ?_)
    | (simp [*]; done)
    | (rintro ⟨⟩)
    | split
    | (with_reducible refine shape_of_ite ?_ ?_)
    | (with_reducible refine foldl_shape _ (fun _ _ => ?_) _ _)
    | (with_reducible refine (foldl_shape _ (fun _ _ => ?_) _ _).trans ?_)
    | (with_reducible refine (foldl_snd_shape _ (fun _ _ => ?_) _ _).trans ?_)
    | (with_reducible refine (foldl_fst_shape _ (fun _ _ => ?_) _ _).trans ?_)
    | (with_reducible refine State.slot_shape _ _ _ (fun _ _ => ?_))
    | (with_reducible refine State.pipDo_shape _ _ _ _ (fun _ => ?_))
    | (with_reducible refine (State.ordered_shape _ _ _ _ _ _ _ (fun _ => ?_)).trans ?_)
    | (with_reducible refine (State.orderBytes_shape _ _ _ _ _ _ _ (fun _ => ?_)).trans ?_)
    | (with_reducible refine (State.poolRun_shape _ _ _ _ _ _ _ (fun _ _ => ?_)).trans ?_)
    | (with_reducible refine (State.poolOne_shape _ _ _ _ _ _ _ _ (fun _ _ => ?_)).trans ?_)
    | (with_reducible refine (State.transmit_shape _ _ _ (by assumption)).trans ?_)
    | (with_reducible refine (State.pipStore_shape _ _ _ _ (by assumption)).trans ?_)
    | (with_reducible refine (State.planFences_shape _ _ (by assumption)).trans ?_)
    | (with_reducible refine (shape_of_eq (by assumption)).trans ?_)
    | (with_reducible refine (shape_of_eq' (by assumption)).trans ?_)
    | (with_reducible refine (shape_of_eq3 (by assumption)).trans ?_)
    | (with_reducible refine (shape_of_eq4 (by assumption)).trans ?_)
    | simp)

@[simp] theorem State.clearLine_shape (s : State) (zero : Bool) (line : Nat) : (State.clearLine s zero line).shape = s.shape := by
  unfold State.clearLine
  repeat' (first
    | with_reducible rfl
    | assumption
    | (with_reducible refine (keeps_next _ _).mpr ?_)
    | (simp [*]; done)
    | (rintro ⟨⟩)
    | split
    | (with_reducible refine shape_of_ite ?_ ?_)
    | (with_reducible refine foldl_shape _ (fun _ _ => ?_) _ _)
    | (with_reducible refine (foldl_shape _ (fun _ _ => ?_) _ _).trans ?_)
    | (with_reducible refine (foldl_snd_shape _ (fun _ _ => ?_) _ _).trans ?_)
    | (with_reducible refine (foldl_fst_shape _ (fun _ _ => ?_) _ _).trans ?_)
    | (with_reducible refine (State.ordered_shape _ _ _ _ _ _ _ (fun _ => ?_)).trans ?_)
    | (with_reducible refine (State.orderBytes_shape _ _ _ _ _ _ _ (fun _ => ?_)).trans ?_)
    | (with_reducible refine (State.command_shape _ _ _ _ _ (fun _ _ => ?_)).trans ?_)
    | (with_reducible refine (State.sealedWrite_shape _ _ _ _ _ _ _ (fun _ => ?_)).trans ?_)
    | (with_reducible refine (State.transmit_shape _ _ _ (by assumption)).trans ?_)
    | (with_reducible refine (State.pipStore_shape _ _ _ _ (by assumption)).trans ?_)
    | (with_reducible refine (State.planFences_shape _ _ (by assumption)).trans ?_)
    | (with_reducible refine (shape_of_eq (by assumption)).trans ?_)
    | (with_reducible refine (shape_of_eq' (by assumption)).trans ?_)
    | (with_reducible refine (shape_of_eq3 (by assumption)).trans ?_)
    | (with_reducible refine (shape_of_eq4 (by assumption)).trans ?_)
    | simp)

@[simp] theorem execClear_shape (r : Req) (x : PoolReq) (s : State) : Keeps (execClear r x s) s := by
  unfold execClear
  repeat' (first
    | with_reducible rfl
    | assumption
    | (with_reducible refine (doneKeeps_ok _ _).mpr ?_)
    | exact doneKeeps_error _ _
    | (with_reducible refine (keeps_next _ _).mpr ?_)
    | (simp [*]; done)
    | (rintro ⟨⟩)
    | split
    | (with_reducible refine shape_of_ite ?_ ?_)
    | (with_reducible refine foldl_shape _ (fun _ _ => ?_) _ _)
    | (with_reducible refine (foldl_shape _ (fun _ _ => ?_) _ _).trans ?_)
    | (with_reducible refine (foldl_snd_shape _ (fun _ _ => ?_) _ _).trans ?_)
    | (with_reducible refine (foldl_fst_shape _ (fun _ _ => ?_) _ _).trans ?_)
    | (with_reducible refine State.slot_shape _ _ _ (fun _ _ => ?_))
    | (with_reducible refine State.pipDo_shape _ _ _ _ (fun _ => ?_))
    | (with_reducible refine (State.ordered_shape _ _ _ _ _ _ _ (fun _ => ?_)).trans ?_)
    | (with_reducible refine (State.orderBytes_shape _ _ _ _ _ _ _ (fun _ => ?_)).trans ?_)
    | (with_reducible refine (State.poolRun_shape _ _ _ _ _ _ _ (fun _ _ => ?_)).trans ?_)
    | (with_reducible refine (State.poolOne_shape _ _ _ _ _ _ _ _ (fun _ _ => ?_)).trans ?_))

@[simp] theorem State.atomic_shape (s : State) (r : Req) (op : Nat) (x : PoolReq) (nargs : Nat) (writes : Nat → List Nat → Bool) (f : Nat → Nat → List Nat → Nat) : (State.atomic s r op x nargs writes f).shape = s.shape := by
  unfold State.atomic
  repeat' (first
    | with_reducible rfl
    | assumption
    | (with_reducible refine (doneKeeps_ok _ _).mpr ?_)
    | exact doneKeeps_error _ _
    | (with_reducible refine (keeps_next _ _).mpr ?_)
    | (simp [*]; done)
    | (rintro ⟨⟩)
    | split
    | (with_reducible refine shape_of_ite ?_ ?_)
    | (with_reducible refine foldl_shape _ (fun _ _ => ?_) _ _)
    | (with_reducible refine (foldl_shape _ (fun _ _ => ?_) _ _).trans ?_)
    | (with_reducible refine (foldl_snd_shape _ (fun _ _ => ?_) _ _).trans ?_)
    | (with_reducible refine (foldl_fst_shape _ (fun _ _ => ?_) _ _).trans ?_)
    | (with_reducible refine State.slot_shape _ _ _ (fun _ _ => ?_))
    | (with_reducible refine State.pipDo_shape _ _ _ _ (fun _ => ?_))
    | (with_reducible refine (State.ordered_shape _ _ _ _ _ _ _ (fun _ => ?_)).trans ?_)
    | (with_reducible refine (State.orderBytes_shape _ _ _ _ _ _ _ (fun _ => ?_)).trans ?_)
    | (with_reducible refine (State.poolRun_shape _ _ _ _ _ _ _ (fun _ _ => ?_)).trans ?_)
    | (with_reducible refine (State.poolOne_shape _ _ _ _ _ _ _ _ (fun _ _ => ?_)).trans ?_)
    | (with_reducible refine (State.transmit_shape _ _ _ (by assumption)).trans ?_)
    | (with_reducible refine (State.pipStore_shape _ _ _ _ (by assumption)).trans ?_)
    | (with_reducible refine (State.planFences_shape _ _ (by assumption)).trans ?_)
    | (with_reducible refine (shape_of_eq (by assumption)).trans ?_)
    | (with_reducible refine (shape_of_eq' (by assumption)).trans ?_)
    | (with_reducible refine (shape_of_eq3 (by assumption)).trans ?_)
    | (with_reducible refine (shape_of_eq4 (by assumption)).trans ?_)
    | simp)

@[simp] theorem execFadd_shape (r : Req) (x : PoolReq) (s : State) : Keeps (execFadd r x s) s := by
  unfold execFadd
  repeat' (first | with_reducible rfl | assumption | (with_reducible refine (keeps_next _ _).mpr ?_) | simp [*])

@[simp] theorem execCas_shape (r : Req) (x : PoolReq) (s : State) : Keeps (execCas r x s) s := by
  unfold execCas
  repeat' (first | with_reducible rfl | assumption | (with_reducible refine (keeps_next _ _).mpr ?_) | simp [*])

@[simp] theorem execPoolMax_shape (r : Req) (x : PoolReq) (s : State) : Keeps (execPoolMax r x s) s := by
  unfold execPoolMax
  repeat' (first | with_reducible rfl | assumption | (with_reducible refine (keeps_next _ _).mpr ?_) | simp [*])

@[simp] theorem execPoolFenceAdvance_shape (r : Req) (x : PoolReq) (s : State) : Keeps (execPoolFenceAdvance r x s) s := by
  unfold execPoolFenceAdvance
  refine (keeps_next _ _).mpr (State.poolOne_shape _ _ _ _ _ _ _ _ fun g t => ?_)
  split
  · exact doneKeeps_error _ _
  · exact (doneKeeps_ok _ _).mpr (State.advanceFence_shape _ _ _)

@[simp] theorem execFenceRead_shape (r : Req) (x : PoolReq) (s : State) : Keeps (execFenceRead r x s) s := by
  unfold execFenceRead
  repeat' (first
    | with_reducible rfl
    | assumption
    | (with_reducible refine (doneKeeps_ok _ _).mpr ?_)
    | exact doneKeeps_error _ _
    | (with_reducible refine (keeps_next _ _).mpr ?_)
    | (simp [*]; done)
    | (rintro ⟨⟩)
    | split
    | (with_reducible refine shape_of_ite ?_ ?_)
    | (with_reducible refine foldl_shape _ (fun _ _ => ?_) _ _)
    | (with_reducible refine (foldl_shape _ (fun _ _ => ?_) _ _).trans ?_)
    | (with_reducible refine (foldl_snd_shape _ (fun _ _ => ?_) _ _).trans ?_)
    | (with_reducible refine (foldl_fst_shape _ (fun _ _ => ?_) _ _).trans ?_)
    | (with_reducible refine State.slot_shape _ _ _ (fun _ _ => ?_))
    | (with_reducible refine State.pipDo_shape _ _ _ _ (fun _ => ?_))
    | (with_reducible refine (State.ordered_shape _ _ _ _ _ _ _ (fun _ => ?_)).trans ?_)
    | (with_reducible refine (State.orderBytes_shape _ _ _ _ _ _ _ (fun _ => ?_)).trans ?_)
    | (with_reducible refine (State.poolRun_shape _ _ _ _ _ _ _ (fun _ _ => ?_)).trans ?_))

@[simp] theorem execFill_shape (r : Req) (x : PoolReq) (s : State) : Keeps (execFill r x s) s := by
  unfold execFill
  repeat' (first
    | with_reducible rfl
    | assumption
    | (with_reducible refine (doneKeeps_ok _ _).mpr ?_)
    | exact doneKeeps_error _ _
    | (with_reducible refine (keeps_next _ _).mpr ?_)
    | (simp [*]; done)
    | (rintro ⟨⟩)
    | split
    | (with_reducible refine shape_of_ite ?_ ?_)
    | (with_reducible refine foldl_shape _ (fun _ _ => ?_) _ _)
    | (with_reducible refine (foldl_shape _ (fun _ _ => ?_) _ _).trans ?_)
    | (with_reducible refine (foldl_snd_shape _ (fun _ _ => ?_) _ _).trans ?_)
    | (with_reducible refine (foldl_fst_shape _ (fun _ _ => ?_) _ _).trans ?_)
    | (with_reducible refine State.slot_shape _ _ _ (fun _ _ => ?_))
    | (with_reducible refine State.pipDo_shape _ _ _ _ (fun _ => ?_))
    | (with_reducible refine (State.ordered_shape _ _ _ _ _ _ _ (fun _ => ?_)).trans ?_)
    | (with_reducible refine (State.orderBytes_shape _ _ _ _ _ _ _ (fun _ => ?_)).trans ?_)
    | (with_reducible refine (State.poolRun_shape _ _ _ _ _ _ _ (fun _ _ => ?_)).trans ?_)
    | (with_reducible refine (State.poolOne_shape _ _ _ _ _ _ _ _ (fun _ _ => ?_)).trans ?_)
    | (with_reducible refine (State.transmit_shape _ _ _ (by assumption)).trans ?_)
    | (with_reducible refine (State.pipStore_shape _ _ _ _ (by assumption)).trans ?_)
    | (with_reducible refine (State.planFences_shape _ _ (by assumption)).trans ?_)
    | (with_reducible refine (shape_of_eq (by assumption)).trans ?_)
    | (with_reducible refine (shape_of_eq' (by assumption)).trans ?_)
    | (with_reducible refine (shape_of_eq3 (by assumption)).trans ?_)
    | (with_reducible refine (shape_of_eq4 (by assumption)).trans ?_)
    | simp)

@[simp] theorem execCopy_shape (r : Req) (x : PoolReq) (s : State) : Keeps (execCopy r x s) s := by
  unfold execCopy
  repeat' (first
    | with_reducible rfl
    | assumption
    | (with_reducible refine (doneKeeps_ok _ _).mpr ?_)
    | exact doneKeeps_error _ _
    | (with_reducible refine (keeps_next _ _).mpr ?_)
    | (simp [*]; done)
    | (rintro ⟨⟩)
    | split
    | (with_reducible refine shape_of_ite ?_ ?_)
    | (with_reducible refine foldl_shape _ (fun _ _ => ?_) _ _)
    | (with_reducible refine (foldl_shape _ (fun _ _ => ?_) _ _).trans ?_)
    | (with_reducible refine (foldl_snd_shape _ (fun _ _ => ?_) _ _).trans ?_)
    | (with_reducible refine (foldl_fst_shape _ (fun _ _ => ?_) _ _).trans ?_)
    | (with_reducible refine State.slot_shape _ _ _ (fun _ _ => ?_))
    | (with_reducible refine State.pipDo_shape _ _ _ _ (fun _ => ?_))
    | (with_reducible refine (State.ordered_shape _ _ _ _ _ _ _ (fun _ => ?_)).trans ?_)
    | (with_reducible refine (State.orderBytes_shape _ _ _ _ _ _ _ (fun _ => ?_)).trans ?_)
    | (with_reducible refine (State.poolRun_shape _ _ _ _ _ _ _ (fun _ _ => ?_)).trans ?_)
    | (with_reducible refine (State.poolOne_shape _ _ _ _ _ _ _ _ (fun _ _ => ?_)).trans ?_)
    | (with_reducible refine (State.transmit_shape _ _ _ (by assumption)).trans ?_)
    | (with_reducible refine (State.pipStore_shape _ _ _ _ (by assumption)).trans ?_)
    | (with_reducible refine (State.planFences_shape _ _ (by assumption)).trans ?_)
    | (with_reducible refine (shape_of_eq (by assumption)).trans ?_)
    | (with_reducible refine (shape_of_eq' (by assumption)).trans ?_)
    | (with_reducible refine (shape_of_eq3 (by assumption)).trans ?_)
    | (with_reducible refine (shape_of_eq4 (by assumption)).trans ?_)
    | simp)

@[simp] theorem execCompare_shape (r : Req) (x : PoolReq) (s : State) : Keeps (execCompare r x s) s := by
  unfold execCompare
  repeat' (first
    | with_reducible rfl
    | assumption
    | (with_reducible refine (doneKeeps_ok _ _).mpr ?_)
    | exact doneKeeps_error _ _
    | (with_reducible refine (keeps_next _ _).mpr ?_)
    | (simp [*]; done)
    | (rintro ⟨⟩)
    | split
    | (with_reducible refine shape_of_ite ?_ ?_)
    | (with_reducible refine foldl_shape _ (fun _ _ => ?_) _ _)
    | (with_reducible refine (foldl_shape _ (fun _ _ => ?_) _ _).trans ?_)
    | (with_reducible refine (foldl_snd_shape _ (fun _ _ => ?_) _ _).trans ?_)
    | (with_reducible refine (foldl_fst_shape _ (fun _ _ => ?_) _ _).trans ?_)
    | (with_reducible refine State.slot_shape _ _ _ (fun _ _ => ?_))
    | (with_reducible refine State.pipDo_shape _ _ _ _ (fun _ => ?_))
    | (with_reducible refine (State.ordered_shape _ _ _ _ _ _ _ (fun _ => ?_)).trans ?_)
    | (with_reducible refine (State.orderBytes_shape _ _ _ _ _ _ _ (fun _ => ?_)).trans ?_)
    | (with_reducible refine (State.poolRun_shape _ _ _ _ _ _ _ (fun _ _ => ?_)).trans ?_))

@[simp] theorem execReduce_shape (r : Req) (x : PoolReq) (s : State) : Keeps (execReduce r x s) s := by simp [execReduce]

@[simp] theorem execGrant_shape (r : Req) (x : PoolReq) (s : State) : Keeps (execGrant r x s) s := by
  unfold execGrant
  repeat' (first
    | with_reducible rfl
    | assumption
    | (with_reducible refine (doneKeeps_ok _ _).mpr ?_)
    | exact doneKeeps_error _ _
    | (with_reducible refine (keeps_next _ _).mpr ?_)
    | (simp [*]; done)
    | (rintro ⟨⟩)
    | split
    | (with_reducible refine shape_of_ite ?_ ?_)
    | (with_reducible refine foldl_shape _ (fun _ _ => ?_) _ _)
    | (with_reducible refine (foldl_shape _ (fun _ _ => ?_) _ _).trans ?_)
    | (with_reducible refine (foldl_snd_shape _ (fun _ _ => ?_) _ _).trans ?_)
    | (with_reducible refine (foldl_fst_shape _ (fun _ _ => ?_) _ _).trans ?_)
    | (with_reducible refine State.slot_shape _ _ _ (fun _ _ => ?_))
    | (with_reducible refine State.pipDo_shape _ _ _ _ (fun _ => ?_))
    | (with_reducible refine (State.ordered_shape _ _ _ _ _ _ _ (fun _ => ?_)).trans ?_)
    | (with_reducible refine (State.orderBytes_shape _ _ _ _ _ _ _ (fun _ => ?_)).trans ?_)
    | (with_reducible refine (State.poolRun_shape _ _ _ _ _ _ _ (fun _ _ => ?_)).trans ?_)
    | (with_reducible refine (State.poolOne_shape _ _ _ _ _ _ _ _ (fun _ _ => ?_)).trans ?_))

@[simp] theorem execUngrant_shape (r : Req) (x : PoolReq) (s : State) : Keeps (execUngrant r x s) s := by
  unfold execUngrant
  repeat' (first
    | with_reducible rfl
    | assumption
    | (with_reducible refine (doneKeeps_ok _ _).mpr ?_)
    | exact doneKeeps_error _ _
    | (with_reducible refine (keeps_next _ _).mpr ?_)
    | (simp [*]; done)
    | (rintro ⟨⟩)
    | split
    | (with_reducible refine shape_of_ite ?_ ?_)
    | (with_reducible refine foldl_shape _ (fun _ _ => ?_) _ _)
    | (with_reducible refine (foldl_shape _ (fun _ _ => ?_) _ _).trans ?_)
    | (with_reducible refine (foldl_snd_shape _ (fun _ _ => ?_) _ _).trans ?_)
    | (with_reducible refine (foldl_fst_shape _ (fun _ _ => ?_) _ _).trans ?_)
    | (with_reducible refine State.slot_shape _ _ _ (fun _ _ => ?_))
    | (with_reducible refine State.pipDo_shape _ _ _ _ (fun _ => ?_))
    | (with_reducible refine (State.ordered_shape _ _ _ _ _ _ _ (fun _ => ?_)).trans ?_)
    | (with_reducible refine (State.orderBytes_shape _ _ _ _ _ _ _ (fun _ => ?_)).trans ?_)
    | (with_reducible refine (State.poolRun_shape _ _ _ _ _ _ _ (fun _ _ => ?_)).trans ?_))

@[simp] theorem State.killGrant_shape (s : State) (g : Grant) : (State.killGrant s g).shape = s.shape := by simp [State.killGrant]

@[simp] theorem State.killGrants_shape (s : State) (f : Grant → Bool) : (State.killGrants s f).shape = s.shape := by
  unfold State.killGrants
  repeat' (first | split | (with_reducible refine foldl_shape _ (fun _ _ => ?_) _ _) | simp)

@[simp] theorem execLeaseExpiry_shape (s : State) : Keeps (execLeaseExpiry s) s := by
  unfold execLeaseExpiry
  repeat' (first
    | with_reducible rfl
    | assumption
    | (with_reducible refine (doneKeeps_ok _ _).mpr ?_)
    | exact doneKeeps_error _ _
    | (with_reducible refine (keeps_next _ _).mpr ?_)
    | (simp [*]; done)
    | (rintro ⟨⟩)
    | split
    | (with_reducible refine shape_of_ite ?_ ?_)
    | (with_reducible refine foldl_shape _ (fun _ _ => ?_) _ _)
    | (with_reducible refine (foldl_shape _ (fun _ _ => ?_) _ _).trans ?_))

end Sys2Proof.Machine
end

