-- ==== Sys2Proof/Laws/KeepParties.lean ====
section
/-! SUPPORT. The operations of Machine/Parties.lean keep the queue and the units of the device. -/

namespace Sys2Proof.Machine

open Sys2Proof

@[simp] theorem State.roleSetting_shape (s : State) (r : Req) (p v : Nat) : (State.roleSetting s r p v).shape = s.shape := by simp [State.roleSetting]

@[simp] theorem execRoleWrite_shape (r : Req) (p v : Nat) (s : State) : Keeps (execRoleWrite r p v s) s := by simp [execRoleWrite]

@[simp] theorem State.allotSetting_shape (s : State) (r : Req) (p sub v : Nat) : (State.allotSetting s r p sub v).shape = s.shape := by simp [State.allotSetting]

@[simp] theorem State.podAllotSetting_shape (s : State) (r : Req) (p : Nat) (data : List Byte) : (State.podAllotSetting s r p data).shape = s.shape := by unfold State.podAllotSetting; split <;> simp

@[simp] theorem execAllotmentWrite_shape (r : Req) (p sub v : Nat) (data : List Byte) (s : State) : Keeps (execAllotmentWrite r p sub v data s) s := by simp [execAllotmentWrite]

@[simp] theorem State.revokeOrder_shape (s : State) (r : Req) (p v : Nat) : (State.revokeOrder s r p v).shape = s.shape := by simp [State.revokeOrder]

@[simp] theorem execRevoke_shape (r : Req) (p v : Nat) (s : State) : Keeps (execRevoke r p v s) s := by simp [execRevoke]

@[simp] theorem State.command_shape (s : State) (c q op : Nat) (f : Ctx → List Byte → State) (h_f : ∀ x b, (f x b).shape = s.shape) : (State.command s c q op f).shape = s.shape := by
  unfold State.command
  repeat' split
  all_goals simp [*]

@[simp] theorem execCmdNop_shape (c q : Nat) (s : State) : Keeps (execCmdNop c q s) s := by simp [execCmdNop]

@[simp] theorem execCtxCreate_shape (c q : Nat) (s : State) : Keeps (execCtxCreate c q s) s := by
  unfold execCtxCreate
  refine (keeps_next _ _).mpr (State.command_shape _ _ _ _ _ fun x b => ?_)
  split
  · simp
  split
  · simp
  split <;> simp

@[simp] theorem execCtxDestroy_shape (c q : Nat) (s : State) : Keeps (execCtxDestroy c q s) s := by
  unfold execCtxDestroy
  repeat' (first
    | with_reducible rfl
    | assumption
    | (with_reducible refine (keeps_next _ _).mpr ?_)
    | simp [*]
    | (rintro ⟨⟩)
    | split
    | (with_reducible refine shape_of_ite ?_ ?_)
    | (with_reducible refine foldl_shape _ (fun _ _ => ?_) _ _)
    | (with_reducible refine (foldl_shape _ (fun _ _ => ?_) _ _).trans ?_)
    | (with_reducible refine (foldl_snd_shape _ (fun _ _ => ?_) _ _).trans ?_)
    | (with_reducible refine (foldl_fst_shape _ (fun _ _ => ?_) _ _).trans ?_)
    | (with_reducible refine State.slot_shape _ _ _ (fun _ _ => ?_))
    | (with_reducible refine State.pipDo_shape _ _ _ _ (fun _ => ?_))
    | (with_reducible refine (State.ordered_shape _ _ _ _ _ _ _ (fun _ => ?_)).trans ?_)
    | (with_reducible refine (State.orderBytes_shape _ _ _ _ _ _ _ (fun _ => ?_)).trans ?_)
    | (with_reducible refine (State.poolRun_shape _ _ _ _ _ _ _ (fun _ _ => ?_)).trans ?_)
    | (with_reducible refine (State.poolOne_shape _ _ _ _ _ _ _ _ (fun _ _ => ?_)).trans ?_)
    | (with_reducible refine (State.command_shape _ _ _ _ _ (fun _ _ => ?_)).trans ?_))

@[simp] theorem execMap_shape (c q : Nat) (s : State) : Keeps (execMap c q s) s := by
  unfold execMap
  repeat' (first
    | with_reducible rfl
    | assumption
    | (with_reducible refine (keeps_next _ _).mpr ?_)
    | (simp [*]; done)
    | (rintro ⟨⟩)
    | split
    | (with_reducible refine shape_of_ite ?_ ?_)
    | (with_reducible refine foldl_shape _ (fun _ _ => ?_) _ _)
    | (with_reducible refine (foldl_shape _ (fun _ _ => ?_) _ _).trans ?_)
    | (with_reducible refine (foldl_snd_shape _ (fun _ _ => ?_) _ _).trans ?_)
    | (with_reducible refine (foldl_fst_shape _ (fun _ _ => ?_) _ _).trans ?_)
    | (with_reducible refine State.slot_shape _ _ _ (fun _ _ => ?_))
    | (with_reducible refine State.pipDo_shape _ _ _ _ (fun _ => ?_))
    | (with_reducible refine (State.ordered_shape _ _ _ _ _ _ _ (fun _ => ?_)).trans ?_)
    | (with_reducible refine (State.orderBytes_shape _ _ _ _ _ _ _ (fun _ => ?_)).trans ?_)
    | (with_reducible refine (State.poolRun_shape _ _ _ _ _ _ _ (fun _ _ => ?_)).trans ?_)
    | (with_reducible refine (State.poolOne_shape _ _ _ _ _ _ _ _ (fun _ _ => ?_)).trans ?_)
    | (with_reducible refine (State.command_shape _ _ _ _ _ (fun _ _ => ?_)).trans ?_))

@[simp] theorem execUnmap_shape (c q : Nat) (s : State) : Keeps (execUnmap c q s) s := by
  unfold execUnmap
  repeat' (first
    | with_reducible rfl
    | assumption
    | (with_reducible refine (keeps_next _ _).mpr ?_)
    | (simp [*]; done)
    | (rintro ⟨⟩)
    | split
    | (with_reducible refine shape_of_ite ?_ ?_)
    | (with_reducible refine foldl_shape _ (fun _ _ => ?_) _ _)
    | (with_reducible refine (foldl_shape _ (fun _ _ => ?_) _ _).trans ?_)
    | (with_reducible refine (foldl_snd_shape _ (fun _ _ => ?_) _ _).trans ?_)
    | (with_reducible refine (foldl_fst_shape _ (fun _ _ => ?_) _ _).trans ?_)
    | (with_reducible refine State.slot_shape _ _ _ (fun _ _ => ?_))
    | (with_reducible refine State.pipDo_shape _ _ _ _ (fun _ => ?_))
    | (with_reducible refine (State.ordered_shape _ _ _ _ _ _ _ (fun _ => ?_)).trans ?_)
    | (with_reducible refine (State.orderBytes_shape _ _ _ _ _ _ _ (fun _ => ?_)).trans ?_)
    | (with_reducible refine (State.poolRun_shape _ _ _ _ _ _ _ (fun _ _ => ?_)).trans ?_)
    | (with_reducible refine (State.poolOne_shape _ _ _ _ _ _ _ _ (fun _ _ => ?_)).trans ?_)
    | (with_reducible refine (State.command_shape _ _ _ _ _ (fun _ _ => ?_)).trans ?_))

@[simp] theorem execQueueCreate_shape (c q : Nat) (s : State) : Keeps (execQueueCreate c q s) s := by
  unfold execQueueCreate
  repeat' (first
    | with_reducible rfl
    | assumption
    | (with_reducible refine (keeps_next _ _).mpr ?_)
    | (simp [*]; done)
    | (rintro ⟨⟩)
    | split
    | (with_reducible refine shape_of_ite ?_ ?_)
    | (with_reducible refine foldl_shape _ (fun _ _ => ?_) _ _)
    | (with_reducible refine (foldl_shape _ (fun _ _ => ?_) _ _).trans ?_)
    | (with_reducible refine (foldl_snd_shape _ (fun _ _ => ?_) _ _).trans ?_)
    | (with_reducible refine (foldl_fst_shape _ (fun _ _ => ?_) _ _).trans ?_)
    | (with_reducible refine State.slot_shape _ _ _ (fun _ _ => ?_))
    | (with_reducible refine State.pipDo_shape _ _ _ _ (fun _ => ?_))
    | (with_reducible refine (State.ordered_shape _ _ _ _ _ _ _ (fun _ => ?_)).trans ?_)
    | (with_reducible refine (State.orderBytes_shape _ _ _ _ _ _ _ (fun _ => ?_)).trans ?_)
    | (with_reducible refine (State.poolRun_shape _ _ _ _ _ _ _ (fun _ _ => ?_)).trans ?_)
    | (with_reducible refine (State.poolOne_shape _ _ _ _ _ _ _ _ (fun _ _ => ?_)).trans ?_)
    | (with_reducible refine (State.command_shape _ _ _ _ _ (fun _ _ => ?_)).trans ?_))

@[simp] theorem execQueueDestroy_shape (c q : Nat) (s : State) : Keeps (execQueueDestroy c q s) s := by
  unfold execQueueDestroy
  repeat' (first
    | with_reducible rfl
    | assumption
    | (with_reducible refine (keeps_next _ _).mpr ?_)
    | (simp [*]; done)
    | (rintro ⟨⟩)
    | split
    | (with_reducible refine shape_of_ite ?_ ?_)
    | (with_reducible refine foldl_shape _ (fun _ _ => ?_) _ _)
    | (with_reducible refine (foldl_shape _ (fun _ _ => ?_) _ _).trans ?_)
    | (with_reducible refine (foldl_snd_shape _ (fun _ _ => ?_) _ _).trans ?_)
    | (with_reducible refine (foldl_fst_shape _ (fun _ _ => ?_) _ _).trans ?_)
    | (with_reducible refine State.slot_shape _ _ _ (fun _ _ => ?_))
    | (with_reducible refine State.pipDo_shape _ _ _ _ (fun _ => ?_))
    | (with_reducible refine (State.ordered_shape _ _ _ _ _ _ _ (fun _ => ?_)).trans ?_)
    | (with_reducible refine (State.orderBytes_shape _ _ _ _ _ _ _ (fun _ => ?_)).trans ?_)
    | (with_reducible refine (State.poolRun_shape _ _ _ _ _ _ _ (fun _ _ => ?_)).trans ?_)
    | (with_reducible refine (State.poolOne_shape _ _ _ _ _ _ _ _ (fun _ _ => ?_)).trans ?_)
    | (with_reducible refine (State.command_shape _ _ _ _ _ (fun _ _ => ?_)).trans ?_))

@[simp] theorem execFenceCreate_shape (c q : Nat) (s : State) : Keeps (execFenceCreate c q s) s := by simp [execFenceCreate]

@[simp] theorem execFenceAdvance_shape (c q : Nat) (s : State) : Keeps (execFenceAdvance c q s) s := by
  unfold execFenceAdvance
  repeat' (first
    | with_reducible rfl
    | assumption
    | (with_reducible refine (keeps_next _ _).mpr ?_)
    | (simp [*]; done)
    | (rintro ⟨⟩)
    | split
    | (with_reducible refine shape_of_ite ?_ ?_)
    | (with_reducible refine foldl_shape _ (fun _ _ => ?_) _ _)
    | (with_reducible refine (foldl_shape _ (fun _ _ => ?_) _ _).trans ?_)
    | (with_reducible refine (foldl_snd_shape _ (fun _ _ => ?_) _ _).trans ?_)
    | (with_reducible refine (foldl_fst_shape _ (fun _ _ => ?_) _ _).trans ?_)
    | (with_reducible refine State.slot_shape _ _ _ (fun _ _ => ?_))
    | (with_reducible refine State.pipDo_shape _ _ _ _ (fun _ => ?_))
    | (with_reducible refine (State.ordered_shape _ _ _ _ _ _ _ (fun _ => ?_)).trans ?_)
    | (with_reducible refine (State.orderBytes_shape _ _ _ _ _ _ _ (fun _ => ?_)).trans ?_)
    | (with_reducible refine (State.poolRun_shape _ _ _ _ _ _ _ (fun _ _ => ?_)).trans ?_)
    | (with_reducible refine (State.poolOne_shape _ _ _ _ _ _ _ _ (fun _ _ => ?_)).trans ?_)
    | (with_reducible refine (State.command_shape _ _ _ _ _ (fun _ _ => ?_)).trans ?_))

@[simp] theorem execFenceWait_shape (c q : Nat) (s : State) : Keeps (execFenceWait c q s) s := by
  unfold execFenceWait
  repeat' (first
    | with_reducible rfl
    | assumption
    | (with_reducible refine (keeps_next _ _).mpr ?_)
    | (simp [*]; done)
    | (rintro ⟨⟩)
    | split
    | (with_reducible refine shape_of_ite ?_ ?_)
    | (with_reducible refine foldl_shape _ (fun _ _ => ?_) _ _)
    | (with_reducible refine (foldl_shape _ (fun _ _ => ?_) _ _).trans ?_)
    | (with_reducible refine (foldl_snd_shape _ (fun _ _ => ?_) _ _).trans ?_)
    | (with_reducible refine (foldl_fst_shape _ (fun _ _ => ?_) _ _).trans ?_)
    | (with_reducible refine State.slot_shape _ _ _ (fun _ _ => ?_))
    | (with_reducible refine State.pipDo_shape _ _ _ _ (fun _ => ?_))
    | (with_reducible refine (State.ordered_shape _ _ _ _ _ _ _ (fun _ => ?_)).trans ?_)
    | (with_reducible refine (State.orderBytes_shape _ _ _ _ _ _ _ (fun _ => ?_)).trans ?_)
    | (with_reducible refine (State.poolRun_shape _ _ _ _ _ _ _ (fun _ _ => ?_)).trans ?_)
    | (with_reducible refine (State.poolOne_shape _ _ _ _ _ _ _ _ (fun _ _ => ?_)).trans ?_)
    | (with_reducible refine (State.command_shape _ _ _ _ _ (fun _ _ => ?_)).trans ?_))

@[simp] theorem State.finishWait_shape (s : State) (w : FWait) (st : Nat) : (State.finishWait s w st).shape = s.shape := by simp [State.finishWait]

@[simp] theorem execFenceWaitComplete_shape (c q : Nat) (s : State) : Keeps (execFenceWaitComplete c q s) s := by
  unfold execFenceWaitComplete
  refine (keeps_next _ _).mpr ?_
  repeat' split
  all_goals simp

@[simp] theorem execFenceExport_shape (c q : Nat) (s : State) : Keeps (execFenceExport c q s) s := by
  unfold execFenceExport
  repeat' (first
    | with_reducible rfl
    | assumption
    | (with_reducible refine (keeps_next _ _).mpr ?_)
    | (simp [*]; done)
    | (rintro ⟨⟩)
    | split
    | (with_reducible refine shape_of_ite ?_ ?_)
    | (with_reducible refine foldl_shape _ (fun _ _ => ?_) _ _)
    | (with_reducible refine (foldl_shape _ (fun _ _ => ?_) _ _).trans ?_)
    | (with_reducible refine (foldl_snd_shape _ (fun _ _ => ?_) _ _).trans ?_)
    | (with_reducible refine (foldl_fst_shape _ (fun _ _ => ?_) _ _).trans ?_)
    | (with_reducible refine State.slot_shape _ _ _ (fun _ _ => ?_))
    | (with_reducible refine State.pipDo_shape _ _ _ _ (fun _ => ?_))
    | (with_reducible refine (State.ordered_shape _ _ _ _ _ _ _ (fun _ => ?_)).trans ?_)
    | (with_reducible refine (State.orderBytes_shape _ _ _ _ _ _ _ (fun _ => ?_)).trans ?_)
    | (with_reducible refine (State.poolRun_shape _ _ _ _ _ _ _ (fun _ _ => ?_)).trans ?_)
    | (with_reducible refine (State.poolOne_shape _ _ _ _ _ _ _ _ (fun _ _ => ?_)).trans ?_)
    | (with_reducible refine (State.command_shape _ _ _ _ _ (fun _ _ => ?_)).trans ?_))

@[simp] theorem State.renewFence_shape (s : State) (f : Fence) : (State.renewFence s f).shape = s.shape := by simp [State.renewFence]

@[simp] theorem execFenceRevoke_shape (c q : Nat) (s : State) : Keeps (execFenceRevoke c q s) s := by
  unfold execFenceRevoke
  repeat' (first
    | with_reducible rfl
    | assumption
    | (with_reducible refine (keeps_next _ _).mpr ?_)
    | (simp [*]; done)
    | (rintro ⟨⟩)
    | split
    | (with_reducible refine shape_of_ite ?_ ?_)
    | (with_reducible refine foldl_shape _ (fun _ _ => ?_) _ _)
    | (with_reducible refine (foldl_shape _ (fun _ _ => ?_) _ _).trans ?_)
    | (with_reducible refine (foldl_snd_shape _ (fun _ _ => ?_) _ _).trans ?_)
    | (with_reducible refine (foldl_fst_shape _ (fun _ _ => ?_) _ _).trans ?_)
    | (with_reducible refine State.slot_shape _ _ _ (fun _ _ => ?_))
    | (with_reducible refine State.pipDo_shape _ _ _ _ (fun _ => ?_))
    | (with_reducible refine (State.ordered_shape _ _ _ _ _ _ _ (fun _ => ?_)).trans ?_)
    | (with_reducible refine (State.orderBytes_shape _ _ _ _ _ _ _ (fun _ => ?_)).trans ?_)
    | (with_reducible refine (State.poolRun_shape _ _ _ _ _ _ _ (fun _ _ => ?_)).trans ?_)
    | (with_reducible refine (State.poolOne_shape _ _ _ _ _ _ _ _ (fun _ _ => ?_)).trans ?_)
    | (with_reducible refine (State.command_shape _ _ _ _ _ (fun _ _ => ?_)).trans ?_))

@[simp] theorem execFenceDestroy_shape (c q : Nat) (s : State) : Keeps (execFenceDestroy c q s) s := by
  unfold execFenceDestroy
  repeat' (first
    | with_reducible rfl
    | assumption
    | (with_reducible refine (keeps_next _ _).mpr ?_)
    | simp [*]
    | (rintro ⟨⟩)
    | split
    | (with_reducible refine shape_of_ite ?_ ?_)
    | (with_reducible refine foldl_shape _ (fun _ _ => ?_) _ _)
    | (with_reducible refine (foldl_shape _ (fun _ _ => ?_) _ _).trans ?_)
    | (with_reducible refine (foldl_snd_shape _ (fun _ _ => ?_) _ _).trans ?_)
    | (with_reducible refine (foldl_fst_shape _ (fun _ _ => ?_) _ _).trans ?_)
    | (with_reducible refine State.slot_shape _ _ _ (fun _ _ => ?_))
    | (with_reducible refine State.pipDo_shape _ _ _ _ (fun _ => ?_))
    | (with_reducible refine (State.ordered_shape _ _ _ _ _ _ _ (fun _ => ?_)).trans ?_)
    | (with_reducible refine (State.orderBytes_shape _ _ _ _ _ _ _ (fun _ => ?_)).trans ?_)
    | (with_reducible refine (State.poolRun_shape _ _ _ _ _ _ _ (fun _ _ => ?_)).trans ?_)
    | (with_reducible refine (State.poolOne_shape _ _ _ _ _ _ _ _ (fun _ _ => ?_)).trans ?_)
    | (with_reducible refine (State.command_shape _ _ _ _ _ (fun _ _ => ?_)).trans ?_))

@[simp] theorem State.beginJob_shape (s : State) (x : Ctx) (q n : Nat) (d : List Byte) : (State.beginJob s x q n d).shape = s.shape := by simp [State.beginJob]

@[simp] theorem execJobStart_shape (c q : Nat) (s : State) : Keeps (execJobStart c q s) s := by
  unfold execJobStart
  repeat' (first
    | with_reducible rfl
    | assumption
    | (with_reducible refine (keeps_next _ _).mpr ?_)
    | (simp [*]; done)
    | (rintro ⟨⟩)
    | split
    | (with_reducible refine shape_of_ite ?_ ?_)
    | (with_reducible refine foldl_shape _ (fun _ _ => ?_) _ _)
    | (with_reducible refine (foldl_shape _ (fun _ _ => ?_) _ _).trans ?_)
    | (with_reducible refine (foldl_snd_shape _ (fun _ _ => ?_) _ _).trans ?_)
    | (with_reducible refine (foldl_fst_shape _ (fun _ _ => ?_) _ _).trans ?_)
    | (with_reducible refine State.slot_shape _ _ _ (fun _ _ => ?_))
    | (with_reducible refine State.pipDo_shape _ _ _ _ (fun _ => ?_))
    | (with_reducible refine (State.ordered_shape _ _ _ _ _ _ _ (fun _ => ?_)).trans ?_)
    | (with_reducible refine (State.orderBytes_shape _ _ _ _ _ _ _ (fun _ => ?_)).trans ?_)
    | (with_reducible refine (State.poolRun_shape _ _ _ _ _ _ _ (fun _ _ => ?_)).trans ?_)
    | (with_reducible refine (State.poolOne_shape _ _ _ _ _ _ _ _ (fun _ _ => ?_)).trans ?_)
    | (with_reducible refine (State.command_shape _ _ _ _ _ (fun _ _ => ?_)).trans ?_))

@[simp] theorem execJobCancel_shape (c q : Nat) (s : State) : Keeps (execJobCancel c q s) s := by simp [execJobCancel]

@[simp] theorem execJobPause_shape (r : Req) (j : Nat) (s : State) : Keeps (execJobPause r j s) s := by simp [execJobPause]

@[simp] theorem execJobResume_shape (r : Req) (j : Nat) (s : State) : Keeps (execJobResume r j s) s := by simp [execJobResume]

@[simp] theorem State.endPoolOps_shape (s : State) (c st : Nat) : (State.endPoolOps s c st).shape = s.shape := by
  unfold State.endPoolOps
  repeat' (first
    | with_reducible rfl
    | assumption
    | (with_reducible refine (keeps_next _ _).mpr ?_)
    | (simp [*]; done)
    | (rintro ⟨⟩)
    | split
    | (with_reducible refine shape_of_ite ?_ ?_)
    | (with_reducible refine foldl_shape _ (fun _ _ => ?_) _ _))

@[simp] theorem execResidencyTimeout_shape (p : Nat) (s : State) : Keeps (execResidencyTimeout p s) s := by
  unfold execResidencyTimeout
  refine (keeps_next _ _).mpr ?_
  repeat' (first | split | (with_reducible refine (shape_of_eq (by assumption)).trans ?_) | (with_reducible refine (foldl_shape _ (fun _ _ => ?_) _ _).trans ?_) | simp)

@[simp] theorem State.startCommand_shape (s : State) (p c q : Nat) : (State.startCommand s p c q).shape = s.shape := by unfold State.startCommand; split <;> simp

@[simp] theorem State.partySlot_shape (s : State) (p : Nat) : (State.partySlot s p).shape = s.shape := by
  unfold State.partySlot
  repeat' (first | split | (with_reducible refine (shape_of_eq (by assumption)).trans ?_) | (with_reducible refine (foldl_shape _ (fun _ _ => ?_) _ _).trans ?_) | simp)

@[simp] theorem State.revokeWork_shape (s : State) (c : Nat) : (State.revokeWork s c).shape = s.shape := by
  unfold State.revokeWork
  repeat' (first | split | (with_reducible refine (shape_of_eq (by assumption)).trans ?_) | (with_reducible refine (foldl_shape _ (fun _ _ => ?_) _ _).trans ?_) | simp)

@[simp] theorem State.flushQueue_shape (s : State) (x : Ctx) (q n : Nat) : (State.flushQueue s x q n).shape = s.shape := by
  refine State.endQueue_shape _ _ _ _ _ (fun cmd s => ?_) _
  split
  · exact shape_of_ite rfl (State.advanceFence_shape _ _ _)
  · rfl

@[simp] theorem State.flushAdvances_shape (s : State) (c : Nat) : (State.flushAdvances s c).shape = s.shape := by
  unfold State.flushAdvances
  repeat' (first
    | with_reducible rfl
    | assumption
    | (with_reducible refine (keeps_next _ _).mpr ?_)
    | simp [*]
    | (rintro ⟨⟩)
    | split
    | (with_reducible refine shape_of_ite ?_ ?_)
    | (with_reducible refine foldl_shape _ (fun _ _ => ?_) _ _))

@[simp] theorem State.settleWaits_shape (s : State) (c : Nat) : (State.settleWaits s c).shape = s.shape := by
  unfold State.settleWaits
  refine foldl_shape _ (fun t w => ?_) _ _
  split
  · split
    · split <;> simp
    · rfl
  · rfl

@[simp] theorem State.revokeCtx_shape (s : State) (c : Nat) (by_ : Option (Nat × Nat × Nat)) : (State.revokeCtx s c by_).shape = s.shape := by
  unfold State.revokeCtx
  repeat' (first | split | (with_reducible refine (shape_of_eq (by assumption)).trans ?_) | (with_reducible refine (foldl_shape _ (fun _ _ => ?_) _ _).trans ?_) | simp)

@[simp] theorem State.freeCtx_shape (s : State) (c : Nat) (by_ : Option (Nat × Nat × Nat)) : (State.freeCtx s c by_).shape = s.shape := by
  unfold State.freeCtx
  repeat' (first | split | (with_reducible refine foldl_shape _ (fun _ _ => ?_) _ _) | simp)

@[simp] theorem State.revokeAll_shape (s : State) (p : Nat) : (State.revokeAll s p).shape = s.shape := by
  unfold State.revokeAll
  repeat' (first | split | (with_reducible refine foldl_shape _ (fun _ _ => ?_) _ _) | simp)

@[simp] theorem State.ungrant_shape (s : State) (idx : Nat) : (State.ungrant s idx).shape = s.shape := by simp [State.ungrant]

@[simp] theorem State.mirrorSetting_shape (s : State) (r : Req) (data : List Byte) : (State.mirrorSetting s r data).shape = s.shape := by simp [State.mirrorSetting]

@[simp] theorem execMirrorTableWrite_shape (r : Req) (data : List Byte) (s : State) : Keeps (execMirrorTableWrite r data s) s := by simp [execMirrorTableWrite]

@[simp] theorem State.setMirror_shape (s : State) (old : Option Mirror) (b : List Byte) :
    (State.setMirror s old b).1.shape = s.shape := by
  unfold State.setMirror
  repeat' (first | split | (with_reducible refine foldl_shape _ (fun _ _ => ?_) _ _) | simp)

@[simp] theorem State.applyMirrors_shape (s : State) (data : List Byte) : (State.applyMirrors s data).shape = s.shape := by
  unfold State.applyMirrors
  repeat' (first
    | with_reducible rfl
    | assumption
    | (with_reducible refine (keeps_next _ _).mpr ?_)
    | (simp [*]; done)
    | (rintro ⟨⟩)
    | split
    | (with_reducible refine shape_of_ite ?_ ?_)
    | (with_reducible refine foldl_shape _ (fun _ _ => ?_) _ _)
    | (with_reducible refine (foldl_shape _ (fun _ _ => ?_) _ _).trans ?_)
    | (with_reducible refine (foldl_snd_shape _ (fun _ _ => ?_) _ _).trans ?_)
    | (with_reducible refine (foldl_fst_shape _ (fun _ _ => ?_) _ _).trans ?_)
    | (with_reducible refine State.slot_shape _ _ _ (fun _ _ => ?_))
    | (with_reducible refine State.pipDo_shape _ _ _ _ (fun _ => ?_))
    | (with_reducible refine (State.ordered_shape _ _ _ _ _ _ _ (fun _ => ?_)).trans ?_)
    | (with_reducible refine (State.orderBytes_shape _ _ _ _ _ _ _ (fun _ => ?_)).trans ?_)
    | (with_reducible refine (State.poolRun_shape _ _ _ _ _ _ _ (fun _ _ => ?_)).trans ?_)
    | (with_reducible refine (State.poolOne_shape _ _ _ _ _ _ _ _ (fun _ _ => ?_)).trans ?_)
    | (with_reducible refine (State.command_shape _ _ _ _ _ (fun _ _ => ?_)).trans ?_)
    | (with_reducible refine (State.transmit_shape _ _ _ (by assumption)).trans ?_)
    | (with_reducible refine (State.pipStore_shape _ _ _ _ (by assumption)).trans ?_)
    | (with_reducible refine (State.planFences_shape _ _ (by assumption)).trans ?_)
    | (with_reducible refine (shape_of_eq (by assumption)).trans ?_)
    | (with_reducible refine (shape_of_eq' (by assumption)).trans ?_)
    | (with_reducible refine (shape_of_eq3 (by assumption)).trans ?_)
    | (with_reducible refine (shape_of_eq4 (by assumption)).trans ?_)
    | simp)

@[simp] theorem execMirrorPoll_shape (i : Nat) (status : Option Nat) (value : Nat) (s : State) : Keeps (execMirrorPoll i status value s) s := by unfold execMirrorPoll; refine (keeps_next _ _).mpr ?_; split <;> simp

end Sys2Proof.Machine
end

