-- ==== Sys2Proof/Laws/KeepSense.lean ====
section
/-! SUPPORT. The operations of Machine/Sense.lean keep the queue and the units of the device. -/

namespace Sys2Proof.Machine

open Sys2Proof

@[simp] theorem State.onChan_shape (s : State) (i : Nat) (f : Channel → Channel) : (State.onChan s i f).shape = s.shape := by simp [State.onChan]

@[simp] theorem execOverloadStart_shape (ch : Nat) (positive : Bool) (s : State) : Keeps (execOverloadStart ch positive s) s := by simp [execOverloadStart]

@[simp] theorem execOverloadEnd_shape (ch : Nat) (s : State) : Keeps (execOverloadEnd ch s) s := by
  unfold execOverloadEnd
  refine (keeps_next _ _).mpr ?_
  repeat' (first | split | (with_reducible refine (shape_of_eq (by assumption)).trans ?_) | (with_reducible refine (foldl_shape _ (fun _ _ => ?_) _ _).trans ?_) | simp)

@[simp] theorem execSampleReady_shape (ch : Nat) (code : Int) (instant : Nat) (beyond openIn : Bool) (s : State) : Keeps (execSampleReady ch code instant beyond openIn s) s := by simp [execSampleReady]

@[simp] theorem execBiasStateChange_shape (ch : Nat) (readings : List Int) (supply : Int) (s : State) : Keeps (execBiasStateChange ch readings supply s) s := by simp [execBiasStateChange]

@[simp] theorem State.cutCounts_shape (s : State) (q : Nat) : (State.cutCounts s q).shape = s.shape := by
  unfold State.cutCounts
  repeat' (first | with_reducible rfl | assumption | (with_reducible refine (keeps_next _ _).mpr ?_) | simp [*])

@[simp] theorem State.qChange_shape (s : State) (q t : Nat) (a b : Bool) : (State.qChange s q t a b).shape = s.shape := by
  unfold State.qChange
  repeat' (first | split | (with_reducible refine foldl_shape _ (fun _ _ => ?_) _ _) | simp)

@[simp] theorem State.chanSetting_shape (s : State) (r : Req) (ch sub v : Nat) : (State.chanSetting s r ch sub v).shape = s.shape := by simp [State.chanSetting]

@[simp] theorem execChannelConfigWrite_shape (r : Req) (ch sub v : Nat) (s : State) : Keeps (execChannelConfigWrite r ch sub v s) s := by simp [execChannelConfigWrite]

@[simp] theorem State.chanBoundary_shape (s : State) (old : List (Nat × Nat)) : (State.chanBoundary s old).shape = s.shape := by
  unfold State.chanBoundary
  repeat' (first | split | (with_reducible refine (shape_of_eq (by assumption)).trans ?_) | (with_reducible refine (foldl_shape _ (fun _ _ => ?_) _ _).trans ?_) | simp)

@[simp] theorem State.cutBlocks_shape (s : State) : (State.cutBlocks s).shape = s.shape := by
  unfold State.cutBlocks
  repeat' (first | split | (with_reducible refine foldl_shape _ (fun _ _ => ?_) _ _) | simp)

@[simp] theorem State.rawJob_shape (s : State) (seg : Nat) (j : IntakeJob) : (State.rawJob s seg j).shape = s.shape := by unfold State.rawJob; split <;> simp

@[simp] theorem State.expireRun_shape (s : State) (e : Nat) : (State.expireRun s e).shape = s.shape := by simp [State.expireRun]

@[simp] theorem execIntakeJob_shape (seg job : Nat) (s : State) : Keeps (execIntakeJob seg job s) s := by
  unfold execIntakeJob
  refine (keeps_next _ _).mpr ?_
  repeat' split
  all_goals simp

end Sys2Proof.Machine
end

