-- ==== Sys2Proof/Laws/KeepInteg.lean ====
section
/-! SUPPORT. The operations of Machine/Integ.lean keep the queue and the units of the device. -/

namespace Sys2Proof.Machine

open Sys2Proof

@[simp] theorem execPodFence_shape (pod : Nat) (s : State) : Keeps (execPodFence pod s) s := by simp [execPodFence]

@[simp] theorem execPodServiceWrite_shape (r : Req) (pod v : Nat) (s : State) : Keeps (execPodServiceWrite r pod v s) s := by simp [execPodServiceWrite]

@[simp] theorem State.podClearOrder_shape (s : State) (r : Req) (pod v : Nat) : (State.podClearOrder s r pod v).shape = s.shape := by simp [State.podClearOrder]

@[simp] theorem execPodClear_shape (r : Req) (pod v : Nat) (s : State) : Keeps (execPodClear r pod v s) s := by simp [execPodClear]

@[simp] theorem State.clearPod_shape (s : State) (pod : Nat) : (State.clearPod s pod).shape = s.shape := by simp [State.clearPod]

@[simp] theorem State.nameBoundary_shape (s : State) : (State.nameBoundary s).shape = s.shape := by simp [State.nameBoundary]

@[simp] theorem State.serviceBoundary_shape (s : State) : (State.serviceBoundary s).shape = s.shape := by
  unfold State.serviceBoundary
  repeat' (first | split | (with_reducible refine foldl_shape _ (fun _ _ => ?_) _ _) | simp)

@[simp] theorem execWinnowRead_shape (ecc : Ecc) (s : State) : Keeps (execWinnowRead ecc s) s := by simp [execWinnowRead]

@[simp] theorem State.winnowRowRead_shape (s : State) (errs : List (Nat × Int)) : (State.winnowRowRead s errs).shape = s.shape := by
  unfold State.winnowRowRead
  split
  · rfl
  · generalize (List.range 2560).find? _ = o
    cases o with
    | none => rfl
    | some i =>
      dsimp only
      split
      · simp
      · split <;> simp

@[simp] theorem State.winnowVector_shape (s : State) : (State.winnowVector s).shape = s.shape := by
  unfold State.winnowVector
  repeat' (first
    | with_reducible rfl
    | assumption
    | (with_reducible refine (keeps_next _ _).mpr ?_)
    | (simp [*]; done)
    | (rintro ⟨⟩)
    | split
    | (with_reducible refine shape_of_ite ?_ ?_)
    | (with_reducible refine foldl_shape _ (fun _ _ => ?_) _ _)
    | (with_reducible refine (foldl_shape _ (fun _ _ => ?_) _ _).trans ?_))

@[simp] theorem State.differBoundary_shape (s : State) : (State.differBoundary s).shape = s.shape := by simp [State.differBoundary]

end Sys2Proof.Machine
end

