-- ==== Sys2Proof/Laws/KeepThermal.lean ====
section
/-! SUPPORT. The operations of Machine/Thermal.lean keep the queue and the units of the device. -/

namespace Sys2Proof.Machine

open Sys2Proof

@[simp] theorem State.domainSetting_shape (s : State) (r : Req) (d v : Nat) : (State.domainSetting s r d v).shape = s.shape := by simp [State.domainSetting]

@[simp] theorem execDomainEnableWrite_shape (r : Req) (d v : Nat) (s : State) : Keeps (execDomainEnableWrite r d v s) s := by simp [execDomainEnableWrite]

@[simp] theorem execClusterEnableWrite_shape (r : Req) (c v : Nat) (s : State) : Keeps (execClusterEnableWrite r c v s) s := by simp [execClusterEnableWrite]

@[simp] theorem execPowerStateWrite_shape (r : Req) (v : Nat) (s : State) : Keeps (execPowerStateWrite r v s) s := by simp [execPowerStateWrite]

@[simp] theorem State.setRails_shape (s : State) (is : List Nat) (v : Bool) : (State.setRails s is v).shape = s.shape := by simp [State.setRails]

@[simp] theorem State.domainOff_shape (s : State) (d : Nat) (rails : List Nat) : (State.domainOff s d rails).shape = s.shape := by
  unfold State.domainOff
  repeat' (first | with_reducible rfl | assumption | (with_reducible refine (keeps_next _ _).mpr ?_) | simp [*])

@[simp] theorem State.domainBoundary_shape (s : State) : (State.domainBoundary s).shape = s.shape := by simp [State.domainBoundary]

@[simp] theorem State.startPowerUps_shape (s : State) : (State.startPowerUps s).shape = s.shape := by simp [State.startPowerUps]

@[simp] theorem execDomainPowerUp_shape (d : Nat) (s : State) : Keeps (execDomainPowerUp d s) s := by unfold execDomainPowerUp; refine (keeps_next _ _).mpr ?_; split <;> simp

@[simp] theorem State.gateBoundary_shape (s : State) : (State.gateBoundary s).shape = s.shape := by
  unfold State.gateBoundary
  repeat' (first | split | (with_reducible refine (shape_of_eq (by assumption)).trans ?_) | (with_reducible refine (foldl_shape _ (fun _ _ => ?_) _ _).trans ?_) | simp)

@[simp] theorem State.takeReadings_shape (s : State) (vals : List Int) (ntc : Int) : (State.takeReadings s vals ntc).shape = s.shape := by
  unfold State.takeReadings
  repeat' (first | split | (with_reducible refine (shape_of_eq (by assumption)).trans ?_) | (with_reducible refine (foldl_shape _ (fun _ _ => ?_) _ _).trans ?_) | simp)

@[simp] theorem State.warn_shape (s : State) : (State.warn s).shape = s.shape := by simp [State.warn]

@[simp] theorem State.decideStep_shape (s : State) (n : Nat) : (State.decideStep s n).shape = s.shape := by simp [State.decideStep]

@[simp] theorem State.ladder_shape (s : State) : (State.ladder s).shape = s.shape := by simp [State.ladder]

@[simp] theorem State.watchHeat_shape (s : State) : (State.watchHeat s).shape = s.shape := by simp [State.watchHeat]

@[simp] theorem State.raiseShutdown_shape (s : State) : (State.raiseShutdown s).shape = s.shape := by
  unfold State.raiseShutdown
  repeat' (first | with_reducible rfl | assumption | (with_reducible refine (keeps_next _ _).mpr ?_) | simp [*])

@[simp] theorem execSensorReading_shape (vals : List Int) (ntc : Int) (s : State) : Keeps (execSensorReading vals ntc s) s := by simp [execSensorReading]

@[simp] theorem execSensorOutOfService_shape (i : Nat) (s : State) : Keeps (execSensorOutOfService i s) s := by unfold execSensorOutOfService; refine (keeps_next _ _).mpr ?_; split <;> simp

@[simp] theorem execClusterGated_shape (s : State) : Keeps (execClusterGated s) s := by unfold execClusterGated; refine (keeps_next _ _).mpr ?_; split <;> simp

@[simp] theorem State.clusterClearOrder_shape (s : State) (r : Req) (c v : Nat) : (State.clusterClearOrder s r c v).shape = s.shape := by simp [State.clusterClearOrder]

@[simp] theorem execClusterClear_shape (r : Req) (c v : Nat) (s : State) : Keeps (execClusterClear r c v s) s := by simp [execClusterClear]

@[simp] theorem State.clearGate_shape (s : State) (c : Nat) (heat : Bool) : (State.clearGate s c heat).shape = s.shape := by
  unfold State.clearGate
  repeat' (first | with_reducible rfl | assumption | (with_reducible refine (keeps_next _ _).mpr ?_) | simp [*])

@[simp] theorem State.addShutdown_shape (s : State) (x : ShutdownRec) : (State.addShutdown s x).shape = s.shape := by simp [State.addShutdown]

@[simp] theorem State.stopWork_shape (s : State) : (State.stopWork s).shape = s.shape := by simp [State.stopWork]

@[simp] theorem execOrderly_shape (s : State) : Keeps (execOrderly s) s := by
  unfold execOrderly
  refine (keeps_next _ _).mpr ?_
  repeat' split
  all_goals simp

@[simp] theorem State.enterSafe_shape (s : State) : (State.enterSafe s).shape = s.shape := by
  unfold State.enterSafe
  repeat' (first
    | with_reducible rfl
    | assumption
    | (with_reducible refine (keeps_next _ _).mpr ?_)
    | (simp [*]; done)
    | (rintro ⟨⟩)
    | split)

@[simp] theorem State.filler_shape (s : State) (i : Nat) : (State.filler s i).shape = s.shape := by simp [State.filler]

@[simp] theorem State.ballastMvms_shape (s : State) : (State.ballastMvms s).shape = s.shape := by
  unfold State.ballastMvms
  repeat' (first
    | with_reducible rfl
    | assumption
    | (with_reducible refine (keeps_next _ _).mpr ?_)
    | (simp [*]; done)
    | (rintro ⟨⟩)
    | split
    | (with_reducible refine shape_of_ite ?_ ?_)
    | (with_reducible refine foldl_shape _ (fun _ _ => ?_) _ _))

@[simp] theorem State.coreTimed_shape (s : State) : (State.coreTimed s).shape = s.shape := by
  unfold State.coreTimed
  repeat' (first | with_reducible rfl | assumption | (with_reducible refine (keeps_next _ _).mpr ?_) | simp [*])

@[simp] theorem State.idle_shape (s : State) : (State.idle s).shape = s.shape := by simp [State.idle]

end Sys2Proof.Machine
end

