-- ==== Sys2Proof/Laws/KeepReset.lean ====
section
/-! SUPPORT. The operations of Machine/Reset.lean keep the queue and the units of the device. -/

namespace Sys2Proof.Machine

open Sys2Proof

@[simp] theorem State.resetPods_shape (s : State) : (State.resetPods s).shape = s.shape := by
  unfold State.resetPods
  repeat' (first | split | (with_reducible refine (shape_of_eq (by assumption)).trans ?_) | (with_reducible refine (foldl_shape _ (fun _ _ => ?_) _ _).trans ?_) | simp)

@[simp] theorem State.resetJobs_shape (s : State) (warm : Bool) : (State.resetJobs s warm).shape = s.shape := by
  unfold State.resetJobs
  repeat' (first | split | (with_reducible refine foldl_shape _ (fun _ _ => ?_) _ _) | simp)

@[simp] theorem State.resetStore_shape (s : State) : (State.resetStore s).shape = s.shape := by simp [State.resetStore]

@[simp] theorem State.resetLogic_shape (s : State) (warm : Bool) : (State.resetLogic s warm).shape = s.shape := by unfold State.resetLogic; split <;> simp

@[simp] theorem State.restoreVault_shape (s : State) : (State.restoreVault s).shape = s.shape := by simp [State.restoreVault]

@[simp] theorem State.beginSprout_shape (s : State) (kind : ResetKind) : (State.beginSprout s kind).shape = s.shape := by simp [State.beginSprout]

@[simp] theorem State.warmSprout_shape (s : State) : (State.warmSprout s).shape = s.shape := by simp [State.warmSprout]

@[simp] theorem State.toOff_shape (s : State) : (State.toOff s).shape = s.shape := by simp [State.toOff]

@[simp] theorem State.saveHusk_shape (s : State) : (State.saveHusk s).shape = s.shape := by simp [State.saveHusk]

end Sys2Proof.Machine
end

