-- ==== Sys2Proof/Laws/KeepHoldup.lean ====
section
/-! SUPPORT. The operations of Machine/Holdup.lean keep the queue and the units of the device. -/

namespace Sys2Proof.Machine

open Sys2Proof

@[simp] theorem State.onStore_shape (s : State) (f : Store → Store) : (State.onStore s f).shape = s.shape := by simp [State.onStore]

@[simp] theorem State.estimate_shape (s : State) : (State.estimate s).shape = s.shape := by simp [State.estimate]

@[simp] theorem execEnergyEvaluation_shape (s : State) : Keeps (execEnergyEvaluation s) s := by simp [execEnergyEvaluation]

@[simp] theorem execStoreSample_shape (ma : Int) (mv : Nat) (s : State) : Keeps (execStoreSample ma mv s) s := by simp [execStoreSample]

@[simp] theorem State.cleanReference_shape (s : State) (c : Option Nat) : (State.cleanReference s c).shape = s.shape := by unfold State.cleanReference; split <;> simp

@[simp] theorem State.chargeOn_shape (s : State) : (State.chargeOn s).shape = s.shape := by simp [State.chargeOn]

@[simp] theorem execChargeTermination_shape (s : State) : Keeps (execChargeTermination s) s := by simp [execChargeTermination]

@[simp] theorem execChargerRestart_shape (s : State) : Keeps (execChargerRestart s) s := by simp [execChargerRestart]

@[simp] theorem execChargeTimeout_shape (s : State) : Keeps (execChargeTimeout s) s := by simp [execChargeTimeout]

@[simp] theorem execRestReference_shape (s : State) : Keeps (execRestReference s) s := by unfold execRestReference; refine (keeps_next _ _).mpr ?_; split <;> simp

@[simp] theorem execReferencePulse_shape (s : State) : Keeps (execReferencePulse s) s := by simp [execReferencePulse]

@[simp] theorem execReferencePulseEnd_shape (vBefore vOnset vStart vEnd : Nat) (s : State) : Keeps (execReferencePulseEnd vBefore vOnset vStart vEnd s) s := by unfold execReferencePulseEnd; refine (keeps_next _ _).mpr ?_; split <;> simp

@[simp] theorem execFallback_shape (s : State) : Keeps (execFallback s) s := by simp [execFallback]

@[simp] theorem State.snapRegions_shape (s : State) : (State.snapRegions s).shape = s.shape := by simp [State.snapRegions]

@[simp] theorem State.copyEnds_shape (s : State) : (State.copyEnds s).shape = s.shape := by simp [State.copyEnds]

@[simp] theorem State.copyFrom_shape (s : State) (y0 : Nat) (y1 : Nat) : (State.copyFrom s y0 y1).shape = s.shape := by
  induction y0 generalizing s y1
  all_goals unfold State.copyFrom
  repeat' (first
    | with_reducible rfl
    | assumption
    | (with_reducible refine (keeps_next _ _).mpr ?_)
    | (simp [*]; done)
    | (rintro ⟨⟩)
    | split)

@[simp] theorem State.startCopy_shape (s : State) : (State.startCopy s).shape = s.shape := by simp [State.startCopy]

@[simp] theorem State.regionDone_shape (s : State) (i : Nat) : (State.regionDone s i).shape = s.shape := by simp [State.regionDone]

@[simp] theorem execKeepRegionDone_shape (s : State) : Keeps (execKeepRegionDone s) s := by unfold execKeepRegionDone; refine (keeps_next _ _).mpr ?_; split <;> simp

@[simp] theorem execFlushComplete_shape (s : State) : Keeps (execFlushComplete s) s := by unfold execFlushComplete; refine (keeps_next _ _).mpr ?_; split <;> simp

@[simp] theorem State.loseInput_shape (s : State) : (State.loseInput s).shape = s.shape := by simp [State.loseInput]

@[simp] theorem State.abandonOthers_shape (s : State) : (State.abandonOthers s).shape = s.shape := by
  unfold State.abandonOthers
  repeat' (first | split | (with_reducible refine foldl_shape _ (fun _ _ => ?_) _ _) | simp)

@[simp] theorem execInputLost_shape (s : State) : Keeps (execInputLost s) s := by
  unfold execInputLost
  refine (keeps_next _ _).mpr ?_
  repeat' (first | split | (with_reducible refine foldl_shape _ (fun _ _ => ?_) _ _) | simp)

@[simp] theorem State.holdEntry_shape (s : State) : (State.holdEntry s).shape = s.shape := by simp [State.holdEntry]

@[simp] theorem State.holdExit_shape (s : State) : (State.holdExit s).shape = s.shape := by simp [State.holdExit]

@[simp] theorem execInputRestored_shape (s : State) : Keeps (execInputRestored s) s := by
  unfold execInputRestored
  refine (keeps_next _ _).mpr ?_
  repeat' (first | split | (with_reducible refine foldl_shape _ (fun _ _ => ?_) _ _) | simp)

@[simp] theorem execHoldStop_shape (s : State) : Keeps (execHoldStop s) s := by unfold execHoldStop; refine (keeps_next _ _).mpr ?_; split <;> simp

@[simp] theorem State.keepRegionsOrder_shape (s : State) (r : Req) (data : List Byte) : (State.keepRegionsOrder s r data).shape = s.shape := by unfold State.keepRegionsOrder; split <;> simp

@[simp] theorem execKeepRegionsWrite_shape (r : Req) (data : List Byte) (s : State) : Keeps (execKeepRegionsWrite r data s) s := by simp [execKeepRegionsWrite]

@[simp] theorem State.holdUpImageOrder_shape (s : State) (r : Req) (data : List Byte) : (State.holdUpImageOrder s r data).shape = s.shape := by
  unfold State.holdUpImageOrder
  repeat' (first | with_reducible rfl | assumption | (with_reducible refine (keeps_next _ _).mpr ?_) | simp [*])

@[simp] theorem execHoldUpPipImageWrite_shape (r : Req) (data : List Byte) (s : State) : Keeps (execHoldUpPipImageWrite r data s) s := by simp [execHoldUpPipImageWrite]

end Sys2Proof.Machine
end

