-- ==== Sys2Proof/Laws/KeepSecurity.lean ====
section
/-! SUPPORT. The operations of Machine/Security.lean keep the queue and the units of the device. -/

namespace Sys2Proof.Machine

open Sys2Proof

@[simp] theorem State.onSec_shape (s : State) (f : Sec → Sec) : (State.onSec s f).shape = s.shape := by simp [State.onSec]

@[simp] theorem State.sealedWrite_shape (s : State) (r : Req) (index sub len : Nat) (own : Nat) (eff : State → State) (h_eff : ∀ s, (eff s).shape = s.shape) : (State.sealedWrite s r index sub len own eff).shape = s.shape := by
  unfold State.sealedWrite
  repeat' split
  all_goals simp [*]

@[simp] theorem State.planKeyOrder_shape (s : State) (r : Req) (data : List Byte) : (State.planKeyOrder s r data).shape = s.shape := by
  unfold State.planKeyOrder
  repeat' (first | with_reducible rfl | assumption | (with_reducible refine (keeps_next _ _).mpr ?_) | simp [*])

@[simp] theorem execPlanKeyInstall_shape (r : Req) (data : List Byte) (s : State) : Keeps (execPlanKeyInstall r data s) s := by simp [execPlanKeyInstall]

@[simp] theorem State.eraseRegions_shape (s : State) (p : Nat) : (State.eraseRegions s p).shape = s.shape := by simp [State.eraseRegions]

@[simp] theorem State.renewParty_shape (s : State) (p : Nat) : (State.renewParty s p).shape = s.shape := by simp [State.renewParty]

@[simp] theorem State.putPlanKey_shape (s : State) (p id : Nat) (pub : List Byte) (counter : Bool) : (State.putPlanKey s p id pub counter).shape = s.shape := by
  unfold State.putPlanKey
  repeat' split
  all_goals simp

@[simp] theorem State.sakOrder_shape (s : State) (r : Req) (data : List Byte) (unwrapOk : Bool) : (State.sakOrder s r data unwrapOk).shape = s.shape := by
  unfold State.sakOrder
  repeat' (first | with_reducible rfl | assumption | (with_reducible refine (keeps_next _ _).mpr ?_) | simp [*])

@[simp] theorem execSakInstall_shape (r : Req) (data : List Byte) (unwrapOk : Bool) (s : State) : Keeps (execSakInstall r data unwrapOk s) s := by simp [execSakInstall]

@[simp] theorem State.activateSa_shape (s : State) (p : Nat) (tx : Bool) (an id : Nat) : (State.activateSa s p tx an id).shape = s.shape := by simp [State.activateSa]

@[simp] theorem State.putSak_shape (s : State) (p dir an id : Nat) : (State.putSak s p dir an id).shape = s.shape := by simp [State.putSak]

@[simp] theorem State.poolKeyOrder_shape (s : State) (r : Req) (v : Nat) : (State.poolKeyOrder s r v).shape = s.shape := by
  unfold State.poolKeyOrder
  repeat' (first | with_reducible rfl | assumption | (with_reducible refine (keeps_next _ _).mpr ?_) | simp [*])

@[simp] theorem execPoolKeyInstall_shape (r : Req) (v : Nat) (s : State) : Keeps (execPoolKeyInstall r v s) s := by simp [execPoolKeyInstall]

@[simp] theorem State.firmwareOrder_shape (s : State) (r : Req) (data : List Byte) (sigOk : Bool) : (State.firmwareOrder s r data sigOk).shape = s.shape := by
  unfold State.firmwareOrder
  repeat' (first | with_reducible rfl | assumption | (with_reducible refine (keeps_next _ _).mpr ?_) | simp [*])

@[simp] theorem execFirmwareImage_shape (r : Req) (data : List Byte) (sigOk : Bool) (s : State) : Keeps (execFirmwareImage r data sigOk s) s := by
  unfold execFirmwareImage
  repeat' (first | with_reducible rfl | assumption | (with_reducible refine (keeps_next _ _).mpr ?_) | simp [*])

@[simp] theorem execFirmwareSlotWritten_shape (s : State) : Keeps (execFirmwareSlotWritten s) s := by unfold execFirmwareSlotWritten; refine (keeps_next _ _).mpr ?_; split <;> simp

@[simp] theorem State.activateOrder_shape (s : State) (r : Req) (v : Nat) : (State.activateOrder s r v).shape = s.shape := by simp [State.activateOrder]

@[simp] theorem execActivateSlot_shape (r : Req) (v : Nat) (s : State) : Keeps (execActivateSlot r v s) s := by simp [execActivateSlot]

@[simp] theorem State.lifecycleOrder_shape (s : State) (r : Req) (data : List Byte) (sigOk : Bool) : (State.lifecycleOrder s r data sigOk).shape = s.shape := by
  unfold State.lifecycleOrder
  repeat' (first | with_reducible rfl | assumption | (with_reducible refine (keeps_next _ _).mpr ?_) | simp [*])

@[simp] theorem execLifecycleRequest_shape (r : Req) (data : List Byte) (sigOk : Bool) (s : State) : Keeps (execLifecycleRequest r data sigOk s) s := by simp [execLifecycleRequest]

@[simp] theorem State.eraseReg_shape (s : State) (k : Nat) : (State.eraseReg s k).shape = s.shape := by simp [State.eraseReg]

@[simp] theorem State.eraseDom_shape (s : State) (k : Nat) : (State.eraseDom s k).shape = s.shape := by simp [State.eraseDom]

@[simp] theorem State.enterReturned_shape (s : State) : (State.enterReturned s).shape = s.shape := by
  unfold State.enterReturned
  repeat' (first | split | (with_reducible refine (shape_of_eq (by assumption)).trans ?_) | (with_reducible refine (foldl_shape _ (fun _ _ => ?_) _ _).trans ?_) | simp)

@[simp] theorem State.setLifecycle_shape (s : State) (v : Nat) : (State.setLifecycle s v).shape = s.shape := by simp [State.setLifecycle]

@[simp] theorem State.scrubOne_shape (s : State) (ok : Bool) : (State.scrubOne s ok).shape = s.shape := by simp [State.scrubOne]

@[simp] theorem State.eraseParties_shape (s : State) : (State.eraseParties s).shape = s.shape := by
  unfold State.eraseParties
  repeat' (first | split | (with_reducible refine (shape_of_eq (by assumption)).trans ?_) | (with_reducible refine (foldl_shape _ (fun _ _ => ?_) _ _).trans ?_) | simp)

@[simp] theorem State.clearEngines_shape (s : State) : (State.clearEngines s).shape = s.shape := by
  unfold State.clearEngines
  repeat' (first | with_reducible rfl | assumption | (with_reducible refine (keeps_next _ _).mpr ?_) | simp [*])

@[simp] theorem execScrubStageEnd_shape (verifyOk : Bool) (s : State) : Keeps (execScrubStageEnd verifyOk s) s := by
  unfold execScrubStageEnd
  refine (keeps_next _ _).mpr ?_
  repeat' split
  all_goals simp

@[simp] theorem State.useChallenge_shape (s : State) (failed : Bool) : (State.useChallenge s failed).shape = s.shape := by simp [State.useChallenge]

@[simp] theorem State.debugOrder_shape (s : State) (r : Req) (data : List Byte) (sigOk : Bool) : (State.debugOrder s r data sigOk).shape = s.shape := by
  unfold State.debugOrder
  repeat' (first
    | with_reducible rfl
    | assumption
    | (with_reducible refine (keeps_next _ _).mpr ?_)
    | (simp [*]; done)
    | (rintro ⟨⟩)
    | split)

@[simp] theorem execDebugResponse_shape (r : Req) (data : List Byte) (sigOk : Bool) (s : State) : Keeps (execDebugResponse r data sigOk s) s := by
  unfold execDebugResponse
  repeat' (first | with_reducible rfl | assumption | (with_reducible refine (keeps_next _ _).mpr ?_) | simp [*])

@[simp] theorem State.debugCloseOrder_shape (s : State) (r : Req) (v : Nat) : (State.debugCloseOrder s r v).shape = s.shape := by simp [State.debugCloseOrder]

@[simp] theorem execDebugClose_shape (r : Req) (v : Nat) (s : State) : Keeps (execDebugClose r v s) s := by simp [execDebugClose]

@[simp] theorem State.setDebug_shape (s : State) (v : Nat) : (State.setDebug s v).shape = s.shape := by simp [State.setDebug]

@[simp] theorem State.debugRecheck_shape (s : State) : (State.debugRecheck s).shape = s.shape := by simp [State.debugRecheck]

@[simp] theorem execDebugExpiry_shape (s : State) : Keeps (execDebugExpiry s) s := by simp [execDebugExpiry]

end Sys2Proof.Machine
end

