-- ==== Sys2Proof/Laws/KeepBoot.lean ====
section
/-! SUPPORT. The operations of Machine/Boot.lean keep the queue and the units of the device. -/

namespace Sys2Proof.Machine

open Sys2Proof

@[simp] theorem State.onHusk_shape (s : State) (f : Husk → Husk) : (State.onHusk s f).shape = s.shape := by simp [State.onHusk]

@[simp] theorem State.warmTrigger_shape (s : State) : (State.warmTrigger s).shape = s.shape := by
  unfold State.warmTrigger
  repeat' (first
    | with_reducible rfl
    | assumption
    | (with_reducible refine (keeps_next _ _).mpr ?_)
    | (simp [*]; done)
    | (rintro ⟨⟩)
    | split
    | (with_reducible refine shape_of_ite ?_ ?_)
    | (with_reducible refine foldl_shape _ (fun _ _ => ?_) _ _)
    | (with_reducible refine (foldl_shape _ (fun _ _ => ?_) _ _).trans ?_)
    | (with_reducible refine (foldl_snd_shape _ (fun _ _ => ?_) _ _).trans ?_)
    | (with_reducible refine (foldl_fst_shape _ (fun _ _ => ?_) _ _).trans ?_)
    | (with_reducible refine State.slot_shape _ _ _ (fun _ _ => ?_))
    | (with_reducible refine State.pipDo_shape _ _ _ _ (fun _ => ?_))
    | (with_reducible refine (State.ordered_shape _ _ _ _ _ _ _ (fun _ => ?_)).trans ?_)
    | (with_reducible refine (State.orderBytes_shape _ _ _ _ _ _ _ (fun _ => ?_)).trans ?_)
    | (with_reducible refine (State.poolRun_shape _ _ _ _ _ _ _ (fun _ _ => ?_)).trans ?_)
    | (with_reducible refine (State.poolOne_shape _ _ _ _ _ _ _ _ (fun _ _ => ?_)).trans ?_)
    | (with_reducible refine (State.command_shape _ _ _ _ _ (fun _ _ => ?_)).trans ?_)
    | (with_reducible refine (State.sealedWrite_shape _ _ _ _ _ _ _ (fun _ => ?_)).trans ?_)
    | (with_reducible refine (State.transmit_shape _ _ _ (by assumption)).trans ?_)
    | (with_reducible refine (State.pipStore_shape _ _ _ _ (by assumption)).trans ?_)
    | (with_reducible refine (State.planFences_shape _ _ (by assumption)).trans ?_)
    | (with_reducible refine (shape_of_eq (by assumption)).trans ?_)
    | (with_reducible refine (shape_of_eq' (by assumption)).trans ?_)
    | (with_reducible refine (shape_of_eq3 (by assumption)).trans ?_)
    | (with_reducible refine (shape_of_eq4 (by assumption)).trans ?_)
    | simp
    | simp [pending_eq, pods_eq, clusters_eq, walkers_eq, jobs_eq, heads_eq, pips_eq, channels_eq, parties_eq, buckets_eq])

@[simp] theorem execNrst_shape (width : Nat) (s : State) : Keeps (execNrst width s) s := by simp [execNrst]

@[simp] theorem execNrstRelease_shape (s : State) : Keeps (execNrstRelease s) s := by simp [execNrstRelease]

@[simp] theorem execWarmReset_shape (s : State) : Keeps (execWarmReset s) s := by unfold execWarmReset; refine (keeps_next _ _).mpr ?_; split <;> simp

@[simp] theorem execPowerOn_shape (s : State) : Keeps (execPowerOn s) s := by simp [execPowerOn]

@[simp] theorem execHuskSupplyLoss_shape (s : State) : Keeps (execHuskSupplyLoss s) s := by simp [execHuskSupplyLoss]

@[simp] theorem execCrystalStop_shape (s : State) : Keeps (execCrystalStop s) s := by simp [execCrystalStop]

@[simp] theorem execVaultSave_shape (s : State) : Keeps (execVaultSave s) s := by simp [execVaultSave]

@[simp] theorem execHard_shape (sensor : Nat) (reading : Int) (s : State) : Keeps (execHard sensor reading s) s := by simp [execHard]

@[simp] theorem execHardRestart_shape (s : State) : Keeps (execHardRestart s) s := by unfold execHardRestart; refine (keeps_next _ _).mpr ?_; split <;> simp

@[simp] theorem execRailTimeout_shape (rail : Nat) (s : State) : Keeps (execRailTimeout rail s) s := by simp [execRailTimeout]

@[simp] theorem execRailRetry_shape (s : State) : Keeps (execRailRetry s) s := by unfold execRailRetry; refine (keeps_next _ _).mpr ?_; split <;> simp

@[simp] theorem State.nextStage_shape (s : State) : (State.nextStage s).shape = s.shape := by simp [State.nextStage]

@[simp] theorem State.huskStage_shape (s : State) (x : StageEnv) : (State.huskStage s x).shape = s.shape := by simp [State.huskStage]

@[simp] theorem State.shellStage_shape (s : State) (x : StageEnv) : (State.shellStage s x).shape = s.shape := by simp [State.shellStage]

@[simp] theorem State.afterWarm_shape (s : State) : (State.afterWarm s).shape = s.shape := by
  unfold State.afterWarm
  repeat' (first | split | (with_reducible refine foldl_shape _ (fun _ _ => ?_) _ _) | simp)

@[simp] theorem State.memoryStage_shape (s : State) : (State.memoryStage s).shape = s.shape := by simp [State.memoryStage]

@[simp] theorem State.unitsStage_shape (s : State) : (State.unitsStage s).shape = s.shape := by simp [State.unitsStage]

@[simp] theorem State.networkStage_shape (s : State) (x : StageEnv) : (State.networkStage s x).shape = s.shape := by simp [State.networkStage]

@[simp] theorem State.reinstate_shape (s : State) (hashesOk : Bool) : (State.reinstate s hashesOk).shape = s.shape := by
  unfold State.reinstate
  repeat' (first | split | (with_reducible refine foldl_shape _ (fun _ _ => ?_) _ _) | simp)

@[simp] theorem State.recreateRoots_shape (s : State) : (State.recreateRoots s).shape = s.shape := by
  unfold State.recreateRoots
  repeat' (first | split | (with_reducible refine foldl_shape _ (fun _ _ => ?_) _ _) | simp)

@[simp] theorem State.restoreRegions_shape (s : State) : (State.restoreRegions s).shape = s.shape := by
  unfold State.restoreRegions
  repeat' (first | split | (with_reducible refine foldl_shape _ (fun _ _ => ?_) _ _) | simp)

@[simp] theorem State.rebuildLog_shape (s : State) : (State.rebuildLog s).shape = s.shape := by
  unfold State.rebuildLog
  repeat' (first | split | (with_reducible refine (shape_of_eq (by assumption)).trans ?_) | (with_reducible refine (foldl_shape _ (fun _ _ => ?_) _ _).trans ?_) | simp)

@[simp] theorem State.planStage_shape (s : State) (x : StageEnv) : (State.planStage s x).shape = s.shape := by
  have e : ∀ (o : Option FaultRec) (t : State), (o.toList.foldl State.raise t).shape = t.shape := by
    intro o t; cases o <;> simp
  have h : ∀ t : State, (if t.husk.coldDue then
      (if t.recreateRoots.husk.lastStopHold then t.recreateRoots.restoreRegions else t.recreateRoots).rebuildLog
      else t.husk.hardPending.toList.foldl State.raise t).shape = t.shape := by
    intro t
    split
    · rw [State.rebuildLog_shape]
      split <;> simp
    · exact e _ _
  unfold State.planStage
  dsimp only
  rw [State.onHusk_shape, State.reshare_shape, h]
  split <;> simp

@[simp] theorem State.eraseCopies_shape (s : State) : (State.eraseCopies s).shape = s.shape := by simp [State.eraseCopies]

@[simp] theorem State.stageEnd_shape (s : State) (x : StageEnv) : (State.stageEnd s x).shape = s.shape := by unfold State.stageEnd; split <;> simp

end Sys2Proof.Machine
end

