-- ==== Sys2Proof/Laws/KeepSelfTest.lean ====
section
/-! SUPPORT. The operations of Machine/SelfTest.lean keep the queue and the units of the device. -/

namespace Sys2Proof.Machine

open Sys2Proof

@[simp] theorem State.onTest_shape (s : State) (f : Test → Test) : (State.onTest s f).shape = s.shape := by simp [State.onTest]

@[simp] theorem State.fallDue_shape (s : State) (u : Nat) : (State.fallDue s u).shape = s.shape := by simp [State.fallDue]

@[simp] theorem execTestDue_shape (u : Nat) (s : State) : Keeps (execTestDue u s) s := by simp [execTestDue]

@[simp] theorem State.startTestOrder_shape (s : State) (r : Req) (v : Nat) : (State.startTestOrder s r v).shape = s.shape := by simp [State.startTestOrder]

@[simp] theorem execStartTest_shape (r : Req) (v : Nat) (s : State) : Keeps (execStartTest r v s) s := by simp [execStartTest]

@[simp] theorem State.testDone_shape (s : State) (u : Nat) (failed : Option (Nat × Nat)) : (State.testDone s u failed).shape = s.shape := by unfold State.testDone; split <;> simp

@[simp] theorem State.stageTest_shape (s : State) : (State.stageTest s).shape = s.shape := by unfold State.stageTest; split <;> simp

@[simp] theorem State.abandonTest_shape (s : State) : (State.abandonTest s).shape = s.shape := by simp [State.abandonTest]

@[simp] theorem State.judgeTest_shape (s : State) : (State.judgeTest s).shape = s.shape := by unfold State.judgeTest; split <;> simp

@[simp] theorem State.returnCluster_shape (s : State) (t : ClusterTest) : (State.returnCluster s t).shape = s.shape := by simp [State.returnCluster]

@[simp] theorem State.startCluster_shape (s : State) (c : Nat) (down : Bool) : (State.startCluster s c down).shape = s.shape := by
  unfold State.startCluster
  repeat' (first
    | with_reducible rfl
    | assumption
    | (with_reducible refine (keeps_next _ _).mpr ?_)
    | (simp [*]; done)
    | (rintro ⟨⟩)
    | split
    | (with_reducible refine shape_of_ite ?_ ?_)
    | (with_reducible refine foldl_shape _ (fun _ _ => ?_) _ _)
    | (with_reducible refine (foldl_shape _ (fun _ _ => ?_) _ _).trans ?_)
    | (with_reducible refine (foldl_snd_shape _ (fun _ _ => ?_) _ _).trans ?_)
    | (with_reducible refine (foldl_fst_shape _ (fun _ _ => ?_) _ _).trans ?_)
    | (with_reducible refine State.slot_shape _ _ _ (fun _ _ => ?_))
    | (with_reducible refine State.pipDo_shape _ _ _ _ (fun _ => ?_))
    | (with_reducible refine (State.ordered_shape _ _ _ _ _ _ _ (fun _ => ?_)).trans ?_)
    | (with_reducible refine (State.orderBytes_shape _ _ _ _ _ _ _ (fun _ => ?_)).trans ?_)
    | (with_reducible refine (State.poolRun_shape _ _ _ _ _ _ _ (fun _ _ => ?_)).trans ?_)
    | (with_reducible refine (State.poolOne_shape _ _ _ _ _ _ _ _ (fun _ _ => ?_)).trans ?_)
    | (with_reducible refine (State.command_shape _ _ _ _ _ (fun _ _ => ?_)).trans ?_)
    | (with_reducible refine (State.sealedWrite_shape _ _ _ _ _ _ _ (fun _ => ?_)).trans ?_)
    | (with_reducible refine (State.transmit_shape _ _ _ (by assumption)).trans ?_)
    | (with_reducible refine (State.pipStore_shape _ _ _ _ (by assumption)).trans ?_)
    | (with_reducible refine (State.planFences_shape _ _ (by assumption)).trans ?_)
    | (with_reducible refine (shape_of_eq (by assumption)).trans ?_)
    | (with_reducible refine (shape_of_eq' (by assumption)).trans ?_)
    | (with_reducible refine (shape_of_eq3 (by assumption)).trans ?_)
    | (with_reducible refine (shape_of_eq4 (by assumption)).trans ?_)
    | simp
    | simp [pending_eq, pods_eq, clusters_eq, walkers_eq, jobs_eq, heads_eq, pips_eq, channels_eq, parties_eq, buckets_eq])

@[simp] theorem State.testBoundary_shape (s : State) : (State.testBoundary s).shape = s.shape := by
  unfold State.testBoundary
  repeat' split
  all_goals simp

@[simp] theorem execClusterTestStepEnd_shape (c signature : Nat) (memOk : Bool) (detail : Nat) (s : State) : Keeps (execClusterTestStepEnd c signature memOk detail s) s := by
  unfold execClusterTestStepEnd
  refine (keeps_next _ _).mpr ?_
  repeat' (first | split | (with_reducible refine foldl_shape _ (fun _ _ => ?_) _ _) | simp)

@[simp] theorem State.endPodTest_shape (s : State) (pod : Nat) : (State.endPodTest s pod).shape = s.shape := by simp [State.endPodTest]

@[simp] theorem State.endSliceTest_shape (s : State) (u : Nat) (failed : Option (Nat × Nat)) : (State.endSliceTest s u failed).shape = s.shape := by simp [State.endSliceTest]

@[simp] theorem State.oneSlice_shape (s : State) (u n : Nat) (hist : Option Nat) (pass : Bool) (detail : Nat) : (State.oneSlice s u n hist pass detail).shape = s.shape := by simp [State.oneSlice]

@[simp] theorem execBistSlice_shape (pass : Bool) (detail : Nat) (s : State) : Keeps (execBistSlice pass detail s) s := by
  unfold execBistSlice
  refine (keeps_next _ _).mpr ?_
  repeat' (first | split | (with_reducible refine foldl_shape _ (fun _ _ => ?_) _ _) | simp)

@[simp] theorem State.abandonTests_shape (s : State) : (State.abandonTests s).shape = s.shape := by unfold State.abandonTests; split <;> simp

@[simp] theorem State.overdueReason_shape (s : State) (u : Nat) : (State.overdueReason s u).2.shape = s.shape := by
  unfold State.overdueReason
  repeat' (first | split | (with_reducible refine (shape_of_eq (by assumption)).trans ?_) | (with_reducible refine (foldl_shape _ (fun _ _ => ?_) _ _).trans ?_) | simp)

@[simp] theorem execTestOverdue_shape (u : Nat) (s : State) : Keeps (execTestOverdue u s) s := by unfold execTestOverdue; refine (keeps_next _ _).mpr ?_; split <;> simp

@[simp] theorem State.traceSetting_shape (s : State) (r : Req) (p sub v : Nat) : (State.traceSetting s r p sub v).shape = s.shape := by simp [State.traceSetting]

@[simp] theorem execTraceConfigWrite_shape (r : Req) (p sub v : Nat) (s : State) : Keeps (execTraceConfigWrite r p sub v s) s := by simp [execTraceConfigWrite]

@[simp] theorem State.traceBoundary_shape (s : State) : (State.traceBoundary s).shape = s.shape := by simp [State.traceBoundary]

end Sys2Proof.Machine
end

