-- ==== Sys2Proof/Laws/KeepBoard.lean ====
section
/-! SUPPORT. The operations of Machine/Board.lean keep the queue and the units of the device. -/

namespace Sys2Proof.Machine

open Sys2Proof

@[simp] theorem State.onBoard_shape (s : State) (f : Board → Board) : (State.onBoard s f).shape = s.shape := by simp [State.onBoard]

@[simp] theorem execStatus_shape (s : State) : Keeps (execStatus s) s := by simp [execStatus]

@[simp] theorem execPut_shape (len : Nat) (bytes : List Byte) (s : State) : Keeps (execPut len bytes s) s := by simp [execPut]

@[simp] theorem State.takeIn_shape (n : Nat) (s : State) : (State.takeIn n s).shape = s.shape := by
  induction n generalizing s with
  | zero => rfl
  | succ n ih =>
    unfold State.takeIn
    split
    · rfl
    · split
      · rw [ih]; simp; exact shape_of_eq (by assumption) |>.trans (by simp)
      · rfl

@[simp] theorem execGet_shape (clocked : Nat) (s : State) : Keeps (execGet clocked s) s := by
  unfold execGet
  refine (keeps_next _ _).mpr ?_
  repeat' split
  all_goals simp

@[simp] theorem execReset_shape (b1 b2 : Byte) (s : State) : Keeps (execReset b1 b2 s) s := by simp [execReset]

@[simp] theorem execBadOp_shape (op : Byte) (s : State) : Keeps (execBadOp op s) s := by simp [execBadOp]

@[simp] theorem execAttentionPulseEnd_shape (s : State) : Keeps (execAttentionPulseEnd s) s := by unfold execAttentionPulseEnd; refine (keeps_next _ _).mpr ?_; split <;> simp

@[simp] theorem State.debugRead_shape (s : State) (t : DebugTarget) : (State.debugRead s t).2.shape = s.shape := by
  unfold State.debugRead
  repeat' (first | split | simp)

@[simp] theorem State.debugWrite_shape (s : State) (t : DebugTarget) (v : Nat) : (State.debugWrite s t v).shape = s.shape := by unfold State.debugWrite; split <;> simp

@[simp] theorem State.setHalt_shape (s : State) (t : DebugTarget) (on : Bool) : (State.setHalt s t on).shape = s.shape := by unfold State.setHalt; split <;> simp

@[simp] theorem State.block_shape (s : State) : (State.block s).shape = s.shape := by simp [State.block]

@[simp] theorem execDebugPortAccess_shape (target : DebugTarget) (op : DebugOp) (s : State) : Keeps (execDebugPortAccess target op s) s := by
  unfold execDebugPortAccess
  refine (keeps_next _ _).mpr ?_
  repeat' (first | split | (with_reducible refine (shape_of_eq (by assumption)).trans ?_) | (with_reducible refine (foldl_shape _ (fun _ _ => ?_) _ _).trans ?_) | simp)

end Sys2Proof.Machine
end

