-- ==== Sys2Proof/Laws/KeepNet.lean ====
section
/-! SUPPORT. The operations of Machine/Net.lean keep the queue and the units of the device. -/

namespace Sys2Proof.Machine

open Sys2Proof

@[simp] theorem State.abortPool_shape (s : State) (f : Nat × Nat × List Byte × Bool → Bool) : (State.abortPool s f).shape = s.shape := by
  unfold State.abortPool
  repeat' (first | split | (with_reducible refine foldl_shape _ (fun _ _ => ?_) _ _) | simp)

@[simp] theorem State.shiftTimers_shape (s : State) (u t : Nat) : (State.shiftTimers s u t).shape = s.shape := by
  unfold State.shiftTimers
  repeat' (first | split | (with_reducible refine foldl_shape _ (fun _ _ => ?_) _ _) | simp)

@[simp] theorem State.setPort_shape (s : State) (u st : Nat) : (State.setPort s u st).shape = s.shape := by
  unfold State.setPort
  repeat' (first | split | (with_reducible refine foldl_shape _ (fun _ _ => ?_) _ _) | simp)

@[simp] theorem execLinkChange_shape (port st : Nat) (s : State) : Keeps (execLinkChange port st s) s := by simp [execLinkChange]

@[simp] theorem execJabber_shape (port : Nat) (s : State) : Keeps (execJabber port s) s := by simp [execJabber]

@[simp] theorem execReceiveJabber_shape (s : State) : Keeps (execReceiveJabber s) s := by simp [execReceiveJabber]

@[simp] theorem State.portClearOrder_shape (s : State) (r : Req) (u v : Nat) : (State.portClearOrder s r u v).shape = s.shape := by simp [State.portClearOrder]

@[simp] theorem execPortClear_shape (r : Req) (u v : Nat) (s : State) : Keeps (execPortClear r u v s) s := by simp [execPortClear]

@[simp] theorem State.clearPort_shape (s : State) (u : Nat) : (State.clearPort s u).shape = s.shape := by simp [State.clearPort]

@[simp] theorem State.portBoundary_shape (s : State) : (State.portBoundary s).shape = s.shape := by
  unfold State.portBoundary
  repeat' (first
    | with_reducible rfl
    | assumption
    | (with_reducible refine (keeps_next _ _).mpr ?_)
    | (simp [*]; done)
    | (rintro ⟨⟩)
    | split
    | (with_reducible refine shape_of_ite ?_ ?_)
    | (with_reducible refine foldl_shape _ (fun _ _ => ?_) _ _)
    | (with_reducible refine (foldl_shape _ (fun _ _ => ?_) _ _).trans ?_))

@[simp] theorem execPlcaInactive_shape (s : State) : Keeps (execPlcaInactive s) s := by simp [execPlcaInactive]

@[simp] theorem execBeacon_shape (s : State) : Keeps (execBeacon s) s := by simp [execBeacon]

@[simp] theorem State.bindingSetting_shape (s : State) (r : Req) (p sub v : Nat) : (State.bindingSetting s r p sub v).shape = s.shape := by simp [State.bindingSetting]

@[simp] theorem execBindingWrite_shape (r : Req) (p sub v : Nat) (s : State) : Keeps (execBindingWrite r p sub v s) s := by simp [execBindingWrite]

@[simp] theorem State.dropBinding_shape (s : State) (p : Nat) : (State.dropBinding s p).shape = s.shape := by
  unfold State.dropBinding
  repeat' (first | with_reducible rfl | assumption | (with_reducible refine (keeps_next _ _).mpr ?_) | simp [*])

@[simp] theorem State.bindingBoundary_shape (s : State) (old : List (Nat × Nat)) : (State.bindingBoundary s old).shape = s.shape := by
  unfold State.bindingBoundary
  repeat' (first | split | (with_reducible refine foldl_shape _ (fun _ _ => ?_) _ _) | simp)

@[simp] theorem State.quickAnswer_shape (s : State) (port party : Nat) (msg : List Byte) (st : Nat) : (State.quickAnswer s port party msg st).shape = s.shape := by simp [State.quickAnswer]

@[simp] theorem State.receive_shape (s : State) (port party : Nat) (msg : List Byte) : (State.receive s port party msg).shape = s.shape := by
  unfold State.receive
  repeat' split
  all_goals simp

@[simp] theorem State.acceptPn_shape (s : State) (p an : Nat) (ok : Bool) (pn : Nat) {t : State}
    (h : State.acceptPn s p an ok pn = some t) : t.shape = s.shape := by
  unfold State.acceptPn at h
  revert h
  repeat' (first
    | with_reducible rfl
    | assumption
    | (with_reducible refine (keeps_next _ _).mpr ?_)
    | (simp [*]; done)
    | (rintro ⟨⟩)
    | split)

@[simp] theorem State.answerIp_shape (s : State) (p : Nat) (x : RxFrame) : (State.answerIp s p x).shape = s.shape := by
  unfold State.answerIp
  repeat' (first
    | with_reducible rfl
    | assumption
    | (with_reducible refine (keeps_next _ _).mpr ?_)
    | (simp [*]; done)
    | (rintro ⟨⟩)
    | split
    | (with_reducible refine shape_of_ite ?_ ?_)
    | (with_reducible refine foldl_shape _ (fun _ _ => ?_) _ _)
    | (with_reducible refine (foldl_shape _ (fun _ _ => ?_) _ _).trans ?_)
    | (with_reducible refine (foldl_snd_shape _ (fun _ _ => ?_) _ _).trans ?_)
    | (with_reducible refine (foldl_fst_shape _ (fun _ _ => ?_) _ _).trans ?_)
    | (with_reducible refine (State.ordered_shape _ _ _ _ _ _ _ (fun _ => ?_)).trans ?_)
    | (with_reducible refine (State.orderBytes_shape _ _ _ _ _ _ _ (fun _ => ?_)).trans ?_)
    | (with_reducible refine (State.planFences_shape _ _ (by assumption)).trans ?_)
    | (with_reducible refine (State.acceptPn_shape _ _ _ _ _ (by assumption)).trans ?_)
    | (with_reducible refine State.pipDo_shape _ _ _ _ (fun _ => ?_))
    | (with_reducible refine (State.pipStore_shape _ _ _ _ (by assumption)).trans ?_)
    | (with_reducible refine (State.transmit_shape _ _ _ (by assumption)).trans ?_)
    | (with_reducible refine (shape_of_eq (by assumption)).trans ?_)
    | (with_reducible refine (shape_of_eq' (by assumption)).trans ?_)
    | (with_reducible refine (shape_of_eq3 (by assumption)).trans ?_)
    | (with_reducible refine (shape_of_eq4 (by assumption)).trans ?_)
    | simp)

@[simp] theorem execFrameReceived_shape (x : RxFrame) (s : State) : Keeps (execFrameReceived x s) s := by
  unfold execFrameReceived
  repeat' (first
    | with_reducible rfl
    | assumption
    | (with_reducible refine (keeps_next _ _).mpr ?_)
    | (simp [*]; done)
    | (rintro ⟨⟩)
    | split
    | (with_reducible refine shape_of_ite ?_ ?_)
    | (with_reducible refine foldl_shape _ (fun _ _ => ?_) _ _)
    | (with_reducible refine (foldl_shape _ (fun _ _ => ?_) _ _).trans ?_)
    | (with_reducible refine (foldl_snd_shape _ (fun _ _ => ?_) _ _).trans ?_)
    | (with_reducible refine (foldl_fst_shape _ (fun _ _ => ?_) _ _).trans ?_)
    | (with_reducible refine State.slot_shape _ _ _ (fun _ _ => ?_))
    | (with_reducible refine State.pipDo_shape _ _ _ _ (fun _ => ?_))
    | (with_reducible refine (State.ordered_shape _ _ _ _ _ _ _ (fun _ => ?_)).trans ?_)
    | (with_reducible refine (State.orderBytes_shape _ _ _ _ _ _ _ (fun _ => ?_)).trans ?_)
    | (with_reducible refine (State.poolRun_shape _ _ _ _ _ _ _ (fun _ _ => ?_)).trans ?_)
    | (with_reducible refine (State.poolOne_shape _ _ _ _ _ _ _ _ (fun _ _ => ?_)).trans ?_)
    | (with_reducible refine (State.command_shape _ _ _ _ _ (fun _ _ => ?_)).trans ?_)
    | (with_reducible refine (State.sealedWrite_shape _ _ _ _ _ _ _ (fun _ => ?_)).trans ?_)
    | (with_reducible refine (State.transmit_shape _ _ _ (by assumption)).trans ?_)
    | (with_reducible refine (State.pipStore_shape _ _ _ _ (by assumption)).trans ?_)
    | (with_reducible refine (State.planFences_shape _ _ (by assumption)).trans ?_)
    | (with_reducible refine (State.acceptPn_shape _ _ _ _ _ (by assumption)).trans ?_)
    | (with_reducible refine (shape_of_eq (by assumption)).trans ?_)
    | (with_reducible refine (shape_of_eq' (by assumption)).trans ?_)
    | (with_reducible refine (shape_of_eq3 (by assumption)).trans ?_)
    | (with_reducible refine (shape_of_eq4 (by assumption)).trans ?_)
    | simp)

@[simp] theorem State.classifierOrder_shape (s : State) (r : Req) (data : List Byte) : (State.classifierOrder s r data).shape = s.shape := by
  unfold State.classifierOrder
  repeat' (first
    | with_reducible rfl
    | assumption
    | (with_reducible refine (keeps_next _ _).mpr ?_)
    | (simp [*]; done)
    | (rintro ⟨⟩)
    | split
    | (with_reducible refine shape_of_ite ?_ ?_)
    | (with_reducible refine foldl_shape _ (fun _ _ => ?_) _ _)
    | (with_reducible refine (foldl_shape _ (fun _ _ => ?_) _ _).trans ?_)
    | (with_reducible refine (foldl_snd_shape _ (fun _ _ => ?_) _ _).trans ?_)
    | (with_reducible refine (foldl_fst_shape _ (fun _ _ => ?_) _ _).trans ?_)
    | (with_reducible refine (State.ordered_shape _ _ _ _ _ _ _ (fun _ => ?_)).trans ?_)
    | (with_reducible refine (State.orderBytes_shape _ _ _ _ _ _ _ (fun _ => ?_)).trans ?_)
    | (with_reducible refine (State.command_shape _ _ _ _ _ (fun _ _ => ?_)).trans ?_)
    | (with_reducible refine (State.sealedWrite_shape _ _ _ _ _ _ _ (fun _ => ?_)).trans ?_)
    | (with_reducible refine (State.transmit_shape _ _ _ (by assumption)).trans ?_)
    | (with_reducible refine (State.pipStore_shape _ _ _ _ (by assumption)).trans ?_)
    | (with_reducible refine (State.planFences_shape _ _ (by assumption)).trans ?_)
    | (with_reducible refine (shape_of_eq (by assumption)).trans ?_)
    | (with_reducible refine (shape_of_eq' (by assumption)).trans ?_)
    | (with_reducible refine (shape_of_eq3 (by assumption)).trans ?_)
    | (with_reducible refine (shape_of_eq4 (by assumption)).trans ?_)
    | simp
    | simp [pending_eq, pods_eq, clusters_eq, walkers_eq, jobs_eq, heads_eq, pips_eq, channels_eq, parties_eq, buckets_eq])

@[simp] theorem execClassifierImageWrite_shape (r : Req) (data : List Byte) (s : State) : Keeps (execClassifierImageWrite r data s) s := by
  unfold execClassifierImageWrite
  repeat' (first | with_reducible rfl | assumption | (with_reducible refine (keeps_next _ _).mpr ?_) | simp [*])

@[simp] theorem State.passOn_shape (s : State) (port party : Nat) (msg : List Byte) (low : Bool) : (State.passOn s port party msg low).shape = s.shape := by
  unfold State.passOn
  repeat' (first | split | (with_reducible refine foldl_shape _ (fun _ _ => ?_) _ _) | simp)

@[simp] theorem State.receiveBoard_shape (s : State) (party : Nat) (msg : List Byte) : (State.receiveBoard s party msg).shape = s.shape := by
  unfold State.receiveBoard
  repeat' (first | split | simp)

@[simp] theorem execMailboxTake_shape (s : State) : Keeps (execMailboxTake s) s := by
  unfold execMailboxTake
  refine (keeps_next _ _).mpr ?_
  repeat' (first | split | simp)

@[simp] theorem State.verdict_shape (s : State) (v : Nat) : (State.verdict s v).shape = s.shape := by
  unfold State.verdict
  repeat' split
  all_goals simp

@[simp] theorem State.countVerdict_shape (s : State) (w : Nat) : (State.countVerdict s w).shape = s.shape := by simp [State.countVerdict]

@[simp] theorem execClassifierRun_shape (s : State) : Keeps (execClassifierRun s) s := by
  unfold execClassifierRun
  refine (keeps_next _ _).mpr ?_
  repeat' (first | split | (with_reducible refine foldl_shape _ (fun _ _ => ?_) _ _) | simp)

@[simp] theorem State.queueDatagram_shape (s : State) (u bytes : Nat) : (State.queueDatagram s u bytes).shape = s.shape := by simp [State.queueDatagram]

@[simp] theorem State.emitFirst_shape (s : State) (port bytes : Nat) (m : OutMsg) : (State.emitFirst s port bytes m).shape = s.shape := by simp [State.emitFirst]

@[simp] theorem State.sendOne_shape (s : State) (p : Nat) (e : Event) {t : State} (h : State.sendOne s p e = some t) :
    t.shape = s.shape := by
  have key : ∀ (port : Nat) (f : State → State) (u : State), (∀ v, (f v).shape = v.shape) →
      (s.transmit p port).map f = some u → u.shape = s.shape := by
    intro port f u hf hu
    cases hq : s.transmit p port with
    | none => rw [hq] at hu; cases hu
    | some v =>
      rw [hq] at hu
      cases hu
      exact (hf v).trans (State.transmit_shape s p port hq)
  unfold State.sendOne at h
  split at h
  · split at h
    · exact key _ _ _ (fun v => by simp) h
    · cases h
  · split at h
    · cases h
    · split at h
      · cases h
      · split at h
        · split at h
          · cases h; exact (shape_of_eq (by assumption)).trans (State.boardPush_shape _ _ _)
          · cases h
        · exact key _ _ _ (fun v => State.emitFirst_shape v _ _ _) h

@[simp] theorem State.noteSent_shape (s : State) (p : Nat) (e : Event) : (State.noteSent s p e).shape = s.shape := by simp [State.noteSent]

@[simp] theorem State.sendEvents_shape (s : State) (p : Nat) (again : Bool) : (State.sendEvents s p again).shape = s.shape := by
  unfold State.sendEvents
  repeat' (first
    | with_reducible rfl
    | assumption
    | (with_reducible refine (keeps_next _ _).mpr ?_)
    | (simp [*]; done)
    | (rintro ⟨⟩)
    | split
    | (with_reducible refine shape_of_ite ?_ ?_)
    | (with_reducible refine foldl_shape _ (fun _ _ => ?_) _ _)
    | (with_reducible refine (foldl_shape _ (fun _ _ => ?_) _ _).trans ?_)
    | (with_reducible refine (foldl_snd_shape _ (fun _ _ => ?_) _ _).trans ?_)
    | (with_reducible refine (foldl_fst_shape _ (fun _ _ => ?_) _ _).trans ?_)
    | (with_reducible refine State.slot_shape _ _ _ (fun _ _ => ?_))
    | (with_reducible refine State.pipDo_shape _ _ _ _ (fun _ => ?_))
    | (with_reducible refine (State.ordered_shape _ _ _ _ _ _ _ (fun _ => ?_)).trans ?_)
    | (with_reducible refine (State.orderBytes_shape _ _ _ _ _ _ _ (fun _ => ?_)).trans ?_)
    | (with_reducible refine (State.poolRun_shape _ _ _ _ _ _ _ (fun _ _ => ?_)).trans ?_)
    | (with_reducible refine (State.poolOne_shape _ _ _ _ _ _ _ _ (fun _ _ => ?_)).trans ?_)
    | (with_reducible refine (State.command_shape _ _ _ _ _ (fun _ _ => ?_)).trans ?_)
    | (with_reducible refine (State.sealedWrite_shape _ _ _ _ _ _ _ (fun _ => ?_)).trans ?_)
    | (with_reducible refine (State.transmit_shape _ _ _ (by assumption)).trans ?_)
    | (with_reducible refine (State.pipStore_shape _ _ _ _ (by assumption)).trans ?_)
    | (with_reducible refine (State.planFences_shape _ _ (by assumption)).trans ?_)
    | (with_reducible refine (State.acceptPn_shape _ _ _ _ _ (by assumption)).trans ?_)
    | (with_reducible refine (State.sendOne_shape _ _ _ (by assumption)).trans ?_)
    | (with_reducible refine (shape_of_eq (by assumption)).trans ?_)
    | (with_reducible refine (shape_of_eq' (by assumption)).trans ?_)
    | (with_reducible refine (shape_of_eq3 (by assumption)).trans ?_)
    | (with_reducible refine (shape_of_eq4 (by assumption)).trans ?_)
    | simp)

@[simp] theorem State.flushEvents_shape (s : State) : (State.flushEvents s).shape = s.shape := by
  unfold State.flushEvents
  repeat' (first | split | (with_reducible refine foldl_shape _ (fun _ _ => ?_) _ _) | simp)

@[simp] theorem execEventResend_shape (p : Nat) (s : State) : Keeps (execEventResend p s) s := by simp [execEventResend]

@[simp] theorem execAck_shape (p seq : Nat) (s : State) : Keeps (execAck p seq s) s := by simp [execAck]

@[simp] theorem State.manage_shape (s : State) (r : Req) (op st : Nat) (data : List Byte) : (State.manage s r op st data).shape = s.shape := by simp [State.manage]

@[simp] theorem execHello_shape (r : Req) (ip udp : Nat) (s : State) : Keeps (execHello r ip udp s) s := by simp [execHello]

@[simp] theorem execEcho_shape (r : Req) (data : List Byte) (s : State) : Keeps (execEcho r data s) s := by simp [execEcho]

@[simp] theorem execBye_shape (r : Req) (s : State) : Keeps (execBye r s) s := by simp [execBye]

@[simp] theorem execDiscover_shape (port : Nat) (s : State) : Keeps (execDiscover port s) s := by simp [execDiscover]

@[simp] theorem State.recordLost_shape (s : State) (p : Nat) (full : Bool) : (State.recordLost s p full).shape = s.shape := by
  unfold State.recordLost
  repeat' split
  all_goals simp

@[simp] theorem State.sendParts_shape (s : State) (p port stream seq total : Nat) (xs : List (Nat × List Byte)) :
    (State.sendParts s p port stream seq total xs).shape = s.shape := by
  induction xs generalizing s with
  | nil => rfl
  | cons x xs ih =>
    unfold State.sendParts
    split
    · simp
    · rw [ih]
      refine (State.emitFirst_shape _ _ _ _).trans ?_
      exact State.transmit_shape _ _ _ (by assumption)

@[simp] theorem State.sendMaelelo_shape (s : State) (p stream seq : Nat) (bytes : List Byte) : (State.sendMaelelo s p stream seq bytes).shape = s.shape := by
  unfold State.sendMaelelo
  repeat' (first
    | split
    | (with_reducible refine (shape_of_eq (by assumption)).trans ?_)
    | (with_reducible refine (State.sendParts_shape _ _ _ _ _ _ _).trans ?_)
    | simp)

@[simp] theorem State.canDrain_shape (s : State) : (State.canDrain s).shape = s.shape := by simp [State.canDrain]

@[simp] theorem State.sendCan_shape (s : State) (stream : Nat) (segs : List (Nat × Nat × List Byte)) : (State.sendCan s stream segs).shape = s.shape := by simp [State.sendCan]

@[simp] theorem State.sendRecord_shape (s : State) (p : Nat) (d : StreamD) (bytes : List Byte) : (State.sendRecord s p d bytes).shape = s.shape := by
  unfold State.sendRecord
  repeat' (first | split | (with_reducible refine (shape_of_eq (by assumption)).trans ?_) | (with_reducible refine (foldl_shape _ (fun _ _ => ?_) _ _).trans ?_) | simp)

@[simp] theorem State.queueHolds_shape (s : State) (u : Nat) : (State.queueHolds s u).2.shape = s.shape := by
  unfold State.queueHolds
  repeat' (first
    | with_reducible rfl
    | assumption
    | (with_reducible refine (keeps_next _ _).mpr ?_)
    | (simp [*]; done)
    | (rintro ⟨⟩)
    | split
    | (with_reducible refine shape_of_ite ?_ ?_)
    | (with_reducible refine foldl_shape _ (fun _ _ => ?_) _ _)
    | (with_reducible refine (foldl_shape _ (fun _ _ => ?_) _ _).trans ?_)
    | (with_reducible refine (foldl_snd_shape _ (fun _ _ => ?_) _ _).trans ?_)
    | (with_reducible refine (foldl_fst_shape _ (fun _ _ => ?_) _ _).trans ?_)
    | (with_reducible refine (State.ordered_shape _ _ _ _ _ _ _ (fun _ => ?_)).trans ?_)
    | (with_reducible refine (State.orderBytes_shape _ _ _ _ _ _ _ (fun _ => ?_)).trans ?_)
    | (with_reducible refine (State.planFences_shape _ _ (by assumption)).trans ?_)
    | (with_reducible refine (State.acceptPn_shape _ _ _ _ _ (by assumption)).trans ?_)
    | (with_reducible refine (State.sendOne_shape _ _ _ (by assumption)).trans ?_)
    | (with_reducible refine State.pipDo_shape _ _ _ _ (fun _ => ?_))
    | (with_reducible refine (State.pipStore_shape _ _ _ _ (by assumption)).trans ?_)
    | (with_reducible refine (State.transmit_shape _ _ _ (by assumption)).trans ?_)
    | (with_reducible refine (shape_of_eq (by assumption)).trans ?_)
    | (with_reducible refine (shape_of_eq' (by assumption)).trans ?_)
    | (with_reducible refine (shape_of_eq3 (by assumption)).trans ?_)
    | (with_reducible refine (shape_of_eq4 (by assumption)).trans ?_)
    | simp)

@[simp] theorem State.countBacklogs_shape (s : State) : (State.countBacklogs s).shape = s.shape := by simp [State.countBacklogs]

@[simp] theorem State.measureXtal_shape (s : State) (offset : Int) : (State.measureXtal s offset).shape = s.shape := by simp [State.measureXtal]

@[simp] theorem execSync_shape (src gm origin every : Nat) (peer : Nat × Nat × Nat × Nat) (s : State) : Keeps (execSync src gm origin every peer s) s := by
  unfold execSync
  repeat' (first
    | with_reducible rfl
    | assumption
    | (with_reducible refine (keeps_next _ _).mpr ?_)
    | (simp [*]; done)
    | (rintro ⟨⟩)
    | split
    | (with_reducible refine shape_of_ite ?_ ?_)
    | (with_reducible refine foldl_shape _ (fun _ _ => ?_) _ _)
    | (with_reducible refine (foldl_shape _ (fun _ _ => ?_) _ _).trans ?_)
    | (with_reducible refine (foldl_snd_shape _ (fun _ _ => ?_) _ _).trans ?_)
    | (with_reducible refine (foldl_fst_shape _ (fun _ _ => ?_) _ _).trans ?_)
    | (with_reducible refine State.slot_shape _ _ _ (fun _ _ => ?_))
    | (with_reducible refine State.pipDo_shape _ _ _ _ (fun _ => ?_))
    | (with_reducible refine (State.ordered_shape _ _ _ _ _ _ _ (fun _ => ?_)).trans ?_)
    | (with_reducible refine (State.orderBytes_shape _ _ _ _ _ _ _ (fun _ => ?_)).trans ?_)
    | (with_reducible refine (State.poolRun_shape _ _ _ _ _ _ _ (fun _ _ => ?_)).trans ?_)
    | (with_reducible refine (State.poolOne_shape _ _ _ _ _ _ _ _ (fun _ _ => ?_)).trans ?_)
    | (with_reducible refine (State.command_shape _ _ _ _ _ (fun _ _ => ?_)).trans ?_)
    | (with_reducible refine (State.sealedWrite_shape _ _ _ _ _ _ _ (fun _ => ?_)).trans ?_)
    | (with_reducible refine (State.transmit_shape _ _ _ (by assumption)).trans ?_)
    | (with_reducible refine (State.pipStore_shape _ _ _ _ (by assumption)).trans ?_)
    | (with_reducible refine (State.planFences_shape _ _ (by assumption)).trans ?_)
    | (with_reducible refine (State.acceptPn_shape _ _ _ _ _ (by assumption)).trans ?_)
    | (with_reducible refine (State.sendOne_shape _ _ _ (by assumption)).trans ?_)
    | (with_reducible refine (shape_of_eq (by assumption)).trans ?_)
    | (with_reducible refine (shape_of_eq' (by assumption)).trans ?_)
    | (with_reducible refine (shape_of_eq3 (by assumption)).trans ?_)
    | (with_reducible refine (shape_of_eq4 (by assumption)).trans ?_)
    | simp
    | simp [pending_eq, pods_eq, clusters_eq, walkers_eq, jobs_eq, heads_eq, pips_eq, channels_eq, parties_eq, buckets_eq])

@[simp] theorem execSyncLoss_shape (s : State) : Keeps (execSyncLoss s) s := by
  unfold execSyncLoss
  repeat' (first
    | with_reducible rfl
    | assumption
    | (with_reducible refine (keeps_next _ _).mpr ?_)
    | (simp [*]; done)
    | (rintro ⟨⟩)
    | split
    | (with_reducible refine shape_of_ite ?_ ?_)
    | (with_reducible refine foldl_shape _ (fun _ _ => ?_) _ _)
    | (with_reducible refine (foldl_shape _ (fun _ _ => ?_) _ _).trans ?_)
    | (with_reducible refine (foldl_snd_shape _ (fun _ _ => ?_) _ _).trans ?_)
    | (with_reducible refine (foldl_fst_shape _ (fun _ _ => ?_) _ _).trans ?_)
    | (with_reducible refine State.slot_shape _ _ _ (fun _ _ => ?_))
    | (with_reducible refine State.pipDo_shape _ _ _ _ (fun _ => ?_))
    | (with_reducible refine (State.ordered_shape _ _ _ _ _ _ _ (fun _ => ?_)).trans ?_)
    | (with_reducible refine (State.orderBytes_shape _ _ _ _ _ _ _ (fun _ => ?_)).trans ?_)
    | (with_reducible refine (State.poolRun_shape _ _ _ _ _ _ _ (fun _ _ => ?_)).trans ?_)
    | (with_reducible refine (State.poolOne_shape _ _ _ _ _ _ _ _ (fun _ _ => ?_)).trans ?_)
    | (with_reducible refine (State.command_shape _ _ _ _ _ (fun _ _ => ?_)).trans ?_)
    | (with_reducible refine (State.sealedWrite_shape _ _ _ _ _ _ _ (fun _ => ?_)).trans ?_)
    | (with_reducible refine (State.transmit_shape _ _ _ (by assumption)).trans ?_)
    | (with_reducible refine (State.pipStore_shape _ _ _ _ (by assumption)).trans ?_)
    | (with_reducible refine (State.planFences_shape _ _ (by assumption)).trans ?_)
    | (with_reducible refine (State.acceptPn_shape _ _ _ _ _ (by assumption)).trans ?_)
    | (with_reducible refine (State.sendOne_shape _ _ _ (by assumption)).trans ?_)
    | (with_reducible refine (shape_of_eq (by assumption)).trans ?_)
    | (with_reducible refine (shape_of_eq' (by assumption)).trans ?_)
    | (with_reducible refine (shape_of_eq3 (by assumption)).trans ?_)
    | (with_reducible refine (shape_of_eq4 (by assumption)).trans ?_)
    | simp
    | simp [pending_eq, pods_eq, clusters_eq, walkers_eq, jobs_eq, heads_eq, pips_eq, channels_eq, parties_eq, buckets_eq])

@[simp] theorem execNmtCommand_shape (s : State) : Keeps (execNmtCommand s) s := by
  unfold execNmtCommand
  repeat' (first
    | with_reducible rfl
    | assumption
    | (with_reducible refine (keeps_next _ _).mpr ?_)
    | (simp [*]; done)
    | (rintro ⟨⟩)
    | split
    | (with_reducible refine shape_of_ite ?_ ?_)
    | (with_reducible refine foldl_shape _ (fun _ _ => ?_) _ _)
    | (with_reducible refine (foldl_shape _ (fun _ _ => ?_) _ _).trans ?_)
    | (with_reducible refine (foldl_snd_shape _ (fun _ _ => ?_) _ _).trans ?_)
    | (with_reducible refine (foldl_fst_shape _ (fun _ _ => ?_) _ _).trans ?_)
    | (with_reducible refine (State.ordered_shape _ _ _ _ _ _ _ (fun _ => ?_)).trans ?_)
    | (with_reducible refine (State.orderBytes_shape _ _ _ _ _ _ _ (fun _ => ?_)).trans ?_)
    | (with_reducible refine (State.command_shape _ _ _ _ _ (fun _ _ => ?_)).trans ?_)
    | (with_reducible refine (State.sealedWrite_shape _ _ _ _ _ _ _ (fun _ => ?_)).trans ?_)
    | (with_reducible refine (State.transmit_shape _ _ _ (by assumption)).trans ?_)
    | (with_reducible refine (State.pipStore_shape _ _ _ _ (by assumption)).trans ?_)
    | (with_reducible refine (State.planFences_shape _ _ (by assumption)).trans ?_)
    | (with_reducible refine (shape_of_eq (by assumption)).trans ?_)
    | (with_reducible refine (shape_of_eq' (by assumption)).trans ?_)
    | (with_reducible refine (shape_of_eq3 (by assumption)).trans ?_)
    | (with_reducible refine (shape_of_eq4 (by assumption)).trans ?_)
    | simp
    | simp [pending_eq, pods_eq, clusters_eq, walkers_eq, jobs_eq, heads_eq, pips_eq, channels_eq, parties_eq, buckets_eq])

@[simp] theorem execHeartbeat_shape (s : State) : Keeps (execHeartbeat s) s := by simp [execHeartbeat]

end Sys2Proof.Machine
end

