-- ==== Sys2Proof/Laws/KeepDictionary.lean ====
section
/-! SUPPORT. The operations of Machine/Dictionary.lean keep the queue and the units of the device. -/

namespace Sys2Proof.Machine

open Sys2Proof

@[simp] theorem State.onDict_shape (s : State) (f : Dict → Dict) : (State.onDict s f).shape = s.shape := by simp [State.onDict]

@[simp] theorem State.periodSetting_shape (s : State) (r : Req) (v : Nat) : (State.periodSetting s r v).shape = s.shape := by simp [State.periodSetting]

@[simp] theorem execFramePeriodWrite_shape (r : Req) (v : Nat) (s : State) : Keeps (execFramePeriodWrite r v s) s := by simp [execFramePeriodWrite]

@[simp] theorem State.intakeSetting_shape (s : State) (r : Req) (v : Nat) : (State.intakeSetting s r v).shape = s.shape := by simp [State.intakeSetting]

@[simp] theorem execIntakeLengthWrite_shape (r : Req) (v : Nat) (s : State) : Keeps (execIntakeLengthWrite r v s) s := by simp [execIntakeLengthWrite]

@[simp] theorem State.timingClearOrder_shape (s : State) (r : Req) (v : Nat) : (State.timingClearOrder s r v).shape = s.shape := by simp [State.timingClearOrder]

@[simp] theorem execTimingClear_shape (r : Req) (v : Nat) (s : State) : Keeps (execTimingClear r v s) s := by simp [execTimingClear]

@[simp] theorem State.clockOrder_shape (s : State) (r : Req) (v : Nat) : (State.clockOrder s r v).shape = s.shape := by simp [State.clockOrder]

@[simp] theorem State.restoreOrder_shape (s : State) (r : Req) (v : Nat) : (State.restoreOrder s r v).shape = s.shape := by simp [State.restoreOrder]

@[simp] theorem execRestoreDefaults_shape (r : Req) (v : Nat) (s : State) : Keeps (execRestoreDefaults r v s) s := by simp [execRestoreDefaults]

@[simp] theorem State.clearLogOrder_shape (s : State) (r : Req) (v : Nat) : (State.clearLogOrder s r v).shape = s.shape := by simp [State.clearLogOrder]

@[simp] theorem execClearLog_shape (r : Req) (v : Nat) (s : State) : Keeps (execClearLog r v s) s := by simp [execClearLog]

@[simp] theorem State.takeSnap_shape (s : State) (p k : Nat) (data : List Byte) : (State.takeSnap s p k data).shape = s.shape := by simp [State.takeSnap]

@[simp] theorem State.readDomain_shape (s : State) (r : Req) (index sub offset : Nat) : (State.readDomain s r index sub offset).shape = s.shape := by
  unfold State.readDomain
  repeat' (first | split | (with_reducible refine foldl_shape _ (fun _ _ => ?_) _ _) | simp)

@[simp] theorem State.readWhole_shape (s : State) (r : Req) (index sub : Nat) (data : List Byte) : (State.readWhole s r index sub data).shape = s.shape := by
  unfold State.readWhole
  repeat' (first | with_reducible rfl | assumption | (with_reducible refine (keeps_next _ _).mpr ?_) | simp [*])

@[simp] theorem State.readChallenge_shape (s : State) (r : Req) : (State.readChallenge s r).shape = s.shape := by unfold State.readChallenge; split <;> simp

@[simp] theorem execDebugChallenge_shape (r : Req) (s : State) : Keeps (execDebugChallenge r s) s := by simp [execDebugChallenge]

@[simp] theorem State.readNow_shape (s : State) (r : Req) (index sub offset : Nat) : (State.readNow s r index sub offset).shape = s.shape := by
  unfold State.readNow
  repeat' (first
    | with_reducible rfl
    | assumption
    | (with_reducible refine (keeps_next _ _).mpr ?_)
    | (simp [*]; done)
    | (rintro ⟨⟩)
    | split)

@[simp] theorem State.readEntry_shape (s : State) (r : Req) (index sub offset : Nat) : (State.readEntry s r index sub offset).shape = s.shape := by
  unfold State.readEntry
  repeat' split
  all_goals simp

@[simp] theorem execOdRead_shape (r : Req) (index sub offset : Nat) (s : State) : Keeps (execOdRead r index sub offset s) s := by simp [execOdRead]

@[simp] theorem State.answerHeld_shape (s : State) : (State.answerHeld s).shape = s.shape := by
  unfold State.answerHeld
  repeat' (first | split | (with_reducible refine (shape_of_eq (by assumption)).trans ?_) | (with_reducible refine (foldl_shape _ (fun _ _ => ?_) _ _).trans ?_) | simp)

@[simp] theorem State.selectorSetting_shape (s : State) (r : Req) (index sub v : Nat) : (State.selectorSetting s r index sub v).shape = s.shape := by simp [State.selectorSetting]

@[simp] theorem State.writeNumber_shape (s : State) (r : Req) (index sub v : Nat) : (State.writeNumber s r index sub v).shape = s.shape := by
  unfold State.writeNumber
  repeat' (first | split | (with_reducible refine foldl_shape _ (fun _ _ => ?_) _ _) | simp)

@[simp] theorem State.bytesSetting_shape (s : State) (r : Req) (index sub : Nat) (data : List Byte) : (State.bytesSetting s r index sub data).shape = s.shape := by unfold State.bytesSetting; split <;> simp

theorem State.orderDomain_shape (s : State) (r : Req) (index sub : Nat) (data : List Byte) {t : State}
    (h : s.orderDomain r index sub data = some t) : t.shape = s.shape := by
  unfold State.orderDomain at h
  split at h <;> cases h <;> simp

@[simp] theorem State.writeBytes_shape (s : State) (r : Req) (index sub : Nat) (data : List Byte) : (State.writeBytes s r index sub data).shape = s.shape := by
  unfold State.writeBytes
  refine shape_of_ite (by simp) ?_
  split
  · exact State.orderDomain_shape _ _ _ _ _ (by assumption)
  · repeat' (first | split | simp)

@[simp] theorem State.writeWhole_shape (s : State) (r : Req) (index sub : Nat) (data : List Byte) : (State.writeWhole s r index sub data).shape = s.shape := by
  unfold State.writeWhole
  repeat' split
  all_goals simp

@[simp] theorem State.dropStaging_shape (s : State) (p : Nat) : (State.dropStaging s p).shape = s.shape := by simp [State.dropStaging]

@[simp] theorem State.writePart_shape (s : State) (r : Req) (index sub offset st : Nat) (data : List Byte) (x : Staging) : (State.writePart s r index sub offset st data x).shape = s.shape := by simp [State.writePart]

@[simp] theorem State.declare_shape (s : State) (r : Req) (index sub st : Nat) (data : List Byte) : (State.declare s r index sub st data).shape = s.shape := by simp [State.declare]

@[simp] theorem State.writeDomain_shape (s : State) (r : Req) (index sub offset : Nat) (data : List Byte) : (State.writeDomain s r index sub offset data).shape = s.shape := by
  unfold State.writeDomain
  repeat' (first | split | (with_reducible refine foldl_shape _ (fun _ _ => ?_) _ _) | simp)

@[simp] theorem State.writeEntry_shape (s : State) (r : Req) (index sub offset : Nat) (data : List Byte) : (State.writeEntry s r index sub offset data).shape = s.shape := by unfold State.writeEntry; split <;> simp

@[simp] theorem execOdWrite_shape (r : Req) (index sub offset : Nat) (data : List Byte) (s : State) : Keeps (execOdWrite r index sub offset data s) s := by simp [execOdWrite]

@[simp] theorem execSnapshotExpiry_shape (p : Nat) (s : State) : Keeps (execSnapshotExpiry p s) s := by simp [execSnapshotExpiry]

@[simp] theorem execStagingExpiry_shape (p : Nat) (s : State) : Keeps (execStagingExpiry p s) s := by simp [execStagingExpiry]

@[simp] theorem State.countCommit_shape (s : State) : (State.countCommit s).shape = s.shape := by simp [State.countCommit]

@[simp] theorem execVaultCommit_shape (s : State) : Keeps (execVaultCommit s) s := by
  unfold execVaultCommit
  refine (keeps_next _ _).mpr ?_
  repeat' split
  all_goals simp

@[simp] theorem execDisagree_shape (index sub : Nat) (s : State) : Keeps (execDisagree index sub s) s := by
  unfold execDisagree
  refine (keeps_next _ _).mpr ?_
  repeat' (first | split | (with_reducible refine foldl_shape _ (fun _ _ => ?_) _ _) | simp)

@[simp] theorem State.usdo_shape (s : State) (node : Nat) (f : State → Nat → State) (h_f : ∀ s n, (f s n).shape = s.shape) : (State.usdo s node f).shape = s.shape := by
  unfold State.usdo
  repeat' split
  all_goals simp [*]

@[simp] theorem State.endUsdo_shape (s : State) (node : Nat) : (State.endUsdo s node).shape = s.shape := by simp [State.endUsdo]

theorem State.usdoAccess_shape (s : State) (p op index sub : Nat) (data : List Byte) (f : State → State)
    (h : ∀ t, (f t).shape = t.shape) : (State.usdoAccess s p op index sub data f).shape = s.shape := by
  unfold State.usdoAccess
  refine shape_of_ite (by simp) (shape_of_ite ((h _).trans (by simp)) (by simp))

@[simp] theorem State.usdoSegment_shape (s : State) (node : Nat) : (State.usdoSegment s node).shape = s.shape := by
  unfold State.usdoSegment
  repeat' (first
    | with_reducible rfl
    | assumption
    | (with_reducible refine (keeps_next _ _).mpr ?_)
    | (simp [*]; done)
    | (rintro ⟨⟩)
    | split)

@[simp] theorem execUsdoUpload_shape (node index sub service : Nat) (s : State) : Keeps (execUsdoUpload node index sub service s) s := by
  unfold execUsdoUpload
  refine (keeps_next _ _).mpr (State.usdo_shape _ _ _ fun s p => ?_)
  split
  · exact (State.usdoAccess_shape _ _ _ _ _ _ _ fun t => by simp).trans (by simp)
  · simp
  · simp

@[simp] theorem execUsdoDownload_shape (node index sub : Nat) (first last : Bool) (data : List Byte) (s : State) : Keeps (execUsdoDownload node index sub first last data s) s := by
  unfold execUsdoDownload
  refine (keeps_next _ _).mpr (State.usdo_shape _ _ _ fun s p => ?_)
  dsimp only
  generalize (if first = true then some _ else _ : Option Usdo) = o
  cases o with
  | none => simp
  | some x => exact shape_of_ite ((State.usdoAccess_shape _ _ _ _ _ _ _ fun t => by simp).trans (by simp)) (by simp)

@[simp] theorem execUsdoTimeout_shape (node : Nat) (s : State) : Keeps (execUsdoTimeout node s) s := by simp [execUsdoTimeout]

end Sys2Proof.Machine
end

