-- ==== Sys2Proof/Laws/KeepBoundary.lean ====
section
/-! SUPPORT. The operations of Machine/Boundary.lean keep the queue and the units of the device. -/

namespace Sys2Proof.Machine

open Sys2Proof

@[simp] theorem State.onFrame_shape (s : State) (f : Frame → Frame) : (State.onFrame s f).shape = s.shape := by simp [State.onFrame]

@[simp] theorem State.boundaryOp_shape (s : State) (op : BoundaryOp) : (State.boundaryOp s op).shape = s.shape := by unfold State.boundaryOp; split <;> simp

@[simp] theorem State.boundaryOps_shape (s : State) : (State.boundaryOps s).shape = s.shape := by
  unfold State.boundaryOps
  repeat' (first | split | (with_reducible refine (shape_of_eq (by assumption)).trans ?_) | (with_reducible refine (foldl_shape _ (fun _ _ => ?_) _ _).trans ?_) | simp)

@[simp] theorem State.newFrame_shape (s : State) (t : Nat) (flags : BitVec 16) (lag : Nat) (angle : Int) : (State.newFrame s t flags lag angle).shape = s.shape := by simp [State.newFrame]

@[simp] theorem State.powerBoundary_shape (s : State) : (State.powerBoundary s).shape = s.shape := by unfold State.powerBoundary; split <;> simp

@[simp] theorem State.firstFrame_shape (s : State) : (State.firstFrame s).shape = s.shape := by simp [State.firstFrame]

@[simp] theorem State.tierBoundary_shape (s : State) : (State.tierBoundary s).shape = s.shape := by simp [State.tierBoundary]

@[simp] theorem State.ballastBoundary_shape (s : State) : (State.ballastBoundary s).shape = s.shape := by simp [State.ballastBoundary]

@[simp] theorem State.checkBoundary_shape (s : State) : (State.checkBoundary s).shape = s.shape := by simp [State.checkBoundary]

@[simp] theorem State.jobBoundary_shape (s : State) : (State.jobBoundary s).shape = s.shape := by
  unfold State.jobBoundary
  refine (foldl_shape _ (fun _ _ => ?_) _ _).trans (State.dropAheads_shape s)
  repeat' (first | split | simp)

@[simp] theorem State.freeSlots_shape (s : State) : (State.freeSlots s).shape = s.shape := by
  unfold State.freeSlots
  repeat' (first
    | with_reducible rfl
    | assumption
    | (with_reducible refine (keeps_next _ _).mpr ?_)
    | simp [*]
    | (rintro ⟨⟩)
    | split
    | (with_reducible refine shape_of_ite ?_ ?_)
    | (with_reducible refine foldl_shape _ (fun _ _ => ?_) _ _))

@[simp] theorem State.availBoundary_shape (s : State) : (State.availBoundary s).shape = s.shape := by
  unfold State.availBoundary
  repeat' (first | with_reducible rfl | assumption | (with_reducible refine (keeps_next _ _).mpr ?_) | simp [*])

@[simp] theorem State.showBoundary_shape (s : State) : (State.showBoundary s).shape = s.shape := by simp [State.showBoundary]

@[simp] theorem State.rebind_shape (s : State) (was : List (Nat × Nat × Nat)) : (State.rebind s was).shape = s.shape := by
  unfold State.rebind
  repeat' (first
    | with_reducible rfl
    | assumption
    | (with_reducible refine (keeps_next _ _).mpr ?_)
    | simp [*]
    | (rintro ⟨⟩)
    | split
    | (with_reducible refine shape_of_ite ?_ ?_)
    | (with_reducible refine foldl_shape _ (fun _ _ => ?_) _ _))

@[simp] theorem State.partyBoundary_shape (s : State) (old : List (Nat × Nat)) : (State.partyBoundary s old).shape = s.shape := by simp [State.partyBoundary]

@[simp] theorem State.podBoundary_shape (s : State) (old : List (Nat × Nat)) : (State.podBoundary s old).shape = s.shape := by simp [State.podBoundary]

@[simp] theorem State.clusterBoundary_shape (s : State) : (State.clusterBoundary s).shape = s.shape := by
  unfold State.clusterBoundary
  repeat' (first | split | (with_reducible refine (shape_of_eq (by assumption)).trans ?_) | (with_reducible refine (foldl_shape _ (fun _ _ => ?_) _ _).trans ?_) | simp)

@[simp] theorem State.boundary_shape (s : State) (old : List (Nat × Nat)) : (State.boundary s old).shape = s.shape := by simp [State.boundary]

@[simp] theorem State.startFrame_shape (s : State) (t : Nat) (flags : BitVec 16) (lag : Nat) (angle : Int) : (State.startFrame s t flags lag angle).shape = s.shape := by simp [State.startFrame]

end Sys2Proof.Machine
end

