-- ==== Sys2Proof/Laws/KeepFrameTimer.lean ====
section
/-! SUPPORT. The operations of Machine/FrameTimer.lean keep the queue and the units of the device. -/

namespace Sys2Proof.Machine

open Sys2Proof

@[simp] theorem execTick_shape (s : State) : Keeps (execTick s) s := by simp [execTick]

@[simp] theorem execPtpTick_shape (s : State) : Keeps (execPtpTick s) s := by simp [execPtpTick]

@[simp] theorem execSyncInEdge_shape (rising : Bool) (width : Nat) (seen : Bool) (s : State) : Keeps (execSyncInEdge rising width seen s) s := by simp [execSyncInEdge]

@[simp] theorem execSyncMiss_shape (s : State) : Keeps (execSyncMiss s) s := by simp [execSyncMiss]

@[simp] theorem State.angleArrives_shape (s : State) (t : Nat) (count : Int) : (State.angleArrives s t count).shape = s.shape := by simp [State.angleArrives]

@[simp] theorem State.countEdge_shape (s : State) (q : Nat) (x : Nat × Bool × Bool) : (State.countEdge s q x).shape = s.shape := by
  unfold State.countEdge
  repeat' (first | split | simp)

@[simp] theorem execQEdge_shape (q : Nat) (a b : Bool) (s : State) : Keeps (execQEdge q a b s) s := by
  unfold execQEdge
  repeat' (first
    | with_reducible rfl
    | assumption
    | (with_reducible refine (keeps_next _ _).mpr ?_)
    | (simp [*]; done)
    | (rintro ⟨⟩)
    | split
    | (with_reducible refine shape_of_ite ?_ ?_)
    | (with_reducible refine foldl_shape _ (fun _ _ => ?_) _ _)
    | (with_reducible refine (foldl_shape _ (fun _ _ => ?_) _ _).trans ?_))

@[simp] theorem execAngleLag_shape (s : State) : Keeps (execAngleLag s) s := by unfold execAngleLag; refine (keeps_next _ _).mpr ?_; split <;> simp

@[simp] theorem execAngleStall_shape (s : State) : Keeps (execAngleStall s) s := by simp [execAngleStall]

@[simp] theorem State.clearForWindow_shape (s : State) (p c : Nat) : (State.clearForWindow s p c).shape = s.shape := by simp [State.clearForWindow]

@[simp] theorem execWindowClear_shape (s : State) : Keeps (execWindowClear s) s := by
  unfold execWindowClear
  refine (keeps_next _ _).mpr ?_
  repeat' (first | split | (with_reducible refine foldl_shape _ (fun _ _ => ?_) _ _) | simp)

@[simp] theorem State.enterSegment_shape (s : State) (g pc : Nat) : (State.enterSegment s g pc).shape = s.shape := by simp [State.enterSegment]

@[simp] theorem execSegmentEntry_shape (s : State) : Keeps (execSegmentEntry s) s := by
  unfold execSegmentEntry
  refine (keeps_next _ _).mpr ?_
  repeat' split
  all_goals simp

@[simp] theorem State.cutCluster_shape (s : State) (c : Nat) : (State.cutCluster s c).shape = s.shape := by simp [State.cutCluster]

@[simp] theorem State.countOverrun_shape (s : State) (g : Nat) : (State.countOverrun s g).shape = s.shape := by simp [State.countOverrun]

@[simp] theorem execWindowEnd_shape (s : State) : Keeps (execWindowEnd s) s := by
  unfold execWindowEnd
  refine (keeps_next _ _).mpr ?_
  repeat' (first | split | (with_reducible refine (shape_of_eq (by assumption)).trans ?_) | (with_reducible refine (foldl_shape _ (fun _ _ => ?_) _ _).trans ?_) | simp)

@[simp] theorem execTimingFault_shape (seg : Nat) (s : State) : Keeps (execTimingFault seg s) s := by simp [execTimingFault]

@[simp] theorem State.publishOne_shape (s : State) (img : SegImage) (d : StreamD) : (State.publishOne s img d).shape = s.shape := by
  unfold State.publishOne
  repeat' (first | split | (with_reducible refine foldl_shape _ (fun _ _ => ?_) _ _) | simp)

@[simp] theorem State.queueFaults_shape (s : State) : (State.queueFaults s).shape = s.shape := by
  unfold State.queueFaults
  repeat' (first | split | (with_reducible refine (shape_of_eq (by assumption)).trans ?_) | (with_reducible refine (foldl_shape _ (fun _ _ => ?_) _ _).trans ?_) | simp)

@[simp] theorem State.announceTier_shape (s : State) : (State.announceTier s).shape = s.shape := by unfold State.announceTier; split <;> simp

@[simp] theorem execPublish_shape (s : State) : Keeps (execPublish s) s := by
  unfold execPublish
  repeat' (first
    | with_reducible rfl
    | assumption
    | (with_reducible refine (keeps_next _ _).mpr ?_)
    | (simp [*]; done)
    | (rintro ⟨⟩)
    | split
    | (with_reducible refine shape_of_ite ?_ ?_)
    | (with_reducible refine foldl_shape _ (fun _ _ => ?_) _ _)
    | (with_reducible refine (foldl_shape _ (fun _ _ => ?_) _ _).trans ?_)
    | (with_reducible refine (foldl_snd_shape _ (fun _ _ => ?_) _ _).trans ?_)
    | (with_reducible refine (foldl_fst_shape _ (fun _ _ => ?_) _ _).trans ?_)
    | (with_reducible refine State.slot_shape _ _ _ (fun _ _ => ?_))
    | (with_reducible refine State.pipDo_shape _ _ _ _ (fun _ => ?_))
    | (with_reducible refine (State.ordered_shape _ _ _ _ _ _ _ (fun _ => ?_)).trans ?_)
    | (with_reducible refine (State.orderBytes_shape _ _ _ _ _ _ _ (fun _ => ?_)).trans ?_)
    | (with_reducible refine (State.poolRun_shape _ _ _ _ _ _ _ (fun _ _ => ?_)).trans ?_)
    | (with_reducible refine (State.poolOne_shape _ _ _ _ _ _ _ _ (fun _ _ => ?_)).trans ?_)
    | (with_reducible refine (State.command_shape _ _ _ _ _ (fun _ _ => ?_)).trans ?_)
    | (with_reducible refine (State.sealedWrite_shape _ _ _ _ _ _ _ (fun _ => ?_)).trans ?_)
    | (with_reducible refine (State.usdo_shape _ _ _ (fun _ _ => ?_)).trans ?_)
    | (with_reducible refine (State.transmit_shape _ _ _ (by assumption)).trans ?_)
    | (with_reducible refine (State.pipStore_shape _ _ _ _ (by assumption)).trans ?_)
    | (with_reducible refine (State.planFences_shape _ _ (by assumption)).trans ?_)
    | (with_reducible refine (State.acceptPn_shape _ _ _ _ _ (by assumption)).trans ?_)
    | (with_reducible refine (State.sendOne_shape _ _ _ (by assumption)).trans ?_)
    | (with_reducible refine (shape_of_eq (by assumption)).trans ?_)
    | (with_reducible refine (shape_of_eq' (by assumption)).trans ?_)
    | (with_reducible refine (shape_of_eq3 (by assumption)).trans ?_)
    | (with_reducible refine (shape_of_eq4 (by assumption)).trans ?_)
    | simp)

@[simp] theorem execKeep_shape (errs : List (Nat × Int)) (s : State) : Keeps (execKeep errs s) s := by simp [execKeep]

@[simp] theorem execKeepPartySlot_shape (p : Nat) (s : State) : Keeps (execKeepPartySlot p s) s := by simp [execKeepPartySlot]

@[simp] theorem State.holdSlice_shape (s : State) (pod : Option Nat) : (State.holdSlice s pod).shape = s.shape := by
  unfold State.holdSlice
  repeat' (first
    | with_reducible rfl
    | assumption
    | (with_reducible refine (keeps_next _ _).mpr ?_)
    | simp [*]
    | (rintro ⟨⟩)
    | split)

@[simp] theorem execRotationSlice_shape (a b : CalMeas) (refs : List Nat) (s : State) : Keeps (execRotationSlice a b refs s) s := by simp [execRotationSlice]

@[simp] theorem execSafeEntry_shape (s : State) : Keeps (execSafeEntry s) s := by unfold execSafeEntry; refine (keeps_next _ _).mpr ?_; split <;> simp

@[simp] theorem execCoolDown_shape (s : State) : Keeps (execCoolDown s) s := by unfold execCoolDown; refine (keeps_next _ _).mpr ?_; split <;> simp

@[simp] theorem execSproutStageEnd_shape (x : StageEnv) (s : State) : Keeps (execSproutStageEnd x s) s := by simp [execSproutStageEnd]

end Sys2Proof.Machine
end

