-- ==== Sys2Proof/Laws/Maps.lean ====
section
/-! SUPPORT. Sparse maps: what a key reads after a write, and that every write keeps the canonical form. -/

namespace Sys2Proof.Machine

open Sys2Proof

variable {α : Type}

@[simp] theorem mget_mins_self (d : α) (m : List (Nat × α)) (j : Nat) (x : α) : mget d (mins m j x) j = x := by
  induction m with
  | nil => simp [mins, mget]
  | cons p m ih =>
    obtain ⟨k, v⟩ := p
    unfold mins
    split
    · simp [mget]
    · split
      · simp [mget]
      · rename_i h1 h2
        simp [mget, Ne.symm h2, ih]

theorem mget_mins_ne (d : α) (m : List (Nat × α)) {i j : Nat} (h : i ≠ j) (x : α) : mget d (mins m i x) j = mget d m j := by
  induction m with
  | nil => simp [mins, mget, h]
  | cons p m ih =>
    obtain ⟨k, v⟩ := p
    unfold mins
    split
    · simp [mget, h]
    · split
      · rename_i h1 h2
        subst h2
        simp [mget, h]
      · simp [mget, ih]

@[simp] theorem mget_mdel_self (d : α) (m : List (Nat × α)) (j : Nat) : mget d (mdel m j) j = d := by
  induction m with
  | nil => rfl
  | cons p m ih =>
    obtain ⟨k, v⟩ := p
    unfold mdel
    split
    · exact ih
    · rename_i h
      simp [mget, h, ih]

theorem mget_mdel_ne (d : α) (m : List (Nat × α)) {i j : Nat} (h : i ≠ j) : mget d (mdel m i) j = mget d m j := by
  induction m with
  | nil => rfl
  | cons p m ih =>
    obtain ⟨k, v⟩ := p
    unfold mdel
    split
    · rename_i hk
      subst hk
      simp [mget, h, ih]
    · simp [mget, ih]

/-- A key reads what was written to it. -/
theorem mget_mset_self [DecidableEq α] (d : α) (m : List (Nat × α)) (j : Nat) (x : α) : mget d (mset d m j x) j = x := by
  unfold mset
  split
  · rename_i h
    simp [h]
  · simp

/-- A write leaves every other key alone. -/
theorem mget_mset_ne [DecidableEq α] (d : α) (m : List (Nat × α)) {i j : Nat} (h : i ≠ j) (x : α) :
    mget d (mset d m i x) j = mget d m j := by
  unfold mset
  split
  · exact mget_mdel_ne d m h
  · exact mget_mins_ne d m h x

/-! The canonical form -/

/-- Every key of a map lies above a bound. -/
def above (b : Nat) (m : List (Nat × α)) : Prop := ∀ p ∈ m, b < p.1

/-- The canonical form, entry by entry. -/
theorem mwf_cons [DecidableEq α] (d : α) (k : Nat) (v : α) (m : List (Nat × α)) :
    mwf d ((k, v) :: m) = true ↔ v ≠ d ∧ above k m ∧ mwf d m = true := by
  induction m generalizing k v with
  | nil => simp [mwf, above]
  | cons p m ih =>
    obtain ⟨l, w⟩ := p
    have := ih l w
    simp only [mwf, Bool.and_eq_true, decide_eq_true_eq]
    constructor
    · rintro ⟨⟨hv, hk⟩, hm⟩
      refine ⟨hv, ?_, hm⟩
      intro q hq
      rcases List.mem_cons.1 hq with rfl | hq
      · exact hk
      · exact Nat.lt_trans hk ((this.1 hm).2.1 q hq)
    · rintro ⟨hv, ha, hm⟩
      exact ⟨⟨hv, ha (l, w) (by simp)⟩, hm⟩

theorem above_mins (b : Nat) (m : List (Nat × α)) (j : Nat) (x : α) (hm : above b m) (hj : b < j) : above b (mins m j x) := by
  induction m with
  | nil => intro q hq; simp [mins] at hq; subst hq; exact hj
  | cons p m ih =>
    obtain ⟨k, v⟩ := p
    have hm' : above b m := fun q hq => hm q (List.mem_cons_of_mem _ hq)
    unfold mins
    split
    · intro q hq
      rcases List.mem_cons.1 hq with rfl | hq
      · exact hj
      · exact hm q hq
    · split
      · intro q hq
        rcases List.mem_cons.1 hq with rfl | hq
        · exact hj
        · exact hm' q hq
      · intro q hq
        rcases List.mem_cons.1 hq with rfl | hq
        · exact hm _ (by simp)
        · exact ih hm' q hq

theorem above_mdel (b : Nat) (m : List (Nat × α)) (j : Nat) (hm : above b m) : above b (mdel m j) := by
  induction m with
  | nil => exact hm
  | cons p m ih =>
    obtain ⟨k, v⟩ := p
    have hm' : above b m := fun q hq => hm q (List.mem_cons_of_mem _ hq)
    unfold mdel
    split
    · exact ih hm'
    · intro q hq
      rcases List.mem_cons.1 hq with rfl | hq
      · exact hm _ (by simp)
      · exact ih hm' q hq

theorem mwf_mdel [DecidableEq α] (d : α) (m : List (Nat × α)) (j : Nat) (h : mwf d m = true) : mwf d (mdel m j) = true := by
  induction m with
  | nil => rfl
  | cons p m ih =>
    obtain ⟨k, v⟩ := p
    obtain ⟨hv, ha, hm⟩ := (mwf_cons d k v m).1 h
    unfold mdel
    split
    · exact ih hm
    · exact (mwf_cons d k v _).2 ⟨hv, above_mdel k m j ha, ih hm⟩

theorem mwf_mins [DecidableEq α] (d : α) (m : List (Nat × α)) (j : Nat) (x : α) (hx : x ≠ d) (h : mwf d m = true) :
    mwf d (mins m j x) = true := by
  induction m with
  | nil => simp [mins, mwf, hx]
  | cons p m ih =>
    obtain ⟨k, v⟩ := p
    obtain ⟨hv, ha, hm⟩ := (mwf_cons d k v m).1 h
    unfold mins
    split
    · rename_i hjk
      refine (mwf_cons d j x _).2 ⟨hx, fun q hq => ?_, h⟩
      rcases List.mem_cons.1 hq with rfl | hq
      · exact hjk
      · exact Nat.lt_trans hjk (ha q hq)
    · split
      · rename_i hjk
        exact (mwf_cons d j x m).2 ⟨hx, by subst hjk; exact ha, hm⟩
      · rename_i h1 h2
        exact (mwf_cons d k v _).2 ⟨hv, above_mins k m j x ha (by omega), ih hm⟩

/-- A write keeps the canonical form. -/
theorem mwf_mset [DecidableEq α] (d : α) (m : List (Nat × α)) (j : Nat) (x : α) (h : mwf d m = true) :
    mwf d (mset d m j x) = true := by
  unfold mset
  split
  · exact mwf_mdel d m j h
  · rename_i hx
    exact mwf_mins d m j x hx h

/-! Byte strings in memory -/

theorem mwf_writeCells (m : List Host.Cell) (a : Nat) (bs : List Byte) (h : mwf 0 m = true) :
    mwf 0 (writeCells m a bs) = true := by
  induction bs generalizing m a with
  | nil => exact h
  | cons b bs ih => exact ih _ _ (mwf_mset 0 m a b h)

/-- A store leaves every byte outside it alone. -/
theorem mget_writeCells_ne (m : List Host.Cell) (a j : Nat) (bs : List Byte) (h : j < a ∨ a + bs.length ≤ j) :
    mget 0 (writeCells m a bs) j = mget 0 m j := by
  induction bs generalizing m a with
  | nil => rfl
  | cons b bs ih =>
    simp only [List.length_cons] at h
    rw [writeCells, ih _ _ (by omega), mget_mset_ne 0 m (by omega)]

/-- A stored byte reads back. -/
theorem mget_writeCells (m : List Host.Cell) (a i : Nat) (bs : List Byte) (h : i < bs.length) :
    mget 0 (writeCells m a bs) (a + i) = bs.getD i 0 := by
  induction bs generalizing m a i with
  | nil => cases h
  | cons b bs ih =>
    cases i with
    | zero =>
      rw [writeCells, mget_writeCells_ne _ _ _ _ (by omega)]
      exact mget_mset_self 0 m a b
    | succ i =>
      have := ih (mset 0 m a b) (a + 1) i (by simpa using h)
      rw [writeCells, show a + (i + 1) = a + 1 + i by omega, this]
      rfl

end Sys2Proof.Machine
end

