-- ==== Sys2Proof/Laws/State.lean ====
section
/-! SUPPORT. What each update of the state does to each of its fields, so that no proof unfolds a record update; and how a
register reads after a write. -/

namespace Sys2Proof.Machine

open Sys2Proof

/-! Registers -/

@[simp] theorem State.reg_setReg_self (s : State) (k v : Nat) : (s.setReg k v).reg k = v := mget_mset_self _ _ _ _

@[simp] theorem State.reg_setReg_ne (s : State) (k j v : Nat) (h : k ≠ j) : (s.setReg k v).reg j = s.reg j :=
  mget_mset_ne _ _ h _

@[simp] theorem State.inForce_setReg (s : State) (k j v : Nat) : (s.setReg k v).inForce j = s.inForce j := rfl

theorem State.reg_bump_self (s : State) (k n : Nat) : (s.bump k n).reg k = (s.reg k + n) % 4294967296 :=
  State.reg_setReg_self s k _

theorem State.reg_bump_ne (s : State) (k j n : Nat) (h : k ≠ j) : (s.bump k n).reg j = s.reg j :=
  State.reg_setReg_ne s k j _ h

/-! setReg -/

@[simp] theorem State.setReg_pending (s : State) (k v : Nat) : (s.setReg k v).pending = s.pending := rfl
@[simp] theorem State.setReg_od (s : State) (k v : Nat) : (s.setReg k v).od = mset 0 s.od k v := rfl
@[simp] theorem State.setReg_husk (s : State) (k v : Nat) : (s.setReg k v).husk = s.husk := rfl
@[simp] theorem State.setReg_thermal (s : State) (k v : Nat) : (s.setReg k v).thermal = s.thermal := rfl
@[simp] theorem State.setReg_store (s : State) (k v : Nat) : (s.setReg k v).store = s.store := rfl
@[simp] theorem State.setReg_frame (s : State) (k v : Nat) : (s.setReg k v).frame = s.frame := rfl
@[simp] theorem State.setReg_pods (s : State) (k v : Nat) : (s.setReg k v).pods = s.pods := rfl
@[simp] theorem State.setReg_clusters (s : State) (k v : Nat) : (s.setReg k v).clusters = s.clusters := rfl
@[simp] theorem State.setReg_cal (s : State) (k v : Nat) : (s.setReg k v).cal = s.cal := rfl
@[simp] theorem State.setReg_walkers (s : State) (k v : Nat) : (s.setReg k v).walkers = s.walkers := rfl
@[simp] theorem State.setReg_ahead (s : State) (k v : Nat) : (s.setReg k v).ahead = s.ahead := rfl
@[simp] theorem State.setReg_jobs (s : State) (k v : Nat) : (s.setReg k v).jobs = s.jobs := rfl
@[simp] theorem State.setReg_heads (s : State) (k v : Nat) : (s.setReg k v).heads = s.heads := rfl
@[simp] theorem State.setReg_core (s : State) (k v : Nat) : (s.setReg k v).core = s.core := rfl
@[simp] theorem State.setReg_pips (s : State) (k v : Nat) : (s.setReg k v).pips = s.pips := rfl
@[simp] theorem State.setReg_loader (s : State) (k v : Nat) : (s.setReg k v).loader = s.loader := rfl
@[simp] theorem State.setReg_channels (s : State) (k v : Nat) : (s.setReg k v).channels = s.channels := rfl
@[simp] theorem State.setReg_net (s : State) (k v : Nat) : (s.setReg k v).net = s.net := rfl
@[simp] theorem State.setReg_dict (s : State) (k v : Nat) : (s.setReg k v).dict = s.dict := rfl
@[simp] theorem State.setReg_pool (s : State) (k v : Nat) : (s.setReg k v).pool = s.pool := rfl
@[simp] theorem State.setReg_integ (s : State) (k v : Nat) : (s.setReg k v).integ = s.integ := rfl
@[simp] theorem State.setReg_sec (s : State) (k v : Nat) : (s.setReg k v).sec = s.sec := rfl
@[simp] theorem State.setReg_test (s : State) (k v : Nat) : (s.setReg k v).test = s.test := rfl
@[simp] theorem State.setReg_board (s : State) (k v : Nat) : (s.setReg k v).board = s.board := rfl
@[simp] theorem State.setReg_free (s : State) (k v : Nat) : (s.setReg k v).free = s.free := rfl
@[simp] theorem State.setReg_out (s : State) (k v : Nat) : (s.setReg k v).out = s.out := rfl

/-! onHusk -/

@[simp] theorem State.onHusk_pending (s : State) (f : Husk → Husk) : (s.onHusk f).pending = s.pending := rfl
@[simp] theorem State.onHusk_od (s : State) (f : Husk → Husk) : (s.onHusk f).od = s.od := rfl
@[simp] theorem State.onHusk_husk (s : State) (f : Husk → Husk) : (s.onHusk f).husk = f s.husk := rfl
@[simp] theorem State.onHusk_thermal (s : State) (f : Husk → Husk) : (s.onHusk f).thermal = s.thermal := rfl
@[simp] theorem State.onHusk_store (s : State) (f : Husk → Husk) : (s.onHusk f).store = s.store := rfl
@[simp] theorem State.onHusk_frame (s : State) (f : Husk → Husk) : (s.onHusk f).frame = s.frame := rfl
@[simp] theorem State.onHusk_pods (s : State) (f : Husk → Husk) : (s.onHusk f).pods = s.pods := rfl
@[simp] theorem State.onHusk_clusters (s : State) (f : Husk → Husk) : (s.onHusk f).clusters = s.clusters := rfl
@[simp] theorem State.onHusk_cal (s : State) (f : Husk → Husk) : (s.onHusk f).cal = s.cal := rfl
@[simp] theorem State.onHusk_walkers (s : State) (f : Husk → Husk) : (s.onHusk f).walkers = s.walkers := rfl
@[simp] theorem State.onHusk_ahead (s : State) (f : Husk → Husk) : (s.onHusk f).ahead = s.ahead := rfl
@[simp] theorem State.onHusk_jobs (s : State) (f : Husk → Husk) : (s.onHusk f).jobs = s.jobs := rfl
@[simp] theorem State.onHusk_heads (s : State) (f : Husk → Husk) : (s.onHusk f).heads = s.heads := rfl
@[simp] theorem State.onHusk_core (s : State) (f : Husk → Husk) : (s.onHusk f).core = s.core := rfl
@[simp] theorem State.onHusk_pips (s : State) (f : Husk → Husk) : (s.onHusk f).pips = s.pips := rfl
@[simp] theorem State.onHusk_loader (s : State) (f : Husk → Husk) : (s.onHusk f).loader = s.loader := rfl
@[simp] theorem State.onHusk_channels (s : State) (f : Husk → Husk) : (s.onHusk f).channels = s.channels := rfl
@[simp] theorem State.onHusk_net (s : State) (f : Husk → Husk) : (s.onHusk f).net = s.net := rfl
@[simp] theorem State.onHusk_dict (s : State) (f : Husk → Husk) : (s.onHusk f).dict = s.dict := rfl
@[simp] theorem State.onHusk_pool (s : State) (f : Husk → Husk) : (s.onHusk f).pool = s.pool := rfl
@[simp] theorem State.onHusk_integ (s : State) (f : Husk → Husk) : (s.onHusk f).integ = s.integ := rfl
@[simp] theorem State.onHusk_sec (s : State) (f : Husk → Husk) : (s.onHusk f).sec = s.sec := rfl
@[simp] theorem State.onHusk_test (s : State) (f : Husk → Husk) : (s.onHusk f).test = s.test := rfl
@[simp] theorem State.onHusk_board (s : State) (f : Husk → Husk) : (s.onHusk f).board = s.board := rfl
@[simp] theorem State.onHusk_free (s : State) (f : Husk → Husk) : (s.onHusk f).free = s.free := rfl
@[simp] theorem State.onHusk_out (s : State) (f : Husk → Husk) : (s.onHusk f).out = s.out := rfl
@[simp] theorem State.onHusk_reg (s : State) (f : Husk → Husk) (j : Nat) : (s.onHusk f).reg j = s.reg j := rfl
@[simp] theorem State.onHusk_inForce (s : State) (f : Husk → Husk) (j : Nat) : (s.onHusk f).inForce j = s.inForce j := rfl

/-! onFrame -/

@[simp] theorem State.onFrame_pending (s : State) (f : Frame → Frame) : (s.onFrame f).pending = s.pending := rfl
@[simp] theorem State.onFrame_od (s : State) (f : Frame → Frame) : (s.onFrame f).od = s.od := rfl
@[simp] theorem State.onFrame_husk (s : State) (f : Frame → Frame) : (s.onFrame f).husk = s.husk := rfl
@[simp] theorem State.onFrame_thermal (s : State) (f : Frame → Frame) : (s.onFrame f).thermal = s.thermal := rfl
@[simp] theorem State.onFrame_store (s : State) (f : Frame → Frame) : (s.onFrame f).store = s.store := rfl
@[simp] theorem State.onFrame_frame (s : State) (f : Frame → Frame) : (s.onFrame f).frame = f s.frame := rfl
@[simp] theorem State.onFrame_pods (s : State) (f : Frame → Frame) : (s.onFrame f).pods = s.pods := rfl
@[simp] theorem State.onFrame_clusters (s : State) (f : Frame → Frame) : (s.onFrame f).clusters = s.clusters := rfl
@[simp] theorem State.onFrame_cal (s : State) (f : Frame → Frame) : (s.onFrame f).cal = s.cal := rfl
@[simp] theorem State.onFrame_walkers (s : State) (f : Frame → Frame) : (s.onFrame f).walkers = s.walkers := rfl
@[simp] theorem State.onFrame_ahead (s : State) (f : Frame → Frame) : (s.onFrame f).ahead = s.ahead := rfl
@[simp] theorem State.onFrame_jobs (s : State) (f : Frame → Frame) : (s.onFrame f).jobs = s.jobs := rfl
@[simp] theorem State.onFrame_heads (s : State) (f : Frame → Frame) : (s.onFrame f).heads = s.heads := rfl
@[simp] theorem State.onFrame_core (s : State) (f : Frame → Frame) : (s.onFrame f).core = s.core := rfl
@[simp] theorem State.onFrame_pips (s : State) (f : Frame → Frame) : (s.onFrame f).pips = s.pips := rfl
@[simp] theorem State.onFrame_loader (s : State) (f : Frame → Frame) : (s.onFrame f).loader = s.loader := rfl
@[simp] theorem State.onFrame_channels (s : State) (f : Frame → Frame) : (s.onFrame f).channels = s.channels := rfl
@[simp] theorem State.onFrame_net (s : State) (f : Frame → Frame) : (s.onFrame f).net = s.net := rfl
@[simp] theorem State.onFrame_dict (s : State) (f : Frame → Frame) : (s.onFrame f).dict = s.dict := rfl
@[simp] theorem State.onFrame_pool (s : State) (f : Frame → Frame) : (s.onFrame f).pool = s.pool := rfl
@[simp] theorem State.onFrame_integ (s : State) (f : Frame → Frame) : (s.onFrame f).integ = s.integ := rfl
@[simp] theorem State.onFrame_sec (s : State) (f : Frame → Frame) : (s.onFrame f).sec = s.sec := rfl
@[simp] theorem State.onFrame_test (s : State) (f : Frame → Frame) : (s.onFrame f).test = s.test := rfl
@[simp] theorem State.onFrame_board (s : State) (f : Frame → Frame) : (s.onFrame f).board = s.board := rfl
@[simp] theorem State.onFrame_free (s : State) (f : Frame → Frame) : (s.onFrame f).free = s.free := rfl
@[simp] theorem State.onFrame_out (s : State) (f : Frame → Frame) : (s.onFrame f).out = s.out := rfl
@[simp] theorem State.onFrame_reg (s : State) (f : Frame → Frame) (j : Nat) : (s.onFrame f).reg j = s.reg j := rfl

/-! onStore -/

@[simp] theorem State.onStore_pending (s : State) (f : Store → Store) : (s.onStore f).pending = s.pending := rfl
@[simp] theorem State.onStore_od (s : State) (f : Store → Store) : (s.onStore f).od = s.od := rfl
@[simp] theorem State.onStore_husk (s : State) (f : Store → Store) : (s.onStore f).husk = s.husk := rfl
@[simp] theorem State.onStore_thermal (s : State) (f : Store → Store) : (s.onStore f).thermal = s.thermal := rfl
@[simp] theorem State.onStore_store (s : State) (f : Store → Store) : (s.onStore f).store = f s.store := rfl
@[simp] theorem State.onStore_frame (s : State) (f : Store → Store) : (s.onStore f).frame = s.frame := rfl
@[simp] theorem State.onStore_pods (s : State) (f : Store → Store) : (s.onStore f).pods = s.pods := rfl
@[simp] theorem State.onStore_clusters (s : State) (f : Store → Store) : (s.onStore f).clusters = s.clusters := rfl
@[simp] theorem State.onStore_cal (s : State) (f : Store → Store) : (s.onStore f).cal = s.cal := rfl
@[simp] theorem State.onStore_walkers (s : State) (f : Store → Store) : (s.onStore f).walkers = s.walkers := rfl
@[simp] theorem State.onStore_ahead (s : State) (f : Store → Store) : (s.onStore f).ahead = s.ahead := rfl
@[simp] theorem State.onStore_jobs (s : State) (f : Store → Store) : (s.onStore f).jobs = s.jobs := rfl
@[simp] theorem State.onStore_heads (s : State) (f : Store → Store) : (s.onStore f).heads = s.heads := rfl
@[simp] theorem State.onStore_core (s : State) (f : Store → Store) : (s.onStore f).core = s.core := rfl
@[simp] theorem State.onStore_pips (s : State) (f : Store → Store) : (s.onStore f).pips = s.pips := rfl
@[simp] theorem State.onStore_loader (s : State) (f : Store → Store) : (s.onStore f).loader = s.loader := rfl
@[simp] theorem State.onStore_channels (s : State) (f : Store → Store) : (s.onStore f).channels = s.channels := rfl
@[simp] theorem State.onStore_net (s : State) (f : Store → Store) : (s.onStore f).net = s.net := rfl
@[simp] theorem State.onStore_dict (s : State) (f : Store → Store) : (s.onStore f).dict = s.dict := rfl
@[simp] theorem State.onStore_pool (s : State) (f : Store → Store) : (s.onStore f).pool = s.pool := rfl
@[simp] theorem State.onStore_integ (s : State) (f : Store → Store) : (s.onStore f).integ = s.integ := rfl
@[simp] theorem State.onStore_sec (s : State) (f : Store → Store) : (s.onStore f).sec = s.sec := rfl
@[simp] theorem State.onStore_test (s : State) (f : Store → Store) : (s.onStore f).test = s.test := rfl
@[simp] theorem State.onStore_board (s : State) (f : Store → Store) : (s.onStore f).board = s.board := rfl
@[simp] theorem State.onStore_free (s : State) (f : Store → Store) : (s.onStore f).free = s.free := rfl
@[simp] theorem State.onStore_out (s : State) (f : Store → Store) : (s.onStore f).out = s.out := rfl
@[simp] theorem State.onStore_reg (s : State) (f : Store → Store) (j : Nat) : (s.onStore f).reg j = s.reg j := rfl
@[simp] theorem State.onStore_inForce (s : State) (f : Store → Store) (j : Nat) : (s.onStore f).inForce j = s.inForce j := rfl

/-! onCal -/

@[simp] theorem State.onCal_pending (s : State) (f : Cal → Cal) : (s.onCal f).pending = s.pending := rfl
@[simp] theorem State.onCal_od (s : State) (f : Cal → Cal) : (s.onCal f).od = s.od := rfl
@[simp] theorem State.onCal_husk (s : State) (f : Cal → Cal) : (s.onCal f).husk = s.husk := rfl
@[simp] theorem State.onCal_thermal (s : State) (f : Cal → Cal) : (s.onCal f).thermal = s.thermal := rfl
@[simp] theorem State.onCal_store (s : State) (f : Cal → Cal) : (s.onCal f).store = s.store := rfl
@[simp] theorem State.onCal_frame (s : State) (f : Cal → Cal) : (s.onCal f).frame = s.frame := rfl
@[simp] theorem State.onCal_pods (s : State) (f : Cal → Cal) : (s.onCal f).pods = s.pods := rfl
@[simp] theorem State.onCal_clusters (s : State) (f : Cal → Cal) : (s.onCal f).clusters = s.clusters := rfl
@[simp] theorem State.onCal_cal (s : State) (f : Cal → Cal) : (s.onCal f).cal = f s.cal := rfl
@[simp] theorem State.onCal_walkers (s : State) (f : Cal → Cal) : (s.onCal f).walkers = s.walkers := rfl
@[simp] theorem State.onCal_ahead (s : State) (f : Cal → Cal) : (s.onCal f).ahead = s.ahead := rfl
@[simp] theorem State.onCal_jobs (s : State) (f : Cal → Cal) : (s.onCal f).jobs = s.jobs := rfl
@[simp] theorem State.onCal_heads (s : State) (f : Cal → Cal) : (s.onCal f).heads = s.heads := rfl
@[simp] theorem State.onCal_core (s : State) (f : Cal → Cal) : (s.onCal f).core = s.core := rfl
@[simp] theorem State.onCal_pips (s : State) (f : Cal → Cal) : (s.onCal f).pips = s.pips := rfl
@[simp] theorem State.onCal_loader (s : State) (f : Cal → Cal) : (s.onCal f).loader = s.loader := rfl
@[simp] theorem State.onCal_channels (s : State) (f : Cal → Cal) : (s.onCal f).channels = s.channels := rfl
@[simp] theorem State.onCal_net (s : State) (f : Cal → Cal) : (s.onCal f).net = s.net := rfl
@[simp] theorem State.onCal_dict (s : State) (f : Cal → Cal) : (s.onCal f).dict = s.dict := rfl
@[simp] theorem State.onCal_pool (s : State) (f : Cal → Cal) : (s.onCal f).pool = s.pool := rfl
@[simp] theorem State.onCal_integ (s : State) (f : Cal → Cal) : (s.onCal f).integ = s.integ := rfl
@[simp] theorem State.onCal_sec (s : State) (f : Cal → Cal) : (s.onCal f).sec = s.sec := rfl
@[simp] theorem State.onCal_test (s : State) (f : Cal → Cal) : (s.onCal f).test = s.test := rfl
@[simp] theorem State.onCal_board (s : State) (f : Cal → Cal) : (s.onCal f).board = s.board := rfl
@[simp] theorem State.onCal_free (s : State) (f : Cal → Cal) : (s.onCal f).free = s.free := rfl
@[simp] theorem State.onCal_out (s : State) (f : Cal → Cal) : (s.onCal f).out = s.out := rfl
@[simp] theorem State.onCal_reg (s : State) (f : Cal → Cal) (j : Nat) : (s.onCal f).reg j = s.reg j := rfl
@[simp] theorem State.onCal_inForce (s : State) (f : Cal → Cal) (j : Nat) : (s.onCal f).inForce j = s.inForce j := rfl

/-! onCore -/

@[simp] theorem State.onCore_pending (s : State) (f : Core → Core) : (s.onCore f).pending = s.pending := rfl
@[simp] theorem State.onCore_od (s : State) (f : Core → Core) : (s.onCore f).od = s.od := rfl
@[simp] theorem State.onCore_husk (s : State) (f : Core → Core) : (s.onCore f).husk = s.husk := rfl
@[simp] theorem State.onCore_thermal (s : State) (f : Core → Core) : (s.onCore f).thermal = s.thermal := rfl
@[simp] theorem State.onCore_store (s : State) (f : Core → Core) : (s.onCore f).store = s.store := rfl
@[simp] theorem State.onCore_frame (s : State) (f : Core → Core) : (s.onCore f).frame = s.frame := rfl
@[simp] theorem State.onCore_pods (s : State) (f : Core → Core) : (s.onCore f).pods = s.pods := rfl
@[simp] theorem State.onCore_clusters (s : State) (f : Core → Core) : (s.onCore f).clusters = s.clusters := rfl
@[simp] theorem State.onCore_cal (s : State) (f : Core → Core) : (s.onCore f).cal = s.cal := rfl
@[simp] theorem State.onCore_walkers (s : State) (f : Core → Core) : (s.onCore f).walkers = s.walkers := rfl
@[simp] theorem State.onCore_ahead (s : State) (f : Core → Core) : (s.onCore f).ahead = s.ahead := rfl
@[simp] theorem State.onCore_jobs (s : State) (f : Core → Core) : (s.onCore f).jobs = s.jobs := rfl
@[simp] theorem State.onCore_heads (s : State) (f : Core → Core) : (s.onCore f).heads = s.heads := rfl
@[simp] theorem State.onCore_core (s : State) (f : Core → Core) : (s.onCore f).core = f s.core := rfl
@[simp] theorem State.onCore_pips (s : State) (f : Core → Core) : (s.onCore f).pips = s.pips := rfl
@[simp] theorem State.onCore_loader (s : State) (f : Core → Core) : (s.onCore f).loader = s.loader := rfl
@[simp] theorem State.onCore_channels (s : State) (f : Core → Core) : (s.onCore f).channels = s.channels := rfl
@[simp] theorem State.onCore_net (s : State) (f : Core → Core) : (s.onCore f).net = s.net := rfl
@[simp] theorem State.onCore_dict (s : State) (f : Core → Core) : (s.onCore f).dict = s.dict := rfl
@[simp] theorem State.onCore_pool (s : State) (f : Core → Core) : (s.onCore f).pool = s.pool := rfl
@[simp] theorem State.onCore_integ (s : State) (f : Core → Core) : (s.onCore f).integ = s.integ := rfl
@[simp] theorem State.onCore_sec (s : State) (f : Core → Core) : (s.onCore f).sec = s.sec := rfl
@[simp] theorem State.onCore_test (s : State) (f : Core → Core) : (s.onCore f).test = s.test := rfl
@[simp] theorem State.onCore_board (s : State) (f : Core → Core) : (s.onCore f).board = s.board := rfl
@[simp] theorem State.onCore_free (s : State) (f : Core → Core) : (s.onCore f).free = s.free := rfl
@[simp] theorem State.onCore_out (s : State) (f : Core → Core) : (s.onCore f).out = s.out := rfl
@[simp] theorem State.onCore_reg (s : State) (f : Core → Core) (j : Nat) : (s.onCore f).reg j = s.reg j := rfl
@[simp] theorem State.onCore_inForce (s : State) (f : Core → Core) (j : Nat) : (s.onCore f).inForce j = s.inForce j := rfl

/-! onBundle -/

@[simp] theorem State.onBundle_pending (s : State) (f : Bundle → Bundle) : (s.onBundle f).pending = s.pending := rfl
@[simp] theorem State.onBundle_od (s : State) (f : Bundle → Bundle) : (s.onBundle f).od = s.od := rfl
@[simp] theorem State.onBundle_husk (s : State) (f : Bundle → Bundle) : (s.onBundle f).husk = s.husk := rfl
@[simp] theorem State.onBundle_thermal (s : State) (f : Bundle → Bundle) : (s.onBundle f).thermal = s.thermal := rfl
@[simp] theorem State.onBundle_store (s : State) (f : Bundle → Bundle) : (s.onBundle f).store = s.store := rfl
@[simp] theorem State.onBundle_frame (s : State) (f : Bundle → Bundle) : (s.onBundle f).frame = s.frame := rfl
@[simp] theorem State.onBundle_pods (s : State) (f : Bundle → Bundle) : (s.onBundle f).pods = s.pods := rfl
@[simp] theorem State.onBundle_clusters (s : State) (f : Bundle → Bundle) : (s.onBundle f).clusters = s.clusters := rfl
@[simp] theorem State.onBundle_cal (s : State) (f : Bundle → Bundle) : (s.onBundle f).cal = s.cal := rfl
@[simp] theorem State.onBundle_walkers (s : State) (f : Bundle → Bundle) : (s.onBundle f).walkers = s.walkers := rfl
@[simp] theorem State.onBundle_ahead (s : State) (f : Bundle → Bundle) : (s.onBundle f).ahead = s.ahead := rfl
@[simp] theorem State.onBundle_jobs (s : State) (f : Bundle → Bundle) : (s.onBundle f).jobs = s.jobs := rfl
@[simp] theorem State.onBundle_heads (s : State) (f : Bundle → Bundle) : (s.onBundle f).heads = s.heads := rfl
@[simp] theorem State.onBundle_core (s : State) (f : Bundle → Bundle) : (s.onBundle f).core = { s.core with bundle := f s.core.bundle } := rfl
@[simp] theorem State.onBundle_pips (s : State) (f : Bundle → Bundle) : (s.onBundle f).pips = s.pips := rfl
@[simp] theorem State.onBundle_loader (s : State) (f : Bundle → Bundle) : (s.onBundle f).loader = s.loader := rfl
@[simp] theorem State.onBundle_channels (s : State) (f : Bundle → Bundle) : (s.onBundle f).channels = s.channels := rfl
@[simp] theorem State.onBundle_net (s : State) (f : Bundle → Bundle) : (s.onBundle f).net = s.net := rfl
@[simp] theorem State.onBundle_dict (s : State) (f : Bundle → Bundle) : (s.onBundle f).dict = s.dict := rfl
@[simp] theorem State.onBundle_pool (s : State) (f : Bundle → Bundle) : (s.onBundle f).pool = s.pool := rfl
@[simp] theorem State.onBundle_integ (s : State) (f : Bundle → Bundle) : (s.onBundle f).integ = s.integ := rfl
@[simp] theorem State.onBundle_sec (s : State) (f : Bundle → Bundle) : (s.onBundle f).sec = s.sec := rfl
@[simp] theorem State.onBundle_test (s : State) (f : Bundle → Bundle) : (s.onBundle f).test = s.test := rfl
@[simp] theorem State.onBundle_board (s : State) (f : Bundle → Bundle) : (s.onBundle f).board = s.board := rfl
@[simp] theorem State.onBundle_free (s : State) (f : Bundle → Bundle) : (s.onBundle f).free = s.free := rfl
@[simp] theorem State.onBundle_out (s : State) (f : Bundle → Bundle) : (s.onBundle f).out = s.out := rfl
@[simp] theorem State.onBundle_reg (s : State) (f : Bundle → Bundle) (j : Nat) : (s.onBundle f).reg j = s.reg j := rfl
@[simp] theorem State.onBundle_inForce (s : State) (f : Bundle → Bundle) (j : Nat) : (s.onBundle f).inForce j = s.inForce j := rfl

/-! onSec -/

@[simp] theorem State.onSec_pending (s : State) (f : Sec → Sec) : (s.onSec f).pending = s.pending := rfl
@[simp] theorem State.onSec_od (s : State) (f : Sec → Sec) : (s.onSec f).od = s.od := rfl
@[simp] theorem State.onSec_husk (s : State) (f : Sec → Sec) : (s.onSec f).husk = s.husk := rfl
@[simp] theorem State.onSec_thermal (s : State) (f : Sec → Sec) : (s.onSec f).thermal = s.thermal := rfl
@[simp] theorem State.onSec_store (s : State) (f : Sec → Sec) : (s.onSec f).store = s.store := rfl
@[simp] theorem State.onSec_frame (s : State) (f : Sec → Sec) : (s.onSec f).frame = s.frame := rfl
@[simp] theorem State.onSec_pods (s : State) (f : Sec → Sec) : (s.onSec f).pods = s.pods := rfl
@[simp] theorem State.onSec_clusters (s : State) (f : Sec → Sec) : (s.onSec f).clusters = s.clusters := rfl
@[simp] theorem State.onSec_cal (s : State) (f : Sec → Sec) : (s.onSec f).cal = s.cal := rfl
@[simp] theorem State.onSec_walkers (s : State) (f : Sec → Sec) : (s.onSec f).walkers = s.walkers := rfl
@[simp] theorem State.onSec_ahead (s : State) (f : Sec → Sec) : (s.onSec f).ahead = s.ahead := rfl
@[simp] theorem State.onSec_jobs (s : State) (f : Sec → Sec) : (s.onSec f).jobs = s.jobs := rfl
@[simp] theorem State.onSec_heads (s : State) (f : Sec → Sec) : (s.onSec f).heads = s.heads := rfl
@[simp] theorem State.onSec_core (s : State) (f : Sec → Sec) : (s.onSec f).core = s.core := rfl
@[simp] theorem State.onSec_pips (s : State) (f : Sec → Sec) : (s.onSec f).pips = s.pips := rfl
@[simp] theorem State.onSec_loader (s : State) (f : Sec → Sec) : (s.onSec f).loader = s.loader := rfl
@[simp] theorem State.onSec_channels (s : State) (f : Sec → Sec) : (s.onSec f).channels = s.channels := rfl
@[simp] theorem State.onSec_net (s : State) (f : Sec → Sec) : (s.onSec f).net = s.net := rfl
@[simp] theorem State.onSec_dict (s : State) (f : Sec → Sec) : (s.onSec f).dict = s.dict := rfl
@[simp] theorem State.onSec_pool (s : State) (f : Sec → Sec) : (s.onSec f).pool = s.pool := rfl
@[simp] theorem State.onSec_integ (s : State) (f : Sec → Sec) : (s.onSec f).integ = s.integ := rfl
@[simp] theorem State.onSec_sec (s : State) (f : Sec → Sec) : (s.onSec f).sec = f s.sec := rfl
@[simp] theorem State.onSec_test (s : State) (f : Sec → Sec) : (s.onSec f).test = s.test := rfl
@[simp] theorem State.onSec_board (s : State) (f : Sec → Sec) : (s.onSec f).board = s.board := rfl
@[simp] theorem State.onSec_free (s : State) (f : Sec → Sec) : (s.onSec f).free = s.free := rfl
@[simp] theorem State.onSec_out (s : State) (f : Sec → Sec) : (s.onSec f).out = s.out := rfl
@[simp] theorem State.onSec_reg (s : State) (f : Sec → Sec) (j : Nat) : (s.onSec f).reg j = s.reg j := rfl
@[simp] theorem State.onSec_inForce (s : State) (f : Sec → Sec) (j : Nat) : (s.onSec f).inForce j = s.inForce j := rfl

/-! onTest -/

@[simp] theorem State.onTest_pending (s : State) (f : Test → Test) : (s.onTest f).pending = s.pending := rfl
@[simp] theorem State.onTest_od (s : State) (f : Test → Test) : (s.onTest f).od = s.od := rfl
@[simp] theorem State.onTest_husk (s : State) (f : Test → Test) : (s.onTest f).husk = s.husk := rfl
@[simp] theorem State.onTest_thermal (s : State) (f : Test → Test) : (s.onTest f).thermal = s.thermal := rfl
@[simp] theorem State.onTest_store (s : State) (f : Test → Test) : (s.onTest f).store = s.store := rfl
@[simp] theorem State.onTest_frame (s : State) (f : Test → Test) : (s.onTest f).frame = s.frame := rfl
@[simp] theorem State.onTest_pods (s : State) (f : Test → Test) : (s.onTest f).pods = s.pods := rfl
@[simp] theorem State.onTest_clusters (s : State) (f : Test → Test) : (s.onTest f).clusters = s.clusters := rfl
@[simp] theorem State.onTest_cal (s : State) (f : Test → Test) : (s.onTest f).cal = s.cal := rfl
@[simp] theorem State.onTest_walkers (s : State) (f : Test → Test) : (s.onTest f).walkers = s.walkers := rfl
@[simp] theorem State.onTest_ahead (s : State) (f : Test → Test) : (s.onTest f).ahead = s.ahead := rfl
@[simp] theorem State.onTest_jobs (s : State) (f : Test → Test) : (s.onTest f).jobs = s.jobs := rfl
@[simp] theorem State.onTest_heads (s : State) (f : Test → Test) : (s.onTest f).heads = s.heads := rfl
@[simp] theorem State.onTest_core (s : State) (f : Test → Test) : (s.onTest f).core = s.core := rfl
@[simp] theorem State.onTest_pips (s : State) (f : Test → Test) : (s.onTest f).pips = s.pips := rfl
@[simp] theorem State.onTest_loader (s : State) (f : Test → Test) : (s.onTest f).loader = s.loader := rfl
@[simp] theorem State.onTest_channels (s : State) (f : Test → Test) : (s.onTest f).channels = s.channels := rfl
@[simp] theorem State.onTest_net (s : State) (f : Test → Test) : (s.onTest f).net = s.net := rfl
@[simp] theorem State.onTest_dict (s : State) (f : Test → Test) : (s.onTest f).dict = s.dict := rfl
@[simp] theorem State.onTest_pool (s : State) (f : Test → Test) : (s.onTest f).pool = s.pool := rfl
@[simp] theorem State.onTest_integ (s : State) (f : Test → Test) : (s.onTest f).integ = s.integ := rfl
@[simp] theorem State.onTest_sec (s : State) (f : Test → Test) : (s.onTest f).sec = s.sec := rfl
@[simp] theorem State.onTest_test (s : State) (f : Test → Test) : (s.onTest f).test = f s.test := rfl
@[simp] theorem State.onTest_board (s : State) (f : Test → Test) : (s.onTest f).board = s.board := rfl
@[simp] theorem State.onTest_free (s : State) (f : Test → Test) : (s.onTest f).free = s.free := rfl
@[simp] theorem State.onTest_out (s : State) (f : Test → Test) : (s.onTest f).out = s.out := rfl
@[simp] theorem State.onTest_reg (s : State) (f : Test → Test) (j : Nat) : (s.onTest f).reg j = s.reg j := rfl
@[simp] theorem State.onTest_inForce (s : State) (f : Test → Test) (j : Nat) : (s.onTest f).inForce j = s.inForce j := rfl

/-! onBoard -/

@[simp] theorem State.onBoard_pending (s : State) (f : Board → Board) : (s.onBoard f).pending = s.pending := rfl
@[simp] theorem State.onBoard_od (s : State) (f : Board → Board) : (s.onBoard f).od = s.od := rfl
@[simp] theorem State.onBoard_husk (s : State) (f : Board → Board) : (s.onBoard f).husk = s.husk := rfl
@[simp] theorem State.onBoard_thermal (s : State) (f : Board → Board) : (s.onBoard f).thermal = s.thermal := rfl
@[simp] theorem State.onBoard_store (s : State) (f : Board → Board) : (s.onBoard f).store = s.store := rfl
@[simp] theorem State.onBoard_frame (s : State) (f : Board → Board) : (s.onBoard f).frame = s.frame := rfl
@[simp] theorem State.onBoard_pods (s : State) (f : Board → Board) : (s.onBoard f).pods = s.pods := rfl
@[simp] theorem State.onBoard_clusters (s : State) (f : Board → Board) : (s.onBoard f).clusters = s.clusters := rfl
@[simp] theorem State.onBoard_cal (s : State) (f : Board → Board) : (s.onBoard f).cal = s.cal := rfl
@[simp] theorem State.onBoard_walkers (s : State) (f : Board → Board) : (s.onBoard f).walkers = s.walkers := rfl
@[simp] theorem State.onBoard_ahead (s : State) (f : Board → Board) : (s.onBoard f).ahead = s.ahead := rfl
@[simp] theorem State.onBoard_jobs (s : State) (f : Board → Board) : (s.onBoard f).jobs = s.jobs := rfl
@[simp] theorem State.onBoard_heads (s : State) (f : Board → Board) : (s.onBoard f).heads = s.heads := rfl
@[simp] theorem State.onBoard_core (s : State) (f : Board → Board) : (s.onBoard f).core = s.core := rfl
@[simp] theorem State.onBoard_pips (s : State) (f : Board → Board) : (s.onBoard f).pips = s.pips := rfl
@[simp] theorem State.onBoard_loader (s : State) (f : Board → Board) : (s.onBoard f).loader = s.loader := rfl
@[simp] theorem State.onBoard_channels (s : State) (f : Board → Board) : (s.onBoard f).channels = s.channels := rfl
@[simp] theorem State.onBoard_net (s : State) (f : Board → Board) : (s.onBoard f).net = s.net := rfl
@[simp] theorem State.onBoard_dict (s : State) (f : Board → Board) : (s.onBoard f).dict = s.dict := rfl
@[simp] theorem State.onBoard_pool (s : State) (f : Board → Board) : (s.onBoard f).pool = s.pool := rfl
@[simp] theorem State.onBoard_integ (s : State) (f : Board → Board) : (s.onBoard f).integ = s.integ := rfl
@[simp] theorem State.onBoard_sec (s : State) (f : Board → Board) : (s.onBoard f).sec = s.sec := rfl
@[simp] theorem State.onBoard_test (s : State) (f : Board → Board) : (s.onBoard f).test = s.test := rfl
@[simp] theorem State.onBoard_board (s : State) (f : Board → Board) : (s.onBoard f).board = f s.board := rfl
@[simp] theorem State.onBoard_free (s : State) (f : Board → Board) : (s.onBoard f).free = s.free := rfl
@[simp] theorem State.onBoard_out (s : State) (f : Board → Board) : (s.onBoard f).out = s.out := rfl
@[simp] theorem State.onBoard_reg (s : State) (f : Board → Board) (j : Nat) : (s.onBoard f).reg j = s.reg j := rfl
@[simp] theorem State.onBoard_inForce (s : State) (f : Board → Board) (j : Nat) : (s.onBoard f).inForce j = s.inForce j := rfl

/-! onDict -/

@[simp] theorem State.onDict_pending (s : State) (f : Dict → Dict) : (s.onDict f).pending = s.pending := rfl
@[simp] theorem State.onDict_od (s : State) (f : Dict → Dict) : (s.onDict f).od = s.od := rfl
@[simp] theorem State.onDict_husk (s : State) (f : Dict → Dict) : (s.onDict f).husk = s.husk := rfl
@[simp] theorem State.onDict_thermal (s : State) (f : Dict → Dict) : (s.onDict f).thermal = s.thermal := rfl
@[simp] theorem State.onDict_store (s : State) (f : Dict → Dict) : (s.onDict f).store = s.store := rfl
@[simp] theorem State.onDict_frame (s : State) (f : Dict → Dict) : (s.onDict f).frame = s.frame := rfl
@[simp] theorem State.onDict_pods (s : State) (f : Dict → Dict) : (s.onDict f).pods = s.pods := rfl
@[simp] theorem State.onDict_clusters (s : State) (f : Dict → Dict) : (s.onDict f).clusters = s.clusters := rfl
@[simp] theorem State.onDict_cal (s : State) (f : Dict → Dict) : (s.onDict f).cal = s.cal := rfl
@[simp] theorem State.onDict_walkers (s : State) (f : Dict → Dict) : (s.onDict f).walkers = s.walkers := rfl
@[simp] theorem State.onDict_ahead (s : State) (f : Dict → Dict) : (s.onDict f).ahead = s.ahead := rfl
@[simp] theorem State.onDict_jobs (s : State) (f : Dict → Dict) : (s.onDict f).jobs = s.jobs := rfl
@[simp] theorem State.onDict_heads (s : State) (f : Dict → Dict) : (s.onDict f).heads = s.heads := rfl
@[simp] theorem State.onDict_core (s : State) (f : Dict → Dict) : (s.onDict f).core = s.core := rfl
@[simp] theorem State.onDict_pips (s : State) (f : Dict → Dict) : (s.onDict f).pips = s.pips := rfl
@[simp] theorem State.onDict_loader (s : State) (f : Dict → Dict) : (s.onDict f).loader = s.loader := rfl
@[simp] theorem State.onDict_channels (s : State) (f : Dict → Dict) : (s.onDict f).channels = s.channels := rfl
@[simp] theorem State.onDict_net (s : State) (f : Dict → Dict) : (s.onDict f).net = s.net := rfl
@[simp] theorem State.onDict_dict (s : State) (f : Dict → Dict) : (s.onDict f).dict = f s.dict := rfl
@[simp] theorem State.onDict_pool (s : State) (f : Dict → Dict) : (s.onDict f).pool = s.pool := rfl
@[simp] theorem State.onDict_integ (s : State) (f : Dict → Dict) : (s.onDict f).integ = s.integ := rfl
@[simp] theorem State.onDict_sec (s : State) (f : Dict → Dict) : (s.onDict f).sec = s.sec := rfl
@[simp] theorem State.onDict_test (s : State) (f : Dict → Dict) : (s.onDict f).test = s.test := rfl
@[simp] theorem State.onDict_board (s : State) (f : Dict → Dict) : (s.onDict f).board = s.board := rfl
@[simp] theorem State.onDict_free (s : State) (f : Dict → Dict) : (s.onDict f).free = s.free := rfl
@[simp] theorem State.onDict_out (s : State) (f : Dict → Dict) : (s.onDict f).out = s.out := rfl
@[simp] theorem State.onDict_reg (s : State) (f : Dict → Dict) (j : Nat) : (s.onDict f).reg j = s.reg j := rfl
@[simp] theorem State.onDict_inForce (s : State) (f : Dict → Dict) (j : Nat) : (s.onDict f).inForce j = s.inForce j := rfl

/-! onNet -/

@[simp] theorem State.onNet_pending (s : State) (p : Nat) (f : PartyNet → PartyNet) : (s.onNet p f).pending = s.pending := rfl
@[simp] theorem State.onNet_od (s : State) (p : Nat) (f : PartyNet → PartyNet) : (s.onNet p f).od = s.od := rfl
@[simp] theorem State.onNet_husk (s : State) (p : Nat) (f : PartyNet → PartyNet) : (s.onNet p f).husk = s.husk := rfl
@[simp] theorem State.onNet_thermal (s : State) (p : Nat) (f : PartyNet → PartyNet) : (s.onNet p f).thermal = s.thermal := rfl
@[simp] theorem State.onNet_store (s : State) (p : Nat) (f : PartyNet → PartyNet) : (s.onNet p f).store = s.store := rfl
@[simp] theorem State.onNet_frame (s : State) (p : Nat) (f : PartyNet → PartyNet) : (s.onNet p f).frame = s.frame := rfl
@[simp] theorem State.onNet_pods (s : State) (p : Nat) (f : PartyNet → PartyNet) : (s.onNet p f).pods = s.pods := rfl
@[simp] theorem State.onNet_clusters (s : State) (p : Nat) (f : PartyNet → PartyNet) : (s.onNet p f).clusters = s.clusters := rfl
@[simp] theorem State.onNet_cal (s : State) (p : Nat) (f : PartyNet → PartyNet) : (s.onNet p f).cal = s.cal := rfl
@[simp] theorem State.onNet_walkers (s : State) (p : Nat) (f : PartyNet → PartyNet) : (s.onNet p f).walkers = s.walkers := rfl
@[simp] theorem State.onNet_ahead (s : State) (p : Nat) (f : PartyNet → PartyNet) : (s.onNet p f).ahead = s.ahead := rfl
@[simp] theorem State.onNet_jobs (s : State) (p : Nat) (f : PartyNet → PartyNet) : (s.onNet p f).jobs = s.jobs := rfl
@[simp] theorem State.onNet_heads (s : State) (p : Nat) (f : PartyNet → PartyNet) : (s.onNet p f).heads = s.heads := rfl
@[simp] theorem State.onNet_core (s : State) (p : Nat) (f : PartyNet → PartyNet) : (s.onNet p f).core = s.core := rfl
@[simp] theorem State.onNet_pips (s : State) (p : Nat) (f : PartyNet → PartyNet) : (s.onNet p f).pips = s.pips := rfl
@[simp] theorem State.onNet_loader (s : State) (p : Nat) (f : PartyNet → PartyNet) : (s.onNet p f).loader = s.loader := rfl
@[simp] theorem State.onNet_channels (s : State) (p : Nat) (f : PartyNet → PartyNet) : (s.onNet p f).channels = s.channels := rfl
@[simp] theorem State.onNet_net (s : State) (p : Nat) (f : PartyNet → PartyNet) : (s.onNet p f).net = { s.net with parties := upd s.net.parties p f } := rfl
@[simp] theorem State.onNet_dict (s : State) (p : Nat) (f : PartyNet → PartyNet) : (s.onNet p f).dict = s.dict := rfl
@[simp] theorem State.onNet_pool (s : State) (p : Nat) (f : PartyNet → PartyNet) : (s.onNet p f).pool = s.pool := rfl
@[simp] theorem State.onNet_integ (s : State) (p : Nat) (f : PartyNet → PartyNet) : (s.onNet p f).integ = s.integ := rfl
@[simp] theorem State.onNet_sec (s : State) (p : Nat) (f : PartyNet → PartyNet) : (s.onNet p f).sec = s.sec := rfl
@[simp] theorem State.onNet_test (s : State) (p : Nat) (f : PartyNet → PartyNet) : (s.onNet p f).test = s.test := rfl
@[simp] theorem State.onNet_board (s : State) (p : Nat) (f : PartyNet → PartyNet) : (s.onNet p f).board = s.board := rfl
@[simp] theorem State.onNet_free (s : State) (p : Nat) (f : PartyNet → PartyNet) : (s.onNet p f).free = s.free := rfl
@[simp] theorem State.onNet_out (s : State) (p : Nat) (f : PartyNet → PartyNet) : (s.onNet p f).out = s.out := rfl
@[simp] theorem State.onNet_reg (s : State) (p : Nat) (f : PartyNet → PartyNet) (j : Nat) : (s.onNet p f).reg j = s.reg j := rfl
@[simp] theorem State.onNet_inForce (s : State) (p : Nat) (f : PartyNet → PartyNet) (j : Nat) : (s.onNet p f).inForce j = s.inForce j := rfl

/-! onPod -/

@[simp] theorem State.onPod_pending (s : State) (i : Nat) (f : Pod → Pod) : (s.onPod i f).pending = s.pending := rfl
@[simp] theorem State.onPod_od (s : State) (i : Nat) (f : Pod → Pod) : (s.onPod i f).od = s.od := rfl
@[simp] theorem State.onPod_husk (s : State) (i : Nat) (f : Pod → Pod) : (s.onPod i f).husk = s.husk := rfl
@[simp] theorem State.onPod_thermal (s : State) (i : Nat) (f : Pod → Pod) : (s.onPod i f).thermal = s.thermal := rfl
@[simp] theorem State.onPod_store (s : State) (i : Nat) (f : Pod → Pod) : (s.onPod i f).store = s.store := rfl
@[simp] theorem State.onPod_frame (s : State) (i : Nat) (f : Pod → Pod) : (s.onPod i f).frame = s.frame := rfl
@[simp] theorem State.onPod_pods (s : State) (i : Nat) (f : Pod → Pod) : (s.onPod i f).pods = upd s.pods i f := rfl
@[simp] theorem State.onPod_clusters (s : State) (i : Nat) (f : Pod → Pod) : (s.onPod i f).clusters = s.clusters := rfl
@[simp] theorem State.onPod_cal (s : State) (i : Nat) (f : Pod → Pod) : (s.onPod i f).cal = s.cal := rfl
@[simp] theorem State.onPod_walkers (s : State) (i : Nat) (f : Pod → Pod) : (s.onPod i f).walkers = s.walkers := rfl
@[simp] theorem State.onPod_ahead (s : State) (i : Nat) (f : Pod → Pod) : (s.onPod i f).ahead = s.ahead := rfl
@[simp] theorem State.onPod_jobs (s : State) (i : Nat) (f : Pod → Pod) : (s.onPod i f).jobs = s.jobs := rfl
@[simp] theorem State.onPod_heads (s : State) (i : Nat) (f : Pod → Pod) : (s.onPod i f).heads = s.heads := rfl
@[simp] theorem State.onPod_core (s : State) (i : Nat) (f : Pod → Pod) : (s.onPod i f).core = s.core := rfl
@[simp] theorem State.onPod_pips (s : State) (i : Nat) (f : Pod → Pod) : (s.onPod i f).pips = s.pips := rfl
@[simp] theorem State.onPod_loader (s : State) (i : Nat) (f : Pod → Pod) : (s.onPod i f).loader = s.loader := rfl
@[simp] theorem State.onPod_channels (s : State) (i : Nat) (f : Pod → Pod) : (s.onPod i f).channels = s.channels := rfl
@[simp] theorem State.onPod_net (s : State) (i : Nat) (f : Pod → Pod) : (s.onPod i f).net = s.net := rfl
@[simp] theorem State.onPod_dict (s : State) (i : Nat) (f : Pod → Pod) : (s.onPod i f).dict = s.dict := rfl
@[simp] theorem State.onPod_pool (s : State) (i : Nat) (f : Pod → Pod) : (s.onPod i f).pool = s.pool := rfl
@[simp] theorem State.onPod_integ (s : State) (i : Nat) (f : Pod → Pod) : (s.onPod i f).integ = s.integ := rfl
@[simp] theorem State.onPod_sec (s : State) (i : Nat) (f : Pod → Pod) : (s.onPod i f).sec = s.sec := rfl
@[simp] theorem State.onPod_test (s : State) (i : Nat) (f : Pod → Pod) : (s.onPod i f).test = s.test := rfl
@[simp] theorem State.onPod_board (s : State) (i : Nat) (f : Pod → Pod) : (s.onPod i f).board = s.board := rfl
@[simp] theorem State.onPod_free (s : State) (i : Nat) (f : Pod → Pod) : (s.onPod i f).free = s.free := rfl
@[simp] theorem State.onPod_out (s : State) (i : Nat) (f : Pod → Pod) : (s.onPod i f).out = s.out := rfl
@[simp] theorem State.onPod_reg (s : State) (i : Nat) (f : Pod → Pod) (j : Nat) : (s.onPod i f).reg j = s.reg j := rfl
@[simp] theorem State.onPod_inForce (s : State) (i : Nat) (f : Pod → Pod) (j : Nat) : (s.onPod i f).inForce j = s.inForce j := rfl

/-! onClu -/

@[simp] theorem State.onClu_pending (s : State) (c : Nat) (f : Cluster → Cluster) : (s.onClu c f).pending = s.pending := rfl
@[simp] theorem State.onClu_od (s : State) (c : Nat) (f : Cluster → Cluster) : (s.onClu c f).od = s.od := rfl
@[simp] theorem State.onClu_husk (s : State) (c : Nat) (f : Cluster → Cluster) : (s.onClu c f).husk = s.husk := rfl
@[simp] theorem State.onClu_thermal (s : State) (c : Nat) (f : Cluster → Cluster) : (s.onClu c f).thermal = s.thermal := rfl
@[simp] theorem State.onClu_store (s : State) (c : Nat) (f : Cluster → Cluster) : (s.onClu c f).store = s.store := rfl
@[simp] theorem State.onClu_frame (s : State) (c : Nat) (f : Cluster → Cluster) : (s.onClu c f).frame = s.frame := rfl
@[simp] theorem State.onClu_pods (s : State) (c : Nat) (f : Cluster → Cluster) : (s.onClu c f).pods = s.pods := rfl
@[simp] theorem State.onClu_clusters (s : State) (c : Nat) (f : Cluster → Cluster) : (s.onClu c f).clusters = upd s.clusters c f := rfl
@[simp] theorem State.onClu_cal (s : State) (c : Nat) (f : Cluster → Cluster) : (s.onClu c f).cal = s.cal := rfl
@[simp] theorem State.onClu_walkers (s : State) (c : Nat) (f : Cluster → Cluster) : (s.onClu c f).walkers = s.walkers := rfl
@[simp] theorem State.onClu_ahead (s : State) (c : Nat) (f : Cluster → Cluster) : (s.onClu c f).ahead = s.ahead := rfl
@[simp] theorem State.onClu_jobs (s : State) (c : Nat) (f : Cluster → Cluster) : (s.onClu c f).jobs = s.jobs := rfl
@[simp] theorem State.onClu_heads (s : State) (c : Nat) (f : Cluster → Cluster) : (s.onClu c f).heads = s.heads := rfl
@[simp] theorem State.onClu_core (s : State) (c : Nat) (f : Cluster → Cluster) : (s.onClu c f).core = s.core := rfl
@[simp] theorem State.onClu_pips (s : State) (c : Nat) (f : Cluster → Cluster) : (s.onClu c f).pips = s.pips := rfl
@[simp] theorem State.onClu_loader (s : State) (c : Nat) (f : Cluster → Cluster) : (s.onClu c f).loader = s.loader := rfl
@[simp] theorem State.onClu_channels (s : State) (c : Nat) (f : Cluster → Cluster) : (s.onClu c f).channels = s.channels := rfl
@[simp] theorem State.onClu_net (s : State) (c : Nat) (f : Cluster → Cluster) : (s.onClu c f).net = s.net := rfl
@[simp] theorem State.onClu_dict (s : State) (c : Nat) (f : Cluster → Cluster) : (s.onClu c f).dict = s.dict := rfl
@[simp] theorem State.onClu_pool (s : State) (c : Nat) (f : Cluster → Cluster) : (s.onClu c f).pool = s.pool := rfl
@[simp] theorem State.onClu_integ (s : State) (c : Nat) (f : Cluster → Cluster) : (s.onClu c f).integ = s.integ := rfl
@[simp] theorem State.onClu_sec (s : State) (c : Nat) (f : Cluster → Cluster) : (s.onClu c f).sec = s.sec := rfl
@[simp] theorem State.onClu_test (s : State) (c : Nat) (f : Cluster → Cluster) : (s.onClu c f).test = s.test := rfl
@[simp] theorem State.onClu_board (s : State) (c : Nat) (f : Cluster → Cluster) : (s.onClu c f).board = s.board := rfl
@[simp] theorem State.onClu_free (s : State) (c : Nat) (f : Cluster → Cluster) : (s.onClu c f).free = s.free := rfl
@[simp] theorem State.onClu_out (s : State) (c : Nat) (f : Cluster → Cluster) : (s.onClu c f).out = s.out := rfl
@[simp] theorem State.onClu_reg (s : State) (c : Nat) (f : Cluster → Cluster) (j : Nat) : (s.onClu c f).reg j = s.reg j := rfl
@[simp] theorem State.onClu_inForce (s : State) (c : Nat) (f : Cluster → Cluster) (j : Nat) : (s.onClu c f).inForce j = s.inForce j := rfl

/-! onWalker -/

@[simp] theorem State.onWalker_pending (s : State) (c : Nat) (f : Walker → Walker) : (s.onWalker c f).pending = s.pending := rfl
@[simp] theorem State.onWalker_od (s : State) (c : Nat) (f : Walker → Walker) : (s.onWalker c f).od = s.od := rfl
@[simp] theorem State.onWalker_husk (s : State) (c : Nat) (f : Walker → Walker) : (s.onWalker c f).husk = s.husk := rfl
@[simp] theorem State.onWalker_thermal (s : State) (c : Nat) (f : Walker → Walker) : (s.onWalker c f).thermal = s.thermal := rfl
@[simp] theorem State.onWalker_store (s : State) (c : Nat) (f : Walker → Walker) : (s.onWalker c f).store = s.store := rfl
@[simp] theorem State.onWalker_frame (s : State) (c : Nat) (f : Walker → Walker) : (s.onWalker c f).frame = s.frame := rfl
@[simp] theorem State.onWalker_pods (s : State) (c : Nat) (f : Walker → Walker) : (s.onWalker c f).pods = s.pods := rfl
@[simp] theorem State.onWalker_clusters (s : State) (c : Nat) (f : Walker → Walker) : (s.onWalker c f).clusters = s.clusters := rfl
@[simp] theorem State.onWalker_cal (s : State) (c : Nat) (f : Walker → Walker) : (s.onWalker c f).cal = s.cal := rfl
@[simp] theorem State.onWalker_walkers (s : State) (c : Nat) (f : Walker → Walker) : (s.onWalker c f).walkers = upd s.walkers c f := rfl
@[simp] theorem State.onWalker_ahead (s : State) (c : Nat) (f : Walker → Walker) : (s.onWalker c f).ahead = s.ahead := rfl
@[simp] theorem State.onWalker_jobs (s : State) (c : Nat) (f : Walker → Walker) : (s.onWalker c f).jobs = s.jobs := rfl
@[simp] theorem State.onWalker_heads (s : State) (c : Nat) (f : Walker → Walker) : (s.onWalker c f).heads = s.heads := rfl
@[simp] theorem State.onWalker_core (s : State) (c : Nat) (f : Walker → Walker) : (s.onWalker c f).core = s.core := rfl
@[simp] theorem State.onWalker_pips (s : State) (c : Nat) (f : Walker → Walker) : (s.onWalker c f).pips = s.pips := rfl
@[simp] theorem State.onWalker_loader (s : State) (c : Nat) (f : Walker → Walker) : (s.onWalker c f).loader = s.loader := rfl
@[simp] theorem State.onWalker_channels (s : State) (c : Nat) (f : Walker → Walker) : (s.onWalker c f).channels = s.channels := rfl
@[simp] theorem State.onWalker_net (s : State) (c : Nat) (f : Walker → Walker) : (s.onWalker c f).net = s.net := rfl
@[simp] theorem State.onWalker_dict (s : State) (c : Nat) (f : Walker → Walker) : (s.onWalker c f).dict = s.dict := rfl
@[simp] theorem State.onWalker_pool (s : State) (c : Nat) (f : Walker → Walker) : (s.onWalker c f).pool = s.pool := rfl
@[simp] theorem State.onWalker_integ (s : State) (c : Nat) (f : Walker → Walker) : (s.onWalker c f).integ = s.integ := rfl
@[simp] theorem State.onWalker_sec (s : State) (c : Nat) (f : Walker → Walker) : (s.onWalker c f).sec = s.sec := rfl
@[simp] theorem State.onWalker_test (s : State) (c : Nat) (f : Walker → Walker) : (s.onWalker c f).test = s.test := rfl
@[simp] theorem State.onWalker_board (s : State) (c : Nat) (f : Walker → Walker) : (s.onWalker c f).board = s.board := rfl
@[simp] theorem State.onWalker_free (s : State) (c : Nat) (f : Walker → Walker) : (s.onWalker c f).free = s.free := rfl
@[simp] theorem State.onWalker_out (s : State) (c : Nat) (f : Walker → Walker) : (s.onWalker c f).out = s.out := rfl
@[simp] theorem State.onWalker_reg (s : State) (c : Nat) (f : Walker → Walker) (j : Nat) : (s.onWalker c f).reg j = s.reg j := rfl
@[simp] theorem State.onWalker_inForce (s : State) (c : Nat) (f : Walker → Walker) (j : Nat) : (s.onWalker c f).inForce j = s.inForce j := rfl

/-! onPip -/

@[simp] theorem State.onPip_pending (s : State) (e : Nat) (f : Pip → Pip) : (s.onPip e f).pending = s.pending := rfl
@[simp] theorem State.onPip_od (s : State) (e : Nat) (f : Pip → Pip) : (s.onPip e f).od = s.od := rfl
@[simp] theorem State.onPip_husk (s : State) (e : Nat) (f : Pip → Pip) : (s.onPip e f).husk = s.husk := rfl
@[simp] theorem State.onPip_thermal (s : State) (e : Nat) (f : Pip → Pip) : (s.onPip e f).thermal = s.thermal := rfl
@[simp] theorem State.onPip_store (s : State) (e : Nat) (f : Pip → Pip) : (s.onPip e f).store = s.store := rfl
@[simp] theorem State.onPip_frame (s : State) (e : Nat) (f : Pip → Pip) : (s.onPip e f).frame = s.frame := rfl
@[simp] theorem State.onPip_pods (s : State) (e : Nat) (f : Pip → Pip) : (s.onPip e f).pods = s.pods := rfl
@[simp] theorem State.onPip_clusters (s : State) (e : Nat) (f : Pip → Pip) : (s.onPip e f).clusters = s.clusters := rfl
@[simp] theorem State.onPip_cal (s : State) (e : Nat) (f : Pip → Pip) : (s.onPip e f).cal = s.cal := rfl
@[simp] theorem State.onPip_walkers (s : State) (e : Nat) (f : Pip → Pip) : (s.onPip e f).walkers = s.walkers := rfl
@[simp] theorem State.onPip_ahead (s : State) (e : Nat) (f : Pip → Pip) : (s.onPip e f).ahead = s.ahead := rfl
@[simp] theorem State.onPip_jobs (s : State) (e : Nat) (f : Pip → Pip) : (s.onPip e f).jobs = s.jobs := rfl
@[simp] theorem State.onPip_heads (s : State) (e : Nat) (f : Pip → Pip) : (s.onPip e f).heads = s.heads := rfl
@[simp] theorem State.onPip_core (s : State) (e : Nat) (f : Pip → Pip) : (s.onPip e f).core = s.core := rfl
@[simp] theorem State.onPip_pips (s : State) (e : Nat) (f : Pip → Pip) : (s.onPip e f).pips = upd s.pips e f := rfl
@[simp] theorem State.onPip_loader (s : State) (e : Nat) (f : Pip → Pip) : (s.onPip e f).loader = s.loader := rfl
@[simp] theorem State.onPip_channels (s : State) (e : Nat) (f : Pip → Pip) : (s.onPip e f).channels = s.channels := rfl
@[simp] theorem State.onPip_net (s : State) (e : Nat) (f : Pip → Pip) : (s.onPip e f).net = s.net := rfl
@[simp] theorem State.onPip_dict (s : State) (e : Nat) (f : Pip → Pip) : (s.onPip e f).dict = s.dict := rfl
@[simp] theorem State.onPip_pool (s : State) (e : Nat) (f : Pip → Pip) : (s.onPip e f).pool = s.pool := rfl
@[simp] theorem State.onPip_integ (s : State) (e : Nat) (f : Pip → Pip) : (s.onPip e f).integ = s.integ := rfl
@[simp] theorem State.onPip_sec (s : State) (e : Nat) (f : Pip → Pip) : (s.onPip e f).sec = s.sec := rfl
@[simp] theorem State.onPip_test (s : State) (e : Nat) (f : Pip → Pip) : (s.onPip e f).test = s.test := rfl
@[simp] theorem State.onPip_board (s : State) (e : Nat) (f : Pip → Pip) : (s.onPip e f).board = s.board := rfl
@[simp] theorem State.onPip_free (s : State) (e : Nat) (f : Pip → Pip) : (s.onPip e f).free = s.free := rfl
@[simp] theorem State.onPip_out (s : State) (e : Nat) (f : Pip → Pip) : (s.onPip e f).out = s.out := rfl
@[simp] theorem State.onPip_reg (s : State) (e : Nat) (f : Pip → Pip) (j : Nat) : (s.onPip e f).reg j = s.reg j := rfl
@[simp] theorem State.onPip_inForce (s : State) (e : Nat) (f : Pip → Pip) (j : Nat) : (s.onPip e f).inForce j = s.inForce j := rfl

/-! onChan -/

@[simp] theorem State.onChan_pending (s : State) (i : Nat) (f : Channel → Channel) : (s.onChan i f).pending = s.pending := rfl
@[simp] theorem State.onChan_od (s : State) (i : Nat) (f : Channel → Channel) : (s.onChan i f).od = s.od := rfl
@[simp] theorem State.onChan_husk (s : State) (i : Nat) (f : Channel → Channel) : (s.onChan i f).husk = s.husk := rfl
@[simp] theorem State.onChan_thermal (s : State) (i : Nat) (f : Channel → Channel) : (s.onChan i f).thermal = s.thermal := rfl
@[simp] theorem State.onChan_store (s : State) (i : Nat) (f : Channel → Channel) : (s.onChan i f).store = s.store := rfl
@[simp] theorem State.onChan_frame (s : State) (i : Nat) (f : Channel → Channel) : (s.onChan i f).frame = s.frame := rfl
@[simp] theorem State.onChan_pods (s : State) (i : Nat) (f : Channel → Channel) : (s.onChan i f).pods = s.pods := rfl
@[simp] theorem State.onChan_clusters (s : State) (i : Nat) (f : Channel → Channel) : (s.onChan i f).clusters = s.clusters := rfl
@[simp] theorem State.onChan_cal (s : State) (i : Nat) (f : Channel → Channel) : (s.onChan i f).cal = s.cal := rfl
@[simp] theorem State.onChan_walkers (s : State) (i : Nat) (f : Channel → Channel) : (s.onChan i f).walkers = s.walkers := rfl
@[simp] theorem State.onChan_ahead (s : State) (i : Nat) (f : Channel → Channel) : (s.onChan i f).ahead = s.ahead := rfl
@[simp] theorem State.onChan_jobs (s : State) (i : Nat) (f : Channel → Channel) : (s.onChan i f).jobs = s.jobs := rfl
@[simp] theorem State.onChan_heads (s : State) (i : Nat) (f : Channel → Channel) : (s.onChan i f).heads = s.heads := rfl
@[simp] theorem State.onChan_core (s : State) (i : Nat) (f : Channel → Channel) : (s.onChan i f).core = s.core := rfl
@[simp] theorem State.onChan_pips (s : State) (i : Nat) (f : Channel → Channel) : (s.onChan i f).pips = s.pips := rfl
@[simp] theorem State.onChan_loader (s : State) (i : Nat) (f : Channel → Channel) : (s.onChan i f).loader = s.loader := rfl
@[simp] theorem State.onChan_channels (s : State) (i : Nat) (f : Channel → Channel) : (s.onChan i f).channels = upd s.channels i f := rfl
@[simp] theorem State.onChan_net (s : State) (i : Nat) (f : Channel → Channel) : (s.onChan i f).net = s.net := rfl
@[simp] theorem State.onChan_dict (s : State) (i : Nat) (f : Channel → Channel) : (s.onChan i f).dict = s.dict := rfl
@[simp] theorem State.onChan_pool (s : State) (i : Nat) (f : Channel → Channel) : (s.onChan i f).pool = s.pool := rfl
@[simp] theorem State.onChan_integ (s : State) (i : Nat) (f : Channel → Channel) : (s.onChan i f).integ = s.integ := rfl
@[simp] theorem State.onChan_sec (s : State) (i : Nat) (f : Channel → Channel) : (s.onChan i f).sec = s.sec := rfl
@[simp] theorem State.onChan_test (s : State) (i : Nat) (f : Channel → Channel) : (s.onChan i f).test = s.test := rfl
@[simp] theorem State.onChan_board (s : State) (i : Nat) (f : Channel → Channel) : (s.onChan i f).board = s.board := rfl
@[simp] theorem State.onChan_free (s : State) (i : Nat) (f : Channel → Channel) : (s.onChan i f).free = s.free := rfl
@[simp] theorem State.onChan_out (s : State) (i : Nat) (f : Channel → Channel) : (s.onChan i f).out = s.out := rfl
@[simp] theorem State.onChan_reg (s : State) (i : Nat) (f : Channel → Channel) (j : Nat) : (s.onChan i f).reg j = s.reg j := rfl
@[simp] theorem State.onChan_inForce (s : State) (i : Nat) (f : Channel → Channel) (j : Nat) : (s.onChan i f).inForce j = s.inForce j := rfl

/-! An element after an update of one element -/

theorem getD_upd_self {α : Type} (l : List α) (i : Nat) (f : α → α) (d : α) (h : i < l.length) :
    (upd l i f).getD i d = f (l.getD i d) := by
  induction l generalizing i with
  | nil => cases h
  | cons x xs ih => cases i with
    | zero => rfl
    | succ i => simpa [upd] using ih i (Nat.lt_of_succ_lt_succ h)

theorem getD_upd_ne {α : Type} (l : List α) (i j : Nat) (f : α → α) (d : α) (h : i ≠ j) :
    (upd l i f).getD j d = l.getD j d := by
  induction l generalizing i j with
  | nil => rfl
  | cons x xs ih => cases i with
    | zero => cases j with
      | zero => exact absurd rfl h
      | succ j => rfl
    | succ i => cases j with
      | zero => rfl
      | succ j => simpa [upd] using ih i j (fun e => h (by rw [e]))

end Sys2Proof.Machine
end

