-- ==== Sys2Proof/Laws/Frames.lean ====
section
/-! SUPPORT. What each shared operation may touch, said once: pool accesses, traces, fault records, messages, answers. -/

namespace Sys2Proof.Machine

open Sys2Proof

/-! The groups of fields: every one is reflexive and transitive, and the larger hold the smaller -/

theorem touchesPool.rfl {s : State} : touchesPool s s := by unfold touchesPool; rfl
theorem touchesRegs.rfl {s : State} : touchesRegs s s := by unfold touchesRegs; rfl
theorem touchesTrace.rfl {s : State} : touchesTrace s s := by unfold touchesTrace; rfl
theorem touchesRecord.rfl {s : State} : touchesRecord s s := by unfold touchesRecord; rfl
theorem touchesFault.rfl {s : State} : touchesFault s s := by unfold touchesFault; rfl
theorem touchesSend.rfl {s : State} : touchesSend s s := by unfold touchesSend; rfl
theorem touchesReply.rfl {s : State} : touchesReply s s := by unfold touchesReply; rfl
theorem touchesSetting.rfl {s : State} : touchesSetting s s := by unfold touchesSetting; rfl

theorem touchesPool.trans {s t u : State} (h : touchesPool s t) (k : touchesPool t u) : touchesPool s u := by
  unfold touchesPool at h k ⊢
  refine k.trans ?_
  rw [h]
theorem touchesRegs.trans {s t u : State} (h : touchesRegs s t) (k : touchesRegs t u) : touchesRegs s u := by
  unfold touchesRegs at h k ⊢
  refine k.trans ?_
  rw [h]
theorem touchesTrace.trans {s t u : State} (h : touchesTrace s t) (k : touchesTrace t u) : touchesTrace s u := by
  unfold touchesTrace at h k ⊢
  refine k.trans ?_
  rw [h]
theorem touchesRecord.trans {s t u : State} (h : touchesRecord s t) (k : touchesRecord t u) : touchesRecord s u := by
  unfold touchesRecord at h k ⊢
  refine k.trans ?_
  rw [h]
theorem touchesFault.trans {s t u : State} (h : touchesFault s t) (k : touchesFault t u) : touchesFault s u := by
  unfold touchesFault at h k ⊢
  refine k.trans ?_
  rw [h]
theorem touchesSend.trans {s t u : State} (h : touchesSend s t) (k : touchesSend t u) : touchesSend s u := by
  unfold touchesSend at h k ⊢
  refine k.trans ?_
  rw [h]
theorem touchesReply.trans {s t u : State} (h : touchesReply s t) (k : touchesReply t u) : touchesReply s u := by
  unfold touchesReply at h k ⊢
  refine k.trans ?_
  rw [h]
theorem touchesSetting.trans {s t u : State} (h : touchesSetting s t) (k : touchesSetting t u) : touchesSetting s u := by
  unfold touchesSetting at h k ⊢
  refine k.trans ?_
  rw [h]

theorem touchesPool.trace {s t : State} (h : touchesPool s t) : touchesTrace s t := by
  unfold touchesPool at h
  unfold touchesTrace
  rw [h]
theorem touchesRegs.trace {s t : State} (h : touchesRegs s t) : touchesTrace s t := by
  unfold touchesRegs at h
  unfold touchesTrace
  rw [h]
theorem touchesRegs.record {s t : State} (h : touchesRegs s t) : touchesRecord s t := by
  unfold touchesRegs at h
  unfold touchesRecord
  rw [h]
theorem touchesRecord.fault {s t : State} (h : touchesRecord s t) : touchesFault s t := by
  unfold touchesRecord at h
  unfold touchesFault
  rw [h]
theorem touchesRegs.fault {s t : State} (h : touchesRegs s t) : touchesFault s t := by
  unfold touchesRegs at h
  unfold touchesFault
  rw [h]
theorem touchesRegs.send {s t : State} (h : touchesRegs s t) : touchesSend s t := by
  unfold touchesRegs at h
  unfold touchesSend
  rw [h]
theorem touchesTrace.reply {s t : State} (h : touchesTrace s t) : touchesReply s t := by
  unfold touchesTrace at h
  unfold touchesReply
  rw [h]
theorem touchesSend.reply {s t : State} (h : touchesSend s t) : touchesReply s t := by
  unfold touchesSend at h
  unfold touchesReply
  rw [h]
theorem touchesReply.setting {s t : State} (h : touchesReply s t) : touchesSetting s t := by
  unfold touchesReply at h
  unfold touchesSetting
  rw [h]

/-- Any of these groups is kept by a fold whose steps keep it. -/
theorem foldl_rel {β : Type} (R : State → State → Prop) (hr : ∀ s, R s s) (ht : ∀ {s t u}, R s t → R t u → R s u)
    (f : State → β → State) (hf : ∀ s b, R s (f s b)) (l : List β) (s : State) : R s (l.foldl f s) := by
  induction l generalizing s with
  | nil => exact hr s
  | cons b l ih => exact ht (hf s b) (ih _)

/-! Pool accesses -/

theorem State.poke_touches (s : State) (p a : Nat) (b : Byte) : touchesPool s (s.poke p a b) := by
  unfold State.poke
  split <;> (try split) <;> rfl

theorem State.putLine_touches (s : State) (line : Nat) (bs : List Byte) : touchesPool s (s.putLine line bs) := rfl

theorem State.charge_touches (s : State) (p c n : Nat) (planned : Bool) : touchesPool s (s.charge p c n planned) := rfl

theorem State.writePages_touches (s : State) (x : Ctx) (p a : Nat) (bs : List Byte) :
    touchesPool s (s.writePages x p a bs) := by
  unfold State.writePages
  refine foldl_rel touchesPool (fun _ => .rfl) (fun h k => h.trans k) _ (fun t b => ?_) _ s
  dsimp only
  split
  · split
    · exact State.poke_touches _ _ _ _
    · exact .rfl
  · exact .rfl

theorem State.writeCtx_touches (s : State) (p c a : Nat) (bs : List Byte) : touchesPool s (s.writeCtx p c a bs) := by
  unfold State.writeCtx
  split
  · exact .rfl
  · split
    · exact State.writePages_touches _ _ _ _ _
    · exact .rfl

/-! Counters and traces -/

theorem State.setReg_touches (s : State) (k v : Nat) : touchesRegs s (s.setReg k v) := rfl
theorem State.bump_touches (s : State) (k n : Nat) : touchesRegs s (s.bump k n) := rfl
theorem State.bump64_touches (s : State) (k n : Nat) : touchesRegs s (s.bump64 k n) := rfl
theorem State.bumpFor_touches (s : State) (p k n : Nat) : touchesRegs s (s.bumpFor p k n) := rfl

theorem State.traceTo_touches (s : State) (v : Nat) (t : TraceRec) : touchesTrace s (s.traceTo v t) := by
  unfold State.traceTo
  split
  · exact .rfl
  · split
    · exact .rfl
    · extract_lets
      have h (n : State) (hn : touchesTrace s n) (a : Nat) (bs : List Byte) (k : Nat) :
          touchesTrace s (((n.writeCtx v v a bs).charge v v 1 false).bump64 k) :=
        hn.trans ((((State.writeCtx_touches _ _ _ _ _).trans (State.charge_touches _ _ _ _ _)).trace).trans
          (State.bump64_touches _ _ _).trace)
      split
      · exact h _ (by unfold touchesTrace; rfl) _ _ _
      · unfold touchesTrace; rfl

theorem State.traceOut_touches (s : State) (t : TraceRec) : touchesTrace s (s.traceOut t) := by
  unfold State.traceOut
  split
  · exact State.traceTo_touches _ _ _
  · exact (State.traceTo_touches _ _ _).trans (State.traceTo_touches _ _ _)

theorem State.traceDevice_touches (s : State) (a b c d e f g : Nat) : touchesTrace s (s.traceDevice a b c d e f g) :=
  State.traceOut_touches _ _

theorem State.traceOd_touches (s : State) (r : Req) (k st : Nat) : touchesTrace s (s.traceOd r k st) :=
  State.traceOut_touches _ _

/-- A trace writes no register but its viewers' two counters. -/
theorem State.traceTo_reg (s : State) (v : Nat) (t : TraceRec) (k : Nat) (hk : ¬ answerCounter k) :
    (s.traceTo v t).reg k = s.reg k := by
  have h5 : okey (0x4800 + v) 5 ≠ k := fun e => hk (.inr (.inl ⟨v, .inl e.symm⟩))
  have h6 : okey (0x4800 + v) 6 ≠ k := fun e => hk (.inr (.inl ⟨v, .inr e.symm⟩))
  have hw (n : State) (hn : n.od = s.od) (a : Nat) (bs : List Byte) :
      ((n.writeCtx v v a bs).charge v v 1 false).reg k = s.reg k := by
    have := ((State.writeCtx_touches n v v a bs).trans (State.charge_touches _ v v 1 false))
    unfold touchesPool at this
    rw [this]
    simp only [State.reg, hn]
  unfold State.traceTo
  split
  · rfl
  · split
    · rfl
    · extract_lets a _ next placed
      split
      · rw [State.bump64, State.reg_setReg_ne _ _ _ _ h5]
        exact hw next rfl _ _
      · rw [State.reg_bump_ne _ _ _ _ h6]
        rfl

theorem State.traceOut_reg (s : State) (t : TraceRec) (k : Nat) (hk : ¬ answerCounter k) :
    (s.traceOut t).reg k = s.reg k := by
  unfold State.traceOut
  split
  · exact State.traceTo_reg _ _ _ _ hk
  · rw [State.traceTo_reg _ _ _ _ hk, State.traceTo_reg _ _ _ _ hk]

/-! Fault records -/

theorem State.putHist_touches (s : State) (h : UnitHist) : touchesFault s (s.putHist h) := rfl

theorem State.reportEnd_touches (s : State) (kind party st sub detail : Nat) :
    touchesFault s (s.reportEnd kind party st sub detail) := by
  have hr (t : State) (k v : Nat) : touchesFault t (t.setReg k v) := (State.setReg_touches t k v).fault
  unfold State.reportEnd
  extract_lets s1 payload named s2 to_ s3
  have h1 : touchesFault s s1 := by
    show touchesFault s (if kind = pendLoad then ((s.setReg 0x4C2102 st).setReg 0x4C2103 sub).setReg 0x4C2104 detail
      else s.setReg 0x4C2404 st)
    split
    · exact (hr _ _ _).trans ((hr _ _ _).trans (hr _ _ _))
    · exact hr _ _ _
  have h2 : touchesFault s1 s2 := by
    show touchesFault s1 (if kind ≠ pendLoad then s1 else
      (List.range 16).foldl (fun (s : State) p => s.setReg (pkey p 0x4C2104) (if named.contains p then detail else 0)) s1)
    split
    · exact .rfl
    · exact foldl_rel touchesFault (fun _ => .rfl) (fun h k => h.trans k) _ (fun _ _ => hr _ _ _) _ _
  have h3 : touchesFault s2 s3 :=
    foldl_rel touchesFault (fun _ => .rfl) (fun h k => h.trans k) _ (fun t p => by unfold touchesFault; rfl) _ _
  clear_value s1 s2 s3
  exact ((h1.trans h2).trans h3).trans (by unfold touchesFault; rfl)

theorem State.spareState_touches (s : State) (pod v : Nat) : touchesRegs s (s.spareState pod v) := by
  unfold State.spareState
  split <;> rfl

theorem State.dropGroup_touches (s : State) : touchesFault s s.dropGroup := by
  have hc (t : State) (c : Nat) (f : Cluster → Cluster) : touchesFault t (t.onClu c f) := by unfold touchesFault; rfl
  have hp (t : State) (i : Nat) (f : Pod → Pod) : touchesFault t (t.onPod i f) := by unfold touchesFault; rfl
  unfold State.dropGroup
  split
  · exact .rfl
  · refine touchesFault.trans (foldl_rel touchesFault (fun _ => .rfl) (fun h k => h.trans k) _ (fun t m => ?_) _ s)
      (by unfold touchesFault; rfl)
    dsimp only
    refine (hc t m.1 (fun x => { x with staged := none })).trans ?_
    generalize t.onClu m.1 _ = u
    have hs (sp v : Nat) (f : Pod → Pod) : touchesFault u ((u.onPod sp f).spareState sp v) :=
      (hp u sp f).trans (State.spareState_touches _ _ _).fault
    repeat' split
    all_goals first
      | exact .rfl
      | exact hs _ _ _
      | exact (hs _ _ _).trans (State.setReg_touches _ _ _).fault

theorem State.groupLoses_touches (s : State) (c : Nat) : touchesFault s (s.groupLoses c) := by
  unfold State.groupLoses State.endGroup
  split
  · split
    · split
      · exact .rfl
      · exact (State.dropGroup_touches s).trans (State.reportEnd_touches _ _ _ _ _ _)
    · exact .rfl
  · exact .rfl

theorem State.retirePod_touches (s : State) (i : Nat) : touchesFault s (s.retirePod i).2 := by
  unfold State.retirePod
  dsimp only
  split
  · exact .rfl
  · split
    · exact .rfl
    · split
      · refine touchesFault.trans ?_ (State.groupLoses_touches _ _)
        unfold touchesFault
        rfl
      · unfold touchesFault
        rfl

theorem State.keepPermanent_touches (s : State) (h : UnitHist) : touchesFault s (s.keepPermanent h) := id rfl

theorem State.countUnit_touches (s : State) (r : FaultRec) (u : Nat) : touchesFault s (s.countUnit r u).2 := by
  unfold State.countUnit
  dsimp only
  split
  · have h : touchesFault s (if u / 4096 = 2 then s.retirePod (u % 4096) else (false, s)).2 := by
      split
      · exact State.retirePod_touches _ _
      · exact .rfl
    exact (h.trans (State.putHist_touches _ _)).trans (State.keepPermanent_touches _ _)
  · exact State.putHist_touches _ _

theorem State.podPermanent_touches (s : State) (r : FaultRec) (i : Nat) : touchesFault s (s.podPermanent r i).2 := by
  unfold State.podPermanent
  dsimp only
  split
  · exact .rfl
  · exact ((State.retirePod_touches s i).trans (State.putHist_touches _ _)).trans (State.keepPermanent_touches _ _)

theorem State.countRec_touches (s : State) (r : FaultRec) : touchesFault s (s.countRec r).2 := by
  unfold State.countRec
  dsimp only
  split
  · split
    · refine touchesFault.trans ?_ (State.putHist_touches _ _)
      have h := (State.countUnit_touches s r r.unit).trans
        (State.countUnit_touches (s.countUnit r r.unit).2 (s.countUnit r r.unit).1 (unitPod (groupPod r.unit)))
      split
      · exact h.trans (State.podPermanent_touches _ _ _)
      · exact h
    · exact State.countUnit_touches _ _ _
  · exact .rfl

theorem State.countRaised_touches (s : State) (p : Nat) : touchesRegs s (s.countRaised p) := by
  unfold State.countRaised
  split
  · exact State.bumpFor_touches _ _ _ _
  · exact (State.bump_touches s 0x401002 1).trans
      (foldl_rel touchesRegs (fun _ => .rfl) (fun h k => h.trans k) _ (fun t p => State.bump_touches t _ 1) _ _)

theorem State.raise_touches (s : State) (r : FaultRec) : touchesFault s (s.raise r) := by
  unfold State.raise
  extract_lets _ s0 q r' s1 full s2 s3
  have h0 : touchesFault s s0 := by unfold touchesFault; rfl
  have h1 : touchesFault s s1 := h0.trans (State.countRec_touches s0 r)
  have h2 : touchesFault s1 s2 := by
    show touchesFault s1 (if full = true then s1.bump 0x401003 else s1)
    split
    · exact (State.bump_touches _ _ _).fault
    · exact .rfl
  have h3 : touchesFault s2 s3 := (State.countRaised_touches s2 _).fault
  clear_value s1 s2 s3
  exact ((h1.trans h2).trans h3).trans (by unfold touchesFault; rfl)

/-- A unit that is neither a pod nor a column group: its record retires nothing. -/
def plainUnit (u : Nat) : Prop := u / 4096 ≠ 2 ∧ u / 4096 ≠ 3 ∧ u / 4096 ≠ 4

theorem State.countUnit_plain (s : State) (r : FaultRec) (u : Nat) (h : u / 4096 ≠ 2) :
    touchesRecord s (s.countUnit r u).2 := by
  have hp (t : State) (x : UnitHist) : touchesRecord t (t.putHist x) := id rfl
  have hk (t : State) (x : UnitHist) : touchesRecord t (t.keepPermanent x) := id rfl
  unfold State.countUnit
  rw [if_neg h]
  dsimp only
  split
  · exact (hp _ _).trans (hk _ _)
  · exact hp _ _

theorem State.countRec_plain (s : State) (r : FaultRec) (h : plainUnit r.unit) : touchesRecord s (s.countRec r).2 := by
  unfold State.countRec
  extract_lets q
  rw [if_neg (c := _ ∨ _) (not_or.mpr h.2)]
  split
  · exact State.countUnit_plain _ _ _ h.1
  · exact .rfl

theorem State.raise_record (s : State) (r : FaultRec) (h : plainUnit r.unit) : touchesRecord s (s.raise r) := by
  unfold State.raise
  extract_lets _ s0 q r' s1 full s2 s3
  have h0 : touchesRecord s s0 := by unfold touchesRecord; rfl
  have h1 : touchesRecord s s1 := h0.trans (State.countRec_plain s0 r h)
  have h2 : touchesRecord s1 s2 := by
    show touchesRecord s1 (if full = true then s1.bump 0x401003 else s1)
    split
    · exact (State.bump_touches _ _ _).record
    · exact .rfl
  have h3 : touchesRecord s2 s3 := (State.countRaised_touches s2 _).record
  clear_value s1 s2 s3
  exact ((h1.trans h2).trans h3).trans (by unfold touchesRecord; rfl)

theorem State.fault_record (s : State) (a b c d e : Nat) (h : plainUnit c) : touchesRecord s (s.fault a b c d e) :=
  State.raise_record s _ h

theorem State.fault_touches (s : State) (a b c d e : Nat) : touchesFault s (s.fault a b c d e) := State.raise_touches _ _

theorem State.faultOnce_touches (s : State) (key t gap : Nat) (r : FaultRec) : touchesFault s (s.faultOnce key t gap r) := by
  unfold State.faultOnce
  split
  · exact .rfl
  · exact touchesFault.trans (t := s.mark key t) rfl (State.raise_touches _ _)

/-! Messages -/

theorem State.onNet_touches (s : State) (p : Nat) (f : PartyNet → PartyNet) : touchesSend s (s.onNet p f) := rfl
theorem State.event_touches (s : State) (p op st : Nat) (b : List Byte) : touchesSend s (s.event p op st b) := rfl

theorem State.eventAll_touches (s : State) (op : Nat) (b : List Byte) : touchesSend s (s.eventAll op b) :=
  foldl_rel touchesSend (fun _ => .rfl) (fun h k => h.trans k) _ (fun _ _ => State.event_touches _ _ _ _ _) _ s

theorem State.attention_touches (s : State) (e : Bool) : touchesSend s (s.attention e) := by
  unfold State.attention
  split <;> rfl

theorem State.boardPush_touches (s : State) (k : Nat) (bs : List Byte) : touchesSend s (s.boardPush k bs).2 := by
  unfold State.boardPush
  split
  · exact .rfl
  · exact touchesSend.trans (t := { s with board := _ }) rfl (State.attention_touches _ _)

theorem State.portCount_touches (s : State) (u sub n : Nat) : touchesSend s (s.portCount u sub n) := by
  unfold State.portCount
  split <;> rfl

theorem State.push_touches {s t : State} (h : touchesSend s t) (o : List OutMsg) : touchesSend s { t with out := o } :=
  h.trans (by unfold touchesSend; rfl)

theorem State.emitOn_touches (s : State) (port : Nat) (m : OutMsg) : touchesSend s (s.emitOn port m) := by
  unfold State.emitOn
  split
  · split
    rename_i n t heq
    extract_lets c u
    have ht : touchesSend s t := by
      cases heq
      unfold touchesSend
      rfl
    have hu : touchesSend s u := ht.trans (State.portCount_touches _ _ _ _)
    clear_value u
    split
    · exact hu.trans (State.portCount_touches _ _ _ _)
    · exact hu.trans (State.push_touches (State.portCount_touches _ _ _ _) _)
  · exact State.push_touches (State.portCount_touches _ _ _ _) _

theorem State.transmit_touches (s : State) (p port : Nat) (t : State) (h : s.transmit p port = some t) : touchesSend s t := by
  unfold State.transmit at h
  split at h
  · split at h
    · cases h
    · split at h
      · cases h
      · dsimp only at h
        have hp (n : Net) : touchesSend s { s with net := n } := id rfl
        split at h <;> cases h
        · split
          · exact (hp _).trans (State.onNet_touches _ _ _)
          · exact (hp _).trans ((State.onNet_touches _ _ _).trans (State.onNet_touches _ _ _))
        · exact hp _
  · cases h
    exact .rfl

theorem State.sendResp_touches (s : State) (m : OutMsg) : touchesSend s (s.sendResp m) := by
  unfold State.sendResp
  split
  · split
    · extract_lets bytes q
      have hq : touchesSend s q.2 := State.boardPush_touches _ _ _
      clear_value q
      split
      · exact hq
      · exact hq.trans (by unfold touchesSend; rfl)
    · split
      · exact .rfl
      · split
        · rename_i t h
          exact (State.transmit_touches _ _ _ _ h).trans (State.emitOn_touches _ _ _)
        · exact State.portCount_touches _ _ _ _
  · rfl

theorem State.taken_touches (s : State) (r : Req) : touchesSend s (s.taken r) := rfl

theorem State.respond_touches (s : State) (r : Req) (a b c d e : Nat) (x : List Byte) :
    touchesSend s (s.respond r a b c d e x) := by
  unfold State.respond
  exact ((State.taken_touches s r).trans (State.onNet_touches _ _ _)).trans (State.sendResp_touches _ _)

theorem State.answer_touches (s : State) (r : Req) (a b : Nat) (x : List Byte) : touchesSend s (s.answer r a b x) :=
  State.respond_touches _ _ _ _ _ _ _ _

/-! Answers of the dictionary -/

theorem State.usdoOut_touches (s : State) (n a : Nat) (d : List Byte) : touchesSend s (s.usdoOut n a d) :=
  State.push_touches (State.portCount_touches _ _ _ _) _

theorem State.usdoEnd_touches (s : State) (r : Req) (i st : Nat) (d : List Byte) : touchesSend s (s.usdoEnd r i st d) := by
  unfold State.usdoEnd
  dsimp only
  split
  · exact (State.taken_touches s r).trans (State.usdoOut_touches _ _ _ _)
  · exact State.taken_touches s r

theorem State.usdoValue_touches (s : State) (r : Req) (i j st : Nat) (d : List Byte) :
    touchesSend s (s.usdoValue r i j st d) := by
  unfold State.usdoValue
  dsimp only
  split
  · exact State.usdoEnd_touches _ _ _ _ _
  · exact (State.usdoEnd_touches _ _ _ _ _).trans (by unfold touchesSend; rfl)

theorem State.wrote_touches (s : State) (r : Req) (k st : Nat) : touchesReply s (s.wrote r k st) := by
  unfold State.wrote
  split
  · exact (State.traceOd_touches _ _ _ _).reply.trans (State.usdoEnd_touches _ _ _ _ _).reply
  · exact (State.traceOd_touches _ _ _ _).reply.trans (State.answer_touches _ _ _ _ _).reply

theorem State.readAnswer_touches (s : State) (r : Req) (i j o st : Nat) (d : List Byte) :
    touchesReply s (s.readAnswer r i j o st d) := by
  unfold State.readAnswer
  dsimp only
  split
  · exact (State.traceOd_touches _ _ _ _).reply.trans (State.usdoValue_touches _ _ _ _ _ _).reply
  · exact (State.traceOd_touches _ _ _ _).reply.trans (State.answer_touches _ _ _ _ _).reply

/-! What an answer leaves of the registers, and what it remembers -/

theorem State.portCount_reg (s : State) (u sub n k : Nat) (hs : sub = 0x11 ∨ sub = 0x1B) (hk : ¬ answerCounter k) :
    (s.portCount u sub n).reg k = s.reg k := by
  unfold State.portCount
  split
  · rename_i h
    refine State.reg_bump_ne _ _ _ _ fun e => hk (.inl ⟨u, h, ?_⟩)
    rcases hs with rfl | rfl
    · exact .inl e.symm
    · exact .inr e.symm
  · rfl

@[simp] theorem State.attention_reg (s : State) (e : Bool) (k : Nat) : (s.attention e).reg k = s.reg k := by
  unfold State.attention; split <;> rfl

@[simp] theorem State.boardPush_reg (s : State) (j : Nat) (bs : List Byte) (k : Nat) :
    (s.boardPush j bs).2.reg k = s.reg k := by
  unfold State.boardPush
  split
  · rfl
  · exact State.attention_reg _ _ _

theorem State.transmit_reg (s : State) (p port : Nat) (t : State) (h : s.transmit p port = some t) (k : Nat) :
    t.reg k = s.reg k := by
  unfold State.transmit at h
  split at h
  · split at h
    · cases h
    · split at h
      · cases h
      · dsimp only at h
        split at h <;> cases h
        · split <;> rfl
        · rfl
  · cases h
    rfl

theorem State.emitOn_reg (s : State) (port : Nat) (m : OutMsg) (k : Nat) (hk : ¬ answerCounter k) :
    (s.emitOn port m).reg k = s.reg k := by
  have h15 : okey 0x3C01 0x15 ≠ k := fun e => hk (.inr (.inr (.inl e.symm)))
  have h1E : okey 0x3C01 0x1E ≠ k := fun e => hk (.inr (.inr (.inr e.symm)))
  have hc (t : State) (n : Nat) : (t.portCount 1 0x15 n).reg k = t.reg k := State.reg_bump_ne _ _ _ _ h15
  have he (t : State) : (t.portCount 1 0x1E).reg k = t.reg k := State.reg_bump_ne _ _ _ _ h1E
  unfold State.emitOn
  split
  · split
    rename_i n t heq
    cases heq
    extract_lets c u
    have hu : u.reg k = s.reg k := hc _ _
    clear_value u
    split
    · rw [he, hu]
    · exact (State.portCount_reg u 1 0x11 1 k (.inl rfl) hk).trans hu
  · exact State.portCount_reg s port 0x11 1 k (.inl rfl) hk

theorem State.sendResp_reg (s : State) (m : OutMsg) (k : Nat) (hk : ¬ answerCounter k) : (s.sendResp m).reg k = s.reg k := by
  unfold State.sendResp
  split
  · split
    · extract_lets bytes q
      have hq : q.2.reg k = s.reg k := State.boardPush_reg _ _ _ _
      clear_value q
      split
      · exact hq
      · exact hq
    · split
      · rfl
      · split
        · rename_i t h
          exact (State.emitOn_reg _ _ _ _ hk).trans (State.transmit_reg s _ _ t h k)
        · exact State.portCount_reg _ _ _ _ _ (.inr rfl) hk
  · rfl

theorem State.respond_reg (s : State) (r : Req) (a b c d e : Nat) (x : List Byte) (k : Nat) (hk : ¬ answerCounter k) :
    (s.respond r a b c d e x).reg k = s.reg k := by
  unfold State.respond
  exact State.sendResp_reg _ _ k hk

theorem State.usdoOut_reg (s : State) (n a : Nat) (d : List Byte) (k : Nat) (hk : ¬ answerCounter k) :
    (s.usdoOut n a d).reg k = s.reg k := State.portCount_reg s 3 0x11 1 k (.inl rfl) hk

theorem State.usdoEnd_reg (s : State) (r : Req) (i st : Nat) (d : List Byte) (k : Nat) (hk : ¬ answerCounter k) :
    (s.usdoEnd r i st d).reg k = s.reg k := by
  unfold State.usdoEnd
  dsimp only
  split
  · exact State.usdoOut_reg _ _ _ _ k hk
  · rfl

theorem State.usdoValue_reg (s : State) (r : Req) (i j st : Nat) (d : List Byte) (k : Nat) (hk : ¬ answerCounter k) :
    (s.usdoValue r i j st d).reg k = s.reg k := by
  unfold State.usdoValue
  dsimp only
  split <;> exact State.usdoEnd_reg _ _ _ _ _ _ hk

/-- A dictionary answer writes no register but the counters of what it sends and traces. -/
theorem State.wrote_reg (s : State) (r : Req) (key st k : Nat) (hk : ¬ answerCounter k) :
    (s.wrote r key st).reg k = s.reg k := by
  unfold State.wrote
  split
  · rw [State.usdoEnd_reg _ _ _ _ _ _ hk]
    exact State.traceOut_reg _ _ _ hk
  · exact (State.respond_reg _ _ _ _ _ _ _ _ _ hk).trans (State.traceOut_reg _ _ _ hk)

theorem State.readAnswer_reg (s : State) (r : Req) (i j o st : Nat) (d : List Byte) (k : Nat) (hk : ¬ answerCounter k) :
    (s.readAnswer r i j o st d).reg k = s.reg k := by
  unfold State.readAnswer
  extract_lets s1
  have h1 : s1.reg k = s.reg k := State.traceOut_reg _ _ _ hk
  split
  · rw [State.usdoValue_reg _ _ _ _ _ _ _ hk]; exact h1
  · exact (State.respond_reg _ _ _ _ _ _ _ _ _ hk).trans h1

@[simp] theorem PartyNet.append_remembered (n : PartyNet) (op st : Nat) (b : List Byte) :
    (n.append op st b).remembered = n.remembered := rfl
@[simp] theorem PartyNet.append_progress (n : PartyNet) (op st : Nat) (b : List Byte) :
    (n.append op st b).progress = n.progress := rfl

@[simp] theorem PartyNet.reportLost_remembered (n : PartyNet) : n.reportLost.remembered = n.remembered := by
  unfold PartyNet.reportLost; split <;> rfl
@[simp] theorem PartyNet.reportLost_progress (n : PartyNet) : n.reportLost.progress = n.progress := by
  unfold PartyNet.reportLost; split <;> rfl

@[simp] theorem enqueue_remembered (n : PartyNet) (op st : Nat) (b : List Byte) :
    (enqueue n op st b).remembered = n.remembered := by
  rw [← PartyNet.reportLost_remembered n]
  unfold enqueue
  dsimp only
  repeat' split
  all_goals rfl

@[simp] theorem enqueue_progress (n : PartyNet) (op st : Nat) (b : List Byte) :
    (enqueue n op st b).progress = n.progress := by
  rw [← PartyNet.reportLost_progress n]
  unfold enqueue
  dsimp only
  repeat' split
  all_goals rfl

/-- What a party remembers of its requests. -/
def requestsOf (n : PartyNet) : List (Nat × OutMsg) × List Nat := (n.remembered, n.progress)

theorem State.pnet_onNet_ne (s : State) (p q : Nat) (f : PartyNet → PartyNet) (h : p ≠ q) :
    (s.onNet p f).pnet q = s.pnet q := getD_upd_ne _ _ _ _ _ h

theorem State.pnet_onNet_self (s : State) (p : Nat) (f : PartyNet → PartyNet) (h : p < s.net.parties.length) :
    (s.onNet p f).pnet p = f (s.pnet p) := getD_upd_self _ _ _ _ h

theorem State.requestsOf_enqueue (s : State) (p q op st : Nat) (b : List Byte) :
    requestsOf ((s.onNet p fun n => enqueue n op st b).pnet q) = requestsOf (s.pnet q) := by
  by_cases h : p = q
  · subst h
    by_cases hp : p < s.net.parties.length
    · rw [State.pnet_onNet_self _ _ _ hp]
      simp [requestsOf]
    · have hn : (s.onNet p fun n => enqueue n op st b).net.parties = s.net.parties := by
        simp only [State.onNet]
        generalize s.net.parties = l at hp
        induction l generalizing p with
        | nil => rfl
        | cons x xs ih =>
          cases p with
          | zero => simp at hp
          | succ p => simp only [upd]; rw [ih p (by simpa using hp)]
      unfold State.pnet
      rw [hn]
  · rw [State.pnet_onNet_ne _ _ _ _ h]

theorem State.requestsOf_portCount (s : State) (u sub n q : Nat) : requestsOf ((s.portCount u sub n).pnet q) = requestsOf (s.pnet q) := by
  unfold State.portCount; split <;> rfl

theorem State.requestsOf_attention (s : State) (e : Bool) (q : Nat) : requestsOf ((s.attention e).pnet q) = requestsOf (s.pnet q) := by
  unfold State.attention; split <;> rfl

theorem State.requestsOf_boardPush (s : State) (j : Nat) (bs : List Byte) (q : Nat) :
    requestsOf ((s.boardPush j bs).2.pnet q) = requestsOf (s.pnet q) := by
  unfold State.boardPush
  split
  · rfl
  · exact State.requestsOf_attention _ _ _

theorem State.requestsOf_emitOn (s : State) (port : Nat) (m : OutMsg) (q : Nat) :
    requestsOf ((s.emitOn port m).pnet q) = requestsOf (s.pnet q) := by
  unfold State.emitOn
  split
  · split
    rename_i n t heq
    cases heq
    extract_lets c u
    have hu : requestsOf (u.pnet q) = requestsOf (s.pnet q) := State.requestsOf_portCount _ _ _ _ _
    clear_value u
    split
    · rw [State.requestsOf_portCount, hu]
    · exact (State.requestsOf_portCount u 1 0x11 1 q).trans hu
  · exact State.requestsOf_portCount s port 0x11 1 q

theorem State.requestsOf_transmit (s : State) (p port : Nat) (t : State) (h : s.transmit p port = some t) (q : Nat) :
    requestsOf (t.pnet q) = requestsOf (s.pnet q) := by
  unfold State.transmit at h
  split at h
  · split at h
    · cases h
    · split at h
      · cases h
      · extract_lets _ t0 pl at h
        have h0 : requestsOf (t0.pnet q) = requestsOf (s.pnet q) := id rfl
        clear_value t0
        split at h <;> cases h
        · split
          · rw [State.requestsOf_enqueue, h0]
          · rw [State.requestsOf_enqueue, State.requestsOf_enqueue, h0]
        · exact h0
  · cases h
    rfl

theorem State.requestsOf_sendResp (s : State) (m : OutMsg) (q : Nat) : requestsOf ((s.sendResp m).pnet q) = requestsOf (s.pnet q) := by
  unfold State.sendResp
  split
  · split
    · extract_lets bytes x
      have hq : requestsOf (x.2.pnet q) = requestsOf (s.pnet q) := State.requestsOf_boardPush _ _ _ _
      clear_value x
      split
      · exact hq
      · exact hq
    · split
      · rfl
      · split
        · rename_i t h
          rw [State.requestsOf_emitOn]
          exact State.requestsOf_transmit s _ _ t h q
        · exact State.requestsOf_portCount _ _ _ _ _
  · rfl

/-- A response is remembered first among 16, and its request is no longer in progress. -/
theorem State.respond_answered (s : State) (r : Req) (a b c d e : Nat) (x : List Byte) (h : r.party < s.net.parties.length) :
    answered s (s.respond r a b c d e x) r a b c d e x := by
  have := State.requestsOf_sendResp ((s.taken r).onNet r.party fun n =>
    { n with progress := n.progress.filter (· ≠ r.seq),
             remembered := ((r.seq, OutMsg.resp r.party r.port a b r.seq false c d e x) :: n.remembered).take 16 })
    (OutMsg.resp r.party r.port a b r.seq false c d e x) r.party
  rw [State.pnet_onNet_self (s.taken r) _ _ h] at this
  simp only [requestsOf, Prod.mk.injEq] at this
  exact this

/-- The answers of other parties are left alone. -/
theorem State.respond_others (s : State) (r : Req) (a b c d e : Nat) (x : List Byte) (q : Nat) (h : r.party ≠ q) :
    requestsOf ((s.respond r a b c d e x).pnet q) = requestsOf (s.pnet q) := by
  unfold State.respond
  rw [State.requestsOf_sendResp, State.pnet_onNet_ne _ _ _ _ h]
  rfl

/-- A trace does not change who sees which entry. -/
theorem State.hidden_traceOd (s : State) (r : Req) (k st p port i : Nat) :
    (s.traceOd r k st).hidden p port i = s.hidden p port i := by
  have hr : ∀ j, j % 256 = 4 ∨ j % 256 = 1 → (s.traceOd r k st).reg j = s.reg j := fun j hj =>
    State.traceOut_reg _ _ _ (by
      rintro (⟨u, hu, e | e⟩ | ⟨q, e | e⟩ | e | e) <;> simp only [okey] at e <;> omega)
  have ht := State.traceOd_touches s r k st
  have hl : ∀ g, (s.traceOd r k st).segParty g = s.segParty g := fun g => by
    unfold touchesTrace at ht
    rw [ht]
    rfl
  have h4 : (s.traceOd r k st).reg (okey i 4) = s.reg (okey i 4) := hr _ (.inl (by simp [okey]))
  have h1 : (s.traceOd r k st).reg (okey i 1) = s.reg (okey i 1) := hr _ (.inr (by simp [okey]))
  unfold State.hidden
  rw [h4, h1, hl]

/-- A write of an entry is answered. -/
theorem State.wrote_answered (s : State) (r : Req) (k st : Nat) : writeAnswered s (s.wrote r k st) r (k / 256) st := by
  have ht := State.traceOd_touches s r k st
  unfold touchesTrace at ht
  generalize hu : s.traceOd r k st = u at ht
  unfold writeAnswered State.wrote
  rw [hu]
  split
  · rename_i hr
    intro hp
    have hp' : u.portUp 3 = true := by rw [ht]; simpa [State.portUp] using hp
    unfold State.usdoEnd State.usdoOut
    rw [if_pos hp']
    show u.out ++ [_] = _
    have h1 : u.out = s.out := by rw [ht]
    have hi : ∀ j, u.inForce j = s.inForce j := fun j => by rw [ht]; rfl
    have ha : u.absentIndex r (k / 256) = s.absentIndex r (k / 256) := by
      rw [← hu]
      unfold State.absentIndex
      rw [State.hidden_traceOd]
    have hd : (if st = stOk then ([] : List Byte) else []) = [] := by split <;> rfl
    rw [h1, hi, ha, hd]
  · intro h
    have hl : u.net = s.net := by rw [ht]
    have := State.respond_answered u r 1 2 st 0 0 [] (by rw [hl]; exact h)
    unfold answered at this ⊢
    have hq : u.pnet r.party = s.pnet r.party := by unfold State.pnet; rw [hl]
    rw [hq] at this
    exact this

end Sys2Proof.Machine
end

