-- ==== Sys2Proof/Laws/Core.lean ====
section
/-! SUPPORT. What the control core's shared operations do: taking a bundle in, going on, issuing. -/

namespace Sys2Proof.Machine

open Sys2Proof

/-! Outputs that will not be computed touch neither the core nor a register nor the layout of the frame -/

/-- Buffers, pool data at most. -/
def touchesData (s t : State) : Prop := t = { s with pool := t.pool, walkers := t.walkers }

theorem touchesData.rfl {s : State} : touchesData s s := by unfold touchesData; rfl
theorem touchesData.trans {s t u : State} (h : touchesData s t) (k : touchesData t u) : touchesData s u := by
  unfold touchesData at h k ⊢
  refine k.trans ?_
  rw [h]
theorem touchesPool.data {s t : State} (h : touchesPool s t) : touchesData s t := by
  unfold touchesPool at h
  unfold touchesData
  rw [h]

theorem State.onWalker_touches (s : State) (c : Nat) (f : Walker → Walker) : touchesData s (s.onWalker c f) := by
  unfold touchesData; rfl

theorem State.unmark_touches (s : State) (ctx a n : Nat) : touchesData s (s.unmark ctx a n) := by
  unfold touchesData; rfl

theorem State.putOut_touches (s : State) (c g : Nat) (d : List Byte) (e b j : Nat) (bs : List Byte) (v : Bool) :
    touchesData s (s.putOut c g d e b j bs v) := by
  unfold State.putOut
  extract_lets a p t m old new
  split
  · have ht : touchesData s t := (State.writeCtx_touches _ _ _ _ _).data.trans (State.unmark_touches _ _ _ _)
    clear_value t
    exact ht.trans (State.writeCtx_touches _ _ _ _ _).data
  · exact State.onWalker_touches _ _ _

theorem State.zeroTile_touches (s : State) (c g : Nat) (d : List Byte) (e : Nat) (t : Tile) :
    touchesData s (s.zeroTile c g d e t) :=
  foldl_rel touchesData (fun _ => .rfl) (fun h k => h.trans k) _
    (fun s _ => foldl_rel touchesData (fun _ => .rfl) (fun h k => h.trans k) _
      (fun s _ => State.putOut_touches s _ _ _ _ _ _ _ _) _ s) _ s

theorem State.chargeOut_touches (s : State) (g : Nat) (d : List Byte) (ls : List Nat) (planned : Bool) :
    touchesData s (s.chargeOut g d ls planned) := by
  unfold State.chargeOut
  split
  · exact .rfl
  · exact (State.charge_touches _ _ _ _ _).data

theorem State.zeroTiles_touches (s : State) (c g : Nat) (d : List Byte) (lo hi : Nat) :
    touchesData s (s.zeroTiles c g d lo hi) := by
  unfold State.zeroTiles
  split
  · exact .rfl
  · split
    · exact .rfl
    · refine touchesData.trans ?_ (State.chargeOut_touches _ _ _ _ _)
      exact foldl_rel touchesData (fun _ => .rfl) (fun h k => h.trans k) _ (fun s t => State.zeroTile_touches _ _ _ _ _ _) _ s

theorem State.zeroUnissued_touches (s : State) (g : Nat) : touchesData s (s.zeroUnissued g false) := by
  have hf {β : Type} (f : State → β → State) (h : ∀ s b, touchesData s (f s b)) (l : List β) (s : State) :
      touchesData s (l.foldl f s) := foldl_rel touchesData (fun _ => .rfl) (fun h k => h.trans k) f h l s
  unfold State.zeroUnissued
  split
  · exact .rfl
  · refine hf _ (fun s i => ?_) _ s
    dsimp only
    split
    · exact .rfl
    · refine touchesData.trans (hf _ (fun s y => ?_) _ s) (State.chargeOut_touches _ _ _ _ _)
      simp only [Bool.false_and, Bool.false_eq_true, if_false]
      refine hf _ (fun s j => ?_) _ s
      split
      · exact .rfl
      · exact State.putOut_touches _ _ _ _ _ _ _ _ _

/-! Issuing -/

/-- What an issue that reaches its walker may touch: the walkers' queues and buffers, the pool, the record of a refusal, and in
the core nothing but the count of descriptor exceptions. -/
def touchesIssue (s t : State) : Prop :=
  t = { s with pool := t.pool, walkers := t.walkers, od := t.od, pods := t.pods, integ := t.integ, clusters := t.clusters,
               loader := t.loader, net := t.net, frame := { s.frame with fault := t.frame.fault },
               core := { s.core with descExc := t.core.descExc } }

theorem touchesIssue.rfl {s : State} : touchesIssue s s := by unfold touchesIssue; rfl
theorem touchesIssue.trans {s t u : State} (h : touchesIssue s t) (k : touchesIssue t u) : touchesIssue s u := by
  unfold touchesIssue at h k ⊢
  refine k.trans ?_
  rw [h]
theorem touchesData.issue {s t : State} (h : touchesData s t) : touchesIssue s t := by
  unfold touchesData at h
  unfold touchesIssue
  rw [h]
theorem touchesFault.issue {s t : State} (h : touchesFault s t) : touchesIssue s t := by
  unfold touchesFault at h
  unfold touchesIssue
  rw [h]

theorem State.flagFault_touches (s : State) (g : Nat) : touchesIssue s (s.flagFault g) := by unfold touchesIssue; rfl

theorem State.issueRecord_touches (s : State) (c g n : Nat) : touchesIssue s (s.issueRecord c g n) := by
  unfold State.issueRecord
  extract_lets t r
  have h : touchesIssue s t := (State.bumpFor_touches _ _ _ _).fault.issue
  exact (h.trans (State.raise_touches t { r with desc := n }).issue).trans (State.flagFault_touches _ _)

theorem State.descException_touches (s : State) (g : Nat) : touchesIssue s (s.descException g) := by
  unfold State.descException
  extract_lets t u
  have h : touchesIssue s u :=
    (((State.bump_touches s _ 1).trans (State.setReg_touches _ _ _)).trans (State.setReg_touches t _ _)).fault.issue
  clear_value u
  split
  · exact h.trans (by unfold touchesIssue; rfl)
  · exact h

theorem State.refuseIssue_touches (s : State) (c g n : Nat) (d : List Byte) : touchesIssue s (s.refuseIssue c g n d) := by
  unfold State.refuseIssue
  extract_lets s1
  have h1 : touchesIssue s s1 := by
    show touchesIssue s (if d.isEmpty then s else _)
    split
    · exact .rfl
    · split
      · split
        · split
          · exact .rfl
          · exact (State.zeroTiles_touches _ _ _ _ _ _).issue
        · exact .rfl
      · exact .rfl
  clear_value s1
  exact (h1.trans (State.issueRecord_touches _ _ _ _)).trans (State.descException_touches _ _)

/-- An issue goes on its way to its walkers and does nothing else. -/
theorem State.issue_touches (s : State) (g n : Nat) : touchesData s (s.issue g n) :=
  foldl_rel touchesData (fun _ => .rfl) (fun h k => h.trans k) _ (fun _ _ => State.onWalker_touches _ _ _) _ s

theorem State.arriveAt_touches (s : State) (c n g due : Nat) (d : List Byte) : touchesIssue s (s.arriveAt c n g due d) := by
  unfold State.arriveAt
  dsimp only
  split
  · exact (State.onWalker_touches _ _ _).issue
  · exact (State.refuseIssue_touches _ _ _ _ _).trans (State.onWalker_touches _ _ _).issue

theorem State.arrive_touches (s : State) (all : Bool) : touchesIssue s (s.arrive all) :=
  foldl_rel touchesIssue (fun _ => .rfl) (fun h k => h.trans k) _ (fun _ _ => State.arriveAt_touches _ _ _ _ _ _) _ s

/-- With no issue on its way nothing arrives. -/
theorem State.arrive_none (s : State) (all : Bool) (h : ∀ c < 8, s.onWay c = []) : s.arrive all = s := by
  have : (List.range 8).flatMap s.onWay = [] := List.flatMap_eq_nil_iff.mpr fun c hc => h c (List.mem_range.mp hc)
  unfold State.arrive
  rw [this]
  rfl

/-! Taking a bundle in -/

/-- Where the core stands: segment, bundle, cycle, entry, wait, code and register contents. -/
def corePlace (s : State) : Option Nat × Nat × Nat × Nat × Option Wait × List Word :=
  (s.core.seg, s.core.pc, s.core.cycle, s.core.entry, s.core.wait, s.core.regs)

theorem touchesIssue.place {s t : State} (h : touchesIssue s t) : corePlace t = corePlace s := by
  unfold touchesIssue at h
  rw [h]
  rfl

/-- A fold keeps a view of the state that each of its steps keeps. -/
theorem foldl_view {β γ : Type} (v : State → γ) (f : State → β → State) (hf : ∀ s b, v (f s b) = v s) (l : List β) (s : State) :
    v (l.foldl f s) = v s := by
  induction l generalizing s with
  | nil => rfl
  | cons b l ih => exact (ih _).trans (hf s b)

/-- Taking a bundle in leaves segment, bundle address, cycle and registers alone, and the staging empty. -/
theorem State.takeBundle_place (s : State) (g : Nat) :
    corePlace (s.takeBundle g) = corePlace s ∧ (s.takeBundle g).core.bundle = Bundle.blank ∧
      (s.takeBundle g).loader = s.loader := by
  unfold State.takeBundle
  extract_lets b s1 s2 s3
  have h1 : corePlace s1 = corePlace s ∧ s1.loader = s.loader :=
    Prod.mk.inj (foldl_view (fun s => (corePlace s, s.loader))
      (fun s (m : Nat × QItem) => s.onWalker m.1 fun w => pushItem w m.2) (fun _ _ => rfl) b.moves s)
  have h2 : corePlace s2 = corePlace s1 ∧ s2.loader = s1.loader :=
    Prod.mk.inj (foldl_view (fun s => (corePlace s, s.loader))
      (fun s n => (s.issue g n).onCore fun c => { c with issued := n :: c.issued }) (fun t n => by
      have := State.issue_touches t g n
      unfold touchesData at this
      rw [this]
      rfl) b.issues s1)
  have h3 : corePlace s3 = corePlace s2 ∧ s3.core.bundle = Bundle.blank ∧ s3.loader = s2.loader := ⟨rfl, rfl, rfl⟩
  have h4 := foldl_view (fun s => (corePlace s, s.core.bundle, s.loader))
    (fun s (x : Nat × Nat) => s.onCore fun c => { c with fadvs := c.fadvs ++ [⟨g, x.1, x.2, s.issueMarks⟩] })
    (fun _ _ => rfl) b.fadvs s3
  simp only [Prod.mk.injEq] at h4
  exact ⟨h4.1.trans (h3.1.trans (h2.1.trans h1.1)), h4.2.1.trans h3.2.1, h4.2.2.trans (h3.2.2.trans (h2.2.trans h1.2))⟩

/-- An empty bundle with no result under way leaves the state as it is. -/
theorem State.takeBundle_blank (s : State) (g : Nat) (h : s.core.bundle = Bundle.blank) (hw : s.core.writes = []) :
    s.takeBundle g = s := by
  obtain ⟨_, _, _, _, _, _, _, _, _, _, _, _, _, ⟨_, _, _, _, _, _, _, bundle, _, _, _, _, _, _, _, _⟩, _, _, _, _, _, _, _, _, _, _, _, _⟩ := s
  simp only at h hw
  subst h hw
  rfl

theorem State.retire_place (s : State) :
    s.retire.core.seg = s.core.seg ∧ s.retire.core.pc = s.core.pc ∧ s.retire.core.cycle = s.core.cycle ∧
      s.retire.core.bundle = s.core.bundle ∧ s.retire.core.wait = s.core.wait ∧ s.retire.loader = s.loader := by
  unfold State.retire
  exact ⟨rfl, rfl, rfl, rfl, rfl, rfl⟩

/-- With no result under way nothing becomes visible. -/
theorem State.retire_nil (s : State) (h : s.core.writes = []) : s.retire = s := by
  obtain ⟨_, _, _, _, _, _, _, _, _, _, _, _, _, ⟨_, _, _, _, _, _, _, _, _, _, _, _, _, _, _, _⟩, _, _, _, _, _, _, _, _, _, _, _, _⟩ := s
  simp only at h
  subst h
  rfl

/-- Going on within the code range, with no issue on its way. -/
theorem State.goto_place (s : State) (g pc dc : Nat) (h : pc < s.codeLen g) (ha : ∀ c < 8, s.onWay c = []) :
    s.goto g pc dc = (s.onCore fun c => { c with pc := pc, cycle := c.cycle + dc }).retire := by
  unfold State.goto
  have hn : ∀ t : State, t.walkers = s.walkers → t.arrive = t := fun t ht =>
    State.arrive_none t false fun c hc => by
      have := ha c hc
      unfold State.onWay State.walker at *
      rwa [ht]
  rw [hn ((s.onCore fun c => { c with pc := pc, cycle := c.cycle + dc }).retire) rfl]
  extract_lets t
  have : t.codeLen g = s.codeLen g := rfl
  rw [this, if_pos h]

end Sys2Proof.Machine
end

