-- ==== Sys2Proof/Laws/Memory.lean ====
section
/-! SUPPORT. Every operation on a memory keeps its canonical form: DRAM, the core's data memory, the walkers' buffers. -/

namespace Sys2Proof.Machine

open Sys2Proof

/-- The pool's memory is canonical. -/
def PoolWf (s : State) : Prop := Memory.wf s.pool.mem = true

theorem poolWf_of_mem {s t : State} (h : PoolWf s) (e : t.pool.mem = s.pool.mem) : PoolWf t := by
  unfold PoolWf at *; rw [e]; exact h

theorem above_filter {α : Type} (b : Nat) (m : List (Nat × α)) (f : Nat × α → Bool) (h : above b m) : above b (m.filter f) :=
  fun p hp => h p (List.mem_of_mem_filter hp)

/-- Dropping entries keeps the canonical form. -/
theorem mwf_filter {α : Type} [DecidableEq α] (d : α) (m : List (Nat × α)) (f : Nat × α → Bool) (h : mwf d m = true) :
    mwf d (m.filter f) = true := by
  induction m with
  | nil => rfl
  | cons p m ih =>
    obtain ⟨k, v⟩ := p
    obtain ⟨hv, ha, hm⟩ := (mwf_cons d k v m).1 h
    rw [List.filter_cons]
    split
    · exact (mwf_cons d k v _).2 ⟨hv, above_filter k m f ha, ih hm⟩
    · exact ih hm

theorem foldl_poolWf {β : Type} (f : State → β → State) (hf : ∀ s b, PoolWf s → PoolWf (f s b)) (l : List β) (s : State)
    (h : PoolWf s) : PoolWf (l.foldl f s) := by
  induction l generalizing s with
  | nil => exact h
  | cons b l ih => exact ih _ (hf s b h)

/-! The pool -/

theorem State.putMem_wf (s : State) (a : Nat) (bs : List Byte) (h : PoolWf s) : PoolWf (s.putMem a bs) :=
  mwf_writeCells _ _ _ h

theorem State.poke_wf (s : State) (p a : Nat) (b : Byte) (h : PoolWf s) : PoolWf (s.poke p a b) := by
  unfold State.poke
  split
  · split
    · exact h
    · exact mwf_mset 0 _ _ _ h
  · exact mwf_mset 0 _ _ _ h

theorem State.pokes_wf (s : State) (p : Nat) (l : List (Nat × Byte)) (h : PoolWf s) : PoolWf (s.pokes p l) := by
  induction l generalizing s with
  | nil => exact h
  | cons x l ih => exact ih _ (State.poke_wf s p x.1 x.2 h)

theorem State.store_wf (s : State) (a : Nat) (bs : List Byte) (h : PoolWf s) :
    PoolWf { s with pool := { s.pool with mem := writeCells s.pool.mem a bs } } := mwf_writeCells _ _ _ h

theorem State.putLine_wf (s : State) (line : Nat) (bs : List Byte) (h : PoolWf s) : PoolWf (s.putLine line bs) :=
  mwf_writeCells _ _ _ h

theorem State.writePages_wf (s : State) (x : Ctx) (p a : Nat) (bs : List Byte) (h : PoolWf s) :
    PoolWf (s.writePages x p a bs) := by
  unfold State.writePages
  refine foldl_poolWf _ (fun t b ht => ?_) _ _ h
  split
  · dsimp only
    split
    · exact State.poke_wf t p _ _ ht
    · exact ht
  · exact ht

theorem State.writeCtx_wf (s : State) (p c a : Nat) (bs : List Byte) (h : PoolWf s) : PoolWf (s.writeCtx p c a bs) := by
  unfold State.writeCtx
  split
  · exact h
  · split
    · exact State.writePages_wf _ _ _ _ _ h
    · exact h

theorem State.charge_wf (s : State) (p c n : Nat) (planned : Bool) (h : PoolWf s) : PoolWf (s.charge p c n planned) := h

theorem State.traceTo_wf (s : State) (v : Nat) (t : TraceRec) (h : PoolWf s) : PoolWf (s.traceTo v t) := by
  unfold State.traceTo
  split
  · exact h
  · split
    · exact h
    · extract_lets
      have k (n : State) (hn : PoolWf n) (a : Nat) (bs : List Byte) (j : Nat) :
          PoolWf (((n.writeCtx v v a bs).charge v v 1 false).bump64 j) :=
        poolWf_of_mem (State.writeCtx_wf n v v a bs hn) rfl
      split
      · refine k _ ?_ _ _ _
        exact h
      · exact h

theorem State.traceOut_wf (s : State) (t : TraceRec) (h : PoolWf s) : PoolWf (s.traceOut t) := by
  unfold State.traceOut
  split
  · exact State.traceTo_wf s 0 t h
  · exact State.traceTo_wf _ 0 t (State.traceTo_wf s _ t h)

theorem State.advanceFence_wf (s : State) (f : Fence) (v : Nat) (h : PoolWf s) : PoolWf (s.advanceFence f v).2.2 := by
  unfold State.advanceFence
  dsimp only
  split
  · exact h
  · split
    · exact State.traceOut_wf _ _ h
    · exact State.traceOut_wf _ _ (mwf_writeCells _ _ _ h)

theorem State.clearLine_wf (s : State) (zero : Bool) (line : Nat) (h : PoolWf s) : PoolWf (s.clearLine zero line) := by
  unfold State.clearLine
  split
  · exact h
  · extract_lets u p t
    have ht : PoolWf t := h
    have hp := State.putLine_wf t line (List.replicate 64 0) ht
    split
    · exact State.store_wf (t.putLine line (List.replicate 64 0)) _ _ hp
    · split
      · exact hp
      · exact ht

theorem State.zeroPages_wf (s : State) (ps : List Nat) (h : PoolWf s) : PoolWf (s.zeroPages ps) := mwf_filter 0 _ _ h

/-! The debug port, data memory and buffers -/

/-- A byte put into DRAM rewrites its block in plain, or the bytes at rest beside the pages in use (R278). -/
theorem State.putDram_wf (s : State) (a : Nat) (b : Byte) (h : PoolWf s) : PoolWf (s.putDram a b) := by
  unfold State.putDram
  split
  · exact State.putMem_wf _ _ _ h
  · exact h

theorem State.debugWrite_wf (s : State) (t : DebugTarget) (v : Nat) (h : PoolWf s) : PoolWf (s.debugWrite t v) := by
  cases t with
  | dram a =>
    unfold State.debugWrite
    dsimp only
    split
    · exact State.putDram_wf s a _ h
    · exact h
  | _ => exact h

theorem dataMemory_wf (old : List Host.Cell) (p : PlanImage) (changed : List Nat) (h : Memory.wf old = true) :
    Memory.wf (dataMemory old p changed) = true := by
  unfold dataMemory
  dsimp only
  generalize p.segs.filter (fun g => changed.contains g.hdr.segment) = l
  have h0 := mwf_filter 0 old (fun x => p.segs.any fun g =>
    !changed.contains g.hdr.segment && decide (g.dataBase ≤ x.1 ∧ x.1 < g.dataBase + g.dataLen)) h
  generalize old.filter _ = m at h0 ⊢
  induction l generalizing m with
  | nil => exact h0
  | cons g l ih => exact ih _ (mwf_writeCells _ _ _ h0)

theorem putBuf_wf (w : Walker) (a : Nat) (bs : List Byte) (valid : Bool) (h : Memory.wf w.buffer = true) :
    Memory.wf (putBuf w a bs valid).buffer = true := mwf_writeCells _ _ _ h

/-! Reset -/

theorem reset_pool_wf : PoolWf State.reset := rfl
theorem reset_dmem_wf : Memory.wf State.reset.core.dmem = true := rfl

end Sys2Proof.Machine
end

