-- ==== Sys2Proof/Laws/Pip.lean ====
section
/-! SUPPORT. What a pip engine's shared operations do: running one instruction, staging a result, going on. -/

namespace Sys2Proof.Machine

open Sys2Proof

theorem State.pip_onPip_self (s : State) (e : Nat) (f : Pip → Pip) (h : e < s.pips.length) : (s.onPip e f).pip e = f (s.pip e) :=
  getD_upd_self _ _ _ _ h

theorem State.pip_onPip_ne (s : State) (e e' : Nat) (f : Pip → Pip) (h : e' ≠ e) : (s.onPip e f).pip e' = s.pip e' :=
  getD_upd_ne _ _ _ _ _ (Ne.symm h)

theorem State.walker_onWalker_self (s : State) (c : Nat) (f : Walker → Walker) (h : c < s.walkers.length) :
    (s.onWalker c f).walker c = f (s.walker c) := getD_upd_self _ _ _ _ h

theorem State.walker_onWalker_ne (s : State) (c c' : Nat) (f : Walker → Walker) (h : c' ≠ c) :
    (s.onWalker c f).walker c' = s.walker c' := getD_upd_ne _ _ _ _ _ (Ne.symm h)

theorem upd_upd {α : Type} (l : List α) (i : Nat) (f g : α → α) : upd (upd l i f) i g = upd l i fun x => g (f x) := by
  induction l generalizing i with
  | nil => rfl
  | cons x xs ih => cases i with
    | zero => rfl
    | succ i => simp [upd, ih]

@[simp] theorem State.onPip_length (s : State) (e : Nat) (f : Pip → Pip) : (s.onPip e f).pips.length = s.pips.length :=
  length_upd _ _ _

/-- An element after a list element was set. -/
theorem getD_setAt {α : Type} (l : List α) (i j : Nat) (x d : α) (h : i < l.length) :
    (setAt l i x).getD j d = if j = i then x else l.getD j d := by
  by_cases e : j = i
  · subst e
    rw [if_pos rfl]
    exact getD_upd_self l j (fun _ => x) d h
  · rw [if_neg e]
    exact getD_upd_ne l i j (fun _ => x) d (Ne.symm e)

/-- One result under way when an engine goes on: it reaches its register when its cycle has come. -/
theorem State.pipGo_reg (s : State) (e : Nat) (pc : Int) (dc lat : Nat) (d : BitVec 4) (v : Word) (h : e < s.pips.length)
    (hl : (s.pip e).regs.length = 16) (hw : (s.pip e).writes = []) (r : BitVec 4) :
    ((s.pipWrite e lat d v).pipGo e pc dc).pipReg e r = if r ≠ 0 ∧ r = d ∧ lat ≤ dc then v else s.pipReg e r := by
  have hd : d.toNat < (s.pip e).regs.length := by rw [hl]; exact d.isLt
  have hr : (r.toNat = d.toNat) = (r = d) := propext ⟨fun x => BitVec.eq_of_toNat_eq x, fun x => by rw [x]⟩
  unfold State.pipGo State.pipRetire State.pipWrite State.pipReg
  by_cases h0 : r = 0
  · simp [h0]
  · simp only [h0, if_false, ne_eq, not_false_eq_true, true_and]
    generalize hp : (((s.onPip e fun p => { p with writes := sortBy (·.1) (p.writes ++ [(p.cycle + lat, d.toNat, v)]) }).onPip e
      fun p => { p with pc := pc.toNat, steps := p.steps + 1, cycle := p.cycle + dc })) = u
    have hu : u.pip e = { s.pip e with
        writes := [((s.pip e).cycle + lat, d.toNat, v)], pc := pc.toNat, steps := (s.pip e).steps + 1,
        cycle := (s.pip e).cycle + dc } := by
      rw [← hp, State.pip_onPip_self _ _ _ (by simpa using h), State.pip_onPip_self _ _ _ h, hw]
      rfl
    have hul : e < u.pips.length := by rw [← hp]; simpa using h
    show ((State.onPip u e _).pip e).regs.getD r.toNat 0 = _
    rw [State.pip_onPip_self _ _ _ hul, hu]
    by_cases hle : lat ≤ dc
    · have := getD_setAt (s.pip e).regs d.toNat r.toNat v 0 hd
      simp only [List.getD_eq_getElem?_getD, hr] at this
      simp [hle, List.filter]
      exact this
    · simp [hle, List.filter]

/-- The same with no result under way. -/
theorem State.pipGo_reg_nil (s : State) (e : Nat) (pc : Int) (dc : Nat) (h : e < s.pips.length) (hw : (s.pip e).writes = [])
    (r : BitVec 4) : (s.pipGo e pc dc).pipReg e r = s.pipReg e r := by
  unfold State.pipGo State.pipRetire State.pipReg
  generalize hp : (s.onPip e fun p => { p with pc := pc.toNat, steps := p.steps + 1, cycle := p.cycle + dc }) = u
  have hu : u.pip e = { s.pip e with pc := pc.toNat, steps := (s.pip e).steps + 1, cycle := (s.pip e).cycle + dc } := by
    rw [← hp, State.pip_onPip_self _ _ _ h]
  have hul : e < u.pips.length := by rw [← hp]; simpa using h
  split
  · rfl
  · show ((State.onPip u e _).pip e).regs.getD r.toNat 0 = _
    rw [State.pip_onPip_self _ _ _ hul, hu]
    simp [hw]

/-- Going on: the instruction counts, and everything outside the engine but the count of free values is unchanged. -/
theorem State.pipGo_place (s : State) (e : Nat) (pc : Int) (dc : Nat) (h : e < s.pips.length) :
    ((s.pipGo e pc dc).pip e).pc = pc.toNat ∧ ((s.pipGo e pc dc).pip e).steps = (s.pip e).steps + 1 ∧
      ((s.pipGo e pc dc).pip e).cycle = (s.pip e).cycle + dc ∧
      ((s.pipGo e pc dc).pip e).running = (s.pip e).running ∧ ((s.pipGo e pc dc).pip e).data = (s.pip e).data ∧
      ((s.pipGo e pc dc).pip e).held = (s.pip e).held ∧ (∀ e', e' ≠ e → (s.pipGo e pc dc).pip e' = s.pip e') ∧
      s.pipGo e pc dc = { s with pips := (s.pipGo e pc dc).pips, free := (s.pipGo e pc dc).free } := by
  unfold State.pipGo State.pipRetire
  generalize hp : (s.onPip e fun p => { p with pc := pc.toNat, steps := p.steps + 1, cycle := p.cycle + dc }) = u
  have hu : u.pip e = { s.pip e with pc := pc.toNat, steps := (s.pip e).steps + 1, cycle := (s.pip e).cycle + dc } := by
    rw [← hp, State.pip_onPip_self _ _ _ h]
  have hul : e < u.pips.length := by rw [← hp]; simpa using h
  have key : ∀ (f : Pip → Pip) (n : Nat), ({ u.onPip e f with free := n } : State).pip e = f (u.pip e) := fun f n =>
    State.pip_onPip_self u e f hul
  refine ⟨?_, ?_, ?_, ?_, ?_, ?_, ?_, ?_⟩
  · rw [key, hu]
  · rw [key, hu]
  · rw [key, hu]
  · rw [key, hu]
  · rw [key, hu]
  · rw [key, hu]
  · intro e' he'
    refine (State.pip_onPip_ne u e e' _ he').trans ?_
    rw [← hp]
    exact State.pip_onPip_ne s e e' _ he'
  · rw [← hp]
    rfl

end Sys2Proof.Machine
end

