-- ==== Sys2Proof/WellFormed.lean ====
section
/-! DEFINITION. Which commands are well formed: the units, parties and fields that an operand names exist
(Tables SCOPE-1, SCOPE-6; R205, R260). -/

namespace Sys2Proof

/-- A requester is one of 16 parties on one of five ports, with a 32-bit sequence (R205, R219). -/
def Req.ok (r : Req) : Bool := decide (r.party < 16) && decide (r.port < 5) && decide (r.seq < 4294967296)

/-- The fields of a pool request keep to their widths (Table POOL-3). -/
def PoolReq.ok (x : PoolReq) : Bool :=
  decide (x.ctx < 65536) && decide (x.flags < 256) && decide (x.opFlags < 65536) && decide (x.count < 4294967296) &&
    decide (x.addr < 18446744073709551616) && decide (x.handle < 18446744073709551616) &&
    decide (x.args.length ≤ 4096)

/-- A frame arrives on one of the four wired ports, with a 2-bit association number and a 32-bit packet number (Table SCOPE-6,
R208). -/
def RxFrame.ok (x : RxFrame) : Bool :=
  decide (x.port < 4) && decide (x.an < 4) && decide (x.pn < 4294967296) && decide (x.msg.length ≤ 4116)

/-- What a debugger names exists: engines, the bundles and data memory of the core, sensors (Tables SCOPE-6, CORE-1). -/
def DebugTarget.ok : DebugTarget → Bool
  | .bundle n => decide (n < 8192)
  | .coreData a => decide (a < 65536)
  | .sensor i => decide (i < 16)
  | .engine n => decide (n < 23)
  | .buffer c a => decide (c < 8) && decide (a < 1048576)
  | .control unit _ => decide (unit < 65536)
  | .service => true
  | .trim _ => true
  | .faultLog _ => true
  | .traceStream => true
  | .dram _ => true
  | .otherMemory _ => true
  | .keyStore _ => true

/-- A debugger writes words of 64 bits. -/
def DebugOp.ok : DebugOp → Bool
  | .write v => decide (v < 18446744073709551616)
  | .read => true
  | .halt => true
  | .resume => true

/-- A command names only units, parties and fields that exist. -/
def Instr.wellFormed : Instr → Bool
  | .tick => true
  | .ptpTick => true
  | .syncInEdge _ _ _ => true
  | .syncMiss => true
  | .angleLag => true
  | .angleStall => true
  | .windowClear => true
  | .segmentEntry => true
  | .windowEnd => true
  | .timingFault seg => decide (seg < 16)
  | .publish => true
  | .keep _ => true
  | .keepPartySlot p => decide (p < 16)
  | .rotationSlice _ _ _ => true
  | .bistSlice _ _ => true
  | .framePeriodWrite r v => r.ok && decide (v < 18446744073709551616)
  | .intakeLengthWrite r v => r.ok && decide (v < 18446744073709551616)
  | .timingClear r v => r.ok && decide (v < 18446744073709551616)
  | .fetchSlot c _ => decide (c < 8)
  | .fetchDelivered c => decide (c < 8)
  | .programComplete _ _ => true
  | .swapDue c => decide (c < 8)
  | .rotationIntervalWrite r v => r.ok && decide (v < 18446744073709551616)
  | .rotateNow r c v => r.ok && decide (c < 8) && decide (v < 18446744073709551616)
  | .calibrateNow r pod v => r.ok && decide (pod < 40) && decide (v < 18446744073709551616)
  | .driftRatio pod => decide (pod < 40)
  | .afeCalDue i => decide (i < 16)
  | .afeCalibrateNow r i v => r.ok && decide (i < 16) && decide (v < 18446744073709551616)
  | .afeCalStep _ _ => true
  | .afeCalEnd _ _ => true
  | .referenceMeasure u _ => decide (u < 11)
  | .oscillatorTrim _ => true
  | .compensationEval => true
  | .trimRestore r unit data => r.ok && decide (unit < 65536) && decide (data.length ≤ 16777216)
  | .instructionStart c => decide (c < 8)
  | .tileCommit c _ => decide (c < 8)
  | .tileComplete c _ => decide (c < 8)
  | .macroInstructionComplete c => decide (c < 8)
  | .jobPause r j => r.ok && decide (j < 16)
  | .jobResume r j => r.ok && decide (j < 16)
  | .nop _ => true
  | .add _ _ => true
  | .sub _ _ => true
  | .and _ _ => true
  | .or _ _ => true
  | .xor _ _ => true
  | .shl _ _ => true
  | .shr _ _ => true
  | .sar _ _ => true
  | .slt _ _ => true
  | .sltu _ _ => true
  | .min _ _ => true
  | .max _ _ => true
  | .addi _ _ => true
  | .andi _ _ => true
  | .ori _ _ => true
  | .shli _ _ => true
  | .shri _ _ => true
  | .sari _ _ => true
  | .slti _ _ => true
  | .movi _ _ => true
  | .movhi _ _ => true
  | .ldw _ _ => true
  | .ldhu _ _ => true
  | .ldbu _ _ => true
  | .stw _ _ => true
  | .sth _ _ => true
  | .stb _ _ => true
  | .mul _ _ => true
  | .mulh _ _ => true
  | .mulhu _ _ => true
  | .issue _ _ => true
  | .issuei _ _ => true
  | .fadv _ _ => true
  | .fadvf _ _ => true
  | .fenceAdvancePerformed => true
  | .hset _ _ => true
  | .hseti _ _ => true
  | .hadd _ _ => true
  | .hget _ _ => true
  | .lset _ _ => true
  | .lseti _ _ => true
  | .lget _ _ => true
  | .stat _ _ => true
  | .bstb _ _ => true
  | .bsth _ _ => true
  | .br _ _ => true
  | .beq _ _ => true
  | .bne _ _ => true
  | .blt _ _ => true
  | .bge _ _ => true
  | .call _ _ => true
  | .jr _ _ => true
  | .endw _ _ => true
  | .waitto _ _ => true
  | .waitc _ _ => true
  | .waitf _ _ => true
  | .waitEnd => true
  | .illegalOp (.core _) op => decide (op < 256)
  | .illegalOp (.pip e) op => decide (e < 14) && decide (op < 64)
  | .pipNop e _ => decide (e < 14)
  | .pipAdd e _ => decide (e < 14)
  | .pipSub e _ => decide (e < 14)
  | .pipAnd e _ => decide (e < 14)
  | .pipOr e _ => decide (e < 14)
  | .pipXor e _ => decide (e < 14)
  | .pipShl e _ => decide (e < 14)
  | .pipShr e _ => decide (e < 14)
  | .pipSar e _ => decide (e < 14)
  | .pipMul e _ => decide (e < 14)
  | .pipMin e _ => decide (e < 14)
  | .pipMax e _ => decide (e < 14)
  | .pipSlt e _ => decide (e < 14)
  | .pipAddi e _ => decide (e < 14)
  | .pipAndi e _ => decide (e < 14)
  | .pipOri e _ => decide (e < 14)
  | .pipShli e _ => decide (e < 14)
  | .pipShri e _ => decide (e < 14)
  | .pipSari e _ => decide (e < 14)
  | .lui e _ => decide (e < 14)
  | .pipLdw e _ => decide (e < 14)
  | .ldh e _ => decide (e < 14)
  | .ldb e _ => decide (e < 14)
  | .pipStw e _ => decide (e < 14)
  | .pipSth e _ => decide (e < 14)
  | .pipStb e _ => decide (e < 14)
  | .pipBeq e _ => decide (e < 14)
  | .pipBne e _ => decide (e < 14)
  | .pipBlt e _ => decide (e < 14)
  | .pipBge e _ => decide (e < 14)
  | .dbnz e _ => decide (e < 14)
  | .halt e _ => decide (e < 14)
  | .stepLimit e => decide (e < 14)
  | .timeLimit e => decide (e < 14)
  | .lift c => decide (c < 8)
  | .liftEnd c _ => decide (c < 8)
  | .setDownCheck c _ => decide (c < 8)
  | .loadRequest r ctx addr => r.ok && decide (ctx < 65536) && decide (addr < 18446744073709551616)
  | .verificationComplete aux => aux.all fun x => decide (x.1 < 16)
  | .abort r v => r.ok && decide (v < 18446744073709551616)
  | .unload r v => r.ok && decide (v < 18446744073709551616)
  | .updateRequest r ctx addr => r.ok && decide (ctx < 65536) && decide (addr < 18446744073709551616)
  | .consolidate r v => r.ok && decide (v < 18446744073709551616)
  | .sampleReady ch _ _ _ _ => decide (ch < 18)
  | .overloadStart ch _ => decide (ch < 18)
  | .overloadEnd ch => decide (ch < 18)
  | .biasStateChange ch _ _ => decide (ch < 18)
  | .qEdge q _ _ => decide (q < 2)
  | .channelConfigWrite r ch x_sub v => r.ok && decide (ch < 18) && decide (x_sub < 256) && decide (v < 18446744073709551616)
  | .intakeJob seg job => decide (seg < 16) && decide (job < 128)
  | .frameReceived x => x.ok
  | .classifierRun => true
  | .classifierImageWrite r data => r.ok && decide (data.length ≤ 16777216)
  | .bindingWrite r p x_sub v => r.ok && decide (p < 16) && decide (x_sub < 256) && decide (v < 18446744073709551616)
  | .plcaInactive => true
  | .beacon => true
  | .jabber port => decide (port < 5)
  | .linkChange port st => decide (port < 5) && decide (st < 5)
  | .portClear r u v => r.ok && decide (u < 8) && decide (v < 18446744073709551616)
  | .sync src gm _ _ _ => decide (src < 281474976710656) && decide (gm < 18446744073709551616)
  | .syncLoss => true
  | .odRead r index x_sub offset => r.ok && decide (index < 65536) && decide (x_sub < 256) && decide (offset < 4294967296)
  | .odWrite r index x_sub offset data => r.ok && decide (index < 65536) && decide (x_sub < 256) && decide (offset < 4294967296) && decide (data.length ≤ 16777216)
  | .ack p seq => decide (p < 16) && decide (seq < 4294967296)
  | .hello r ip udp => r.ok && decide (ip < 340282366920938463463374607431768211456) && decide (udp < 65536)
  | .echo r data => r.ok && decide (data.length ≤ 16777216)
  | .discover port => decide (port < 5)
  | .bye r => r.ok
  | .eventResend p => decide (p < 16)
  | .usdoUpload node index x_sub service =>
    decide (node < 128) && decide (index < 65536) && decide (x_sub < 256) && decide (service < 256)
  | .usdoDownload node index x_sub _ _ data => decide (node < 128) && decide (index < 65536) && decide (x_sub < 256) && decide (data.length ≤ 16777216)
  | .usdoTimeout node => decide (node < 128)
  | .nmtCommand => true
  | .heartbeat => true
  | .snapshotExpiry p => decide (p < 16)
  | .stagingExpiry p => decide (p < 16)
  | .vaultCommit => true
  | .restoreDefaults r v => r.ok && decide (v < 18446744073709551616)
  | .disagree index x_sub => decide (index < 65536) && decide (x_sub < 256)
  | .clearLog r v => r.ok && decide (v < 18446744073709551616)
  | .roleWrite r p v => r.ok && decide (p < 16) && decide (v < 18446744073709551616)
  | .allotmentWrite r p x_sub v data => r.ok && decide (p < 16) && decide (x_sub < 256) && decide (v < 18446744073709551616) && decide (data.length ≤ 16777216)
  | .revoke r p v => r.ok && decide (p < 16) && decide (v < 18446744073709551616)
  | .residencyTimeout p => decide (p < 16)
  | .cmdNop c q => decide (c < 65536) && decide (q < 16)
  | .ctxCreate c q => decide (c < 65536) && decide (q < 16)
  | .ctxDestroy c q => decide (c < 65536) && decide (q < 16)
  | .map c q => decide (c < 65536) && decide (q < 16)
  | .unmap c q => decide (c < 65536) && decide (q < 16)
  | .queueCreate c q => decide (c < 65536) && decide (q < 16)
  | .queueDestroy c q => decide (c < 65536) && decide (q < 16)
  | .fenceCreate c q => decide (c < 65536) && decide (q < 16)
  | .fenceAdvance c q => decide (c < 65536) && decide (q < 16)
  | .fenceWait c q => decide (c < 65536) && decide (q < 16)
  | .fenceWaitComplete c q => decide (c < 65536) && decide (q < 16)
  | .fenceExport c q => decide (c < 65536) && decide (q < 16)
  | .fenceRevoke c q => decide (c < 65536) && decide (q < 16)
  | .fenceDestroy c q => decide (c < 65536) && decide (q < 16)
  | .jobStart c q => decide (c < 65536) && decide (q < 16)
  | .jobCancel c q => decide (c < 65536) && decide (q < 16)
  | .mirrorTableWrite r data => r.ok && decide (data.length ≤ 16777216)
  | .mirrorPoll m _ value => decide (m < 32) && decide (value < 18446744073709551616)
  | .poolRead r x _ => r.ok && x.ok
  | .poolWrite r x => r.ok && x.ok
  | .hold r x => r.ok && x.ok
  | .renew r x => r.ok && x.ok
  | .release r x => r.ok && x.ok
  | .clear r x => r.ok && x.ok
  | .fadd r x => r.ok && x.ok
  | .cas r x => r.ok && x.ok
  | .poolMax r x => r.ok && x.ok
  | .poolFenceAdvance r x => r.ok && x.ok
  | .fenceRead r x => r.ok && x.ok
  | .fill r x => r.ok && x.ok
  | .copy r x => r.ok && x.ok
  | .compare r x => r.ok && x.ok
  | .reduce r x => r.ok && x.ok
  | .grant r x => r.ok && x.ok
  | .ungrant r x => r.ok && x.ok
  | .leaseExpiry => true
  | .winnowRead _ => true
  | .podFence pod => decide (pod < 40)
  | .podServiceWrite r pod v => r.ok && decide (pod < 40) && decide (v < 18446744073709551616)
  | .podClear r pod v => r.ok && decide (pod < 40) && decide (v < 18446744073709551616)
  | .domainEnableWrite r d v => r.ok && decide (d < 5) && decide (v < 18446744073709551616)
  | .domainPowerUp d => decide (d < 5)
  | .clusterEnableWrite r c v => r.ok && decide (c < 8) && decide (v < 18446744073709551616)
  | .powerStateWrite r v => r.ok && decide (v < 18446744073709551616)
  | .sensorReading _ _ => true
  | .sensorOutOfService i => decide (i < 16)
  | .clusterGated => true
  | .clusterClear r c v => r.ok && decide (c < 8) && decide (v < 18446744073709551616)
  | .orderly => true
  | .safeEntry => true
  | .coolDown => true
  | .hard sensor _ => decide (sensor < 17)
  | .hardRestart => true
  | .storeSample _ _ => true
  | .energyEvaluation => true
  | .chargeTermination => true
  | .chargerRestart => true
  | .chargeTimeout => true
  | .restReference => true
  | .referencePulse => true
  | .referencePulseEnd _ _ _ _ => true
  | .fallback => true
  | .inputLost => true
  | .flushComplete => true
  | .keepRegionDone => true
  | .inputRestored => true
  | .holdStop => true
  | .keepRegionsWrite r data => r.ok && decide (data.length ≤ 16777216)
  | .holdUpPipImageWrite r data => r.ok && decide (data.length ≤ 16777216)
  | .planKeyInstall r data => r.ok && decide (data.length ≤ 16777216)
  | .sakInstall r data _ => r.ok && decide (data.length ≤ 16777216)
  | .poolKeyInstall r v => r.ok && decide (v < 18446744073709551616)
  | .firmwareImage r data _ => r.ok && decide (data.length ≤ 16777216)
  | .activateSlot r v => r.ok && decide (v < 18446744073709551616)
  | .lifecycleRequest r data _ => r.ok && decide (data.length ≤ 16777216)
  | .debugChallenge r => r.ok
  | .debugResponse r data _ => r.ok && decide (data.length ≤ 16777216)
  | .debugClose r v => r.ok && decide (v < 18446744073709551616)
  | .debugExpiry => true
  | .scrubStageEnd _ => true
  | .powerOn => true
  | .sproutStageEnd _ => true
  | .railTimeout rail => decide (rail < 7)
  | .railRetry => true
  | .nrst _ => true
  | .warmReset => true
  | .crystalStop => true
  | .vaultSave => true
  | .testDue unit => decide (unit < 65536)
  | .startTest r v => r.ok && decide (v < 18446744073709551616)
  | .clusterTestStepEnd c _ _ _ => decide (c < 8)
  | .testOverdue unit => decide (unit < 65536)
  | .traceConfigWrite r p x_sub v => r.ok && decide (p < 16) && decide (x_sub < 256) && decide (v < 18446744073709551616)
  | .status => true
  | .put _ bytes => decide (bytes.length ≤ 16777216)
  | .get _ => true
  | .reset _ _ => true
  | .badOp _ => true
  | .mailboxTake => true
  | .huskSupplyLoss => true
  | .receiveJabber => true
  | .nrstRelease => true
  | .attentionPulseEnd => true
  | .debugPortAccess target op => target.ok && op.ok
  | .firmwareSlotWritten => true

end Sys2Proof
end

