-- ==== Sys2Proof/Tests/Slice0.lean ====
section
/-! SUPPORT. Small checks of the model: a term that each check of well-formedness refuses, states that meet the hypotheses
of the statements, clause by clause, and single commands whose result the spec's text gives. -/

namespace Sys2Proof.Tests

open Sys2Proof Sys2Proof.Machine

set_option Elab.async false

/-! ## Small states -/

/-- The machine after reset with an empty register file. -/
def bare : State := { State.reset with od := [], frame := Frame.reset }

def hdr0 : ImgHdr := ⟨0, 0, 1, 0, 0, 0, 0, 0, 0, 0, 0, 0, true, true, 0, [], []⟩

/-- A segment image of party 1: 64 bundles, 64 bytes of data memory from 0x100, one own fence. -/
def img0 : SegImage :=
  { hdr := hdr0, hash := 0, party := 1, entries := [some (0, 1000)], codeBase := 0, codeLen := 64, dataBase := 0x100,
    code := [], dataLen := 64, data := [], descFirst := 0, descCount := 4, descs := [], objs := [], side := [], chains := [],
    banks := [], pips := [], intakeImages := [], jobs := [], fences := [⟨1, 0x40⟩], streams := [], advances := [], secs := [] }

def rec0 : SegRec := ⟨0, 1, 0, true, 0, 1, [some 1000], 0, 0, 0, 0⟩

def comp0 : Composition := ⟨hdr0, 0, 125, 10, 10, 0, [rec0], []⟩

/-- Twelve bytes of a pod allotment: slot 0 of cluster 0. -/
def allot0 : List Byte := [0, 0, 0, 0, 0, 0, 0, 4, 0, 0, 0, 4]

/-- A state in RUN in which frames run: window 0 of segment 0 has begun. -/
def run0 : State :=
  { bare with
    husk := { bare.husk with power := .run, now := 1030000, hrdy := true, dramOk := true },
    frame := { bare.frame with
                running := true, start := 1000000, phase := .window 0,
                live := [(0x380105, 100), (0x380106, 100), (0x380107, 1000), (0x4C0000, 250), (0x4C0700, 20)] },
    loader := { bare.loader with plan := some ⟨comp0, [img0]⟩ },
    dict := { bare.dict with domsLive := [(0x380103, allot0)] } }

/-- Context 1 of party 1: pages 0 to 2 at physical pages 1 to 3. -/
def ctx1 : Ctx :=
  { num := 1, party := 1, revoking := false, pages := [(0, 1, true), (1, 2, true), (2, 3, false)], queues := [],
    resident := true, lastUse := 0, waits := 0, usage := [], created := 0 }

/-! ## The control core -/

/-- Segment 0's code runs; g1 = 8, g2 = 5, g3 = −3. -/
def core0 : State :=
  { run0 with core := { run0.core with
                        seg := some 0, entry := 1022000,
                        regs := [0, 8, 5, 0xFFFFFFFD] ++ List.replicate 60 0 } }

/-! ## Ill-formed commands, which the check refuses -/

def goodR : Req := ⟨0, 4, 1⟩
def badR : Req := ⟨16, 4, 1⟩
/-- One beyond the largest value of a parameter. -/
def badV : Nat := 18446744073709551616
def goodP : PoolReq := ⟨1, 0, 0, 1, 0, 0, []⟩

theorem wf_requester :
    goodR.ok = true ∧ badR.ok = false ∧ (⟨0, 5, 1⟩ : Req).ok = false ∧ (⟨0, 4, 4294967296⟩ : Req).ok = false := by decide +kernel

theorem wf_pool_request :
    goodP.ok = true ∧ { goodP with ctx := 65536 }.ok = false ∧ { goodP with flags := 256 }.ok = false ∧
      { goodP with opFlags := 65536 }.ok = false ∧ { goodP with count := 4294967296 }.ok = false ∧
      { goodP with addr := badV }.ok = false ∧ { goodP with handle := badV }.ok = false ∧
      { goodP with args := List.replicate 4097 0 }.ok = false := by decide +kernel

def rx0 : RxFrame := ⟨0, true, 0, true, 0, 0, true, 0, .maelelo, true, []⟩

theorem wf_frames_and_debugger :
    rx0.ok = true ∧ { rx0 with port := 4 }.ok = false ∧ { rx0 with an := 4 }.ok = false ∧
      { rx0 with pn := 4294967296 }.ok = false ∧ { rx0 with msg := List.replicate 4117 0 }.ok = false ∧
      (∀ x ∈ ([.bundle 8192, .coreData 65536, .sensor 16, .engine 23, .buffer 8 0, .buffer 0 1048576, .control 65536 0] :
        List DebugTarget), x.ok = false) ∧ (DebugOp.write badV).ok = false ∧
      (Instr.frameReceived { rx0 with port := 4 }).wellFormed = false ∧
      (Instr.debugPortAccess (.bundle 8192) .read).wellFormed = false ∧
      (Instr.debugPortAccess .service (.write badV)).wellFormed = false := by decide +kernel

/-- Requests whose one operand is a value. -/
theorem wf_value_orders : ∀ f ∈ (
  [.framePeriodWrite, .intakeLengthWrite, .timingClear, .rotationIntervalWrite, .abort, .unload, .consolidate,
   .restoreDefaults, .clearLog, .powerStateWrite, .poolKeyInstall, .activateSlot, .debugClose, .startTest] :
    List (Req → Nat → Instr)), (f goodR 0).wellFormed = true ∧ (f badR 0).wellFormed = false ∧
    (f goodR badV).wellFormed = false := by decide +kernel

/-- Requests on a unit, with the number of such units. -/
theorem wf_unit_orders : ∀ x ∈ (
  [(.rotateNow, 8), (.calibrateNow, 40), (.afeCalibrateNow, 16), (.portClear, 8), (.roleWrite, 16), (.revoke, 16),
   (.podServiceWrite, 40), (.podClear, 40), (.domainEnableWrite, 5), (.clusterEnableWrite, 8), (.clusterClear, 8)] :
    List ((Req → Nat → Nat → Instr) × Nat)), (x.1 goodR (x.2 - 1) 0).wellFormed = true ∧ (x.1 badR 0 0).wellFormed = false ∧
    (x.1 goodR x.2 0).wellFormed = false ∧ (x.1 goodR 0 badV).wellFormed = false := by decide +kernel

/-- Requests on a subindex of a unit. -/
theorem wf_sub_orders : ∀ x ∈ (
  [(.channelConfigWrite, 18), (.bindingWrite, 16), (.traceConfigWrite, 16), (fun r p sub v => .allotmentWrite r p sub v [], 16)] :
    List ((Req → Nat → Nat → Nat → Instr) × Nat)), (x.1 goodR (x.2 - 1) 255 0).wellFormed = true ∧
    (x.1 badR 0 0 0).wellFormed = false ∧
    (x.1 goodR x.2 0 0).wellFormed = false ∧ (x.1 goodR 0 256 0).wellFormed = false ∧
    (x.1 goodR 0 0 badV).wellFormed = false := by decide +kernel

def aux0 : SegAux := ⟨0, 0, 0, 0, [], [], [], [], [], [], 0⟩

/-! Events of a numbered unit, with the number of such units. -/

theorem wf_device_events : ∀ x ∈ (
  [(.timingFault, 16), (.keepPartySlot, 16), ((Instr.illegalOp (.core .a)), 256), ((Instr.illegalOp (.pip 0)), 64),
   ((fun n => Instr.illegalOp (.pip n) 0), 14), ((Instr.fetchSlot · []), 8), (.fetchDelivered, 8),
   (.swapDue, 8), (.driftRatio, 40), (.afeCalDue, 16), ((Instr.referenceMeasure · []), 11),
   (.instructionStart, 8), ((Instr.tileCommit · .clean), 8), ((Instr.tileComplete · []), 8), (.macroInstructionComplete, 8),
   (.jobPause goodR, 16), (.jobResume goodR, 16), (.stepLimit, 14), (.timeLimit, 14), (.lift, 8),
   ((Instr.liftEnd · []), 8), ((Instr.setDownCheck · []), 8), ((fun n => Instr.verificationComplete [(n, aux0)]), 16), ((Instr.sampleReady · 0 0 false false), 18), ((Instr.overloadStart · true), 18),
   (.overloadEnd, 18), ((Instr.biasStateChange · [] 0), 18), ((Instr.qEdge · true true), 2), ((Instr.intakeJob · 0), 16),
   (.intakeJob 0, 128)] :
    List ((Nat → Instr) × Nat)), (x.1 (x.2 - 1)).wellFormed = true ∧ (x.1 x.2).wellFormed = false := by
  decide +kernel

theorem wf_network_events : ∀ x ∈ (
  [(.jabber, 5), ((Instr.linkChange · 1), 5), (.linkChange 0, 5), ((Instr.sync · 0 0 0 (0, 0, 0, 0)), 281474976710656), ((Instr.sync 0 · 0 0 (0, 0, 0, 0)), badV), ((Instr.ack · 1), 16), (.ack 0, 4294967296),
   ((Instr.hello goodR · 0), 340282366920938463463374607431768211456), (.hello goodR 0, 65536), (.discover, 5), (.eventResend, 16),
   (.usdoTimeout, 128), ((Instr.usdoUpload · 0 0 0), 128), ((Instr.usdoUpload 0 · 0 0), 65536), ((Instr.usdoUpload 0 0 · 0), 256),
   ((Instr.usdoDownload · 0 0 true true []), 128), ((Instr.usdoDownload 0 · 0 true true []), 65536), ((Instr.usdoDownload 0 0 · true true []), 256),
   (.snapshotExpiry, 16), (.stagingExpiry, 16), ((Instr.disagree · 0), 65536), (.disagree 0, 256), (.residencyTimeout, 16),
   ((Instr.mirrorPoll · none 0), 32), (.mirrorPoll 0 none, badV), (.podFence, 40), (.domainPowerUp, 5), (.sensorOutOfService, 16),
   ((Instr.hard · 0), 17), (.railTimeout, 7), (.testDue, 65536), ((Instr.clusterTestStepEnd · 0 true 0), 8), (.testOverdue, 65536)] :
    List ((Nat → Instr) × Nat)), (x.1 (x.2 - 1)).wellFormed = true ∧ (x.1 x.2).wellFormed = false := by
  decide +kernel

theorem wf_access_events : ∀ x ∈ (
  [((Instr.odRead goodR · 0 0), 65536), ((Instr.odRead goodR 0 · 0), 256), (.odRead goodR 0 0, 4294967296), ((Instr.odWrite goodR · 0 0 []), 65536),
   ((Instr.odWrite goodR 0 · 0 []), 256), ((Instr.odWrite goodR 0 0 · []), 4294967296), ((Instr.trimRestore goodR · []), 65536)] :
    List ((Nat → Instr) × Nat)), (x.1 (x.2 - 1)).wellFormed = true ∧ (x.1 x.2).wellFormed = false := by
  decide +kernel

/-- Pip instructions name one of 14 engines. -/
theorem wf_pip_rows : ∀ f ∈ (
  [.pipNop, .pipAdd, .pipSub, .pipAnd, .pipOr, .pipXor, .pipShl, .pipShr, .pipSar, .pipMul, .pipMin, .pipMax, .pipSlt,
   .pipAddi, .pipAndi, .pipOri, .pipShli, .pipShri, .pipSari, .lui, .pipLdw, .ldh, .ldb, .pipStw, .pipSth, .pipStb,
   .pipBeq, .pipBne, .pipBlt, .pipBge, .dbnz, .halt] :
    List (Nat → PipFields → Instr)), (f 13 ⟨0, 0, 0, 0⟩).wellFormed = true ∧ (f 14 ⟨0, 0, 0, 0⟩).wellFormed = false := by
  decide +kernel

/-- Queue commands name a context and one of its 16 queues. -/
theorem wf_queue_rows : ∀ f ∈ (
  [.cmdNop, .ctxCreate, .ctxDestroy, .map, .unmap, .queueCreate, .queueDestroy, .fenceCreate, .fenceAdvance, .fenceWait,
   .fenceWaitComplete, .fenceExport, .fenceRevoke, .fenceDestroy, .jobStart, .jobCancel] :
    List (Nat → Nat → Instr)), (f 65535 15).wellFormed = true ∧ (f 65536 0).wellFormed = false ∧
    (f 0 16).wellFormed = false := by decide +kernel

theorem wf_pool_rows : ∀ f ∈ (
  [(Instr.poolRead · · .clean), .poolWrite, .hold, .renew, .release, .clear, .fadd, .cas, .poolMax, .poolFenceAdvance, .fenceRead,
   .fill, .copy, .compare, .reduce, .grant, .ungrant] :
    List (Req → PoolReq → Instr)), (f goodR goodP).wellFormed = true ∧ (f badR goodP).wellFormed = false ∧
    (f goodR { goodP with ctx := 65536 }).wellFormed = false := by decide +kernel

/-- Requests that carry an image or bytes. -/
theorem wf_byte_orders : (∀ f ∈ (
  [(Instr.loadRequest · 0 0), (Instr.updateRequest · 0 0), (Instr.trimRestore · 0 []),
   (Instr.jobPause · 0), (Instr.jobResume · 0), (Instr.classifierImageWrite · []), (Instr.odRead · 0 0 0),
   (Instr.odWrite · 0 0 0 []), (Instr.hello · 0 0), (Instr.echo · []), .bye, (Instr.mirrorTableWrite · []), (Instr.keepRegionsWrite · []),
   (Instr.holdUpPipImageWrite · []), (Instr.planKeyInstall · []), (Instr.sakInstall · [] true),
   (Instr.firmwareImage · [] true), (Instr.lifecycleRequest · [] true), .debugChallenge, (Instr.debugResponse · [] true)] :
    List (Req → Instr)), (f goodR).wellFormed = true ∧ (f badR).wellFormed = false) ∧
    (Instr.loadRequest goodR 65536 0).wellFormed = false ∧ (Instr.loadRequest goodR 0 badV).wellFormed = false ∧
    (Instr.updateRequest goodR 65536 0).wellFormed = false ∧
    (Instr.updateRequest goodR 0 badV).wellFormed = false := by decide +kernel

/-- One byte more than a DOMAIN of 16 MiB holds. -/
theorem wf_long_data (data : List Byte) (h : data.length = 16777217) :
    (Instr.trimRestore goodR 0 data).wellFormed = false ∧ (Instr.odWrite goodR 0 0 0 data).wellFormed = false ∧
      (Instr.echo goodR data).wellFormed = false ∧ (Instr.firmwareImage goodR data true).wellFormed = false ∧
      (Instr.usdoDownload 0 0 0 true true data).wellFormed = false ∧
      (Instr.allotmentWrite goodR 0 0 0 data).wellFormed = false ∧ (Instr.mirrorTableWrite goodR data).wellFormed = false ∧
      (Instr.keepRegionsWrite goodR data).wellFormed = false ∧ (Instr.planKeyInstall goodR data).wellFormed = false ∧
      (Instr.sakInstall goodR data true).wellFormed = false ∧ (Instr.lifecycleRequest goodR data true).wellFormed = false ∧
      (Instr.debugResponse goodR data true).wellFormed = false ∧ (Instr.put 0 data).wellFormed = false ∧
      (Instr.classifierImageWrite goodR data).wellFormed = false ∧ (Instr.holdUpPipImageWrite goodR data).wellFormed = false := by
  simp [Instr.wellFormed, h]

/-- Operand fields of the slots: A and B (rd, ra, the low 28 bits), M, V, K. -/
def fAB (rd ra low : Nat) : BitVec 40 := BitVec.ofNat 40 (rd * 2 ^ 34 + ra * 2 ^ 28 + low)
def fM (h n f g : Nat) : BitVec 56 := BitVec.ofNat 56 (h * 2 ^ 52 + n * 2 ^ 41 + f * 2 ^ 37 + g * 2 ^ 31)
def fV (g n mask imm : Nat) : BitVec 48 := BitVec.ofNat 48 (g * 2 ^ 42 + n * 2 ^ 38 + mask * 2 ^ 30 + imm)
def fK (ga gb f imm : Nat) : BitVec 32 := BitVec.ofNat 32 (ga * 2 ^ 26 + gb * 2 ^ 20 + f * 2 ^ 16 + imm)

/-- core0 at its last bundle but one, and with other fields. -/
def coreAt (pc : Nat) : State := core0.onCore fun c => { c with pc := pc }

/-- Fence 3 of party 1 in context 1, with the value 5. -/
def fence0 : Fence := ⟨3, 1, 1, 1, 0x40, 0x1040, 5, [], false⟩
def coreF : State := { core0 with pool := { core0.pool with fences := [fence0], ctxs := [ctx1] } }
def coreAdv : State := coreF.onCore fun c => { c with fadvs := [⟨0, 0, 9, [0, 0, 0, 0, 0, 0, 0, 0]⟩] }
/-- Eight advances pending; cluster 0 with 32 moves queued; cluster 0 with an item not finished. -/
def coreFull : State := coreF.onCore fun c => { c with fadvs := List.replicate 8 ⟨0, 0, 9, [1, 0, 0, 0, 0, 0, 0, 0]⟩ }
def coreMoves : State := core0.onWalker 0 fun w => { w with queue := List.replicate 32 (.setLen 0 1), issued := 32 }
def coreBusy : State := core0.onWalker 0 fun w => { w with queue := [.setLen 0 1], issued := 1 }
def coreWait (w : Wait) (s : State) : State := s.onCore fun c => { c with wait := some w }

theorem witness_core_loads_and_stores :
    core0.coreSeg = some 0 ∧ core0.segImg 0 = some img0 ∧
      (∀ x ∈ coreLoadRows ++ coreStoreRows,
        coreOffset core0 (fAB 4 0 60) + x.2 ≤ img0.dataLen ∧ coreOffset core0 (fAB 4 0 60) % x.2 = 0 ∧
        img0.dataLen < coreOffset core0 (fAB 4 0 64) + x.2) ∧
      (∀ x ∈ coreLoadRows.take 2 ++ coreStoreRows.take 2, coreOffset core0 (fAB 4 0 59) + x.2 ≤ img0.dataLen ∧
        coreOffset core0 (fAB 4 0 59) % x.2 ≠ 0) := by decide +kernel

theorem witness_core_arithmetic :
    core0.coreSeg = some 0 ∧ (fAB 4 1 (2 * 2 ^ 22)).extractLsb' 0 22 = 0 ∧ (fAB 4 1 1).extractLsb' 0 22 ≠ 0 ∧
      (fM 0 0 0 1).extractLsb' 0 31 = 0 ∧ mGp (fM 0 0 0 1) % 2 = 1 ∧ (1 : BitVec 56).extractLsb' 0 31 ≠ 0 ∧
      (fV 0 0 0 (2 ^ 29)).extractLsb' 20 10 ≠ 0 ∧ (maskClusters (vMask (fV 4 0 3 0))).length ≠ 1 ∧
      ((fV 4 0 1 1).extractLsb' 0 20).toNat % 2 = 1 ∧ (fK 0 0 0 0x2000).extractLsb' 13 3 ≠ 0 ∧
      kGa (fK 1 0 0 0) % 2 = 1 := by decide +kernel

theorem witness_core_bundle_effects :
    noneOnWay (coreAt 62) ∧ (coreAt 62).coreSeg = some 0 ∧ (coreAt 62).segImg 0 = some img0 ∧
    (coreAt 62).core.bundle = Bundle.blank ∧
      (coreAt 62).core.writes = [] ∧ (coreAt 62).core.regs.length = 64 ∧ (coreAt 62).core.pc + 1 < img0.codeLen ∧
      (∀ x ∈ coreStoreRows, coreOffset (coreAt 62) (fAB 4 0 60) + x.2 ≤ img0.dataLen ∧
        coreOffset (coreAt 62) (fAB 4 0 60) % x.2 = 0) ∧
      (fAB 4 1 (2 * 2 ^ 22)).extractLsb' 0 22 = 0 := by
  unfold noneOnWay
  decide +kernel

theorem witness_core_issue_and_advance :
    coreF.coreSeg = some 0 ∧ (fM 1 5 0 2).extractLsb' 0 31 = 0 ∧ mGp (fM 1 5 0 2) % 2 = 0 ∧
      (coreF.core.fadvs.filter fun x => x.seg = 0).length < 8 ∧
      coreFull.coreSeg = some 0 ∧ 8 ≤ (coreFull.core.fadvs.filter fun x => x.seg = 0).length := by decide +kernel

theorem witness_performed_advance :
    noneOnWay coreAdv ∧ ∃ x f, coreAdv.arrive.core.fadvs.find? (fun x => coreAdv.arrive.marksDone 0xFF x.marks) = some x ∧
      (coreAdv.arrive.onCore fun c => { c with fadvs := c.fadvs.erase x }).tableFence x.seg x.fence = .ok f ∧
      f.mirror = false ∧ f.party = coreAdv.arrive.segParty x.seg ∧ f.value < x.value :=
  ⟨by unfold noneOnWay; decide +kernel, ⟨0, 0, 9, [0, 0, 0, 0, 0, 0, 0, 0]⟩, fence0, by decide +kernel, by rfl,
    by decide +kernel⟩

theorem witness_core_handles :
    core0.coreSeg = some 0 ∧ (fV 1 3 0 0xFFFFF).extractLsb' 20 10 = 0 := by decide +kernel

theorem witness_core_moves :
    core0.coreSeg = some 0 ∧ (fV 1 3 1 6).extractLsb' 20 10 = 0 ∧ ((fV 1 3 1 6).extractLsb' 0 20).toNat % 2 = 0 ∧
      core0.outsideAllot 0 (vMask (fV 1 3 1 6)) = false ∧
      (∀ c ∈ maskClusters (vMask (fV 1 3 1 6)), movesIn (core0.walker c) < 32) ∧
      core0.outsideAllot 0 (vMask (fV 1 3 3 6)) = true ∧
      coreMoves.coreSeg = some 0 ∧ coreMoves.outsideAllot 0 (vMask (fV 1 3 1 6)) = false ∧
      (∃ c ∈ maskClusters (vMask (fV 1 3 1 6)), 32 ≤ movesIn (coreMoves.walker c)) ∧
      maskClusters (vMask (fV 1 3 1 6)) = [0] := by decide +kernel

theorem witness_core_branches :
    (coreAt 62).coreSeg = some 0 ∧ (coreAt 62).core.pc + 1 < (coreAt 62).codeLen 0 ∧
      (fK 1 2 0 63).extractLsb' 13 3 = 0 ∧ kTarget (fK 1 2 0 63) < (coreAt 62).codeLen 0 ∧
      ((coreAt 62).g (kGa (fK 1 2 0 63))).toNat % 8192 < (coreAt 62).codeLen 0 ∧
      (coreAt 62).g 1 ≠ (coreAt 62).g 2 ∧ (coreAt 62).g 4 = (coreAt 62).g 5 ∧
      ((coreAt 62).g 3).toInt < ((coreAt 62).g 1).toInt ∧
      (coreAt 62).core.bundle = Bundle.blank ∧ (coreAt 62).core.writes = [] ∧ (coreAt 62).core.regs.length = 64 := by
  decide +kernel

/-- A record of the same key in the same frame. -/
def coreLimited : State := { core0 with integ := { core0.integ with limits := [(0x10000000 + 1, 0)] } }

theorem witness_core_exception :
    core0.coreSeg = some 0 ∧ excIllegal ≠ excWindowCut ∧ 0 ∉ slotOps .v ∨ 255 ∉ slotOps .v ∧
      core0.limited (0x10000000 + 0 * 16 + excIllegal) core0.frame.number 4096 = false ∧
      coreLimited.coreSeg = some 0 ∧ coreLimited.limited (0x10000000 + 0 * 16 + 1) coreLimited.frame.number 4096 = true ∧
      1 ≠ excWindowCut := by decide +kernel

theorem witness_core_waits :
    core0.coreSeg = some 0 ∧ core0.core.pc + 1 < core0.codeLen 0 ∧
      core0.waitLimit 0 (kImm (fK 0 0 0 93)) ≤ core0.coreSince ∧ core0.coreSince < core0.waitLimit 0 (kImm (fK 0 0 0 94)) ∧
      core0.outsideAllot 0 (kImm (fK 0 0 0 1) % 256) = false ∧
      (core0.takeBundle 0).marksDone (kImm (fK 0 0 0 1) % 256) (core0.takeBundle 0).issueMarks = true ∧
      coreBusy.coreSeg = some 0 ∧ coreBusy.core.pc + 1 < coreBusy.codeLen 0 ∧
      coreBusy.outsideAllot 0 (kImm (fK 0 0 0 1) % 256) = false ∧
      (coreBusy.takeBundle 0).marksDone (kImm (fK 0 0 0 1) % 256) (coreBusy.takeBundle 0).issueMarks = false := by
  decide +kernel

theorem witness_core_fence_wait :
    coreF.coreSeg = some 0 ∧ coreF.core.pc + 1 < coreF.codeLen 0 ∧ kGa (fK 4 6 0 94) % 2 = 0 ∧
      coreF.core.bundle = Bundle.blank ∧ coreF.core.writes = [] ∧ coreF.core.regs.length = 64 ∧
      coreF.fenceCode 0 (kFence (fK 4 6 0 94)) ((coreF.g 4).toNat + 2 ^ 32 * (coreF.g 5).toNat) = some stOk ∧
      core0.fenceCode 0 (kFence (fK 4 6 0 94)) ((core0.g 4).toNat + 2 ^ 32 * (core0.g 5).toNat) = some stNoObject ∧
      coreF.fenceCode 0 (kFence (fK 0 6 0 94)) ((coreF.g 0).toNat + 2 ^ 32 * (coreF.g 1).toNat) = none ∧
      coreF.coreSince < coreF.waitLimit 0 (kImm (fK 0 6 0 94)) := by decide +kernel

/-- A wait for time, at its limit and before it; for cluster 0, done and not done; for a fence, with a code that a read found, and
without one at the limit and before it. -/
theorem witness_core_wait_end :
    core0.active = true ∧ noneOnWay coreF ∧ core0.core.pc + 1 < core0.codeLen 0 ∧
      (coreWait (.to 30000) core0).core.seg = some 0 ∧ 30000 ≤ (coreWait (.to 30000) core0).coreSince ∧
      (coreWait (.to 30001) core0).coreSince < 30001 ∧
      (∀ c ∈ maskClusters 1, [0].getD c 0 ≤ ((coreWait (.clusters 1 [0]) core0).arrive.walker c).finished) ∧
      (∃ c ∈ maskClusters 1, ((coreWait (.clusters 1 [1]) coreBusy).arrive.walker c).finished < [1].getD c 0) ∧
      (∀ x ∈ ([(40000, some stOk), (30000, none), (30001, none)] : List (Nat × Option Nat)),
        let s := coreWait (.fence 0 5 x.1 6 1030320 x.2) coreF
        s.active = true ∧ s.core.seg = some 0 ∧ s.core.writes = [] ∧ s.core.regs.length = 64 ∧ s.coreSince = 30000) := by
  unfold noneOnWay
  decide +kernel

/-- WAITC on clusters outside the allotment, a stop while an issued item stands in a queue, and a waiting fence whose read falls
due with the next nanosecond. -/
def fenceDue : State := coreWait (.fence 0 5 40000 6 1030000 none) coreF
theorem witness_core_turned_away :
    core0.outsideAllot 0 (kImm (fK 0 0 0 3) % 256) = true ∧ coreBusy.coreSeg = some 0 ∧ coreBusy.itemsDone = false ∧
      core0.itemsDone = true := by decide +kernel

theorem witness_fence_read_due :
    fenceDue.pending = [] ∧ fenceDue.husk.supply = true ∧ fenceDue.active = true ∧ noneOnWay fenceDue ∧
      fenceDue.core.zeroing = none ∧ ¬ fillersDue (later fenceDue) ∧ fenceDue.core.seg = some 0 ∧
      fenceDue.core.wait = some (.fence 0 5 40000 6 1030000 none) ∧ 1030000 ≤ fenceDue.now + 1 ∧
      1030000 ≤ fenceDue.frame.start + 40000 := by
  unfold noneOnWay fillersDue
  decide +kernel

theorem witness_latency :
    core0.coreSeg = some 0 ∧ core0.core.bundle = Bundle.blank ∧ core0.core.writes = [] ∧ core0.core.regs.length = 64 ∧
      core0.core.pc + 4 < core0.codeLen 0 := by decide +kernel

/-- What a slot or a bundle leaves, where the command answers a next state. -/
def after (o : Out) (f : State → Bool) : Bool :=
  match o with
  | .next t => f t
  | _ => false

/-- Two's complement wraps; shifts take the amount modulo 32; MIN and SLT are signed (Table CORE-4). -/
theorem test_add_wraps : after (execAdd .a (fAB 4 3 (1 * 2 ^ 22)) core0) (fun t =>
    t.core.bundle.writes == [⟨1, 4, 5, .a⟩]) = true := by decide +kernel
theorem test_slt_is_signed : after (execSlt .a (fAB 4 3 (1 * 2 ^ 22)) core0) (fun t =>
    t.core.bundle.writes == [⟨1, 4, 1, .a⟩]) = true := by decide +kernel
theorem test_sltu_is_unsigned : after (execSltu .a (fAB 4 3 (1 * 2 ^ 22)) core0) (fun t =>
    t.core.bundle.writes == [⟨1, 4, 0, .a⟩]) = true := by decide +kernel
theorem test_sari_keeps_sign : after (execSari .b (fAB 4 3 1) core0) (fun t =>
    t.core.bundle.writes == [⟨1, 4, 0xFFFFFFFE, .b⟩]) = true := by decide +kernel
theorem test_movhi_keeps_low_half : after (execMovhi .a (fAB 4 1 0x1234) core0) (fun t =>
    t.core.bundle.writes == [⟨1, 4, 0x12340008, .a⟩]) = true := by decide +kernel
/-- MULH of −3 and 8 is −1, MULHU of the same bits is 7. -/
theorem test_mulh : after (execMulh .b (fAB 4 3 (1 * 2 ^ 22)) core0) (fun t =>
    t.core.bundle.writes == [⟨3, 4, 0xFFFFFFFF, .b⟩]) = true := by decide +kernel
theorem test_mulhu : after (execMulhu .b (fAB 4 3 (1 * 2 ^ 22)) core0) (fun t =>
    t.core.bundle.writes == [⟨3, 4, 7, .b⟩]) = true := by decide +kernel
/-- A store of g2 at 0x100 + 60, least significant byte first. -/
theorem test_stw_is_little_endian : after (execStw .a (fAB 3 0 60) core0) (fun t =>
    t.core.bundle.store == some (0x13C, [0xFD, 0xFF, 0xFF, 0xFF])) = true := by decide +kernel
/-- HADD saturates at 0 and 2,047 (Table CORE-6). -/
theorem test_hadd_saturates : after (execHadd .v (fV 0 3 0 0xFFFFF) core0) (fun t =>
    t.core.bundle.handles == [(3, 0)]) = true := by decide +kernel
theorem test_call_links : after (execCall .k (fK 0 0 0 63) core0) (fun t =>
    t.core.pc == 63 && t.core.cycle == 3 && t.g 63 == 1) = true := by decide +kernel

/-! ## The tile walkers and the pips -/

/-- An object of 8 rows and 8 columns in slot 0, replicated on cluster 0. -/
def obj0 : WObj := ⟨5, 8, 8, false, 0, 0, 0, false, 1, [⟨0, 0, 0, 0, 0, 8, 8⟩], [[0]], [], [], [], 0⟩

/-- A descriptor of 4 vectors in tiles of two: kind, flags, length byte, tile time, with its CRC (Table TILE-2). -/
def desc0 (kind flags len time : Nat) : List Byte :=
  let b := leBytes 1 kind ++ leBytes 1 flags ++ leBytes 2 5 ++ leBytes 1 len ++ leBytes 1 0 ++ leBytes 1 0 ++ leBytes 1 1 ++
    leBytes 2 4 ++ leBytes 2 8 ++ leBytes 2 8 ++ leBytes 2 2 ++ leBytes 2 8 ++ leBytes 2 1 ++ leBytes 8 0 ++ leBytes 4 64 ++
    leBytes 8 524288 ++ leBytes 4 8 ++ leBytes 4 time ++ leBytes 8 0 ++ leBytes 1 (if kind = 1 then 255 else 0) ++ leBytes 3 0
  b ++ leBytes 4 (crc32 b)

/-- QUANT to INT8 without a shift, under SATURATE and under POISON. -/
def quant8 : BitVec 64 := 5
def quantPoison : BitVec 64 := 0x10005

def pimg (engine : Nat) : PipImage := ⟨engine, false, [0], [1, 2, 3, 4], 0, 10, true⟩
def dpip0 (time : Nat) : DrainPip := ⟨0, 0, pimg 1, 2, 1, 0, time, 0, 0, 0⟩

def imgT : SegImage :=
  { img0 with objs := [obj0], chains := [⟨0, 0, [quant8]⟩], pips := [dpip0 5000], descs := [(0, 2, desc0 1 0 0 5000)],
              jobs := [⟨0, 0, 0, false, 1, 0, 16, 4, 1000, 0x1000, 0, 4⟩] }

def tile0 : State := { run0 with loader := { run0.loader with plan := some ⟨comp0, [imgT]⟩ } }

/-- The instruction running on cluster 0: descriptor n, its bytes, before its first tile. -/
def runs (n : Nat) (d : List Byte) : Running :=
  ⟨n, 0, 1, d, none, 0, 2, 1030000, none, [], none, [], [], [], 0, false, false⟩

def tileRun (r : Running) : State := tile0.onWalker 0 fun w => { w with running := some r, issued := 1 }
def span0 : SegRec × Nat × Nat := (rec0, 20000, 70000)
def tileQ (len : Nat) (b : List Byte) : State := tile0.onWalker 0 fun w =>
  { w with queue := [.run 1 0 1 b, .setLen 0 3], issued := 2, lens := setAt w.lens 2 len }

/-- Without a length; with length register 2 at the declared 4 and above it, at 0, where every tile is skipped. -/
theorem witness_instruction_start :
    (∀ s ∈ [tileQ 4 (desc0 1 0 0 5000), tileQ 4 (desc0 1 0 0x82 5000), tileQ 5 (desc0 1 0 0x82 5000),
        tileQ 0 (desc0 1 0 0x82 5000)],
      noneOnWay s ∧ s.arrive.active = true ∧ s.arrive.openWindow = some span0 ∧ (s.arrive.walker 0).running = none ∧
        0 < s.arrive.walkers.length) ∧
    (tileQ 5 (desc0 1 0 0x82 5000)).arrive.walkers.head?.map (·.queue) =
      some [.run 1 0 1 (desc0 1 0 0x82 5000), .setLen 0 3] ∧
    objectOf tile0 0 (desc0 1 0 0x82 5000) = some obj0 ∧ dUseLen (desc0 1 0 0x82 5000) = true ∧
    dUseLen (desc0 1 0 0 5000) = false ∧ dB (desc0 1 0 0x82 5000) < ((tileQ 5 (desc0 1 0 0x82 5000)).walker 0).lens.getD 2 0 ∧
    tileCount obj0 (desc0 1 0 0 5000) = 2 ∧ shareOf 2 1 0 = (0, 2) := by
  unfold noneOnWay
  decide +kernel

def tileFenced : State := (tileRun (runs 1 (desc0 1 0 0 40000))).onPod 0 fun p => { p with fenced := true }

/-- A tile that ends with the window, one that ends a nanosecond later, and one that needs a fenced pod. -/
theorem witness_planned_tile :
    (∀ s ∈ [tileRun (runs 1 (desc0 1 0 0 40000)), tileRun (runs 1 (desc0 1 0 0 40001)), tileFenced],
      s.active = true ∧ s.pool.closed = false ∧ (s.walker 0).job = none ∧ s.openWindow = some span0 ∧
      s.powerBars 0 = false ∧ 0 < s.walkers.length) ∧
    objectOf tile0 0 (desc0 1 0 0 40000) = some obj0 ∧ (tileAt obj0 (desc0 1 0 0 40000) 0).isSome ∧
    dTime (desc0 1 0 0 40000) = 40000 ∧ tile0.now + 40000 = tile0.frame.start + span0.2.2 ∧
    (∃ q, tileAt obj0 (desc0 1 0 0 40000) 0 = some q ∧ tile0.needsFenced 0 obj0 q = false ∧
      tileFenced.needsFenced 0 obj0 q = true) :=
  ⟨by decide +kernel, by decide +kernel, by decide +kernel, by decide +kernel, by decide +kernel,
    ⟨⟨0, 2, 0, 0, 8⟩, by decide +kernel⟩⟩

/-- Input power is lost and segment 0 is not CRITICAL. -/
def barredS : State :=
  { tileRun (runs 1 (desc0 1 0 0 40000)) with
    loader := { tile0.loader with plan := some ⟨{ comp0 with segs := [{ rec0 with critical := false }] }, [imgT]⟩ },
    store := { tile0.store with lostAt := some 1025000 } }
theorem witness_power_bars :
    barredS.active = true ∧ barredS.pool.closed = false ∧ (barredS.walker 0).job = none ∧
      barredS.openWindow = some ({ rec0 with critical := false }, 20000, 70000) ∧
      objectOf barredS 0 (desc0 1 0 0 40000) = some obj0 ∧ barredS.powerBars 0 = true := by decide +kernel

/-- A pooled job of party 1 in slot 0 with 1 of its 2 tiles claimed, in the tail of the party's window. -/
def jobS : State :=
  { tile0 with
    od := [(0x321001, 1), (0x321002, 1), (0x321003, 2), (0x321004, 1), (0x321005, 1)],
    jobs := setAt tile0.jobs 0 { Job.blank with desc := 0, ctx := 1, bytes := desc0 2 0 0 5000 },
    pool := { tile0.pool with ctxs := [ctx1], buckets := List.replicate 16 ⟨1, 1, 0⟩ } }

/-- The same job with its length in register 2, which is 0: the claimed tile is skipped. -/
def jobSkip : State := { jobS with jobs := setAt jobS.jobs 0 { jobS.job 0 with bytes := desc0 2 0 0x82 5000 } }

theorem witness_skipped_pooled_tile :
    jobSkip.active = true ∧ jobSkip.pool.closed = false ∧ (jobSkip.walker 0).running = none ∧ (jobSkip.walker 0).queue = [] ∧
      (List.range 16).find? (jobSkip.claimable 0) = some 0 ∧ jobSkip.segOfDesc (jobSkip.job 0).desc = some imgT ∧
      descOk jobSkip imgT (jobSkip.reg (jobReg 0 4)) (jobSkip.job 0).bytes 2 = true ∧
      tileAt obj0 (jobSkip.job 0).bytes (jobSkip.reg (jobReg 0 2)) = some ⟨2, 2, 0, 0, 8⟩ ∧ pooledLength jobSkip 0 0 = some 0 ∧
      pooledLength jobS 0 0 = none := by decide +kernel

theorem witness_pooled_tile :
    (dMask (jobS.job 0).bytes).testBit 0 = true ∧ jobS.active = true ∧ jobS.pool.closed = false ∧
    (jobS.walker 0).running = none ∧ (jobS.walker 0).queue = [] ∧
      0 < jobS.walkers.length ∧ (List.range 16).find? (jobS.claimable 0) = some 0 ∧ jobS.segOfDesc (jobS.job 0).desc = some imgT ∧
      objOf imgT (dObj (jobS.job 0).bytes) = some obj0 ∧
      descOk jobS imgT (jobS.reg (jobReg 0 4)) (jobS.job 0).bytes 2 = true ∧
      (tileAt obj0 (jobS.job 0).bytes (jobS.reg (jobReg 0 2))).isSome := by decide +kernel

/-- The walker prepares the instruction's second tile while it works on the first one; abandoned with the cluster's work, the
prepared tile counts as cancelled (R93). -/
theorem test_run_ahead_cancelled :
    let t := (tileRun (runs 1 (desc0 1 0 0 5000))).runAhead 0 true .clean
    t.ahead.map (fun a => (a.cluster, a.desc, a.tile)) = [(0, 1, 1)] ∧ t.reg 0x320003 = 0 ∧
      (t.abandonCluster 0).reg 0x320003 = 1 ∧ (t.abandonCluster 0).ahead = [] := by decide +kernel

theorem witness_abandon :
    ((tileRun (runs 1 (desc0 1 0 0 40001))).walker 0).running = some (runs 1 (desc0 1 0 0 40001)) ∧
      ((tileRun (runs 1 (desc0 1 0 0 40001))).walker 0).job = none ∧
      ((tileRun (runs 1 (desc0 1 0 0 40001))).walker 0).queue = [] := by decide +kernel

/-- The committed first tile, with vector 0 tainted and no accumulators for vector 1. -/
def ran0 : Running :=
  { runs 1 (desc0 1 0 0 5000) with tile := some (0, 1025000), accs := [List.replicate 8 ⟨7, false, 0⟩], taint := [0] }
def tileRan : State := tileRun ran0
def jobRan : State := jobS.onWalker 0 fun w => { w with running := some ran0, job := some 0 }

theorem witness_tile_complete :
    (∀ s ∈ [tileRan, jobRan], s.active = true ∧ (s.walker 0).running = some ran0 ∧ ran0.tile = some (0, 1025000) ∧
      objectOf s ran0.seg ran0.bytes = some obj0 ∧ ran0.ready ≤ s.now ∧ 0 < s.walkers.length) ∧
    (tileAt obj0 ran0.bytes 0).isSome ∧ (tileRan.walker 0).job = none ∧ (jobRan.walker 0).job = some 0 := by decide +kernel

theorem witness_tainted_vector :
    tileRan.segImg 0 = some imgT ∧ objOf imgT (dObj ran0.bytes) = some obj0 ∧ dOutPool ran0.bytes = false ∧
      tileAt obj0 ran0.bytes 0 = some ⟨0, 2, 0, 0, 8⟩ ∧
      dN ran0.bytes * elemSize (chainOf imgT 0 (dChain ran0.bytes)) ≤ dOutStride ran0.bytes ∧ 0 + 8 ≤ dN ran0.bytes ∧
      (∀ row ∈ ran0.accs, row.length ≤ 8) ∧ ran0.accs[0]?.isSome ∧ 0 ∈ ran0.taint ∧ ran0.accs[1]? = none := by
  decide +kernel

/-- 300 is marked by QUANT to INT8, 127 is not; a residue that does not match, and an upset of 1 (R106). -/
theorem witness_clip_policy :
    dOutPool ran0.bytes = false ∧ 0 < tile0.walkers.length ∧
      runChain (tile0.walker 0) [quant8] 0 0 [] ⟨127, false, 1⟩ = ⟨127, false, some (0, 127, false), none⟩ ∧
      runChain (tile0.walker 0) [quant8] 0 0 [] ⟨128, false, 2⟩ = ⟨128, true, some (0, 127, false), none⟩ ∧
      runChain (tile0.walker 0) [quantPoison] 0 0 [] ⟨300, false, 6⟩ = ⟨300, true, some (0, 127, true), none⟩ ∧
      (runChain (tile0.walker 0) [quant8] 0 0 [] ⟨127, false, 2⟩).bad = some 0 ∧
      (runChain (tile0.walker 0) [quant8] 0 0 [(0, 1)] ⟨127, false, 1⟩).bad = some 0 := by decide +kernel

/-- All tiles done: without a trigger (descriptor 1); with one (descriptor 2) that fits the window and one that does not. -/
def doneR (n : Nat) : Running := { runs n (desc0 1 0 0 5000) with done := true, did := 2, next := 2 }
def instr0 (n time : Nat) : State :=
  { tileRun (doneR n) with loader := { tile0.loader with plan := some ⟨comp0, [{ imgT with pips := [dpip0 time] }]⟩ } }

theorem witness_instruction_complete :
    (∀ s ∈ [instr0 1 5000, instr0 2 40000, instr0 2 40001], s.active = true ∧ (s.walker 0).job = none ∧
      (s.pip 4).running = false ∧ 0 < s.walkers.length ∧ s.openWindow = some span0 ∧ 4 < s.pips.length ∧
      (s.clu 0).noSource = []) ∧
    (doneR 1).done = true ∧ (doneR 1).tile = none ∧ (doneR 1).ready ≤ tile0.now ∧
    (instr0 1 5000).trigger 0 (doneR 1) = none ∧ (doneR 2).ran = false ∧ (doneR 2).did ≠ 0 ∧
    (instr0 2 40000).trigger 0 (doneR 2) = some (dpip0 40000) ∧ (instr0 2 40001).trigger 0 (doneR 2) = some (dpip0 40001) ∧
    stepsOf (chainOf imgT 0 0) 6 = [] := by decide +kernel

/-- The triggered image runs in place from slot 0, which is no source any more. -/
def dpipX : DrainPip := { dpip0 5000 with image := { pimg 1 with inPlace := true } }
def instrX : State :=
  { tileRun (doneR 2) with loader := { tile0.loader with plan := some ⟨comp0, [{ imgT with pips := [dpipX] }]⟩ } }.onClu 0 fun x =>
    { x with noSource := [0] }
theorem witness_instruction_without_source :
    instrX.active = true ∧ (instrX.walker 0).running = some (doneR 2) ∧ (instrX.walker 0).job = none ∧
      (instrX.pip 4).running = false ∧ instrX.trigger 0 (doneR 2) = some dpipX ∧ dpipX.image.inPlace = true ∧
      dpipX.slot ∈ (instrX.clu 0).noSource ∧ (instrX.walker 0).queue = [] ∧ 0 < instrX.walkers.length := by decide +kernel

/-! Issues of the control core on their way -/

def coreTiles (n : Nat) : State :=
  let s := tile0.onWalker 0 fun w => { w with descs := [(n, desc0 1 0 0 5000)] }
  { s with husk := { s.husk with now := 1022000 }, core := { core0.core with bundle := { Bundle.blank with issues := [n] } } }
def onTheWay (n : Nat) (d : List Byte) : State :=
  let s := tile0.onWalker 0 fun w => { w with queue := [.arriving n 0 4 d], issued := 1 }
  { s with core := { core0.core with cycle := 4 } }

/-- An issue to cluster 0; then its arrival, of a descriptor that passes the check and of one that does not. -/
theorem witness_issues :
    (coreTiles 0).coreSeg = some 0 ∧ noneOnWay (coreTiles 0) ∧ (coreTiles 0).core.pc + 1 < (coreTiles 0).codeLen 0 ∧
      (coreTiles 0).now < (coreTiles 0).core.entry + ((coreTiles 0).core.cycle + 4) * 5 / 2 ∧ (coreTiles 0).walkers.length = 8 ∧
      (coreTiles 0).issueTargets 0 0 = [(0, desc0 1 0 0 5000)] ∧
      (∀ d ∈ [desc0 1 0 0 5000, []],
        let s := { onTheWay 0 d with pool := { tile0.pool with ctxs := [ctx1] } }
        s.walkers.length = 8 ∧ s.core.wait = none ∧ (s.walker 0).queue = [.arriving 0 0 4 d] ∧ (s.walker 0).running = none ∧
          (∀ k, k < 8 → k ≠ 0 → s.onWay k = []) ∧ 4 ≤ s.core.cycle ∧ s.core.seg = some 0 ∧
          s.issueOk 0 0 0 d = !d.isEmpty) := by
  unfold noneOnWay
  decide +kernel

/-- The job's owner is party 1, an Operator on N1; party 2 owns nothing and is refused. -/
def jobC : State :=
  { jobS with
    sec := { jobS.sec with lifecycle := 2 },
    frame := { jobS.frame with live := [(0x380105, 100), (0x380106, 100), (0x380107, 1000), (0x3C3001, 4), (0x3C3101, 1), (0x3C3201, 1), (0x4C0000, 250), (0x4C0700, 20)] } }
def jobFree : State := { jobC with od := [(0x321002, 1), (0x321003, 2), (0x321004, 0xFF)] }

theorem witness_job_pause :
    (∀ r ∈ ([⟨0, 4, 7⟩, ⟨1, 0, 7⟩] : List Req), ∀ v ∈ [0, 1], jobC.writeCheck r 0x3210 6 v = .status stOk ∧
      (jobC.role r.party = 2 ∨ jobC.reg (jobReg 0 4) = r.party)) ∧ jobC.jobState 0 = 1 ∧ 0 < jobC.jobs.length ∧
    jobFree.writeCheck ⟨2, 0, 7⟩ 0x3210 6 1 = .status stOk ∧ jobFree.role 2 ≠ 2 ∧ jobFree.reg (jobReg 0 4) ≠ 2 := by
  decide +kernel

/-- Engine e runs; p1 = 6, p2 = −2. -/
def pipS (e : Nat) (taint : Bool) : State :=
  { instr0 2 40000 with pips := setAt tile0.pips e { Pip.blank with
      running := true, image := some (pimg 1), start := 1030000, limit := 10000, seg := 0, item := 0, tainted := taint,
      verdict := if e = 12 then some 0x50001 else none, held := if e = 4 then [(2, 9)] else if e = 0 then [(16, 3)] else [],
      regs := [0, 6, 0xFFFFFFFE] ++ List.replicate 13 0 } }

theorem witness_pips :
    ∀ e ∈ [0, 4, 11, 12, 13], pipReady (pipS e false) e := by unfold pipReady; decide +kernel

/-- Addresses: p1 + 2 = 8 in the data SRAM; 8 − 3 misaligned; 0x100000 − 2 + imm outside the map. -/
def fP (d a b imm : Nat) : PipFields := ⟨BitVec.ofNat 4 d, BitVec.ofNat 4 a, BitVec.ofNat 4 b, BitVec.ofNat 14 imm⟩

theorem witness_pip_loads :
    (∀ x ∈ pipLoadRows, pipAddr (pipS 4 false) 4 (fP 3 1 0 2) % x.2.1 = 0 ∧
      ((pipS 4 false).pipBytes 4 (pipAddr (pipS 4 false) 4 (fP 3 1 0 2)) x.2.1).isSome) ∧
    (∀ x ∈ pipLoadRows.take 2, pipAddr (pipS 4 false) 4 (fP 3 1 0 1) % x.2.1 ≠ 0) ∧
    (∀ x ∈ pipLoadRows, pipAddr (pipS 4 false) 4 (fP 3 2 0 0x3FFE) % x.2.1 = 0 ∧
      (pipS 4 false).pipBytes 4 (pipAddr (pipS 4 false) 4 (fP 3 2 0 0x3FFE)) x.2.1 = none) := by decide +kernel

def pipBuf (taint : Bool) : State := { pipS 4 taint with pips := setAt (pipS 4 taint).pips 4 { (pipS 4 taint).pip 4 with
  regs := [0, 0x180000, 0x80] ++ List.replicate 13 0 } }

/-- The data SRAM; misaligned; outside the map; then the output region at buffer address 524,288, tainted or not. -/
theorem witness_pip_stores :
    (∀ x ∈ pipStoreRows, pipAddr (pipS 4 false) 4 (fP 0 1 2 2) % x.2 = 0 ∧ pipAddr (pipS 4 false) 4 (fP 0 1 2 2) + x.2 ≤ 0x2000 ∧
      ((pipS 4 false).pipStore 4 (pipAddr (pipS 4 false) 4 (fP 0 1 2 2)) (leBytes x.2 0xFFFFFFFE)).isSome) ∧
    (∀ x ∈ pipStoreRows.take 2, pipAddr (pipS 4 false) 4 (fP 0 1 2 1) % x.2 ≠ 0) ∧
    (∀ x ∈ pipStoreRows, pipAddr (pipS 4 false) 4 (fP 0 2 2 0x3FFE) % x.2 = 0 ∧
      (pipS 4 false).pipStore 4 (pipAddr (pipS 4 false) 4 (fP 0 2 2 0x3FFE)) (leBytes x.2 0xFFFFFFFE) = none) := by
  decide +kernel

theorem witness_pip_buffer_stores :
    ∀ t ∈ [true, false], pipReady (pipBuf t) 4 ∧ pipAddr (pipBuf t) 4 (fP 0 1 2 0) = 0x180000 ∧
      ∀ x ∈ pipStoreRows, ((pipBuf t).pipStore 4 0x180000 (leBytes x.2 0x80)).isSome := by
  unfold pipReady
  decide +kernel

/-- Length register L1, and a held scalar that no later job has written. -/
def pipLen : State := { pipS 4 false with pips := setAt tile0.pips 4 { (pipS 4 false).pip 4 with regs := [0, 0x200004, 0x80] ++ List.replicate 13 0 } }
def pipScalar (by_ : Nat) : State :=
  { pipS 0 false with
    pips := setAt tile0.pips 0 { (pipS 0 false).pip 0 with held := [(2, 9)] }, core := { tile0.core with scalarBy := [(2, by_)] } }
theorem witness_pip_lengths_and_scalars :
    pipReady pipLen 4 ∧ pipAddr pipLen 4 (fP 0 1 2 0) = 0x200004 ∧
      (∀ x ∈ pipStoreRows, (pipLen.pipStore 4 0x200004 (leBytes x.2 0x80)).isSome) ∧
      pipReady (pipScalar 0) 0 ∧ ((pipScalar 0).pip 0).held = [(2, 9)] ∧
      mget 0 (pipScalar 0).core.scalarBy 2 ≤ ((pipScalar 0).pip 0).jobKey ∧
      ((pipScalar 99999999).pip 0).jobKey < mget 0 (pipScalar 99999999).core.scalarBy 2 := by
  unfold pipReady
  decide +kernel

theorem witness_pip_branches_and_halt :
    (pipS 4 false).pipReg 4 1 ≠ (pipS 4 false).pipReg 4 2 ∧ ((pipS 4 false).pipReg 4 2).toInt < ((pipS 4 false).pipReg 4 1).toInt ∧
      (pipS 4 false).pipReg 4 1 ≠ 1 ∧ (pipS 12 false).store.events = [] ∧ ((pipS 0 false).intakeOf 0).isSome := by decide +kernel

/-- The step budget used up; the run time elapsed. -/
def pipEnd : State := { pipS 4 false with pips := setAt tile0.pips 4 { (pipS 4 false).pip 4 with steps := 10, limit := 0 } }

theorem witness_pip_limits :
    (pipEnd.pip 4).running = true ∧ (((pipEnd.pip 4).image.map (·.budget)).getD 0) ≤ (pipEnd.pip 4).steps ∧
      (pipEnd.pip 4).start + (pipEnd.pip 4).limit ≤ pipEnd.pipTime 4 ∧ 4 < pipEnd.pips.length ∧ 0 < pipEnd.walkers.length ∧
      pxSteps ≠ pxFetch ∧
      62 ∉ pipOps ∧ pipEnd.limited (0x15 * 2 ^ 72 + (((4 - 4) * 2 ^ 32 + imageKey (pipEnd.pip 4)) * 8 + pxSteps)) pipEnd.frame.number 4096 = false := by
  decide +kernel

/-- MUL keeps the low 32 bits with latency 2; LDB extends the sign; DBNZ at 1 goes on (Table PIP-2). -/
theorem test_pip_mul : after (execPipMul 4 (fP 3 1 2 0) (pipS 4 false)) (fun t =>
    (t.pip 4).writes == [(2, 3, 0xFFFFFFF4)] && (t.pip 4).cycle == 1) = true := by decide +kernel
theorem test_pip_sar : after (execPipSari 4 (fP 3 2 0 1) (pipS 4 false)) (fun t => t.pipReg 4 3 == 0xFFFFFFFF) = true := by
  decide +kernel
theorem test_pip_lui : after (execLui 4 (fP 3 0 0 1) (pipS 4 false)) (fun t => t.pipReg 4 3 == 0x40000) = true := by
  decide +kernel
theorem test_pip_p0_reads_zero : after (execPipAddi 4 (fP 0 1 0 1) (pipS 4 false)) (fun t => t.pipReg 4 0 == 0) = true := by
  decide +kernel

/-- The two tiles' vectors come out saturated: 7 in every column of vector 1 where nothing is tainted, zero on vector 0. -/
theorem test_tile_output : after (execTileComplete 0 [] (tileRun { ran0 with
      accs := [List.replicate 8 ⟨7, false, 0⟩, List.replicate 8 ⟨200, false, 4⟩] })) (fun t =>
    readCells (t.walker 0).buffer 524288 16 == List.replicate 8 0 ++ List.replicate 8 127 && t.frame.clip.testBit 0 &&
      (t.walker 0).valid == (List.range 8).map (· + 524296)) = true := by decide +kernel

/-! ## The shared pool -/

/-- Pool key of a live fence and grant, both for party 2, of party 1. -/
def grant1 : Grant := ⟨4, 1, 1, 2, 1, 0x1000, 1, true, true⟩
def fence2 : Fence := { fence0 with importers := [2] }

/-- Parties 1 and 2 have credit and 4 holdable lines each; the lines of physical page 1: 64 is chaff, 65 holds the
fence, 66 held by party 1, 67 by party 2, 68 free. -/
def poolS : State :=
  { run0 with
    frame := { run0.frame with live := [(0x380105, 100), (0x380106, 100), (0x380107, 1000), (0x380109, 4), (0x380206, 100),
                 (0x380207, 1000), (0x380209, 4), (0x388001, 100), (0x4C0000, 250), (0x4C0700, 20)] },
    pool := { run0.pool with
      ctxs := [ctx1, { ctx1 with num := 2, party := 2, pages := [] }, { ctx1 with num := 3, revoking := true }],
      buckets := List.replicate 16 ⟨1, 1, 0⟩, fences := [fence2], grants := [grant1], chaff := [64],
      mem := [(0x1040, 5), (0x1100, 7), (0x1108, 7), (0x2000, 3), (0x3000, 4)],
      holds := [⟨66, 1, 1, none, 2000000, List.replicate 64 1⟩, ⟨67, 2, 2, none, 900000, List.replicate 64 2⟩] } }

def req1 : Req := ⟨1, 0, 9⟩
/-- Through context 1 at an address; through the grant at an offset. -/
def pq (n op addr : Nat) (args : List Byte) : PoolReq := ⟨1, 0, op, n, addr, 0, args⟩
def gq (n op off : Nat) (args : List Byte) : PoolReq := ⟨0xFFFF, 0, op, n, off, grantHandle grant1, args⟩
def rg (a : Nat) : Range := ⟨ctx1, none, a⟩

/-- READ of one byte, of 1,024 bytes over a page's end, on chaff and on a line held by another; through a grant. -/
theorem witness_pool_read :
    (∀ x ∈ [pq 1 0 0 [], pq 1024 0 0xE00 [], pq 1 0 0x100 [], pq 64 0 0xC0 []], poolPasses poolS req1 x (rg x.addr) x.count false false ∧
      x.opFlags = 0 ∧ x.args = [] ∧ 1 ≤ x.count ∧ x.count ≤ 1024 ∧ x.count ≤ poolS.payloadLimit 0) ∧
    poolPasses poolS ⟨2, 1, 9⟩ (gq 1 0 5 []) ⟨ctx1, some grant1, 0x1005⟩ 1 false false ∧ poolS.inHold = false := by
  unfold poolPasses
  decide +kernel

/-- WRITE to a free line; to the fence line, chaff and a line of another party. -/
theorem witness_pool_write :
    (∀ x ∈ [pq 4 0 0x100 [1, 2, 3, 4], pq 1 0 0 [1], pq 1 0 0x40 [1], pq 1 0 0xC0 [1]],
      poolPasses poolS req1 x (rg x.addr) x.count true false ∧ x.count + 24 ≤ poolS.payloadLimit 0 ∧ x.args.length = x.count) ∧
    workingValues poolS ∧ poolS.writeStatus 1 (linesOf (addrsOf (rg 0x100) 4)) = stOk ∧
    poolS.writeStatus 1 (linesOf (addrsOf (rg 0) 1)) = stChaff ∧ poolS.writeStatus 1 (linesOf (addrsOf (rg 0x40) 1)) = stDenied ∧
    poolS.writeStatus 1 (linesOf (addrsOf (rg 0xC0) 1)) = stHeld := by
  unfold poolPasses workingValues
  decide +kernel

/-- Both widths, on a free line, on an own held line, on a line of another party. -/
theorem witness_pool_atomics :
    workingValues poolS ∧ ∀ op ∈ [0, 1], ∀ a ∈ [0x100, 0x80, 0xC0], ∀ n ∈ [8, 16],
      poolPasses poolS req1 (pq 0 op a (List.replicate n 7)) (rg a) (if op = 1 then 8 else 4) true false ∧
      a % (if op = 1 then 8 else 4) = 0 ∧ (addrsOf (rg a) (if op = 1 then 8 else 4)).Nodup := by
  unfold poolPasses workingValues
  decide +kernel

def hq (n op a : Nat) (args : List Byte) : PoolReq := pq n op a args

/-- 2 free lines; 4 lines are one beyond the limit; a line of another party. -/
theorem witness_hold :
    (∀ x ∈ [hq 2 0 0x100 (leBytes 4 5000), hq 4 0 0x100 (leBytes 4 0), hq 1 0 0xC0 (leBytes 4 1)],
      poolPasses poolS req1 x (rg x.addr) (x.count * 64) true false ∧ lineArgs x ∧ x.args.length = 4 ∧ leNat x.args ≤ 5000) ∧
    poolS.writeStatus 1 (heldLines (rg 0x100) (hq 4 0 0x100 [])) = stOk ∧
    poolS.holdLimit 1 < poolS.heldCount 1 + 4 ∧ poolS.heldCount 1 + 2 ≤ poolS.holdLimit 1 ∧
    poolS.writeStatus 1 (heldLines (rg 0xC0) (hq 1 0 0xC0 [])) = stHeld := by
  unfold poolPasses lineArgs
  decide +kernel

theorem witness_renew_and_release :
    workingValues poolS ∧ (∀ op ∈ [0, 1], ∀ a ∈ [0x80, 0x100], ∀ args ∈ [leBytes 4 5000, []],
      poolPasses poolS req1 (hq 1 op a args) (rg a) 64 true false ∧ lineArgs (hq 1 op a args)) ∧
    (∀ a ∈ [0x80, 0x100], ∀ l ∈ heldLines (rg a) (hq 1 0 a []), poolS.isChaff l = false) ∧
    heldLines (rg 0x80) (hq 1 0 0x80 []) = [66] ∧ (poolS.heldBy 66).map (·.party) = some 1 ∧
    heldLines (rg 0x100) (hq 1 0 0x100 []) = [68] ∧ poolS.heldBy 68 = none := by
  unfold poolPasses lineArgs workingValues
  decide +kernel

/-- The chaff line and a line that is not chaff, with and without ZERO; party 0 in another's context; through the grant. -/
theorem witness_clear :
    (∀ op ∈ [0, 1], ∀ a ∈ [0, 0x100], poolPasses poolS req1 (hq 1 op a []) (rg a) 64 false true ∧
      lineArgs (hq 1 op a [])) ∧
    poolPasses poolS ⟨2, 1, 9⟩ (gq 1 0 0 []) ⟨ctx1, some grant1, 0x1000⟩ 64 false true ∧
    poolS.isChaff 64 = true ∧ poolS.fenceLine 64 = false ∧
    (∀ f ∈ poolS.pool.fences, f.mirror = false → f.phys % 64 ≤ 56) := by
  unfold poolPasses lineArgs
  decide +kernel

/-- One lease has ended at this tick, one has not. -/
theorem witness_lease_expiry :
    poolS.poolMute = false ∧ poolS.poolServe = none ∧ poolS.pool.leaseTick < poolS.deviceTime / 1000000 ∧
      (∃ h ∈ poolS.pool.holds, h.endAt ≤ poolS.deviceTime / 1000000 * 1000000) ∧
      (∃ h ∈ poolS.pool.holds, ¬ h.endAt ≤ poolS.deviceTime / 1000000 * 1000000) := by decide +kernel

/-- The second range of COPY and COMPARE: context, zeros, address, handle. -/
def arg2 (a : Nat) : List Byte := leBytes 2 1 ++ List.replicate 6 0 ++ leBytes 8 a ++ leBytes 8 0

theorem witness_fill_and_copy :
    workingValues poolS ∧ (∀ a ∈ [0x100, 0xC0], poolPasses poolS req1 (pq 8 0 a [1, 2, 3, 4, 5, 6, 7, 8]) (rg a) 8 true false ∧
      (addrsOf (rg a) 8).Nodup) ∧
    (∀ a ∈ [0x1000, 0, 0xC0, 0x101], poolPasses poolS req1 (pq 8 0 0x100 (arg2 a)) (rg 0x100) 8 true false ∧
      secondOk (pq 8 0 0x100 (arg2 a)) = true ∧ reach (rg a) 8 false = none) ∧
    poolS.second 1 (pq 8 0 0x100 (arg2 0x1000)) = .ok (rg 0x1000) ∧
    poolS.writeStatus 1 (linesOf (addrsOf (rg 0x100) 8)) = stOk ∧
    poolS.writeStatus 1 (linesOf (addrsOf (rg 0xC0) 8)) ≠ stOk := by
  refine ⟨by unfold workingValues; decide +kernel, by unfold poolPasses; decide +kernel,
    by unfold poolPasses; decide +kernel, by rfl, by decide +kernel⟩

theorem witness_compare_and_reduce :
    (∀ a ∈ [0x100, 0x108, 0x1000], poolPasses poolS req1 (pq 8 0 0x100 (arg2 a)) (rg 0x100) 8 false false ∧
      secondOk (pq 8 0 0x100 (arg2 a)) = true ∧ reach (rg a) 8 false = none) ∧
    poolS.second 1 (pq 8 0 0x100 (arg2 0x108)) = .ok (rg 0x108) ∧
    (addrsOf (rg 0x100) 8).map (poolS.peek 1) = (addrsOf (rg 0x108) 8).map (poolS.peek 1) ∧
    (addrsOf (rg 0x100) 8).map (poolS.peek 1) ≠ (addrsOf (rg 0x1000) 8).map (poolS.peek 1) ∧
    (∀ op ∈ [0, 1, 2], poolPasses poolS req1 (pq 3 op 0x100 []) (rg 0x100) 12 false false ∧
      (pq 3 op 0x100 []).opFlags < 3) ∧
    poolPasses poolS ⟨2, 1, 9⟩ (gq 3 0 0 []) ⟨ctx1, some grant1, 0x1000⟩ 12 false false := by
  refine ⟨by unfold poolPasses; decide +kernel, by rfl, by decide +kernel, by decide +kernel,
    by unfold poolPasses; decide +kernel, by unfold poolPasses; decide +kernel⟩

def fenceH : Nat := handleOf 1 1 2 3 1
def chaffF : State := { poolS with pool := { poolS.pool with chaff := [65] } }

/-- The fence, on a good and on a chaff line; a word that is none; through the grant; the handle's importer. -/
theorem witness_pool_fences :
    (∀ a ∈ [0x40, 0x100], poolPasses poolS req1 (pq 0 0 a (leBytes 8 9)) (rg a) 8 true false ∧ a % 8 = 0) ∧
    poolS.ownFence 1 1 0x40 = some fence2 ∧ poolS.ownFence 1 1 0x100 = none ∧ poolS.isChaff (fence2.phys / 64) = false ∧
    poolPasses poolS ⟨2, 1, 9⟩ (gq 0 0 0 (leBytes 8 9)) ⟨ctx1, some grant1, 0x1000⟩ 8 true false ∧
    poolS.fenceByHandle 2 fenceH = .ok fence2 ∧ poolS.credit 2 = true ∧ poolS.poolMute = false ∧ poolS.poolServe = none ∧
    poolS.orderedWaits ⟨2, 1, 9⟩ ⟨0xFFFF, 0, 0, 0, 0, fenceH, []⟩ = false ∧
    chaffF.isChaff (fence2.phys / 64) = true := by
  refine ⟨by unfold poolPasses; decide +kernel, by decide +kernel, by decide +kernel, by decide +kernel,
    by unfold poolPasses; decide +kernel, by decide +kernel⟩

/-- Room for a grant, and 32 live grants of the party, the most it may have. -/
def grantsFull : State := { poolS with pool := { poolS.pool with
  grants := (List.range 32).map fun i => { grant1 with idx := i } } }

theorem witness_grant_and_ungrant :
    (∀ s ∈ [poolS, grantsFull], poolPasses s req1 (pq 2 0 0 [2, 1, 0, 0, 0, 0, 0, 0]) (rg 0) 0 false false) ∧
    poolS.grantRoom 1 = some 0 ∧ grantsFull.grantRoom 1 = none ∧ field [2, 1, 0, 0, 0, 0, 0, 0] 0 1 = 2 ∧
    poolS.ungrantOf 1 (grantHandle grant1) = .ok grant1 ∧
    poolS.orderedWaits req1 ⟨0xFFFF, 0, 0, 0, 0, grantHandle grant1, []⟩ = false ∧ poolS.credit 1 = true := by
  refine ⟨by unfold poolPasses; decide +kernel, by decide +kernel, by decide +kernel, by decide +kernel, by decide +kernel⟩

theorem witness_refused_pool_request :
    poolS.poolMute = false ∧ poolS.poolServe = none ∧ poolS.orderedWaits req1 (pq 1 0 0 []) = false ∧
      (poolS.ctx 2).map (·.party) = some 2 ∧ (poolS.ctx 3).map (fun c => (c.party, c.revoking)) = some (1, true) ∧
      1 < poolS.net.parties.length := by decide +kernel

/-- FADD in 32 bits wraps within the word and answers the old value. -/
theorem test_fadd_wraps : after (execFadd req1 (pq 0 0 0x100 (leBytes 8 0xFFFFFFFF)) poolS) (fun t =>
    readCells t.pool.mem 0x1100 8 == [6, 0, 0, 0, 0, 0, 0, 0]) = true := by decide +kernel
/-- A write to an own held line goes to its working value alone. -/
theorem test_write_to_held_line : after (execPoolWrite req1 (pq 1 0 0x80 [9]) poolS) (fun t =>
    t.peek 1 0x1080 == 9 && t.peek 2 0x1080 == 0 && mget 0 t.pool.mem 0x1080 == 0) = true := by decide +kernel
theorem test_lease_ends : after (execLeaseExpiry poolS) (fun t =>
    t.pool.chaff == [64, 67] && t.pool.holds.map (·.line) == [66]) = true := by decide +kernel

/-! ## Ports, power, temperature, the store, security -/

/-- The instant of a state. -/
def atNs (t : Nat) (s : State) : State := { s with husk := { s.husk with now := t } }

theorem witness_board :
    run0.boardServed = true ∧ bare.boardServed = false ∧ run0.husk.stage < 8 ∧ run0.boardParty = some 0 ∧
      run0.board.mailbox = none ∧ run0.board.outq = [] ∧ run0.husk.railFails < 16 ∧
      ({ run0 with board := { run0.board with pulse := some 29000 } } : State).board.pulse = some 29000 ∧ 29000 + 1000 ≤ run0.now ∧
      run0.now < 1029001 + 1000 := by decide +kernel

/-- A GET of a message of two bytes: one clocked, both clocked. -/
def outq0 : State := { run0 with board := { run0.board with outq := [(1, [1, 2]), (1, [3])] } }
theorem witness_get : outq0.boardServed = true ∧ outq0.board.outq = (1, [1, 2]) :: [(1, [3])] ∧ outq0.board.waiting = [] ∧
    1 < [1, 2].length ∧ [1, 2].length ≤ 2 := by decide +kernel

/-- Party 0 on the board port, in RUN and in HOLD; in recovery; bound to another party. -/
def hold0 : State := { run0 with husk := { run0.husk with power := .hold } }
theorem witness_board_reset :
    (∀ s ∈ [run0, hold0], s.boardServed = true ∧ s.boardParty = some 0 ∧ s.husk.power ≠ .off) ∧ hold0.husk.power = .hold ∧
      ({ run0 with sec := { run0.sec with lifecycle := 2 } } : State).boardParty ≠ some 0 ∧ run0.husk.recovery = false := by
  decide +kernel

/-- Debug CLOSED, VENDOR and OPEN. -/
theorem witness_debug_port :
    (∀ d ∈ [0, 1, 2], ({ run0 with sec := { run0.sec with debug := d } } : State).husk.power ≠ .off) ∧
      run0.husk.supply = true ∧ run0.husk.xtalStopped = false := by decide +kernel

theorem witness_reset_input :
    (∀ s ∈ [run0, hold0], s.husk.supply = true ∧ s.husk.power ≠ .off) ∧ 1000 ≤ (1000 : Nat) ∧ (999 : Nat) < 1000 := by
  decide +kernel

theorem group_in_range {s : State} (h : s.loader.group = none) : groupInRange s := by
  intro g hg; rw [h] at hg; cases hg

/-- A due warm reset with DRAM trained and before it. -/
def resetDue (dram : Bool) : State := { run0 with husk := { run0.husk with resetAt := some 1030000, dramOk := dram } }
theorem witness_warm_reset (d : Bool) :
    groupInRange (resetDue d) ∧ (resetDue d).husk.resetAt = some 1030000 ∧ 1030000 ≤ (resetDue d).now ∧
      (resetDue d).husk.supply = true ∧ (resetDue d).husk.power ≠ .off ∧ (resetDue d).husk.power ≠ .hold ∧
      (resetDue d).husk.dramOk = d :=
  ⟨group_in_range rfl, by cases d <;> decide +kernel⟩

def off0 : State := atNs 10000000000 { bare with husk := { bare.husk with
  power := .off, coolSince := some 0, hardPending := some ⟨0, 0, 0, 0, 0, 0, 0, 0, 0, 0, 0, 0, 0, 0⟩ } }
theorem witness_power_off_and_on :
    groupInRange run0 ∧ run0.husk.supply = true ∧ run0.husk.power ≠ .off ∧ groupInRange off0 ∧ off0.husk.coolSince = some 0 ∧
      off0.husk.power = .off ∧ off0.husk.hardPending.isSome = true ∧ off0.husk.lockedOff = false ∧ off0.husk.inputOk = true ∧
      off0.husk.supply = true ∧ 0 + 10000000000 ≤ off0.now ∧
      ({ off0 with husk := { off0.husk with supply := false } } : State).husk.supply = false :=
  ⟨group_in_range rfl, rfl, by decide, group_in_range rfl, by decide +kernel⟩

def sprout0 (n : Nat) : State := { bare with husk := { bare.husk with stage := n } }
theorem witness_rails :
    (sprout0 2).husk.supply = true ∧ (sprout0 2).husk.power = .sprout ∧ (sprout0 2).husk.railRetryAt = none ∧
      ({ sprout0 2 with husk := { (sprout0 2).husk with railRetryAt := some 0 } } : State).husk.railRetryAt = some 0 ∧
      0 ≤ (sprout0 2).now ∧ (sprout0 2).now < 1 ∧ run0.husk.power ≠ .off ∧
      (atNs 60000000000 run0).husk.savedAt + 60000000000 ≤ (atNs 60000000000 run0).now := by decide +kernel

/-- Slot 0 holds an image of security version 3, the minimum. -/
def shell0 : State := { sprout0 1 with sec := { bare.sec with slots := [some (3, 1), none], minVersion := 3 } }
theorem witness_sprout_stages :
    (∀ s ∈ [shell0, sprout0 1, sprout0 2, sprout0 3, sprout0 5, sprout0 6], s.sproutRuns = true) ∧
      shell0.slotPasses (shell0.sec.activate.getD shell0.sec.active) true = true ∧ shell0.husk.stage = 1 ∧ (499 : Int) < 500 ∧
      (∀ n < 2, ∀ sig, (sprout0 1).slotPasses n sig = false) ∧ (sprout0 1).sec.activate.getD (sprout0 1).sec.active < 2 ∧
      (sprout0 2).husk.railRetryAt = none := by decide +kernel

/-- Three entries in the vault: one with a good newest copy, one with a good older copy, one with none. -/
def env0 : StageEnv := ⟨true, true, 100, false, true, [0x300100, 0x403001], [0x403001], false⟩
def vaultS : State := { sprout0 0 with dict := { bare.dict with
  vault := [(0x4C0000, 300), (0x300100, 7), (0x403001, 2)], spare := [(0x300100, 9)] } }
theorem witness_sprout_reads_the_vault :
    vaultS.sproutRuns = true ∧ vaultS.husk.stage = 0 ∧ env0.badNew ≠ [] ∧ 0x4C0000 ∉ env0.badNew ∧ 0x300100 ∉ env0.badOld ∧
      vaultS.dict.vault.find? (fun e => decide (e.1 = 0x300100)) ≠ none ∧ 0x403001 ∈ env0.badOld ∧
      ({ env0 with badNew := [], badOld := [] } : StageEnv).badNew = [] := by decide +kernel

def cold16 : List Int := List.replicate 16 100
theorem witness_sensor_reading :
    run0.husk.supply = true ∧ cold16.length = 16 ∧ run0.thermal.readAt + 100000 ≤ run0.now ∧
      (atNs 99999 bare).now < (atNs 99999 bare).thermal.readAt + 100000 ∧ run0.frame.running = true ∧ run0.husk.safeAt = none ∧
      bare.frame.running = false ∧ run0.thermal.above130 < 2 := by decide +kernel

/-- Sensor 3 apart for a second; Tj above 125 °C for a second; the second reading of 130 °C; SAFE due; cooled for 10 s. -/
def hot0 : State :=
  { atNs 20000000000 run0 with
    thermal := { run0.thermal with apart := setAt run0.thermal.apart 3 (some 19000000000), gateSince := some 19000000000, above130 := 2 } }
def safe0 : State := { hot0 with husk := { hot0.husk with safeAt := some 20000000000, powerUpAt := [none, none, some 20000000000, none, none] } }
def cool0 : State := { hot0 with husk := { hot0.husk with power := .safe, coolSince := some 10000000000 } }
theorem witness_thermal_protection :
    hot0.thermal.apart.getD 3 none = some 19000000000 ∧ 19000000000 + 1000000000 ≤ hot0.now ∧
      hot0.thermal.inService.getD 3 false = true ∧ hot0.frame.running = true ∧ hot0.thermal.gateSince = some 19000000000 ∧
      hot0.gateTarget = some 0 ∧ hot0.thermal.above130 = 2 ∧ hot0.husk.safeAt = none ∧ hot0.husk.power = .run ∧
      safe0.husk.safeAt = some 20000000000 ∧ 20000000000 ≤ safe0.now ∧ safe0.husk.xtalStopped = false ∧
      cool0.husk.coolSince = some 10000000000 ∧ cool0.husk.power = .safe ∧ 10000000000 + 10000000000 ≤ cool0.now ∧
      cool0.store.lostAt = none ∧ safe0.husk.powerUpAt.getD 2 none = some 20000000000 := by decide +kernel

theorem witness_store_sample :
    run0.husk.supply = true ∧ run0.store.sampleAt + 1000000 ≤ run0.now ∧ (atNs 999999 run0).now < run0.store.sampleAt + 1000000 ∧
      (atNs 100000000 run0).store.evalAt + 100000000 ≤ (atNs 100000000 run0).now ∧ run0.now < run0.store.evalAt + 100000000 := by
  decide +kernel

/-- Charged from 4.7 V and from 4.9 V, with 6.6 C delivered. -/
def chargeS (from_ : Nat) : State := { run0 with store := { run0.store with
  charging := true, vTerm := 5000, amps := -19, chargeFrom := (0, from_, 6600000) } }
def lowS : State := { run0 with store := { run0.store with charging := false, vTerm := 4899 } }
theorem witness_charger :
    (∀ n ∈ [4700, 4900], (chargeS n).chargerBarred = false ∧ (chargeS n).store.charging = true ∧ 5000 ≤ (chargeS n).store.vTerm ∧
      -20 < (chargeS n).store.amps) ∧ 200 ≤ (chargeS 4700).vOc - 4700 ∧ (chargeS 4900).vOc - 4900 < 200 ∧
      0 < (roundDiv 6600000 ((chargeS 4700).vOc - 4700).toNat).toNat ∧
      lowS.chargerBarred = false ∧ lowS.store.charging = false ∧ lowS.store.vTerm < 4900 ∧
      (atNs 1200000000000 (chargeS 4700)).chargerBarred = false ∧ (chargeS 4700).store.timeoutRaised = false ∧
      (chargeS 4700).store.chargeFrom.1 + 1200000000000 ≤ (atNs 1200000000000 (chargeS 4700)).now := by decide +kernel

/-- At a boundary, 72 h and more after reset; a pulse of two seconds. -/
def pulseS : State :=
  { atNs 600000000000000 run0 with
    frame := { run0.frame with start := 600000000000000 },
    store := { run0.store with restSince := some 599995000000000 } }
def pulsing : State := { pulseS with store := { pulseS.store with pulse := some (599998000000000, true) } }
theorem witness_references :
    pulseS.husk.supply = true ∧ pulseS.store.restSince = some 599995000000000 ∧ 599995000000000 + 5000000000 ≤ pulseS.now ∧
      pulseS.splitFlag = false ∧ pulseS.frame.running = true ∧ pulseS.husk.power = .run ∧ pulseS.store.lostAt = none ∧
      pulseS.store.pulse = none ∧ pulseS.tier < 2 ∧ pulseS.sinceTick = 0 ∧ pulseS.store.pulseDue ≤ pulseS.now ∧
      pulsing.store.pulse = some (599998000000000, true) ∧ 599998000000000 + 2000000000 ≤ pulsing.now ∧
      (let c := (roundDiv 399800 (4900 - 4850)).toNat
       1 ≤ 5 * (5000 - 4990) ∧ 5 * (5000 - 4990) ≤ 2000 ∧ 1000 ≤ c ∧ c ≤ 80000) ∧
      pulseS.fallbackFlag = false ∧ pulseS.store.cleanAt + 2 * hours72 ≤ pulseS.now := by decide +kernel

def region0 : KeepRegion := ⟨1, 2, 1, 64, 0, [1], []⟩
def lost0 : State := { run0 with
  husk := { run0.husk with inputOk := false, now := 6000000 },
  store := { run0.store with lostAt := some 1900000, flushing := true, regions := [region0], copying := some (0, 5992000) } }
theorem witness_input_loss :
    run0.husk.supply = true ∧ run0.husk.inputOk = true ∧ run0.husk.power = .run ∧ lost0.store.lostAt = some 1900000 ∧
      lost0.store.flushing = true ∧ 1900000 + 4096000 ≤ lost0.now ∧ lost0.store.copying = some (0, 5992000) ∧
      lost0.store.regions[0]? = some region0 ∧ 5992000 + 125 * region0.length ≤ lost0.now := by decide +kernel

def holdLost : State := { hold0 with husk := { hold0.husk with inputOk := false } }
def offLost (locked : Bool) : State :=
  { off0 with husk := { off0.husk with inputOk := false, lockedOff := locked, hardPending := none } }
theorem witness_input_return :
    groupInRange holdLost ∧ holdLost.husk.supply = true ∧ holdLost.husk.inputOk = false ∧ holdLost.husk.power = .hold ∧
      holdLost.decision ≤ 1000 ∧
      (∀ l ∈ [true, false], (offLost l).husk.inputOk = false ∧ (offLost l).husk.power = .off ∧ (offLost l).husk.lockedOff = l ∧
        (offLost l).husk.hardPending = none ∧ (offLost l).husk.supply = true) :=
  ⟨group_in_range rfl, by decide +kernel⟩

/-- PFAIL changed 2 µs ago, or a nanosecond less; input power has been back for 100 ms, or a nanosecond less. -/
def pfailS (s : State) (at_ : Nat) : State := { s with husk := { s.husk with pfailAt := some at_ } }
theorem witness_pfail :
    run0.pfailStood 2000 = true ∧ (pfailS run0 1028000).pfailStood 2000 = true ∧
      (pfailS run0 1028001).pfailStood 2000 = false ∧ (pfailS run0 1028001).husk.inputOk = true ∧
      (∀ s ∈ [holdLost, offLost true, offLost false], s.pfailStood 100000000 = true ∧
        (pfailS (atNs 100000999 s) 1000).pfailStood 100000000 = false ∧
        (pfailS (atNs 100001000 s) 1000).pfailStood 100000000 = true) := by decide +kernel

/-! ## Security, the dictionary, settings and orders -/

/-- The public key of RFC 6979, A.2.6. The signatures below were made under its private key, outside the model. -/
def pubT : List Byte := leBytes 48 0xEC3A4E415B4E19A4568618029F427FA5DA9A8BC4AE92E02E06AAE5286B300C64DEF8F0EA9055866064A254515480BC13 ++
  leBytes 48 0x8015D9B72D7D57244EA8EF9AC0C621896708A59367F9DFB9F54CA84B3F1C9DB1288B231C3AE0D4FE7344FD2533264720
def rs (r s : Nat) : List Byte := leBytes 48 r ++ leBytes 48 s

/-- ECDSA P-384 with SHA-384 on "sample" and on another text (RFC 6979, A.2.6). -/
theorem test_signature :
    let sig := rs 0x94EDBB92A5ECB8AAD4736E56C691916B3F88140666CE9FA73D64C4EA95AD133C81A648152E44ACF96E36DD1E80FABE46
      0x99EF4AEB15F178CEA1FE40DB2603138F130E740A19624526203B6351D0A3A94FA329C145786E679E7B82C71A38628AC8
    signatureOk pubT (sha384 [0x73, 0x61, 0x6D, 0x70, 0x6C, 0x65]) sig = true ∧
      signatureOk pubT (sha384 [0x74, 0x61, 0x6D, 0x70, 0x6C, 0x65]) sig = false := by decide +kernel

/-- Party 0 on the board port writes to the OPERATIONAL device; party 1 is an Operator on N1. -/
def ow : Req := ⟨0, 4, 7⟩
def op1 : Req := ⟨1, 0, 7⟩
def od0 : State :=
  { run0 with
    od := [(0x241002, 1), (0x241102, 1), (0x241202, 1), (0x241302, 1), (0x241402, 1)],
    sec := { run0.sec with lifecycle := 2, planKeys := [⟨0, 8, 0, 0, pubT⟩, ⟨1, 9, 0, 0, pubT⟩], slots := [some (3, 1), some (3, 2)], minVersion := 3 },
    frame := { run0.frame with
      live := [(0x300100, 86400), (0x380105, 100), (0x380106, 100), (0x380107, 1000), (0x3C3001, 4), (0x3C3101, 1),
               (0x3C3201, 1), (0x4C0000, 250), (0x4C0700, 20)] } }
def noPlan : State := { od0 with loader := { od0.loader with plan := none } }

def planKey1 : List Byte := [1, 0, 0, 0, 7, 0, 0, 0] ++ List.replicate 96 5 ++ rs 0x37809AC68EC9CF82262008B0418F121950AFE3458566F424EFC28B7B86D9BD0B90E0C1E2759D4F34645AD8DDE3376ECE
    0x87ACA8D7A430ADF6A8C6C3B46520F9278E0A8D197F87039959A35CDBE116D384DC605ED53B008D17222740BFC4C0D1F6
def sak1 (dir : BitVec 8) : List Byte := [1, dir, 0, 0, 7, 0, 0, 0, 1, 0, 0, 0] ++ List.replicate 148 5 ++
  (if dir = 0 then rs 0x3CD8F95E9A03DCC211951A99A03707E90F39C2F3EC64ADD2224C13B68250949BD77B921EE20F7243A7143D18953C8799
    0xA15A541A5411B258E491C7FD3F6DE7453ADD7800606FE762ADCA0524408223BEAB87730EE214C51BA81584BF93CA87F
  else if dir = 1 then rs 0x12A67445DABEC567ED680450D11539BFBA5BBC7A2095173C43D833ED7011796CF923222DC8E51823AE5F184417A9D42E
    0xBC9CD48006E0EAC9FFA5966A33754F3464228A0C27CDCC424D7B1BA504BA5D8B6B2D06A65B8771B909C27EDE1A54B974
  else rs 0x3CC61AE5E1C32A2E9288739276E0E403062EE6B0763FDE04E5AD9FB6B112226C998E0697546133A69A50F4CDFB1AAEC4
    0x9CEDEDBC91295240E71AD9209EA67811FC94BBE5D6CD6E2BAD16D8B17016CCF110ED8B3E04FC88D75E83568F263CA374)

theorem witness_key_installs :
    od0.bytesCheck ow 0x2004 1 200 = .status stOk ∧ planKey1.length = 200 ∧ od0.planKeyStatus planKey1 = stOk ∧
      od0.planKeyStatus (setAt planKey1 7 1) ≠ stOk ∧ od0.bytesCheck ow 0x2004 2 256 = .status stOk ∧
      (∀ d ∈ [0, 1, 2], (sak1 d).length = 256 ∧ od0.sakStatus (sak1 d) true = stOk) ∧
      od0.sakStatus (sak1 0) false ≠ stOk ∧ od0.bytesCheck ow 0x2004 3 1 = .status stOk ∧ od0.keyBars 1 false = false ∧
      od0.partyPages 1 = [] ∧ (∀ x ∈ od0.store.regions, x.party ≠ 1) ∧ 1 < od0.sec.poolKeys.length := by decide +kernel

/-- A firmware image of 192 bytes. -/
def fwFile : List Byte :=
  [0x54, 0x56, 0x58, 0x46, 1, 0] ++ leBytes 2 3 ++ leBytes 4 192 ++ leBytes 2 0x3208 ++ [0xB1, 0] ++ leBytes 4 9 ++ List.replicate 172 0
theorem witness_firmware_slots :
    (let img := readFirmware fwFile
     od0.bytesCheck ow 0x2001 4 fwFile.length = .status stOk ∧ img.formatOk = true ∧ od0.sec.minVersion ≤ img.secVersion ∧
      (img.secVersion, img.fwVersion, img.length) = (3, 9, 192)) ∧ od0.inHold = false ∧
      od0.sec.activate ≠ some od0.inactiveSlot ∧ od0.sec.writing = none ∧
      ({ od0 with sec := { od0.sec with writing := some (1, 3, 9, 1030000) } } : State).sec.writing = some (1, 3, 9, 1030000) ∧
      1030000 ≤ od0.now ∧ od0.husk.supply = true ∧ od0.husk.recovery = false ∧
      od0.writeCheck ow 0x2001 5 1 = .status stOk ∧ od0.sec.slots.getD 1 none = some (3, 2) ∧ od0.sec.minVersion ≤ 3 := by
  decide +kernel

/-- A request for RETURNED signed by Laniale, and one by the Owner; a debug response while a challenge stands; a debug state
after 8 h. -/
def lifecycle3 : List Byte := [3, 1, 0, 0] ++ List.replicate 8 0 ++ [1, 0, 0, 0] ++ List.replicate 104 0
def lifecycleOwn : List Byte := [3, 0, 0, 0] ++ List.replicate 8 0 ++ [1, 0, 0, 0] ++ List.replicate 8 0 ++ rs 0x116295A2336D3809AC82170A0178DBD0919C7144D98AC21B544482DBD392B2995C0C00F2B9985C9A482102AAEFE102D1
    0xFD42CD42664AEF1971987AF503303E659A8193E160AA9B954094789139D9888E8D74D64CDBB91866CA7D42F1F77DD314
def dbg0 (t : Nat) : State :=
  { atNs 28800001000000 od0 with
    sec := { od0.sec with challenge := some [], debug := 1, debugAt := 0 },
    frame := { od0.frame with start := t } }
theorem witness_lifecycle_and_debug :
    od0.bytesCheck ow 0x2002 2 120 = .status stOk ∧ lifecycle3.length = 120 ∧ od0.lifecycleStatus lifecycle3 true = stOk ∧
      od0.lifecycleStatus lifecycle3 false ≠ stOk ∧ od0.lifecycleStatus lifecycleOwn false = stOk ∧ od0.inHold = false ∧
      (dbg0 0).bytesCheck ow 0x2003 3 104 = .status stOk ∧
      (dbg0 0).debugStatus ([1, 0, 0, 0, 0, 0, 0, 0] ++ List.replicate 96 0) true = stOk ∧
      (dbg0 0).debugStatus ([1, 0, 0, 0, 0, 0, 0, 0] ++ List.replicate 96 0) false ≠ stOk ∧ (dbg0 0).sec.debug ≠ 0 ∧
      (dbg0 0).sec.debugAt + 28800000000000 ≤ (dbg0 0).now ∧ (dbg0 0).frame.running = true ∧ (dbg0 0).sinceTick ≠ 0 ∧
      (dbg0 28800001000000).sinceTick = 0 := by decide +kernel

def scrubS (stage : Nat) : State := { run0 with sec := { run0.sec with lifecycle := 3, scrub := stage, scrubPod := 39 } }
theorem witness_scrub :
    ∀ n ∈ [1, 2, 3], (scrubS n).sec.lifecycle = 3 ∧ (scrubS n).frame.running = true ∧ (scrubS n).husk.xtalStopped = false ∧
      (scrubS n).sec.scrub = n ∧ (scrubS n).sec.scrubPod < 40 ∧ (scrubS n).pods.length = 40 ∧ ((scrubS n).pod 39).fails = 0 := by
  decide +kernel

/-- The values at the ends of their ranges, in the entries that settings name. -/
theorem witness_settings :
    (∀ x ∈ ([(0x4C00, 0, 125), (0x4C00, 0, 20000), (0x3001, 0, 3600), (0x3001, 0, 0), (0x2400, 1, 2), (0x2420, 1, 1), (0x4030, 1, 1), (0x2800, 5, 0),
        (0x3C31, 1, 1), (0x3801, 1, 0), (0x4800, 1, 1), (0x4C07, 0, 10), (0x2412, 1, 0), (0x2411, 1, 1)] : List (Nat × Nat × Nat)),
      noPlan.writeCheck ow x.1 x.2.1 x.2.2 = .status stOk) ∧
    noPlan.loader.plan = none ∧ noPlan.bindingStatus 1 1 1 = stOk ∧ noPlan.jobReads 0 = false ∧ (5 ≠ 1 ∧ 5 ≠ 3) ∧
    (∀ p, od0.loader.plan = some p → p.comp.pFloor ≤ 125) ∧
    noPlan.writeCheck ow 0x4C00 0 124 = .status stRange ∧ noPlan.writeCheck op1 0x4C00 0 250 = .status stDenied := by
  refine ⟨by decide +kernel, rfl, by decide +kernel, by decide +kernel, by decide, ?_, by decide +kernel, by decide +kernel⟩
  intro p hp
  cases hp
  decide

/-- An entry of one share, the same and a changed value of an RWP setting, with 15 and 16 commits in the last second. -/
def commits (n : Nat) : State := { noPlan with dict := { noPlan.dict with commitTimes := List.replicate n 1000000 } }
theorem witness_setting_done :
    (entryRow 0x4C00 0).isSome ∧ noPlan.reg (okey 0x4C00 0) ≠ 125 ∧ (commits 15).commitsNow.length < 16 ∧
      16 ≤ (commits 16).commitsNow.length ∧ noPlan.reg (okey 0x4C00 0) = 0 ∧ noPlan.committing (okey 0x4C00 0) = false := by
  decide +kernel

/-- A period of 150 µs under a plan whose P_floor is 200 µs. -/
def floorS : State := { od0 with loader := { od0.loader with plan := some ⟨{ comp0 with pFloor := 200 }, [img0]⟩ } }
theorem witness_period_below_the_floor :
    floorS.writeCheck ow 0x4C00 0 150 = .status stOk ∧ floorS.numberFits ow 0x4C00 0 150 = stOk ∧
      ({ floorS with husk := { floorS.husk with power := .safe } } : State).writeCheck ow 0x4C00 0 150 = .status stThermal ∧
      floorS.loader.plan.map (fun p => decide (150 < p.comp.pFloor)) = some true := by decide +kernel

theorem witness_trace_setting : op1.party = 1 ∧ od0.writeCheck op1 0x4801 4 5 = .status stOk := by decide +kernel

/-- Party 1 has three pages mapped. -/
def pagesS : State := { noPlan with pool := { noPlan.pool with ctxs := [ctx1] } }
theorem witness_allotments :
    (∀ x ∈ ([(5, 0), (2, 4096), (9, 64)] : List (Nat × Nat)), noPlan.writeCheck ow 0x3801 x.1 x.2 = .status stOk) ∧
      noPlan.allotStatus 1 2 16 = stOk ∧ pagesS.allotStatus 1 2 2 ≠ stOk ∧
      pagesS.writeCheck ow 0x3801 2 2 = .status stOk ∧ noPlan.commitsNow.length < 16 ∧
      noPlan.bytesCheck ow 0x3801 3 12 = .status stOk ∧ noPlan.podAllotStatus 1 allot0 = stOk ∧ allot0.length = 12 := by
  decide +kernel

theorem witness_staged_orders :
    (∀ x ∈ ([(0x2420, 3), (0x4030, 3), (0x3C00, 3), (0x3801, 0x0A), (0x4C20, 3), (0x2003, 4)] : List (Nat × Nat)),
      od0.writeCheck ow x.1 x.2 1 = .status stOk) ∧ (od0.pod 0).retired = false ∧ (od0.pod 0).fenced = false := by
  decide +kernel

def spareS : State := { od0 with od := [(0x304401, 1)] }
theorem witness_immediate_orders :
    (∀ x ∈ ([(0x4C0B, 0), (0x4010, 4), (0x3010, 4), (0x3114, 9), (0x3110, 9), (0x2A00, 8)] : List (Nat × Nat)),
      spareS.writeCheck ow x.1 x.2 1 = .status stOk) ∧
      spareS.writeCheck ow 0x2010 1 0x5A5A = .status stOk ∧ 0 < spareS.clusters.length ∧ spareS.reg (podReg 4 1) = 1 ∧
      spareS.reg (podReg 0 1) ≠ 1 ∧ spareS.writeCheck ow 0x4400 2 0x2000 = .status stOk ∧ testUnit 0x2000 = true ∧
      spareS.testRuns 0x2000 = false := by decide +kernel

/-- The bytes of a pip image of one NOP (Table PIP-3). -/
def pipFile (engine budget : Nat) : List Byte :=
  let b := leBytes 1 engine ++ [0] ++ leBytes 2 1 ++ leBytes 4 0 ++ leBytes 4 budget
  b ++ leBytes 4 (crc32 (b ++ leBytes 4 0)) ++ leBytes 4 0
def classImg : PipImage := ⟨3, false, [0], [], 0, 2000, true⟩
def regionRec : List Byte := [1, 0, 1, 0] ++ leBytes 4 64 ++ leBytes 8 0

/-- The trim bank of AFE channel 0 with every code 0 (Table CAL-4). -/
def afeBank : List Byte :=
  let h := leBytes 2 0x5000 ++ [1, 0] ++ List.replicate 14 0 ++ leBytes 2 (bankBytes 0x5000) ++ List.replicate 4 0
  let c := List.replicate (bankBytes 0x5000) 0
  h ++ leBytes 4 (crc32 (h ++ c)) ++ c
theorem witness_domain_writes :
    od0.bytesCheck ow 0x3890 2 0 = .status stOk ∧ od0.mirrorStatus [] = stOk ∧ od0.mirrorStatus [1] ≠ stOk ∧
      od0.bytesCheck ow 0x24A0 0x0A regionRec.length = .status stOk ∧ regionsOk regionRec = true ∧
      mget [] od0.dict.doms 0x24A00A ≠ regionRec ∧ od0.commitsNow.length < 16 ∧
      od0.store.lostAt = none ∧ od0.bytesCheck ow 0x24A0 0x0B 20 = .status stOk ∧ (pipFile 2 4000).length = 20 ∧
      readPip (pipFile 2 4000) = ⟨2, false, [0], [], 0, 4000, true⟩ ∧ (readPip (pipFile 3 4000)).engine ≠ 2 ∧
      (readPip (List.replicate 20 1)).crcOk = false ∧ od0.bytesCheck ow 0x3C80 1 20 = .status stOk ∧
      readPip (pipFile 3 2000) = classImg ∧ pipImageOk classImg 3 2048 = true ∧
      pipImageOk (readPip (pipFile 2 2000)) 3 2048 = false ∧ od0.restoreStatus 0x5000 afeBank = stOk ∧
      od0.restoreStatus 0x2000 [] ≠ stOk ∧ od0.bytesCheck ow (bankIndex 0x2000) 1 0 = .status stOk ∧
      od0.bytesCheck ow (bankIndex 0x5000) 1 afeBank.length = .status stOk := by
  decide +kernel

/-- A read that is refused, of numbers, of DOMAINs at offset 0, at its length entry, at a part with and without a snapshot. -/
def snapS : State := { od0 with dict := { od0.dict with
  snaps := [⟨0, 0x401001, [1, 2, 3], 1000000⟩], stagings := [⟨0, 0x380103, 24, List.replicate 12 0, 1000000⟩] } }
theorem witness_reads :
    ow.port ≠ 3 ∧ ow.party < od0.net.parties.length ∧ od0.readCheck op1 0x2003 2 0 = .status stDenied ∧
      od0.readCheck ow 0x9999 0 0 = .status stNoObject ∧ od0.readCheck ow 0x4C00 0 0 = .status stOk ∧
      (entryRow 0x4C00 0).map (·.kind) = some .uns ∧ od0.readCheck ow 0x4010 1 0 = .status stOk ∧
      od0.readCheck ow 0x4010 1 0xFFFFFFFF = .status stOk ∧ snapS.readCheck ow 0x4010 1 2 = .status stOk ∧
      od0.readCheck ow 0x4010 1 2 = .status stOk ∧ (entryRow 0x4010 1).map (·.kind) = some .domain ∧
      (snapS.snapOf 0 0x401001).isSome ∧ od0.snapOf 0 0x401001 = none ∧
      od0.readCheck ow 0x2003 2 0 = .status stOk ∧ od0.challengeBusy = false := by decide +kernel

/-- 12 of 24 bytes staged: a part of 11 bytes, of 12, of 13. -/
theorem witness_writes :
    od0.writeCheck ow 0x4C02 0 3 = .status stOk ∧ od0.writeCheck ow 0x4C00 0 0 = .status stRange ∧
      od0.bytesCheck ow 0x3801 3 4 = .status stOk ∧ (∀ n ∈ [11, 12, 13], snapS.bytesCheck ow 0x3801 3 n = .status stOk) ∧
      (snapS.stagingOf 0 0x380103).map (fun x => (x.data.length, x.len)) = some (12, 24) ∧
      (atNs 1001000000 snapS).dict.snaps.head?.map (·.last) = some 1000000 ∧
      1000000 + 1000000000 ≤ (atNs 1001000000 snapS).now := by
  decide +kernel

def commitS : State := { od0 with dict := { od0.dict with
  commits := [(ow, 0x4C0000, 300, 1000000)], vault := [(0x4C0000, 200)] } }
def differS : State := { od0 with frame := { od0.frame with differ := [(0x403001, 16, 16, false)] } }
theorem witness_commit_and_disagree :
    commitS.mute = false ∧ commitS.dict.commits = [(ow, 0x4C0000, 300, 1000000)] ∧ commitS.dict.domCommits = [] ∧
      commitS.dict.vault.find? (fun e => e.1 = 0x4C0000) = some (0x4C0000, 200) ∧ commitS.committing (okey 0x4C00 0) = true ∧
      (allPairs.find? fun x => x.cmd = okey 0x4030 1).isSome ∧
      (differS.frame.differ.find? fun d => d.1 = okey 0x4030 1) = some (0x403001, 16, 16, false) := by decide +kernel

/-! ## Parties -/

/-- A command of 64 bytes from its opcode and the bytes from offset 8 on. -/
def cmdB (op : Nat) (rest : List Byte) : List Byte :=
  leBytes 2 op ++ List.replicate 6 0 ++ rest ++ List.replicate (56 - rest.length) 0

/-- Queue 0 of party 1's root context has a command in execution; context 20 is the party's too, 2 is another's. -/
def queue0 (cmd : List Byte) : Queue := ⟨0, 8, 0x1000, 0x1400, 0x1800, 1, 1, 0, some cmd, 0⟩
def qS (cmd : List Byte) : State :=
  { poolS with
    frame := { poolS.frame with live := mset 0 poolS.frame.live 0x380102 4 },
    pool := { poolS.pool with ctxs :=
      [{ ctx1 with queues := [queue0 cmd, { queue0 cmd with num := 1, cur := none }] },
       { ctx1 with num := 2, party := 2, pages := [] }, { ctx1 with num := 20, pages := [(3, 3, true)] }] } }
def ctxQ (cmd : List Byte) : Ctx := { ctx1 with queues := [queue0 cmd, { queue0 cmd with num := 1, cur := none }] }

theorem runs_in_queue (op : Nat) (rest : List Byte)
    (h : (qS (cmdB op rest)).poolMute = false ∧ (qS (cmdB op rest)).poolServe = none ∧
      (qS (cmdB op rest)).ctx 1 = some (ctxQ (cmdB op rest)) ∧
      (qS (cmdB op rest)).queue 1 0 = some (queue0 (cmdB op rest)) ∧ field (cmdB op rest) 0 2 = op) :
    inExecution (qS (cmdB op rest)) 1 0 op (ctxQ (cmdB op rest)) (cmdB op rest) :=
  ⟨h.1, h.2.1, h.2.2.1, ⟨_, h.2.2.2.1, rfl⟩, h.2.2.2.2⟩

/-- The completion of a NOP, whose record goes to the ring at 0x1400. -/
theorem witness_completion :
    workingValues (qS (cmdB 1 [])) ∧ (qS (cmdB 1 [])).ctx 1 = some (ctxQ (cmdB 1 [])) ∧
      (qS (cmdB 1 [])).queue 1 0 = some (queue0 (cmdB 1 [])) ∧ (physRange (ctxQ (cmdB 1 [])) 0x1400 32).isSome ∧
      writableRange (ctxQ (cmdB 1 [])) 0x1400 32 = true ∧ (qS (cmdB 1 [])).writeStatus 1 [2 * 64 + 16] = stOk := by
  unfold workingValues
  decide +kernel

/-- CTX_CREATE with a number free, from a context that is no root, at 256 contexts; CTX_DESTROY of 20, of the root, of none. -/
def ctxFull : State := { qS (cmdB 2 []) with pool := { (qS (cmdB 2 [])).pool with
  ctxs := ctxQ (cmdB 2 []) :: List.replicate 255 { ctx1 with num := 30 } } }
theorem witness_context_commands :
    inExecution (qS (cmdB 1 [])) 1 0 1 (ctxQ (cmdB 1 [])) (cmdB 1 []) ∧
      inExecution (qS (cmdB 2 [])) 1 0 2 (ctxQ (cmdB 2 [])) (cmdB 2 []) ∧
      (qS (cmdB 2 [])).newCtxNum = some 16 ∧ (ctxQ (cmdB 2 [])).num = (ctxQ (cmdB 2 [])).party ∧
      256 ≤ (ctxFull.pool.ctxs.filter fun y => y.party = 1).length ∧
      inExecution (qS (cmdB 3 (leBytes 2 20))) 1 0 3 (ctxQ (cmdB 3 (leBytes 2 20))) (cmdB 3 (leBytes 2 20)) ∧
      (qS (cmdB 3 (leBytes 2 20))).destroying 1 0 = false ∧
      (qS (cmdB 3 [])).targetOf (ctxQ (cmdB 3 [])) 20 false = .ok { ctx1 with num := 20, pages := [(3, 3, true)] } ∧
      (qS (cmdB 3 [])).targetOf (ctxQ (cmdB 3 [])) 1 false = .ok (ctxQ (cmdB 3 [])) ∧
      (qS (cmdB 3 [])).targetOf (ctxQ (cmdB 3 [])) 99 false = .error stNoObject ∧
      (qS (cmdB 3 [])).targetOf (ctxQ (cmdB 3 [])) 2 false = .error stDenied :=
  ⟨runs_in_queue _ _ (by decide +kernel), runs_in_queue _ _ (by decide +kernel), by decide +kernel, by decide,
    by decide +kernel, runs_in_queue _ _ (by decide +kernel), by decide +kernel⟩

/-- MAP of one page, the last of the allotment, and of two; UNMAP of a page of context 20. -/
def mapC (n : Nat) : List Byte := leBytes 2 1 ++ [1, 0] ++ leBytes 4 n ++ leBytes 8 0x4000
def unmapC : List Byte := leBytes 2 20 ++ [0, 0] ++ leBytes 4 1 ++ leBytes 8 0x3000
theorem witness_map_and_unmap :
    (∀ n ∈ [1, 2], field (cmdB 4 (mapC n)) 11 1 = 0 ∧ field (cmdB 4 (mapC n)) 26 6 = 0 ∧ field (cmdB 4 (mapC n)) 10 1 < 2 ∧
      field (cmdB 4 (mapC n)) 12 4 = n ∧ pagesOk n 0x4000 = true ∧
      (qS (cmdB 4 (mapC n))).targetOf (ctxQ (cmdB 4 (mapC n))) 1 true = .ok (ctxQ (cmdB 4 (mapC n))) ∧
      ∀ i, i < n → pageOf (ctxQ (cmdB 4 (mapC n))) (4 + i) = none) ∧
    (qS []).pageAllot 1 = 4 ∧ ((qS []).partyPages 1).length = 3 ∧
    inExecution (qS (cmdB 4 (mapC 1))) 1 0 4 (ctxQ (cmdB 4 (mapC 1))) (cmdB 4 (mapC 1)) ∧
    inExecution (qS (cmdB 5 unmapC)) 1 0 5 (ctxQ (cmdB 5 unmapC)) (cmdB 5 unmapC) ∧ field (cmdB 5 unmapC) 10 2 = 0 ∧
    (qS []).targetOf (ctxQ []) 20 true = .ok { ctx1 with num := 20, pages := [(3, 3, true)] } ∧ pagesOk 1 0x3000 = true :=
  ⟨by decide +kernel, by decide +kernel, by decide +kernel, runs_in_queue _ _ (by decide +kernel),
    runs_in_queue _ _ (by decide +kernel), by decide +kernel⟩

/-- MAP of an alias: two pages of context 20 as they are mapped in context 1, and one that context 1 does not map. -/
def aliasC (a : Nat) : List Byte := leBytes 2 20 ++ [2, 0] ++ leBytes 4 2 ++ leBytes 8 0x5000 ++ leBytes 2 1 ++ leBytes 6 0 ++ leBytes 8 a
theorem witness_map_alias :
    (∀ a ∈ [0, 0x2000], inExecution (qS (cmdB 4 (aliasC a))) 1 0 4 (ctxQ (cmdB 4 (aliasC a))) (cmdB 4 (aliasC a)) ∧
      field (cmdB 4 (aliasC a)) 11 1 = 0 ∧ field (cmdB 4 (aliasC a)) 26 6 = 0 ∧ field (cmdB 4 (aliasC a)) 10 1 = 2 ∧
      field (cmdB 4 (aliasC a)) 12 4 = 2 ∧ pagesOk 2 0x5000 = true) ∧
    (qS []).targetOf (ctxQ []) 20 true = .ok { ctx1 with num := 20, pages := [(3, 3, true)] } ∧
    (∀ i, i < 2 → pageOf { ctx1 with num := 20, pages := [(3, 3, true)] } (5 + i) = none) ∧
    (qS []).aliasPages (ctxQ []) { ctx1 with num := 20, pages := [(3, 3, true)] } 1 0 2 = .ok [1, 2] ∧
    (qS []).aliasPages (ctxQ []) { ctx1 with num := 20, pages := [(3, 3, true)] } 1 0x2000 2 = .error stNoObject := by
  refine ⟨?_, by decide +kernel⟩
  intro a ha
  fin_cases ha <;> exact ⟨runs_in_queue _ _ (by decide +kernel), by decide +kernel⟩

/-- QUEUE_CREATE of queue 2 with rings that fit and with a ring beyond the pages; QUEUE_DESTROY of 0 by itself and of 1. -/
def qCreate (cr : Nat) : List Byte := leBytes 2 1 ++ [2, 0] ++ leBytes 4 8 ++ leBytes 8 cr ++ leBytes 8 0x1400 ++ leBytes 8 0x1800
theorem witness_queue_commands :
    (qS []).targetOf (ctxQ []) 1 true = .ok (ctxQ []) ∧
      inExecution (qS (cmdB 6 (qCreate 0x1000))) 1 0 6 (ctxQ (cmdB 6 (qCreate 0x1000))) (cmdB 6 (qCreate 0x1000)) ∧
      field (cmdB 6 (qCreate 0x1000)) 11 1 = 0 ∧ queueOk (ctxQ []) 2 8 0x1000 0x1400 0x1800 = true ∧
      queueOk (ctxQ []) 2 8 0x3000 0x1400 0x1800 = false ∧
      inExecution (qS (cmdB 7 [1, 0, 1])) 1 0 7 (ctxQ (cmdB 7 [1, 0, 1])) (cmdB 7 [1, 0, 1]) ∧
      ((ctxQ []).queues.find? fun k => k.num = 1).map (·.cur) = some none ∧
      ((ctxQ [1]).queues.find? fun k => k.num = 0).map (·.cur) = some (some [1]) :=
  ⟨by decide +kernel, runs_in_queue _ _ (by decide +kernel), by decide +kernel, by decide +kernel, by decide +kernel,
    runs_in_queue _ _ (by decide +kernel), by decide +kernel⟩

theorem witness_fence_registry :
    (∀ x ∈ ([(0x10, leBytes 8 0x100), (0x13, leBytes 8 0x40 ++ [3]), (0x14, leBytes 8 fenceH), (0x15, leBytes 8 0x40)] :
        List (Nat × List Byte)), inExecution (qS (cmdB x.1 x.2)) 1 0 x.1 (ctxQ (cmdB x.1 x.2)) (cmdB x.1 x.2)) ∧
    physOf (ctxQ []) 0x100 = some 0x1100 ∧ writableRange (ctxQ []) 0x100 8 = true ∧ (qS []).writeStatus 1 [0x1100 / 64] = stOk ∧
    (qS []).heldBy (0x1100 / 64) = none ∧ ((qS []).fenceRoom 1).isSome ∧ (qS []).ownFence 1 1 0x40 = some fence2 ∧
    handleKind fenceH = 1 ∧ handleSrc fenceH = 1 ∧ fenceH ∉ (qS []).pool.dead ∧
    (qS []).fenceByHandle (handleImporter fenceH) fenceH = .ok fence2 := by
  refine ⟨?_, by decide +kernel⟩
  intro x hx
  fin_cases hx <;> exact runs_in_queue _ _ (by decide +kernel)

/-- FENCE_ADVANCE of an own fence and of a handle; FENCE_WAIT for 5 and for 6, without and with a limit; the waits' ends. -/
def waitC (v limit : Nat) : List Byte := [1, 0, 0, 0, 0, 0, 0, 0] ++ leBytes 8 0x40 ++ leBytes 8 v ++ leBytes 4 limit
def wait0 (v : Nat) : FWait := ⟨1, 0, 3, 0, v, 1, 30000⟩
def waitS (v : Nat) : State := { qS (cmdB 0x12 (waitC v 1)) with pool := { (qS (cmdB 0x12 (waitC v 1))).pool with waits := [wait0 v] } }
theorem witness_fence_waits :
    inExecution (qS (cmdB 0x11 (waitC 9 0))) 1 0 0x11 (ctxQ (cmdB 0x11 (waitC 9 0))) (cmdB 0x11 (waitC 9 0)) ∧
      field (cmdB 0x11 (waitC 9 0)) 9 7 = 0 ∧ (qS []).ownFence 1 1 0x40 = some fence2 ∧
      (∀ x ∈ ([(5, 0), (6, 0), (6, 60000)] : List (Nat × Nat)), inExecution (qS (cmdB 0x12 (waitC x.1 x.2))) 1 0 0x12
          (ctxQ (cmdB 0x12 (waitC x.1 x.2))) (cmdB 0x12 (waitC x.1 x.2)) ∧ field (cmdB 0x12 (waitC x.1 x.2)) 32 4 = x.2 ∧
        field (cmdB 0x12 (waitC x.1 x.2)) 24 8 = x.1) ∧
      (qS []).pool.waits = [] ∧ (qS []).fenceRef (ctxQ []) 1 0x40 = .ok fence2 ∧
      (qS []).isChaff (fence2.phys / 64) = false ∧ (waitS 6).poolMute = false ∧
      (waitS 6).waitEnds (wait0 6) (ctxQ []) = some stBusy ∧ (waitS 5).waitEnds (wait0 5) (ctxQ []) = some stOk ∧
      (waitS 6).waitFence (wait0 6) (ctxQ []) = .ok fence2 ∧ (wait0 6).started + (wait0 6).limit * 1000000 ≤ (waitS 6).now ∧
      (atNs 1029999 (waitS 6)).now < (wait0 6).started + (wait0 6).limit * 1000000 := by
  refine ⟨runs_in_queue _ _ (by decide +kernel), by decide +kernel, by decide +kernel, ?_, by decide +kernel⟩
  intro x hx
  fin_cases hx <;> exact ⟨runs_in_queue _ _ (by decide +kernel), by decide +kernel⟩

/-- FENCE_WAIT on a word that is no fence. -/
def noFenceC : List Byte := [1, 0, 0, 0, 0, 0, 0, 0] ++ leBytes 8 0x48 ++ leBytes 8 5 ++ leBytes 4 0
theorem witness_refused_fence_wait :
    inExecution (qS (cmdB 0x12 noFenceC)) 1 0 0x12 (ctxQ (cmdB 0x12 noFenceC)) (cmdB 0x12 noFenceC) ∧
      field (cmdB 0x12 noFenceC) 9 7 = 0 ∧ (qS []).pool.waits = [] ∧ field (cmdB 0x12 noFenceC) 32 4 ≤ 60000 ∧
      (qS []).fenceRef (ctxQ []) 1 0x48 = .error stNoObject :=
  ⟨runs_in_queue _ _ (by decide +kernel), by decide +kernel⟩

/-- JOB_START of descriptor 0, a POOLED one of context 1 whose slot is free; JOB_CANCEL of slot 0, running, and of slot 16. -/
def jobCmd (cmd : List Byte) (od : List (Nat × Nat)) : State :=
  { qS cmd with
    od := od, loader := tile0.loader,
    jobs := setAt poolS.jobs 0 { Job.blank with ctx := 1 },
    walkers := setAt poolS.walkers 0 { Walker.blank with descs := [(0, desc0 2 0 0 5000)] } }
theorem witness_job_commands :
    (let s := jobCmd (cmdB 0x20 (leBytes 2 0)) []
     s.poolMute = false ∧ s.poolServe = none ∧ (∀ j ∈ s.jobs, j.cmd = none) ∧ s.descAt 0 0 = some (desc0 2 0 0 5000) ∧
      dKind (desc0 2 0 0 5000) = 2 ∧ dCtx (desc0 2 0 0 5000) = 1 ∧ dJob (desc0 2 0 0 5000) = 0 ∧ s.jobs.length = 16 ∧
      s.jobState 0 = 0 ∧ ((s.queue 1 0).map (·.cur)) = some (some (cmdB 0x20 (leBytes 2 0)))) ∧
    (let s := jobCmd (cmdB 0x21 [0]) [(0x321001, 1)]
     s.jobState 0 = 1 ∧ (s.job 0).ctx = 1 ∧ field (cmdB 0x21 [0]) 8 1 < 16 ∧ 16 ≤ field (cmdB 0x21 [16]) 8 1) := by
  decide +kernel

/-- The job's slot is not FREE: another job runs in it, or its result was not acknowledged. -/
theorem witness_job_slot_busy :
    (∀ n ∈ [1, 3], (jobCmd (cmdB 0x20 (leBytes 2 0)) [(0x321001, n)]).jobState 0 ≠ 0) ∧
      ((jobCmd (cmdB 0x20 (leBytes 2 0)) []).ctx 1).map (fun x => (x.num, x.resident)) = some (1, true) := by decide +kernel

def mirror0 : Mirror := ⟨0, true, 1, 1, 1, 5, 7, 3, 2, 0, 0⟩
def mirrorS : State := { poolS with
  frame := { poolS.frame with number := 1 },
  pool := { poolS.pool with mirrors := [mirror0], resWait := [(1, 1, 0)] } }
theorem witness_residency_and_mirrors :
    mirrorS.poolMute = false ∧ mirrorS.active = true ∧ mirrorS.pool.mirrors[0]? = some mirror0 ∧ mirror0.enable = true ∧
      mirror0.state ≠ 0 ∧ mirror0.state ≠ 3 ∧ mirror0.polled + mirror0.period ≤ mirrorS.frame.number ∧ 2 ≤ mirror0.missed ∧
      (∀ w ∈ mirrorS.pool.resWait, mirrorS.now < w.2.2 + 100000000) := by decide +kernel

/-- CLEAR's refusal aside, a NOP completes: its queue counts it. -/
theorem test_nop_completes : after (execCmdNop 1 0 (qS (cmdB 1 []))) (fun t =>
    ((t.queue 1 0).map fun y => (y.cur, y.completed)) == some (none, 1)) = true := by decide +kernel

/-! ## The loader -/

/-- A header of an image that passes check 1. -/
def hdrK (kind party seg key : Nat) : ImgHdr :=
  ⟨0x50585654, kind, 1, 1, 64, 0x3208, 0xB1, 0, 0, party, seg, key, true, true, 0, [], []⟩

/-- One segment of party 1 with one object of 8 by 8 on cluster 0, in T0 and in T3. -/
def objL : WObj := { obj0 with levels := [List.replicate 64 7] }
def imgL : SegImage :=
  { imgT with hdr := hdrK 2 1 0 9, entries := [some (0, 1000), none, none, some (0, 1000)], objs := [objL],
              codeBase := 1024, dataBase := 0x4000, chains := [⟨0, 0, [quant8, 0]⟩], descs := [], jobs := [], pips := [] }
def recL : SegRec := ⟨0, 1, 0, true, 0, 1, [some 1000, none, none, some 1000], 0, 64, 0, 0⟩
def planL : PlanImage := ⟨⟨hdrK 1 0 0xFF 8, 0, 125, 10, 10, 0, [recL], List.replicate 40 ⟨0, 0, 0, 0⟩⟩, [imgL]⟩
def updL : UpdateImage := ⟨hdrK 3 1 0xFF 9, 5, 0, 77, [List.replicate 64 3]⟩

/-- The Owner and party 1 have contexts and plan keys; a plan is in force; every cluster has a spare. -/
def loadS : State :=
  { od0 with
    pool := { od0.pool with ctxs := [{ ctx1 with num := 0, party := 0 }, ctx1] },
    od := od0.od ++ [(0x331001, 1)], loader := { od0.loader with plan := some planL } }
/-- A section as it stands in the table: its place, its length and its CRC. -/
def secRow (type off : Nat) (b : List Byte) : List Byte :=
  leBytes 2 type ++ leBytes 2 0 ++ leBytes 4 off ++ leBytes 4 b.length ++ leBytes 4 (crc32 b)

def roundUp (n : Nat) : Nat := (n + 63) / 64 * 64

/-- Table and bodies of sections from an offset on, each body on a 64-byte boundary. -/
def sections : Nat → List (Nat × List Byte) → List Byte × List Byte
  | _, [] => ([], [])
  | off, x :: xs =>
    let n := roundUp x.2.length
    let rest := sections (off + n) xs
    (secRow x.1 off x.2 ++ rest.1, x.2 ++ List.replicate (n - x.2.length) 0 ++ rest.2)

/-- An image (Tables LDR-1, LDR-2) with a signature. -/
def imageFile (kind party seg key : Nat) (sig : List Byte) (secs : List (Nat × List Byte)) : List Byte :=
  let start := roundUp (64 + 16 * secs.length)
  let x := sections start secs
  leBytes 4 0x50585654 ++ leBytes 1 kind ++ leBytes 1 1 ++ leBytes 2 secs.length ++ leBytes 4 (start + x.2.length + 128) ++
    leBytes 2 0x3208 ++ leBytes 2 0xB1 ++ leBytes 8 0 ++ leBytes 1 party ++ leBytes 1 seg ++ leBytes 2 0 ++ leBytes 4 key ++
    List.replicate 32 0 ++ x.1 ++ List.replicate (start - 64 - 16 * secs.length) 0 ++ x.2 ++ sig ++ List.replicate 32 0

/-- Entries in T0 and T3, one bundle, one own fence. -/
def entryFile : List Byte :=
  let e : List Byte := leBytes 4 0 ++ leBytes 4 1000
  let n : List Byte := leBytes 2 0xFFFF ++ leBytes 6 0
  e ++ n ++ n ++ e ++ (List.replicate 8 n).flatten
def segFile : List Byte := imageFile 2 1 0 9 (rs 0x9CC4B4F37CE2DF15327A6EA378BECCEBC67BB82CF5D8A20559D439EBB80EDAAA9584AFA20760DD30DC1C2CE45B7C6475
    0x70B2BE8F4D89435B60A3F784EE252A8291A499AEAE4C7D09EEFEDA6A004A0BA8556E2F6CC40534AA20CE8081FF4AD49D)
  [(0x101, entryFile), (0x102, List.replicate 32 0), (0x10B, leBytes 8 1 ++ leBytes 8 0x40 ++ List.replicate 240 0)]

/-- The composition: FRAME, one record (Table LDR-3) of a segment image at address 0 of context 1, no current. -/
def recFile (hash : Nat) : List Byte :=
  [0, 1, 0, 1] ++ leBytes 2 0 ++ leBytes 2 1 ++ leBytes 4 1000 ++ leBytes 4 0xFFFFFFFF ++ leBytes 4 0xFFFFFFFF ++ leBytes 4 1000 ++
    leBytes 4 0xFFFFFFFF ++ leBytes 8 0 ++ leBytes 4 segFile.length ++ leBytes 48 hash ++ leBytes 8 0
def compFile : List Byte := imageFile 1 0 0xFF 8 (rs 0x36EF8260B3358F93926299D7B624A9C40FD65F491C7FF61270497AB7CCEDE762F154B9A2A6ED69609174B981F69AFC4C
    0xF3636D0C5E9AD559A947884A52ECB9C4E4275653C8080D50152578B06216C16AE0384693D05D5497C3320FE68145FAD6)
  [(1, leBytes 4 125 ++ [10, 1] ++ leBytes 2 10 ++ leBytes 8 0), (2, recFile (leNat (sha384 segFile))), (3, List.replicate 320 0)]
def updFile : List Byte := imageFile 3 1 0xFF 9 (rs 0x52391DFFF2D3E6BE3E4225B2D94CB17E65E1098D47296ECF02763A86BB257FF4581A98E63A8BB9544945FA90D5CBC313
    0x498D110F9AB7911F3D0D79C1678CFEA51B6F1C8A873591E4BBA0337FED52944A907F244895A35D50506681392209066B)
  [(0x106, List.replicate 64 3), (0x201, leBytes 2 5 ++ leBytes 48 0 ++ leBytes 48 77)]

/-- The bytes of a file that are not zero, from an address on. -/
def cellsOf : Nat → List Byte → List (Nat × Byte)
  | _, [] => []
  | a, b :: bs => if b = 0 then cellsOf (a + 1) bs else (a, b) :: cellsOf (a + 1) bs

theorem mget_cells_below (b : List Byte) : ∀ a j, j < a → mget 0 (cellsOf a b) j = 0 := by
  induction b with
  | nil => intro a j _; rfl
  | cons x b ih =>
    intro a j h
    have hne : ¬ a = j := by omega
    simp only [cellsOf]
    split
    · exact ih _ _ (by omega)
    · rw [mget, if_neg hne]
      exact ih _ _ (by omega)

theorem mget_cells (b : List Byte) : ∀ a i, mget 0 (cellsOf a b) (a + i) = b.getD i 0 := by
  induction b with
  | nil => intro a i; simp [cellsOf, mget]
  | cons x b ih =>
    intro a i
    simp only [cellsOf]
    cases i with
    | zero =>
      split
      · rename_i hx
        simpa [hx] using mget_cells_below b (a + 1) a (by omega)
      · simp [mget]
    | succ i =>
      have h := ih (a + 1) i
      rw [show a + 1 + i = a + (i + 1) by omega] at h
      split
      · simpa using h
      · rw [mget, if_neg (by omega)]
        simpa using h

/-- A file that stands alone in DRAM is read as it stands. -/
theorem read_file (s : State) (p c a ph n : Nat) (x : Ctx) (b : List Byte) (hn : n = b.length) (hc : s.pool.chaff = [])
    (hs : s.ctxStatus p c = stOk) (hh : s.pool.holds = []) (hm : s.pool.mem = cellsOf ph b) (hx : s.ctx c = some x)
    (hp : physRange x a n = some ((List.range n).map (ph + ·))) : (s.readCtx p c a n).2 = b := by
  have key : ∀ i, s.peek p (ph + i) = b.getD i 0 := fun i => by
    simpa [State.peek, State.isChaff, State.heldBy, hc, hh, hm] using mget_cells b ph i
  subst hn
  unfold State.readCtx
  rw [hx]
  simp only [hs, if_pos, State.readPages, hp]
  refine List.ext_getElem (by simp) fun i h1 h2 => ?_
  simp only [List.getElem_map, List.getElem_range, key]
  simp [List.getD, h2]
/-- A file stands alone in DRAM: the composition at address 0 of context 0, the segment image at 0 of context 1, the update
image behind it. -/
def fileS (ph : Nat) (b : List Byte) : State := { loadS with
  pool := { loadS.pool with ctxs := [{ ctx1 with num := 0, party := 0, pages := [(0, 4, true)] }, ctx1], mem := cellsOf ph b } }
def imgS : State := fileS 0x4000 compFile
/-- The same without plan keys: signatures fail. -/
def noKeys (s : State) : State := { s with sec := { s.sec with planKeys := [] } }
def auxL : SegAux := { aux0 with codeBase := 1024, dataBase := 0x4000 }
def pend (x : Pending) (s : State) : State := { s with loader := { s.loader with pending := some x } }
def compRead : PlanImage := ⟨readComp compFile, []⟩
def loadX : Pending := ⟨pendLoad, 0, 0, 0, some compRead, none, 0, false, []⟩
def loadP : State := pend loadX (fileS 0x1000 segFile)
def updX : Pending := ⟨pendUpdate, 1, 1, 0x1000, none, none, 0, false, []⟩
def updP : State := pend updX (fileS 0x2000 updFile)

theorem composition_bytes : imgS.imageBytes 0 0 0 = compFile ∧ (noKeys imgS).imageBytes 0 0 0 = compFile := by
  have h : imgS.imageLength 0 0 0 = 768 ∧ (noKeys imgS).imageLength 0 0 0 = 768 := by decide +kernel
  unfold State.imageBytes
  rw [h.1, h.2]
  exact ⟨read_file imgS 0 0 0 0x4000 768 _ compFile (by decide +kernel) rfl (by decide +kernel) rfl rfl rfl (by decide +kernel),
    read_file (noKeys imgS) 0 0 0 0x4000 768 _ compFile (by decide +kernel) rfl (by decide +kernel) rfl rfl rfl (by decide +kernel)⟩

theorem segment_bytes : loadP.copySegs compRead.comp [(0, auxL)] = ⟨readComp compFile, [readSeg segFile auxL]⟩ := by
  have h : (readComp compFile).segs =
      [⟨0, 1, 0, true, 0, 1, [some 1000, none, none, some 1000, none], 0, 704, leNat (sha384 segFile), 0⟩] := by decide +kernel
  have hr : (loadP.readCtx 1 1 0 704).2 = segFile :=
    read_file loadP 1 1 0 0x1000 704 ctx1 segFile (by decide +kernel) rfl (by decide +kernel) rfl rfl rfl (by decide +kernel)
  simp only [State.copySegs, compRead, h, List.map, hr]
  rfl

theorem update_bytes : updP.imageBytes 1 1 0x1000 = updFile := by
  have h : updP.imageLength 1 1 0x1000 = 448 := by decide +kernel
  unfold State.imageBytes
  rw [h]
  exact read_file updP 1 1 0x1000 0x2000 448 ctx1 updFile (by decide +kernel) rfl (by decide +kernel) rfl rfl rfl (by decide +kernel)

/-- Orders of load, update, consolidation and abort, with nothing pending and with a load; a barred party; a context without the
image's pages. -/
theorem witness_load_requests :
    (∀ s ∈ [imgS, loadP, { imgS with sec := { imgS.sec with debug := 2 } }],
      s.bytesCheck ow 0x4C20 1 12 = .status stOk ∧ s.writeCheck ow 0x4C20 2 1 = .status stOk) ∧
    imgS.loader.pending = none ∧ loadP.loader.pending.map (·.kind) = some pendLoad ∧ imgS.lifecycleBars 0 = false ∧
    ({ imgS with sec := { imgS.sec with debug := 2 } } : State).lifecycleBars 0 = true ∧
    imgS.bytesCheck op1 0x4C24 1 12 = .status stOk ∧ (fileS 0x2000 updFile).mapped 1 1 0x1000 448 = true ∧
    (fileS 0x2000 updFile).mapped 1 9 0x1000 448 = false ∧ updP.imageLength 1 1 0x1000 = 448 ∧
    imgS.writeCheck op1 0x4C24 2 5 = .status stOk ∧ imgS.reg (okey (0x3310 + consHead 5) 1) = op1.party := by
  decide +kernel

/-- An update or load through another party's context, and through one whose range is not mapped. -/
theorem witness_requests_turned_away :
    imgS.ctxStatus 0 1 = stDenied ∧ imgS.ctxStatus 0 0 ≠ stDenied ∧ imgS.ctxStatus 1 0 = stDenied ∧
      (fileS 0x2000 updFile).loader.pending = none ∧ (fileS 0x2000 updFile).ctxStatus 1 1 ≠ stDenied ∧
      (fileS 0x2000 updFile).mapped 1 1 0x1000 (max 64 ((fileS 0x2000 updFile).imageLength 1 1 0x1000)) = true ∧
      (fileS 0x2000 updFile).ctxStatus 1 9 ≠ stDenied ∧
      (fileS 0x2000 updFile).mapped 1 9 0x1000 (max 64 ((fileS 0x2000 updFile).imageLength 1 9 0x1000)) = false := by
  decide +kernel

theorem witness_load_request_checks :
    imgS.check12 ⟨readComp (imgS.imageBytes 0 0 0), []⟩ 0 0 = none ∧
      ((noKeys imgS).check12 ⟨readComp ((noKeys imgS).imageBytes 0 0 0), []⟩ 0 0).isSome := by
  rw [composition_bytes.1, composition_bytes.2]
  decide +kernel

theorem witness_verification :
    loadP.loader.pending = some loadX ∧ loadP.test.trace = [] ∧
      loadP.verifyPlan (loadP.copySegs compRead.comp [(0, auxL)]) 0 = none ∧
      ((noKeys loadP).verifyPlan ((noKeys loadP).copySegs compRead.comp [(0, auxL)]) 0).isSome := by
  rw [show (noKeys loadP).copySegs compRead.comp [(0, auxL)] = _ from segment_bytes, segment_bytes]
  exact ⟨rfl, rfl, by decide +kernel, by decide +kernel⟩

/-- The update image as copied, and one that the model already holds. -/
theorem witness_update_verification :
    updP.loader.pending = some updX ∧ updP.copyUpdate updX = { updL with hdr := hdrOf updFile SegAux.none_ } ∧
      updP.checkUpdate updX (updP.copyUpdate updX) = none ∧
      ((noKeys updP).checkUpdate updX (updP.copyUpdate updX)).isSome ∧ updP.loader.plan ≠ none ∧
      ((pend { updX with update := some updL } loadS).partyObj 1 updL.objId).isSome = true := by
  have h : updP.copyUpdate updX = readUpdate updFile [64] := by
    have : (updP.partyObj 1 (readUpdate updFile []).objId).map (fun y => y.2.blocks.map fun k => k.rows * k.cols) =
        some [64] := by decide +kernel
    simp only [State.copyUpdate, updX, update_bytes]
    revert this
    split <;> simp_all
  rw [h]
  exact ⟨rfl, by decide +kernel⟩

/-! ## Rotation -/

/-! Digital rows (R50): under nominal trims and without drift a column's code depends on what its pair stores and on the
conversion's error alone. -/

theorem digital_code (e : ConvEnv) (ht : e.trims = []) (hl : e.loss = 0) (hp : e.pod < 40) (col v : Nat) (hc : col < 1056)
    (hv : v < 4) (err : Int) :
    digitalCode e col v err = clampI (-256) 255 ([-14, -5, 5, 14].getD v 0 + err) := by
  have hg : e.gain (col / 8) = 16 := by
    have : trimKey (unitPod e.pod) (col / 8) / 4096 / 4096 = 2 ∧ trimKey (unitPod e.pod) (col / 8) % 4096 < 132 := by
      unfold trimKey unitPod
      omega
    simp [ConvEnv.gain, trimGet, ht, mget, trimDefault, this]
  have ho : e.offs (col / 8) = 0 := by
    have : ¬ trimKey (unitPod e.pod) (132 + col / 8) % 4096 < 132 := by
      unfold trimKey unitPod
      omega
    simp [ConvEnv.offs, trimGet, ht, mget, trimDefault, this]
  have hs : clampI (-(e.shift : Int)) e.shift 0 = 0 := by
    unfold clampI
    omega
  unfold digitalCode ConvEnv.read
  rw [hg, ho, hs, hl]
  unfold adcCode
  interval_cases v <;> rfl

theorem digital_value (e : ConvEnv) (ht : e.trims = []) (hl : e.loss = 0) (hp : e.pod < 40) (col v : Nat) (hc : col < 1056)
    (hv : v < 4) : digitalValue (digitalCode e col v 0) = v := by
  rw [digital_code e ht hl hp col v hc hv]
  interval_cases v <;> decide

theorem digital_bits (row : List Byte) (col : Nat) : digitalBits row col < 4 := by
  unfold digitalBits
  split <;> exact Nat.mod_lt _ (by decide)

/-- Rows read without conversion errors decode. -/
theorem rows_decode (e : ConvEnv) (p : Pod) (rows : List Nat) (ht : e.trims = []) (hl : e.loss = 0) (hp : e.pod < 40) :
    readRows e p rows [] = (0, none) := by
  have h : ∀ row, rowErrors e p row [] = 0 := by
    intro row
    unfold rowErrors
    have : ∀ l : List Nat, (∀ c ∈ l, c < 1056) → ∀ n, l.foldl (fun n col => n + bitsWrong (digitalBits (digitalRow p row) col)
        (digitalValue (digitalCode e col (digitalBits (digitalRow p row) col) 0))) n = n := by
      intro l
      induction l with
      | nil => intro _ n; rfl
      | cons c l ih =>
        intro hl' n
        rw [List.foldl_cons, ih fun x hx => hl' x (List.mem_cons_of_mem _ hx),
          digital_value e ht hl hp c _ (hl' c List.mem_cons_self) (digital_bits _ _)]
        unfold bitsWrong
        omega
    exact this _ (fun c hc => List.mem_range.mp hc) 0
  simp [readRows, h]
  intro a b _ _ _ _ hb
  omega

/-- Errors of 20 codes in six columns of the first row. -/
def sixErrs : List (Nat × Nat × Int) := (List.range 6).map fun k => (0, k, 20)

/-- A row of zeros with six wrong columns does not decode. -/
theorem row_does_not_decode (e : ConvEnv) (p : Pod) (row : Nat) (rows : List Nat) (ht : e.trims = []) (hl : e.loss = 0)
    (hp : e.pod < 40) (h0 : ∀ i, i < 2 → mget 0 p.digital (row * 256 + i) = 0) :
    (readRows e p (row :: rows) sixErrs).2 = some row := by
  have hb : ∀ col, col < 6 → digitalBits (digitalRow p row) col = 0 := by
    intro col hc
    have h1 : col / 4 < 2 := by omega
    have h2 : (digitalRow p row).getD (col / 4) 0 = 0 := by
      have h3 : col / 4 < 256 := by omega
      simp [digitalRow, List.getD, h3, h0 _ h1]
    unfold digitalBits
    rw [if_pos (by omega), h2]
    simp
  have hrow : 5 < rowErrors e p row ((sixErrs.filter (·.1 = 0)).map (·.2)) := by
    have mono : ∀ (f : Nat → Nat) (l : List Nat) (n : Nat), n ≤ l.foldl (fun n c => n + f c) n := by
      intro f l
      induction l with
      | nil => intro n; exact Nat.le_refl n
      | cons c l ih => intro n; exact Nat.le_trans (Nat.le_add_right n _) (ih _)
    unfold rowErrors
    rw [show List.range 1056 = List.range 6 ++ (List.range 1050).map (6 + ·) by decide +kernel, List.foldl_append]
    refine Nat.lt_of_lt_of_le ?_ (mono _ _ _)
    simp only [show List.range 6 = [0, 1, 2, 3, 4, 5] by decide, List.foldl_cons, List.foldl_nil]
    rw [hb 0 (by decide), hb 1 (by decide), hb 2 (by decide), hb 3 (by decide), hb 4 (by decide), hb 5 (by decide)]
    have hf : ∀ col, col < 6 →
        ((((sixErrs.filter (·.1 = 0)).map (·.2)).find? (·.1 = col)).map (·.2)).getD 0 = 20 := by decide
    have hk : ∀ col, col < 6 → digitalCode e col 0 20 = 6 := by
      intro col hc
      rw [digital_code e ht hl hp col 0 (by omega) (by decide)]
      decide
    rw [hf 0 (by decide), hf 1 (by decide), hf 2 (by decide), hf 3 (by decide), hf 4 (by decide), hf 5 (by decide),
      hk 0 (by decide), hk 1 (by decide), hk 2 (by decide), hk 3 (by decide), hk 4 (by decide), hk 5 (by decide)]
    decide
  simp only [readRows, List.zipIdx_cons, List.map_cons]
  rw [List.find?_cons_of_pos (by simpa using hrow)]
  rfl

/-- Pod 4, the spare of cluster 0, is programmed in its slice of KEEP, some batches done; its content is slot 0 of the plan. -/
def progS (fails batches : Nat) : State :=
  atNs 1097000 (({ loadS with
    od := mset 0 (loadS.od ++ [(0x300300, 4), (0x304405, 17)]) 0x242002 1,
    frame := { loadS.frame with phase := .keep, tasksDone := 2, live := (0x300200, 20) :: loadS.frame.live } }).onPod 4 fun p =>
      { p with fails := fails, batches := batches, mirror := 0, target := 77 })
theorem witness_programming :
    (∀ s ∈ [progS 0 0, progS 0 15, progS 0 16, progS 1 16], s.reg 0x300300 = 4 ∧ s.pods.length = 40 ∧ s.clusters.length = 8 ∧
      s.programRuns 4 = true ∧ s.reg (podReg 4 5) < 9999 ∧ (s.contentOf 4).isSome) ∧
    ((progS 1 0).pod 4).fails = 1 ∧ ((progS 1 0).pod 4).fresh = false ∧ ((progS 0 15).pod 4).batches = 15 ∧
    ((progS 0 16).pod 4).batches = 16 ∧ ({ progS 0 0 with frame := Frame.reset } : State).programRuns 4 = false := by decide +kernel

/-- An image of one block runs in place from slot 0 of cluster 0, whose spare 4 is verified and mirrors the slot; this KEEP carries
a lift or set-down check of the cluster, or none. -/
def xipPip : DrainPip := { dpip0 5000 with image := { pimg 1 with inPlace := true }, blocks := 1 }
def rotImg : SegImage := { imgL with pips := [xipPip] }
def rotS (time : Nat) (lift : Bool) : State :=
  let s : State :=
    { loadS with
      od := [(0x242002, 1), (0x301001, 0x03020100), (0x301002, 4), (0x304009, 1), (0x304403, 3)],
      frame := { loadS.frame with phase := .keep },
      loader := { loadS.loader with plan := some { planL with segs := [rotImg] } } }
  atNs time ((s.onClu 0 fun x => { x with due := true, dueAt := some 1100000, liftKeep := if lift then some (0, [0]) else none }).onPod 4
    fun p => { p with mirror := 0, calLeft := 3 })
theorem witness_swap_dues_and_slices :
    (∀ t ∈ [1099999, 1100000], ((rotS t false).clu 0).dueAt = some 1100000 ∧ (rotS t false).frame.running = true ∧
      (rotS t false).now = t) ∧
      0 < (rotS 0 false).clusters.length ∧ (rotS 1150000 false).sliceOpen = true ∧
      (∀ j, j < 4 → ((rotS 0 false).pod j).calLeft = 0) ∧ ((rotS 0 false).pod 4).calLeft = 3 ∧
      (rotS 0 false).liftKeep (4 / 5) = false ∧ loadS.sliceOpen = false := by decide +kernel

/-- 40 µs before the end of KEEP; 40 µs after a lift of slot 0 began. -/
def liftS : State := (rotS 1190000 true).onClu 0 fun x => { x with lifting := some (1150000, 0) }
theorem witness_lifts :
    (rotS 1210000 true).liftSlot 0 = some 0 ∧ imagesInPlace (rotS 1210000 true) 0 0 [0, 1] 0 ∧
      (rotS 1210000 true).liftOpen = true ∧ (rotS 1210000 true).liftKeep 0 = true ∧ ((rotS 1210000 true).clu 0).shadow = [] ∧
      ((rotS 1210000 true).clu 0).noSource = [] ∧ ((rotS 1210000 true).clu 0).lifting = none ∧
      (rotS 0 true).reg (okey (0x3340 + 0) 3) + footprint xipPip ≤ 8192 ∧ (liftS.clu 0).lifting = some (1150000, 0) ∧
      1150000 + 40000 ≤ liftS.now ∧ liftS.active = true ∧ imagesInPlace liftS 0 0 [0, 1] 0 ∧ liftS.frame.phase = .keep ∧
      liftS.loader.group = none ∧ liftS.wantsSwap 0 = some 0 ∧ (liftS.clu 0).shadow = [] := by
  unfold imagesInPlace
  decide +kernel

/-- The set-down check of slot 0 is due: its pod holds the image or zeros. -/
def downS (held : Bool) : State :=
  ((rotS 1210000 true).onClu 0 fun x => { x with setDown := [0] }).onPod 0 fun p => { p with
    digital := if held then (cellsOf 0 (pipBytesOf xipPip.image)).map fun x => (x.1, x.2.toNat) else [] }
theorem witness_set_downs :
    (∀ h ∈ [true, false], ((downS h).clu 0).setDown = [0] ∧ (downS h).active = true ∧ (downS h).frame.phase = .keep ∧
      (downS h).tier ≠ 3 ∧ (downS h).liftKeep 0 = true ∧ ((downS h).clu 0).landing = [] ∧
      ((downS h).clu 0).setDown.filter (fun x => x ∉ (downS h).checkedNow 0) = [0] ∧
      (downS h).frame.start + (downS h).keepStart + 40000 ≤ (downS h).now ∧ imagesInPlace (downS h) 0 0 [0, 1] 0 ∧
      (((List.range (footprint xipPip)).map fun i => BitVec.ofNat 8 (mget 0 ((downS h).pod 0).digital (512 * xipPip.block + i))).take
        (pipBytesOf xipPip.image).length = pipBytesOf xipPip.image ↔ h = true)) := by
  unfold imagesInPlace
  decide +kernel

/-- The engine of cluster 0 stalls for block 0 at the tick's sixteenth interval. -/
def fetchS : State :=
  let s := rotS 1004800 false
  { (s.onClu 0 fun x => { x with fetch := some 0, reading := some 0 }) with
    pips := setAt s.pips 4 { Pip.blank with running := true, item := 2, stall := some 0 } }
theorem witness_fetches :
    fetchS.wantedBlock 0 = some 0 ∧ fetchS.runningPip 0 = some xipPip ∧ fetchS.slotPod 0 xipPip.slot = 0 ∧ 0 < fetchS.pods.length ∧
      fetchS.active = true ∧ fetchS.sinceTick / 320 % 16 = 15 ∧ fetchS.reg (podReg 0 9) ≠ 0 ∧
      (fetchS.pod 0).slotRead ≠ fetchS.sinceTick / 320 + 1 ∧ (fetchS.clu 0).reading = some 0 ∧
      0 + 4 < fetchS.pips.length ∧ (fetchS.pip (0 + 4)).stall = some 0 ∧ ((rotS 0 false).pip 4).stall = none := by decide +kernel

/-- Readings of these states decode without conversion errors, and not with six in the first row. -/
theorem witness_readings :
    ∀ s ∈ [liftS, downS true, downS false, fetchS], ∀ rows, readRows (s.convEnv 0) (s.pod 0) rows [] = (0, none) ∧
      ((s.pod 0).digital = [] → ∀ row, (readRows (s.convEnv 0) (s.pod 0) (row :: rows) sixErrs).2 = some row) := by
  have h : ∀ s ∈ [liftS, downS true, downS false, fetchS],
      s.cal.applied = [] ∧ log10Milli (s.podAge 0) = 0 := by decide +kernel
  intro s hs rows
  have hl : (s.convEnv 0).loss = 0 := by simp [State.convEnv, (h s hs).2]
  exact ⟨rows_decode _ _ rows (h s hs).1 hl (by decide : (0 : Nat) < 40), fun hd row =>
    row_does_not_decode _ _ row rows (h s hs).1 hl (by decide : (0 : Nat) < 40) fun i _ => by simp [hd, mget]⟩

/-! ## Calibration -/

/-- The last slice of pod 4's calibration, some tries made; two measurements that agree, and one that does not. -/
def lastSlice (tries : Nat) : State := (rotS 1150000 false).onPod 4 fun p => { p with calLeft := 1, calTries := tries }
def meas (z : Int) : CalMeas := ⟨List.replicate 132 z, []⟩
theorem witness_calibration_slices :
    (∀ n ∈ [2, 3], (lastSlice n).sliceOpen = true ∧ (lastSlice n).pods.length = 40 ∧ (∀ j, j < 4 →
      ((lastSlice n).pod j).calLeft = 0) ∧
      ((lastSlice n).pod 4).calLeft = 1 ∧ ((lastSlice n).pod 4).calTries = n ∧ (lastSlice n).liftKeep (4 / 5) = false) ∧
      calAgrees ((lastSlice 2).pod 4) (meas 0) (meas 16) = true ∧ calAgrees ((lastSlice 2).pod 4) (meas 0) (meas 17) = false := by
  decide +kernel

theorem witness_slices_powered :
    (∀ s ∈ [rotS 1150000 false, lastSlice 2, lastSlice 3], s.gateOff 4 = false ∧ s.reg (okey (0x2420 + 4 / 5) 2) = 1) ∧
      1 < ((rotS 1150000 false).pod 4).calLeft := by decide +kernel

/-- A pair that agrees and whose offset codes fit, and one whose offset codes do not. -/
theorem witness_calibration_codes :
    (∀ g, g < 132 → 0 ≤ ((lastSlice 2).calCodes 4 (meas 0) (meas 0)).1.getD g 16 ∧
      ((lastSlice 2).calCodes 4 (meas 0) (meas 0)).1.getD g 16 ≤ 63 ∧
      -32 ≤ ((lastSlice 2).calCodes 4 (meas 0) (meas 0)).2.getD g 0 ∧
      ((lastSlice 2).calCodes 4 (meas 0) (meas 0)).2.getD g 0 ≤ 31) ∧
    calAgrees ((lastSlice 2).pod 4) (meas 1000) (meas 1000) = true ∧
    ((lastSlice 2).calCodes 4 (meas 1000) (meas 1000)).2.getD 0 0 < -32 ∧
    (∀ k ∈ (lastSlice 3).cal.limited ++ (lastSlice 3).cal.baseLimit, k / 4096 ≠ unitPod 4) := by decide +kernel

/-- Pod 3 has its 16 drift visits, with a reference and sums that give a ratio of 0.9, of 1, or no reference. -/
def calS (refs : List Nat) (c : Int) : State :=
  { (run0.onPod 3 fun p => { p with visits := 16, refs := refs, driftAcc := 5 :: List.replicate 15 (5 + c) }) with
    frame := { run0.frame with live := (0x2A2001, 86400) :: (0x2A2002, 10) :: (0x310004, 10) :: run0.frame.live },
    cal := { run0.cal with poly := [(unitPod 3, (0, 1, 0, 0), 2), (unitPod 4, (5, 0, 0, 1), 99)] } }
def ref15 : List Nat := List.replicate 15 100
theorem witness_drift_and_compensation :
    (∀ s ∈ [calS ref15 90, calS ref15 100, calS [] 100], s.active = true ∧ s.pods.length = 40 ∧ (s.pod 3).visits = 16) ∧
      driftRho ((calS ref15 90).pod 3) = some 900000 ∧ driftMoves 900000 (mget 0 (calS ref15 90).cal.drift 3) = true ∧
      driftRho ((calS ref15 100).pod 3) = some 1000000 ∧ driftMoves 1000000 (mget 0 (calS ref15 100).cal.drift 3) = false ∧
      ((calS [] 100).pod 3).refs.foldl (· + ·) 0 = 0 ∧
      (calS [] 0).frame.number % (max 1 ((calS [] 0).inForce 0x310004)) = 0 ∧ ((calS [] 0).cal.poly.map (·.1)).Nodup := by
  decide +kernel

/-- An attempt on channel 3 in a stage, with two tries made or three, at its instants. -/
def afe0 (stage tries : Nat) : AfeCal := ⟨3, 1000000, stage, 7, some (10, 12), some (50, 55), tries, false, none⟩
def afeS (t : Nat) (x : AfeCal) : State := atNs t { calS [] 0 with cal := { (calS [] 0).cal with afe := some x } }
theorem witness_afe_calibration :
    (calS [] 0).frame.running = true ∧ (calS [] 0).inForce (afeReg 3 7) = 0 ∧ (calS [] 0).afeFalls 3 = true ∧
      (afeS 1500000 (afe0 1 2)).afeTime 3 3 ≤ (afeS 1500000 (afe0 1 2)).now - 1000000 ∧
      (afeS 1900000 (afe0 2 3)).afeTime 3 5 ≤ (afeS 1900000 (afe0 2 3)).now - 1000000 ∧
      (afeS 1500000 (afe0 1 2)).cal.afe = some (afe0 1 2) ∧ ((120 - 100 : Int)).natAbs ≤ 20 ∧ 20 < ((121 - 100 : Int)).natAbs ∧
      ((200 - 100 : Int)).natAbs ≤ 100 ∧ 100 < ((201 - 100 : Int)).natAbs ∧
      (∀ o ∈ [true, false], let s := afeS 3000000 { afe0 3 0 with ovr := o }
        s.cal.afe = some { afe0 3 0 with ovr := o } ∧ 1000000 + s.afeTime 3 7 ≤ s.now) ∧
      (afeS 3000000 { afe0 3 0 with passed := some (1, 2) }).cal.afe = some { afe0 3 0 with passed := some (1, 2) } ∧
      (afe0 3 0).pga < 8 := by decide +kernel

/-- The samples of the last millisecond of the attempt on V3 swing by 30 µV; the threshold is above that, or at it. -/
def detS (thr : Nat) : State :=
  let s := afeS 3000000 (afe0 3 0)
  { s with
    channels := setAt s.channels 3 { Channel.blank with recent := [(2100000, 30000), (2500000, -30000)] },
    frame := { s.frame with live := (afeReg 3 6, thr) :: s.frame.live } }
theorem witness_detector :
    (detS 31).cal.afe = some (afe0 3 0) ∧
    ((detS 31).detect 3 (1000000 + (detS 31).afeTime 3 6) (1000000 + (detS 31).afeTime 3 7)).1 = 30 ∧
      30 < (detS 31).inForce (afeReg 3 6) ∧ (detS 30).inForce (afeReg 3 6) ≤ 30 ∧
      2 ≤ (((detS 31).channels.getD 3 Channel.blank).recent.filter fun x =>
        decide (1000000 + (detS 31).afeTime 3 6 ≤ x.1 ∧ x.1 ≤ 1000000 + (detS 31).afeTime 3 7)).length := by decide +kernel

/-- Pairs of which the second agrees; four that do not; three that do not. -/
def goodPairs : List (Int × Int) := [(0, 500), (100, 101), (0, 0)]
def badPairs (n : Nat) : List (Int × Int) := List.replicate n (0, 500)
def refS (t : Nat) : State := atNs t { run0 with cal := { run0.cal with refAt := [(0, 1000000)], oscAt := some 1000000 } }
theorem witness_reference_measurement :
    (∀ t ∈ [1000999999, 1001000000, 3600000999999, 3600001000000], (refS t).husk.power ≠ .off ∧ (refS t).husk.power ≠ .safe ∧
      (refS t).husk.xtalStopped = false ∧ (refS t).cal.oscAt = some 1000000) ∧
      (refS 3600000999999).refDue 0 = false ∧ (refS 3600001000000).refDue 0 = true ∧ (refS 1).refDue 10 = true ∧
      1000000 + 1000000000 ≤ (refS 1001000000).now ∧ (refS 1000999999).now < 1000000 + 1000000000 ∧
      goodPairs.take 4 = [(0, 500)] ++ (100, 101) :: [(0, 0)] ∧
      (∀ tol ∈ [100, 400], tol < ((0 : Int) - 500).natAbs ∧ ¬ tol < ((100 : Int) - 101).natAbs ∧
        (∀ x ∈ (badPairs 4).take 4, tol < (x.1 - x.2).natAbs) ∧ (∀ x ∈ (badPairs 3).take 4, tol < (x.1 - x.2).natAbs)) ∧
      4 ≤ (badPairs 4).length ∧ (badPairs 3).length < 4 ∧ badPairs 3 ≠ [] := by decide +kernel

/-- Settled measurements, and three pairs of which none agrees; CTRL is powered or not. -/
def oscS (rails : List Bool) : State := { refS 1001000000 with husk := { (refS 1001000000).husk with rails := rails } }
theorem witness_settled_pairs :
    (∀ tol ∈ [100, 400], pairsSettle tol goodPairs ∧ pairsSettle tol (badPairs 4) ∧ ¬ pairsSettle tol (badPairs 3)) ∧
      (oscS [true]).husk.supply = true ∧ (oscS [true]).husk.rails.getD 0 false = true ∧
      (oscS [true]).husk.xtalStopped = false ∧ (oscS [true]).cal.oscAt = some 1000000 ∧
      1000000 + 1000000000 ≤ (oscS [true]).now ∧ (oscS []).husk.rails.getD 0 false = false := by
  unfold pairsSettle
  decide +kernel

/-! ## The sensor front end -/

/-- V0 in IEPE is on and has a sample; Q0 counts in QUAD; Q1 is off. -/
def senS : State :=
  { run0 with
    od := [(0x241202, 1), (0x280002, 1), (0x282102, 2)],
    channels := setAt run0.channels 0 { Channel.blank with ring := [⟨4, 1000000, 1000500, 1⟩], seq := 5 } }
def ovlS : State := { senS with channels := setAt senS.channels 0 { Channel.blank with ovl := some (true, 1001000) } }
theorem witness_samples :
    senS.channels.length = 18 ∧ senS.domainOn 2 = true ∧ senS.husk.power ≠ .off ∧ senS.husk.xtalStopped = false ∧
      (∀ ch ∈ [0, 8, 12, 15], senS.chanMode ch ≠ chanOff ch ∧ 1000000 + senS.latency ch ≤ (atNs 2000000 senS).now + 20) ∧
      (senS.chan 0).ring.length < ringSize 0 ∧ overloadSign (senS.chan 0) 1010000 = none ∧
      overloadSign (ovlS.chan 0) 1010000 = some true := by decide +kernel

/-- An attempt on channel 3 measures while its neighbour overloads. -/
def ovlCal : State := { ovlS with cal := { ovlS.cal with afe := some (afe0 1 0) } }
theorem witness_overload_in_attempt :
    ovlCal.cal.afe = some (afe0 1 0) ∧ (afe0 1 0).ch / 4 = 0 / 4 ∧ (afe0 1 0).stage ≠ 0 ∧ (afe0 1 0).start ≤ 1010000 ∧
      1010000 ≤ (afe0 1 0).start + ovlCal.afeTime 3 7 ∧ overloadSign (ovlCal.chan 0) 1010000 = some true ∧
      ovlS.cal.afe = none := by decide +kernel

theorem witness_overloads :
    senS.channels.length = 18 ∧ senS.chanMode 0 ≠ chanOff 0 ∧ senS.husk.xtalStopped = false ∧ (senS.chan 0).ovl = none ∧
      (ovlS.chan 0).ovl = some (true, 1001000) := by decide +kernel

/-- Q0 is the angle source, counting in QUAD from 3 with a mark and an event at every fourth count; A rises, then B. -/
def angS (now : Nat) (pend : Option (Nat × Int × Bool)) : State :=
  atNs now { senS with
    od := [(0x241202, 1), (0x280002, 1), (0x282005, 3), (0x4C0300, 3)],
    frame := { senS.frame with
      phase := .keep, pending := pend,
      live := [(0x282004, 4), (0x380105, 100), (0x4C0000, 250), (0x4C0402, 4), (0x4C0700, 20)] } }
def quiet0 : State := { angS 1200000 none with od := (angS 0 none).od.take 3 }
theorem witness_bias_states :
    senS.husk.xtalStopped = false ∧ senS.chanMode 0 = 1 ∧ senS.reg (chanReg 0 11) = 0 ∧
      (∀ x ∈ ([([999, 1000], 2), ([11001, 11002], 1), ([1000, 11000], 0)] : List (List Int × Nat)),
        (if x.1.sum < 1000 * (x.1.length : Int) then 2 else if ((12000 : Int) - 1000) * (x.1.length : Int) < x.1.sum then 1 else 0) =
          x.2) ∧ ({ senS with od := senS.od ++ [(0x28000B, 1)] } : State).reg (chanReg 0 11) = 1 := by decide +kernel

/-- A Q input with quiet levels; a filter time of 80 ns. -/
theorem witness_glitch_filter :
    Channel.blank.pendA = [] ∧ Channel.blank.pendB = [] ∧ true ≠ Channel.blank.rawA ∧ true ≠ Channel.blank.rawB ∧
      (1079 : Nat) < 1000 + 80 ∧ (1000 : Nat) + 80 ≤ 1080 ∧ (1079 : Nat) + 80 ≤ 1159 := by decide

/-- Edges of QUAD: none, up over a multiple of four, down, both at once; as the angle source before and after the floor, with and
without a pending event. -/
theorem witness_edges :
    quiet0.channels.length = 18 ∧ quiet0.husk.xtalStopped = false ∧ quiet0.reg (domReg 2 2) = 1 ∧ quiet0.source ≠ 3 ∧
      edgeOf (quiet0.chanMode 16) false false true false = .step 1 ∧ edgeOf (quiet0.chanMode 16) false false false false = .none ∧
      edgeOf (quiet0.chanMode 16) false false false true = .step (-1) ∧
      edgeOf (quiet0.chanMode 16) false false true true = .error ∧ crosses (max 1 (quiet0.inForce (qReg 0 4))) 3 4 = true ∧
      quiet0.netCount 0 = 3 ∧ crosses (max 1 (quiet0.inForce (qReg 0 4))) 3 2 = false ∧ run0.reg (domReg 2 2) ≠ 1 ∧
      (∀ s ∈ [angS 1200000 none, angS 1100000 none, angS 1200000 (some (1190000, 8, false))],
        s.channels.length = 18 ∧ s.source = 3 ∧ s.inForce 0x4C0401 = 0 ∧ s.active = true ∧ s.netCount 0 = 3 ∧
        (s.qChange 0 1190003 true false).netCount 0 = 4 ∧ crosses (max 1 (s.inForce 0x4C0402)) 3 4 = true ∧
        (s.qChange 0 1190003 false true).netCount 0 = 2 ∧ crosses (max 1 (s.inForce 0x4C0402)) 3 2 = false) ∧
      (angS 1200000 none).mayStart = true ∧ (angS 1100000 none).mayStart = false := by decide +kernel

/-- The channel's block was cut for a tick that is 50 ns away, or has passed. -/
def cutS (tick : Nat) : State :=
  { quiet0 with channels := setAt quiet0.channels 16 { quiet0.chan 16 with cutTick := some tick } }
def cutV (tick : Nat) : State := atNs 2000000
  { senS with channels := setAt senS.channels 0 { senS.chan 0 with cutTick := some tick } }
theorem witness_cut_blocks :
    ((cutV 2000000).chan 0).cutTick = some 2000000 ∧ (cutV 2000000).now ≤ 2000000 ∧ ((cutV 1999999).chan 0).cutTick = some 1999999 ∧
      1999999 < (cutV 1999999).now ∧ ((cutS 1200050).chan 16).cutOpen (cutS 1200050).now = true ∧
      ((cutS 1199999).chan 16).cutOpen (cutS 1199999).now = false ∧ (cutS 1200050).source ≠ 3 := by decide +kernel

/-- A pip job and a RAW job of segment 0 on engines 0 and 1, with a clean sample and a marked one on V0. -/
def imgJ : SegImage :=
  { img0 with
    intakeImages := [{ pimg 0 with engine := 0 }],
    jobs := [⟨0, 0, 0, false, 1, 4, 16, 4, 2000, 0x1000, 0, 4⟩, ⟨1, 1, 0, true, 1, 4, 16, 4, 2000, 0x100, 0, 4⟩] }
def planJ : PlanImage := ⟨comp0, [imgJ]⟩
def jobIn (w : BitVec 32) : State :=
  atNs 1001000 { poolS with
    loader := { poolS.loader with plan := some planJ }, frame := { poolS.frame with phase := .intake },
    channels := setAt poolS.channels 0 { Channel.blank with cut := [⟨4, 999000, 999500, w⟩] } }
theorem witness_intake_jobs :
    (jobIn 0).loader.plan = some planJ ∧ (jobIn 0).segImg 0 = some imgJ ∧ (jobIn 0).active = true ∧
      (jobIn 0).frame.phase = .intake ∧ (jobIn 0).jobsRun 0 = true ∧ (jobIn 0).test.trace = [] ∧ (jobIn 0).ctx 1 = some ctx1 ∧
      ∀ j ∈ imgJ.jobs, (jobIn 0).frame.start + jobStart planJ 0 j ≤ (jobIn 0).now ∧ ((jobIn 0).pip j.engine).running = false ∧
        ¬ (jobIn 0).frame.start < ((jobIn 0).pip j.engine).start ∧ j.engine < (jobIn 0).pips.length :=
  ⟨rfl, rfl, rfl, rfl, rfl, rfl, rfl, by decide +kernel⟩

/-- Engine 0 still runs, within its time or beyond it; it has run job 1 in this frame. -/
def jobBusy (run : Bool) (limit : Nat) : State :=
  { jobIn 0 with pips := setAt (jobIn 0).pips 0 { Pip.blank with
      running := run, image := some { pimg 0 with engine := 0 }, start := 1000500, limit := limit, seg := 0, item := 1 } }
theorem witness_intake_job_waits :
    ((jobBusy true 5000).pip 0).running = true ∧ (jobBusy true 5000).pipLate 0 = false ∧ (jobBusy true 0).pipLate 0 = true ∧
      ((jobBusy false 0).pip 0).running = false ∧ (jobBusy false 0).frame.start < ((jobBusy false 0).pip 0).start ∧
      0 * 64 + 0 ≤ ((jobBusy false 0).pip 0).seg * 64 + ((jobBusy false 0).pip 0).item := by decide +kernel

/-- The RAW job's 36 bytes fit page 0; bit 21 of a V sample is SUS. -/
def rawJ : IntakeJob := ⟨1, 1, 0, true, 1, 4, 16, 4, 2000, 0x100, 0, 4⟩
theorem witness_raw_job :
    workingValues (jobIn 0) ∧ ((jobIn 0).jobInput rawJ).length = 36 ∧ (jobIn 0).jobMarked rawJ = false ∧
      (jobIn 0x200000).jobMarked rawJ = true ∧ physRange ctx1 0x100 36 = some ((List.range 36).map (0x1100 + ·)) ∧
      writableRange ctx1 0x100 36 = true ∧ (jobIn 0).writeStatus 1 (linesOf ((List.range 36).map (0x1100 + ·))) = stOk ∧
      (((jobIn 0).segRec 0).map fun r => (r.ctx, r.party)) = some (1, 1) := by
  unfold workingValues
  decide +kernel
/-! ## The frame timer -/

/-- In KEEP at an instant, under a source; a frame's floor is 125 µs and its period 250 µs. -/
def tickS (now src : Nat) : State :=
  atNs now { run0 with
    frame := { run0.frame with phase := .keep },
    od := if src = 0 then [] else [(0x3C5002, 1), (0x4C0300, src)] }
def pendS : State := { tickS 1125000 3 with frame := { (tickS 1125000 3).frame with pending := some (1100000, 12, true) } }
theorem witness_ticks :
    (∀ s ∈ [tickS 1250000 0, tickS 1260000 1, tickS 1125000 2, tickS 1500000 2, pendS, tickS 21000000 3], s.mayStart = true) ∧
      (tickS 1250000 0).source = 0 ∧ (tickS 1250000 0).frame.start + (tickS 1250000 0).period ≤ (tickS 1250000 0).now ∧
      (tickS 1260000 1).source = 1 ∧
      (tickS 1260000 1).frame.start + (tickS 1260000 1).period + (tickS 1260000 1).lengthening ≤ (tickS 1260000 1).now ∧
      (tickS 1500000 2).source = 2 ∧ (tickS 1500000 2).inForce 0x4C0500 = 0 ∧ (tickS 1500000 2).frame.syncMissing = false ∧
      (tickS 1500000 2).frame.start + 2 * (tickS 1500000 2).period ≤ (tickS 1500000 2).now ∧ pendS.source = 3 ∧
      pendS.frame.pending = some (1100000, 12, true) ∧ (tickS 21000000 3).frame.pending = none ∧
      (tickS 21000000 3).frame.start + 20000000 ≤ (tickS 21000000 3).now ∧ (tickS 1124999 2).mayStart = false ∧
      (tickS 1124999 2).active = true ∧ (tickS 1124999 2).source = 2 ∧
      (tickS 1249999 0).now < (tickS 1249999 0).frame.start + (tickS 1249999 0).period ∧ (tickS 1 3).source ≠ 2 := by
  decide +kernel

theorem witness_frame_start :
    (tickS 1250000 0).husk.power = .run ∧ (tickS 1250000 0).store.lostAt = none ∧ (tickS 1250000 0).frame.staged = [] ∧
      (tickS 1250000 0).loader.pending = none ∧ (tickS 1250000 0).test.cluster = none ∧ (tickS 1250000 0).test.staged = none := by
  decide +kernel

/-- In INTAKE at the window's offset, in its clear, and at its end; the window's code runs or has ended. -/
def winS (now : Nat) (ph : Phase) : State :=
  atNs now { tile0 with
    frame := { tile0.frame with phase := ph },
    loader := { tile0.loader with plan := some ⟨comp0, [{ imgT with entries := [some (3, 1000)] }]⟩ } }
def winCut : State := { winS 1070000 (.window 0) with core := { core0.core with seg := some 0 } }
def winIdle : State := { winS 1022000 (.clear 0) with husk := { (winS 1022000 (.clear 0)).husk with power := .doze } }
theorem witness_windows :
    (∀ s ∈ [winS 1020000 .intake, winS 1022000 (.clear 0), winIdle, winS 1070000 (.window 0), winCut],
      s.active = true ∧ s.walkers.length = 8 ∧ s.pips.length = 14) ∧
    (winS 1020000 .intake).nextWindow = some span0 ∧ 1000000 + span0.2.1 = 1020000 ∧
    ((winS 0 .intake).partyClusters span0.1.party).testBit 0 = true ∧
    ((winS 0 .intake).partyClusters span0.1.party).testBit 1 = false ∧
    (winS 1022000 (.clear 0)).spanOf 0 = some span0 ∧ (winS 1022000 (.clear 0)).segRun 0 = .runs 0 ∧
    (((winS 0 .intake).segImg 0).bind fun g => g.entries.getD 0 none) = some (3, 1000) ∧
    winIdle.segRun 0 = .tierIdle ∧ winIdle.spanOf 0 = some span0 ∧ winCut.spanOf 0 = some span0 ∧
    1000000 + span0.2.2 = 1070000 ∧ (∀ c, c < 8 → (winCut.walker c).queue = [] ∧ (winCut.walker c).running = none) ∧
    winCut.ahead = [] ∧ (winS 0 .intake).ahead = [] ∧
    0 < winCut.frame.overruns.length ∧ winCut.core.seg = some 0 ∧ (winS 0 .intake).core.seg = none := by decide +kernel

def overS (n : Nat) : State := { run0 with frame := { run0.frame with overruns := setAt run0.frame.overruns 0 n } }
theorem witness_timing :
    (overS 3).active = true ∧ 0 < (overS 3).frame.overruns.length ∧ 3 ≤ (overS 3).frame.overruns.getD 0 0 ∧
      (overS 2).frame.overruns.getD 0 0 < 3 := by decide +kernel

/-- A stream of four bytes, in every frame, of party 1 on N1. -/
def stream0 : StreamD := ⟨8, 0, false, 1, 0, 4, 0, 0x100, 0, 1⟩
def imgP : SegImage := { img0 with entries := [some (0, 1000)], streams := [stream0] }
def pubS (now : Nat) (gs : List SegImage) (closed : Bool) : State :=
  atNs now { poolS with
    frame := { poolS.frame with phase := .gap 0, live := (0x380105, 100) :: (0x3C3101, 1) :: (0x4C0000, 250) :: (0x4C0700, 20) :: [] },
    sec := { poolS.sec with lifecycle := 2 },
    loader := { poolS.loader with plan := some ⟨comp0, gs⟩ }, pool := { poolS.pool with closed := closed },
    net := { poolS.net with
      ports := setAt poolS.net.ports 0 1, sas := [⟨1, true, 0, 5, 1, 9, 0⟩],
      parties := setAt poolS.net.parties 1 { PartyNet.blank with ret := some (0, 1, 2) } } }
theorem witness_publish :
    (∀ s ∈ [pubS 1070000 [img0] false, pubS 1069999 [img0] false, pubS 1070000 [imgP] false, pubS 1070000 [img0] true],
      s.active = true ∧ s.computeOver = true) ∧
    (pubS 1069999 [img0] false).now < (pubS 1069999 [img0] false).frame.start + (pubS 1069999 [img0] false).computeEnd ∧
    (pubS 1070000 [img0] false).frame.start + (pubS 1070000 [img0] false).computeEnd ≤ 1070000 ∧
    (pubS 1070000 [img0] true).pool.closed = true ∧ (pubS 1070000 [img0] false).dueStreams = [] ∧
    (let s := pubS 1070000 [imgP] false
     s.dueStreams = [(imgP, stream0)] ∧ s.segRun 0 = .runs 0 ∧ s.bindKind 1 = 1 ∧ (s.pnet 1).ret = some (0, 1, 2) ∧
       s.portUp 0 = true ∧ s.net.sas.find? (fun a => a.party = 1 && a.tx && a.state = 1) = some ⟨1, true, 0, 5, 1, 9, 0⟩ ∧
       9 + (s.recordHeader imgP stream0 (s.recordFlags 0 stream0 false false (s.pooledReplica stream0).isSome) 4 0xFF ++
         (s.readCtx 1 1 0x100 4).2).length < 0xFFFFFFFF) := by decide +kernel

/-- One record, or a tier change, waits for PUBLISH, for party 1 on N1. -/
def tellS (rs : List FaultRec) (tier : Option (Nat × Nat × Nat)) : State :=
  let s := pubS 1070000 [img0] false
  { s with integ := { s.integ with toSend := rs }, frame := { s.frame with tierEvent := tier } }
theorem witness_published_events :
    (∀ s ∈ [tellS [(⟨clsCheck, 1, unitPod 39, 1, 0, 0, 0, 0, 0, 0, 0, 0, 0, 0⟩ : FaultRec)] none, tellS [] (some (0, 1, 2))], s.active = true ∧ s.computeOver = true ∧
      s.frame.start + s.computeEnd ≤ s.now ∧ s.pool.closed = false ∧ s.dueStreams = [] ∧ 1 < s.net.parties.length ∧
      s.bindKind 1 ≠ 0 ∧ s.bindKind 1 ≠ 3 ∧ (s.pnet 1).events.length < 32) ∧
    (({ tellS [] none with net := { (tellS [] none).net with parties := List.replicate 16 PartyNet.blank } } : State).pnet 1).ret = none ∧
    (⟨clsCheck, 1, unitPod 39, 1, 0, 0, 0, 0, 0, 0, 0, 0, 0, 0⟩ : FaultRec).party = 1 := by decide +kernel

/-- PUBLISH until KEEP begins; party 1's slot with nothing rung, and with one NOP in queue 0's ring. -/
def keepS (now : Nat) (ph : Phase) (prod : Nat) : State :=
  atNs now { poolS with
    frame := { poolS.frame with phase := ph },
    pool := { poolS.pool with
      ctxs := [{ ctx1 with queues := [⟨0, 8, 0x200, 0x1400, 0x1800, prod, 0, 0, none, 0⟩] }],
      mem := mset 0 poolS.pool.mem 0x1200 1 } }
theorem witness_keep :
    (∀ s ∈ [keepS 1075000 .publish 0, keepS 1074999 .publish 0, keepS 1075750 .keep 0, keepS 1075750 .keep 1], s.active = true) ∧
      (keepS 1075000 .publish 0).frame.start + (keepS 1075000 .publish 0).keepStart ≤ 1075000 ∧
      1074999 < (keepS 1074999 .publish 0).frame.start + (keepS 1074999 .publish 0).keepStart ∧
      (∀ n ∈ [0, 1], (keepS 1075750 .keep n).pool.closed = false ∧ (keepS 1075750 .keep n).frame.slotsDone.testBit 1 = false ∧
        (keepS 1075750 .keep n).frame.start + (keepS 1075750 .keep n).keepStart + 750 * 1 ≤ 1075750 ∧
        (keepS 1075750 .keep n).pool.resWait = []) ∧
      (keepS 1075750 .keep 0).rung 1 = [] ∧
      (let s := keepS 1075750 .keep 1
       s.rung 1 = [(1, 0)] ∧ (s.ctx 1).map (·.resident) = some true ∧ (s.queue 1 0).isSome ∧ s.credit 1 = true ∧
         ((s.ctx 1).bind fun x => physRange x 0x200 64) = some ((List.range 64).map (0x1200 + ·)) ∧ s.test.trace = [] ∧
         commandOps.contains (field (((List.range 64).map (0x1200 + ·)).map (s.peek 1)) 0 2) = true ∧
         field (((List.range 64).map (0x1200 + ·)).map (s.peek 1)) 2 2 = 0) ∧
      ({ keepS 1075750 .keep 0 with frame := { (keepS 1075750 .keep 0).frame with slotsDone := 2 } } : State).frame.slotsDone.testBit 1 =
        true := by decide +kernel

/-- Party 1's slot out of KEEP, with the pool closed, passed, and a nanosecond too early. -/
theorem witness_slot_not_due :
    (keepS 1075750 .publish 1).frame.phase ≠ .keep ∧ (keepS 1075749 .keep 1).frame.phase = .keep ∧
      (keepS 1075749 .keep 1).now < (keepS 1075749 .keep 1).frame.start + (keepS 1075749 .keep 1).keepStart + 750 * 1 ∧
      (keepS 1075749 .keep 1).active = true ∧
      ({ keepS 1075750 .keep 1 with pool := { (keepS 1075750 .keep 1).pool with closed := true } } : State).pool.closed = true := by
  decide +kernel

/-! ## Ports, time, transport -/

/-- N1, N2 and the CAN port are UP but for one, which has another state; party 1 has N1, party 2 is node 7 on the CAN port. -/
def netS (port st : Nat) : State :=
  { run0 with
    sec := { run0.sec with lifecycle := 2 },
    frame := { run0.frame with live := [(0x380105, 100), (0x3C1001, 1), (0x3C2006, 1), (0x3C3001, 4), (0x3C3101, 1),
                 (0x3C3102, 77), (0x3C3201, 3), (0x3C3203, 7), (0x3C6101, 100), (0x4C0000, 250)] },
    net := { run0.net with
      ports := setAt [1, 1, 0, 1] port st,
      sas := [⟨1, true, 0, 5, 1, 9, 0⟩, ⟨1, false, 0, 5, 1, 100, 0⟩],
      parties := setAt run0.net.parties 1 { PartyNet.blank with ret := some (0, 1, 2) } } }
theorem witness_port_states :
    (∀ port ∈ [0, 1, 3], ∀ st ∈ [0, 1, 2, 3, 4], (netS port st).netRuns = true ∧ (netS port st).net.ports.length = 4 ∧
      (netS port st).net.parties.length = 16 ∧ (netS port st).net.ports.getD port 0 = st) ∧
    (netS 0 1).net.accepted = [] ∧ ((netS 0 1).pnet 0).events.length < 32 := by decide +kernel

/-- Synchronised, or not, with some far offsets already seen; on N1, N2 from MAC 5, or on no port. -/
def syncS (st good : Nat) (far : List Int) (now port : Nat) : State :=
  let s := netS 0 1
  atNs now { s with
    od := [(0x3C5002, st)], frame := { s.frame with live := (0x3C5001, port) :: (0x3C5005, 5) :: s.frame.live },
    net := { s.net with good := good, far := far, syncAt := 6250000, syncEvery := 31250000, plca := true } }
/-- A peer-delay exchange over 30 ns each way. -/
def peer0 : Nat × Nat × Nat × Nat := (100, 230, 250, 180)
theorem witness_time_and_beacons :
    (∀ s ∈ [syncS 1 3 [] 7000000 0, syncS 0 3 [] 7000000 0, syncS 1 0 (List.replicate 7 2000000) 7000000 1,
        syncS 1 0 [2000000] 100000000 2],
      s.netRuns = true ∧ s.portUp 0 = true ∧ s.portUp 1 = true ∧ s.net.ports.getD 1 0 = 1 ∧ s.net.plca = true) ∧
    (syncS 1 3 [] 1 0).ptpPort = some 0 ∧ (syncS 1 3 [] 1 1).ptpPort = some 1 ∧ (syncS 1 3 [] 1 2).ptpPort = none ∧
    (syncS 1 3 [] 1 1).inForce 0x3C5005 = 5 ∧ (5 : Nat) ≠ 6 ∧ 31249999 < 31250000 ∧
    (let delay : Int := (((180 : Nat) : Int) - 100 - ((250 : Int) - 230)) / 2
     let off := fun origin : Nat => (origin : Int) + delay - ((7000000 : Nat) + (0 : Int))
     delay = 30 ∧ (syncS 1 3 [] 7000000 0).now = 7000000 ∧ (syncS 1 3 [] 7000000 0).husk.timeOff = 0 ∧
     (off 7000020).natAbs ≤ 50 ∧ 50 < (off 7000021).natAbs ∧ (off 7999970).natAbs ≤ 1000000 ∧ 1000000 < (off 7999971).natAbs ∧
     ∀ y ∈ List.replicate 7 (2000000 : Int), (off 9000970 - y).natAbs ≤ 1000) ∧
    (syncS 1 0 [2000000] 1 0).net.far.length < 7 ∧ (syncS 1 0 (List.replicate 7 2000000) 1 0).net.far.length = 7 ∧
    (syncS 1 3 [] 7000000 0).reg 0x3C5002 = 1 ∧ (syncS 0 3 [] 7000000 0).reg 0x3C5002 ≠ 1 ∧
    (syncS 1 3 [] 7000000 0).net.syncAt < 7000000 ∧
    (syncS 1 0 [] 100000000 0).net.syncAt + 3 * (syncS 1 0 [] 0 0).net.syncEvery ≤ 100000000 ∧
    99999999 < (syncS 1 0 [] 99999999 0).net.syncAt + 3 * (syncS 1 0 [] 0 0).net.syncEvery ∧
    (syncS 1 0 [] 400000 0).net.beaconAt + 400000 ≤ 400000 ∧
    (syncS 1 0 [] 399999 0).now < (syncS 1 0 [] 399999 0).net.beaconAt + 400000 ∧ (syncS 1 0 [] 1 0).portUp 3 = true ∧
    (syncS 1 0 [] 100000000 0).inForce 0x3C6101 ≠ 0 ∧
    (syncS 1 0 [] 100000000 0).net.beatAt + (syncS 1 0 [] 0 0).inForce 0x3C6101 * 1000000 ≤ 100000000 := by decide +kernel

/-- The PLCA node ID of an UP N2: 0 coordinates. -/
def plcaS (id : Nat) : State :=
  let s := syncS 1 0 [] 400000 0
  { s with frame := { s.frame with live := (0x3C1002, id) :: s.frame.live } }
theorem witness_coordinator :
    (∀ n ∈ [0, 3], (plcaS n).netRuns = true ∧ (plcaS n).inForce 0x3C1001 = 1 ∧ (plcaS n).inForce 0x3C1002 = n ∧
      (plcaS n).net.ports.getD 1 0 = 1 ∧ (plcaS n).net.plca = true ∧ (plcaS n).net.beaconAt + 400000 ≤ (plcaS n).now) := by
  decide +kernel

theorem witness_management :
    (netS 0 1).boardServed = true ∧ (netS 0 1).portUp 0 = true ∧ 1 < (netS 0 1).net.parties.length ∧
      (List.replicate 64 (0 : Byte)).length ≤ 64 ∧ 64 < (List.replicate 65 (0 : Byte)).length ∧
      (netS 0 1).husk.power ≠ .sprout ∧ (netS 0 1).inForce 0x3C2006 = 1 ∧ (netS 0 1).net.discAt.getD 0 none = none ∧
      ({ netS 0 1 with net := { (netS 0 1).net with discAt := [some 1000000] } } : State).net.discAt.getD 0 none = some 1000000 ∧
      (netS 0 1).now < 1000000 + 1000000000 ∧ run0.inForce 0x3C2006 ≠ 1 := by decide +kernel

/-- Party 1 has one event, sent at 1 ms, some times already; some events were discarded. -/
def evS (now sends lost : Nat) : State :=
  let n : PartyNet :=
    { PartyNet.blank with ret := some (0, 1, 2), events := [⟨3, 1, 0, [], some 1000000, sends⟩], lost := lost }
  atNs now { netS 0 1 with net := { (netS 0 1).net with parties := setAt (netS 0 1).net.parties 1 n } }
theorem witness_events :
    (∀ s ∈ [evS 21000000 3 0, evS 21000000 4 0, evS 21000000 4 2, evS 20999999 1 0], s.boardServed = true ∧
      1 < s.net.parties.length ∧ s.bindKind 1 = 1 ∧ s.portUp 0 = true ∧ (s.pnet 1).ret = some (0, 1, 2) ∧
      (s.pnet 1).events.map (·.sentAt) = [some 1000000] ∧ (s.pnet 1).events.length < 32 ∧
      s.net.sas.find? (fun a => a.party = 1 && a.tx && a.state = 1) = some ⟨1, true, 0, 5, 1, 9, 0⟩) ∧
    1000000 + 20000000 ≤ (evS 21000000 3 0).now ∧ (evS 20999999 1 0).now < 1000000 + 20000000 ∧
    ((evS 21000000 4 2).pnet 1).lost = 2 ∧ ((evS 21000000 4 0).pnet 1).lost = 0 := by decide +kernel

/-- A request of party 1: class, opcode, sequence 7, its payload (Table NET-3); a message of party 0. -/
def msgB (party cls op : Nat) (pay : List Byte) : List Byte :=
  [1] ++ leBytes 1 cls ++ leBytes 2 op ++ leBytes 1 party ++ [0] ++ leBytes 2 pay.length ++ leBytes 4 7 ++ leBytes 4 0 ++ pay
def msg1 : List Byte := msgB 1 1 1 (List.replicate 8 0)
def msg0 : List Byte := msgB 0 1 1 (List.replicate 8 0)
def rx1 : RxFrame := ⟨0, true, 2, true, 77, 0, true, 100, .maelelo, true, msg1⟩
/-- ARP is configured; the queue of the classifier is full; party 0's message in the mailbox of a bound or an unbound board port. -/
def arpS : State := { netS 0 1 with frame := { (netS 0 1).frame with live := (0x3C2004, 9) :: (netS 0 1).frame.live } }
def fullQ : State := { netS 0 1 with net := { (netS 0 1).net with classQ := List.replicate 32 (0, 1, msg1) } }
def boxS : State := { netS 0 1 with board := { run0.board with mailbox := some msg0 } }
def boxFree : State := { boxS with frame := { boxS.frame with live := mdel boxS.frame.live 0x3C3001 } }
theorem witness_receive :
    (∀ s ∈ [netS 0 1, arpS, fullQ], s.netRuns = true ∧ s.net.ports.getD 0 0 = 1 ∧ s.net.ports.getD 3 0 = 1 ∧
      s.partyOn 0 77 = some 1 ∧ s.partyOn 0 78 = none ∧ s.partyOn 3 7 = some 2 ∧ s.inForce 0x3C3104 = 0 ∧
      (∀ an, an < 2 → s.net.sas.find? (fun a => decide (a.party = 1 ∧ a.tx = false ∧ a.an = an ∧ a.state = 1)) =
        if an = 0 then some ⟨1, false, 0, 5, 1, 100, 0⟩ else none) ∧
      (s.net.sas.find? fun b => b.party = 1 && b.tx && b.state = 1) = some ⟨1, true, 0, 5, 1, 9, 0⟩) ∧
    (netS 0 1).inForce 0x3C2004 = 0 ∧ arpS.inForce 0x3C2004 ≠ 0 ∧ (netS 0 1).net.classQ.length < 32 ∧ 32 ≤ fullQ.net.classQ.length ∧
    16 ≤ msg1.length ∧ field msg1 0 1 = 1 ∧ field msg1 4 1 = 1 ∧ headerStatus msg1 = none ∧ field msg0 4 1 % 16 ≠ 1 ∧
    boxS.board.mailbox = some msg0 ∧ boxS.boardServed = true ∧ boxS.boardParty = some 0 ∧ field msg0 4 1 = 0 ∧
    headerStatus msg0 = none ∧ boxFree.board.mailbox = some msg0 ∧ boxFree.boardServed = true ∧ boxFree.boardParty = none := by
  decide +kernel

/-- The mailbox holds another party's message, one of 15 bytes, and one whose header names no class. -/
def boxM (m : List Byte) : State := { boxS with board := { boxS.board with mailbox := some m } }
theorem witness_mailbox :
    (∀ m ∈ [msg1, msg0.take 15, msgB 0 9 1 []], (boxM m).board.mailbox = some m ∧ (boxM m).boardServed = true ∧
      (boxM m).boardParty = some 0 ∧ 0 < (boxM m).net.parties.length) ∧
    field msg1 4 1 % 16 ≠ 0 ∧ (msg0.take 15).length < 16 ∧ 16 ≤ (msgB 0 9 1 []).length ∧ field (msgB 0 9 1 []) 0 1 = 1 ∧
    field (msgB 0 9 1 []) 4 1 = 0 ∧ (headerStatus (msgB 0 9 1 [])).isSome ∧
    (run0.board.mailbox = none) := by decide +kernel

/-- The message waits for the classifier, without an image and with one, whose run has not begun, has halted or was stopped. -/
def clsS (msg : List Byte) (n : PartyNet) (img : Option PipImage) (ended : Nat) (v : Option Word) : State :=
  let s := netS 0 1
  { s with
    frame := { s.frame with live := (0x3C8002, 1) :: s.frame.live },
    net := { s.net with
      classQ := [(0, 1, msg)], classImage := img, parties := setAt s.net.parties 1 n },
    pips := setAt run0.pips 13 { Pip.blank with ended := ended, verdict := v } }
def remembered7 : PartyNet := { PartyNet.blank with remembered := [(7, .resp 1 0 1 1 7 false 0 0 0 [])] }
/-- A pool read of a context that is not party 1's; a DISCOVER. -/
def poolMsg : List Byte := msgB 1 2 0x0101 (leBytes 2 0 ++ List.replicate 22 0)
def discMsg : List Byte := msgB 1 5 3 []
def stale7 : PartyNet := { PartyNet.blank with highest := some 24 }
def noDisc : State := { clsS discMsg PartyNet.blank none 0 none with frame := run0.frame }
theorem witness_classifier :
    (∀ s ∈ [clsS msg1 PartyNet.blank none 0 none, clsS msg1 remembered7 none 0 none,
        clsS msg1 { PartyNet.blank with progress := [7] } none 0 none, clsS msg1 PartyNet.blank (some classImg) 0 none,
        clsS msg1 PartyNet.blank (some classImg) 1 (some 0x4101), clsS msg1 PartyNet.blank (some classImg) 2 none,
        clsS msg1 stale7 none 0 none, clsS poolMsg PartyNet.blank none 0 none, clsS discMsg PartyNet.blank none 0 none],
      s.net.classQ.length = 1 ∧ s.boardServed = true ∧ 1 < s.net.parties.length ∧ s.pips.length = 14 ∧
        s.odWaiting < 128 ∧ (s.pip 13).running = false ∧ s.inForce 0x3C8002 = 1 ∧ s.inForce 0x3C2006 = 1) ∧
    field msg1 1 1 ≠ 4 ∧ field msg1 8 4 = 7 ∧ (remembered7.remembered.find? (·.1 = 7)).isSome ∧
    PartyNet.blank.remembered.find? (·.1 = 7) = none ∧ PartyNet.blank.progress.contains 7 = false ∧
    staleSeq PartyNet.blank.highest 7 = false ∧ staleSeq stale7.highest 7 = true ∧ PartyNet.blank.progress.length < 16 ∧
    ¬ (field msg1 1 1 = 5 ∧ field msg1 2 2 = 3) ∧ field msg1 1 1 ≠ 2 ∧ (0x4101 : Word).toNat % 4 = 1 ∧
    (0x4101 : Word).toNat.testBit 14 = true ∧ field poolMsg 1 1 = 2 ∧ field poolMsg 8 4 = 7 ∧
    (clsS poolMsg PartyNet.blank none 0 none).switchDenies 1 poolMsg = true ∧ field discMsg 1 1 = 5 ∧ field discMsg 2 2 = 3 ∧
    field discMsg 8 4 = 7 ∧ noDisc.boardServed = true ∧ noDisc.inForce 0x3C2006 ≠ 1 := by decide +kernel

/-- An ACK; sixteen requests in progress; a pool request of 16 bytes; 128 accesses waiting; a verdict that accepts. -/
def ackMsg : List Byte := msgB 1 4 0 []
def shortPool : List Byte := msgB 1 2 0x0101 (List.replicate 16 0)
def busyNet : PartyNet := { PartyNet.blank with progress := (List.range 16).map (· + 100) }
def fullOd : State :=
  let s := clsS msg1 PartyNet.blank none 0 none
  { s with net := { s.net with accepted := List.replicate 128 (0, 1, msg1, false) } }
theorem witness_passed_on :
    (∀ s ∈ [clsS ackMsg PartyNet.blank none 0 none, clsS msg1 busyNet none 0 none, clsS shortPool PartyNet.blank none 0 none, fullOd,
        clsS msg1 PartyNet.blank (some classImg) 1 (some 0x100)],
      s.net.classQ.length = 1 ∧ s.boardServed = true ∧ 1 < s.net.parties.length ∧ s.pips.length = 14 ∧ (s.pip 13).running = false) ∧
    field ackMsg 1 1 = 4 ∧ 16 ≤ busyNet.progress.length ∧ busyNet.progress.contains 7 = false ∧
    busyNet.remembered.find? (·.1 = 7) = none ∧ staleSeq busyNet.highest 7 = false ∧ field shortPool 1 1 = 2 ∧
    shortPool.length < 40 ∧ field msg1 1 1 = 1 ∧ 128 ≤ fullOd.odWaiting ∧ (0x100 : Word).toNat % 4 = 0 ∧
    (0x100 : Word).toNat.testBit 14 = false := by decide +kernel

/-- Node 7 is party 2; a download of it stands with two bytes of a parameter that is no DOMAIN. -/
def usdoS (now : Nat) : State :=
  atNs now { netS 0 1 with net := { (netS 0 1).net with usdo := [⟨7, 0x4C00, 0, [1, 2], 1000000, false⟩] } }
theorem witness_usdo :
    (netS 0 1).mute = false ∧ (netS 0 1).husk.recovery = false ∧ (netS 0 1).husk.power ≠ .sprout ∧
      (netS 0 1).nodeParty 7 = some 2 ∧ (netS 0 1).portUp 3 = true ∧ (netS 0 1).net.usdo.find? (·.node = 7) = none ∧
      ((usdoS 1).net.usdo.find? (·.node = 7)).map (fun x => (x.index, x.sub)) = some (0x4C00, 0) ∧
      (entryRow 0x4C00 0).map (·.kind) = some .uns ∧ (∀ x ∈ (usdoS 1001000000).net.usdo, x.last + 1000000000 ≤ 1001000000) ∧
      (∀ x ∈ (usdoS 1000999999).net.usdo, 1000999999 < x.last + 1000000000) := by decide +kernel

/-- Node 7 has an open upload of 57 or of 56 bytes; 128 accesses wait; one waits. -/
def upS (n : Nat) : State :=
  { netS 0 1 with net := { (netS 0 1).net with usdo := [⟨7, 0x4C00, 0, List.replicate n 1, 1000000, true⟩] } }
def queuedS (n : Nat) : State :=
  { netS 0 1 with net := { (netS 0 1).net with accepted := List.replicate n (0, 1, msg1, false) } }
theorem witness_usdo_uploads :
    (∀ n ∈ [56, 57], ((upS n).net.usdo.find? fun x => x.node = 7 && x.up).map (·.data.length) = some n ∧
      (upS n).nodeParty 7 = some 2 ∧ (upS n).portUp 3 = true) ∧
    (usdoS 1).net.usdo.find? (fun x => x.node = 7 && x.up) = none ∧
    ((usdoS 1).net.usdo.find? fun x => x.node = 7 && !x.up).map (·.index) = some 0x4C00 ∧
    (∀ n ∈ [0, 1, 128], (queuedS n).mute = false ∧ (queuedS n).nodeParty 7 = some 2 ∧ (queuedS n).odWaiting = n ∧
      ((queuedS n).odFirst = none ↔ n = 0)) := by decide +kernel

/-! ## Silent errors and self-test -/

/-- Winnow is on, at a line of the sweep whose time has come or has not. -/
def winS2 (now line : Nat) : State :=
  atNs now { poolS with
    od := [(0x400007, 1)], integ := { poolS.integ with winnowLine := line, winnowStart := some 1000000, winnowNext := 1128000 } }
def namedS (run : Nat) : State := run0.onPod 39 fun p => { p with named := true, namedRun := run }
def checkRec : FaultRec := ⟨clsCheck, 1, unitPod 39, 1, 0, 0, 0, 0, 0, 0, 0, 0, 0, 0⟩
theorem witness_winnow :
    (winS2 1128000 64).winnowOn = true ∧ 1000000 + 64 * 2000 ≤ 1128000 ∧
      (winS2 1128000 64).sweepLine 64 + 1 < dramLines ∧
      dramLines ≤ (winS2 117441510000 (dramLines - 1)).sweepLine (dramLines - 1) + 1 ∧
      run0.winnowOn = false ∧ (winS2 1127999 64).now < 1000000 + 64 * 2000 ∧
      (∀ n ∈ [6, 7], ((namedS n).pod 39).named = true ∧ ((namedS n).pod 39).namedRun = n ∧ ((namedS n).pod 39).fenced = false ∧
        ((namedS n).pod 39).retired = false ∧ (namedS n).pods.length = 40) ∧
      checkRec.cls = clsCheck ∧ checkRec.cause = 1 ∧ checkRec.unit = unitPod 39 := by decide +kernel

theorem witness_winnow_pace :
    (winS2 1128000 64).integ.winnowNext ≤ (winS2 1128000 64).now ∧
    (winS2 1127999 64).now < (winS2 1127999 64).integ.winnowNext := by
  decide +kernel

/-- The test interval is 60 s; cluster 0's last test was at second 0, or just now; a retest of pod 3 waits for second 90. -/
def dueS (last : Nat) : State :=
  { run0 with
    od := [(0x440001, 60)],
    husk := { run0.husk with rtc := 100000000000, oper := 100000000000 },
    test := { run0.test with lastDone := [(0x1000, last), (0x2003, 100)], retest := [(0x2003, 90, 1)] } }
def cTest (stage : Nat) : ClusterTest := ⟨0, stage, false, none, 0, false⟩
def cluS (stage : Nat) : State := { noPlan with test := { noPlan.test with cluster := some (cTest stage) } }
theorem witness_test_dues :
    (∀ u ∈ [0x1000, 0x2003], testUnit u = true ∧ ∀ x ∈ (dueS 0).test.due, x.1 ≠ u) ∧ (dueS 0).frame.running = true ∧
      (dueS 0).scheduledDue 0x1000 = true ∧ (dueS 0).scheduledDue 0x2003 = false ∧ (dueS 0).retestDue 0x2003 = true ∧
      (dueS 50).scheduledDue 0x1000 = false ∧ (dueS 50).retestDue 0x1000 = false ∧
      (∀ n ∈ [0, 1, 2], (cluS n).test.cluster = some (cTest n) ∧ (cluS n).testBarred (cTest n) = false ∧
        (cluS n).husk.xtalStopped = false) := by decide +kernel

/-- The slice-based test of the vault part way and before its last slice; a unit due for the deferral limit. -/
def slS (n : Nat) : State :=
  atNs 1150000 { run0 with
    frame := { run0.frame with phase := .keep }, test := { run0.test with slice := some (0x6001, n, none) } }
def podS : State := { slS 5 with test := { (slS 5).test with slice := some (0x2003, 5, none) } }
def odS : State :=
  { run0 with
    od := [(0x440003, 60)], husk := { run0.husk with rtc := 100000000000 },
    test := { run0.test with due := [(0x1000, 40), (0x2003, 40), (0x6001, 40)] } }
theorem witness_test_slices :
    (∀ n ∈ [5, 5999], (slS n).active = true ∧ (slS n).frame.phase = .keep ∧ (slS n).tier ≠ 3 ∧
      (slS n).frame.tasksDone.testBit 2 = false ∧ (slS n).frame.start + (slS n).keepStart + 14000 ≤ (slS n).now ∧
      (slS n).test.slice = some (0x6001, n, none) ∧ (slS n).sliceCount 0x6001 = 6000) ∧ 5 + 1 ≠ histSlices ∧
    isPodUnit 0x6001 = false ∧
    ((podS.onClu 0 fun c => { c with liftKeep := some (0, [0]) }).test.slice = some (0x2003, 5, none) ∧ isPodUnit 0x2003 = true ∧
        (podS.onClu 0 fun c => { c with liftKeep := some (0, [0]) }).liftKeep (0x2003 % 4096 / 5) = true ∧ podS.active = true ∧
        (slS 5).liftKeep (0x2003 % 4096 / 5) = false) ∧
    (∀ u ∈ [0x1000, 0x2003, 0x6001], (odS.test.due.find? fun x => x.1 = u) = some (u, 40) ∧ u ∉ odS.test.overdue) ∧
    odS.frame.running = true ∧ 40 + odS.reg 0x440003 ≤ odS.rtc ∧ odS.net.parties.length = 16 ∧
    (odS.pnet 0).events.length < 32 ∧ odS.declaresDown 0 = false := by decide +kernel

/-! ## The block as a whole -/

/-- Nanosecond 319 or 639 of a frame under ballast e. -/
def ballS (e since : Nat) : State := { run0 with
  od := (0x246202, e) :: run0.od, husk := { run0.husk with now := 1000000 + since } }
theorem witness_ballast :
    (∀ x ∈ [(1, 319), (2, 319), (2, 639)], fillersDue (later (ballS x.1 x.2)) ∧ (ballS x.1 x.2).Formed ∧
      (ballS x.1 x.2).pending = [] ∧ (ballS x.1 x.2).husk.supply = true ∧ (ballS x.1 x.2).husk.xtalStopped = false) ∧
    ∀ x ∈ [(0, 319), (1, 639), (2, 320)], ¬ fillersDue (later (ballS x.1 x.2)) := by
  unfold State.Formed Shape.full fillersDue
  decide +kernel

theorem witness_idle_step :
    run0.pending = [] ∧ run0.husk.supply = true ∧ run0.husk.xtalStopped = false ∧
      ({ run0 with husk := { run0.husk with xtalStopped := true } } : State).husk.supply = true ∧
      ({ run0 with husk := { run0.husk with supply := false } } : State).husk.supply = false := by decide +kernel

/-- The invariants hold of a state in RUN, and a step answers. -/
theorem witness_invariants :
    run0.Formed ∧ Memory.wf poolS.pool.mem = true ∧ Memory.wf poolS.core.dmem = true ∧
      (step run0 = .next { run0 with husk := { run0.husk with now := 1030001, rtc := 1, oper := 1 } }) := by
  refine ⟨?_, by decide +kernel, by decide +kernel, rfl⟩
  unfold State.Formed Shape.full
  decide +kernel
/-! ## Results that the spec's text gives -/

/-- INTERNAL: the next frame starts P = 250 µs after the last, with the next number. -/
theorem test_tick_starts_the_next_frame : after (execTick (tickS 1250000 0)) (fun t =>
    (t.frame.number, t.frame.start, t.frame.phase == .intake) == (1, 1250000, true)) = true := by decide +kernel

/-- SYNC_IN: the frame starts 80 ns after an edge of 100 ns; one of 39 ns is no edge. -/
theorem test_sync_in_edge : after (execSyncInEdge true 100 false (tickS 1125000 2)) (fun t => t.frame.start == 1125080) = true ∧
    after (execSyncInEdge true 39 true (tickS 1125000 2)) (fun t => t.frame.start == 1000000) = true := by decide +kernel

/-- ANGLE: an event that came 1.2 µs before the floor, for which an older one was dropped, gives lag 12 and both flags (01, worked
example). -/
def angleS : State := { pendS with
  frame := { pendS.frame with keepOd := [(0x4C0200, 3)], pending := some (1123800, 52, true) } }
theorem test_angle_lag : after (execAngleLag angleS) (fun t =>
    (t.frame.lag, t.frame.angle, t.frame.flags.toNat, t.frame.start) == (12, 52, 12, 1125000)) = true := by decide +kernel

theorem test_third_overrun_lowers_the_tier : after (execTimingFault 0 (overS 3)) (fun t => t.reg 0x4C0A03 == 1) = true := by
  decide +kernel

/-- A result record of 44 bytes goes out as one piece of offset 0 and total 44 (R222); stream ID, party and frame number lead it
(Table FRAME-3). -/
theorem test_published_record : after (execPublish (pubS 1070000 [imgP] false)) (fun t => t.out.any fun
    | .record p port stream n b => p == 1 && port == 0 && stream == 8 && n == 0 && b.take 7 == [0, 0, 44, 0, 8, 0, 1] && b.length == 48
    | _ => false) = true := by decide +kernel

/-- A pod's last verify counts its cycle. -/
theorem test_program_counts_a_cycle : after (execProgramComplete true 16 (progS 0 16)) (fun t =>
    (t.reg (podReg 4 5), t.reg 0x300300) == (18, 0xFF)) = true := by decide +kernel

/-- A V code beyond 20 bits is limited; within an overload interval the word is full scale with OVR. -/
theorem test_samples : after (execSampleReady 0 600000 1010000 false false (atNs 2000000 senS)) (fun t =>
      ((t.chan 0).ring.getLast?.map (·.word.toNat % 2 ^ 20)) == some 0x7FFFF) = true ∧
    after (execSampleReady 0 5 1010000 false false (atNs 2000000 ovlS)) (fun t =>
      ((t.chan 0).ring.getLast?.map (·.word.toNat % 2 ^ 21)) == some 0x17FFFF) = true := by decide +kernel

/-- QUAD: A rising before B counts up; both at once count an error. -/
theorem test_quadrature : (quiet0.countEdge 0 (1190003, true, false)).netCount 0 = 4 ∧
    (let t := quiet0.countEdge 0 (1190003, true, true); (t.netCount 0, t.reg (qReg 0 6)) = (3, 1)) := by decide +kernel

/-- The fourth offset within 50 ns synchronises; one beyond 1 ms is ignored once synchronised. -/
theorem test_sync :
    after (execSync 5 9 6999920 31250000 peer0 (syncS 0 3 [] 7000000 1)) (fun t => t.reg 0x3C5002 == 1 && t.husk.timeOff == -50) = true ∧
    after (execSync 5 9 8000001 31250000 peer0 (syncS 1 4 [] 7000000 1)) (fun t => t.reg 0x3C5006 == 1 && t.husk.timeOff == 0) =
      true := by decide +kernel

/-- ECHO of 64 bytes returns them; of 65 it is BAD_TYPE. -/
theorem test_echo : after (execEcho ⟨1, 0, 7⟩ (List.replicate 64 5) (netS 0 1)) (fun t => t.out.any fun
      | .resp _ _ _ _ 7 false 0 _ _ d => d == List.replicate 64 5
      | _ => false) = true ∧
    after (execEcho ⟨1, 0, 7⟩ (List.replicate 65 5) (netS 0 1)) (fun t => t.out.any fun
      | .resp _ _ _ _ 7 false 4 _ _ d => d == []
      | _ => false) = true := by decide +kernel

/-- The eighth checked frame in a row that names a pod fences it. -/
theorem test_pod_fence : after (execPodFence 39 (namedS 7)) (fun t => (t.pod 39).fenced) = true ∧
    after (execPodFence 39 (namedS 6)) (fun t => (t.pod 39).fenced) = false := by decide +kernel

/-- A due cluster shows since when. -/
theorem test_test_due : after (execTestDue 0x1000 (dueS 0)) (fun t =>
    t.test.due == [(0x1000, 100)] && t.reg (bistReg 0 5) == 100) = true := by decide +kernel

/-- A signature that differs fails the cluster's test with cause 1 and the signature. -/
theorem test_cluster_signature : after (execClusterTestStepEnd 0 0xABCD true 0 (cluS 0)) (fun t =>
    (t.test.cluster.bind (·.failed)) == some (1, 0xABCD)) = true := by decide +kernel

/-- A refused load shows its sub-reason; the plan in force stays. -/
theorem test_refused_load : (let t := loadP.refusePending loadX (2, 1)
    (t.loader.pending.isNone, t.loader.plan == some planL, t.reg 0x4C2103) = (true, true, 2)) := by decide +kernel

/-- Bundles by Table CORE-2: op and operands of the slots A (47:0), B (95:48), M (159:96), V (215:160) and K (255:216); 32 zero
bytes are five NOPs. -/
theorem test_bundle :
    let a := 3 * 2 ^ 34 + 4 * 2 ^ 28 + 5 * 2 ^ 22
    bundleCommands (leBytes 32 (0x01 * 2 ^ 40 + a + (0x50 * 2 ^ 40 + a) * 2 ^ 48 + (0x01 * 2 ^ 56 + 77) * 2 ^ 96 +
        (0x04 * 2 ^ 48 + 9) * 2 ^ 160 + (0x03 * 2 ^ 32 + 6) * 2 ^ 216)) =
      [.add .a (BitVec.ofNat 40 a), .mul .b (BitVec.ofNat 40 a), .issue .m 77, .hget .v 9, .bne .k 6] ∧
    bundleCommands (List.replicate 32 0) = [.nop .a, .nop .b, .nop .m, .nop .v, .nop .k] ∧
    bundleCommands (leBytes 32 (0x50 * 2 ^ 40)) = [.illegalOp (.core .a) 0x50, .nop .b, .nop .m, .nop .v, .nop .k] := by
  decide +kernel

/-- Pip instructions by Tables PIP-1 and PIP-2: op [31:26], d [25:22], a [21:18], b [17:14], imm [13:0]; opcode 0x3E is reserved. -/
theorem test_pip_words :
    pipCommand 2 0x44C81FFF = .pipAddi 2 ⟨3, 2, 0, 0x1FFF⟩ ∧ pipCommand 2 0x80048004 = .pipLdw 2 ⟨0, 1, 2, 4⟩ ∧
    pipCommand 2 0xFC000000 = .halt 2 ⟨0, 0, 0, 0⟩ ∧ pipCommand 2 0xF8000000 = .illegalOp (.pip 2) 0x3E := by decide +kernel

/-- SHA-384 of "abc" (FIPS 180-4). -/
theorem test_sha384 : (sha384 [0x61, 0x62, 0x63]).map BitVec.toNat =
    [203, 0, 117, 63, 69, 163, 94, 139, 181, 160, 61, 105, 154, 198, 80, 7, 39, 44, 50, 171, 14, 222, 209, 99, 26, 139, 96, 90, 67,
      255, 91, 237, 128, 134, 7, 43, 161, 231, 204, 35, 88, 186, 236, 161, 52, 200, 37, 167] := by decide +kernel

/-- AES-256 on the example of FIPS 197, and a block of XTS under its inverse. -/
theorem test_aes :
    aesEncrypt ((List.range 32).map (BitVec.ofNat 8)) ((List.range 16).map (17 * ·)) =
      [0x8e, 0xa2, 0xb7, 0xca, 0x51, 0x67, 0x45, 0xbf, 0xea, 0xfc, 0x49, 0x90, 0x4b, 0x49, 0x60, 0x89] ∧
    (let k := (List.range 64).map (BitVec.ofNat 8)
     let b := (List.range 16).map (BitVec.ofNat 8)
     xtsDecrypt k 7 1 (xtsEncrypt k 7 1 b) = b ∧ xtsEncrypt k 7 1 b ≠ b) := by decide +kernel

/-- GET of a whole message removes it; one that ends early leaves it. -/
theorem test_get : after (execGet 2 outq0) (fun t => t.board.outq == [(1, [3])]) = true ∧
    after (execGet 1 outq0) (fun t => t.board.outq == [(1, [1, 2]), (1, [3])]) = true := by decide +kernel

/-- RESET without its key sets RESET_DENIED. -/
theorem test_reset_key : after (execReset 0xC3 0xA4 run0) (fun t => t.board.resetDenied && t.husk.resetAt.isNone) = true ∧
    after (execReset 0xC3 0xA5 run0) (fun t => t.husk.resetAt == some 1032000) = true := by decide +kernel

end Sys2Proof.Tests
end

section
/-! PROOF. The registers right after a power-on, and the statement about the reset state. -/

namespace Sys2Proof.Machine

open Sys2Proof

/-- The keys of the registers that a row of an entry table stands for (R227). -/
def OdRow.keys (row : OdRow) : List Nat := (List.range row.count).map fun i => okey (row.base + i) row.sub

/-- What a key reads after a row's defaults were set over a map in which it read v. -/
def OdRow.defaultOver (k v : Nat) (row : OdRow) : Nat := if row.dflt ≠ 0 ∧ k ∈ row.keys then row.dflt else v

/-- A key after a fold that writes one value to many keys. -/
theorem mget_foldl_mset {ι : Type} (d : Nat) (l : List ι) (key : ι → Nat) (v j : Nat) (m : List (Nat × Nat)) :
    mget d (l.foldl (fun m i => mset d m (key i) v) m) j = if j ∈ l.map key then v else mget d m j := by
  induction l generalizing m with
  | nil => simp
  | cons x l ih =>
    rw [List.foldl_cons, ih]
    by_cases hx : j = key x
    · simp [hx, mget_mset_self]
    · simp [hx, mget_mset_ne d m (Ne.symm hx)]

/-- A fold of writes leaves a key alone that none of them names. -/
theorem mget_foldl_eq {ι : Type} (d : Nat) (l : List ι) (f : List (Nat × Nat) → ι → List (Nat × Nat)) (j : Nat)
    (m : List (Nat × Nat)) (h : ∀ m, ∀ i ∈ l, mget d (f m i) j = mget d m j) : mget d (l.foldl f m) j = mget d m j :=
  List.foldlRecOn (motive := fun m' => mget d m' j = mget d m j) l f rfl fun b hb i hi => (h b i hi).trans hb

/-- The default of a register is that of the last row of the entry tables that names it, 0 where none does. -/
theorem mget_odDefaults (k : Nat) : mget 0 odDefaults k = odTable.foldl (OdRow.defaultOver k) 0 := by
  refine (List.foldl_hom (mget 0 · k) fun m row => ?_).symm
  unfold OdRow.defaultOver
  by_cases h0 : row.dflt = 0
  · simp [h0]
  · simp [h0, OdRow.keys, mget_foldl_mset]

/-- What a power-on itself sets ends with the epoch at 0x310003 (19 R394). -/
theorem mget_powerOnRegs_of_gt {k : Nat} (h : 0x310003 < k) (m : List (Nat × Nat)) :
    mget 0 (powerOnRegs m) k = mget 0 m k := by
  refine (mget_foldl_eq 0 _ _ k _ fun m i hi => ?_).trans ?_
  · have := List.mem_range.1 hi
    exact mget_mset_ne 0 m (by omega) _
  · rw [mget_mset_ne 0 _ (by omega), mget_mset_ne 0 _ (by omega), mget_mset_ne 0 _ (by omega)]

/-- Above the epochs, the pods' roles and the slot maps every register is at its default at reset. -/
theorem mget_odReset_of_gt {k : Nat} (h : 0x310003 < k) : mget 0 odReset k = mget 0 odDefaults k := by
  refine (mget_foldl_eq 0 _ _ k _ fun m i hi => ?pods).trans
    ((mget_foldl_eq 0 _ _ k _ fun m c hc => ?slotMaps).trans (mget_powerOnRegs_of_gt h _))
  case pods =>
    have := List.mem_range.1 hi
    dsimp only
    split <;> rw [mget_mset_ne 0 _ (by omega), mget_mset_ne 0 _ (by omega)]
  case slotMaps =>
    have := List.mem_range.1 hc
    exact mget_mset_ne 0 m (by omega) _

/-- Table ODX-7 gives a party's role the default 1. -/
theorem odDefaults_role : ∀ p < 16, mget 0 odDefaults (okey (0x3800 + p) 1) = 1 := by
  simp only [mget_odDefaults]
  decide +kernel

/-- Right after a power-on every party but the Owner is an Observer (R230, Table ODX-7). -/
theorem reset_role_of_ne_owner {p : Nat} (h0 : p ≠ 0) (hp : p < 16) : State.reset.role p = 1 := by
  have hk : 0x310003 < okey (0x3800 + p) 1 := by unfold okey; omega
  calc State.reset.role p = mget 0 odReset (okey (0x3800 + p) 1) := by simp [State.role, h0, State.inForce, State.reset]
    _ = mget 0 odDefaults (okey (0x3800 + p) 1) := mget_odReset_of_gt hk
    _ = 1 := odDefaults_role p hp

/-- Refutes O60: the statement gives party 1 the role 0, an Operator's, and Table ODX-7 makes it an Observer, 1, until the Owner
assigns another role. -/
theorem not_resetIsAPowerOnSprout : ¬ Obligations.ResetIsAPowerOnSprout := by
  unfold Obligations.ResetIsAPowerOnSprout
  rintro ⟨-, -, -, -, -, -, -, -, -, -, -, -, -, -, -, -, -, -, hrole, -⟩
  rw [reset_role_of_ne_owner (p := 1) (by decide) (by decide)] at hrole
  exact absurd hrole (by decide)

end Sys2Proof.Machine
end

section
/-! PROOF. Every command answers and keeps the shape of the state, so every step keeps the units of the device. -/

namespace Sys2Proof.Machine

open Sys2Proof

/-- Each command of the block keeps the queue behind it and the units of the device, by the command's own shape law. -/
theorem exec_keeps (c : Instr) (s : State) : Keeps (exec c s) s := by
  cases c <;> simp only [exec]
  all_goals simp

/-- A step takes at most one command from the queue and changes the number of no unit. -/
theorem step_shape {s t : State} (h : step s = .next t) : t.shape = { s.shape with pending := s.pending.tail } := by
  unfold step at h
  split at h
  next c rest hq =>
    obtain ⟨u, hu, hshape⟩ := exec_keeps c { s with pending := rest }
    obtain rfl : u = t := by simpa [hu] using h
    rw [hshape, hq]
    rfl
  next hq =>
    obtain rfl : s.idle = t := by simpa using h
    have htail : s.pending.tail = s.pending := by rw [hq, List.tail_nil]
    rw [State.idle_shape, htail]
    rfl

/-- Settles O58: the units are all there by the counts of the shape, of which a step changes the queue alone. -/
theorem everyStepKeepsTheUnits : Obligations.EveryStepKeepsTheUnits := by
  unfold Obligations.EveryStepKeepsTheUnits State.Formed
  intro s t hs h
  rw [step_shape h]
  exact hs

end Sys2Proof.Machine
end

section
/-! SUPPORT. Answers of the loader's entries: what an answer must find unchanged, and the end of a pending order. -/

namespace Sys2Proof.Machine

open Sys2Proof

/-! Orders that are accepted -/

/-- An order whose checks pass and whose entry does not object has its effect and answers OK. -/
theorem State.ordered_ok (s : State) (r : Req) (index sub v : Nat) (eff : State → State)
    (h : s.writeCheck r index sub v = .status stOk) :
    s.ordered r index sub v stOk eff = (eff s).wrote r (okey index sub) stOk := by
  simp [State.ordered, h, lateStatus]

theorem State.wrote_loader (s : State) (r : Req) (k st : Nat) : (s.wrote r k st).loader = s.loader := by
  have h := State.wrote_touches s r k st
  unfold touchesReply at h
  rw [h]

theorem State.wrote_staged (s : State) (r : Req) (k st : Nat) : (s.wrote r k st).frame.staged = s.frame.staged := by
  have h := State.wrote_touches s r k st
  unfold touchesReply at h
  rw [h]

/-! What an answer depends on -/

/-- What the answer of a write to an entry is made from: what is sent already, the party's node, the CAN FD port, the parties and
what the requester's side remembers. -/
def answerView (s : State) (r : Req) : List OutMsg × Nat × Bool × Nat × List (Nat × OutMsg) × List Nat :=
  (s.out, s.inForce (okey (0x3C30 + r.party) 3), s.portUp 3, s.net.parties.length, requestsOf (s.pnet r.party))

/-- The loader's entries belong to no party: none is hidden (R252). -/
theorem State.hidden_loaderEntry (s : State) (p port : Nat) {index : Nat} (h : 0x4C20 ≤ index) (h' : index < 0x4C40) :
    s.hidden p port index = false := by
  have hi (base : Nat) (hb : base + 16 ≤ 0x4C20 ∨ 0x4C40 ≤ base) : inGroup base index = false := by
    simp only [inGroup, decide_eq_false_iff_not]
    omega
  have hlow : ¬ (0x1000 ≤ index ∧ index < 0x2000) := by omega
  simp [State.hidden, hi, hlow]

/-- A write that is answered with regard to one state is answered with regard to another that gives the same answer. -/
theorem writeAnswered_of_view {s u t : State} {r : Req} {index st : Nat} (hv : answerView u r = answerView s r)
    (ha : u.absentIndex r index = s.absentIndex r index) (h : writeAnswered u t r index st) :
    writeAnswered s t r index st := by
  simp only [answerView, Prod.mk.injEq, requestsOf] at hv
  obtain ⟨hout, hnode, hport, hparties, hremembered, hprogress⟩ := hv
  unfold writeAnswered answered at h ⊢
  rw [hout, hnode, hport, hparties, hremembered, hprogress, ha] at h
  exact h

/-- An entry of the loader answers a write as the state at its beginning has it, whatever the write did to the loader. -/
theorem State.wrote_loaderEntry_answered {s u : State} {r : Req} (hv : answerView u r = answerView s r) (k st : Nat)
    (h : 0x4C20 ≤ k / 256) (h' : k / 256 < 0x4C40) : writeAnswered s (u.wrote r k st) r (k / 256) st := by
  refine writeAnswered_of_view hv ?_ (State.wrote_answered u r k st)
  simp [State.absentIndex, State.hidden_loaderEntry _ _ _ h h']

/-- An entry's write that only answers. -/
theorem State.wrote_only (s : State) (r : Req) (k st : Nat) :
    writeAnswered s (s.wrote r k st) r (k / 256) st ∧ otherRegs s (s.wrote r k st) [] ∧ touchesReply s (s.wrote r k st) :=
  ⟨State.wrote_answered s r k st, fun j _ hj => State.wrote_reg s r k st j hj, State.wrote_touches s r k st⟩

/-- A register whose subindex no counter of an answer has is not one of these counters. -/
theorem not_answerCounter_of_sub {k : Nat} (h : k % 256 < 5) : ¬ answerCounter k := by
  rintro (⟨u, -, rfl | rfl⟩ | ⟨p, rfl | rfl⟩ | rfl | rfl) <;> simp only [okey] at h <;> omega

/-! The end of a pending order (R178, R179) -/

/-- The end of a pending order keeps what registers, events and the loader do not change. -/
theorem State.reportEnd_view {γ : Type} (v : State → γ) (hreg : ∀ t k x, v (State.setReg t k x) = v t)
    (hevent : ∀ t p op st b, v (State.event t p op st b) = v t)
    (hended : ∀ t : State, v { t with loader := { t.loader with pending := none } } = v t)
    (s : State) (kind party st sub detail : Nat) : v (s.reportEnd kind party st sub detail) = v s := by
  unfold State.reportEnd
  dsimp only
  rw [hended, foldl_view v _ fun t p => hevent t p _ _ _]
  by_cases h : kind = pendLoad
  · simp [h, foldl_view v _ fun t p => hreg t _ _, hreg]
  · simp [h, hreg]

theorem State.reportEnd_answerView (s : State) (r : Req) (kind party st sub detail : Nat) :
    answerView (s.reportEnd kind party st sub detail) r = answerView s r := by
  refine State.reportEnd_view (answerView · r) (fun _ _ _ => rfl) (fun t p op st b => ?_) (fun _ => rfl) s kind party
    st sub detail
  have hl : (t.event p op st b).net.parties.length = t.net.parties.length := length_upd _ _ _
  have hq : requestsOf ((t.event p op st b).pnet r.party) = requestsOf (t.pnet r.party) :=
    State.requestsOf_enqueue t p r.party op st b
  simp only [answerView, hl, hq]
  rfl

/-- What the loader holds after the end of a pending order: the same, with nothing pending. -/
theorem State.reportEnd_loader (s : State) (kind party st sub detail : Nat) :
    (s.reportEnd kind party st sub detail).loader = { s.loader with pending := none } := by
  have hpending : (s.reportEnd kind party st sub detail).loader =
      { (s.reportEnd kind party st sub detail).loader with pending := none } := rfl
  rw [hpending]
  exact State.reportEnd_view (fun t => { t.loader with pending := none }) (fun _ _ _ => rfl) (fun _ _ _ _ _ => rfl)
    (fun _ => rfl) s kind party st sub detail

theorem State.reg_foldl_event (s : State) (l : List Nat) (op st : Nat) (b : List Byte) (k : Nat) :
    (l.foldl (fun (s : State) p => s.event p op st b) s).reg k = s.reg k :=
  foldl_view (·.reg k) (fun t p => t.event p op st b) (fun _ _ => rfl) l s

/-- The end of a load shows its status, sub-reason and detail; the details of the parties stand above every entry's own
register. -/
theorem State.reportEnd_reg_of_load (s : State) (party st sub detail : Nat) {k : Nat} (hk : k < 2 ^ 24) :
    (s.reportEnd pendLoad party st sub detail).reg k =
      (((s.setReg 0x4C2102 st).setReg 0x4C2103 sub).setReg 0x4C2104 detail).reg k := by
  unfold State.reportEnd
  simp only [ne_eq, not_true_eq_false, ↓reduceIte]
  refine (State.reg_foldl_event _ _ _ _ _ k).trans (foldl_view (·.reg k) _ (fun t p => ?_) _ _)
  have hne : pkey p 0x4C2104 ≠ k := by unfold pkey; omega
  exact State.reg_setReg_ne t _ k _ hne

/-- The end of an update or of a consolidation shows its status. -/
theorem State.reportEnd_reg_of_update (s : State) (kind party st sub detail k : Nat) (h : kind ≠ pendLoad) :
    (s.reportEnd kind party st sub detail).reg k = (s.setReg 0x4C2404 st).reg k := by
  unfold State.reportEnd
  simp only [h, ne_eq, not_false_eq_true, ↓reduceIte]
  exact State.reg_foldl_event _ _ _ _ _ k

/-- The three entries of a load's end (Table LDR-6). -/
theorem State.reportEnd_load_entries (s : State) (party st sub detail : Nat) :
    (s.reportEnd pendLoad party st sub detail).reg 0x4C2102 = st ∧
      (s.reportEnd pendLoad party st sub detail).reg 0x4C2103 = sub ∧
      (s.reportEnd pendLoad party st sub detail).reg 0x4C2104 = detail := by
  have h {k : Nat} (hk : k < 2 ^ 24) := State.reportEnd_reg_of_load s party st sub detail hk
  refine ⟨(h (by decide)).trans ?_, (h (by decide)).trans ?_, (h (by decide)).trans ?_⟩ <;> simp

/-! What a pending order gives up when it ends (R54, R57) -/

/-- What giving up the pods and the update group of a pending order may touch. -/
def touchesGiveUp (s t : State) : Prop :=
  t = { s with od := t.od, pods := t.pods, clusters := t.clusters, loader := { s.loader with group := t.loader.group } }

theorem touchesGiveUp.rfl {s : State} : touchesGiveUp s s := by unfold touchesGiveUp; rfl

theorem touchesGiveUp.trans {s t u : State} (h : touchesGiveUp s t) (k : touchesGiveUp t u) : touchesGiveUp s u := by
  unfold touchesGiveUp at h k ⊢
  rw [h] at k
  exact k

theorem touchesRegs.giveUp {s t : State} (h : touchesRegs s t) : touchesGiveUp s t := by
  unfold touchesRegs at h
  unfold touchesGiveUp
  rw [h]

theorem touchesGiveUp.answerView {s t : State} (h : touchesGiveUp s t) (r : Req) : answerView t r = answerView s r := by
  unfold touchesGiveUp at h
  rw [h]
  rfl

theorem touchesGiveUp.plan {s t : State} (h : touchesGiveUp s t) : t.loader.plan = s.loader.plan := by
  unfold touchesGiveUp at h
  rw [h]

theorem State.onPod_giveUp (s : State) (i : Nat) (f : Pod → Pod) : touchesGiveUp s (s.onPod i f) := by
  unfold touchesGiveUp; rfl

theorem State.setReg_if_giveUp (s : State) (c : Prop) [Decidable c] (k v : Nat) :
    touchesGiveUp s (if c then s.setReg k v else s) := by
  split
  · exact (State.setReg_touches _ _ _).giveUp
  · exact .rfl

theorem State.dropBulk_giveUp (s : State) : touchesGiveUp s s.dropBulk := by
  unfold State.dropBulk
  split
  · exact .rfl
  · refine foldl_rel touchesGiveUp (fun _ => .rfl) (fun h k => h.trans k) _ (fun t b => ?_) _ s
    dsimp only
    exact (State.setReg_if_giveUp _ _ _ _).trans (State.onPod_giveUp _ _ _)

theorem State.dropGroup_giveUp (s : State) : touchesGiveUp s s.dropGroup := by
  unfold State.dropGroup
  split
  · exact .rfl
  · refine touchesGiveUp.trans (foldl_rel touchesGiveUp (fun _ => .rfl) (fun h k => h.trans k) _ (fun t m => ?_) _ s)
      (by unfold touchesGiveUp; rfl)
    dsimp only
    have hclu : touchesGiveUp t (t.onClu m.1 fun x => { x with staged := none }) := by unfold touchesGiveUp; rfl
    refine hclu.trans ?_
    generalize t.onClu m.1 _ = u
    have hpod (sp v : Nat) (f : Pod → Pod) : touchesGiveUp u ((u.onPod sp f).spareState sp v) :=
      (State.onPod_giveUp u sp f).trans (State.spareState_touches _ _ _).giveUp
    split
    · split
      · exact (hpod _ _ _).trans (State.setReg_if_giveUp _ _ _ _)
      · exact .rfl
    · exact .rfl

/-- After a group is dropped there is none. -/
theorem State.dropGroup_group (s : State) : s.dropGroup.loader.group = none := by
  unfold State.dropGroup
  split
  · assumption
  · rfl

/-- A refused order: nothing is pending, no group stands and the plan in force stays. -/
theorem State.refusePending_loader (s : State) (x : Pending) (v : Nat × Nat) :
    (s.refusePending x v).loader = { s.loader with pending := none, group := none } := by
  have h := (State.dropBulk_giveUp s).trans (State.dropGroup_giveUp s.dropBulk)
  have hg := State.dropGroup_group s.dropBulk
  unfold State.refusePending
  rw [State.reportEnd_loader]
  unfold touchesGiveUp at h
  rw [hg] at h
  rw [h]

end Sys2Proof.Machine
end

section
/-! SUPPORT. What the loader reads of images, and the spares that an update group takes. -/

namespace Sys2Proof.Machine

open Sys2Proof

/-! Images that are read (R158, R160) -/

theorem touchesTrace.loader {s t : State} (h : touchesTrace s t) : t.loader = s.loader := by
  unfold touchesTrace at h
  rw [h]

theorem State.readImage_touches (s : State) (party ctx length : Nat) : touchesTrace s (s.readImage party ctx length) :=
  (State.charge_touches s party ctx _ false).trace.trans (State.traceDevice_touches _ _ _ _ _ _ _ _)

theorem State.readImage_reg (s : State) (party ctx length k : Nat) (hk : ¬ answerCounter k) :
    (s.readImage party ctx length).reg k = s.reg k :=
  State.traceOut_reg _ _ k hk

/-- The state once the loader has read a composition and the images of its segments. -/
def State.readPlan (s : State) (x : Pending) (p : PlanImage) : State :=
  p.comp.segs.foldl (fun (s : State) g => s.readImage g.party g.ctx g.length) (s.readImage x.party x.ctx p.comp.hdr.length)

theorem State.readPlan_touches (s : State) (x : Pending) (p : PlanImage) : touchesTrace s (s.readPlan x p) :=
  (State.readImage_touches s _ _ _).trans
    (foldl_rel touchesTrace (fun _ => .rfl) (fun h k => h.trans k) _ (fun _ _ => State.readImage_touches _ _ _ _) _ _)

theorem State.readPlan_reg (s : State) (x : Pending) (p : PlanImage) (k : Nat) (hk : ¬ answerCounter k) :
    (s.readPlan x p).reg k = s.reg k :=
  (foldl_view (·.reg k) _ (fun t _ => State.readImage_reg t _ _ _ k hk) _ _).trans (State.readImage_reg s _ _ _ k hk)

/-- Reading images does not change which pod is a cluster's spare. -/
theorem State.readPlan_spare (s : State) (x : Pending) (p : PlanImage) (c : Nat) : (s.readPlan x p).spare c = s.spare c := by
  have h : (s.readPlan x p).reg (cluReg c 2) = s.reg (cluReg c 2) :=
    State.readPlan_reg s x p _ (not_answerCounter_of_sub (by simp only [cluReg, okey]; omega))
  unfold State.spare
  rw [h]

/-! Spares given up by what used them (R57) -/

/-- What taking spares for an update group may touch. -/
def touchesSpares (s t : State) : Prop := t = { s with od := t.od, pods := t.pods, cal := t.cal }

theorem touchesSpares.rfl {s : State} : touchesSpares s s := by unfold touchesSpares; rfl

theorem touchesSpares.trans {s t u : State} (h : touchesSpares s t) (k : touchesSpares t u) : touchesSpares s u := by
  unfold touchesSpares at h k ⊢
  rw [h] at k
  exact k

theorem touchesSpares.loader {s t : State} (h : touchesSpares s t) : t.loader = s.loader := by
  unfold touchesSpares at h
  rw [h]

theorem touchesRegs.spares {s t : State} (h : touchesRegs s t) : touchesSpares s t := by
  unfold touchesRegs at h
  unfold touchesSpares
  rw [h]

theorem State.onPod_spares (s : State) (i : Nat) (f : Pod → Pod) : touchesSpares s (s.onPod i f) := by
  unfold touchesSpares; rfl

theorem State.onCal_spares (s : State) (f : Cal → Cal) : touchesSpares s (s.onCal f) := by
  unfold touchesSpares; rfl

theorem State.stopProgram_spares (s : State) : touchesSpares s s.stopProgram := by
  unfold State.stopProgram
  dsimp only
  split
  · exact (State.onPod_spares s _ _).trans
      ((State.spareState_touches _ _ _).spares.trans (State.setReg_touches _ _ _).spares)
  · exact .rfl

theorem State.claimSpare_spares (s : State) (c : Nat) : touchesSpares s (s.claimSpare c) := by
  unfold State.claimSpare
  split
  · dsimp only
    split
    · exact State.stopProgram_spares s
    · split
      · exact (State.onPod_spares s _ _).trans ((State.onCal_spares _ _).trans (State.spareState_touches _ _ _).spares)
      · exact .rfl
  · exact .rfl

/-- A spare's state stands in subindex 3 of its pod. -/
theorem State.spareState_reg (s : State) (pod v k : Nat) (h : k % 256 ≠ 3) : (s.spareState pod v).reg k = s.reg k := by
  have hne : podReg pod 3 ≠ k := by
    rintro rfl
    exact h (by simp only [podReg, okey]; omega)
  unfold State.spareState
  split
  · exact State.reg_setReg_ne s _ k v hne
  · rfl

/-- A stopped program leaves no pod being programmed (0x3003:00 reads 0xFF) and writes no entry but that and the pod's state. -/
theorem State.stopProgram_reg (s : State) (k : Nat) (h0 : k ≠ 0x300300) (h3 : k % 256 ≠ 3) :
    s.stopProgram.reg k = s.reg k := by
  unfold State.stopProgram
  dsimp only
  split
  · exact (State.reg_setReg_ne _ _ _ _ h0.symm).trans (State.spareState_reg (s.onPod _ _) _ _ _ h3)
  · rfl

theorem State.stopProgram_programmed (s : State) (h : s.reg 0x300300 < 40) : s.stopProgram.reg 0x300300 = 0xFF := by
  unfold State.stopProgram
  dsimp only
  rw [if_pos h]
  exact State.reg_setReg_self _ _ _

/-- After a spare is claimed no pod is being programmed where it was that spare; else the same one is. -/
theorem State.claimSpare_programmed (s : State) (c : Nat) : (s.claimSpare c).reg 0x300300 =
    if s.spare c = some (s.reg 0x300300) ∧ s.reg 0x300300 < 40 then 0xFF else s.reg 0x300300 := by
  have hst (t : State) (pod v : Nat) : (t.spareState pod v).reg 0x300300 = t.reg 0x300300 :=
    State.spareState_reg t pod v _ (by decide)
  have hstop (h : ¬ s.reg 0x300300 < 40) : s.stopProgram = s := if_neg h
  unfold State.claimSpare
  split
  next sp hc =>
    rw [hc]
    dsimp only
    split
    next h =>
      by_cases hlt : s.reg 0x300300 < 40
      · rw [State.stopProgram_programmed s hlt, if_pos ⟨by rw [h], hlt⟩]
      · rw [hstop hlt, if_neg (fun k => hlt k.2)]
    next h =>
      have hne : ¬ (some sp = some (s.reg 0x300300) ∧ s.reg 0x300300 < 40) := by
        rintro ⟨hk, -⟩
        exact h (Option.some.inj hk).symm
      rw [if_neg hne]
      split
      · exact hst _ _ _
      · rfl
  next hc => simp [hc]

/-- Claiming a spare writes no entry but 0x3003:00 and the states of pods. -/
theorem State.claimSpare_reg (s : State) (c k : Nat) (h0 : k ≠ 0x300300) (h3 : k % 256 ≠ 3) :
    (s.claimSpare c).reg k = s.reg k := by
  unfold State.claimSpare
  split
  · dsimp only
    split
    · exact State.stopProgram_reg s k h0 h3
    · split
      · exact State.spareState_reg ((s.onPod _ _).onCal _) _ _ _ h3
      · rfl
  · rfl

theorem State.claimSpare_spare (s : State) (c d : Nat) : (s.claimSpare c).spare d = s.spare d := by
  have h : (s.claimSpare c).reg (cluReg d 2) = s.reg (cluReg d 2) := by
    refine State.claimSpare_reg s c _ ?_ ?_ <;> simp only [cluReg, okey] <;> omega
  unfold State.spare
  rw [h]

/-- The spares of the clusters of an update group, claimed one after the other. -/
def State.claimSpares (s : State) (m : List (Nat × Nat × Nat)) : State := m.foldl (fun (s : State) y => s.claimSpare y.1) s

theorem State.claimSpares_spares (s : State) (m : List (Nat × Nat × Nat)) : touchesSpares s (s.claimSpares m) := by
  have hy (t : State) (y : Nat × Nat × Nat) : touchesSpares t (t.claimSpare y.1) := State.claimSpare_spares t y.1
  unfold State.claimSpares
  exact foldl_rel touchesSpares (fun _ => .rfl) (fun h k => h.trans k) _ hy m s

/-- None of the claimed spares is being programmed any longer. -/
theorem State.claimSpares_not_programmed (s : State) (m : List (Nat × Nat × Nat)) (sp : Nat) (hsp : sp < 40)
    (h : s.reg 0x300300 ≠ sp ∨ ∃ y ∈ m, s.spare y.1 = some sp) : (s.claimSpares m).reg 0x300300 ≠ sp := by
  induction m generalizing s with
  | nil => simpa [State.claimSpares] using h
  | cons y m ih =>
    refine ih (s.claimSpare y.1) ?_
    rw [State.claimSpare_programmed]
    rcases h with h | ⟨z, hz, hs⟩
    · left
      split <;> omega
    · rcases List.mem_cons.1 hz with rfl | hz
      · left
        simp only [hs, Option.some.injEq]
        split <;> omega
      · exact .inr ⟨z, hz, (State.claimSpare_spare s y.1 z.1).trans hs⟩

end Sys2Proof.Machine
end

section
/-! PROOF. Requests to the loader and their verification. -/

namespace Sys2Proof.Machine

open Sys2Proof

/-! Requests (R158, R170, R177 to R180) -/

/-- A state in which an order for the loader is pending. -/
def State.withPending (s : State) (x : Pending) : State := { s with loader := { s.loader with pending := some x } }

/-- An entry of the loader that accepts an order answers OK, and the order is pending. -/
theorem State.wrote_withPending (s : State) (x : Pending) (r : Req) (k st : Nat) (h : 0x4C20 ≤ k / 256)
    (h' : k / 256 < 0x4C40) : let t := (s.withPending x).wrote r k st
    writeAnswered s t r (k / 256) st ∧ otherRegs s t [] ∧ t.loader = { s.loader with pending := some x } ∧
      touchesReply { s with loader := t.loader } t := by
  have hview : answerView (s.withPending x) r = answerView s r := rfl
  have hreg (j : Nat) : (s.withPending x).reg j = s.reg j := rfl
  have hstate : { s with loader := (s.withPending x).loader } = s.withPending x := rfl
  have hl : ((s.withPending x).wrote r k st).loader = (s.withPending x).loader := State.wrote_loader _ r k st
  have ht : touchesReply (s.withPending x) ((s.withPending x).wrote r k st) := State.wrote_touches _ r k st
  refine ⟨State.wrote_loaderEntry_answered hview k st h h', fun j _ hj => ?_, hl, ?_⟩
  · exact (State.wrote_reg _ r k st j hj).trans (hreg j)
  · rwa [hl, hstate]

theorem State.loadOrder_of_pending {s : State} {r : Req} {ctx addr : Nat} (h : s.bytesCheck r 0x4C20 1 12 = .status stOk)
    (hp : s.loader.pending ≠ none) : s.loadOrder r ctx addr = s.wrote r 0x4C2001 stBusy := by
  simp [State.loadOrder, h, Option.isSome_iff_ne_none.2 hp]

theorem State.loadOrder_of_barred {s : State} {r : Req} {ctx addr : Nat} (h : s.bytesCheck r 0x4C20 1 12 = .status stOk)
    (hp : s.loader.pending = none) (hd : s.lifecycleBars r.party = true ∨ s.ctxStatus r.party ctx = stDenied) :
    s.loadOrder r ctx addr = s.wrote r 0x4C2001 stDenied := by
  simp [State.loadOrder, h, hp, hd]

/-- The composition that a load request names, before its segment images are read. -/
def State.requestImage (s : State) (r : Req) (ctx addr : Nat) : PlanImage := ⟨readComp (s.imageBytes r.party ctx addr), []⟩

theorem State.loadOrder_of_refused {s : State} {r : Req} {ctx addr sub det : Nat}
    (h : s.bytesCheck r 0x4C20 1 12 = .status stOk) (hp : s.loader.pending = none)
    (hl : s.lifecycleBars r.party = false) (hd : s.ctxStatus r.party ctx ≠ stDenied)
    (hc : s.check12 (s.requestImage r ctx addr) ctx addr = some (sub, det)) :
    s.loadOrder r ctx addr = (s.reportEnd pendLoad r.party stPlanRejected sub det).wrote r 0x4C2001 stPlanRejected := by
  unfold State.requestImage at hc
  simp [State.loadOrder, h, hp, hl, hd, hc]

theorem State.loadOrder_of_accepted {s : State} {r : Req} {ctx addr : Nat}
    (h : s.bytesCheck r 0x4C20 1 12 = .status stOk) (hp : s.loader.pending = none)
    (hl : s.lifecycleBars r.party = false) (hd : s.ctxStatus r.party ctx ≠ stDenied)
    (hc : s.check12 (s.requestImage r ctx addr) ctx addr = none) : s.loadOrder r ctx addr =
      (s.withPending ⟨pendLoad, r.party, ctx, addr, some (s.requestImage r ctx addr), none, 0, false, []⟩).wrote r
        0x4C2001 stOk := by
  unfold State.requestImage at hc ⊢
  simp [State.loadOrder, State.withPending, h, hp, hl, hd, hc]

/-- A load that fails check 1 or 2 is answered and reported, and the loader is as it was (R178). -/
theorem State.wrote_refusedLoad (s : State) (r : Req) (sub det : Nat) (hp : s.loader.pending = none) :
    let t := (s.reportEnd pendLoad r.party stPlanRejected sub det).wrote r 0x4C2001 stPlanRejected
    writeAnswered s t r 0x4C20 stPlanRejected ∧ t.reg 0x4C2102 = stPlanRejected ∧ t.reg 0x4C2103 = sub ∧
      t.reg 0x4C2104 = det ∧ t.loader = s.loader := by
  have hreg {k : Nat} (hk : k % 256 < 5) :=
    State.wrote_reg (s.reportEnd pendLoad r.party stPlanRejected sub det) r 0x4C2001 stPlanRejected k
      (not_answerCounter_of_sub hk)
  obtain ⟨hst, hsub, hdet⟩ := State.reportEnd_load_entries s r.party stPlanRejected sub det
  refine ⟨State.wrote_loaderEntry_answered (State.reportEnd_answerView s r _ _ _ _ _) 0x4C2001 _ (by decide) (by decide),
    (hreg (by decide)).trans hst, (hreg (by decide)).trans hsub, (hreg (by decide)).trans hdet, ?_⟩
  rw [State.wrote_loader, State.reportEnd_loader, ← hp]

/-! Updates -/

theorem State.updateOrder_of_denied {s : State} {r : Req} {ctx addr : Nat} (h : s.bytesCheck r 0x4C24 1 12 = .status stOk)
    (hp : s.loader.pending = none) (hd : s.ctxStatus r.party ctx = stDenied) :
    s.updateOrder r ctx addr = s.wrote r 0x4C2401 stDenied := by
  simp [State.updateOrder, h, hp, hd]

theorem State.updateOrder_of_unmapped {s : State} {r : Req} {ctx addr : Nat}
    (h : s.bytesCheck r 0x4C24 1 12 = .status stOk) (hp : s.loader.pending = none)
    (hd : s.ctxStatus r.party ctx ≠ stDenied)
    (hm : s.mapped r.party ctx addr (max 64 (s.imageLength r.party ctx addr)) = false) :
    s.updateOrder r ctx addr = s.wrote r 0x4C2401 stNoObject := by
  simp [State.updateOrder, h, hp, hd, hm]

theorem State.updateOrder_of_mapped {s : State} {r : Req} {ctx addr : Nat}
    (h : s.bytesCheck r 0x4C24 1 12 = .status stOk) (hp : s.loader.pending = none)
    (hd : s.ctxStatus r.party ctx ≠ stDenied)
    (hm : s.mapped r.party ctx addr (max 64 (s.imageLength r.party ctx addr)) = true) : s.updateOrder r ctx addr =
      (s.withPending ⟨pendUpdate, r.party, ctx, addr, none, none, 0, false, []⟩).wrote r 0x4C2401 stOk := by
  simp [State.updateOrder, State.withPending, h, hp, hd, hm]

theorem State.consolidateOrder_of_owned {s : State} {r : Req} {v : Nat} (h : s.writeCheck r 0x4C24 2 v = .status stOk)
    (hp : s.loader.pending = none) (hv : v < 2 ^ 20) (ho : s.reg (okey (0x3310 + consHead v) 1) = r.party) :
    s.consolidateOrder r v =
      ((s.withPending ⟨pendCons, r.party, 0, 0, none, none, consTarget v, false, []⟩).stage
        (.consolidate (consHead v) (consTarget v))).wrote r (okey 0x4C24 2) stOk := by
  have hlt : ¬ v ≥ 1048576 := by omega
  unfold State.consolidateOrder
  simp only [hp, hlt, ho, Option.isSome_none, Bool.false_eq_true, ne_eq, not_true_eq_false, ↓reduceIte]
  exact State.ordered_ok s r 0x4C24 2 v _ h

/-- What an order of an accepted consolidation leaves: it is pending, and staged for the next boundary. -/
theorem State.wrote_consolidation (s : State) (x : Pending) (op : BoundaryOp) (r : Req) :
    let t := ((s.withPending x).stage op).wrote r (okey 0x4C24 2) stOk
    writeAnswered s t r 0x4C24 stOk ∧ otherRegs s t [] ∧ t.loader.pending = some x ∧
      t.frame.staged = s.frame.staged ++ [⟨s.dueFrame, op⟩] := by
  have hview : answerView ((s.withPending x).stage op) r = answerView s r := rfl
  have hreg (j : Nat) : ((s.withPending x).stage op).reg j = s.reg j := rfl
  refine ⟨State.wrote_loaderEntry_answered hview _ stOk (by decide) (by decide), fun j _ hj => ?_, ?_, ?_⟩
  · exact (State.wrote_reg _ r _ stOk j hj).trans (hreg j)
  · rw [State.wrote_loader]
    rfl
  · rw [State.wrote_staged]
    rfl

/-! The end by the loading party (R176) -/

/-- What an ABORT makes of the state before it answers. -/
def State.abortPending (s : State) (r : Req) : State :=
  match s.loader.pending with
  | some x => if x.kind = pendLoad then (s.dropBulk.dropGroup).reportEnd pendLoad r.party stAborted 0 0 else s
  | none => s

theorem State.abortOrder_of_checked {s : State} {r : Req} {v : Nat} (h : s.writeCheck r 0x4C20 2 v = .status stOk) :
    s.abortOrder r v = (s.abortPending r).wrote r (okey 0x4C20 2) stOk :=
  State.ordered_ok s r 0x4C20 2 v (·.abortPending r) h

theorem State.abortPending_answerView (s : State) (r : Req) : answerView (s.abortPending r) r = answerView s r := by
  unfold State.abortPending
  split
  · split
    · exact (State.reportEnd_answerView _ r _ _ _ _ _).trans
        (((State.dropBulk_giveUp s).trans (State.dropGroup_giveUp _)).answerView r)
    · rfl
  · rfl

theorem State.abortPending_plan (s : State) (r : Req) : (s.abortPending r).loader.plan = s.loader.plan := by
  unfold State.abortPending
  split
  · split
    · rw [State.reportEnd_loader]
      exact ((State.dropBulk_giveUp s).trans (State.dropGroup_giveUp _)).plan
    · rfl
  · rfl

theorem State.abortPending_none {s : State} (r : Req) (h : s.loader.pending = none) : s.abortPending r = s := by
  simp [State.abortPending, h]

theorem State.abortPending_load {s : State} {x : Pending} (r : Req) (h : s.loader.pending = some x) (hk : x.kind = pendLoad) :
    s.abortPending r = (s.dropBulk.dropGroup).reportEnd pendLoad r.party stAborted 0 0 := by
  simp [State.abortPending, h, hk]

theorem loadAndUpdateRequestsPart_holds : loadAndUpdateRequestsPart := by
  unfold loadAndUpdateRequestsPart
  intro s r ctx addr
  refine ⟨fun h => ?load, fun h hp => ?update, fun v h hp hv ho => ?consolidate, fun v h => ?abort⟩
  case load =>
    refine ⟨fun hp => ?pending, fun hp hd => ?barred, fun hp hl hd hc => ?accepted, fun sub det hp hl hd hc => ?refused⟩
    case pending =>
      exact ⟨_, congrArg Host.Outcome.next (State.loadOrder_of_pending h hp), State.wrote_only s r 0x4C2001 stBusy⟩
    case barred =>
      exact ⟨_, congrArg Host.Outcome.next (State.loadOrder_of_barred h hp hd), State.wrote_only s r 0x4C2001 stDenied⟩
    case accepted =>
      exact ⟨_, congrArg Host.Outcome.next (State.loadOrder_of_accepted h hp hl hd hc),
        State.wrote_withPending s _ r 0x4C2001 stOk (by decide) (by decide)⟩
    case refused =>
      exact ⟨_, congrArg Host.Outcome.next (State.loadOrder_of_refused h hp hl hd hc), State.wrote_refusedLoad s r sub det hp⟩
  case update =>
    refine ⟨fun hd => ?denied, fun hd hm => ?mapped, fun hd hm => ?unmapped⟩
    case denied =>
      exact ⟨_, congrArg Host.Outcome.next (State.updateOrder_of_denied h hp hd), State.wrote_only s r 0x4C2401 stDenied⟩
    case mapped =>
      exact ⟨_, congrArg Host.Outcome.next (State.updateOrder_of_mapped h hp hd hm),
        State.wrote_withPending s _ r 0x4C2401 stOk (by decide) (by decide)⟩
    case unmapped =>
      exact ⟨_, congrArg Host.Outcome.next (State.updateOrder_of_unmapped h hp hd hm),
        State.wrote_only s r 0x4C2401 stNoObject⟩
  case consolidate =>
    exact ⟨_, congrArg Host.Outcome.next (State.consolidateOrder_of_owned h hp hv ho), State.wrote_consolidation s _ _ r⟩
  case abort =>
    refine ⟨_, congrArg Host.Outcome.next (State.abortOrder_of_checked h), ?_, ?_, fun hp => ?_, fun x hp hk => ?_⟩
    · exact State.wrote_loaderEntry_answered (State.abortPending_answerView s r) (okey 0x4C20 2) stOk (by decide) (by decide)
    · rw [State.wrote_loader]
      exact State.abortPending_plan s r
    · rw [State.abortPending_none r hp]
      exact (State.wrote_only s r _ stOk).2
    · rw [State.wrote_loader, State.wrote_reg _ _ _ _ _ (not_answerCounter_of_sub (by decide)),
        State.abortPending_load r hp hk, State.reportEnd_loader]
      exact ⟨rfl, (State.reportEnd_load_entries _ r.party stAborted 0 0).1⟩

/-! Verification (R160, R171, R172, R177 to R180) -/

/-- A verified plan with its pods to program, its update group and the spares that the group has taken. -/
def State.verifiedPlan (s : State) (x : Pending) (p : PlanImage) : State :=
  let w := s.claimSpares (s.groupOf p)
  { w with loader := { w.loader with
      pending := some { x with plan := some p, verified := true, bulk := w.bulkOf p },
      group := if (s.groupOf p).isEmpty then none else some ⟨pendLoad, 0, 0, 0, s.groupOf p⟩ } }

section Verification

variable {s : State} {aux : List (Nat × SegAux)} {x : Pending}

theorem execVerificationComplete_of_refused_plan {q : PlanImage} {v : Nat × Nat} (hx : s.loader.pending = some x)
    (hv : x.verified = false) (hq : x.plan = some q)
    (hc : (s.readPlan x (s.copySegs q.comp aux)).verifyPlan (s.copySegs q.comp aux) x.ctx = some v) :
    execVerificationComplete aux s = .next ((s.readPlan x (s.copySegs q.comp aux)).refusePending x v) := by
  unfold State.readPlan at hc ⊢
  simp [execVerificationComplete, hx, hv, hq, hc]

theorem execVerificationComplete_of_verified_plan {q : PlanImage} (hx : s.loader.pending = some x)
    (hv : x.verified = false) (hq : x.plan = some q)
    (hc : (s.readPlan x (s.copySegs q.comp aux)).verifyPlan (s.copySegs q.comp aux) x.ctx = none) :
    execVerificationComplete aux s =
      .next ((s.readPlan x (s.copySegs q.comp aux)).verifiedPlan x (s.copySegs q.comp aux)) := by
  unfold State.readPlan at hc ⊢
  simp [execVerificationComplete, State.verifiedPlan, State.claimSpares, hx, hv, hq, hc]

theorem execVerificationComplete_of_refused_update {v : Nat × Nat} (hx : s.loader.pending = some x)
    (hv : x.verified = false) (hq : x.plan = none) (hu : x.update = none) (hk : x.kind = pendUpdate)
    (hc : (s.readImage x.party x.ctx (s.copyUpdate x).hdr.length).checkUpdate x (s.copyUpdate x) = some v) :
    execVerificationComplete aux s =
      .next ((s.readImage x.party x.ctx (s.copyUpdate x).hdr.length).refusePending x v) := by
  simp [execVerificationComplete, hx, hv, hq, hu, hk, hc]

theorem execVerificationComplete_of_checked_update (hx : s.loader.pending = some x)
    (hv : x.verified = false) (hq : x.plan = none) (hu : x.update = none) (hk : x.kind = pendUpdate)
    (hc : (s.readImage x.party x.ctx (s.copyUpdate x).hdr.length).checkUpdate x (s.copyUpdate x) = none) :
    execVerificationComplete aux s = .next ((s.readImage x.party x.ctx (s.copyUpdate x).hdr.length).formGroup
      { x with update := some (s.copyUpdate x), target := (s.copyUpdate x).objId } (s.copyUpdate x).objId
      (s.copyUpdate x).newHash (s.copyUpdate x).levels) := by
  simp [execVerificationComplete, hx, hv, hq, hu, hk, hc]

theorem execVerificationComplete_of_image {i : UpdateImage} (hx : s.loader.pending = some x) (hv : x.verified = false)
    (hq : x.plan = none) (hu : x.update = some i) :
    execVerificationComplete aux s = .next (s.formGroup x i.objId i.newHash i.levels) := by
  simp [execVerificationComplete, hx, hv, hq, hu]

end Verification

/-- A verified plan changes the loader, and of the rest what its group's spares were used for. -/
theorem State.verifiedPlan_eq (s : State) (x : Pending) (p : PlanImage) : s.verifiedPlan x p =
    { s.claimSpares (s.groupOf p) with loader := { s.loader with
        pending := some { x with plan := some p, verified := true, bulk := (s.claimSpares (s.groupOf p)).bulkOf p },
        group := if s.groupOf p = [] then none else some ⟨pendLoad, 0, 0, 0, s.groupOf p⟩ } } := by
  simp only [State.verifiedPlan, (State.claimSpares_spares s (s.groupOf p)).loader, List.isEmpty_iff]

/-- An update or consolidation whose object the plan in force has forms an update group for that object, and is verified. -/
theorem State.formGroup_of_partyObj (s : State) (x : Pending) (obj newHash : Nat) (levels : List (List Byte))
    (h : (s.partyObj x.party obj).isSome = true) :
    (s.formGroup x obj newHash levels).loader.plan = s.loader.plan ∧
      (s.formGroup x obj newHash levels).loader.pending = some { x with verified := true } ∧
      ∃ m, (s.formGroup x obj newHash levels).loader.group = some ⟨x.kind, x.party, obj, newHash, m⟩ := by
  obtain ⟨⟨g, o⟩, ho⟩ := Option.isSome_iff_exists.1 h
  obtain ⟨p, hp⟩ : ∃ p, s.loader.plan = some p := by
    cases hplan : s.loader.plan with
    | some p => exact ⟨p, rfl⟩
    | none => simp [State.partyObj, hplan] at ho
  have hl (m : List (Nat × Nat × Nat)) : (m.foldl (fun (s : State) y => s.claimSpare y.1) s).loader = s.loader :=
    (State.claimSpares_spares s m).loader
  simp [State.formGroup, hp, ho, hl]

/-- A weight update passes its checks only where the plan in force has its object (check 7). -/
theorem State.partyObj_of_checkUpdate {s : State} {x : Pending} {u : UpdateImage} (h : s.checkUpdate x u = none) :
    (s.partyObj x.party u.objId).isSome = true := by
  cases ho : s.partyObj x.party u.objId with
  | some y => rfl
  | none =>
    unfold State.checkUpdate bad at h
    rw [ho] at h
    split at h
    · cases h
    · split at h
      · cases h
      · split at h <;> cases h

/-- The end of a pending load that a check refuses (R177, R178). -/
theorem State.refusePending_load_entries (s : State) (x : Pending) (v : Nat × Nat) (hk : x.kind = pendLoad) :
    (s.refusePending x v).reg 0x4C2102 = stPlanRejected ∧ (s.refusePending x v).reg 0x4C2103 = v.1 ∧
      (s.refusePending x v).reg 0x4C2104 = v.2 := by
  unfold State.refusePending
  rw [hk]
  exact State.reportEnd_load_entries _ _ _ _ _

/-- The end of a pending update or consolidation that a check refuses (R179). -/
theorem State.refusePending_update_entry (s : State) (x : Pending) (v : Nat × Nat) (hk : x.kind ≠ pendLoad) :
    (s.refusePending x v).reg 0x4C2404 = stPlanRejected :=
  (State.reportEnd_reg_of_update _ _ _ _ _ _ _ hk).trans (State.reg_setReg_self _ _ _)

theorem verificationPart_holds : verificationPart := by
  unfold verificationPart
  intro s aux x hx hv
  refine ⟨fun q hq hk => ?load, fun hq hu hk => ?update, fun i hq hu _ ho => ?image⟩
  case load =>
    intro p
    have hu : touchesTrace s (s.readPlan x p) := State.readPlan_touches s x p
    cases hc : (s.readPlan x p).verifyPlan p x.ctx with
    | some v =>
      have hl := State.refusePending_loader (s.readPlan x p) x v
      refine ⟨_, s.readPlan x p, s.readPlan x p, execVerificationComplete_of_refused_plan hx hv hq hc, hu, ?_, rfl, ?_, ?_⟩
      · rw [hl, hu.loader]
      · simp [hc]
      · rintro v' hv'
        obtain rfl : v = v' := Option.some.inj (hc.symm.trans hv')
        rw [hl]
        exact ⟨rfl, rfl, State.refusePending_load_entries _ x v hk⟩
    | none =>
      have hw := State.claimSpares_spares (s.readPlan x p) ((s.readPlan x p).groupOf p)
      have ht := State.verifiedPlan_eq (s.readPlan x p) x p
      rw [hu.loader] at ht
      refine ⟨_, s.readPlan x p, (s.readPlan x p).claimSpares ((s.readPlan x p).groupOf p),
        execVerificationComplete_of_verified_plan hx hv hq hc, hu, ?_, hw, fun _ => ⟨ht, fun m hm sp hsp hs => ?_⟩, ?_⟩
      · rw [ht]
      · rw [ht]
        exact State.claimSpares_not_programmed (s.readPlan x p) _ sp hsp
          (.inr ⟨m, hm, (State.readPlan_spare s x p m.1).trans hs⟩)
      · simp [hc]
  case update =>
    intro i
    have ht : touchesTrace s (s.readImage x.party x.ctx i.hdr.length) := State.readImage_touches s _ _ _
    cases hc : (s.readImage x.party x.ctx i.hdr.length).checkUpdate x i with
    | some v =>
      have hl := State.refusePending_loader (s.readImage x.party x.ctx i.hdr.length) x v
      refine ⟨_, _, execVerificationComplete_of_refused_update hx hv hq hu hk hc, ht, ?_, ?_, fun _ _ => ⟨?_, ?_⟩⟩
      · rw [hl, ht.loader]
      · simp [hc]
      · rw [hl]
      · exact State.refusePending_update_entry _ x v (by rw [hk]; decide)
    | none =>
      obtain ⟨hplan, hpending, m, hgroup⟩ := State.formGroup_of_partyObj (s.readImage x.party x.ctx i.hdr.length)
        { x with update := some i, target := i.objId } i.objId i.newHash i.levels (State.partyObj_of_checkUpdate hc)
      refine ⟨_, _, execVerificationComplete_of_checked_update hx hv hq hu hk hc, ht, hplan.trans (by rw [ht.loader]),
        fun _ => ⟨hpending, _, hgroup, hk, rfl, rfl, rfl⟩, ?_⟩
      simp [hc]
  case image =>
    obtain ⟨hplan, hpending, m, hgroup⟩ := State.formGroup_of_partyObj s x i.objId i.newHash i.levels ho
    exact ⟨_, _, execVerificationComplete_of_image hx hv hq hu, hplan, hpending, hgroup, rfl, rfl, rfl, rfl⟩

/-- Settles O39: a request's answer is read off the one branch of its order that applies, and a verification is either refused,
which reports and gives everything up, or ends with the order verified, its group formed and the group's spares claimed. -/
theorem loadsAndVerificationComplete : Obligations.LoadsAndVerificationComplete :=
  ⟨loadAndUpdateRequestsPart_holds, verificationPart_holds⟩

end Sys2Proof.Machine
end

section
/-! SUPPORT. Writes of DOMAINs that order something: their answer after the effect, and what an answer leaves alone. -/

namespace Sys2Proof.Machine

open Sys2Proof

/-! What an answer leaves alone -/

@[simp] theorem State.wrote_dict (s : State) (r : Req) (k st : Nat) : (s.wrote r k st).dict = s.dict := by
  rw [State.wrote_touches s r k st]

@[simp] theorem State.wrote_store (s : State) (r : Req) (k st : Nat) : (s.wrote r k st).store = s.store := by
  rw [State.wrote_touches s r k st]

@[simp] theorem State.wrote_cal (s : State) (r : Req) (k st : Nat) : (s.wrote r k st).cal = s.cal := by
  rw [State.wrote_touches s r k st]

/-- What a message leaves alone of the network: the port states and the classifier's image. -/
def netStanding (s : State) : List Nat × Option PipImage := (s.net.ports, s.net.classImage)

theorem State.portCount_netStanding (s : State) (u sub n : Nat) : netStanding (s.portCount u sub n) = netStanding s := by
  unfold State.portCount
  split <;> rfl

theorem State.boardPush_netStanding (s : State) (kind : Nat) (bs : List Byte) :
    netStanding (s.boardPush kind bs).2 = netStanding s := by
  unfold State.boardPush State.attention
  split
  · rfl
  · dsimp only
    split <;> rfl

theorem State.emitOn_netStanding (s : State) (port : Nat) (m : OutMsg) : netStanding (s.emitOn port m) = netStanding s := by
  have hsent (t : State) (u : Nat) : netStanding { t.portCount u 0x11 with out := t.out ++ [m] } = netStanding t :=
    State.portCount_netStanding t u 0x11 1
  unfold State.emitOn
  split
  · dsimp only [State.drawNat]
    split
    · rw [State.portCount_netStanding, State.portCount_netStanding]
      rfl
    · exact (State.portCount_netStanding _ 1 0x11 1).trans (State.portCount_netStanding _ _ _ _)
  · exact State.portCount_netStanding s port 0x11 1

theorem State.transmit_netStanding {s t : State} {p port : Nat} (h : s.transmit p port = some t) :
    netStanding t = netStanding s := by
  unfold State.transmit at h
  split at h
  · split at h
    · cases h
    · split at h
      · cases h
      · dsimp only at h
        split at h <;> cases h
        · split <;> rfl
        · rfl
  · cases h
    rfl

theorem State.sendResp_netStanding (s : State) (m : OutMsg) : netStanding (s.sendResp m) = netStanding s := by
  unfold State.sendResp
  split
  · split
    · extract_lets bytes q
      have hq : netStanding q.2 = netStanding s := State.boardPush_netStanding s _ _
      clear_value q
      split <;> exact hq
    · split
      · rfl
      · split
        · rename_i t ht
          rw [State.emitOn_netStanding, State.transmit_netStanding ht]
        · exact State.portCount_netStanding _ _ _ _
  · rfl

theorem State.respond_netStanding (s : State) (r : Req) (a b c d e : Nat) (x : List Byte) :
    netStanding (s.respond r a b c d e x) = netStanding s :=
  (State.sendResp_netStanding _ _).trans rfl

theorem State.wrote_netStanding (s : State) (r : Req) (k st : Nat) : netStanding (s.wrote r k st) = netStanding s := by
  have htrace : netStanding (s.traceOd r k st) = netStanding s := by
    rw [State.traceOd_touches s r k st]
    rfl
  unfold State.wrote
  split
  · unfold State.usdoEnd State.usdoOut
    dsimp only
    split
    · exact (State.portCount_netStanding _ 3 0x11 1).trans htrace
    · exact htrace
  · exact (State.respond_netStanding _ _ _ _ _ _ _ _).trans htrace

/-! Orders -/

/-- A write of bytes whose checks pass is answered with the status of its entry, after the effect where that is OK. -/
theorem State.orderBytes_of_checked {s : State} {r : Req} {index sub len : Nat} (own : Nat) (eff : State → State)
    (h : s.bytesCheck r index sub len = .status stOk) :
    s.orderBytes r index sub len own eff = (if own ≠ stOk then s else eff s).wrote r (okey index sub) own := by
  simp [State.orderBytes, h, lateStatus]

/-- No register decides who sees an entry: it is no job's and no mirror's, and of no segment (R252). -/
def plainEntry (index : Nat) : Prop :=
  inGroup 0x3210 index = false ∧ inGroup 0x3310 index = false ∧ inGroup 0x4C40 index = false

/-- Who sees a plain entry does not depend on the state. -/
theorem State.absentIndex_of_plain (s u : State) (r : Req) {index : Nat} (h : plainEntry index) :
    u.absentIndex r index = s.absentIndex r index := by
  obtain ⟨hjob, hmirror, hseg⟩ := h
  simp [State.absentIndex, State.hidden, hjob, hmirror, hseg]

/-- An effect that leaves what was sent, the settings in force, the port states and the parties alone leaves the answer alone. -/
theorem answerView_of_fields {s u : State} (hout : u.out = s.out) (hlive : u.frame.live = s.frame.live)
    (hports : u.net.ports = s.net.ports) (hparties : u.net.parties = s.net.parties) (r : Req) :
    answerView u r = answerView s r := by
  simp [answerView, State.inForce, State.portUp, State.pnet, hout, hlive, hports, hparties]

/-- A plain entry answers a write as the state at its beginning has it, whatever else the write did. -/
theorem State.wrote_plainEntry_answered {s u : State} {r : Req} (hv : answerView u r = answerView s r) {index : Nat}
    (h : plainEntry index) {sub : Nat} (hsub : sub < 256) {st : Nat} :
    writeAnswered s (u.wrote r (okey index sub) st) r index st := by
  have hindex : okey index sub / 256 = index := by
    unfold okey
    omega
  have ha := State.wrote_answered u r (okey index sub) st
  rw [hindex] at ha
  exact writeAnswered_of_view hv (State.absentIndex_of_plain s u r h) ha

/-- An entry's write that is refused. -/
theorem State.wrote_refused (s : State) (r : Req) (index : Nat) {sub : Nat} (hsub : sub < 256) (st : Nat) :
    writeAnswered s (s.wrote r (okey index sub) st) r index st ∧ otherRegs s (s.wrote r (okey index sub) st) [] ∧
      touchesReply s (s.wrote r (okey index sub) st) := by
  have hindex : okey index sub / 256 = index := by
    unfold okey
    omega
  have h := State.wrote_only s r (okey index sub) st
  rwa [hindex] at h

end Sys2Proof.Machine
end

section
/-! SUPPORT. Fault records: what one adds to the log, and which registers it writes. -/

namespace Sys2Proof.Machine

open Sys2Proof

/-! The log (R314) -/

/-- Class, cause and unit of the newest record. -/
def newestRecord (s : State) : Option (Nat × Nat × Nat) := s.integ.log.getLast?.map fun r => (r.cls, r.cause, r.unit)

/-- What a record says of the fault: counting it may set flags alone. -/
def faultOf (r : FaultRec) : Nat × Nat × Nat := (r.cls, r.cause, r.unit)

theorem State.countUnit_faultOf (s : State) (r : FaultRec) (u : Nat) : faultOf (s.countUnit r u).1 = faultOf r := by
  unfold State.countUnit
  dsimp only
  split
  · exact (apply_ite faultOf _ _ _).trans (ite_self _)
  · rfl

theorem State.podPermanent_faultOf (s : State) (r : FaultRec) (i : Nat) : faultOf (s.podPermanent r i).1 = faultOf r := by
  unfold State.podPermanent
  dsimp only
  split
  · rfl
  · exact (apply_ite faultOf _ _ _).trans (ite_self _)

theorem State.countRec_faultOf (s : State) (r : FaultRec) : faultOf (s.countRec r).1 = faultOf r := by
  unfold State.countRec
  dsimp only
  split
  · split
    · split
      · rw [State.podPermanent_faultOf, State.countUnit_faultOf, State.countUnit_faultOf]
      · rw [State.countUnit_faultOf, State.countUnit_faultOf]
    · exact State.countUnit_faultOf _ _ _
  · rfl

/-- A record raised is the newest of the log. -/
theorem State.raise_newestRecord (s : State) (r : FaultRec) : newestRecord (s.raise r) = some (faultOf r) := by
  unfold newestRecord State.raise
  dsimp only
  rw [List.getLast?_concat]
  exact congrArg some (State.countRec_faultOf _ r)

theorem State.fault_newestRecord (s : State) (cls cause unit party detail : Nat) :
    newestRecord (s.fault cls cause unit party detail) = some (cls, cause, unit) :=
  State.raise_newestRecord _ _

/-! Registers (R228, R315) -/

/-- The counters of records: those of the device and, above every entry's own register, those of the parties. -/
def recordCounter (k : Nat) : Prop := k = 0x401002 ∨ k = 0x401003 ∨ (2 ^ 24 ≤ k ∧ k % 256 = 2)

theorem State.countRaised_reg (s : State) (p : Nat) {k : Nat} (hk : ¬ recordCounter k) : (s.countRaised p).reg k = s.reg k := by
  simp only [recordCounter, not_or] at hk
  obtain ⟨hdevice, -, hparty⟩ := hk
  have hshare (q : Nat) : pkey q 0x401002 ≠ k := by
    unfold pkey
    omega
  unfold State.countRaised
  split
  · unfold State.bumpFor
    rw [State.reg_bump_ne _ _ _ _ (hshare p), State.reg_bump_ne _ _ _ _ (Ne.symm hdevice)]
  · rw [foldl_view (·.reg k) _ (fun t q => State.reg_bump_ne t _ k 1 (hshare q)), State.reg_bump_ne _ _ _ _ (Ne.symm hdevice)]

/-- Apart from its counters a record writes only registers that counting it in a history does. -/
theorem State.raise_reg (s : State) (r : FaultRec) {k : Nat} (hk : ¬ recordCounter k)
    (hc : ∀ t : State, t.od = s.od → (t.countRec r).2.reg k = s.reg k) : (s.raise r).reg k = s.reg k := by
  have hlost : 0x401003 ≠ k := fun e => hk (.inr (.inl e.symm))
  unfold State.raise
  extract_lets _ s0 q r' s1 full s2 s3
  have h1 : s1.reg k = s.reg k := hc s0 rfl
  have h2 : s2.reg k = s1.reg k := by
    show (if full = true then s1.bump 0x401003 else s1).reg k = _
    split
    · exact State.reg_bump_ne _ _ _ _ hlost
    · rfl
  exact (State.countRaised_reg s2 r'.party hk).trans (h2.trans h1)

/-! Records that count in no history (R317, Table INTEG-3) -/

theorem State.countRec_of_uncounted {r : FaultRec} (h : recCounts r = false) (s : State) : s.countRec r = (r, s) := by
  simp [State.countRec, h]

/-- A record that does not count in histories retires nothing, whatever its unit. -/
theorem State.raise_record_of_uncounted (s : State) {r : FaultRec} (h : recCounts r = false) : touchesRecord s (s.raise r) := by
  unfold State.raise
  extract_lets _ s0 q r' s1 full s2 s3
  have h1 : touchesRecord s s1 := by
    show touchesRecord s (s0.countRec r).2
    rw [State.countRec_of_uncounted h]
    unfold touchesRecord
    rfl
  have h2 : touchesRecord s1 s2 := by
    show touchesRecord s1 (if full = true then s1.bump 0x401003 else s1)
    split
    · exact (State.bump_touches _ _ _).record
    · exact .rfl
  have h3 : touchesRecord s2 s3 := (State.countRaised_touches s2 _).record
  clear_value s1 s2 s3
  exact ((h1.trans h2).trans h3).trans (by unfold touchesRecord; rfl)

theorem State.raise_reg_of_uncounted (s : State) {r : FaultRec} (h : recCounts r = false) {k : Nat} (hk : ¬ recordCounter k) :
    (s.raise r).reg k = s.reg k :=
  State.raise_reg s r hk fun t ht => by
    rw [State.countRec_of_uncounted h]
    simp only [State.reg, ht]

/-! Records of units that are neither pods nor column groups -/

theorem State.countRec_reg_of_plain (s : State) {r : FaultRec} (h : plainUnit r.unit) (k : Nat) :
    (s.countRec r).2.reg k = s.reg k := by
  obtain ⟨hpod, hgroup⟩ := h
  unfold State.countRec
  extract_lets q
  rw [if_neg (c := _ ∨ _) (not_or.mpr hgroup)]
  split
  · show (s.countUnit r r.unit).2.reg k = _
    unfold State.countUnit
    rw [if_neg hpod]
    dsimp only
    split <;> rfl
  · rfl

theorem State.fault_net_of_plain (s : State) (cls cause party detail : Nat) {unit : Nat} (h : plainUnit unit) :
    (s.fault cls cause unit party detail).net = s.net := by
  have ht := State.fault_record s cls cause unit party detail h
  unfold touchesRecord at ht
  rw [ht]

theorem State.fault_reg_of_plain (s : State) (cls cause party detail : Nat) {unit k : Nat} (h : plainUnit unit)
    (hk : ¬ recordCounter k) : (s.fault cls cause unit party detail).reg k = s.reg k :=
  State.raise_reg s _ hk fun t ht => by
    rw [State.countRec_reg_of_plain t h]
    simp only [State.reg, ht]

end Sys2Proof.Machine
end

section
/-! SUPPORT. Trims: codes read back after a list of them is set, targets of a pod, and records of clamped codes. -/

namespace Sys2Proof.Machine

open Sys2Proof

/-! Codes -/

@[simp] theorem trimGet_trimSet_self (m : List (Nat × Int)) (k : Nat) (v : Int) : trimGet (trimSet m k v) k = v := by
  simp [trimGet, trimSet, mget_mset_self]

theorem trimGet_trimSet_ne (m : List (Nat × Int)) {j k : Nat} (h : j ≠ k) (v : Int) :
    trimGet (trimSet m j v) k = trimGet m k := by
  simp [trimGet, trimSet, mget_mset_ne _ _ h]

/-- A map of codes after a list of codes is set in it, one by one. -/
def trimSets (m : List (Nat × Int)) (l : List (Nat × Int)) : List (Nat × Int) := l.foldl (fun m x => trimSet m x.1 x.2) m

theorem trimGet_trimSets_of_absent (l m : List (Nat × Int)) {k : Nat} (h : ∀ x ∈ l, x.1 ≠ k) :
    trimGet (trimSets m l) k = trimGet m k := by
  induction l generalizing m with
  | nil => rfl
  | cons x l ih =>
    have hx : x.1 ≠ k := h x List.mem_cons_self
    exact (ih _ fun y hy => h y (List.mem_cons_of_mem _ hy)).trans (trimGet_trimSet_ne _ hx _)

/-- Of codes with distinct keys each reads back. -/
theorem trimGet_trimSets (l m : List (Nat × Int)) (hl : (l.map (·.1)).Nodup) {x : Nat × Int} (hx : x ∈ l) :
    trimGet (trimSets m l) x.1 = x.2 := by
  induction l generalizing m with
  | nil => cases hx
  | cons y l ih =>
    obtain ⟨hy, hl⟩ := List.nodup_cons.1 hl
    rcases List.mem_cons.1 hx with rfl | hx
    · refine (trimGet_trimSets_of_absent l _ fun z hz e => hy ?_).trans (trimGet_trimSet_self _ _ _)
      exact List.mem_map.2 ⟨z, hz, e⟩
    · exact ih _ hl hx

theorem trimKey_inj {u i j : Nat} : trimKey u i = trimKey u j ↔ i = j := by
  unfold trimKey
  omega

/-- The unit of a trim's key. -/
theorem trimKey_div {u i : Nat} (h : i < 4096) : trimKey u i / 4096 = u := by
  unfold trimKey
  omega

theorem trimKey_mod {u i : Nat} (h : i < 4096) : trimKey u i % 4096 = i := by
  unfold trimKey
  omega

/-! The targets of a pod -/

/-- Targets set one by one, each from what a target does not change, are set as one list. -/
theorem State.foldl_setTarget (key : Nat → Nat) (code : State → Nat → Int)
    (hcode : ∀ (t : State) k v i, code (t.setTarget k v) i = code t i) (l : List Nat) (s : State) :
    l.foldl (fun (s : State) i => s.setTarget (key i) (code s i)) s = s.onCal fun c => { c with
      target := trimSets c.target (l.map fun i => (key i, clampI (trimRange (key i)).1 (trimRange (key i)).2 (code s i))) } := by
  induction l generalizing s with
  | nil => rfl
  | cons i l ih =>
    refine (ih _).trans ?_
    simp only [hcode]
    rfl

/-- The code that a pod's base codes and drift term give a trim, before it is limited (R65, R69). -/
def State.podCode (s : State) (pod i : Nat) : Int :=
  if i < 132 then s.gainCode pod i else trimGet s.cal.calibrated (trimKey (unitPod pod) i)

/-- The targets of a pod. -/
def State.podTargetCodes (s : State) (pod : Nat) : List (Nat × Int) :=
  (List.range 264).map fun i => (trimKey (unitPod pod) i,
    clampI (trimRange (trimKey (unitPod pod) i)).1 (trimRange (trimKey (unitPod pod) i)).2 (s.podCode pod i))

theorem State.podTargets_eq (s : State) (pod : Nat) :
    s.podTargets pod = s.onCal fun c => { c with target := trimSets c.target (s.podTargetCodes pod) } :=
  State.foldl_setTarget _ (fun s i => s.podCode pod i) (fun _ _ _ _ => rfl) _ s

theorem State.podTargetCodes_keys (s : State) (pod : Nat) : ((s.podTargetCodes pod).map (·.1)).Nodup := by
  simp only [State.podTargetCodes, List.map_map]
  exact List.Nodup.map (fun i j h => trimKey_inj.1 h) List.nodup_range

/-! Records of clamped codes (R65): they count in no history -/

theorem State.clampRecords_touches (s : State) (unit : Nat → Nat) (detail : State → Nat → Nat) (l : List Nat) :
    touchesRecord s (l.foldl (fun (s : State) g => s.fault clsCal 3 (unit g) noParty (detail s g)) s) :=
  foldl_rel touchesRecord (fun _ => .rfl) (fun h k => h.trans k) _
    (fun t g => State.raise_record_of_uncounted t (r := t.mkRec clsCal 3 (unit g) noParty (detail t g)) rfl) l s

theorem State.clampRecords_reg (s : State) (unit : Nat → Nat) (detail : State → Nat → Nat) (l : List Nat) {k : Nat}
    (hk : ¬ recordCounter k) :
    (l.foldl (fun (s : State) g => s.fault clsCal 3 (unit g) noParty (detail s g)) s).reg k = s.reg k :=
  foldl_view (·.reg k) _
    (fun t g => State.raise_reg_of_uncounted t (r := t.mkRec clsCal 3 (unit g) noParty (detail t g)) rfl hk) l s

/-- The check of a pod's gains records which stand clamped, in the log and in the pod's quality status. -/
theorem State.limitCheck_touches (s : State) (pod : Nat) :
    touchesRecord { s with cal := { s.cal with limited := (s.limitCheck pod).cal.limited } } (s.limitCheck pod) := by
  obtain ⟨u, hu⟩ : ∃ u, s.limitCheck pod = u := ⟨_, rfl⟩
  rw [hu]
  unfold State.limitCheck at hu
  extract_lets key out new t at hu
  have h : touchesRecord t u := hu ▸ State.clampRecords_touches t (unitGroup pod) _ new
  have ht : touchesRecord { s with cal := { s.cal with limited := t.cal.limited } } t := (State.setReg_touches _ _ _).record
  have hu : u.cal = t.cal := by rw [h]
  rw [hu]
  exact ht.trans h

theorem State.limitCheck_cal (s : State) (pod : Nat) :
    (s.limitCheck pod).cal = { s.cal with limited := (s.limitCheck pod).cal.limited } := by
  have h := State.limitCheck_touches s pod
  unfold touchesRecord at h
  rw [h]

theorem State.limitCheck_reg (s : State) (pod : Nat) {k : Nat} (hk : ¬ recordCounter k) (h : calReg pod 4 ≠ k) :
    (s.limitCheck pod).reg k = s.reg k := by
  unfold State.limitCheck
  extract_lets key out new t
  refine (State.clampRecords_reg t (unitGroup pod) (fun s g => unsignedOf 32 (clampI 0 63 (s.gainCode pod g))) new hk).trans ?_
  exact State.reg_setReg_ne _ _ _ _ h

end Sys2Proof.Machine
end

section
/-! PROOF. Writes of DOMAINs: mirror table, keep regions, hold-up and classifier images, trim banks. -/

namespace Sys2Proof.Machine

open Sys2Proof

/-- The mirror table is kept and waits for the boundary (R268). -/
theorem mirrorTableWrite_effect (s : State) (r : Req) (data : List Byte)
    (h : s.bytesCheck r 0x3890 2 data.length = .status stOk) :
    ∃ t, exec (.mirrorTableWrite r data) s = .next t ∧ writeAnswered s t r 0x3890 (s.mirrorStatus data) ∧
      otherRegs s t [] ∧
      (s.mirrorStatus data = stOk → mget [] t.dict.doms 0x389002 = data ∧
        t.frame.staged = s.frame.staged ++ [⟨s.dueFrame, .mirrors data⟩]) ∧
      (s.mirrorStatus data ≠ stOk → touchesReply s t) := by
  refine ⟨_, rfl, ?_⟩
  unfold State.mirrorSetting
  rw [State.orderBytes_of_checked _ _ h]
  by_cases hst : s.mirrorStatus data = stOk
  · rw [if_neg (not_not.mpr hst)]
    refine ⟨State.wrote_plainEntry_answered ?_ ⟨rfl, rfl, rfl⟩ (by decide),
      fun k _ hk => State.wrote_reg _ _ _ _ _ hk, fun _ => ⟨?_, ?_⟩, fun hne => absurd hst hne⟩
    · exact answerView_of_fields rfl rfl rfl rfl r
    · rw [State.wrote_dict]
      exact mget_mset_self _ _ _ _
    · rw [State.wrote_staged]
      rfl
  · rw [if_pos hst]
    obtain ⟨ha, hregs, htouch⟩ := State.wrote_refused s r 0x3890 (sub := 2) (by decide) (s.mirrorStatus data)
    exact ⟨ha, hregs, fun hok => absurd hok hst, fun _ => htouch⟩

/-- New keep regions go to the vault, and they are the regions in force unless input power is lost (R358; log 83). -/
theorem keepRegionsWrite_effect (s : State) (r : Req) (data : List Byte)
    (h : s.bytesCheck r 0x24A0 0x0A data.length = .status stOk) (hok : regionsOk data = true)
    (hnew : mget [] s.dict.doms 0x24A00A ≠ data) (hroom : s.commitsNow.length < 16) :
    ∃ t, exec (.keepRegionsWrite r data) s = .next t ∧ mget [] t.dict.doms 0x24A00A = data ∧
      t.dict.domCommits = s.dict.domCommits ++ [(r, 0x24A00A, data, s.now)] ∧
      (s.store.lostAt = none → t.store = { s.store with regions := regionRecs 16 data }) ∧
      (s.store.lostAt ≠ none → t.store = s.store) ∧ t = { s with dict := t.dict, store := t.store } := by
  have hlen : data.length % 16 = 0 := by
    simp only [regionsOk, Bool.and_eq_true, decide_eq_true_eq] at hok
    exact hok.1.1.1
  have hentry : ∃ row, entryRow 0x24A0 0x0A = some row ∧ row.own = .rwp := ⟨_, rfl, rfl⟩
  obtain ⟨row, hrow, hrwp⟩ := hentry
  have hstore : s.storeBytes r 0x24A0 0x0A data = { s with dict := { s.dict with
      doms := mset [] s.dict.doms 0x24A00A data, domCommits := s.dict.domCommits ++ [(r, 0x24A00A, data, s.now)],
      commitTimes := s.now :: s.commitsNow } } := by
    have hk : okey 0x24A0 0x0A = 0x24A00A := rfl
    simp only [State.storeBytes, State.beginDomCommit, hrow, hrwp, hk, hnew, false_and, if_false, if_true,
      if_neg (Nat.not_le.mpr hroom)]
  refine ⟨_, rfl, ?_⟩
  simp only [State.keepRegionsOrder, h, lateStatus, hlen, hok, hnew, hstore, mget_mset_self]
  cases hlost : s.store.lostAt with
  | none => simp [mget_mset_self, State.onStore, hlost]
  | some at_ => simp [mget_mset_self]

/-- A pip image takes the hold-up engine's place, or is no image for it (R364). -/
theorem holdUpPipImageWrite_effect (s : State) (r : Req) (data : List Byte)
    (h : s.bytesCheck r 0x24A0 0x0B data.length = .status stOk) :
    let img := readPip data
    (img.engine = 2 → img.inPlace = false → img.crcOk = true → img.budget ≤ 4000 → img.code.length ≤ 1024 →
      img.entry < img.code.length →
      ∃ t, exec (.holdUpPipImageWrite r data) s = .next t ∧ t.store = { s.store with image := some img } ∧
        writeAnswered s t r 0x24A0 stOk ∧ otherRegs s t [] ∧ touchesReply { s with store := t.store } t) ∧
    (img.engine ≠ 2 ∨ img.inPlace = true ∨ img.crcOk = false →
      ∃ t, exec (.holdUpPipImageWrite r data) s = .next t ∧ writeAnswered s t r 0x24A0 stBadType ∧ otherRegs s t [] ∧
        touchesReply s t) := by
  intro img
  have hexec : exec (.holdUpPipImageWrite r data) s = .next (s.holdUpImageOrder r data) := rfl
  simp only [hexec, State.holdUpImageOrder, State.orderBytes_of_checked _ _ h]
  constructor
  · intro hengine hplace hcrc hbudget hcode hentry
    have hbad : ¬ (img.engine ≠ 2 ∨ img.inPlace = true ∨ (!img.crcOk) = true) := by simp [hengine, hplace, hcrc]
    have hrange : ¬ (4000 < img.budget ∨ 1024 < img.code.length ∨ img.code.length ≤ img.entry) := by omega
    refine ⟨_, rfl, ?_⟩
    rw [if_neg hbad, if_neg hrange, if_neg (not_not.mpr rfl)]
    refine ⟨?_, State.wrote_plainEntry_answered ?_ ⟨rfl, rfl, rfl⟩ (by decide),
      fun k _ hk => State.wrote_reg _ _ _ _ _ hk, ?_⟩
    · rw [State.wrote_store]
      rfl
    · exact answerView_of_fields rfl rfl rfl rfl r
    · rw [State.wrote_store]
      exact State.wrote_touches _ _ _ _
  · intro hbad
    have hbad' : img.engine ≠ 2 ∨ img.inPlace = true ∨ (!img.crcOk) = true := by simpa using hbad
    refine ⟨_, rfl, ?_⟩
    rw [if_pos hbad', if_pos (by decide)]
    exact State.wrote_refused s r 0x24A0 (by decide) stBadType

/-- A pip image takes the classifier's place, or is no image for it (R209). -/
theorem classifierImageWrite_effect (s : State) (r : Req) (data : List Byte)
    (h : s.bytesCheck r 0x3C80 1 data.length = .status stOk) :
    let img := readPip data
    (pipImageOk img 3 2048 = true → img.inPlace = false → img.budget ≤ 2000 →
      ∃ t, exec (.classifierImageWrite r data) s = .next t ∧ t.net.classImage = some img ∧
        t.reg 0x3C8003 = field data 12 4 ∧ writeAnswered s t r 0x3C80 stOk ∧ otherRegs s t [0x3C8003]) ∧
    (pipImageOk img 3 2048 = false ∨ img.inPlace = true →
      ∃ t, exec (.classifierImageWrite r data) s = .next t ∧ writeAnswered s t r 0x3C80 stBadType ∧ otherRegs s t [] ∧
        touchesReply s t) := by
  intro img
  have hexec : exec (.classifierImageWrite r data) s = .next (s.classifierOrder r data) := rfl
  simp only [hexec, State.classifierOrder, State.orderBytes_of_checked _ _ h]
  constructor
  · intro hok hplace hbudget
    have hbad : ¬ ((!pipImageOk img 3 2048 || img.inPlace) = true) := by simp [hok, hplace]
    refine ⟨_, rfl, ?_⟩
    rw [if_neg hbad, if_neg (Nat.not_lt.mpr hbudget), if_neg (not_not.mpr rfl)]
    refine ⟨congrArg Prod.snd (State.wrote_netStanding _ _ _ _), ?_,
      State.wrote_plainEntry_answered ?_ ⟨rfl, rfl, rfl⟩ (by decide), fun k hk hc => ?_⟩
    · exact (State.wrote_reg _ _ _ _ _ (not_answerCounter_of_sub (by decide))).trans (State.reg_setReg_self _ _ _)
    · exact answerView_of_fields rfl rfl rfl rfl r
    · exact (State.wrote_reg _ _ _ _ _ hc).trans (State.reg_setReg_ne s _ k _ (by simpa [eq_comm] using hk))
  · intro hbad
    have hbad' : (!pipImageOk img 3 2048 || img.inPlace) = true := by simpa using hbad
    refine ⟨_, rfl, ?_⟩
    rw [if_pos hbad', if_pos (by decide)]
    exact State.wrote_refused s r 0x3C80 (by decide) stBadType

/-! Trim banks (R81) -/

/-- A bank names each code of its unit once. -/
theorem bankCodes_keys (unit : Nat) (d : List Byte) : ((bankCodes unit d).map (·.1)).Nodup := by
  unfold bankCodes
  split
  · rw [List.map_append, List.map_map, List.map_map]
    refine List.Nodup.append ?_ ?_ ?_
    · simpa [Function.comp_def] using List.nodup_range
    · exact List.Nodup.map (fun i j h => by simpa using h) List.nodup_range
    · intro x hx hy
      simp only [List.mem_map, List.mem_range, Function.comp_apply] at hx hy
      omega
  · simp [Function.comp_def, List.nodup_range]

/-- What a restore may touch. -/
def touchesBank (s t : State) : Prop :=
  t = { s with od := t.od, frame := { s.frame with fault := t.frame.fault }, integ := t.integ, pods := t.pods, cal := t.cal }

theorem touchesBank.trans {s t u : State} (h : touchesBank s t) (k : touchesBank t u) : touchesBank s u := by
  unfold touchesBank at h k ⊢
  refine k.trans ?_
  rw [h]

theorem touchesRecord.bank {s t : State} {c : Cal} (h : touchesRecord { s with cal := c } t) : touchesBank s t := by
  unfold touchesRecord at h
  unfold touchesBank
  rw [h]

theorem State.onCal_bank (s : State) (f : Cal → Cal) : touchesBank s (s.onCal f) := rfl

theorem State.podTargets_bank (s : State) (pod : Nat) : touchesBank s (s.podTargets pod) := by
  rw [State.podTargets_eq]
  exact State.onCal_bank _ _

/-- A restored bank becomes the unit's calibrated codes, and beside trims it touches what records and drift reference do. -/
theorem State.restoreBank_effect (s : State) (unit : Nat) (d : List Byte) :
    touchesBank s (s.restoreBank unit d) ∧ (s.restoreBank unit d).cal.calibrated =
      trimSets s.cal.calibrated ((bankCodes unit d).map fun x => (trimKey unit x.1, x.2)) := by
  unfold State.restoreBank
  extract_lets trims s1 pod rho s2 s3 s4
  have h1 : touchesBank s s1 ∧ s1.cal.calibrated = trimSets s.cal.calibrated trims := ⟨rfl, rfl⟩
  clear_value s1
  split
  · have h3 : touchesBank s1 s3 ∧ s3.cal.calibrated = s1.cal.calibrated := by
      show touchesBank s1 (if rho = 0 then s2 else _) ∧ (if rho = 0 then s2 else _ : State).cal.calibrated = _
      split <;> exact ⟨rfl, rfl⟩
    clear_value s3
    have h4 : touchesBank s3 s4 ∧ s4.cal.calibrated = s3.cal.calibrated := by
      show touchesBank s3 (if _ then _ else s3.podTargets pod) ∧
        (if _ then _ else s3.podTargets pod : State).cal.calibrated = _
      split
      · exact ⟨rfl, rfl⟩
      · exact ⟨State.podTargets_bank s3 pod, by rw [State.podTargets_eq]; rfl⟩
    clear_value s4
    refine ⟨((h1.1.trans h3.1).trans h4.1).trans (State.limitCheck_touches s4 pod).bank, ?_⟩
    rw [State.limitCheck_cal]
    exact h4.2.trans (h3.2.trans h1.2)
  · have hset : trims.foldl (fun (s : State) x => s.setTarget x.1 x.2) s1 =
        s1.onCal fun c => { c with target := (trims.foldl (fun (s : State) x => s.setTarget x.1 x.2) s1).cal.target } :=
      foldl_rel (fun t u => u = t.onCal fun c => { c with target := u.cal.target }) (fun _ => rfl)
        (fun h k => k.trans (by rw [h]; rfl)) _ (fun _ _ => rfl) trims s1
    rw [hset]
    exact ⟨h1.1.trans (State.onCal_bank _ _), h1.2⟩

/-- A bank that passes the checks of R81 becomes the unit's calibrated codes; another changes nothing. -/
theorem trimRestore_effect (s : State) (r : Req) (unit : Nat) (data : List Byte)
    (hunit : unit / 4096 = 2 ∧ unit % 4096 < 40 ∨ unit / 4096 = 5 ∧ unit % 4096 < 16)
    (h : s.bytesCheck r (bankIndex unit) 1 data.length = .status stOk) :
    ∃ t, exec (.trimRestore r unit data) s = .next t ∧
      (s.restoreStatus unit data = stOk → writeAnswered s t r (bankIndex unit) stOk ∧
        ∀ x ∈ bankCodes unit data, trimGet t.cal.calibrated (trimKey unit x.1) = x.2) ∧
      (s.restoreStatus unit data ≠ stOk → writeAnswered s t r (bankIndex unit) (s.restoreStatus unit data) ∧
        otherRegs s t [] ∧ touchesReply s t) := by
  refine ⟨_, rfl, ?_⟩
  unfold State.trimRestoreOrder
  rw [State.orderBytes_of_checked _ _ h]
  constructor
  · intro hst
    rw [if_neg (not_not.mpr hst), hst]
    obtain ⟨htouch, hcodes⟩ := State.restoreBank_effect s unit data
    unfold touchesBank at htouch
    refine ⟨State.wrote_plainEntry_answered ?_ ?_ (by decide), fun x hx => ?_⟩
    · rw [htouch]
      exact answerView_of_fields rfl rfl rfl rfl r
    · unfold plainEntry bankIndex inGroup
      simp only [decide_eq_false_iff_not]
      split <;> omega
    · rw [State.wrote_cal, hcodes]
      refine trimGet_trimSets _ _ ?_ (List.mem_map_of_mem (f := fun x => (trimKey unit x.1, x.2)) hx)
      rw [List.map_map]
      have hkeys := (bankCodes_keys unit data).map (f := trimKey unit) fun i j hij => trimKey_inj.1 hij
      rwa [List.map_map] at hkeys
  · intro hst
    rw [if_pos hst]
    exact State.wrote_refused s r (bankIndex unit) (by decide) _

/-- Settles O33: each accepted write has the effect of its order before it is answered, and each refused one only answers. -/
theorem domainWritesComplete : Obligations.DomainWritesComplete := fun s r =>
  ⟨mirrorTableWrite_effect s r, keepRegionsWrite_effect s r, holdUpPipImageWrite_effect s r,
    classifierImageWrite_effect s r, trimRestore_effect s r⟩

end Sys2Proof.Machine
end

section
/-! PROOF. Samples with their marks, and overload intervals with their recovery windows. -/

namespace Sys2Proof.Machine

open Sys2Proof

/-! Sample words (Tables SENSE-2 to SENSE-4) -/

/-- The code that a sample's word carries: its own, limited to its width, or the clip code of an overload's sign. -/
def wordCode (ch : Nat) (code : Int) (ovr : Option Bool) : Int :=
  match ovr with
  | some true => 2 ^ (sampleWidth ch - 1) - 1
  | some false => -(2 ^ (sampleWidth ch - 1) : Int)
  | none => satn (sampleWidth ch) code

/-- The marks above a sample's code: OVR, SUS, the bias state or the open input, and on V the PGA setting. -/
def wordMarks (ch : Nat) (ovr sus bias : Bool) (pga : Nat) : Nat :=
  ovr.toNat + 2 * sus.toNat + (if ch < 8 ∨ 12 ≤ ch then 4 * bias.toNat else 0) + (if ch < 8 then 16 * pga else 0)

/-- A mark is a power of two where it is set. -/
theorem ite_two_pow_eq (x : Bool) (n : Nat) : (if x = true then 2 ^ n else 0) = 2 ^ n * x.toNat := by cases x <;> simp

/-- A sample's word is its code in two's complement below its marks. -/
theorem sampleWord_toNat (ch : Nat) (code : Int) (ovr : Option Bool) (sus bias : Bool) (pga : Nat) :
    (sampleWord ch code ovr sus bias pga).toNat = (unsignedOf (sampleWidth ch) (wordCode ch code ovr) +
      2 ^ sampleWidth ch * wordMarks ch ovr.isSome sus bias pga) % 2 ^ 32 := by
  have hword : sampleWord ch code ovr sus bias pga = BitVec.ofNat 32 (unsignedOf (sampleWidth ch) (wordCode ch code ovr) +
      (if ovr.isSome = true then 2 ^ sampleWidth ch else 0) + (if sus = true then 2 ^ (sampleWidth ch + 1) else 0) +
      (if ch < 8 ∨ 12 ≤ ch then (if bias = true then 2 ^ (sampleWidth ch + 2) else 0) else 0) +
      (if ch < 8 then pga * 2 ^ 24 else 0)) := rfl
  rw [hword, BitVec.toNat_ofNat, ite_two_pow_eq, ite_two_pow_eq, ite_two_pow_eq]
  congr 1
  generalize unsignedOf _ _ = u
  unfold wordMarks sampleWidth
  by_cases hv : ch < 8
  · simp only [hv, true_or, if_true]
    omega
  · by_cases he : ch < 12
    · have hne : ¬ 12 ≤ ch := by omega
      simp only [hv, he, hne, or_self, if_false, if_true]
      omega
    · have hge : 12 ≤ ch := by omega
      simp only [hv, he, hge, or_true, if_false, if_true]
      omega

/-- The code of a word in two's complement. -/
theorem sampleWord_code (ch : Nat) (code : Int) (ovr : Option Bool) (sus bias : Bool) (pga : Nat) :
    (sampleWord ch code ovr sus bias pga).toNat % 2 ^ sampleWidth ch = unsignedOf (sampleWidth ch) (wordCode ch code ovr) := by
  have hu : unsignedOf (sampleWidth ch) (wordCode ch code ovr) < 2 ^ sampleWidth ch := BitVec.isLt _
  have hw : (2 : Nat) ^ sampleWidth ch ∣ 2 ^ 32 := Nat.pow_dvd_pow 2 (by unfold sampleWidth; split <;> [omega; split] <;> omega)
  rw [sampleWord_toNat, Nat.mod_mod_of_dvd _ hw, Nat.add_mul_mod_self_left, Nat.mod_eq_of_lt hu]

/-- A bit above a word's code is a mark. -/
theorem sampleWord_testBit (ch : Nat) (code : Int) (ovr : Option Bool) (sus bias : Bool) (pga : Nat) {j : Nat} (hj : j < 8) :
    (sampleWord ch code ovr sus bias pga).toNat.testBit (sampleWidth ch + j) =
      (wordMarks ch ovr.isSome sus bias pga).testBit j := by
  have hu : unsignedOf (sampleWidth ch) (wordCode ch code ovr) < 2 ^ sampleWidth ch := BitVec.isLt _
  have hw : sampleWidth ch + j < 32 := by unfold sampleWidth; split <;> [omega; split] <;> omega
  rw [sampleWord_toNat, Nat.testBit_mod_two_pow, Nat.add_comm (unsignedOf _ _), Nat.testBit_two_pow_mul_add _ hu]
  simp [hw]

theorem wordMarks_ovr (ch : Nat) (ovr sus bias : Bool) (pga : Nat) : (wordMarks ch ovr sus bias pga).testBit 0 = ovr := by
  have hmod : wordMarks ch ovr sus bias pga % 2 = ovr.toNat := by
    have hbit := Bool.toNat_lt ovr
    unfold wordMarks
    split <;> split <;> omega
  rw [Nat.testBit_zero, hmod]
  cases ovr <;> rfl

theorem wordMarks_sus (ch : Nat) (ovr sus bias : Bool) (pga : Nat) : (wordMarks ch ovr sus bias pga).testBit 1 = sus := by
  have hmod : wordMarks ch ovr sus bias pga / 2 % 2 = sus.toNat := by
    have hovr := Bool.toNat_lt ovr
    have hsus := Bool.toNat_lt sus
    unfold wordMarks
    split <;> split <;> omega
  rw [Nat.testBit_succ, Nat.testBit_zero, hmod]
  cases sus <;> rfl

/-- A word has the marks OVR and SUS that it was made with. -/
theorem wordOvr_sampleWord (ch : Nat) (code : Int) (ovr : Option Bool) (sus bias : Bool) (pga : Nat) :
    wordOvr ch (sampleWord ch code ovr sus bias pga) = ovr.isSome :=
  (sampleWord_testBit ch code ovr sus bias pga (j := 0) (by decide)).trans (wordMarks_ovr _ _ _ _ _)

theorem wordSus_sampleWord (ch : Nat) (code : Int) (ovr : Option Bool) (sus bias : Bool) (pga : Nat) :
    wordSus ch (sampleWord ch code ovr sus bias pga) = sus := by
  have hbit (w : BitVec 32) : wordSus ch w = w.toNat.testBit (sampleWidth ch + 1) := by
    unfold wordSus sampleWidth
    split <;> [rfl; split] <;> rfl
  rw [hbit, sampleWord_testBit ch code ovr sus bias pga (by decide), wordMarks_sus]

/-- The clip codes in two's complement. -/
theorem unsignedOf_wordCode_clip (ch : Nat) (code : Int) :
    unsignedOf (sampleWidth ch) (wordCode ch code (some true)) = 2 ^ (sampleWidth ch - 1) - 1 ∧
      unsignedOf (sampleWidth ch) (wordCode ch code (some false)) = 2 ^ (sampleWidth ch - 1) := by
  unfold wordCode sampleWidth
  split <;> [skip; split] <;> exact ⟨rfl, rfl⟩

/-! The ring and the block already cut (R192) -/

theorem Channel.cutOpen_of_past {c : Channel} {now : Nat} (h : ∀ u, c.cutTick = some u → u < now) : c.cutOpen now = false := by
  unfold Channel.cutOpen
  cases hc : c.cutTick with
  | none => rfl
  | some u => simpa using h u hc

theorem Channel.cutOpen_of_cut {c : Channel} {now u : Nat} (hc : c.cutTick = some u) (h : now ≤ u) : c.cutOpen now = true := by
  simp [Channel.cutOpen, hc, h]

/-- A sample behind those of a ring; the oldest goes where it is full. -/
def pushed (n : Nat) (l : List Sample) (x : Sample) : List Sample := if l.length < n then l ++ [x] else l.drop 1 ++ [x]

theorem pushSample_of_closed (i : Nat) (c : Channel) (x : Sample) (h : c.cutOpen x.ready = false) :
    pushSample i c x = { c with ring := pushed (ringSize i) c.ring x, gap := c.gap || decide (ringSize i ≤ c.ring.length) } := by
  unfold pushSample pushed
  simp only [h, Bool.false_eq_true, if_false]
  split
  case isTrue hroom => simp [Nat.not_le.mpr hroom]
  case isFalse hfull => simp [Nat.not_lt.mp hfull]

theorem pushSample_of_open (i : Nat) (c : Channel) (x : Sample) (h : c.cutOpen x.ready = true) :
    pushSample i c x = { c with cut := pushed (ringSize i) c.cut x,
                                cutGap := c.cutGap || decide (ringSize i ≤ c.cut.length) } := by
  unfold pushSample pushed
  simp only [h, if_true]
  split
  case isTrue hroom => simp [Nat.not_le.mpr hroom]
  case isFalse hfull => simp [Nat.not_lt.mp hfull]

/-! One conversion -/

/-- The overload in which a conversion falls: on V and E the interval of its instant, on T what it saw itself. -/
def sampleOvr (s : State) (ch instant : Nat) (code : Int) (beyond : Bool) : Option Bool :=
  if ch < 12 then overloadSign (s.chan ch) instant else if beyond then some (decide (0 ≤ code)) else none

/-- A sample outside every overload is suspect in a calibration of its channel and in a recovery window (R190). -/
def sampleSus (s : State) (ch instant : Nat) (ovr : Option Bool) : Bool :=
  ovr.isNone && (s.calSus ch instant || (decide (ch < 12) && s.inSusWindow ch instant))

/-- The bias state of an IEPE input, and the open input of a T channel (R185, R186). -/
def sampleBias (s : State) (ch : Nat) (openIn : Bool) : Bool :=
  if ch < 8 then s.chanMode ch = 1 && s.reg (chanReg ch 11) ≠ 0
  else decide (12 ≤ ch) && openIn && decide (s.chanMode ch = 1 ∨ s.chanMode ch = 2)

/-- What a sample's marks change beside its channel: their counters, and OVR what an attempt notes (R72, R190). -/
def State.sampleMarked (s : State) (ch instant : Nat) (ovr sus : Bool) : State :=
  let s := if ovr then s.bump (chanReg ch 9) else s
  let s := if sus then s.bump (chanReg ch 10) else s
  if ovr then s.noteOvr ch instant else s

theorem State.sampleMarked_touches (s : State) (ch instant : Nat) (ovr sus : Bool) :
    s.sampleMarked ch instant ovr sus = { s with
      od := (s.sampleMarked ch instant ovr sus).od,
      cal := { s.cal with afe := (s.sampleMarked ch instant ovr sus).cal.afe } } := by
  cases ovr <;> cases sus <;> rfl

theorem State.sampleMarked_cal_of_inside (s : State) (ch instant : Nat) (sus : Bool) :
    (s.sampleMarked ch instant false sus).cal = s.cal := by
  cases sus <;> rfl

theorem State.sampleMarked_ovrCount (s : State) (ch instant : Nat) (ovr sus : Bool) :
    (s.sampleMarked ch instant ovr sus).reg (chanReg ch 9) =
      if ovr then (s.reg (chanReg ch 9) + 1) % 2 ^ 32 else s.reg (chanReg ch 9) := by
  have hne : chanReg ch 10 ≠ chanReg ch 9 := by unfold chanReg okey; omega
  cases ovr <;> cases sus
  · rfl
  · exact State.reg_bump_ne _ _ _ _ hne
  · exact State.reg_bump_self _ _ _
  · exact (State.reg_bump_ne _ _ _ _ hne).trans (State.reg_bump_self _ _ _)

theorem State.sampleMarked_reg (s : State) (ch instant : Nat) (ovr sus : Bool) {k : Nat} (h9 : k ≠ chanReg ch 9)
    (h10 : k ≠ chanReg ch 10) : (s.sampleMarked ch instant ovr sus).reg k = s.reg k := by
  have hovr (t : State) : (t.bump (chanReg ch 9)).reg k = t.reg k := State.reg_bump_ne _ _ _ _ h9.symm
  have hsus (t : State) : (t.bump (chanReg ch 10)).reg k = t.reg k := State.reg_bump_ne _ _ _ _ h10.symm
  cases ovr <;> cases sus
  · rfl
  · exact hsus s
  · exact hovr s
  · exact (hsus _).trans (hovr s)

/-- An attempt in the group of four notes an OVR sample between its start and 2,000 µs, and nothing else of it changes. -/
theorem State.sampleMarked_afe (s : State) (ch instant : Nat) (sus : Bool) :
    (s.sampleMarked ch instant true sus).cal.afe = s.cal.afe.map fun a =>
      if sameFour a.ch ch && decide (a.stage ≠ 0) && decide (a.start ≤ instant ∧ instant ≤ a.start + s.afeTime a.ch 7) then
        { a with ovr := true } else a := by
  have htime (t : State) (h : ∀ i, t.reg (okey (0x2800 + i) 4) = s.reg (okey (0x2800 + i) 4)) (i : Nat) :
      t.afeTime i 7 = s.afeTime i 7 := by
    simp only [State.afeTime, State.samplePeriod, h]
  have hkept (t : State) (i sub : Nat) (hsub : sub = 9 ∨ sub = 10) :
      (t.bump (chanReg ch sub)).reg (okey (0x2800 + i) 4) = t.reg (okey (0x2800 + i) 4) := by
    refine State.reg_bump_ne _ _ _ _ ?_
    unfold chanReg okey
    omega
  have hovr (i : Nat) := hkept s i 9 (.inl rfl)
  cases sus with
  | false =>
    simp only [State.sampleMarked, State.noteOvr, State.onCal, if_true, Bool.false_eq_true, if_false, htime _ hovr]
    rfl
  | true =>
    have hboth (i : Nat) := (hkept (s.bump (chanReg ch 9)) i 10 (.inr rfl)).trans (hovr i)
    simp only [State.sampleMarked, State.noteOvr, State.onCal, if_true, htime _ hboth]
    rfl

/-! Channels -/

theorem State.chan_onChan_self (s : State) {i : Nat} (f : Channel → Channel) (h : i < s.channels.length) :
    (s.onChan i f).chan i = f (s.chan i) := getD_upd_self _ _ _ _ h

theorem State.chan_onChan_ne (s : State) {i j : Nat} (f : Channel → Channel) (h : i ≠ j) : (s.onChan i f).chan j = s.chan j :=
  getD_upd_ne _ _ _ _ _ h

/-- A conversion that is taken counts its marks and goes into its channel under the channel's next number. -/
theorem execSampleReady_of_taken {s : State} {ch instant : Nat} {code : Int} {beyond openIn : Bool} (hch : ch < 16)
    (hdom : s.domainOn 2 = true) (hpower : s.husk.power ≠ .off) (hxtal : s.husk.xtalStopped = false)
    (hmode : s.chanMode ch ≠ chanOff ch) (hready : instant + s.latency ch ≤ s.now + 20) :
    let ovr := sampleOvr s ch instant code beyond
    let sus := sampleSus s ch instant ovr
    let t := s.sampleMarked ch instant ovr.isSome sus
    exec (.sampleReady ch code instant beyond openIn) s = .next (t.onChan ch fun c =>
      { pushSample ch c ⟨c.seq, ((instant : Int) + t.husk.timeOff).toNat, t.now,
          sampleWord ch code ovr sus (sampleBias s ch openIn) (t.pgaAt ch instant)⟩ with
        recent := (c.recent.filter fun y => decide (t.now < y.1 + 50000000)) ++
          [(instant, t.sampleNv ch code (t.pgaAt ch instant))]
        seq := c.seq + 1, lastOvr := if ovr.isSome then some instant else c.lastOvr }) := by
  have htaken : ¬ (decide (16 ≤ ch) || !s.domainOn 2 || s.husk.power = .off || s.husk.xtalStopped || s.chanMode ch = chanOff ch ||
      decide (s.now + 20 < instant + s.latency ch)) = true := by
    simp [hdom, hpower, hxtal, hmode, Nat.not_le.mpr hch, Nat.not_lt.mpr hready]
  show execSampleReady ch code instant beyond openIn s = _
  unfold execSampleReady
  rw [if_neg htaken]
  rfl

theorem samplesPart_holds : samplesPart := by
  intro s ch instant code beyond openIn hch hlen hdom hpower hxtal hmode hready c ovr w
  have hexec := execSampleReady_of_taken (code := code) (beyond := beyond) (openIn := openIn) hch hdom hpower hxtal hmode hready
  have hovr : sampleOvr s ch instant code beyond = ovr := rfl
  have hw : w = sampleWidth ch := rfl
  simp only [hovr] at hexec
  clear_value ovr w
  subst hw
  obtain ⟨sus, hsus⟩ : ∃ b, sampleSus s ch instant ovr = b := ⟨_, rfl⟩
  obtain ⟨t, ht⟩ : ∃ t, s.sampleMarked ch instant ovr.isSome sus = t := ⟨_, rfl⟩
  rw [hsus, ht] at hexec
  have htouch : t = { s with od := t.od, cal := { s.cal with afe := t.cal.afe } } := by
    rw [← ht]
    exact State.sampleMarked_touches _ _ _ _ _
  have hchan (i : Nat) : t.chan i = s.chan i := by rw [htouch]; rfl
  have hnow : t.now = s.now := by rw [htouch]; rfl
  have hin : ch < t.channels.length := by
    rw [htouch]
    exact lt_of_lt_of_eq (by omega) hlen.symm
  rw [hnow] at hexec
  obtain ⟨x, hx⟩ : ∃ x : Sample, ⟨c.seq, ((instant : Int) + t.husk.timeOff).toNat, s.now,
    sampleWord ch code ovr sus (sampleBias s ch openIn) (t.pgaAt ch instant)⟩ = x := ⟨_, rfl⟩
  have hword : x.word = sampleWord ch code ovr sus (sampleBias s ch openIn) (t.pgaAt ch instant) := by rw [← hx]
  have hready' : x.ready = s.now := by rw [← hx]
  have hseq : x.seq = c.seq := by rw [← hx]
  refine ⟨_, x, hexec, ?_⟩
  rw [State.chan_onChan_self _ _ hin, hchan]
  dsimp only
  rw [show s.chan ch = c from rfl, hx]
  refine ⟨fun hpast => ?_, fun u hu hcut => ?_, hseq, rfl, hready', ?_, fun hmark => ?_, fun hnone => ?_, fun hpos => ?_,
    fun hneg => ?_, ?_, fun i hi => ?_, fun k h9 h10 => ?_, fun hnone => ?_, fun a hsome ha hfour hstage hfrom hto => ?_,
    fun hsome hidle => ?_, ?_⟩
  · rw [pushSample_of_closed ch c x (hready' ▸ Channel.cutOpen_of_past hpast)]
    exact ⟨rfl, rfl, rfl, rfl⟩
  · rw [pushSample_of_open ch c x (hready' ▸ Channel.cutOpen_of_cut hu hcut)]
    exact ⟨rfl, rfl, rfl, rfl⟩
  · rw [hword, wordOvr_sampleWord]
  · rw [hword, wordOvr_sampleWord] at hmark
    rw [hword, wordSus_sampleWord, ← hsus, sampleSus, Option.isNone_eq_false_iff.mpr hmark, Bool.false_and]
  · rw [hword, sampleWord_code, hnone]
    rfl
  · rw [hword, sampleWord_code, hpos]
    exact (unsignedOf_wordCode_clip ch code).1
  · rw [hword, sampleWord_code, hneg]
    exact (unsignedOf_wordCode_clip ch code).2
  · rw [State.onChan_reg, ← ht]
    exact State.sampleMarked_ovrCount _ _ _ _ _
  · rw [State.chan_onChan_ne _ _ (Ne.symm hi), hchan]
  · rw [State.onChan_reg, ← ht]
    exact State.sampleMarked_reg _ _ _ _ _ h9 h10
  · rw [State.onChan_cal, ← ht, hnone]
    exact State.sampleMarked_cal_of_inside _ _ _ _
  · rw [State.onChan_cal, ← ht, hsome, State.sampleMarked_afe, ha]
    simp [sameFour, hfour, hstage, hfrom, hto]
  · rw [State.onChan_cal, ← ht, hsome, State.sampleMarked_afe, hidle]
    rfl
  · rw [htouch]
    rfl

/-! Overload intervals (R189, R190) -/

/-- One change of the channels that a test selects from a list. -/
theorem State.foldl_onChan_chan (f : Channel → Channel) (p : Nat → Bool) (l : List Nat) (hl : l.Nodup) (s : State)
    (hlen : ∀ j ∈ l, j < s.channels.length) (i : Nat) :
    (l.foldl (fun (s : State) j => if p j then s.onChan j f else s) s).chan i =
      if i ∈ l ∧ p i = true then f (s.chan i) else s.chan i := by
  induction l generalizing s with
  | nil => simp
  | cons j l ih =>
    obtain ⟨hj, hl⟩ := List.nodup_cons.1 hl
    rw [List.foldl_cons]
    have hin : j < s.channels.length := hlen j List.mem_cons_self
    by_cases hp : p j = true
    · rw [if_pos hp, ih hl _ fun k hk => by simpa using hlen k (List.mem_cons_of_mem _ hk)]
      by_cases hij : i = j
      · subst hij
        simp [hj, hp, State.chan_onChan_self _ _ hin]
      · simp [hij, State.chan_onChan_ne _ _ (Ne.symm hij)]
    · rw [if_neg hp, ih hl _ fun k hk => hlen k (List.mem_cons_of_mem _ hk)]
      by_cases hij : i = j
      · subst hij
        simp [hj, hp]
      · simp [hij]

/-- A channel after its own overload interval from `a` on: its windows of OVR and of SUS. -/
def Channel.afterOverload (c : Channel) (pos : Bool) (a now own : Nat) : Channel :=
  { c with ovl := none, susWin := recentWin now c.susWin ++ [(now, now + own)],
           ovrWin := (c.ovrWin.filter fun w => decide (now < w.2.1 + 10000000)) ++ [(a, now, pos)] }

/-- Another channel of the four after that interval: its window of SUS. -/
def Channel.besideOverload (c : Channel) (a now others : Nat) : Channel :=
  { c with susWin := recentWin now c.susWin ++ [(a, now + others)] }

/-- The other channels of a channel's four. -/
def othersOfFour (ch j : Nat) : Bool := j ≠ ch && sameFour ch j

theorem othersOfFour_iff {ch j : Nat} : othersOfFour ch j = true ↔ j ≠ ch ∧ ch / 4 = j / 4 := by
  simp [othersOfFour, sameFour]

/-- The state after an overload interval of a channel. -/
def State.overloadEnded (s : State) (ch : Nat) (pos : Bool) (a own others : Nat) : State :=
  (List.range 12).foldl (fun (t : State) j => if othersOfFour ch j then t.onChan j (·.besideOverload a s.now others) else t)
    (s.onChan ch (·.afterOverload pos a s.now own))

theorem State.overloadEnded_touches (s : State) (ch : Nat) (pos : Bool) (a own others : Nat) :
    s.overloadEnded ch pos a own others = { s with channels := (s.overloadEnded ch pos a own others).channels } :=
  foldl_rel (fun t u => u = { t with channels := u.channels }) (fun _ => rfl) (fun h k => k.trans (by rw [h])) _
    (fun t j => by split <;> rfl) _ (s.onChan ch _)

theorem State.overloadEnded_chan {s : State} (hlen : s.channels.length = 18) {ch : Nat} (hch : ch < 12) (pos : Bool)
    (a own others i : Nat) : (s.overloadEnded ch pos a own others).chan i =
      if i = ch then (s.chan ch).afterOverload pos a s.now own
      else if i < 12 ∧ ch / 4 = i / 4 then (s.chan i).besideOverload a s.now others else s.chan i := by
  unfold State.overloadEnded
  rw [State.foldl_onChan_chan _ _ _ List.nodup_range _
    fun j hj => by simpa [hlen] using (List.mem_range.1 hj).trans (by decide : 12 < 18)]
  by_cases hi : i = ch
  · subst hi
    rw [State.chan_onChan_self _ _ (by omega), if_neg (by simp [othersOfFour]), if_pos rfl]
  · rw [State.chan_onChan_ne _ _ (Ne.symm hi), if_neg hi]
    simp [othersOfFour_iff, hi]

theorem execOverloadEnd_of_running {s : State} {ch : Nat} {pos : Bool} {a : Nat} (hovl : (s.chan ch).ovl = some (pos, a)) :
    exec (.overloadEnd ch) s = .next (s.overloadEnded ch pos a
      (if ch < 8 then max 24000 (ceilDiv (3 * s.samplePeriod ch) 64) else 3000)
      (if ch < 8 then max 6000 (ceilDiv (s.samplePeriod ch) 64) else 1000)) := by
  show execOverloadEnd ch s = _
  unfold execOverloadEnd
  rw [hovl]
  rfl

theorem execOverloadStart_of_inside {s : State} {ch : Nat} (pos : Bool) (hch : ch < 12) (hmode : s.chanMode ch ≠ chanOff ch)
    (hxtal : s.husk.xtalStopped = false) (hidle : (s.chan ch).ovl = none) :
    exec (.overloadStart ch pos) s = .next (s.onChan ch fun c => { c with ovl := some (pos, s.now) }) := by
  show execOverloadStart ch pos s = _
  simp [execOverloadStart, hasOverload, hch, hmode, hxtal, hidle]

theorem overloadsPart_holds : overloadsPart := by
  intro s ch hch hlen
  have hin : ch < s.channels.length := by omega
  constructor
  · intro pos hmode hxtal hidle
    exact ⟨_, execOverloadStart_of_inside pos hch hmode hxtal hidle, State.chan_onChan_self _ _ hin,
      fun i hi => State.chan_onChan_ne _ _ (Ne.symm hi), rfl⟩
  · intro pos a hovl own others
    have hself := State.overloadEnded_chan hlen hch pos a own others ch
    rw [if_pos rfl] at hself
    refine ⟨_, execOverloadEnd_of_running hovl, ?_, ?_, ?_, ?_, fun i hi hne hfour => ?_, fun i hfour => ?_,
      State.overloadEnded_touches _ _ _ _ _ _⟩
    · rw [hself, Channel.afterOverload]
    · rw [hself]
      exact List.getLast?_concat
    · rw [hself]
      exact List.getLast?_concat
    · rw [hself, Channel.afterOverload]
    · rw [State.overloadEnded_chan hlen hch, if_neg hne, if_pos ⟨hi, hfour.symm⟩]
      exact ⟨List.getLast?_concat, rfl⟩
    · have hne : i ≠ ch := fun e => hfour (by rw [e])
      rw [State.overloadEnded_chan hlen hch, if_neg hne, if_neg fun h => hfour h.2.symm]

/-- Settles O42: a conversion that is taken counts its marks and goes behind its ring or the block already cut; the end of an
overload leaves its windows on the channel and on the others of its four. -/
theorem samplesAndOverloadsComplete : Obligations.SamplesAndOverloadsComplete := ⟨samplesPart_holds, overloadsPart_holds⟩

end Sys2Proof.Machine
end

section
/-! SUPPORT. Events at the end of a party's queue, and a port that takes another state. -/

namespace Sys2Proof.Machine

open Sys2Proof

/-! The newest event of a party (R223) -/

/-- Opcode and payload of the newest event in a queue. -/
def PartyNet.newestEvent (n : PartyNet) : Option (Nat × List Byte) := n.events.getLast?.map fun e => (e.opcode, e.payload)

theorem PartyNet.append_newestEvent (n : PartyNet) (op st : Nat) (b : List Byte) :
    (n.append op st b).newestEvent = some (op, b) := by
  unfold PartyNet.newestEvent PartyNet.append
  dsimp only
  rw [List.getLast?_concat]
  rfl

/-- Only a queue of nothing but TIER_CHANGE has none to drop. -/
theorem dropOldest_ne_none {es : List Event} {e : Event} (he : e ∈ es) (hop : e.opcode ≠ 1) : dropOldest es ≠ none := by
  induction es with
  | nil => cases he
  | cons x es ih =>
    unfold dropOldest
    split
    case isTrue hx =>
      have hmem : e ∈ es := by
        rcases List.mem_cons.1 he with rfl | hmem
        · exact absurd hx hop
        · exact hmem
      simpa using ih hmem
    case isFalse => exact Option.some_ne_none _

/-- An event for a queue with room is its newest, also where a report of lost events takes that room. -/
theorem enqueue_newestEvent (n : PartyNet) (op st : Nat) (b : List Byte) (hroom : n.events.length < 32) :
    (enqueue n op st b).newestEvent = some (op, b) := by
  unfold enqueue
  extract_lets m
  split
  · exact PartyNet.append_newestEvent _ _ _ _
  · rename_i hfull
    have hm : m = n.append 6 0 (leBytes 4 n.lost) := by
      show n.reportLost = _
      unfold PartyNet.reportLost
      split
      case isTrue hsame =>
        refine absurd ?_ hfull
        show n.reportLost.events.length < 32
        rwa [PartyNet.reportLost, if_pos hsame]
      case isFalse => rfl
    have hlost : dropOldest m.events ≠ none := by
      rw [hm]
      exact dropOldest_ne_none (List.mem_append_right _ List.mem_cons_self) (by decide : (6 : Nat) ≠ 1)
    split
    · rename_i hnone
      exact absurd hnone hlost
    · dsimp only
      split
      · exact PartyNet.append_newestEvent _ _ _ _
      · split <;> exact PartyNet.append_newestEvent _ _ _ _

/-- A change of one element leaves alone what it leaves alone of that element. -/
theorem getD_upd_view {α γ : Type} (v : α → γ) (l : List α) (i j : Nat) (f : α → α) (d : α) (h : ∀ x, v (f x) = v x) :
    v ((upd l i f).getD j d) = v (l.getD j d) := by
  by_cases hij : i = j
  · subst hij
    by_cases hi : i < l.length
    · rw [getD_upd_self l i f d hi, h]
    · have hi' : l.length ≤ i := Nat.not_lt.mp hi
      rw [List.getD_eq_default _ _ (by simpa using hi'), List.getD_eq_default _ _ hi']
  · rw [getD_upd_ne l i j f d hij]

theorem State.shiftTimers_newestEvent (s : State) (u t p : Nat) :
    ((s.shiftTimers u t).pnet p).newestEvent = (s.pnet p).newestEvent := by
  refine foldl_view (fun s => (s.pnet p).newestEvent) _ (fun s q => ?_) _ s
  split
  · refine getD_upd_view PartyNet.newestEvent s.net.parties q p _ _ fun n => ?_
    simp only [PartyNet.newestEvent, List.getLast?_map, Option.map_map]
    rfl
  · rfl

/-! Accepted pool operations that end ABORTED (R215, R220) -/

theorem State.abortPool_of_none {s : State} (h : s.net.accepted = []) (f : Nat × Nat × List Byte × Bool → Bool) :
    s.abortPool f = s := by
  unfold State.abortPool
  rw [h]
  rfl

theorem State.abortPool_netStanding (s : State) (f : Nat × Nat × List Byte × Bool → Bool) :
    netStanding (s.abortPool f) = netStanding s := by
  unfold State.abortPool
  refine foldl_view netStanding _ (fun t m => ?_) _ s
  unfold State.poolAnswer
  rw [State.respond_netStanding, State.portCount_netStanding]

theorem State.abortPool_reg (s : State) (f : Nat × Nat × List Byte × Bool → Bool) {k : Nat} (hk : ¬ answerCounter k)
    (h19 : k % 256 ≠ 0x19) : (s.abortPool f).reg k = s.reg k := by
  unfold State.abortPool
  refine foldl_view (·.reg k) _ (fun t m => ?_) _ s
  unfold State.poolAnswer
  rw [State.respond_reg _ _ _ _ _ _ _ _ _ hk]
  unfold State.portCount
  split
  · refine State.reg_bump_ne _ _ _ _ ?_
    unfold okey
    omega
  · rfl

/-! A port takes a state (R214) -/

/-- A port's new state, its LINK event to the Owner, and PLCA of a coordinator whose N2 is UP. -/
def State.portAnnounced (s : State) (u st : Nat) : State :=
  let old := s.net.ports.getD u 0
  let s : State := { s with net := { s.net with ports := setAt s.net.ports u st } }
  let s := s.event 0 5 0 (leBytes 1 u ++ leBytes 1 old ++ leBytes 1 st ++ leBytes 1 0)
  { s with net := { s.net with plca := s.net.plca || (u = 1 && st = 1 && s.plcaCoordinator) } }

theorem State.setPort_of_same {s : State} {u st : Nat} (h : s.net.ports.getD u 0 = st) : s.setPort u st = s := by
  unfold State.setPort
  exact if_pos (.inl h)

/-- A port's new state keeps of the announced one what an end of pool operations and the rest of the timers do not change. -/
theorem State.setPort_view {γ : Type} (v : State → γ) (s : State) (u st : Nat) (hu : u < 4)
    (hne : s.net.ports.getD u 0 ≠ st) (hdown : ∀ (t : State) d, v { t with net := { t.net with downAt := d } } = v t)
    (habort : ∀ (t : State) f, t.net.accepted = s.net.accepted → v (t.abortPool f) = v t)
    (hshift : ∀ (t : State) a b, v (t.shiftTimers a b) = v t) : v (s.setPort u st) = v (s.portAnnounced u st) := by
  have hchanged : ¬ (s.net.ports.getD u 0 = st ∨ 4 ≤ u) := by omega
  unfold State.setPort
  extract_lets old n0 s1 s2 n2 s3 n3 s4
  rw [if_neg hchanged]
  have h3 : s3 = s.portAnnounced u st := rfl
  have h4 : v s4 = v s3 := hdown s3 _
  have hq : s4.net.accepted = s.net.accepted := rfl
  clear_value s3 s4
  subst h3
  split
  · exact (habort s4 _ hq).trans h4
  · split
    · split
      · exact (hdown _ _).trans (hshift _ _ _)
      · rfl
    · rfl

theorem State.setPort_ports {s : State} {u st : Nat} (hu : u < 4) (hne : s.net.ports.getD u 0 ≠ st) :
    (s.setPort u st).net.ports = setAt s.net.ports u st := by
  refine (State.setPort_view (·.net.ports) s u st hu hne (fun _ _ => rfl) (fun t f _ => ?_) (fun t a b => ?_)).trans rfl
  · exact congrArg Prod.fst (State.abortPool_netStanding t f)
  · unfold State.shiftTimers
    exact foldl_view (·.net.ports) _ (fun t p => by split <;> rfl) _ t

theorem State.shiftTimers_touches (s : State) (u t : Nat) : s.shiftTimers u t = { s with net := (s.shiftTimers u t).net } := by
  unfold State.shiftTimers
  exact foldl_rel (fun t u => u = { t with net := u.net }) (fun _ => rfl) (fun h k => k.trans (by rw [h])) _
    (fun t p => by split <;> rfl) _ s

theorem State.shiftTimers_reg (s : State) (u t k : Nat) : (s.shiftTimers u t).reg k = s.reg k := by
  rw [State.shiftTimers_touches]
  simp only [State.reg]

theorem State.setPort_reg {s : State} {u st : Nat} (hu : u < 4) (hne : s.net.ports.getD u 0 ≠ st) {k : Nat}
    (hk : ¬ answerCounter k) (h19 : k % 256 ≠ 0x19) : (s.setPort u st).reg k = s.reg k :=
  (State.setPort_view (·.reg k) s u st hu hne (fun _ _ => rfl) (fun t f _ => State.abortPool_reg t f hk h19)
    (fun t a b => State.shiftTimers_reg t a b k)).trans rfl

/-- Where no pool operation waits, a port's new state changes the network alone. -/
theorem State.setPort_quiet {s : State} {u st : Nat} (hu : u < 4) (hne : s.net.ports.getD u 0 ≠ st)
    (hquiet : s.net.accepted = []) : s.setPort u st = { s with net := (s.setPort u st).net } := by
  have h := State.setPort_view (fun t => { t with net := s.net }) s u st hu hne (fun _ _ => rfl)
    (fun t f ht => by rw [State.abortPool_of_none (ht.trans hquiet)])
    (fun t a b => by rw [State.shiftTimers_touches])
  exact congrArg (fun t : State => { t with net := (s.setPort u st).net }) h

/-- LINK is the newest event of the Owner. -/
theorem State.setPort_newestEvent {s : State} {u st : Nat} (hu : u < 4) (hne : s.net.ports.getD u 0 ≠ st)
    (hquiet : s.net.accepted = []) (hparty : 0 < s.net.parties.length) (hroom : (s.pnet 0).events.length < 32) :
    ((s.setPort u st).pnet 0).newestEvent =
      some (5, leBytes 1 u ++ leBytes 1 (s.net.ports.getD u 0) ++ leBytes 1 st ++ leBytes 1 0) := by
  rw [State.setPort_view (fun t => (t.pnet 0).newestEvent) s u st hu hne (fun _ _ => rfl)
    (fun t f ht => by rw [State.abortPool_of_none (ht.trans hquiet)]) fun t a b => State.shiftTimers_newestEvent t a b 0]
  have hevent := State.pnet_onNet_self { s with net := { s.net with ports := setAt s.net.ports u st } } 0
    (fun n => enqueue n 5 0 (leBytes 1 u ++ leBytes 1 (s.net.ports.getD u 0) ++ leBytes 1 st ++ leBytes 1 0)) hparty
  exact (congrArg PartyNet.newestEvent hevent).trans (enqueue_newestEvent _ _ _ _ hroom)

end Sys2Proof.Machine
end

section
/-! PROOF. Port states, PLCA, Sync and the CAN FD heartbeat. -/

namespace Sys2Proof.Machine

open Sys2Proof

/-! Port states (R214, R215) -/

theorem not_answerCounter_portCount {u sub : Nat} (h : sub = 0x14 ∨ sub = 0x1F) :
    ¬ answerCounter (okey (0x3C00 + u) sub) := by
  rintro (⟨v, hv, e | e⟩ | ⟨p, e | e⟩ | e | e) <;> unfold okey at e <;> omega

theorem State.portCount_wired (s : State) {u : Nat} (hu : u < 4) (sub n : Nat) :
    s.portCount u sub n = s.bump (okey (0x3C00 + u) sub) n := if_pos hu

/-- A medium that a wired port can report. -/
def mediumOf (port st : Nat) : Prop := st = 1 ∨ (st = 2 ∧ port ≠ 3) ∨ (st = 4 ∧ port = 3)

theorem execLinkChange_of_disabled {s : State} {port : Nat} (st : Nat)
    (hold : s.net.ports.getD port 0 = 0 ∨ s.net.ports.getD port 0 = 3) : exec (.linkChange port st) s = .next s := by
  show execLinkChange port st s = _
  have hheld : [0, 3].contains (s.net.ports.getD port 0) = true := by rcases hold with h | h <;> rw [h] <;> rfl
  simp only [execLinkChange, hheld, Bool.or_true, Bool.true_or, if_true]

/-- The medium of an enabled port moves its state; BUS_OFF is counted first. -/
theorem execLinkChange_of_enabled {s : State} {port st : Nat} (hrun : s.netRuns = true)
    (hport : port = 0 ∨ port = 1 ∨ port = 3) (hst : mediumOf port st) (h0 : s.net.ports.getD port 0 ≠ 0)
    (h3 : s.net.ports.getD port 0 ≠ 3) : exec (.linkChange port st) s = .next
      ((if st = 4 ∧ s.net.ports.getD 3 0 ≠ 4 then s.portCount 3 0x1F else s).setPort port st) := by
  show execLinkChange port st s = _
  have hwired : cmdPorts.contains port = true := by rcases hport with rfl | rfl | rfl <;> rfl
  have hfree : [0, 3].contains (s.net.ports.getD port 0) = false := by
    generalize s.net.ports.getD port 0 = old at h0 h3
    simp [h0, h3]
  have hmedium : (st = 1 || (st = 2 && port ≠ 3) || (st = 4 && port = 3)) = true := by
    simpa [mediumOf, or_assoc] using hst
  simp only [execLinkChange, hwired, hrun, hfree, hmedium]
  rfl

theorem linkChange_effect (s : State) (port st : Nat) (hrun : s.netRuns = true) (hport : port = 0 ∨ port = 1 ∨ port = 3)
    (hparties : s.net.parties.length = 16) (hst : mediumOf port st) (h0 : s.net.ports.getD port 0 ≠ 0)
    (h3 : s.net.ports.getD port 0 ≠ 3) :
    let old := s.net.ports.getD port 0
    (old = st → exec (.linkChange port st) s = .next s) ∧
    (old ≠ st → ∃ t, exec (.linkChange port st) s = .next t ∧ t.net.ports = setAt s.net.ports port st ∧
      (st = 4 → t.reg (okey 0x3C03 0x1F) = (s.reg (okey 0x3C03 0x1F) + 1) % 2 ^ 32) ∧
      (s.net.accepted = [] → (s.pnet 0).events.length < 32 →
        ((t.pnet 0).events.getLast?).map (fun e => (e.opcode, e.payload)) =
          some (5, leBytes 1 port ++ leBytes 1 old ++ leBytes 1 st ++ leBytes 1 0) ∧
        (∀ k, k ≠ okey 0x3C03 0x1F → t.reg k = s.reg k) ∧ t = { s with od := t.od, net := t.net })) := by
  intro old
  have hexec := execLinkChange_of_enabled hrun hport hst h0 h3
  have hu : port < 4 := by omega
  have hbus : st = 4 → s.net.ports.getD 3 0 = old := by
    intro h
    obtain rfl : port = 3 := by unfold mediumOf at hst; omega
    rfl
  obtain ⟨u, hu'⟩ : ∃ u, (if st = 4 ∧ s.net.ports.getD 3 0 ≠ 4 then s.portCount 3 0x1F else s) = u := ⟨_, rfl⟩
  rw [hu'] at hexec
  have hcounted : u = { s with od := u.od } ∧ ∀ k, k ≠ okey 0x3C03 0x1F → u.reg k = s.reg k := by
    rw [← hu']
    split
    · exact ⟨rfl, fun k hk => State.reg_bump_ne _ _ _ _ (Ne.symm hk)⟩
    · exact ⟨rfl, fun _ _ => rfl⟩
  obtain ⟨hframe, hregs⟩ := hcounted
  have hnet : u.net = s.net := by rw [hframe]
  constructor
  · intro hsame
    have hquiet : u = s := by
      rw [← hu', if_neg]
      rintro ⟨h, h'⟩
      exact h' ((hbus h).trans (hsame.trans h))
    rw [hexec, hquiet, State.setPort_of_same hsame]
  · intro hne
    have hne' : u.net.ports.getD port 0 ≠ st := by rwa [hnet]
    refine ⟨_, hexec, ?_, fun h4 => ?_, fun hquiet hroom => ⟨?_, fun k hk => ?_, ?_⟩⟩
    · rw [State.setPort_ports hu hne', hnet]
    · have hcount : ¬ answerCounter (okey 0x3C03 0x1F) := not_answerCounter_portCount (u := 3) (.inr rfl)
      rw [State.setPort_reg hu hne' hcount (by decide), ← hu',
        if_pos ⟨h4, fun h => hne ((hbus h4).symm.trans (h.trans h4.symm))⟩]
      exact State.reg_bump_self _ _ _
    · have hlast := State.setPort_newestEvent hu hne' (by rw [hnet]; exact hquiet) (by rw [hnet, hparties]; decide)
        (by unfold State.pnet; rw [hnet]; exact hroom)
      rw [hnet] at hlast
      exact hlast
    · rw [State.setPort_quiet hu hne' (by rw [hnet]; exact hquiet)]
      exact hregs k hk
    · rw [State.setPort_quiet hu hne' (by rw [hnet]; exact hquiet), hframe]

/-- A transmitter that jabbers is held down, counted and recorded (R215). -/
theorem jabber_effect (s : State) (port : Nat) (hrun : s.netRuns = true) (hport : port = 0 ∨ port = 1 ∨ port = 3)
    (hup : s.net.ports.getD port 0 = 1) : ∃ t, exec (.jabber port) s = .next t ∧ t.net.ports = setAt s.net.ports port 3 ∧
      t.reg (okey (0x3C00 + port) 0x14) = (s.reg (okey (0x3C00 + port) 0x14) + 1) % 2 ^ 32 ∧
      t.integ.log.getLast?.map (fun r => (r.cls, r.cause, r.unit)) = some (clsNetwork, 1, unitPort port) := by
  have hu : port < 4 := by omega
  have hwired : cmdPorts.contains port = true := by rcases hport with rfl | rfl | rfl <;> rfl
  have hexec : exec (.jabber port) s =
      .next (((s.portCount port 0x14).setPort port 3).fault clsNetwork 1 (unitPort port) noParty 0) := by
    show execJabber port s = _
    simp only [execJabber, hwired, hrun, hup]
    rfl
  have hunit : plainUnit (unitPort port) := by unfold plainUnit unitPort; omega
  have hcounted : s.portCount port 0x14 = s.bump (okey (0x3C00 + port) 0x14) 1 := State.portCount_wired s hu 0x14 1
  have hne : (s.bump (okey (0x3C00 + port) 0x14)).net.ports.getD port 0 ≠ 3 := by
    show s.net.ports.getD port 0 ≠ 3
    rw [hup]
    decide
  refine ⟨_, hexec, ?_, ?_, State.fault_newestRecord _ _ _ _ _ _⟩
  · rw [hcounted, State.fault_net_of_plain _ _ _ _ _ hunit]
    exact State.setPort_ports hu hne
  · have hplain : ¬ recordCounter (okey (0x3C00 + port) 0x14) := by unfold recordCounter okey; omega
    have h19 : okey (0x3C00 + port) 0x14 % 256 ≠ 0x19 := by unfold okey; omega
    rw [hcounted, State.fault_reg_of_plain _ _ _ _ _ hunit hplain,
      State.setPort_reg hu hne (not_answerCounter_portCount (.inl rfl)) h19]
    exact State.reg_bump_self _ _ _

theorem portStatesPart_holds : portStatesPart := by
  intro s port hrun hport _ hparties old
  refine ⟨fun st hst h0 h3 => linkChange_effect s port st hrun hport hparties hst h0 h3,
    fun hold st => execLinkChange_of_disabled st hold, jabber_effect s port hrun hport, fun hdown => ?_, fun hup => ?_⟩
  · show execJabber port s = _
    have hd : decide (s.net.ports.getD port 0 ≠ 1) = true := decide_eq_true hdown
    simp only [execJabber, hd, Bool.or_true, if_true]
  · show execReceiveJabber s = _
    simp only [execReceiveJabber, hrun, hup]
    rfl

/-! PLCA (R213) -/

/-- The device coordinates PLCA: it has node ID 0, and N2 is UP. -/
def coordinates (s : State) : Prop := s.inForce 0x3C1001 = 1 ∧ s.inForce 0x3C1002 = 0 ∧ s.net.ports.getD 1 0 = 1

theorem execBeacon_of_up {s : State} (hrun : s.netRuns = true) (hup : s.net.ports.getD 1 0 = 1) :
    exec .beacon s = .next { s with net := { s.net with
      beaconAt := s.now, plca := decide (s.inForce 0x3C1001 = 1 ∧ s.inForce 0x3C1002 ≠ 255) } } := by
  show execBeacon s = _
  have hset : s.plcaSet = decide (s.inForce 0x3C1001 = 1 ∧ s.inForce 0x3C1002 ≠ 255) := by
    unfold State.plcaSet
    rw [Bool.decide_and]
  simp only [execBeacon, hrun, hup, hset]
  rfl

theorem coordinates_iff (s : State) : s.plcaCoordinator = true ∧ s.net.ports.getD 1 0 = 1 ↔ coordinates s := by
  unfold coordinates State.plcaCoordinator State.plcaSet
  simp only [Bool.and_eq_true, decide_eq_true_eq]
  omega

theorem execPlcaInactive_of_silent {s : State} (hon : s.net.plca = true) (hlate : s.net.beaconAt + 400000 ≤ s.now)
    (hc : ¬ coordinates s) : exec .plcaInactive s = .next { s with net := { s.net with plca := false } } := by
  rw [← coordinates_iff] at hc
  show execPlcaInactive s = _
  unfold execPlcaInactive
  have hfree : (s.plcaCoordinator && decide (s.net.ports.getD 1 0 = 1)) = false := by
    rw [Bool.eq_false_iff]
    simpa only [ne_eq, Bool.and_eq_true, decide_eq_true_eq] using hc
  rw [if_pos]
  simp only [hon, hfree, hlate, decide_true, Bool.not_false, Bool.and_true]

theorem execPlcaInactive_of_kept {s : State} (h : s.net.plca = false ∨ s.now < s.net.beaconAt + 400000 ∨ coordinates s) :
    exec .plcaInactive s = .next s := by
  rw [← coordinates_iff] at h
  show execPlcaInactive s = _
  unfold execPlcaInactive
  rw [if_neg]
  simp only [Bool.and_eq_true, Bool.not_eq_true', Bool.and_eq_false_iff, decide_eq_true_eq, decide_eq_false_iff_not]
  rintro ⟨⟨hon, hc⟩, hlate⟩
  rcases h with h | h | ⟨hplca, hup⟩
  · simp [hon] at h
  · omega
  · rcases hc with hc | hc
    · simp [hplca] at hc
    · exact hc hup

/-! Sync (R216, R217) -/

section
variable {s : State} {u : Nat}

theorem ptpPort_lt (h : s.ptpPort = some u) : u < 2 := by
  unfold State.ptpPort at h
  split at h <;> cases h <;> decide

theorem execSync_of_unbound (src gm origin every : Nat) (peer : Nat × Nat × Nat × Nat) (h : s.ptpPort = none) :
    exec (.sync src gm origin every peer) s = .next s := by
  show execSync src gm origin every peer s = _
  simp only [execSync, h]

theorem execSync_of_down (src gm origin every : Nat) (peer : Nat × Nat × Nat × Nat) (h : s.ptpPort = some u)
    (hdown : s.portUp u = false) : exec (.sync src gm origin every peer) s = .next s := by
  show execSync src gm origin every peer s = _
  simp only [execSync, h, hdown, Bool.not_false, Bool.or_true, if_true]

theorem execSync_of_refused {src every : Nat} (gm origin : Nat) (peer : Nat × Nat × Nat × Nat) (hrun : s.netRuns = true)
    (h : s.ptpPort = some u) (hup : s.portUp u = true) (href : s.syncTaken u src every = false) :
    exec (.sync src gm origin every peer) s = .next (s.bump (okey (0x3C00 + u) 0x10) 2) := by
  have hu := ptpPort_lt h
  show execSync src gm origin every peer s = _
  simp only [execSync, h, hrun, hup, href, State.portCount_wired s (by omega : u < 4)]
  rfl

end

/-- Offsets in a row within ±50 ns, this one included; four are enough. -/
def State.syncGood (s : State) (offset : Int) : Nat := if offset.natAbs ≤ 50 then min 4 (s.net.good + 1) else 0

/-- The registers after an offset that is followed: offset and grandmaster are shown, and the fourth good one synchronises. -/
def State.syncShown (s : State) (offset : Int) (gm : Nat) : State :=
  let t := (s.setReg 0x3C5003 (unsignedOf 32 offset)).setReg 0x3C5004 gm
  if 4 ≤ s.syncGood offset then t.setReg 0x3C5002 1 else t

/-- The state after an offset that is followed. -/
def State.syncFollowed (s : State) (offset : Int) (gm every : Nat) : State :=
  { s with od := (s.syncShown offset gm).od, husk := { s.husk with timeOff := s.husk.timeOff + offset },
           net := { s.net with syncAt := s.now, syncEvery := every, far := [], good := s.syncGood offset },
           cal := (s.measureXtal offset).cal }

/-- The far offsets in a row that agree, with this one (R216). -/
def State.syncFar (s : State) (offset : Int) : List Int := if agree s.net.far offset then s.net.far ++ [offset] else [offset]

/-- The state after a far offset that is counted and ignored. -/
def State.syncIgnored (s : State) (offset : Int) (every : Nat) : State :=
  { s.bump 0x3C5006 with net := { s.net with syncAt := s.now, syncEvery := every, far := s.syncFar offset } }

/-- The state after the eighth far offset in a row that agrees: the time base has stepped to it. -/
def State.syncStepped (s : State) (offset : Int) (gm every : Nat) : State :=
  { ((s.bump 0x3C5006).setReg 0x3C5003 (unsignedOf 32 offset)).setReg 0x3C5004 gm with
    husk := { s.husk with timeOff := s.husk.timeOff + offset },
    net := { s.net with syncAt := s.now, syncEvery := every, far := [] } }

theorem State.measureXtal_touches (s : State) (offset : Int) :
    s.measureXtal offset = { s with cal := (s.measureXtal offset).cal } := by
  unfold State.measureXtal
  split <;> rfl

/-- Both frames of a Sync are counted. -/
def State.syncHeard (s : State) (u : Nat) : State := s.bump (okey (0x3C00 + u) 0x10) 2

theorem State.syncHeard_reg (s : State) (u : Nat) {k : Nat} (h : k % 256 < 16) : (s.syncHeard u).reg k = s.reg k := by
  refine State.reg_bump_ne _ _ _ _ ?_
  unfold okey
  omega

section
variable {s : State} {u src gm origin every : Nat} {peer : Nat × Nat × Nat × Nat} (hrun : s.netRuns = true)
  (hport : s.ptpPort = some u) (hup : s.portUp u = true) (htaken : s.syncTaken u src every = true)

include hrun hport hup htaken

theorem execSync_of_near (hnear : s.reg 0x3C5002 ≠ 1 ∨ (s.syncOffset origin peer).natAbs ≤ 1000000) :
    exec (.sync src gm origin every peer) s =
      .next ((s.syncHeard u).syncFollowed (s.syncOffset origin peer) gm every) := by
  have hu := ptpPort_lt hport
  have hfar : ¬ ((s.syncHeard u).reg 0x3C5002 = 1 ∧ 1000000 < (s.syncOffset origin peer).natAbs) := by
    rw [State.syncHeard_reg s u (by decide)]
    omega
  have hheard : s.portCount u 0x10 2 = s.syncHeard u := State.portCount_wired s (by omega) 0x10 2
  show execSync src gm origin every peer s = _
  simp only [execSync, hport, hrun, hup, htaken, hheard, decide_eq_false hfar, Bool.not_true, Bool.or_self, Bool.false_eq_true,
    if_false]
  generalize s.syncOffset origin peer = offset
  generalize s.syncHeard u = t
  rw [State.measureXtal_touches]
  simp only [State.syncFollowed, State.syncShown, State.syncGood]
  split <;> split <;> rfl

theorem execSync_of_far (hfar : s.reg 0x3C5002 = 1 ∧ 1000000 < (s.syncOffset origin peer).natAbs) :
    exec (.sync src gm origin every peer) s = .next (if 8 ≤ ((s.syncHeard u).syncFar (s.syncOffset origin peer)).length
      then (s.syncHeard u).syncStepped (s.syncOffset origin peer) gm every
      else (s.syncHeard u).syncIgnored (s.syncOffset origin peer) every) := by
  have hu := ptpPort_lt hport
  have hfar' : (s.syncHeard u).reg 0x3C5002 = 1 ∧ 1000000 < (s.syncOffset origin peer).natAbs := by
    rwa [State.syncHeard_reg s u (by decide)]
  have hheard : s.portCount u 0x10 2 = s.syncHeard u := State.portCount_wired s (by omega) 0x10 2
  show execSync src gm origin every peer s = _
  simp only [execSync, hport, hrun, hup, htaken, hheard, decide_eq_true hfar', Bool.not_true, Bool.or_self, Bool.false_eq_true,
    if_false, if_true]
  generalize s.syncOffset origin peer = offset
  generalize s.syncHeard u = t
  simp only [State.syncStepped, State.syncIgnored, State.syncFar]
  split <;> split <;> rfl

end

/-- The offset as the statement writes it. -/
theorem State.syncOffset_eq (s : State) (origin t1 t2 t3 t4 : Nat) : s.syncOffset origin (t1, t2, t3, t4) =
    origin + (((t4 : Int) - t1) - ((t3 : Int) - t2)) / 2 - (s.now + s.husk.timeOff) := rfl

theorem State.syncShown_reg (s : State) (offset : Int) (gm : Nat) :
    (s.syncShown offset gm).reg 0x3C5003 = unsignedOf 32 offset ∧ (s.syncShown offset gm).reg 0x3C5004 = gm ∧
      (4 ≤ s.syncGood offset → (s.syncShown offset gm).reg 0x3C5002 = 1) ∧
      (s.syncGood offset < 4 → (s.syncShown offset gm).reg 0x3C5002 = s.reg 0x3C5002) ∧
      ∀ k, k ≠ 0x3C5002 → k ≠ 0x3C5003 → k ≠ 0x3C5004 → (s.syncShown offset gm).reg k = s.reg k := by
  unfold State.syncShown
  by_cases hg : 4 ≤ s.syncGood offset
  · simp only [if_pos hg]
    refine ⟨by simp, by simp, fun _ => by simp, fun h => absurd hg (Nat.not_le.mpr h), fun k h2 h3 h4 => ?_⟩
    rw [State.reg_setReg_ne _ _ _ _ h2.symm, State.reg_setReg_ne _ _ _ _ h4.symm, State.reg_setReg_ne _ _ _ _ h3.symm]
  · simp only [if_neg hg]
    refine ⟨by simp, by simp, fun h => absurd h hg, fun _ => by simp, fun k h2 h3 h4 => ?_⟩
    rw [State.reg_setReg_ne _ _ _ _ h4.symm, State.reg_setReg_ne _ _ _ _ h3.symm]

/-- An offset that is followed moves the time base, is shown, and gives the crystal's error while synchronised. -/
theorem State.syncFollowed_effect (s : State) (u : Nat) (offset : Int) (gm every : Nat) :
    let t := (s.syncHeard u).syncFollowed offset gm every
    let seen := okey (0x3C00 + u) 0x10
    t.husk = { s.husk with timeOff := s.husk.timeOff + offset } ∧
      t.reg 0x3C5003 = unsignedOf 32 offset ∧ t.reg 0x3C5004 = gm ∧
      (offset.natAbs ≤ 50 → 3 ≤ s.net.good → t.reg 0x3C5002 = 1) ∧
      (50 < offset.natAbs ∨ s.net.good < 3 → t.reg 0x3C5002 = s.reg 0x3C5002) ∧ t.net.syncAt = s.now ∧
      t.net.syncEvery = every ∧
      (s.reg 0x3C5002 = 1 → s.net.syncAt < s.now →
        t.cal = { s.cal with xtalErr := -offset * 100000000 / (s.now - s.net.syncAt : Nat) }) ∧
      (s.reg 0x3C5002 ≠ 1 → t.cal = s.cal) ∧
      t.reg seen = (s.reg seen + 2) % 2 ^ 32 ∧
      (∀ k, k ≠ 0x3C5002 → k ≠ 0x3C5003 → k ≠ 0x3C5004 → k ≠ seen → t.reg k = s.reg k) ∧
      t = { s with husk := t.husk, od := t.od, net := t.net, cal := t.cal } := by
  intro t seen
  have hreg (k : Nat) : t.reg k = ((s.syncHeard u).syncShown offset gm).reg k := rfl
  have h2 : (s.syncHeard u).reg 0x3C5002 = s.reg 0x3C5002 := State.syncHeard_reg s u (by decide)
  have hcal : t.cal = ((s.syncHeard u).measureXtal offset).cal := rfl
  have hseen : seen ≠ 0x3C5002 ∧ seen ≠ 0x3C5003 ∧ seen ≠ 0x3C5004 := by
    simp only [seen, okey]
    omega
  obtain ⟨hoffset, hgm, hlocked, hopen, hrest⟩ := State.syncShown_reg (s.syncHeard u) offset gm
  refine ⟨rfl, hoffset, hgm, fun hgood hrow => ?_, fun hbad => ?_, rfl, rfl, fun hsync hold => ?_, fun hsync => ?_, ?_,
    fun k h2 h3 h4 hk => ?_, rfl⟩
  · refine hlocked ?_
    show 4 ≤ if offset.natAbs ≤ 50 then min 4 (s.net.good + 1) else 0
    rw [if_pos hgood]
    omega
  · refine (hopen ?_).trans h2
    show (if offset.natAbs ≤ 50 then min 4 (s.net.good + 1) else 0) < 4
    split <;> omega
  · rw [hcal, State.measureXtal, if_pos ⟨h2.trans hsync, hold⟩]
    rfl
  · rw [hcal, State.measureXtal, if_neg fun h => hsync (h2.symm.trans h.1)]
    rfl
  · rw [hreg, hrest _ hseen.1 hseen.2.1 hseen.2.2]
    exact State.reg_bump_self _ _ _
  · rw [hreg, hrest k h2 h3 h4]
    exact State.reg_bump_ne _ _ _ _ (Ne.symm hk)

/-! CAN FD and the whole -/

theorem execNmtCommand_of_up {s : State} (hrun : s.netRuns = true) (hup : s.portUp 3 = true) :
    exec .nmtCommand s = .next { s.setReg (okey 0x3C03 0x10) ((s.reg (okey 0x3C03 0x10) + 1) % 2 ^ 32) with
      net := { s.net with nmt := s.net.nmt + 1 } } := by
  show execNmtCommand s = _
  simp only [execNmtCommand, hrun, hup]
  rfl

theorem execHeartbeat_of_due {s : State} (hrun : s.netRuns = true) (hup : s.portUp 3 = true) (hon : s.inForce 0x3C6101 ≠ 0)
    (hdue : s.net.beatAt + s.inForce 0x3C6101 * 1000000 ≤ s.now) :
    exec .heartbeat s = .next (let t := ({ s with net := { s.net with beatAt := s.now } } : State).bump (okey 0x3C03 0x11)
      { t with out := t.out ++ [.canHeartbeat false] }) := by
  show execHeartbeat s = _
  simp only [execHeartbeat, hrun, hup, decide_eq_false hon, decide_eq_false (Nat.not_lt.mpr hdue)]
  rfl

theorem execHeartbeat_of_early {s : State}
    (h : s.inForce 0x3C6101 = 0 ∨ s.now < s.net.beatAt + s.inForce 0x3C6101 * 1000000) : exec .heartbeat s = .next s := by
  show execHeartbeat s = _
  unfold execHeartbeat
  rw [if_pos]
  rcases h with h | h <;> simp [h]

theorem execSyncLoss_of_held {s : State} (h : s.reg 0x3C5002 ≠ 1 ∨ s.now < s.net.syncAt + 3 * s.net.syncEvery) :
    exec .syncLoss s = .next s := by
  show execSyncLoss s = _
  unfold execSyncLoss
  rw [if_pos]
  exact h.elim .inl fun h => .inr (.inl h)

theorem execSyncLoss_of_lost {s : State} (hrun : s.netRuns = true) (hsync : s.reg 0x3C5002 = 1)
    (hlost : s.net.syncAt + 3 * s.net.syncEvery ≤ s.now) :
    exec .syncLoss s = .next { s.setReg 0x3C5002 2 with net := { s.net with good := 0, far := [] } } := by
  show execSyncLoss s = _
  unfold execSyncLoss
  rw [if_neg]
  simp [hrun, hsync, hlost]

theorem syncTaken_of_source {s : State} {u src every : Nat} (hsrc : u = 0 ∨ src = s.inForce 0x3C5005)
    (hlow : 31250000 ≤ every) (hhigh : every ≤ 1000000000) : s.syncTaken u src every = true := by
  unfold State.syncTaken
  rcases hsrc with h | h <;> simp [h, hlow, hhigh]

theorem syncTaken_of_stranger {s : State} {u src every : Nat}
    (h : (u = 1 ∧ src ≠ s.inForce 0x3C5005) ∨ every < 31250000 ∨ 1000000000 < every) : s.syncTaken u src every = false := by
  unfold State.syncTaken
  rcases h with ⟨rfl, h⟩ | h | h
  · simp [h]
  · simp [Nat.not_le.mpr h]
  · simp [Nat.not_le.mpr h]

/-- Far offsets while synchronised: counted, until the eighth in a row that agrees, to which the time base steps (R216). -/
theorem farSync_effect (s : State) (u src gm origin every : Nat) (peer : Nat × Nat × Nat × Nat) (hrun : s.netRuns = true)
    (hport : s.ptpPort = some u) (hup : s.portUp u = true) (htaken : s.syncTaken u src every = true)
    (hsync : s.reg 0x3C5002 = 1) (hfar : 1000000 < (s.syncOffset origin peer).natAbs) :
    let offset := s.syncOffset origin peer
    let sync : Instr := .sync src gm origin every peer
    let seen := okey (0x3C00 + u) 0x10
    (s.net.far.length < 7 →
      ∃ t, exec sync s = .next t ∧ t.husk = s.husk ∧ t.cal = s.cal ∧
        t.reg 0x3C5006 = (s.reg 0x3C5006 + 1) % 2 ^ 32 ∧ t.reg seen = (s.reg seen + 2) % 2 ^ 32 ∧
        (∀ k, k ≠ 0x3C5006 → k ≠ seen → t.reg k = s.reg k) ∧ t.net.far.length ≤ s.net.far.length + 1) ∧
    (s.net.far.length = 7 → (∀ y ∈ s.net.far, (offset - y).natAbs ≤ 1000) →
      ∃ t, exec sync s = .next t ∧ t.husk = { s.husk with timeOff := s.husk.timeOff + offset } ∧ t.net.far = []) := by
  intro offset sync seen
  have hexec : exec sync s = .next (if 8 ≤ (s.syncFar offset).length then (s.syncHeard u).syncStepped offset gm every
      else (s.syncHeard u).syncIgnored offset every) := execSync_of_far hrun hport hup htaken ⟨hsync, hfar⟩
  have hlen : (s.syncFar offset).length ≤ s.net.far.length + 1 := by
    unfold State.syncFar
    split <;> simp
  have hseen : seen ≠ 0x3C5006 := by
    simp only [seen, okey]
    omega
  constructor
  · intro hfew
    rw [if_neg (by omega)] at hexec
    have hreg (k : Nat) : ((s.syncHeard u).syncIgnored offset every).reg k = ((s.syncHeard u).bump 0x3C5006).reg k := rfl
    refine ⟨_, hexec, rfl, rfl, ?_, ?_, fun k h6 hk => ?_, hlen⟩
    · rw [hreg, State.reg_bump_self, State.syncHeard_reg s u (by decide)]
      rfl
    · rw [hreg, State.reg_bump_ne _ _ _ _ hseen.symm]
      exact State.reg_bump_self s seen 2
    · rw [hreg, State.reg_bump_ne _ _ _ _ h6.symm]
      exact State.reg_bump_ne s seen k 2 hk.symm
  · intro hseven hagree
    have height : 8 ≤ (s.syncFar offset).length := by
      have hall : agree s.net.far offset = true := by simpa [agree] using hagree
      unfold State.syncFar
      rw [if_pos hall, List.length_append, hseven]
      exact le_rfl
    rw [if_pos height] at hexec
    exact ⟨_, hexec, rfl, rfl⟩

theorem timeAndBeaconsPart_holds : timeAndBeaconsPart := by
  intro s hrun coord
  refine ⟨execBeacon_of_up hrun, fun hon hlate hc => execPlcaInactive_of_silent hon hlate hc, execPlcaInactive_of_kept,
    fun src gm origin every peer hport => execSync_of_unbound src gm origin every peer hport,
    fun u src gm origin every peer hport => ⟨execSync_of_down src gm origin every peer hport, fun hup hbad =>
      execSync_of_refused gm origin peer hrun hport hup (syncTaken_of_stranger hbad)⟩,
    fun u src gm origin every t1 t2 t3 t4 hport hup hsrc hlow hhigh => ?_,
    fun _ hearly => execSyncLoss_of_held (.inr hearly), execSyncLoss_of_lost hrun, fun hsync => execSyncLoss_of_held (.inl hsync),
    fun hup => ⟨execNmtCommand_of_up hrun hup, fun hon hdue => ⟨_, execHeartbeat_of_due hrun hup hon hdue, rfl, rfl, ?_, rfl⟩⟩,
    execHeartbeat_of_early⟩
  · have htaken := syncTaken_of_source hsrc hlow hhigh
    intro delay offset sync seen
    have hoffset : s.syncOffset origin (t1, t2, t3, t4) = offset := State.syncOffset_eq s origin t1 t2 t3 t4
    rw [← hoffset]
    refine ⟨fun hnear => ⟨_, execSync_of_near hrun hport hup htaken hnear, State.syncFollowed_effect s u _ gm every⟩,
      fun hsync hfar => ?_, fun hsync hfar => ?_⟩
    · exact (farSync_effect s u src gm origin every _ hrun hport hup htaken hsync hfar).1
    · exact (farSync_effect s u src gm origin every _ hrun hport hup htaken hsync hfar).2
  · exact State.reg_bump_self _ _ _

/-- Settles O48: a port's state, PLCA and the time base follow what each event tells where the network runs, and nothing else. -/
theorem portsAndTimeComplete : Obligations.PortsAndTimeComplete := ⟨portStatesPart_holds, timeAndBeaconsPart_holds⟩

end Sys2Proof.Machine
end

section
/-! SUPPORT. Calibration of pods: its end with a pair and without, and the drift ratio of an active pod. -/

namespace Sys2Proof.Machine

open Sys2Proof

/-! Pods -/

theorem State.pod_onPod_self (s : State) {i : Nat} (f : Pod → Pod) (h : i < s.pods.length) : (s.onPod i f).pod i = f (s.pod i) :=
  getD_upd_self _ _ _ _ h

/-! Registers that the record of a pod may write: those of its retirement and of the end of the group that counted on it
(R57, R320) -/

/-- No register of a retirement, of the end of an update group or of its report. -/
def keptByRetirement (k : Nat) : Prop := 3 < k % 256 ∧ k < 2 ^ 24 ∧ k ≠ 0x4C2104 ∧ k ≠ 0x4C2404

theorem State.dropGroup_reg (s : State) {k : Nat} (h : 3 < k % 256) : s.dropGroup.reg k = s.reg k := by
  have hprogram (t : State) (sp : Nat) : (if t.reg 0x300300 = sp then t.setReg 0x300300 0xFF else t).reg k = t.reg k := by
    split
    · exact State.reg_setReg_ne _ _ _ _ (by omega)
    · rfl
  have hspare (t : State) (sp v : Nat) : (t.spareState sp v).reg k = t.reg k := State.spareState_reg t sp v k (by omega)
  unfold State.dropGroup
  split
  · rfl
  · refine foldl_view (·.reg k) _ (fun t m => ?_) _ s
    dsimp only
    split
    · split
      · exact (hprogram _ _).trans (hspare _ _ _)
      · rfl
    · rfl

theorem State.reportEnd_reg (s : State) (kind party st sub detail : Nat) {k : Nat} (h : keptByRetirement k) :
    (s.reportEnd kind party st sub detail).reg k = s.reg k := by
  obtain ⟨hsub, hown, hload, hupdate⟩ := h
  by_cases hkind : kind = pendLoad
  · rw [hkind, State.reportEnd_reg_of_load s party st sub detail hown, State.reg_setReg_ne _ _ _ _ (Ne.symm hload),
      State.reg_setReg_ne _ _ _ _ (by omega), State.reg_setReg_ne _ _ _ _ (by omega)]
  · rw [State.reportEnd_reg_of_update s kind party st sub detail k hkind, State.reg_setReg_ne _ _ _ _ (Ne.symm hupdate)]

theorem State.groupLoses_reg (s : State) (c : Nat) {k : Nat} (h : keptByRetirement k) : (s.groupLoses c).reg k = s.reg k := by
  unfold State.groupLoses State.endGroup
  split
  · split
    · split
      · rfl
      · exact (State.reportEnd_reg _ _ _ _ _ _ h).trans (State.dropGroup_reg s h.1)
    · rfl
  · rfl

theorem State.retirePod_reg (s : State) (i : Nat) {k : Nat} (h : keptByRetirement k) : (s.retirePod i).2.reg k = s.reg k := by
  have hne (index sub : Nat) (hsub : sub ≤ 3) : okey index sub ≠ k := by
    rintro rfl
    have := h.1
    unfold okey at this
    omega
  unfold State.retirePod
  dsimp only
  split
  · rfl
  · split
    · rfl
    · split
      · rw [State.groupLoses_reg _ _ h]
        unfold podReg cluReg
        rw [State.reg_setReg_ne _ _ _ _ (hne _ 2 (by decide)), State.reg_setReg_ne _ _ _ _ (hne _ 3 (by decide)),
          State.reg_setReg_ne _ _ _ _ (hne _ 1 (by decide))]
        rfl
      · rfl

theorem State.countUnit_reg (s : State) (r : FaultRec) (u : Nat) {k : Nat} (h : keptByRetirement k) :
    (s.countUnit r u).2.reg k = s.reg k := by
  unfold State.countUnit
  dsimp only
  split
  · split
    · exact State.retirePod_reg s _ h
    · rfl
  · rfl

/-- A pod's own record writes, beside the counters of records, only registers of a retirement. -/
theorem State.fault_reg_of_pod (s : State) (cls cause party detail : Nat) {unit k : Nat} (hunit : unit / 4096 = 2)
    (hk : ¬ recordCounter k) (h : keptByRetirement k) : (s.fault cls cause unit party detail).reg k = s.reg k := by
  have hcount (t : State) (r : FaultRec) (hr : r.unit / 4096 = 2) : (t.countRec r).2.reg k = t.reg k := by
    unfold State.countRec
    extract_lets q
    rw [if_neg (c := _ ∨ _) (by omega)]
    split
    · exact State.countUnit_reg t r r.unit h
    · rfl
  refine State.raise_reg s _ hk fun t ht => (hcount t _ hunit).trans ?_
  simp only [State.reg, ht]

/-! Quality of a pod (R65, Table CAL-4) -/

theorem mem_sins {l : List Nat} {x y : Nat} : y ∈ sins l x ↔ y = x ∨ y ∈ l := by
  induction l with
  | nil => simp [sins]
  | cons z l ih =>
    unfold sins
    split
    · simp
    · split
      case isTrue hz => simp [hz]
      case isFalse => simp [ih, or_left_comm]

/-- A test of a set after keys are put into it. -/
theorem any_foldl_sins (p : Nat → Bool) (key : Nat → Nat) (l m : List Nat) :
    (l.foldl (fun m g => sins m (key g)) m).any p = (m.any p || l.any fun g => p (key g)) := by
  induction l generalizing m with
  | nil => simp
  | cons g l ih =>
    rw [List.foldl_cons, ih, List.any_cons, ← Bool.or_assoc]
    congr 1
    rw [Bool.eq_iff_iff]
    simp only [List.any_eq_true, Bool.or_eq_true, mem_sins, or_and_right, exists_or, exists_eq_left, or_comm]

/-- A code of a unit stands clamped. -/
def Cal.clamped (c : Cal) (unit : Nat) : Bool := (c.limited.any fun k => k / 4096 = unit) || c.baseLimit.any fun k => k / 4096 = unit

theorem State.showQuality_reg (s : State) (pod : Nat) :
    (s.showQuality pod).reg (calReg pod 4) = if s.cal.clamped (unitPod pod) then 3 else mget 4 s.cal.quality pod :=
  State.reg_setReg_self _ _ _

theorem State.newResid_reg (s : State) (pod : Nat) {k : Nat} (h : calReg pod 5 ≠ k) : (s.newResid pod).reg k = s.reg k :=
  State.reg_setReg_ne _ _ _ _ h

theorem calReg_ne {pod i j : Nat} (h : i ≠ j) : calReg pod i ≠ calReg pod j := by
  unfold calReg okey
  omega

theorem calReg_not_recordCounter {pod sub : Nat} (hpod : pod < 40) (hsub : sub < 256) : ¬ recordCounter (calReg pod sub) := by
  unfold recordCounter calReg okey
  omega

end Sys2Proof.Machine
end

section
/-! PROOF. Spare calibration's last slice, drift ratios and temperature compensation. -/

namespace Sys2Proof.Machine

open Sys2Proof

/-! The last slice of a spare's calibration (R66, R67, R70) -/

/-- The trims that a calibration leaves for the boundary, clamped to their ranges. -/
def calTrims (base offs : List Int) : List (Nat × Int) :=
  ((List.range 132).map fun g => (g, clampI 0 63 (base.getD g 16))) ++
    (List.range 132).map fun g => (132 + g, clampI (-32) 31 (offs.getD g 0))

/-- Every code that a calibration gives lies in its range. -/
def calHolds (base offs : List Int) : Prop :=
  ∀ g, g < 132 → 0 ≤ base.getD g 16 ∧ base.getD g 16 ≤ 63 ∧ -32 ≤ offs.getD g 0 ∧ offs.getD g 0 ≤ 31

theorem trimRange_podGain {pod g : Nat} (hpod : pod < 40) (hg : g < 132) : trimRange (trimKey (unitPod pod) g) = (0, 63) := by
  have hunit : trimKey (unitPod pod) g / 4096 / 4096 = 2 := by
    rw [trimKey_div (by omega)]
    unfold unitPod
    omega
  unfold trimRange
  rw [trimKey_mod (by omega), if_pos hunit, if_pos hg]

theorem trimRange_podOffset {pod g : Nat} (hpod : pod < 40) (hg : g < 132) :
    trimRange (trimKey (unitPod pod) (132 + g)) = (-32, 31) := by
  have hunit : trimKey (unitPod pod) (132 + g) / 4096 / 4096 = 2 := by
    rw [trimKey_div (by omega)]
    unfold unitPod
    omega
  unfold trimRange
  rw [trimKey_mod (by omega), if_pos hunit, if_neg (by omega)]

/-- The trims of one unit that a test selects, among the clamped ones of that unit. -/
theorem any_clampedKeys (unit : Nat) (l : List Nat) (hl : ∀ g ∈ l, g < 4096) :
    (l.any fun g => decide (trimKey unit g / 4096 = unit)) = !l.isEmpty := by
  cases l with
  | nil => rfl
  | cons g l => simp [trimKey_div (hl g List.mem_cons_self)]

/-- The trims of a unit leave the clamped ones when its calibration ends. -/
theorem any_otherUnits (unit : Nat) (l : List Nat) :
    ((l.filter fun k => decide (k / 4096 ≠ unit)).any fun k => decide (k / 4096 = unit)) = false := by
  simp

/-- Groups whose gain code a calibration clamps, and those whose offset code it does. -/
def clampedGains (pod : Nat) (base : List Int) : List Nat :=
  (List.range 132).filter fun g => trimClamped (trimKey (unitPod pod) g) (base.getD g 16)
def clampedOffsets (pod : Nat) (offs : List Int) : List Nat :=
  (List.range 132).filter fun g => trimClamped (trimKey (unitPod pod) (132 + g)) (offs.getD g 0)

theorem calHolds_iff {pod : Nat} (hpod : pod < 40) (base offs : List Int) :
    calHolds base offs ↔ clampedGains pod base = [] ∧ clampedOffsets pod offs = [] := by
  simp only [calHolds, clampedGains, clampedOffsets, List.filter_eq_nil_iff, List.mem_range, ← forall_and]
  refine forall_congr' fun g => imp_congr_right fun hg => ?_
  simp only [trimClamped, trimRange_podGain hpod hg, trimRange_podOffset hpod hg, decide_eq_true_eq]
  omega

/-- The calibration of a pod ends with some trims clamped, of this pod exactly those just clamped. -/
theorem Cal.clamped_of_calibrated (c d : Cal) {pod : Nat} {base offs : List Int}
    (hlimited : d.limited = (clampedGains pod base).foldl (fun l g => sins l (trimKey (unitPod pod) g))
      (c.limited.filter fun k => k / 4096 ≠ unitPod pod))
    (hbase : d.baseLimit = (clampedGains pod base ++ (clampedOffsets pod offs).map (132 + ·)).foldl
      (fun l i => sins l (trimKey (unitPod pod) i)) (c.baseLimit.filter fun k => k / 4096 ≠ unitPod pod)) :
    d.clamped (unitPod pod) = false ↔ clampedGains pod base = [] ∧ clampedOffsets pod offs = [] := by
  have hgain : ∀ g ∈ clampedGains pod base, g < 4096 := fun g hg => by
    have := List.mem_range.1 (List.mem_of_mem_filter hg)
    omega
  have hall : ∀ g ∈ clampedGains pod base ++ (clampedOffsets pod offs).map (132 + ·), g < 4096 := fun g hg => by
    rcases List.mem_append.1 hg with hg | hg
    · exact hgain g hg
    · obtain ⟨i, hi, rfl⟩ := List.mem_map.1 hg
      have := List.mem_range.1 (List.mem_of_mem_filter hi)
      omega
  unfold Cal.clamped
  rw [hlimited, hbase, any_foldl_sins, any_foldl_sins, any_otherUnits, any_otherUnits, any_clampedKeys _ _ hgain,
    any_clampedKeys _ _ hall]
  simp [List.isEmpty_iff]

theorem State.newResid_pods (s : State) (pod : Nat) : (s.newResid pod).pods = s.pods := by
  unfold State.newResid State.setReg
  rfl

/-- What the end of a calibration with an agreeing pair leaves (R67). -/
theorem State.endCal_effect (s : State) {pod : Nat} (hpod : pod < 40) {base offs : List Int} {refs : List Nat} {t : State}
    (ht : s.endCal pod base offs refs = t) :
    t.pods = s.pods ∧ t.cal.verifyNext = some (pod, some (calTrims base offs, refs.take 15)) ∧ t.reg (calReg pod 8) = stOk ∧
      (calHolds base offs → t.reg (calReg pod 4) = 0) ∧ (¬ calHolds base offs → t.reg (calReg pod 4) = 3) ∧
      t.cal.applied = s.cal.applied ∧ t.cal.target = s.cal.target ∧ t.cal.calibrated = s.cal.calibrated ∧
      t.cal.vault = s.cal.vault := by
  unfold State.endCal at ht
  extract_lets unit codes bad badOff others s1 s2 at ht
  have htouch : touchesRecord s2 t := ht ▸ State.clampRecords_touches s2 (unitGroup pod)
    (fun _ g => unsignedOf 32 (clampI 0 63 (base.getD g 16))) bad
  have hreg (sub : Nat) (h : sub < 256) : t.reg (calReg pod sub) = s2.reg (calReg pod sub) :=
    ht ▸ State.clampRecords_reg s2 (unitGroup pod) (fun _ g => unsignedOf 32 (clampI 0 63 (base.getD g 16))) bad
      (calReg_not_recordCounter hpod h)
  clear ht
  have hcal : t.cal = s2.cal := by rw [htouch]
  have hpods : t.pods = s.pods := by
    rw [htouch]
    simp only [s2, s1, State.newResid_pods, State.showQuality, State.setReg_pods, State.onCal_pods]
  have hquality : s2.reg (calReg pod 4) = if s1.cal.clamped (unitPod pod) then 3 else 0 := by
    rw [State.newResid_reg _ _ (calReg_ne (by decide)), State.reg_setReg_ne _ _ _ _ (calReg_ne (by decide)),
      State.showQuality_reg]
    exact congrArg (ite _ 3) (mget_mset_self 4 s.cal.quality pod 0)
  have hclamped : s1.cal.clamped (unitPod pod) = false ↔ clampedGains pod base = [] ∧ clampedOffsets pod offs = [] :=
    Cal.clamped_of_calibrated s.cal s1.cal rfl rfl
  rw [← calHolds_iff hpod] at hclamped
  rw [hcal]
  refine ⟨hpods, rfl, ?_, fun hheld => ?_, fun hheld => ?_, rfl, rfl, rfl, rfl⟩
  · rw [hreg 8 (by decide), State.newResid_reg _ _ (calReg_ne (by decide)), State.reg_setReg_self]
  · rw [hreg 4 (by decide), hquality, hclamped.2 hheld]
    rfl
  · rw [hreg 4 (by decide), hquality, if_pos (by simpa using mt hclamped.1 hheld)]

/-! A pair that does not agree (R70) -/

theorem State.calUnstable_cal (s : State) (unit : Nat) : (s.calUnstable unit).cal = s.cal := by
  have h := State.fault_touches s.drawNat.2 clsCal 1 (recordUnit unit) noParty (s.drawNat.1 % 4294967296)
  unfold touchesFault at h
  exact (congrArg State.cal h).trans rfl

theorem State.calUnstable_newestRecord (s : State) (unit : Nat) :
    newestRecord (s.calUnstable unit) = some (clsCal, 1, recordUnit unit) :=
  State.fault_newestRecord _ _ _ _ _ _

theorem State.calUnstable_reg_of_plain (s : State) {unit k : Nat} (h : plainUnit (recordUnit unit)) (hk : ¬ recordCounter k) :
    (s.calUnstable unit).reg k = s.reg k :=
  (State.fault_reg_of_plain s.drawNat.2 _ _ _ _ h hk).trans (by simp only [State.reg, State.drawNat])

theorem State.calUnstable_pod_reg (s : State) {pod sub : Nat} (hpod : pod < 40) (h3 : 3 < sub) (hsub : sub < 256) :
    (s.calUnstable (unitPod pod)).reg (calReg pod sub) = s.reg (calReg pod sub) := by
  have hrecord : recordUnit (unitPod pod) / 4096 = 2 := by
    unfold recordUnit unitPod
    rw [if_neg (by omega), if_neg (by omega)]
    omega
  have hkept : keptByRetirement (calReg pod sub) := by
    unfold keptByRetirement calReg okey
    omega
  exact (State.fault_reg_of_pod s.drawNat.2 _ _ _ _ hrecord (calReg_not_recordCounter hpod hsub) hkept).trans
    (by simp only [State.reg, State.drawNat])

/-- What the end of a calibration without one leaves: the trims as they are, and a record of the pod (R70). -/
theorem State.endCalUnstable_effect (s : State) {pod : Nat} (hpod : pod < 40) {t : State} (ht : s.endCalUnstable pod = t) :
    t.cal.verifyNext = some (pod, none) ∧
      ((∀ k ∈ s.cal.limited ++ s.cal.baseLimit, k / 4096 ≠ unitPod pod) → t.reg (calReg pod 4) = 2) ∧
      t.cal.applied = s.cal.applied ∧ t.cal.target = s.cal.target ∧ t.cal.calibrated = s.cal.calibrated ∧
      t.cal.vault = s.cal.vault ∧ newestRecord t = some (clsCal, 1, unitPod pod) := by
  have hrecord : recordUnit (unitPod pod) = unitPod pod := by
    have h : unitPod pod / 4096 = 2 := by unfold unitPod; omega
    simp [recordUnit, h]
  unfold State.endCalUnstable at ht
  extract_lets s1 at ht
  have hcal : t.cal = s1.cal := ht ▸ State.calUnstable_cal (s1.showQuality pod) (unitPod pod)
  have hreg : t.reg (calReg pod 4) = (s1.showQuality pod).reg (calReg pod 4) :=
    ht ▸ State.calUnstable_pod_reg (s1.showQuality pod) hpod (by decide) (by decide)
  have hnewest : newestRecord t = some (clsCal, 1, recordUnit (unitPod pod)) :=
    ht ▸ State.calUnstable_newestRecord (s1.showQuality pod) (unitPod pod)
  rw [hcal]
  refine ⟨rfl, fun hnone => ?_, rfl, rfl, rfl, rfl, hrecord ▸ hnewest⟩
  have hclamped : s1.cal.clamped (unitPod pod) = false := by
    simp only [Cal.clamped, Bool.or_eq_false_iff, List.any_eq_false, decide_eq_true_eq]
    exact ⟨fun k hk => hnone k (List.mem_append_left _ hk), fun k hk => hnone k (List.mem_append_right _ hk)⟩
  rw [hreg, State.showQuality_reg, hclamped]
  exact mget_mset_self 4 s.cal.quality pod 2

end Sys2Proof.Machine
end

section
/-! PROOF. Spare calibration: what the last slice leaves. -/

namespace Sys2Proof.Machine

open Sys2Proof

/-! The last slice (R66, R67, R70) -/

/-- How many slices are left says nothing of a pod's columns. -/
theorem calSums_calLeft (p : Pod) (n g : Nat) : calSums { p with calLeft := n } g = calSums p g := by
  simp only [calSums, calSum]

theorem calRange_calLeft (p : Pod) (n g : Nat) : calRange { p with calLeft := n } g = calRange p g := by
  simp only [calRange, groupRange]

theorem calAmp_calLeft (p : Pod) (n g : Nat) : calAmp { p with calLeft := n } g = calAmp p g := by
  unfold calAmp
  rw [calSums_calLeft, calRange_calLeft]

theorem calGain_calLeft (p : Pod) (n : Nat) (m : CalMeas) (g amp : Nat) :
    calGain { p with calLeft := n } m g amp = calGain p m g amp := by
  simp only [calGain, calSums_calLeft, calRange_calLeft]

theorem calAgrees_calLeft (p : Pod) (n : Nat) (a b : CalMeas) : calAgrees { p with calLeft := n } a b = calAgrees p a b := by
  simp only [calAgrees, calAmp_calLeft, calGain_calLeft]

theorem State.calCodes_of_calLeft {s t : State} {i n : Nat} (hpod : t.pod i = { s.pod i with calLeft := n }) (hcal : t.cal = s.cal)
    (a b : CalMeas) : t.calCodes i a b = s.calCodes i a b := by
  simp only [State.calCodes, hpod, hcal, calAmp_calLeft, calGain_calLeft]

/-- What the last slice of a pod's calibration does, from the measurements that it ends with. -/
def State.lastSlice (s : State) (i : Nat) (a b : CalMeas) (refs : List Nat) : State :=
  let t := s.onPod i fun p => { p with calLeft := 0 }
  if calAgrees (s.pod i) a b then t.endCal i (s.calCodes i a b).1 (s.calCodes i a b).2 refs
  else if (s.pod i).calTries < 3 then t.onPod i fun p => { p with calLeft := s.calSlices, calTries := p.calTries + 1 }
  else t.endCalUnstable i

/-- The first pod that calibrates takes the slice. -/
theorem State.find_calibrating {s : State} {i : Nat} (hi : i < 40) (hbefore : ∀ j, j < i → (s.pod j).calLeft = 0)
    (hleft : (s.pod i).calLeft = 1) : ((List.range 40).find? fun i => decide ((s.pod i).calLeft ≠ 0)) = some i := by
  rw [List.find?_range_eq_some]
  refine ⟨by simp [hleft], List.mem_range.2 hi, fun j hj => by simp [hbefore j hj]⟩

theorem State.rotationSlice_of_last {s : State} {i : Nat} (a b : CalMeas) (refs : List Nat) (hi : i < 40)
    (hpods : s.pods.length = 40) (hbefore : ∀ j, j < i → (s.pod j).calLeft = 0) (hleft : (s.pod i).calLeft = 1)
    (hlift : s.liftKeep (i / 5) = false) (hgate : s.gateOff i = false) (hon : s.reg (okey (0x2420 + i / 5) 2) = 1) :
    s.rotationSlice a b refs = s.lastSlice i a b refs := by
  have hpod : (s.onPod i fun p => { p with calLeft := 0 }).pod i = { s.pod i with calLeft := 0 } :=
    s.pod_onPod_self _ (hpods ▸ hi)
  unfold State.rotationSlice State.lastSlice
  rw [State.find_calibrating hi hbefore hleft]
  dsimp only
  rw [if_neg (by simp [hlift, hgate, hon]), if_neg (by omega), State.calCodes_of_calLeft hpod rfl, hpod, calAgrees_calLeft]
  rfl

/-- The slice is taken: it is a task of KEEP, once in a frame (R51). -/
def State.takeSlice (s : State) : State := s.onFrame fun f => { f with tasksDone := setBit f.tasksDone 1 }

/-- ROTATION_SLICE of a last slice: the pod's cluster converts nothing until the slice ends (R51). -/
theorem exec_rotationSlice_of_last {s : State} {i : Nat} (a b : CalMeas) (refs : List Nat) (hopen : s.sliceOpen = true)
    (hi : i < 40) (hpods : s.pods.length = 40) (hbefore : ∀ j, j < i → (s.pod j).calLeft = 0) (hleft : (s.pod i).calLeft = 1)
    (hlift : s.liftKeep (i / 5) = false) (hgate : s.gateOff i = false) (hon : s.reg (okey (0x2420 + i / 5) 2) = 1) :
    exec (.rotationSlice a b refs) s = .next ((s.takeSlice.lastSlice i a b refs).holdSlice (some i)) := by
  have hslice : s.takeSlice.rotationSlice a b refs = s.takeSlice.lastSlice i a b refs :=
    State.rotationSlice_of_last a b refs hi hpods hbefore hleft hlift hgate hon
  have hpod : s.takeSlice.slicePod = some i := by
    unfold State.slicePod
    rw [State.find_calibrating (s := s.takeSlice) hi hbefore hleft]
  have hexec : execRotationSlice a b refs s = .next (if !s.sliceOpen then s else
      let pod := s.takeSlice.slicePod <|> (s.takeSlice.rotationSlice a b refs).slicePod
      if pod.isSome then (s.takeSlice.rotationSlice a b refs).holdSlice pod
      else (s.takeSlice.rotationSlice a b refs).winnowVector) := rfl
  refine hexec.trans ?_
  simp [hopen, hslice, hpod]

theorem State.holdSlice_pod (s : State) (o : Option Nat) (i : Nat) : (s.holdSlice o).pod i = s.pod i := by cases o <;> rfl

theorem State.holdSlice_cal (s : State) (o : Option Nat) : (s.holdSlice o).cal = s.cal := by cases o <;> rfl

theorem State.holdSlice_reg (s : State) (o : Option Nat) (k : Nat) : (s.holdSlice o).reg k = s.reg k := by cases o <;> rfl

theorem State.onPod_pods_length (s : State) (i : Nat) (f : Pod → Pod) : (s.onPod i f).pods.length = s.pods.length :=
  length_upd _ _ _

theorem calibrationSlicesPart_holds : calibrationSlicesPart := by
  intro s i a b refs hopen hi hpods hbefore hleft hlift hgate hon codes held
  have hexec := exec_rotationSlice_of_last a b refs hopen hi hpods hbefore hleft hlift hgate hon
  obtain ⟨u, hu⟩ : ∃ u, (s.takeSlice.onPod i fun p => { p with calLeft := 0 }) = u := ⟨_, rfl⟩
  have hpod : u.pod i = { s.pod i with calLeft := 0 } := hu ▸ State.pod_onPod_self s.takeSlice _ (hpods ▸ hi)
  have hcal : u.cal = s.cal := hu ▸ rfl
  have hlast : s.takeSlice.lastSlice i a b refs =
      if calAgrees (s.pod i) a b then u.endCal i (s.calCodes i a b).1 (s.calCodes i a b).2 refs
      else if (s.pod i).calTries < 3 then u.onPod i fun p => { p with calLeft := s.calSlices, calTries := p.calTries + 1 }
      else u.endCalUnstable i := hu ▸ rfl
  refine ⟨fun hagree => ⟨_, hexec, ?_⟩, fun hagree htries => ⟨_, hexec, ?_⟩, fun hagree htries => ⟨_, hexec, ?_⟩⟩
  · rw [hlast, if_pos hagree]
    obtain ⟨t, ht⟩ : ∃ t, u.endCal i (s.calCodes i a b).1 (s.calCodes i a b).2 refs = t := ⟨_, rfl⟩
    obtain ⟨htpods, hverify, hok, hfresh, hlimit, happlied, htarget, hcalibrated, hvault⟩ := State.endCal_effect u hi ht
    have htpod : t.pod i = u.pod i := by unfold State.pod; rw [htpods]
    rw [ht]
    simp only [State.holdSlice_pod, State.holdSlice_cal, State.holdSlice_reg, ← hcal]
    exact ⟨by rw [htpod, hpod], hverify, hok, hfresh, hlimit, happlied, htarget, hcalibrated, hvault⟩
  · rw [hlast, if_neg (by simp [hagree]), if_pos htries]
    have hlen : i < u.pods.length := by
      rw [← hu, State.onPod_pods_length]
      exact hpods ▸ hi
    rw [State.holdSlice_pod, State.holdSlice_cal, State.pod_onPod_self u _ hlen, hpod]
    exact ⟨rfl, hcal⟩
  · rw [hlast, if_neg (by simp [hagree]), if_neg (by omega)]
    obtain ⟨t, ht⟩ : ∃ t, u.endCalUnstable i = t := ⟨_, rfl⟩
    have heffect := State.endCalUnstable_effect u hi ht
    rw [ht]
    rw [hcal] at heffect
    exact heffect

end Sys2Proof.Machine
end

section
/-! PROOF. Drift ratios and temperature compensation. -/

namespace Sys2Proof.Machine

open Sys2Proof

/-! Drift ratios (R68, R69) -/

/-- A drift ratio is formed where both sums are positive (log 141). -/
theorem driftRho_eq (p : Pod) : driftRho p =
    let moved := (List.range 15).foldl (fun a m => a + (p.driftAcc.getD (m + 1) 0 - p.driftAcc.getD 0 0)) (0 : Int)
    let ref := p.refs.foldl (· + ·) 0
    if ref = 0 ∨ roundDiv (1000000 * moved) ref ≤ 0 then none
    else some ((roundDiv (1000000 * moved) ref).toNat % 4294967296) := rfl

/-- What a formed ratio does. -/
def State.driftFormed (s : State) (pod rho : Nat) : State :=
  (((s.setReg (calReg pod 7) rho).newResid pod).moveDrift pod rho).limitCheck pod

theorem State.moveDrift_touches (s : State) (pod rho : Nat) :
    s.moveDrift pod rho =
      { s with cal := { s.cal with drift := (s.moveDrift pod rho).cal.drift, target := (s.moveDrift pod rho).cal.target } } := by
  unfold State.moveDrift
  split
  · rw [State.podTargets_eq]
    generalize State.podTargetCodes _ pod = l
    rfl
  · rfl

theorem State.moveDrift_of_not {s : State} {pod rho : Nat} (h : driftMoves rho (mget 0 s.cal.drift pod) = false) :
    s.moveDrift pod rho = s := by
  simp [State.moveDrift, h]

/-- A pod's moved drift term, and what it makes of the targets of the groups that take it. -/
theorem State.moveDrift_of_moves {s : State} {pod rho : Nat} (hpod : pod < 40)
    (h : driftMoves rho (mget 0 s.cal.drift pod) = true) :
    mget 0 (s.moveDrift pod rho).cal.drift pod = driftTerm rho ∧
      ∀ g, g < 128 → trimGet (s.moveDrift pod rho).cal.target (trimKey (unitPod pod) g) =
        clampI 0 63 (trimGet s.cal.calibrated (trimKey (unitPod pod) g) + driftTerm rho) := by
  unfold State.moveDrift
  rw [if_pos h, State.podTargets_eq]
  refine ⟨mget_mset_self 0 s.cal.drift pod _, fun g hg => ?_⟩
  set t := s.onCal fun c => { c with drift := mset 0 c.drift pod (driftTerm rho) }
  have hmem : (trimKey (unitPod pod) g, clampI 0 63 (t.podCode pod g)) ∈ t.podTargetCodes pod := by
    refine List.mem_map.2 ⟨g, List.mem_range.2 (by omega), ?_⟩
    rw [trimRange_podGain hpod (by omega)]
  have hcode : t.podCode pod g = trimGet s.cal.calibrated (trimKey (unitPod pod) g) + driftTerm rho := by
    unfold State.podCode State.gainCode
    rw [if_pos (by omega), if_neg (by omega)]
    exact congrArg _ (mget_mset_self 0 s.cal.drift pod _)
  rw [← hcode]
  have hkeys := t.podTargetCodes_keys pod
  generalize t.podTargetCodes pod = l at hkeys hmem ⊢
  exact trimGet_trimSets l s.cal.target hkeys hmem

theorem State.newResid_cal (s : State) (pod : Nat) :
    (s.newResid pod).cal = { s.cal with resid := (s.newResid pod).cal.resid } := by
  unfold State.newResid
  rw [State.setReg_cal]

/-- What a formed ratio leaves (R65, R69, R79). -/
theorem State.driftFormed_effect (s : State) {pod : Nat} (hpod : pod < 40) (rho : Nat) {t : State}
    (ht : s.driftFormed pod rho = t) :
    t.pods = s.pods ∧ t.reg (calReg pod 7) = rho ∧ t.cal.applied = s.cal.applied ∧
      (driftMoves rho (mget 0 s.cal.drift pod) = true → mget 0 t.cal.drift pod = driftTerm rho ∧
        ∀ g, g < 128 → trimGet t.cal.target (trimKey (unitPod pod) g) =
          clampI 0 63 (trimGet s.cal.calibrated (trimKey (unitPod pod) g) + driftTerm rho)) ∧
      (driftMoves rho (mget 0 s.cal.drift pod) = false → t.cal.drift = s.cal.drift ∧ t.cal.target = s.cal.target) := by
  obtain ⟨u, hu⟩ : ∃ u, (s.setReg (calReg pod 7) rho).newResid pod = u := ⟨_, rfl⟩
  have hupods : u.pods = s.pods := hu ▸ State.newResid_pods _ _
  have hureg : u.reg (calReg pod 7) = rho := by
    rw [← hu, State.newResid_reg _ _ (calReg_ne (by decide)), State.reg_setReg_self]
  have hucal : u.cal = { s.cal with resid := u.cal.resid } := hu ▸ State.newResid_cal _ _
  have hmoves : driftMoves rho (mget 0 u.cal.drift pod) = driftMoves rho (mget 0 s.cal.drift pod) := by rw [hucal]
  have hcalibrated : u.cal.calibrated = s.cal.calibrated := by rw [hucal]
  have hv := u.moveDrift_touches pod rho
  have hmoved := State.moveDrift_of_moves (s := u) (rho := rho) hpod
  have hstays := State.moveDrift_of_not (s := u) (pod := pod) (rho := rho)
  unfold State.driftFormed at ht
  rw [hu] at ht
  obtain ⟨v, hw⟩ : ∃ v, u.moveDrift pod rho = v := ⟨_, rfl⟩
  rw [hw] at ht hv hmoved hstays
  have htouch : touchesRecord { v with cal := { v.cal with limited := t.cal.limited } } t := ht ▸ State.limitCheck_touches v pod
  have hcal : t.cal = { v.cal with limited := t.cal.limited } := ht ▸ State.limitCheck_cal v pod
  have hreg : t.reg (calReg pod 7) = v.reg (calReg pod 7) :=
    ht ▸ State.limitCheck_reg v pod (calReg_not_recordCounter hpod (by decide)) (calReg_ne (by decide))
  refine ⟨?_, ?_, ?_, fun h => ?_, fun h => ?_⟩
  · rw [htouch]
    show v.pods = s.pods
    rw [hv]
    exact hupods
  · rw [hreg, hv]
    exact hureg
  · rw [hcal, hv, hucal]
  · rw [hcal]
    exact hcalibrated ▸ hmoved (hmoves.trans h)
  · rw [hcal, hstays (hmoves.trans h), hucal]
    exact ⟨rfl, rfl⟩

/-! The temperature compensation (R76) -/

/-- One unit's component is evaluated. -/
def State.compensate (s : State) (x : Nat × (Int × Int × Int × Int) × Nat) : State :=
  let p := polyAt x.2.1 (s.sensorAt x.2.2)
  if 600 * 64000000 < (p - mget 0 s.cal.comp x.1 * 1000 * 64000000).natAbs then
    (s.onCal fun c => { c with comp := mset 0 c.comp x.1 (roundDiv p (1000 * 64000000)) }).compTarget x.1
  else s

/-- What evaluating a component may touch: components and targets. -/
def touchesComp (s t : State) : Prop := t = { s with cal := { s.cal with comp := t.cal.comp, target := t.cal.target } }

theorem State.compensate_touches (s : State) (x : Nat × (Int × Int × Int × Int) × Nat) : touchesComp s (s.compensate x) := by
  unfold touchesComp State.compensate
  dsimp only
  split <;> rfl

theorem State.compensate_self (s : State) (x : Nat × (Int × Int × Int × Int) × Nat) :
    mget 0 (s.compensate x).cal.comp x.1 =
      let p := polyAt x.2.1 (s.sensorAt x.2.2)
      if 600 * 64000000 < (p - mget 0 s.cal.comp x.1 * 1000 * 64000000).natAbs then roundDiv p (1000 * 64000000)
      else mget 0 s.cal.comp x.1 := by
  unfold State.compensate
  dsimp only
  split
  · exact mget_mset_self 0 s.cal.comp x.1 _
  · rfl

theorem State.compensate_ne (s : State) (x : Nat × (Int × Int × Int × Int) × Nat) {u : Nat} (h : x.1 ≠ u) :
    mget 0 (s.compensate x).cal.comp u = mget 0 s.cal.comp u := by
  unfold State.compensate
  dsimp only
  split
  · exact mget_mset_ne 0 s.cal.comp h _
  · rfl

/-- The components of other units stay through an evaluation. -/
theorem State.foldl_compensate_of_absent {l : List (Nat × (Int × Int × Int × Int) × Nat)} {u : Nat} (h : ∀ x ∈ l, x.1 ≠ u)
    (s : State) : mget 0 (l.foldl State.compensate s).cal.comp u = mget 0 s.cal.comp u := by
  induction l generalizing s with
  | nil => rfl
  | cons x l ih =>
    rw [List.foldl_cons, ih fun y hy => h y (List.mem_cons_of_mem _ hy), State.compensate_ne _ _ (h x List.mem_cons_self)]

/-- Units with one component each: every one is moved by its own polynomial, from what stood before. -/
theorem State.foldl_compensate_of_mem {l : List (Nat × (Int × Int × Int × Int) × Nat)} (hl : (l.map (·.1)).Nodup)
    {x : Nat × (Int × Int × Int × Int) × Nat} (hx : x ∈ l) (s : State) :
    mget 0 (l.foldl State.compensate s).cal.comp x.1 = mget 0 (s.compensate x).cal.comp x.1 := by
  induction l generalizing s with
  | nil => cases hx
  | cons y l ih =>
    obtain ⟨hy, hl⟩ := List.nodup_cons.1 hl
    rw [List.foldl_cons]
    rcases List.mem_cons.1 hx with rfl | hx
    · exact State.foldl_compensate_of_absent (fun z hz e => hy (List.mem_map.2 ⟨z, hz, e⟩)) _
    · have hne : y.1 ≠ x.1 := fun e => hy (List.mem_map.2 ⟨x, hx, e.symm⟩)
      have hsensor : (s.compensate y).sensorAt x.2.2 = s.sensorAt x.2.2 := by
        have h := s.compensate_touches y
        unfold touchesComp at h
        rw [h]
        rfl
      rw [ih hl hx, State.compensate_self, State.compensate_self, State.compensate_ne _ _ hne, hsensor]

theorem exec_driftRatio_of_visits {s : State} {pod : Nat} (hactive : s.active = true) (hvisits : 16 ≤ (s.pod pod).visits) :
    exec (.driftRatio pod) s = .next (match driftRho (s.pod pod) with
      | none => s.onPod pod fun p => { p with visits := 0, driftAcc := [] }
      | some rho => (s.onPod pod fun p => { p with visits := 0, driftAcc := [] }).driftFormed pod rho) := by
  show execDriftRatio pod s = _
  unfold execDriftRatio
  rw [if_neg (by simp [hactive, hvisits])]
  rfl

theorem driftAndCompensationPart_holds : driftAndCompensationPart := by
  intro s hactive
  constructor
  · intro pod hpod hpods hvisits reads moved ref rho
    rw [exec_driftRatio_of_visits hactive hvisits, driftRho_eq]
    obtain ⟨u, hu⟩ : ∃ u, (s.onPod pod fun p => { p with visits := 0, driftAcc := [] }) = u := ⟨_, rfl⟩
    have hupod : (u.pod pod).visits = 0 := by rw [← hu, State.pod_onPod_self s _ (hpods ▸ hpod)]
    have hurest : u = { s with pods := u.pods } := hu ▸ rfl
    have hucal : u.cal = s.cal := hu ▸ rfl
    rw [hu]
    refine ⟨fun href hratio => ?_, fun hnone => ?_⟩
    · obtain ⟨t, ht⟩ : ∃ t, u.driftFormed pod rho = t := ⟨_, rfl⟩
      obtain ⟨htpods, hreg, happlied, hmoves, hstays⟩ := u.driftFormed_effect hpod rho ht
      dsimp only
      rw [if_neg (not_or.2 ⟨href.ne', not_le.2 hratio⟩)]
      rw [hucal] at happlied hmoves hstays
      refine ⟨t, congrArg _ ht, ?_, hreg, happlied, hmoves, hstays⟩
      unfold State.pod at hupod ⊢
      rwa [htpods]
    · dsimp only
      rw [if_pos hnone]
      exact ⟨u, rfl, hupod, hurest⟩
  · intro hdue hunits
    refine ⟨s.cal.poly.foldl State.compensate s, ?_, ?_, fun x hx => ?_⟩
    · show execCompensationEval s = _
      unfold execCompensationEval
      rw [if_neg (by simp [hactive, hdue])]
      rfl
    · exact foldl_rel touchesComp (fun _ => rfl) (fun h k => by unfold touchesComp at *; rw [k, h]) _ State.compensate_touches _ s
    · rw [State.foldl_compensate_of_mem hunits hx, State.compensate_self]

end Sys2Proof.Machine
end

section
/-! PROOF. Calibration of AFE channels: times, measurements, the post-check and the boundary. -/

namespace Sys2Proof.Machine

open Sys2Proof

/-! Times of an attempt (Table CAL-3) -/

theorem le_ceilDiv_mul (a : Nat) {b : Nat} (hb : 0 < b) : a ≤ ceilDiv a b * b := by
  unfold ceilDiv
  rw [if_neg (by omega)]
  have := Nat.lt_div_mul_add (a := a + b - 1) hb
  omega

/-- The times of a V or E channel. -/
theorem State.afeTime_of_lt (s : State) {i : Nat} (hi : i < 12) :
    s.afeTime i 3 = 500000 ∧ s.afeTime i 5 = 900000 ∧ s.afeTime i 6 = 1000000 ∧ s.afeTime i 7 = 2000000 := by
  simp [State.afeTime, Nat.not_le.2 hi]

/-- The times of a T channel are whole output words, and no shorter than a V channel's. -/
theorem State.afeTime_of_le (s : State) {i : Nat} (hi : 12 ≤ i) :
    s.afeTime i 3 % max 1 (s.samplePeriod i / 64) = 0 ∧ 500000 ≤ s.afeTime i 3 ∧
      s.afeTime i 7 % max 1 (s.samplePeriod i / 64) = 0 ∧ 2000000 ≤ s.afeTime i 7 := by
  unfold State.afeTime
  have hword : 0 < max 1 (s.samplePeriod i / 64) := by omega
  generalize max 1 (s.samplePeriod i / 64) = word at hword ⊢
  have h1 := le_ceilDiv_mul 100000 hword
  have h2 := le_ceilDiv_mul 200000 hword
  have h10 := le_ceilDiv_mul 1000000 hword
  simp only [hi, List.take, List.map, List.foldl, if_true, Nat.zero_add, ← Nat.add_mul, Nat.mul_mod_left, true_and]
  simp only [Nat.add_mul]
  omega

/-! The measurements (R70 to R72) -/

theorem State.endAfe_eq {s : State} {x : AfeCal} (h : s.cal.afe = some x) :
    s.endAfe = { s with cal := { s.cal with afe := none, susSpans := s.endAfe.cal.susSpans } } := by
  unfold State.endAfe
  rw [h]
  rfl

theorem afeReg_ne {i a b : Nat} (h : a ≠ b) : afeReg i a ≠ afeReg i b := by
  unfold afeReg okey
  omega

theorem afeReg_not_recordCounter {i sub : Nat} (hi : i < 16) (hsub : sub < 256) : ¬ recordCounter (afeReg i sub) := by
  unfold recordCounter afeReg okey
  omega

/-- The measurement of an attempt's stage is over. -/
def State.afeMeasured (s : State) (x : AfeCal) : Prop :=
  (x.stage = 1 ∧ s.afeTime x.ch 3 ≤ s.now - x.start) ∨ (x.stage = 2 ∧ s.afeTime x.ch 5 ≤ s.now - x.start)

/-- A channel that failed its calibration: its status is UNSTABLE and its row of NOT_QUIET attempts is broken (R70, R72). -/
def State.afeFailed (s : State) (i : Nat) : State :=
  ((((s.endAfe).onCal fun c => c.afeServed i).setReg (afeReg i 3) 2).setReg (afeReg i 10) 0).calUnstable (unitAfe i)

theorem exec_afeCalStep {s : State} {x : AfeCal} (a b : Int) (h : s.cal.afe = some x) (hm : s.afeMeasured x) :
    exec (.afeCalStep a b) s = .next (
      if (a - b).natAbs ≤ (if x.stage = 1 then 20 else 100) then
        s.onCal fun c => { c with afe := some (if x.stage = 1 then { x with stage := 2, offs := some (a, b), tries := 0 }
          else { x with stage := 3, gain := some (a, b), tries := 0 }) }
      else if x.tries < 3 then s.onCal fun c => { c with afe := some { x with tries := x.tries + 1 } }
      else s.afeFailed x.ch) := by
  show execAfeCalStep a b s = _
  unfold execAfeCalStep
  unfold State.afeMeasured at hm
  rw [h]
  dsimp only
  rw [if_pos hm]
  rfl

theorem State.afeFailed_effect {s : State} {x : AfeCal} (h : s.cal.afe = some x) (hx : x.ch < 16) {t : State}
    (ht : s.afeFailed x.ch = t) :
    t.cal.afe = none ∧ t.reg (afeReg x.ch 3) = 2 ∧ t.reg (afeReg x.ch 10) = 0 ∧ t.cal.target = s.cal.target ∧
      newestRecord t = some (clsCal, 1, unitAfe x.ch) := by
  have hrecord : recordUnit (unitAfe x.ch) = unitAfe x.ch := by
    unfold recordUnit unitAfe
    rw [if_neg (by omega), if_neg (by omega)]
  have hplain : plainUnit (recordUnit (unitAfe x.ch)) := by
    rw [hrecord]
    unfold plainUnit unitAfe
    omega
  have hcal := State.endAfe_eq h
  unfold State.afeFailed at ht
  generalize s.endAfe = u at hcal ht
  obtain ⟨v, hv⟩ : ∃ v, ((u.onCal fun c => c.afeServed x.ch).setReg (afeReg x.ch 3) 2).setReg (afeReg x.ch 10) 0 = v := ⟨_, rfl⟩
  rw [hv] at ht
  have htcal : t.cal = v.cal := ht ▸ State.calUnstable_cal v _
  have htreg (sub : Nat) (hsub : sub < 256) : t.reg (afeReg x.ch sub) = v.reg (afeReg x.ch sub) :=
    ht ▸ State.calUnstable_reg_of_plain v hplain (afeReg_not_recordCounter hx hsub)
  have hvcal : v.cal = u.cal.afeServed x.ch := hv ▸ rfl
  have hnewest := State.calUnstable_newestRecord v (unitAfe x.ch)
  rw [ht, hrecord] at hnewest
  refine ⟨?_, ?_, ?_, ?_, hnewest⟩
  · rw [htcal, hvcal, hcal]
    rfl
  · rw [htreg 3 (by decide), ← hv, State.reg_setReg_ne _ _ _ _ (afeReg_ne (by decide)), State.reg_setReg_self]
  · rw [htreg 10 (by decide), ← hv, State.reg_setReg_self]
  · rw [htcal, hvcal, hcal]
    rfl

/-! The post-check (R71, R72) -/

theorem State.detect_of_two (s : State) {i a b : Nat}
    (h : 2 ≤ ((s.channels.getD i Channel.blank).recent.filter fun x => decide (a ≤ x.1 ∧ x.1 ≤ b)).length) :
    (s.detect i a b).1 =
      rmsOf (((s.channels.getD i Channel.blank).recent.filter fun x => decide (a ≤ x.1 ∧ x.1 ≤ b)).map (·.2)) % 2 ^ 32 := by
  unfold State.detect
  dsimp only
  rw [if_pos (by simpa using h)]
  rfl

/-- Reading the detector shows what it reads; it may draw a free value. -/
theorem State.readQuiet_shows (s : State) (i a b : Nat) : ∃ u : State, s.readQuiet i a b = ((s.detect i a b).1, u) ∧
    u.cal = { s.cal with quiet := mset 0 s.cal.quiet i (s.detect i a b).1 } ∧ u = { s with cal := u.cal, free := u.free } := by
  unfold State.readQuiet State.detect
  dsimp only
  split <;> exact ⟨_, rfl, rfl, rfl⟩

/-- An attempt that was not quiet shows NOT_QUIET; its trims and its due stay (R72). -/
theorem State.notQuiet_effect (s : State) (i : Nat) {t : State} (ht : s.notQuiet i = t) :
    t.cal = { s.cal with quietRaised := t.cal.quietRaised } ∧ t.reg (afeReg i 9) = stNotQuiet := by
  have hsub : ¬ recordCounter (afeReg i 9) := by
    unfold recordCounter afeReg okey
    omega
  have hset (u : State) : (u.setReg (afeReg i 9) stNotQuiet).reg (afeReg i 9) = stNotQuiet := State.reg_setReg_self _ _ _
  have hcount (u : State) (v : Nat) : (u.setReg (afeReg i 10) v).reg (afeReg i 9) = u.reg (afeReg i 9) :=
    State.reg_setReg_ne _ _ _ _ (afeReg_ne (by decide))
  unfold State.notQuiet at ht
  extract_lets s1 n s2 at ht
  have h1 : s1.cal = s.cal ∧ s1.reg (afeReg i 9) = stNotQuiet := ⟨rfl, hset s⟩
  have h2 : s2.cal = s.cal ∧ s2.reg (afeReg i 9) = stNotQuiet := ⟨rfl, (hcount s1 _).trans h1.2⟩
  clear_value s1 s2
  split at ht
  · subst ht
    exact ⟨by rw [h1.1], h1.2⟩
  · split at ht
    · obtain ⟨u, hu⟩ : ∃ u, (s2.onCal fun c => { c with quietRaised := setBit c.quietRaised i }).setReg (afeReg i 3) 1 = u :=
        ⟨_, rfl⟩
      rw [hu] at ht
      have htouch := State.fault_touches u clsCal 2 (unitAfe i) noParty n
      have hreg : (u.fault clsCal 2 (unitAfe i) noParty n).reg (afeReg i 9) = u.reg (afeReg i 9) :=
        State.raise_reg_of_uncounted u (r := u.mkRec clsCal 2 (unitAfe i) noParty n) rfl hsub
      rw [ht] at htouch hreg
      unfold touchesFault at htouch
      have hcal : t.cal = u.cal := by rw [htouch]
      have hucal : u.cal = { s2.cal with quietRaised := setBit s2.cal.quietRaised i } := hu ▸ rfl
      refine ⟨by rw [hcal, hucal, h2.1], hreg.trans ?_⟩
      rw [← hu, State.reg_setReg_ne _ _ _ _ (afeReg_ne (by decide))]
      exact h2.2
    · subst ht
      exact ⟨by rw [h2.1], h2.2⟩

/-- AFE_CAL_END at the end of a post-check, from what its detector reads. -/
theorem exec_afeCalEnd {s : State} {x : AfeCal} (r1 r2 : Int) (h : s.cal.afe = some x) (hstage : x.stage = 3)
    (hpassed : x.passed = none) (htime : x.start + s.afeTime x.ch 7 ≤ s.now) {q : Nat} {u : State}
    (hq : s.readQuiet x.ch (x.start + s.afeTime x.ch 6) (x.start + s.afeTime x.ch 7) = (q, u)) :
    exec (.afeCalEnd r1 r2) s = .next (
      if u.inForce (afeReg x.ch 6) ≤ q || x.ovr then (u.endAfe).notQuiet x.ch
      else u.onCal fun c => { c with afe := some { x with passed := some (r1, r2) } }) := by
  show execAfeCalEnd r1 r2 s = _
  unfold execAfeCalEnd
  rw [h]
  dsimp only
  rw [if_neg (by simp [hstage, hpassed, htime]), hq]

/-! The boundary (R71, R74, R79) -/

theorem clampI_clampI (lo hi x : Int) : clampI lo hi (clampI lo hi x) = clampI lo hi x := by
  unfold clampI
  omega

theorem testBit_cleared {m i : Nat} (hi : i < 16) : (m &&& (0xFFFF ^^^ (1 <<< i))).testBit i = false := by
  have hmask : (0xFFFF : Nat).testBit i = true := by
    rw [show (0xFFFF : Nat) = 2 ^ 16 - 1 from rfl, Nat.testBit_two_pow_sub_one]
    exact decide_eq_true hi
  rw [Nat.testBit_and, Nat.testBit_xor, hmask, Nat.one_shiftLeft, Nat.testBit_two_pow_self]
  simp

theorem trimRange_afe {i k : Nat} (hi : i < 16) (hk : k < 4096) : trimRange (trimKey (unitAfe i) k) = (-2048, 2047) := by
  have hunit : trimKey (unitAfe i) k / 4096 / 4096 = 5 := by
    rw [trimKey_div hk]
    unfold unitAfe
    omega
  unfold trimRange
  rw [hunit]
  rfl

theorem State.afeBoundary_of_passed {s : State} {x : AfeCal} {r : Int × Int} (h : s.cal.afe = some x) (hpassed : x.passed = some r) :
    s.afeBoundary = s.acceptAfe x r.1 r.2 := by
  unfold State.afeBoundary
  rw [h]
  dsimp only
  rw [hpassed]

/-- What an attempt that passed leaves at the boundary. -/
theorem State.acceptAfe_effect {s : State} {x : AfeCal} {o g : Int × Int} (h : s.cal.afe = some x) (ho : x.offs = some o)
    (hg : x.gain = some g) (hx : x.ch < 16) (hpga : x.pga < 8) (offRes gainRes : Int) :
    let kg := trimKey (unitAfe x.ch) (2 * x.pga)
    let ko := trimKey (unitAfe x.ch) (2 * x.pga + 1)
    let t := s.acceptAfe x offRes gainRes
    t.cal.afe = none ∧
      trimGet t.cal.target kg = clampI (-2048) 2047 (trimGet s.cal.applied kg - roundDiv (g.1 + g.2) 100) ∧
      trimGet t.cal.target ko = clampI (-2048) 2047 (trimGet s.cal.applied ko - roundDiv (o.1 + o.2) 10) ∧
      t.cal.applied = s.cal.applied ∧ t.cal.afeDue.testBit x.ch = false ∧ t.reg (afeReg x.ch 9) = stOk ∧
      t.reg (afeReg x.ch 10) = 0 := by
  intro kg ko t
  have hrange : trimRange kg = (-2048, 2047) ∧ trimRange ko = (-2048, 2047) :=
    ⟨trimRange_afe hx (by omega), trimRange_afe hx (by omega)⟩
  have hne : ko ≠ kg := fun e => absurd (trimKey_inj.1 e) (by omega)
  have hcal := State.endAfe_eq h
  have hreg (u : State) (a b : Nat) (hab : a ≠ b) (v : Nat) : (u.setReg (afeReg x.ch a) v).reg (afeReg x.ch b) = u.reg (afeReg x.ch b) :=
    State.reg_setReg_ne _ _ _ _ (afeReg_ne hab)
  obtain ⟨u, hu⟩ : ∃ u, s.endAfe = u := ⟨_, rfl⟩
  rw [hu] at hcal
  have happlied : u.cal.applied = s.cal.applied := by rw [hcal]
  have hafe : u.cal.afe = none := by rw [hcal]
  have ht : s.acceptAfe x offRes gainRes = t := rfl
  clear_value t
  unfold State.acceptAfe at ht
  rw [hu, ho, hg] at ht
  dsimp only at ht
  subst ht
  refine ⟨?_, ?_, ?_, ?_, ?_, ?_, ?_⟩
  · exact hafe
  · show trimGet (trimSet (trimSet u.cal.target kg (clampI (trimRange kg).1 (trimRange kg).2
      (clampI (-2048) 2047 (afeCode (trimGet u.cal.applied kg) g 50)))) ko _) kg = _
    rw [trimGet_trimSet_ne _ hne, trimGet_trimSet_self, hrange.1, clampI_clampI, happlied]
    rfl
  · show trimGet (trimSet _ ko (clampI (trimRange ko).1 (trimRange ko).2
      (clampI (-2048) 2047 (afeCode (trimGet u.cal.applied ko) o 5)))) ko = _
    rw [trimGet_trimSet_self, hrange.2, clampI_clampI, happlied]
    rfl
  · exact happlied
  · exact testBit_cleared hx
  · rw [hreg _ 5 9 (by decide), hreg _ 4 9 (by decide), hreg _ 10 9 (by decide), State.reg_setReg_self]
  · rw [hreg _ 5 10 (by decide), hreg _ 4 10 (by decide), State.reg_setReg_self]

/-! The parts of the statement -/

theorem exec_afeCalDue {s : State} {i : Nat} (hrun : s.frame.running = true) (hauto : s.inForce (afeReg i 7) = 0)
    (hfalls : s.afeFalls i = true) :
    exec (.afeCalDue i) s = .next { s with cal := { s.cal with afeDue := setBit s.cal.afeDue i } } := by
  show execAfeCalDue i s = _
  unfold execAfeCalDue
  rw [if_pos (by simp [hrun, hauto, hfalls])]
  rfl

/-- A post-check that was quiet has passed; another ends the attempt. -/
theorem State.postCheck_effect {s : State} {x : AfeCal} (r1 r2 : Int) (h : s.cal.afe = some x) (hstage : x.stage = 3)
    (hpassed : x.passed = none) (htime : x.start + s.afeTime x.ch 7 ≤ s.now) :
    let q := (s.detect x.ch (x.start + s.afeTime x.ch 6) (x.start + s.afeTime x.ch 7)).1
    (q < s.inForce (afeReg x.ch 6) → x.ovr = false → ∃ t, exec (.afeCalEnd r1 r2) s = .next t ∧
      t.cal = { s.cal with afe := some { x with passed := some (r1, r2) }, quiet := t.cal.quiet } ∧
      mget 0 t.cal.quiet x.ch = q ∧ t = { s with cal := t.cal, free := t.free }) ∧
    (s.inForce (afeReg x.ch 6) ≤ q ∨ x.ovr = true →
      ∃ t, exec (.afeCalEnd r1 r2) s = .next t ∧ t.cal.afe = none ∧ t.cal.target = s.cal.target ∧
        t.cal.afeDue = s.cal.afeDue ∧ mget 0 t.cal.quiet x.ch = q ∧ t.reg (afeReg x.ch 9) = stNotQuiet) := by
  intro q
  obtain ⟨u, hread, hcal, hrest⟩ := s.readQuiet_shows x.ch (x.start + s.afeTime x.ch 6) (x.start + s.afeTime x.ch 7)
  have hforce : u.inForce (afeReg x.ch 6) = s.inForce (afeReg x.ch 6) := by
    rw [hrest]
    rfl
  have hquiet : mget 0 u.cal.quiet x.ch = q := by
    rw [hcal]
    exact mget_mset_self _ _ _ _
  rw [exec_afeCalEnd r1 r2 h hstage hpassed htime hread, hforce]
  refine ⟨fun hlow hovr => ⟨_, rfl, ?_⟩, fun hloud => ⟨_, rfl, ?_⟩⟩
  · rw [if_neg (by simpa [hovr] using hlow)]
    refine ⟨?_, hquiet, ?_⟩
    · rw [State.onCal_cal, hcal]
    · rw [hrest]
      rfl
  · rw [if_pos (by simpa using hloud)]
    have hend := State.endAfe_eq (s := u) (x := x) (by rw [hcal, h])
    obtain ⟨t, ht⟩ : ∃ t, u.endAfe.notQuiet x.ch = t := ⟨_, rfl⟩
    obtain ⟨htcal, hreg⟩ := State.notQuiet_effect _ _ ht
    rw [ht, htcal, hend, hcal]
    exact ⟨rfl, rfl, rfl, hcal ▸ hquiet, hreg⟩

theorem afeCalibrationPart_holds : afeCalibrationPart := by
  intro s
  refine ⟨fun i => exec_afeCalDue, fun i => s.afeTime_of_lt, fun i => s.afeTime_of_le, ?_, ?_, fun i a b => s.detect_of_two, ?_⟩
  · intro a b x h hx hm tol
    rw [exec_afeCalStep a b h hm]
    refine ⟨fun hagree hstage => ?_, fun hagree hstage => ?_, fun hoff htries => ?_, fun hoff htries => ?_⟩
    · rw [if_pos hagree, hstage]
      rfl
    · rw [if_pos hagree, hstage]
      rfl
    · rw [if_neg (not_le.2 hoff), if_pos htries]
      rfl
    · rw [if_neg (not_le.2 hoff), if_neg (not_lt.2 htries)]
      exact ⟨_, rfl, State.afeFailed_effect h hx rfl⟩
  · exact fun x r1 r2 => State.postCheck_effect r1 r2
  · intro x o g r h hpassed ho hg hx hpga
    rw [State.afeBoundary_of_passed h hpassed]
    exact State.acceptAfe_effect h ho hg hx hpga r.1 r.2

end Sys2Proof.Machine
end

section
/-! PROOF. Calibration: references and oscillators, and the whole of it. -/

namespace Sys2Proof.Machine

open Sys2Proof

/-! Rows of pairs (R70) -/

theorem agreed_of_pair {tol : Nat} {pairs pre post : List (Int × Int)} {a b : Int} (hpairs : pairs.take 4 = pre ++ (a, b) :: post)
    (hpre : ∀ x ∈ pre, tol < (x.1 - x.2).natAbs) (h : (a - b).natAbs ≤ tol) : agreed tol pairs = .pair a b := by
  have hnone : (pre.find? fun x => decide ((x.1 - x.2).natAbs ≤ tol)) = none := by
    simpa [List.find?_eq_none] using hpre
  unfold agreed
  rw [hpairs, List.find?_append, hnone, Option.none_or, List.find?_cons_of_pos (by simpa using h)]

theorem agreed_of_none {tol : Nat} {pairs : List (Int × Int)} (h : ∀ x ∈ pairs.take 4, tol < (x.1 - x.2).natAbs) :
    agreed tol pairs = if 4 ≤ pairs.length then .unstable else .notYet := by
  have hnone : ((pairs.take 4).find? fun x => decide ((x.1 - x.2).natAbs ≤ tol)) = none := by
    simp only [List.find?_eq_none, decide_eq_true_eq, not_le]
    exact h
  unfold agreed
  rw [hnone]

theorem settles_iff (tol : Nat) (pairs : List (Int × Int)) : settles tol pairs = true ↔ pairsSettle tol pairs := by
  unfold settles pairsSettle
  rw [decide_eq_true_eq]
  by_cases h : ∃ x ∈ pairs.take 4, (x.1 - x.2).natAbs ≤ tol
  · have hsome : ((pairs.take 4).find? fun x => decide ((x.1 - x.2).natAbs ≤ tol)).isSome := by
      simpa [List.find?_isSome] using h
    obtain ⟨x, hx⟩ := Option.isSome_iff_exists.1 hsome
    unfold agreed
    rw [hx]
    simp [h]
  · rw [agreed_of_none fun x hx => not_le.1 fun hle => h ⟨x, hx, hle⟩]
    split
    case isTrue hlen => simp [hlen]
    case isFalse hlen => simp [h, hlen]

/-! A measurement (R75, R76) -/

/-- The instants of the measurements of references and of the husk oscillator stand as given. -/
def State.stampedAt (s : State) (refAt : List (Nat × Nat)) (oscAt : Option Nat) : State :=
  s.onCal fun c => { c with refAt := refAt, oscAt := oscAt }

theorem State.calUnstable_husk (s : State) (unit : Nat) : (s.calUnstable unit).husk = s.husk := by
  have h := State.fault_touches s.drawNat.2 clsCal 1 (recordUnit unit) noParty (s.drawNat.1 % 4294967296)
  unfold touchesFault at h
  exact (congrArg State.husk h).trans rfl

theorem State.measured_of_pair (s : State) {unit key tol step : Nat} {pairs : List (Int × Int)} {a b : Int}
    (h : agreed tol pairs = .pair a b) :
    s.measured unit key tol step pairs = (s.recalibrate unit a b step).setReg key (unsignedOf 32 (Int.fdiv (a + b) 2)) := by
  unfold State.measured
  rw [h]

theorem State.measured_of_unstable (s : State) {unit key tol step : Nat} {pairs : List (Int × Int)}
    (h : agreed tol pairs = .unstable) : s.measured unit key tol step pairs = s.calUnstable unit := by
  unfold State.measured
  rw [h]

/-- A measurement leaves the trims in force, the instants of measurements and the clock alone. -/
theorem State.measured_stamps (s : State) (unit key tol step : Nat) (pairs : List (Int × Int)) :
    let t := s.measured unit key tol step pairs
    t.cal.applied = s.cal.applied ∧ t.cal.refAt = s.cal.refAt ∧ t.cal.oscAt = s.cal.oscAt ∧ t.husk = s.husk := by
  unfold State.measured
  split
  · exact ⟨rfl, rfl, rfl, rfl⟩
  · dsimp only
    rw [State.calUnstable_cal, State.calUnstable_husk]
    exact ⟨rfl, rfl, rfl, rfl⟩
  · exact ⟨rfl, rfl, rfl, rfl⟩

/-- The code that an agreeing pair gives, and the target beside its compensation. -/
theorem State.recalibrate_codes (s : State) (unit : Nat) (a b : Int) (step : Nat) :
    let k := trimKey unit 0
    let v := clampI (trimRange k).1 (trimRange k).2
      (trimGet s.cal.applied k - roundDiv (a + b) (2 * step) - mget 0 s.cal.comp unit)
    trimGet (s.recalibrate unit a b step).cal.calibrated k = v ∧
      trimGet (s.recalibrate unit a b step).cal.target k =
        clampI (trimRange k).1 (trimRange k).2 (v + mget 0 s.cal.comp unit) ∧
      s.recalibrate unit a b step = { s with cal := (s.recalibrate unit a b step).cal } := by
  intro k v
  have hcalibrated : trimGet (trimSet s.cal.calibrated k v) k = v := trimGet_trimSet_self _ _ _
  refine ⟨hcalibrated, ?_, rfl⟩
  show trimGet (trimSet s.cal.target k (clampI (trimRange k).1 (trimRange k).2
    (trimGet (trimSet s.cal.calibrated k v) k + mget 0 s.cal.comp unit))) k = _
  rw [hcalibrated, trimGet_trimSet_self]

theorem State.calUnstable_record (s : State) {unit : Nat} (h : plainUnit (recordUnit unit)) {t : State} (ht : s.calUnstable unit = t) :
    touchesRecord { s with free := t.free } t := by
  have hr := State.fault_record s.drawNat.2 clsCal 1 (recordUnit unit) noParty (s.drawNat.1 % 4294967296) h
  have ht : s.drawNat.2.fault clsCal 1 (recordUnit unit) noParty (s.drawNat.1 % 4294967296) = t := ht
  rw [ht] at hr
  have hfree : t.free = s.drawNat.2.free := by
    unfold touchesRecord at hr
    rw [hr]
  rw [hfree]
  exact hr

/-- A settled measurement leaves what its pairs say. -/
theorem State.measured_trims (s : State) (refAt : List (Nat × Nat)) (oscAt : Option Nat) {unit key : Nat} (tol step : Nat)
    {pairs : List (Int × Int)} (hsettled : pairsSettle tol pairs) (hunit : plainUnit (recordUnit unit)) (hkey : ¬ recordCounter key) :
    trimMeasured s ((s.stampedAt refAt oscAt).measured unit key tol step pairs) unit key tol step pairs := by
  unfold trimMeasured
  intro k off
  obtain ⟨u, hu⟩ : ∃ u, s.stampedAt refAt oscAt = u := ⟨_, rfl⟩
  have hcal : u.cal = { s.cal with refAt := refAt, oscAt := oscAt } := hu ▸ rfl
  have hreg (j : Nat) : u.reg j = s.reg j := hu ▸ rfl
  have hrest : u = { s with cal := u.cal } := hu ▸ rfl
  rw [hu]
  refine ⟨?_, ?_, fun hoff => ?_⟩
  · rw [(u.measured_stamps unit key tol step pairs).1, hcal]
  · intro pre a b post hpairs hpre hab v
    rw [u.measured_of_pair (agreed_of_pair hpairs hpre (not_lt.1 hab))]
    obtain ⟨hcalibrated, htarget, hkept⟩ := u.recalibrate_codes unit a b step
    generalize u.recalibrate unit a b step = w at hcalibrated htarget hkept ⊢
    rw [hcal] at hcalibrated htarget
    have hwreg (j : Nat) : w.reg j = s.reg j := by
      rw [hkept]
      exact hreg j
    refine ⟨State.reg_setReg_self _ _ _, hcalibrated, htarget, fun j hj => ?_, ?_⟩
    · rw [State.reg_setReg_ne _ _ _ _ hj.symm, hwreg]
    · rw [hkept, hrest]
      rfl
  · have hunstable : agreed tol pairs = .unstable := by
      rw [agreed_of_none hoff, if_pos]
      rcases hsettled with ⟨x, hx, hle⟩ | hlen
      · exact absurd (hoff x hx) (not_lt.2 hle)
      · exact hlen
    rw [u.measured_of_unstable hunstable]
    obtain ⟨t, ht⟩ : ∃ t, u.calUnstable unit = t := ⟨_, rfl⟩
    have htcal : t.cal = u.cal := ht ▸ u.calUnstable_cal unit
    have htrecord := u.calUnstable_record hunit ht
    have htreg : t.reg key = u.reg key := ht ▸ u.calUnstable_reg_of_plain hunit hkey
    have hnewest : newestRecord t = some (clsCal, 1, recordUnit unit) := ht ▸ u.calUnstable_newestRecord unit
    rw [ht]
    refine ⟨by rw [htcal, hcal], by rw [htcal, hcal], htreg.trans (hreg key), hnewest, ?_⟩
    rw [htcal]
    rw [hrest] at htrecord
    exact htrecord

/-! Which are measured, and when (R75) -/

theorem plainUnit_refUnit {u : Nat} (hu : u < 11) : plainUnit (recordUnit (refUnit u)) := by
  unfold plainUnit recordUnit refUnit unitCluster unitDomain
  split
  · split <;> omega
  · omega

theorem plainUnit_oscUnit : plainUnit (recordUnit (oscUnit 0)) := by
  unfold plainUnit
  decide

theorem refReg_not_recordCounter {u : Nat} (hu : u < 11) : ¬ recordCounter (okey (0x2480 + u) 2) := by
  unfold recordCounter okey
  omega

theorem find?_mins {α : Type} (m : List (Nat × α)) (k : Nat) (x : α) : (mins m k x).find? (·.1 = k) = some (k, x) := by
  induction m with
  | nil => simp [mins]
  | cons y m ih =>
    unfold mins
    split
    · simp
    · split
      · simp
      · rename_i h
        rw [List.find?_cons_of_neg (by simpa using Ne.symm h)]
        exact ih

/-- What the measurement of a reference leaves, and that of the husk oscillator. -/
def State.refMeasured (s : State) (u : Nat) (pairs : List (Int × Int)) : State :=
  (s.stampedAt (mins s.cal.refAt u s.now) s.cal.oscAt).measured (refUnit u) (okey (0x2480 + u) 2) 100 50 pairs
def State.oscMeasured (s : State) (pairs : List (Int × Int)) : State :=
  (s.stampedAt s.cal.refAt (some s.now)).measured (oscUnit 0) 0x249002 400 200 pairs

/-- A reference that has just been measured is not due. -/
theorem State.refDue_refMeasured (s : State) (u : Nat) (pairs : List (Int × Int)) : (s.refMeasured u pairs).refDue u = false := by
  obtain ⟨-, hstamp, -, hhusk⟩ := (s.stampedAt (mins s.cal.refAt u s.now) s.cal.oscAt).measured_stamps (refUnit u)
    (okey (0x2480 + u) 2) 100 50 pairs
  have hnow : (s.refMeasured u pairs).now = s.now := congrArg Husk.now hhusk
  have hrefs : (s.refMeasured u pairs).cal.refAt = mins s.cal.refAt u s.now := hstamp
  unfold State.refDue
  rw [hrefs, hnow, find?_mins]
  simp

/-- Nothing is measured of a reference: the state of the power has no references, it is not due, or its pairs settle nothing. -/
def State.refRests (s : State) (u : Nat) (pairs : List (Int × Int)) : Prop :=
  s.husk.power = .off ∨ s.husk.power = .safe ∨ s.husk.power = .sprout ∨ s.refDue u = false ∨ ¬ pairsSettle 100 pairs

theorem exec_referenceMeasure_of_rests {s : State} {u : Nat} {pairs : List (Int × Int)} (h : s.refRests u pairs) :
    exec (.referenceMeasure u pairs) s = .next s := by
  show execReferenceMeasure u pairs s = _
  unfold State.refRests at h
  unfold execReferenceMeasure
  rw [if_pos (by simpa only [Bool.not_eq_true', ← Bool.not_eq_true, settles_iff] using h)]

theorem exec_referenceMeasure_of_not_rests {s : State} {u : Nat} {pairs : List (Int × Int)} (h : ¬ s.refRests u pairs) :
    exec (.referenceMeasure u pairs) s = .next (s.refMeasured u pairs) := by
  show execReferenceMeasure u pairs s = _
  unfold State.refRests at h
  unfold execReferenceMeasure
  rw [if_neg (by simpa only [Bool.not_eq_true', ← Bool.not_eq_true, settles_iff] using h)]
  rfl

/-- Nothing is measured of the husk oscillator: CTRL or the crystal is off, its pairs settle nothing, or its second is not over. -/
def State.oscRests (s : State) (pairs : List (Int × Int)) : Prop :=
  s.husk.supply = false ∨ s.husk.rails.getD 0 false = false ∨ s.husk.xtalStopped = true ∨ ¬ pairsSettle 400 pairs ∨
    ∃ at_, s.cal.oscAt = some at_ ∧ s.now < at_ + 1000000000

theorem State.oscRests_iff (s : State) (pairs : List (Int × Int)) : s.oscRests pairs ↔
    ((!s.ctrlOn) = true ∨ s.husk.xtalStopped = true ∨ (!settles 400 pairs) = true ∨
      (s.cal.oscAt.any fun t => decide (s.now < t + 1000000000)) = true) := by
  unfold State.oscRests State.ctrlOn
  simp only [Bool.not_eq_true', Bool.and_eq_false_iff, ← settles_iff, Bool.not_eq_true, Option.any_eq_true, decide_eq_true_eq,
    or_assoc]

theorem exec_oscillatorTrim_of_rests {s : State} {pairs : List (Int × Int)} (h : s.oscRests pairs) :
    exec (.oscillatorTrim pairs) s = .next s := by
  show execOscillatorTrim pairs s = _
  unfold execOscillatorTrim
  rw [if_pos ((s.oscRests_iff pairs).1 h)]

theorem exec_oscillatorTrim_of_not_rests {s : State} {pairs : List (Int × Int)} (h : ¬ s.oscRests pairs) :
    exec (.oscillatorTrim pairs) s = .next (s.oscMeasured pairs) := by
  show execOscillatorTrim pairs s = _
  unfold execOscillatorTrim
  rw [if_neg (mt (s.oscRests_iff pairs).2 h)]
  rfl

theorem referencesAndOscillatorsPart_holds : referencesAndOscillatorsPart := by
  intro s pairs
  refine ⟨fun u hu => ⟨fun hpower hdue hsettled => ?_, exec_referenceMeasure_of_rests⟩,
    fun hsupply hrail hcrystal hosc hsettled => ?_, exec_oscillatorTrim_of_rests⟩
  · have hmeasured : ¬ s.refRests u pairs := by
      unfold State.refRests
      rcases hpower with h | h | h <;> simp [h, hdue, hsettled]
    exact ⟨_, exec_referenceMeasure_of_not_rests hmeasured,
      s.measured_trims _ _ 100 50 hsettled (plainUnit_refUnit hu) (refReg_not_recordCounter hu), s.refDue_refMeasured u pairs⟩
  · have hmeasured : ¬ s.oscRests pairs := by
      unfold State.oscRests
      rw [hsupply, hrail, hcrystal]
      simpa [hsettled] using hosc
    obtain ⟨-, -, hstamp, -⟩ := (s.stampedAt s.cal.refAt (some s.now)).measured_stamps (oscUnit 0) 0x249002 400 200 pairs
    exact ⟨_, exec_oscillatorTrim_of_not_rests hmeasured,
      s.measured_trims _ _ 400 200 hsettled plainUnit_oscUnit (by unfold recordCounter; decide), hstamp⟩

/-- Settles O41: each part by the rules of the operations it speaks of. -/
theorem calibrationCompletes : Obligations.CalibrationCompletes :=
  ⟨calibrationSlicesPart_holds, driftAndCompensationPart_holds, afeCalibrationPart_holds, referencesAndOscillatorsPart_holds⟩

end Sys2Proof.Machine
end

section
/-! SUPPORT. What pool data, traces and completions of queue commands leave alone, and the end of a pooled job. -/

namespace Sys2Proof.Machine

open Sys2Proof

/-! What the pool keeps beside its data -/

/-- Fences, mirrors and waits for residency. -/
def poolRegistry (s : State) : List Fence × List Mirror × List (Nat × Nat × Nat) :=
  (s.pool.fences, s.pool.mirrors, s.pool.resWait)

theorem State.poke_poolRegistry (s : State) (p a : Nat) (b : Byte) : poolRegistry (s.poke p a b) = poolRegistry s := by
  unfold State.poke
  split
  · split <;> rfl
  · rfl

theorem State.writePages_poolRegistry (s : State) (x : Ctx) (p a : Nat) (bs : List Byte) :
    poolRegistry (s.writePages x p a bs) = poolRegistry s := by
  refine foldl_view poolRegistry _ (fun t b => ?_) _ s
  split
  · dsimp only
    split
    · exact State.poke_poolRegistry _ _ _ _
    · rfl
  · rfl

theorem State.writeCtx_poolRegistry (s : State) (p c a : Nat) (bs : List Byte) :
    poolRegistry (s.writeCtx p c a bs) = poolRegistry s := by
  unfold State.writeCtx
  split
  · rfl
  · split
    · exact State.writePages_poolRegistry _ _ _ _ _
    · rfl

theorem State.charge_poolRegistry (s : State) (p c n : Nat) (planned : Bool) :
    poolRegistry (s.charge p c n planned) = poolRegistry s := rfl

theorem State.traceTo_poolRegistry (s : State) (v : Nat) (t : TraceRec) : poolRegistry (s.traceTo v t) = poolRegistry s := by
  unfold State.traceTo
  split
  · rfl
  · split
    · rfl
    · extract_lets _ _ next
      split
      · exact State.writeCtx_poolRegistry next _ _ _ _
      · rfl

theorem State.traceOut_poolRegistry (s : State) (t : TraceRec) : poolRegistry (s.traceOut t) = poolRegistry s := by
  unfold State.traceOut
  split
  · exact State.traceTo_poolRegistry _ _ _
  · rw [State.traceTo_poolRegistry, State.traceTo_poolRegistry]

/-! Completions (R264 to R267) -/

theorem State.completeAs_poolRegistry (s : State) (c q : Nat) (cmd : List Byte) (seq st result : Nat) :
    poolRegistry (s.completeAs c q cmd seq st result) = poolRegistry s := by
  unfold State.completeAs
  split
  · extract_lets a s1 s2 s3
    have h1 : poolRegistry s1 = poolRegistry s := State.writePages_poolRegistry _ _ _ _ _
    have h2 : poolRegistry s2 = poolRegistry s1 :=
      (State.traceOut_poolRegistry _ _).trans (State.charge_poolRegistry _ _ _ _ _)
    have h3 : poolRegistry s3 = poolRegistry s2 := rfl
    clear_value s1 s2 s3
    exact h3.trans (h2.trans h1)
  · rfl

theorem State.onQueue_touches (s : State) (c q : Nat) (f : Queue → Queue) : touchesPool s (s.onQueue c q f) := rfl
theorem State.use_touches (s : State) (c : Nat) (f : Usage → Usage) : touchesPool s (s.use c f) := rfl

theorem State.completeAs_touches (s : State) (c q : Nat) (cmd : List Byte) (seq st result : Nat) :
    touchesTrace s (s.completeAs c q cmd seq st result) := by
  unfold State.completeAs
  split
  · extract_lets a s1 s2 s3
    have h1 : touchesTrace s s1 := (State.writePages_touches _ _ _ _ _).trace
    have h2 : touchesTrace s1 s2 := (State.charge_touches _ _ _ _ _).trace.trans (State.traceOut_touches _ _)
    have h3 : touchesTrace s2 s3 := (State.onQueue_touches _ _ _ _).trace
    clear_value s1 s2 s3
    exact (h1.trans h2).trans (h3.trans (State.use_touches _ _ _).trace)
  · exact .rfl

/-- The registers are no part of the pool. -/
theorem touchesPool.reg {s t : State} (h : touchesPool s t) (k : Nat) : t.reg k = s.reg k := by
  unfold touchesPool at h
  rw [h]
  rfl

theorem State.completeAs_reg (s : State) (c q : Nat) (cmd : List Byte) (seq st result : Nat) {k : Nat} (hk : ¬ answerCounter k) :
    (s.completeAs c q cmd seq st result).reg k = s.reg k := by
  unfold State.completeAs
  split
  · extract_lets a s1 s2 s3
    have h1 : s1.reg k = s.reg k := (State.writePages_touches _ _ _ _ _).reg k
    have h2 : s2.reg k = s1.reg k := (State.traceOut_reg _ _ k hk).trans ((State.charge_touches _ _ _ _ _).reg k)
    have h3 : s3.reg k = s2.reg k := (State.onQueue_touches _ _ _ _).reg k
    clear_value s1 s2 s3
    exact ((State.use_touches _ _ _).reg k).trans (h3.trans (h2.trans h1))
  · rfl

theorem State.complete_touches (s : State) (c q st result : Nat) : touchesTrace s (s.complete c q st result) := by
  unfold State.complete
  split
  · split
    · exact (State.completeAs_touches _ _ _ _ _ _ _).trans (touchesPool.trace rfl)
    · exact .rfl
  · exact .rfl

theorem State.complete_reg (s : State) (c q st result : Nat) {k : Nat} (hk : ¬ answerCounter k) :
    (s.complete c q st result).reg k = s.reg k := by
  unfold State.complete
  split
  · split
    · exact State.completeAs_reg _ _ _ _ _ _ _ hk
    · rfl
  · rfl

theorem State.endQueue_poolRegistry (s : State) (x : Ctx) (q st n : Nat) :
    poolRegistry (s.endQueue x q st (fun _ s => s) n) = poolRegistry s := by
  induction n generalizing s with
  | zero => rfl
  | succ n ih =>
    unfold State.endQueue
    split
    · rfl
    · split
      · rfl
      · exact (ih _).trans (State.completeAs_poolRegistry _ _ _ _ _ _ _)

theorem State.refuseQueues_poolRegistry (s : State) (c st : Nat) : poolRegistry (s.refuseQueues c st) = poolRegistry s := by
  unfold State.refuseQueues
  split
  · exact foldl_view poolRegistry _ (fun t q => State.endQueue_poolRegistry _ _ _ _ _) _ s
  · rfl

theorem State.endPoolOps_poolRegistry (s : State) (c st : Nat) : poolRegistry (s.endPoolOps c st) = poolRegistry s := by
  refine foldl_view poolRegistry _ (fun t m => ?_) _ s
  have h := State.respond_touches t ⟨m.2.1, m.1, field m.2.2.1 8 4⟩ 2 (field m.2.2.1 2 2) st t.poolLoad (t.creditField m.2.1) []
  unfold touchesSend at h
  exact (congrArg poolRegistry h).trans rfl

/-! The end of a pooled job (R97) -/

theorem not_answerCounter_jobReg {j i : Nat} (hi : i < 5) : ¬ answerCounter (jobReg j i) :=
  not_answerCounter_of_sub (by simp only [jobReg, okey]; omega)

theorem State.endJob_reg (s : State) (j how : Nat) {k : Nat} (hk : ¬ answerCounter k) :
    (s.endJob j how).reg k = (s.setReg (jobReg j 1) how).reg k := by
  unfold State.endJob
  dsimp only
  split
  · exact State.complete_reg _ _ _ _ _ hk
  · rfl

theorem State.jobState_endJob (s : State) (j how : Nat) : (s.endJob j how).jobState j = how :=
  (State.endJob_reg s j how (not_answerCounter_jobReg (by decide))).trans (State.reg_setReg_self _ _ _)

theorem State.endJob_walkers (s : State) (j how : Nat) : (s.endJob j how).walkers = s.walkers := by
  unfold State.endJob
  dsimp only
  split
  · rename_i c q _ _
    have h := State.complete_touches (s.setReg (jobReg j 1) how) c q (if how = 3 then stOk else stAborted) 0
    unfold touchesTrace at h
    exact (congrArg State.walkers h).trans rfl
  · rfl

/-- A job that ends has no command left to complete. -/
theorem State.endJob_jobs (s : State) (j how : Nat) :
    (s.endJob j how).jobs = if (s.job j).cmd.isSome then upd s.jobs j fun (x : Job) => { x with cmd := none } else s.jobs := by
  unfold State.endJob
  show (match (s.job j).cmd with
    | some (c, q, _) => _
    | none => _ : State).jobs = _
  cases (s.job j).cmd with
  | none => rfl
  | some b => rfl

theorem State.job_endJob_ne (s : State) {j i : Nat} (how : Nat) (h : i ≠ j) : (s.endJob j how).job i = s.job i := by
  show (s.endJob j how).jobs.getD i _ = _
  rw [State.endJob_jobs]
  split
  · exact getD_upd_ne _ _ _ _ _ h.symm
  · rfl

theorem State.cmd_endJob_self (s : State) {j : Nat} (how : Nat) (h : j < s.jobs.length) : ((s.endJob j how).job j).cmd = none := by
  show ((s.endJob j how).jobs.getD j _).cmd = _
  rw [State.endJob_jobs]
  split
  · rw [getD_upd_self _ _ _ _ h]
  · rename_i hcmd
    exact Option.not_isSome_iff_eq_none.1 hcmd

end Sys2Proof.Machine
end

section
/-! PROOF. Pooled jobs, requests for residency and mirror polls. -/

namespace Sys2Proof.Machine

open Sys2Proof

/-! Queue commands (R266) -/

/-- A command in execution runs what its opcode names. -/
theorem State.command_of_inExecution {s : State} {c q op : Nat} {x : Ctx} {cmd : List Byte} (h : inExecution s c q op x cmd)
    (f : Ctx → List Byte → State) : s.command c q op f = f x cmd := by
  obtain ⟨hmute, hserve, hctx, ⟨y, hqueue, hcur⟩, hop⟩ := h
  unfold State.command
  rw [hctx, hqueue, Option.bind_some, hcur]
  simp [hmute, hserve, hop]

/-! JOB_START and JOB_CANCEL (R94 to R97) -/

theorem jobReg_ne {j i k : Nat} (h : i ≠ k) : jobReg j i ≠ jobReg j k := by
  unfold jobReg okey
  omega

/-- What a job that starts leaves. -/
theorem State.beginJob_started (s : State) (x : Ctx) (q n : Nat) (d : List Byte) (hj : dJob d < s.jobs.length) :
    let t := s.beginJob x q n d
    t.jobState (dJob d) = 1 ∧ t.reg (jobReg (dJob d) 2) = 0 ∧ t.reg (jobReg (dJob d) 3) = s.descTiles n d ∧
      t.reg (jobReg (dJob d) 4) = x.party ∧ t.reg (jobReg (dJob d) 5) = dMask d ∧ (t.job (dJob d)).desc = n ∧
      (t.job (dJob d)).ctx = x.num ∧ (t.job (dJob d)).bytes = d ∧ (∀ j, j ≠ dJob d → t.job j = s.job j) ∧
      (∀ k, (∀ i, i ≤ 5 → k ≠ jobReg (dJob d) i) → t.reg k = s.reg k) ∧ t = { s with od := t.od, jobs := t.jobs } := by
  intro t
  have hreg (k : Nat) : t.reg k = (((((s.setReg (jobReg (dJob d) 1) 1).setReg (jobReg (dJob d) 2) 0).setReg (jobReg (dJob d) 3)
      (s.descTiles n d)).setReg (jobReg (dJob d) 4) x.party).setReg (jobReg (dJob d) 5) (dMask d)).reg k := rfl
  have hjob : t.job (dJob d) = _ := getD_upd_self s.jobs (dJob d) _ Job.blank hj
  have hother (j : Nat) (h : j ≠ dJob d) : t.job j = s.job j := getD_upd_ne s.jobs (dJob d) j _ Job.blank h.symm
  have hk (k : Nat) (h : ∀ i, i ≤ 5 → k ≠ jobReg (dJob d) i) : t.reg k = s.reg k := by
    have h' (i : Nat) (hi : i ≤ 5) : jobReg (dJob d) i ≠ k := (h i hi).symm
    rw [hreg]
    simp [h']
  refine ⟨?_, ?_, ?_, ?_, ?_, ?_, ?_, ?_, hother, hk, rfl⟩
  · unfold State.jobState
    rw [hreg]
    simp [jobReg_ne]
  · rw [hreg]
    simp [jobReg_ne]
  · rw [hreg]
    simp [jobReg_ne]
  · rw [hreg]
    simp [jobReg_ne]
  · rw [hreg]
    simp
  · rw [hjob]
  · rw [hjob]
  · rw [hjob]

/-- JOB_START from a queue without a job of its own reaches the descriptor's slot. -/
theorem exec_jobStart {s : State} {c q : Nat} {x : Ctx} {cmd d : List Byte} (h : inExecution s c q 0x20 x cmd)
    (hfree : ∀ j ∈ s.jobs, ∀ b, j.cmd = some b → ¬ (b.1 = c ∧ b.2.1 = q)) (hcluster : field cmd 10 1 < 8)
    (hdesc : s.descAt (field cmd 10 1) (field cmd 8 2) = some d) (hkind : dKind d = 2) (hctx : dCtx d = c) :
    exec (.jobStart c q) s = .next (if s.jobState (dJob d) ≠ 0 then s.complete c q stBusy 0
      else
        let t := if x.resident then s else s.bringIn x.party c
        if ((t.ctx c).map (·.resident)).getD false then t.beginJob x q (field cmd 8 2) d else s.complete c q stLimit 0) := by
  have hany : (s.jobs.any fun j => match j.cmd with
      | some b => b.1 = c && b.2.1 = q
      | none => false) = false := by
    rw [List.any_eq_false]
    intro j hj
    split
    · rename_i b hb
      simpa using hfree j hj b hb
    · simp
  show execJobStart c q s = _
  unfold execJobStart
  rw [State.command_of_inExecution h]
  dsimp only
  rw [if_neg (by rw [Bool.not_eq_true]; exact hany), if_neg (Nat.not_le.2 hcluster), hdesc]
  simp only [hkind, hctx, ne_eq, not_true_eq_false, if_false]

theorem exec_jobCancel {s : State} {c q : Nat} {x : Ctx} {cmd : List Byte} (h : inExecution s c q 0x21 x cmd) :
    exec (.jobCancel c q) s = .next (
      if 16 ≤ field cmd 8 1 then s.complete c q stRange 0
      else if s.jobState (field cmd 8 1) ≠ 1 ∧ s.jobState (field cmd 8 1) ≠ 2 then s.complete c q stNoObject 0
      else if (s.job (field cmd 8 1)).ctx ≠ c then s.complete c q stDenied 0
      else (s.endJob (field cmd 8 1) 4).complete c q stOk (s.reg (jobReg (field cmd 8 1) 2))) :=
  congrArg Host.Outcome.next (State.command_of_inExecution h _)

theorem jobCommandsPart_holds : jobCommandsPart := by
  intro s c q x cmd d
  refine ⟨fun hrun hfree hcluster hdesc hkind hctx hslot hjobs hnum => ⟨fun hbusy => ?_, fun hidle hresident => ?_⟩,
    fun hrun hslot hstate howner hjobs => ?_, fun hrun hslot => ?_⟩
  · unfold ends
    rw [exec_jobStart hrun hfree hcluster hdesc hkind hctx, if_pos hbusy]
  · have hres : ((s.ctx c).map (·.resident)).getD false = true := by
      rw [hrun.2.2.1]
      exact hresident
    refine ⟨s.beginJob x q (field cmd 8 2) d, ?_, hnum ▸ State.beginJob_started s x q _ d (hjobs ▸ hslot)⟩
    rw [exec_jobStart hrun hfree hcluster hdesc hkind hctx, if_neg (not_not.2 hidle)]
    simp only [hresident, if_true, hres]
  · refine ⟨s.endJob (field cmd 8 1) 4, ?_, s.jobState_endJob _ 4, s.cmd_endJob_self 4 (hjobs ▸ hslot),
      fun j hj => s.job_endJob_ne 4 hj⟩
    unfold ends
    rw [exec_jobCancel hrun, if_neg (Nat.not_le.2 hslot), if_neg (by omega), if_neg (not_not.2 howner)]
  · unfold ends
    rw [exec_jobCancel hrun, if_pos hslot]

/-! Requests for residency (R263) -/

/-- A request of a party that has waited 100 ms. -/
def State.waitedOut (s : State) (p : Nat) (w : Nat × Nat × Nat) : Bool := w.1 = p && decide (w.2.2 + 100000000 ≤ s.now)

theorem exec_residencyTimeout {s : State} (p : Nat) (h : s.poolMute = false) :
    exec (.residencyTimeout p) s = .next ((s.pool.resWait.filter (s.waitedOut p)).foldl
      (fun (s : State) w => (s.endPoolOps w.2.1 stBusy).refuseQueues w.2.1 stBusy)
      { s with pool := { s.pool with resWait := s.pool.resWait.filter fun w => !s.waitedOut p w } }) := by
  have hrest : (s.pool.resWait.filter fun w => !(s.pool.resWait.filter (s.waitedOut p)).contains w) =
      s.pool.resWait.filter fun w => !s.waitedOut p w := by
    refine List.filter_congr fun w hw => ?_
    simp [hw]
  show execResidencyTimeout p s = _
  unfold execResidencyTimeout
  rw [h, ← hrest]
  rfl

theorem residencyPart_holds (s : State) (p : Nat) (h : s.poolMute = false) :
    ∃ t, exec (.residencyTimeout p) s = .next t ∧
      t.pool.resWait = s.pool.resWait.filter (fun w => !(w.1 = p && decide (w.2.2 + 100000000 ≤ s.now))) ∧
      ((∀ w ∈ s.pool.resWait, w.1 = p → s.now < w.2.2 + 100000000) → t = s) := by
  refine ⟨_, exec_residencyTimeout p h, ?_, fun hyoung => ?_⟩
  · have hkept (t : State) (w : Nat × Nat × Nat) :
        poolRegistry ((t.endPoolOps w.2.1 stBusy).refuseQueues w.2.1 stBusy) = poolRegistry t := by
      rw [State.refuseQueues_poolRegistry, State.endPoolOps_poolRegistry]
    exact (congrArg (·.2.2) (foldl_view poolRegistry _ hkept _ _)).trans rfl
  · have hnone : ∀ w ∈ s.pool.resWait, s.waitedOut p w = false := fun w hw => by
      simpa [State.waitedOut] using hyoung w hw
    have hold : s.pool.resWait.filter (s.waitedOut p) = [] := List.filter_eq_nil_iff.2 fun w hw => by rw [hnone w hw]; decide
    have hrest : s.pool.resWait.filter (fun w => !s.waitedOut p w) = s.pool.resWait :=
      List.filter_eq_self.2 fun w hw => by rw [hnone w hw]; rfl
    rw [hold, hrest]
    rfl

/-! Mirror polls (R272, R273) -/

/-- A mirror after a poll: what its answer moves, and what no answer moves. -/
theorem mirrorAfter_spec (m : Mirror) (st : Option Nat) (v : Nat) :
    let n := mirrorAfter m st v
    n.polled = m.polled ∧ n.src = m.src ∧ n.party = m.party ∧ n.handle = m.handle ∧ n.fence = m.fence ∧ m.value ≤ n.value ∧
      (st = none → n.missed = m.missed + 1 ∧ n.value = m.value ∧ (2 ≤ m.missed → n.state = 2)) ∧
      (st = some stOk ∨ st = some stChaff → m.value ≤ v → n.state = 1 ∧ n.missed = 0 ∧ n.value = v) ∧
      (st = some stOk ∨ st = some stChaff → v < m.value → n.value = m.value ∧ n.lower = m.lower + 1) ∧
      ((st = some stRevoked ∨ st = some stNoObject) → n.state = 3 ∧ n.value = m.value) := by
  unfold mirrorAfter
  cases st with
  | none => simp +contextual
  | some st =>
    dsimp only
    split
    · rename_i h
      rcases h with rfl | rfl <;> simp
    · rename_i hgone
      split
      · rename_i hother
        simp only [not_or] at hgone
        simp [hother, hgone]
      · split
        · rename_i h
          simp [h, Nat.not_le.2 h, hgone]
        · rename_i h
          simp [h, hgone, Nat.not_lt.1 h]

/-- A poll is sent and its answer stands in the mirror's record and in its fence. -/
def State.mirrorAnswered (s : State) (i : Nat) (m n : Mirror) : State :=
  { s with
    out := s.out ++ [.mirrorPoll m.src m.handle],
    pool := { s.pool with
      mirrors := setAt s.pool.mirrors i n,
      fences := s.pool.fences.map fun f => if f.idx = m.fence && f.mirror then { f with value := max f.value n.value } else f } }

/-- A mirror that is due is polled, and the poll is charged and traced. -/
theorem exec_mirrorPoll {s : State} {i : Nat} {m : Mirror} (st : Option Nat) (v : Nat) (hmute : s.poolMute = false)
    (hactive : s.active = true) (hm : s.pool.mirrors[i]? = some m) (hon : m.enable = true) (hoff : m.state ≠ 0)
    (hlive : m.state ≠ 3) (hdue : m.polled + m.period ≤ s.frame.number) :
    exec (.mirrorPoll i st v) s = .next (((s.mirrorAnswered i m (mirrorAfter { m with polled := s.frame.number } st v)).charge
      m.party m.party 1 false).traceDevice m.party (st.getD stNotReady) (unitPool 0) m.party 0 1 i) := by
  show execMirrorPoll i st v s = _
  unfold execMirrorPoll
  rw [hm]
  dsimp only
  rw [if_neg (by simp [hmute, hactive, hon, hoff, hlive, hdue])]
  rfl

/-- What is charged and traced leaves the pool's registry and what is sent. -/
theorem State.chargedTrace_keeps (s : State) (p c n st src x a l o : Nat) :
    let t := (s.charge p c n false).traceDevice p st src x a l o
    poolRegistry t = poolRegistry s ∧ t.out = s.out := by
  have htrace := (State.charge_touches s p c n false).trace.trans (State.traceDevice_touches _ p st src x a l o)
  unfold touchesTrace at htrace
  exact ⟨(State.traceOut_poolRegistry _ _).trans (State.charge_poolRegistry _ _ _ _ _), (congrArg State.out htrace).trans rfl⟩

theorem getElem?_setAt_ne {α : Type} (l : List α) {i j : Nat} (h : j ≠ i) (x : α) : (setAt l i x)[j]? = l[j]? := by
  unfold setAt
  induction l generalizing i j with
  | nil => rfl
  | cons y ys ih => cases i with
    | zero => cases j with
      | zero => exact absurd rfl h
      | succ j => rfl
    | succ i => cases j with
      | zero => rfl
      | succ j => exact ih fun e => h (congrArg (· + 1) e)

theorem getElem?_setAt_self {α : Type} {l : List α} {i : Nat} {y : α} (h : l[i]? = some y) (x : α) :
    (setAt l i x)[i]? = some x := by
  unfold setAt
  induction l generalizing i with
  | nil => cases h
  | cons z zs ih => cases i with
    | zero => rfl
    | succ i => exact ih h

theorem residencyAndMirrorsPart_holds : residencyAndMirrorsPart := by
  intro s
  refine ⟨residencyPart_holds s, fun i m st v hmute hactive hm hon hoff hlive hdue => ?_⟩
  obtain ⟨hregistry, hout⟩ := (s.mirrorAnswered i m (mirrorAfter { m with polled := s.frame.number } st v)).chargedTrace_keeps
    m.party m.party 1 (st.getD stNotReady) (unitPool 0) m.party 0 1 i
  obtain ⟨hpolled, hsrc, hparty, hhandle, hfence, hrises, hmissed, hvalue, hlower, hgone⟩ :=
    mirrorAfter_spec { m with polled := s.frame.number } st v
  simp only [poolRegistry, Prod.mk.injEq] at hregistry
  obtain ⟨hfences, hmirrors, -⟩ := hregistry
  refine ⟨_, mirrorAfter { m with polled := s.frame.number } st v, exec_mirrorPoll st v hmute hactive hm hon hoff hlive hdue, ?_,
    hpolled, hsrc, hparty, hhandle, hfence, hrises, hmissed, hvalue, hlower, hgone, fun j hj => ?_, hfences, hout⟩
  · rw [hmirrors]
    exact getElem?_setAt_self hm _
  · rw [hmirrors]
    exact getElem?_setAt_ne _ hj _

/-- Settles O38: queue commands run what their opcode names, and a poll's answer moves its mirror and fence alone. -/
theorem jobsResidencyAndMirrorsComplete : Obligations.JobsResidencyAndMirrorsComplete :=
  ⟨jobCommandsPart_holds, residencyAndMirrorsPart_holds⟩

end Sys2Proof.Machine
end

section
/-! SUPPORT. What an output written to a cluster leaves of its walker, counters filtered by party, and issues on their way. -/

namespace Sys2Proof.Machine

open Sys2Proof

/-! Counters that are filtered by party (R228) -/

theorem pkey_ne_self (p k : Nat) : pkey p k ≠ k := by
  unfold pkey
  omega

theorem State.reg_bumpFor_self (s : State) (p k n : Nat) : (s.bumpFor p k n).reg k = (s.reg k + n) % 4294967296 := by
  unfold State.bumpFor
  rw [State.reg_bump_ne _ _ _ _ (pkey_ne_self p k), State.reg_bump_self]

theorem State.reg_bumpFor_ne (s : State) (p n : Nat) {k j : Nat} (h : k ≠ j) (hp : pkey p k ≠ j) :
    (s.bumpFor p k n).reg j = s.reg j := by
  unfold State.bumpFor
  rw [State.reg_bump_ne _ _ _ _ hp, State.reg_bump_ne _ _ _ _ h]

/-- A counter filtered by party leaves registers of another subindex alone. -/
theorem State.reg_bumpFor_of_sub (s : State) (p n : Nat) {k j : Nat} (h : k % 256 ≠ j % 256) :
    (s.bumpFor p k n).reg j = s.reg j :=
  State.reg_bumpFor_ne s p n (fun e => h (e ▸ rfl)) (by unfold pkey; omega)

/-! Work on one cluster -/

/-- The other walkers are as before, and of cluster c's walker what v shows. -/
def keepsWalkers {γ : Type} (v : Walker → γ) (c : Nat) (s t : State) : Prop :=
  t.walkers.length = s.walkers.length ∧ otherWalkers s t c ∧ v (t.walker c) = v (s.walker c)

section Keeps
variable {γ : Type} {v : Walker → γ} {c : Nat} {s t u : State}

theorem keepsWalkers.of_walkers (h : t.walkers = s.walkers) : keepsWalkers v c s t := by
  unfold keepsWalkers otherWalkers State.walker
  rw [h]
  exact ⟨rfl, fun _ _ => rfl, rfl⟩

theorem keepsWalkers.refl (v : Walker → γ) (c : Nat) (s : State) : keepsWalkers v c s s := .of_walkers rfl

theorem keepsWalkers.trans (h : keepsWalkers v c s t) (k : keepsWalkers v c t u) : keepsWalkers v c s u :=
  ⟨k.1.trans h.1, fun i hi => (k.2.1 i hi).trans (h.2.1 i hi), k.2.2.trans h.2.2⟩

theorem State.onWalker_keeps (s : State) (c : Nat) {f : Walker → Walker} (h : ∀ w, v (f w) = v w) :
    keepsWalkers v c s (s.onWalker c f) :=
  ⟨length_upd _ _ _, fun i hi => State.walker_onWalker_ne s c i f hi, getD_upd_view v s.walkers c c f _ h⟩

theorem keepsWalkers.map {δ : Type} {w : Walker → δ} (h : keepsWalkers v c s t) (f : γ → δ) (hf : ∀ x, w x = f (v x)) :
    keepsWalkers w c s t :=
  ⟨h.1, h.2.1, by rw [hf, hf, h.2.2]⟩

end Keeps

theorem touchesPool.walkers {s t : State} (h : touchesPool s t) : t.walkers = s.walkers := by
  unfold touchesPool at h
  rw [h]

theorem touchesRegs.walkers {s t : State} (h : touchesRegs s t) : t.walkers = s.walkers := by
  unfold touchesRegs at h
  rw [h]

theorem touchesTrace.walkers {s t : State} (h : touchesTrace s t) : t.walkers = s.walkers := by
  unfold touchesTrace at h
  rw [h]

theorem touchesFault.walkers {s t : State} (h : touchesFault s t) : t.walkers = s.walkers := by
  unfold touchesFault at h
  rw [h]

theorem touchesData.reg {s t : State} (h : touchesData s t) (k : Nat) : t.reg k = s.reg k := by
  unfold touchesData at h
  rw [h]
  rfl

/-! Outputs (R27, R89, R117) -/

/-- A walker but for its activation buffer. -/
def Walker.unbuffered (w : Walker) : Walker := { w with buffer := [], valid := [] }

theorem putBuf_unbuffered (w : Walker) (a : Nat) (bs : List Byte) (valid : Bool) :
    (putBuf w a bs valid).unbuffered = w.unbuffered := rfl

theorem State.putOut_keeps (s : State) (c g : Nat) (d : List Byte) (e b j : Nat) (bs : List Byte) (valid : Bool) :
    keepsWalkers Walker.unbuffered c s (s.putOut c g d e b j bs valid) := by
  unfold State.putOut
  extract_lets a p t m old new
  split
  · have ht : touchesPool s t := (State.writeCtx_touches _ _ _ _ _).trans rfl
    clear_value t
    exact .of_walkers (ht.trans (State.writeCtx_touches _ _ _ _ _)).walkers
  · exact State.onWalker_keeps s c fun w => putBuf_unbuffered w _ _ _

theorem State.zeroTile_keeps (s : State) (c g : Nat) (d : List Byte) (e : Nat) (t : Tile) :
    keepsWalkers Walker.unbuffered c s (s.zeroTile c g d e t) :=
  foldl_rel (keepsWalkers Walker.unbuffered c) (.refl _ _) .trans _
    (fun s _ => foldl_rel (keepsWalkers Walker.unbuffered c) (.refl _ _) .trans _
      (fun s _ => State.putOut_keeps s _ _ _ _ _ _ _ _) _ s) _ s

theorem State.chargeOut_touchesPool (s : State) (g : Nat) (d : List Byte) (ls : List Nat) (planned : Bool) :
    touchesPool s (s.chargeOut g d ls planned) := by
  unfold State.chargeOut
  split
  · exact .rfl
  · exact State.charge_touches _ _ _ _ _

theorem State.zeroTiles_keeps (s : State) (c g : Nat) (d : List Byte) (lo hi : Nat) :
    keepsWalkers Walker.unbuffered c s (s.zeroTiles c g d lo hi) := by
  unfold State.zeroTiles
  split
  · exact .refl _ _ _
  · split
    · exact .refl _ _ _
    · exact keepsWalkers.trans
        (foldl_rel (keepsWalkers Walker.unbuffered c) (.refl _ _) .trans _ (fun s t => State.zeroTile_keeps _ _ _ _ _ _) _ s)
        (.of_walkers (State.chargeOut_touchesPool _ _ _ _ _).walkers)

/-! Issues on their way (R126, R134) -/

/-- Issues whose cycle has not come stay on their way. -/
theorem State.arrive_of_early (s : State) (h : ∀ c < 8, ∀ x ∈ s.onWay c, s.arrived x.1 = false) : s.arrive = s := by
  have hnone : (((List.range 8).flatMap s.onWay).filter fun x => false || s.arrived x.1) = [] := by
    refine List.filter_eq_nil_iff.2 fun x hx => ?_
    obtain ⟨c, hc, hxc⟩ := List.mem_flatMap.1 hx
    rw [h c (List.mem_range.1 hc) x hxc]
    decide
  unfold State.arrive
  rw [hnone]
  rfl

theorem flatMap_range_of_single {α : Type} {f : Nat → List α} {n c : Nat} (hc : c < n) (h : ∀ k, k < n → k ≠ c → f k = []) :
    (List.range n).flatMap f = f c := by
  induction n with
  | zero => cases hc
  | succ n ih =>
    rw [List.range_succ, List.flatMap_append, List.flatMap_singleton]
    rcases Nat.lt_succ_iff_lt_or_eq.1 hc with hlt | rfl
    · rw [ih hlt fun k hk => h k (Nat.lt_succ_of_lt hk), h n (Nat.lt_succ_self n) (Nat.ne_of_gt hlt), List.append_nil]
    · rw [List.flatMap_eq_nil_iff.2 fun k hk => h k (Nat.lt_succ_of_lt (List.mem_range.1 hk)) (Nat.ne_of_lt (List.mem_range.1 hk)),
        List.nil_append]

/-- The only issue on its way arrives once its cycle has come. -/
theorem State.arrive_of_single {s : State} {c n g due : Nat} {d : List Byte} (hc : c < 8)
    (hway : s.onWay c = [(due, c, n, g, d)]) (hothers : ∀ k, k < 8 → k ≠ c → s.onWay k = []) (hdue : s.arrived due = true) :
    s.arrive = s.arriveAt c n g due d := by
  unfold State.arrive
  rw [flatMap_range_of_single hc hothers, hway]
  simp only [List.filter_cons, Bool.false_or, hdue, if_true, List.filter_nil]
  rfl

/-- What an issue of a descriptor number puts on a cluster's queue. -/
def State.issuedTo (s : State) (g n c : Nat) : List QItem :=
  ((s.issueTargets g n).filter (·.1 = c)).map fun x => QItem.arriving n g (s.core.cycle + 4) x.2

/-- An issue goes on its way behind what was queued before on every cluster that it goes to. -/
theorem State.walker_issue (s : State) (g n : Nat) {c : Nat} (hc : c < s.walkers.length) :
    (s.issue g n).walker c = { s.walker c with
      queue := (s.walker c).queue ++ s.issuedTo g n c, issued := (s.walker c).issued + (s.issuedTo g n c).length } := by
  unfold State.issue State.issuedTo
  generalize s.issueTargets g n = targets
  induction targets generalizing s with
  | nil => simp
  | cons x xs ih =>
    have hlen : c < (s.onWalker x.1 fun w => pushItem w (.arriving n g (s.core.cycle + 4) x.2)).walkers.length := by
      simpa using hc
    rw [List.foldl_cons, ih _ hlen]
    by_cases h : x.1 = c
    · subst h
      have hpush : (s.onWalker x.1 fun w => pushItem w (.arriving n g (s.core.cycle + 4) x.2)).walker x.1 = { s.walker x.1 with
          queue := (s.walker x.1).queue ++ [.arriving n g (s.core.cycle + 4) x.2], issued := (s.walker x.1).issued + 1 } :=
        State.walker_onWalker_self s x.1 _ hc
      rw [hpush]
      simp [Nat.add_assoc, Nat.add_comm 1]
    · rw [State.walker_onWalker_ne s x.1 c _ (Ne.symm h)]
      simp [h]

/-- The walkers' place in the queue of a refused issue or of one that is taken: an issue that is all that a free walker has. -/
theorem settleItem_of_single {w : Walker} {old : QItem} (hqueue : w.queue = [old]) (hrun : w.running = none) (new : QItem) :
    settleItem w old new = drainMoves { w with queue := [new] } [new] := by
  unfold settleItem
  rw [hqueue]
  simp [hrun]

end Sys2Proof.Machine
end

section
/-! PROOF. Issues, fence advances and handle forms of the control core. -/

namespace Sys2Proof.Machine

open Sys2Proof

/-! Slots M and V (Tables CORE-5 to CORE-7) -/

/-- A slot whose form is in order has its effect for the segment that runs. -/
theorem exec_of_slot {s : State} {g : Nat} {i : Instr} {ok : Bool} {f : State → Nat → State} (hi : exec i s = s.slot ok f)
    (hseg : s.coreSeg = some g) (hok : ok = true) : exec i s = .next (f s g) := by
  rw [hi]
  unfold State.slot
  rw [hseg, hok]
  rfl

theorem State.stageFadv_of_room {s : State} {g : Nat} (h : (s.core.fadvs.filter fun x => x.seg = g).length < 8) (f v : Nat) :
    s.stageFadv g f v = s.onBundle fun b => { b with fadvs := b.fadvs ++ [(f, v)] } := if_neg (Nat.not_le.2 h)

theorem State.stageFadv_of_full {s : State} {g : Nat} (h : 8 ≤ (s.core.fadvs.filter fun x => x.seg = g).length) (f v : Nat) :
    s.stageFadv g f v = s.coreStop excQueueFull := if_pos h

theorem coreIssueAndAdvancePart_holds : coreIssueAndAdvancePart := by
  intro f s g hseg hreserved
  have hform : (decide (Slot.m = .m) && mReserved f) = true := decide_eq_true hreserved
  have hevenForm (heven : mGp f % 2 = 0) : (decide (Slot.m = .m) && mReserved f && decide (mGp f % 2 = 0)) = true := by
    rw [hform, heven]
    rfl
  have hfadvf := exec_of_slot (i := .fadvf .m f) (f := fun s g => s.stageFadv g (mFence f) s.frame.number) rfl hseg hform
  have hfadv (heven : mGp f % 2 = 0) := exec_of_slot (i := .fadv .m f)
    (f := fun s g => s.stageFadv g (mFence f) (pairValue (s.g (mGp f)) (s.g (mGp f + 1)))) rfl hseg (hevenForm heven)
  have hpair : pairValue (s.g (mGp f)) (s.g (mGp f + 1)) = (s.g (mGp f)).toNat + 2 ^ 32 * (s.g (mGp f + 1)).toNat := by
    unfold pairValue
    omega
  refine ⟨exec_of_slot (f := fun s _ => s.stageIssue (s.core.handles.getD (mHandle f) 0)) rfl hseg hform,
    exec_of_slot (f := fun s _ => s.stageIssue (mNumber f)) rfl hseg hform,
    fun hroom => ⟨?_, fun heven => ?_⟩, fun hfull => ⟨?_, fun heven => ?_⟩⟩
  · exact hfadvf.trans (congrArg _ (State.stageFadv_of_room hroom _ _))
  · refine (hfadv heven).trans (congrArg _ ?_)
    rw [hpair]
    exact State.stageFadv_of_room hroom _ _
  · exact hfadvf.trans (congrArg _ (State.stageFadv_of_full hfull _ _))
  · exact (hfadv heven).trans (congrArg _ (State.stageFadv_of_full hfull _ _))

theorem coreHandleFormsPart_holds : coreHandleFormsPart := by
  intro f s g hseg hreserved
  have hform : (decide (Slot.v = .v) && vReserved f) = true := decide_eq_true hreserved
  exact ⟨
    exec_of_slot (f := fun s _ => s.stageHandle (vN f) ((s.g (vG f)).toNat % 2048)) rfl hseg hform,
    exec_of_slot (f := fun s _ => s.stageHandle (vN f) ((vImm f).toNat % 2048)) rfl hseg hform,
    exec_of_slot (f := fun s _ => s.stageHandle (vN f)
      (clampI 0 2047 (s.core.handles.getD (vN f) 0 + (vImm f).toInt)).toNat) rfl hseg hform,
    exec_of_slot (f := fun s _ => s.stageWrite .v 1 (vG f) (BitVec.ofNat 32 (s.core.handles.getD (vN f) 0))) rfl hseg hform,
    exec_of_slot (f := fun s g => s.stageWrite .v 2 (vG f) (s.statItem g ((vImm f).toNat % 256))) rfl hseg hform⟩

/-! Issues (R126, R127) -/

/-- The issues on their way after one more of them left nothing else on its way. -/
theorem State.onWay_issue {s : State} (h : noneOnWay s) (hlen : s.walkers.length = 8) (g n : Nat) {c : Nat} (hc : c < 8)
    {x : Nat × Nat × Nat × Nat × List Byte} (hx : x ∈ (s.issue g n).onWay c) : x.1 = s.core.cycle + 4 := by
  have hnone := h c hc
  unfold State.onWay at hx hnone
  rw [s.walker_issue g n (hlen ▸ hc), List.filterMap_append, hnone, List.nil_append] at hx
  obtain ⟨item, hitem, hsome⟩ := List.mem_filterMap.1 hx
  obtain ⟨y, -, rfl⟩ := List.mem_map.1 hitem
  exact (congrArg (·.1) (Option.some.inj hsome)).symm

/-- A bundle that issues one descriptor and nothing else leaves the walkers as the issue does, and the husk as it was. -/
theorem State.takeBundle_of_issue {s : State} {g n : Nat} (h : s.core.bundle = { Bundle.blank with issues := [n] }) :
    (s.takeBundle g).walkers = (s.issue g n).walkers ∧ (s.takeBundle g).husk = s.husk := by
  have hissue := s.issue_touches g n
  unfold touchesData at hissue
  have hhusk : (s.issue g n).husk = s.husk := (congrArg State.husk hissue).trans rfl
  unfold State.takeBundle
  rw [h]
  simp only [Bundle.blank, List.foldl_cons, List.foldl_nil, State.onCore_walkers, State.onCore_husk]
  exact ⟨trivial, hhusk⟩

/-- Going on to a bundle within the code range while no issue's cycle has come. -/
theorem State.goto_walkers_of_early {s : State} {g pc dc : Nat} (hpc : pc < s.codeLen g)
    (h : ∀ c < 8, ∀ x ∈ s.onWay c, s.core.cycle + dc < x.1 ∧ s.now < s.core.entry + x.1 * 5 / 2) :
    (s.goto g pc dc).walkers = s.walkers := by
  have hearly : ((s.onCore fun c => { c with pc := pc, cycle := c.cycle + dc }).retire).arrive =
      (s.onCore fun c => { c with pc := pc, cycle := c.cycle + dc }).retire := by
    refine State.arrive_of_early _ fun c hc x hx => ?_
    obtain ⟨hcycle, hnow⟩ := h c hc x hx
    exact Bool.or_eq_false_iff.2 ⟨decide_eq_false (Nat.not_le.2 hcycle), decide_eq_false (Nat.not_le.2 hnow)⟩
  unfold State.goto
  rw [hearly]
  exact (congrArg State.walkers (if_pos hpc)).trans rfl

theorem issuesGoOnTheirWayPart_holds : issuesGoOnTheirWayPart := by
  intro s g n hseg hbundle hnone hpc hnow hlen
  obtain ⟨hwalkers, hhusk⟩ := State.takeBundle_of_issue (g := g) hbundle
  obtain ⟨hplace, -, hloader⟩ := s.takeBundle_place g
  simp only [corePlace, Prod.mk.injEq] at hplace
  obtain ⟨-, -, hcycle, hentry, -, -⟩ := hplace
  have hcode : s.core.pc + 1 < (s.takeBundle g).codeLen g := by
    unfold State.codeLen State.segImg
    rw [hloader]
    exact hpc
  have hout : (s.nextBundle g).walkers = (s.issue g n).walkers := by
    refine (State.goto_walkers_of_early hcode fun c hc x hx => ?_).trans hwalkers
    have hway : (s.takeBundle g).onWay c = (s.issue g n).onWay c := by
      unfold State.onWay State.walker
      rw [hwalkers]
    rw [hway] at hx
    rw [State.onWay_issue hnone hlen g n hc hx, hcycle, hentry]
    refine ⟨by omega, ?_⟩
    rw [State.now, hhusk]
    exact hnow
  refine ⟨_, exec_of_slot (i := .nop .k) (f := State.nextBundle) rfl hseg rfl, fun c hc => ?_⟩
  have hwalker : (s.nextBundle g).walker c = _ := (congrArg (·.getD c Walker.blank) hout).trans (s.walker_issue g n (hlen ▸ hc))
  dsimp only
  refine ⟨?_, ?_, ?_⟩
  · exact (congrArg Walker.queue hwalker).trans rfl
  · exact (congrArg Walker.issued hwalker).trans rfl
  · exact (congrArg Walker.running hwalker).trans rfl

/-! Arrivals (R89, R126, R127, R136) -/

/-- A record that no history counts is the newest of the log as it was made. -/
theorem State.raise_log_of_uncounted (s : State) {r : FaultRec} (h : recCounts r = false) :
    (s.raise r).integ.log.getLast? = some r := by
  unfold State.raise
  dsimp only
  rw [List.getLast?_concat, State.countRec_of_uncounted h]

@[simp] theorem State.flagFault_integ (s : State) (g : Nat) : (s.flagFault g).integ = s.integ := rfl
@[simp] theorem State.flagFault_reg (s : State) (g k : Nat) : (s.flagFault g).reg k = s.reg k := rfl
@[simp] theorem State.flagFault_core (s : State) (g : Nat) : (s.flagFault g).core = s.core := rfl
@[simp] theorem State.flagFault_walkers (s : State) (g : Nat) : (s.flagFault g).walkers = s.walkers := rfl

/-- The CHECK record of a refused issue. -/
def State.issueFault (s : State) (c g n : Nat) : FaultRec :=
  { (s.bumpFor (s.segParty g) (okey (0x3200 + c) 4)).mkRec clsCheck 3 (unitCluster c)
      ((s.bumpFor (s.segParty g) (okey (0x3200 + c) 4)).segParty g) n with desc := n }

theorem State.issueRecord_eq (s : State) (c g n : Nat) :
    s.issueRecord c g n = ((s.bumpFor (s.segParty g) (okey (0x3200 + c) 4)).raise (s.issueFault c g n)).flagFault g := rfl

theorem State.issueRecord_log (s : State) (c g n : Nat) :
    (s.issueRecord c g n).integ.log.getLast? = some (s.issueFault c g n) := by
  rw [State.issueRecord_eq, State.flagFault_integ]
  exact State.raise_log_of_uncounted _ rfl

theorem State.issueRecord_reg (s : State) (c g n : Nat) {k : Nat} (hk : ¬ recordCounter k) :
    (s.issueRecord c g n).reg k = (s.bumpFor (s.segParty g) (okey (0x3200 + c) 4)).reg k := by
  rw [State.issueRecord_eq, State.flagFault_reg]
  exact State.raise_reg_of_uncounted _ rfl hk

theorem State.issueRecord_core (s : State) (c g n : Nat) : (s.issueRecord c g n).core = s.core := by
  obtain ⟨t, ht⟩ : ∃ t, (s.bumpFor (s.segParty g) (okey (0x3200 + c) 4)).raise (s.issueFault c g n) = t := ⟨_, rfl⟩
  have h := (State.bumpFor_touches s _ _ _).record.trans (ht ▸ State.raise_record_of_uncounted _ rfl)
  unfold touchesRecord at h
  rw [State.issueRecord_eq, State.flagFault_core, ht, h]

theorem State.issueRecord_walkers (s : State) (c g n : Nat) : (s.issueRecord c g n).walkers = s.walkers := by
  rw [State.issueRecord_eq, State.flagFault_walkers, (State.raise_touches _ _).walkers]
  exact (State.bumpFor_touches _ _ _ _).walkers

theorem testBit_setBit_self (m i : Nat) : (setBit m i).testBit i = true := by
  simp [setBit, Nat.testBit_shiftLeft]

theorem coreReg_not_recordCounter {g i : Nat} (h : 2 < i) (h' : i < 256) : ¬ recordCounter (coreReg g i) := by
  unfold recordCounter coreReg okey
  omega

/-- The counters of a descriptor exception (R136, Table CORE-10). -/
def State.descCounted (s : State) (g : Nat) : State :=
  ((s.bump (coreReg g 7)).setReg (coreReg g 4) 1).setReg (coreReg g 5) s.frame.number

theorem coreReg_ne (g : Nat) {i j : Nat} (h : i ≠ j) : coreReg g i ≠ coreReg g j := by
  unfold coreReg okey
  omega

theorem State.descException_eq (s : State) (g : Nat) : s.descException g =
    if s.core.seg = some g then { s.descCounted g with core := { s.core with descExc := s.core.descExc + 1 } }
    else s.descCounted g := rfl

theorem State.descException_reg (s : State) (g k : Nat) : (s.descException g).reg k = (s.descCounted g).reg k := by
  rw [State.descException_eq]
  split <;> rfl

theorem State.descException_count (s : State) (g : Nat) :
    (s.descException g).reg (coreReg g 7) = (s.reg (coreReg g 7) + 1) % 2 ^ 32 := by
  rw [State.descException_reg]
  unfold State.descCounted
  rw [State.reg_setReg_ne _ _ _ _ (coreReg_ne g (by decide)), State.reg_setReg_ne _ _ _ _ (coreReg_ne g (by decide))]
  exact State.reg_bump_self _ _ _

theorem State.descException_reg_of_lt (s : State) {g k : Nat} (h : k < coreReg g 4) : (s.descException g).reg k = s.reg k := by
  have hne (i : Nat) (hi : 4 ≤ i) : coreReg g i ≠ k := by
    unfold coreReg okey at h ⊢
    omega
  rw [State.descException_reg]
  unfold State.descCounted
  rw [State.reg_setReg_ne _ _ _ _ (hne 5 (by decide)), State.reg_setReg_ne _ _ _ _ (hne 4 (by decide)),
    State.reg_bump_ne _ _ _ _ (hne 7 (by decide))]

/-- It changes nothing beside its counters but the core's own count. -/
theorem State.descException_rest (s : State) (g : Nat) :
    (s.descException g).walkers = s.walkers ∧ (s.descException g).integ = s.integ ∧ (s.descException g).frame = s.frame ∧
      (s.core.seg = some g → (s.descException g).core = { s.core with descExc := s.core.descExc + 1 }) := by
  rw [State.descException_eq]
  split
  · exact ⟨rfl, rfl, rfl, fun _ => rfl⟩
  · exact ⟨rfl, rfl, rfl, fun h => absurd h ‹_›⟩

/-- The outputs that a refused issue leaves invalid (R89). -/
def State.refusedOutputs (s : State) (c g : Nat) (d : List Byte) : State :=
  if d.isEmpty then s else
    match s.segImg g with
    | some img =>
      match objOf img (dObj d) with
      | some o => if dBt d = 0 ∨ dCt d = 0 then s else
          s.zeroTiles c g d (shareOf (tileCount o d) (dMask d) c).1 (shareOf (tileCount o d) (dMask d) c).2
      | none => s
    | none => s

theorem State.refuseIssue_eq (s : State) (c g n : Nat) (d : List Byte) :
    s.refuseIssue c g n d = ((s.refusedOutputs c g d).issueRecord c g n).descException g := rfl

theorem State.refusedOutputs_keeps (s : State) (c g : Nat) (d : List Byte) :
    keepsWalkers Walker.unbuffered c s (s.refusedOutputs c g d) ∧ touchesData s (s.refusedOutputs c g d) := by
  have hnone : keepsWalkers Walker.unbuffered c s s ∧ touchesData s s := ⟨.refl _ _ _, .rfl⟩
  unfold State.refusedOutputs
  split
  · exact hnone
  · split
    · split
      · split
        · exact hnone
        · exact ⟨s.zeroTiles_keeps _ _ _ _ _, s.zeroTiles_touches _ _ _ _ _⟩
      · exact hnone
    · exact hnone

theorem State.refuseIssue_keeps (s : State) (c g n : Nat) (d : List Byte) :
    keepsWalkers Walker.unbuffered c s (s.refuseIssue c g n d) := by
  rw [State.refuseIssue_eq]
  refine (s.refusedOutputs_keeps c g d).1.trans (.of_walkers ?_)
  exact (State.descException_rest _ g).1.trans (State.issueRecord_walkers _ _ _ _)

/-- What a refused issue raises, counts and leaves to the core. -/
theorem State.refuseIssue_raised (s : State) {c : Nat} (hc : c < 8) (g n : Nat) (d : List Byte) :
    let t := s.refuseIssue c g n d
    t.integ.log.getLast?.map (fun r => (r.cls, r.cause, r.unit, r.desc)) = some (clsCheck, 3, unitCluster c, n) ∧
      t.reg (okey (0x3200 + c) 4) = (s.reg (okey (0x3200 + c) 4) + 1) % 2 ^ 32 ∧
      t.reg (coreReg g 7) = (s.reg (coreReg g 7) + 1) % 2 ^ 32 ∧ t.frame.fault.testBit g = true ∧
      (s.core.seg = some g → t.core = { s.core with descExc := s.core.descExc + 1 }) := by
  intro t
  obtain ⟨u, hu⟩ : ∃ u, s.refusedOutputs c g d = u := ⟨_, rfl⟩
  have hdata : touchesData s u := hu ▸ (s.refusedOutputs_keeps c g d).2
  have ht : t = (u.issueRecord c g n).descException g := hu ▸ s.refuseIssue_eq c g n d
  obtain ⟨-, hinteg, hframe, hcore⟩ := (u.issueRecord c g n).descException_rest g
  have hlow : okey (0x3200 + c) 4 < coreReg g 4 := by
    unfold coreReg okey
    omega
  have hrefused : ¬ recordCounter (okey (0x3200 + c) 4) := by
    unfold recordCounter okey
    omega
  have hsub : okey (0x3200 + c) 4 % 256 ≠ coreReg g 7 % 256 := by
    unfold coreReg okey
    omega
  have hucore : u.core = s.core := by
    unfold touchesData at hdata
    exact (congrArg State.core hdata).trans rfl
  rw [ht]
  refine ⟨?_, ?_, ?_, ?_, fun hseg => ?_⟩
  · rw [hinteg, State.issueRecord_log]
    rfl
  · rw [State.descException_reg_of_lt _ hlow, State.issueRecord_reg _ _ _ _ hrefused, State.reg_bumpFor_self, hdata.reg]
    rfl
  · rw [State.descException_count, State.issueRecord_reg _ _ _ _ (coreReg_not_recordCounter (by decide) (by decide)),
      State.reg_bumpFor_of_sub _ _ _ hsub, hdata.reg]
  · rw [hframe]
    exact testBit_setBit_self _ _
  · rw [State.issueRecord_core, hucore] at hcore
    exact hcore hseg

theorem exec_waitEnd_of_no_wait {s : State} (h : s.core.wait = none) : exec .waitEnd s = .next s.arrive := by
  have hwait : s.arrive.core.wait = none := by
    have := s.arrive_touches false
    unfold touchesIssue at this
    rw [this]
    exact h
  show execWaitEnd s = _
  unfold execWaitEnd
  dsimp only
  rw [hwait]
  split <;> simp_all

theorem issuesReachTheirWalkersPart_holds : issuesReachTheirWalkersPart := by
  intro s c n g due d hc hlen hwait hqueue hrun hothers hdue
  have hclen : c < s.walkers.length := hlen ▸ hc
  have hway : s.onWay c = [(due, c, n, g, d)] := by
    unfold State.onWay
    rw [hqueue]
    rfl
  have hexec : exec .waitEnd s = .next (s.arriveAt c n g due d) := by
    rw [exec_waitEnd_of_no_wait hwait, State.arrive_of_single hc hway hothers (by simp [State.arrived, hdue])]
  refine ⟨fun hok => ⟨_, hexec, ?_⟩, fun hno => ⟨_, hexec, ?_⟩⟩
  · have ht : s.arriveAt c n g due d = s.onWalker c fun w => settleItem w (.arriving n g due d) (.run n g (dCtx d) d) := if_pos hok
    rw [ht]
    refine ⟨?_, fun k hk => s.walker_onWalker_ne c k _ hk, rfl⟩
    rw [State.walker_onWalker_self s c _ hclen, settleItem_of_single hqueue hrun]
    rfl
  · have ht : s.arriveAt c n g due d = (s.refuseIssue c g n d).onWalker c fun w => settleItem w (.arriving n g due d) .refused :=
      if_neg (by rw [hno]; decide)
    obtain ⟨hkeptlen, -, hkept⟩ := s.refuseIssue_keeps c g n d
    obtain ⟨w, hw⟩ : ∃ w, (s.refuseIssue c g n d).walker c = w := ⟨_, rfl⟩
    rw [hw] at hkept
    have hwqueue : w.queue = [.arriving n g due d] := (congrArg Walker.queue hkept).trans hqueue
    have hwrun : w.running = none := (congrArg Walker.running hkept).trans hrun
    have hwdone : w.finished = (s.walker c).finished := (congrArg Walker.finished hkept).trans rfl
    rw [ht]
    rw [State.walker_onWalker_self _ c _ (hkeptlen.symm ▸ hclen), hw, settleItem_of_single hwqueue hwrun]
    simp only [State.onWalker_integ, State.onWalker_reg, State.onWalker_frame, State.onWalker_core]
    exact ⟨rfl, congrArg (· + 1) hwdone, s.refuseIssue_raised hc g n d⟩

/-! Fence advances (R128, R268) -/

/-- The fences once one of them has risen (R268). -/
def State.raisedFences (s : State) (f : Fence) (v : Nat) : List Fence :=
  s.pool.fences.map fun h => if h.idx = f.idx then { h with value := max f.value v } else h

/-- An advance that is traced leaves the raised fence, whatever else of the pool it changed before. -/
theorem State.traceOut_raised {s u : State} {fs : List Fence} (hu : touchesPool s u) (hfences : u.pool.fences = fs) (r : TraceRec) :
    (u.traceOut r).pool.fences = fs ∧ touchesTrace s (u.traceOut r) :=
  ⟨(congrArg (·.1) (u.traceOut_poolRegistry r)).trans hfences, hu.trace.trans (u.traceOut_touches r)⟩

theorem State.advanceFence_spec (s : State) {f : Fence} (h : f.mirror = false) (v : Nat) :
    (s.advanceFence f v).2.2.pool.fences = s.raisedFences f v ∧ touchesTrace s (s.advanceFence f v).2.2 := by
  unfold State.advanceFence
  dsimp only
  rw [if_neg (by rw [h]; decide)]
  by_cases hchaff : s.isChaff (f.phys / 64) = true
  · rw [if_pos hchaff]
    exact State.traceOut_raised (by unfold touchesPool; rfl) rfl _
  · rw [if_neg hchaff]
    exact State.traceOut_raised (by unfold touchesPool; rfl) rfl _

/-- A segment's own fence that a pending advance names is advanced and charged once the advance is taken. -/
theorem State.performAdvance_of_own {s w : State} {x : FadvItem} {f : Fence}
    (hw : s.onCore (fun c => { c with fadvs := c.fadvs.erase x }) = w) (hfence : w.tableFence x.seg x.fence = .ok f)
    (hown : f.mirror = false) (hparty : f.party = s.segParty x.seg) :
    s.performAdvance x = (w.advanceFence f x.value).2.2.charge f.party f.ctx 1 true := by
  have hwparty : w.segParty x.seg = s.segParty x.seg := hw ▸ rfl
  unfold State.performAdvance
  rw [hw]
  dsimp only
  rw [hfence]
  dsimp only
  rw [if_neg (by simp [hown, hparty, hwparty])]

theorem performedAdvanceRaisesFencePart_holds : performedAdvanceRaisesFencePart := by
  intro s u x f hu holdest hfence hown hparty
  obtain ⟨w, hw⟩ : ∃ w, u.onCore (fun c => { c with fadvs := c.fadvs.erase x }) = w := ⟨_, rfl⟩
  obtain ⟨hfences, htouches⟩ := w.advanceFence_spec hown x.value
  have htouches : touchesTrace w ((w.advanceFence f x.value).2.2.charge f.party f.ctx 1 true) :=
    htouches.trans (State.charge_touches _ _ _ _ _).trace
  have hexec : exec .fenceAdvancePerformed s = .next ((w.advanceFence f x.value).2.2.charge f.party f.ctx 1 true) := by
    show execFenceAdvancePerformed s = _
    unfold execFenceAdvancePerformed
    rw [← hu]
    dsimp only
    rw [holdest]
    exact congrArg _ (State.performAdvance_of_own hw (hw ▸ hfence) hown hparty)
  subst hw
  refine ⟨_, hexec, ?_, hfences, ?_, fun hnone => hu.trans (s.arrive_none false hnone)⟩
  all_goals
    generalize State.charge _ _ _ _ _ = t at htouches ⊢
    unfold touchesTrace at htouches
    have hcore : t.core = { u.core with fadvs := u.core.fadvs.erase x } := (congrArg State.core htouches).trans rfl
  · exact hcore
  · rw [hcore]
    exact htouches

/-- Settles O4: slots stage their effects, an issue goes on its way and is taken or refused once its cycle has come, and an
advance raises its fence to the maximum. -/
theorem coreIssuesAndHandlesComplete : Obligations.CoreIssuesAndHandlesComplete :=
  ⟨coreIssueAndAdvancePart_holds, issuesGoOnTheirWayPart_holds, issuesReachTheirWalkersPart_holds,
    performedAdvanceRaisesFencePart_holds, coreHandleFormsPart_holds⟩

end Sys2Proof.Machine
end

section
/-! SUPPORT. Tiles that are skipped: which, what the instruction keeps, and what the skipping touches. -/

namespace Sys2Proof.Machine

open Sys2Proof

/-- What skipping tiles may touch: counters, prepared tiles that are cancelled, and their contexts' usage (R91, R93). -/
def touchesSkip (s t : State) : Prop := t = { s with ahead := t.ahead, od := t.od, pool := t.pool }

theorem touchesSkip.rfl {s : State} : touchesSkip s s := by unfold touchesSkip; rfl
theorem touchesSkip.trans {s t u : State} (h : touchesSkip s t) (k : touchesSkip t u) : touchesSkip s u := by
  unfold touchesSkip at h k ⊢
  refine k.trans ?_
  rw [h]
theorem touchesRegs.skip {s t : State} (h : touchesRegs s t) : touchesSkip s t := by
  unfold touchesRegs at h
  unfold touchesSkip
  rw [h]
theorem touchesPool.skip {s t : State} (h : touchesPool s t) : touchesSkip s t := by
  unfold touchesPool at h
  unfold touchesSkip
  rw [h]
theorem touchesSkip.walkers {s t : State} (h : touchesSkip s t) : t.walkers = s.walkers := by
  unfold touchesSkip at h
  rw [h]

/-- What the start or the end of an instruction may touch: its walker, and what skipping tiles and a trace may touch. -/
def touchesWork (s t : State) : Prop :=
  t = { s with walkers := t.walkers, ahead := t.ahead, od := t.od, pool := t.pool, test := t.test }

theorem touchesWork.trans {s t u : State} (h : touchesWork s t) (k : touchesWork t u) : touchesWork s u := by
  unfold touchesWork at h k ⊢
  refine k.trans ?_
  rw [h]
theorem touchesSkip.work {s t : State} (h : touchesSkip s t) : touchesWork s t := by
  unfold touchesSkip at h
  unfold touchesWork
  rw [h]
theorem touchesTrace.work {s t : State} (h : touchesTrace s t) : touchesWork s t := by
  unfold touchesTrace at h
  unfold touchesWork
  rw [h]
theorem touchesData.work {s t : State} (h : touchesData s t) : touchesWork s t := by
  unfold touchesData at h
  unfold touchesWork
  rw [h]

theorem State.dropAhead_touches (s : State) (c : Nat) : touchesSkip s (s.dropAhead c) := by
  have hdrop (t : State) (l : List Ahead) : touchesSkip t { t with ahead := l } := by unfold touchesSkip; rfl
  unfold State.dropAhead
  split
  · extract_lets u
    have hu : touchesSkip s u := (State.bumpFor_touches _ _ _ _).skip.trans (State.use_touches _ _ _).skip
    clear_value u
    exact hu.trans (hdrop u _)
  · exact .rfl

theorem State.dropAheadAt_touches (s : State) (c desc n : Nat) : touchesSkip s (s.dropAheadAt c desc n) := by
  unfold State.dropAheadAt
  split
  · exact s.dropAhead_touches c
  · exact .rfl

/-- Cancelled tiles are counted in the cluster's entry 0x3200:03. -/
theorem State.dropAhead_reg (s : State) (c : Nat) {k : Nat} (hk : k % 256 ≠ 3) : (s.dropAhead c).reg k = s.reg k := by
  have hsub : okey (0x3200 + c) 3 % 256 ≠ k % 256 := by
    unfold okey
    omega
  unfold State.dropAhead
  split
  · rename_i a _
    obtain ⟨u, hu⟩ : ∃ u, s.bumpFor a.party (okey (0x3200 + c) 3) = u := ⟨_, rfl⟩
    have hreg : u.reg k = s.reg k := hu ▸ State.reg_bumpFor_of_sub s _ _ hsub
    rw [hu]
    exact hreg
  · rfl

/-- Whether a tile begins at or beyond the batch length in force (R91). -/
def skippedTile (o : WObj) (r : Running) (i : Nat) : Prop := ∃ t, tileAt o r.bytes i = some t ∧ batchLen r ≤ t.b0

/-- A tile that is skipped is counted, and cancelled where run-ahead had prepared it. -/
def State.skipOne (s : State) (c : Nat) (r : Running) : State :=
  (s.bumpFor (s.segParty r.seg) (okey (0x3200 + c) 2)).dropAheadAt c r.desc r.next

theorem State.skipOne_touches (s : State) (c : Nat) (r : Running) : touchesSkip s (s.skipOne c r) :=
  (State.bumpFor_touches _ _ _ _).skip.trans (State.dropAheadAt_touches _ _ _ _)

theorem State.skipOne_reg (s : State) (c : Nat) (r : Running) {k : Nat} (h2 : k % 256 ≠ 2) (h3 : k % 256 ≠ 3) :
    (s.skipOne c r).reg k = s.reg k := by
  have hsub : okey (0x3200 + c) 2 % 256 ≠ k % 256 := by
    unfold okey
    omega
  unfold State.skipOne State.dropAheadAt
  split
  · rw [State.dropAhead_reg _ _ h3, State.reg_bumpFor_of_sub _ _ _ hsub]
  · rw [State.reg_bumpFor_of_sub _ _ _ hsub]

theorem State.skipTiles_of_skipped {s : State} {c : Nat} {o : WObj} {r : Running} (hmore : r.next < r.last)
    (hskip : skippedTile o r r.next) (n : Nat) :
    s.skipTiles c o (n + 1) r = (s.skipOne c r).skipTiles c o n { r with next := r.next + 1 } := by
  obtain ⟨t, ht, hb⟩ := hskip
  rw [State.skipTiles, if_neg (Nat.not_le.2 hmore), ht]
  exact if_pos hb

theorem State.skipTiles_of_not_skipped {s : State} {c : Nat} {o : WObj} {r : Running}
    (h : ¬ (r.next < r.last ∧ skippedTile o r r.next)) (n : Nat) : s.skipTiles c o (n + 1) r = (r, s) := by
  rw [State.skipTiles]
  split
  · rfl
  · rename_i hmore
    split
    · rename_i t ht
      exact if_neg fun hb => h ⟨Nat.not_le.1 hmore, t, ht, hb⟩
    · rfl

/-- Skipping moves nothing of the instruction but its next tile, passes skipped tiles alone and stops at the share's end. -/
theorem State.skipTiles_running (s : State) (c : Nat) (o : WObj) (n : Nat) (r : Running) (h : r.next ≤ r.last) :
    let q := (s.skipTiles c o n r).1
    q = { r with next := q.next } ∧ r.next ≤ q.next ∧ q.next ≤ r.last ∧ ∀ i, r.next ≤ i → i < q.next → skippedTile o r i := by
  induction n generalizing s r with
  | zero => exact ⟨rfl, Nat.le_refl _, h, fun i hi hi' => absurd hi' (Nat.not_lt.2 hi)⟩
  | succ n ih =>
    by_cases hskip : r.next < r.last ∧ skippedTile o r r.next
    · rw [State.skipTiles_of_skipped hskip.1 hskip.2]
      obtain ⟨hsame, hle, hlast, hall⟩ := ih (s.skipOne c r) { r with next := r.next + 1 } hskip.1
      refine ⟨hsame, Nat.le_of_succ_le hle, hlast, fun i hi hi' => ?_⟩
      rcases Nat.eq_or_lt_of_le hi with rfl | hlt
      · exact hskip.2
      · exact hall i hlt hi'
    · rw [State.skipTiles_of_not_skipped hskip]
      exact ⟨rfl, Nat.le_refl _, h, fun i hi hi' => absurd hi' (Nat.not_lt.2 hi)⟩

theorem State.skipTiles_touches (s : State) (c : Nat) (o : WObj) (n : Nat) (r : Running) :
    touchesSkip s (s.skipTiles c o n r).2 := by
  induction n generalizing s r with
  | zero => exact .rfl
  | succ n ih =>
    by_cases hskip : r.next < r.last ∧ skippedTile o r r.next
    · rw [State.skipTiles_of_skipped hskip.1 hskip.2]
      exact (s.skipOne_touches c r).trans (ih _ _)
    · rw [State.skipTiles_of_not_skipped hskip]
      exact .rfl

theorem State.skipTiles_reg (s : State) (c : Nat) (o : WObj) (n : Nat) (r : Running) {k : Nat} (h2 : k % 256 ≠ 2)
    (h3 : k % 256 ≠ 3) : (s.skipTiles c o n r).2.reg k = s.reg k := by
  induction n generalizing s r with
  | zero => rfl
  | succ n ih =>
    by_cases hskip : r.next < r.last ∧ skippedTile o r r.next
    · rw [State.skipTiles_of_skipped hskip.1 hskip.2, ih, State.skipOne_reg _ _ _ h2 h3]
    · rw [State.skipTiles_of_not_skipped hskip]

end Sys2Proof.Machine
end

section
/-! PROOF. The start of an instruction: its length, its share of the tiles and what it skips. -/

namespace Sys2Proof.Machine

open Sys2Proof

/-! The length and the share (R90, R94) -/

/-- The length that a descriptor declares: of K or of the batch. -/
def declaredLen (d : List Byte) : Nat := if dLenK d then dK d else dB d

/-- The length register that a descriptor names on a cluster. -/
def State.rawLen (s : State) (c : Nat) (d : List Byte) : Nat := (s.walker c).lens.getD (dLenReg d) 0

/-- An instruction as it starts on its share of the tiles. -/
def State.startedRun (s : State) (c n g ctx : Nat) (d : List Byte) (o : WObj) : Running :=
  { desc := n, seg := g, ctx := ctx, bytes := d,
    len := if dUseLen d then some (min (s.rawLen c d) (declaredLen d)) else none,
    next := (shareOf (tileCount o d) (dMask d) c).1, last := (shareOf (tileCount o d) (dMask d) c).2, ready := s.now, tile := none,
    accs := [], fetched := none, xs := [], taint := [], lenOut := [], did := 0, ran := false, done := false }

/-- A register above the declared length. -/
def State.lenClamps (s : State) (c : Nat) (d : List Byte) : Bool := dUseLen d && decide (declaredLen d < s.rawLen c d)

/-- The clamp of a length is counted. -/
def State.clampCounted (s : State) (c g : Nat) (d : List Byte) : State :=
  if s.lenClamps c d then s.bumpFor (s.segParty g) (okey (0x3200 + c) 5) else s

/-- The start of an instruction on a cluster is traced. -/
def State.startTraced (s : State) (c n g ctx : Nat) : State :=
  s.traceOut ⟨0x12, s.segParty g, false, false, stOk, unitCluster c, ctx, 0, 0, n, false⟩

theorem shareOf_le (total mask c : Nat) : (shareOf total mask c).1 ≤ (shareOf total mask c).2 := by
  have hnext : ((maskClusters mask).filter (· < c)).length * ceilDiv total (maskCount mask) ≤
      (((maskClusters mask).filter (· < c)).length + 1) * ceilDiv total (maskCount mask) :=
    Nat.mul_le_mul_right _ (Nat.le_succ _)
  exact min_le_min_left total hnext

/-- The start runs on the state after the issues that are due. -/
theorem exec_instructionStart {s₀ s : State} {c n g ctx : Nat} {d : List Byte} {rest : List QItem} {x : SegRec × Nat × Nat}
    {o : WObj} (hs : s = s₀.arrive) (hactive : s.active = true) (hwindow : s.openWindow = some x) (hseg : x.1.seg = g)
    (hrun : (s.walker c).running = none) (hqueue : (s.walker c).queue = .run n g ctx d :: rest) (hobj : objectOf s g d = some o) :
    let r := s.startedRun c n g ctx d o
    let q := ((s.clampCounted c g d).startTraced c n g ctx).skipTiles c o (r.last - r.next) r
    exec (.instructionStart c) s₀ = .next (q.2.onWalker c fun w =>
      { w with queue := rest, running := some { q.1 with done := decide (q.1.last ≤ q.1.next) } }) := by
  have hsame : (s₀.arrive.active = false ∨ ¬ x.1.seg = g) ↔ False := by
    rw [← hs, hactive, hseg]
    simp
  show execInstructionStart c s₀ = _
  unfold objectOf at hobj
  unfold execInstructionStart
  subst hs
  dsimp only
  rw [hwindow, hrun, hqueue]
  dsimp only
  rw [if_neg (by simpa using hsame), hobj]
  rfl

/-- What the start of an instruction notes before it skips tiles. -/
theorem State.startNoted_touches (s : State) (c n g ctx : Nat) (d : List Byte) :
    touchesTrace s ((s.clampCounted c g d).startTraced c n g ctx) := by
  refine touchesTrace.trans ?_ (State.traceOut_touches _ _)
  unfold State.clampCounted
  split
  · exact (State.bumpFor_touches _ _ _ _).trace
  · exact .rfl

/-- The clamp's counter is raised exactly where the register was above the declared length. -/
theorem State.startNoted_reg (s : State) {c : Nat} (hc : c < 8) (n g ctx : Nat) (d : List Byte) :
    ((s.clampCounted c g d).startTraced c n g ctx).reg (okey (0x3200 + c) 5) =
      if s.lenClamps c d then (s.reg (okey (0x3200 + c) 5) + 1) % 2 ^ 32 else s.reg (okey (0x3200 + c) 5) := by
  have hk : ¬ answerCounter (okey (0x3200 + c) 5) := by
    rintro (⟨u, hu, e | e⟩ | ⟨p, e | e⟩ | e | e) <;> simp only [okey] at e <;> omega
  refine (State.traceOut_reg _ _ _ hk).trans ?_
  unfold State.clampCounted
  split
  · exact State.reg_bumpFor_self _ _ _ _
  · rfl

/-- Settles O11: the share is R94's, and skipping moves nothing of the instruction but its next tile. -/
theorem instructionStartFixesLengthAndShare : Obligations.InstructionStartFixesLengthAndShare := by
  intro s₀ s c n g ctx d rest x o hs hactive hwindow hseg hrun hqueue hobj hc hlen declared raw share
  have hexec := exec_instructionStart hs hactive hwindow hseg hrun hqueue hobj
  refine ⟨fun hnone => hs.trans (s₀.arrive_none false hnone), ?_⟩
  obtain ⟨r, hr⟩ : ∃ r, s.startedRun c n g ctx d o = r := ⟨_, rfl⟩
  obtain ⟨u, hu⟩ : ∃ u, (s.clampCounted c g d).startTraced c n g ctx = u := ⟨_, rfl⟩
  have hnext : r.next = share.1 := hr ▸ rfl
  have hlast : r.last = share.2 := hr ▸ rfl
  have hshare : r.next ≤ r.last := by
    rw [hnext, hlast]
    exact shareOf_le _ _ _
  rw [hr, hu] at hexec
  dsimp only at hexec
  obtain ⟨hsame, hle, hend, hskipped⟩ := u.skipTiles_running c o (r.last - r.next) r hshare
  have htouches : touchesTrace s u := hu ▸ s.startNoted_touches c n g ctx d
  have hskip := u.skipTiles_touches c o (r.last - r.next) r
  have hcount : (u.skipTiles c o (r.last - r.next) r).2.reg (okey (0x3200 + c) 5) =
      if s.lenClamps c d then (s.reg (okey (0x3200 + c) 5) + 1) % 2 ^ 32 else s.reg (okey (0x3200 + c) 5) := by
    rw [u.skipTiles_reg c o _ r (by unfold okey; omega) (by unfold okey; omega), ← hu,
      State.startNoted_reg _ hc]
  generalize (u.skipTiles c o (r.last - r.next) r).1 = q at *
  generalize (u.skipTiles c o (r.last - r.next) r).2 = v at *
  have hfield {γ : Type} (f : Running → γ) (hf : ∀ r n, f { r with next := n } = f r) : f q = f r := by
    rw [hsame, hf]
  have hwalkers : v.walkers = s.walkers := hskip.walkers.trans htouches.walkers
  have hwalker (k : Nat) : v.walker k = s.walker k := congrArg (·.getD k Walker.blank) hwalkers
  have hself := v.walker_onWalker_self c
    (fun w => { w with queue := rest, running := some { q with done := decide (q.last ≤ q.next) } }) (hwalkers ▸ hlen)
  have hbatch : batchLen { q with done := decide (q.last ≤ q.next) } = batchLen r := hfield batchLen fun _ _ => rfl
  refine ⟨_, { q with done := decide (q.last ≤ q.next) }, hexec, ?_⟩
  rw [hself, hwalker]
  refine ⟨rfl, rfl, (hfield Running.desc fun _ _ => rfl).trans (hr ▸ rfl), (hfield Running.seg fun _ _ => rfl).trans (hr ▸ rfl),
    (hfield Running.ctx fun _ _ => rfl).trans (hr ▸ rfl), (hfield Running.bytes fun _ _ => rfl).trans (hr ▸ rfl),
    (hfield Running.len fun _ _ => rfl).trans (hr ▸ rfl), (hfield Running.last fun _ _ => rfl).trans hlast, hnext ▸ hle,
    hlast ▸ hend, fun i hi hi' => ?_, ?_, (hfield Running.tile fun _ _ => rfl).trans (hr ▸ rfl), fun huse hclamp => ?_,
    fun hfits => ?_, rfl, rfl, rfl, fun k hk => ?_, ?_⟩
  · rw [hbatch]
    have hbytes : r.bytes = d := hr ▸ rfl
    exact hbytes ▸ hskipped i (hnext ▸ hi) hi'
  · show decide (q.last ≤ q.next) = _
    rw [hfield Running.last fun _ _ => rfl, hlast]
  · rw [State.onWalker_reg, hcount, if_pos]
    exact Bool.and_eq_true_iff.2 ⟨huse, decide_eq_true hclamp⟩
  · rw [State.onWalker_reg, hcount, if_neg]
    rw [Bool.not_eq_true]
    exact Bool.and_eq_false_iff.2 (hfits.imp_right fun hle => decide_eq_false (Nat.not_lt.2 hle))
  · rw [State.walker_onWalker_ne _ _ _ _ hk, hwalker]
  · exact htouches.work.trans (hskip.work.trans (State.onWalker_touches _ _ _).work)

end Sys2Proof.Machine
end

section
/-! SUPPORT. Bytes of an activation buffer with their validity: what a write leaves within its range and outside. -/

namespace Sys2Proof.Machine

open Sys2Proof

/-! Byte strings (R9) -/

@[simp] theorem length_leBytes (n v : Nat) : (leBytes n v).length = n := by
  induction n generalizing v with
  | zero => rfl
  | succ n ih => simp [leBytes, ih]

theorem leNat_leBytes (n v : Nat) : leNat (leBytes n v) = v % 256 ^ n := by
  induction n generalizing v with
  | zero => simp [leBytes, leNat, Nat.mod_one]
  | succ n ih =>
    rw [leBytes, leNat, ih, BitVec.toNat_ofNat, pow_succ' 256 n, Nat.mod_mul]

theorem leNat_replicate_zero (n : Nat) : leNat (List.replicate n (0 : Byte)) = 0 := by
  induction n with
  | zero => rfl
  | succ n ih =>
    rw [List.replicate_succ, leNat, ih]
    rfl

theorem readCells_writeCells (m : List Host.Cell) (a : Nat) (bs : List Byte) : readCells (writeCells m a bs) a bs.length = bs := by
  induction bs generalizing m a with
  | nil => rfl
  | cons b bs ih =>
    have hhead : mget 0 (writeCells (mset 0 m a b) (a + 1) bs) a = b := by
      rw [mget_writeCells_ne _ _ _ _ (.inl (Nat.lt_succ_self a)), mget_mset_self]
    rw [List.length_cons, writeCells, readCells, ih, hhead]

/-! Sets of addresses -/

theorem mem_sdel (l : List Nat) (x y : Nat) : y ∈ sdel l x ↔ y ∈ l ∧ y ≠ x := by
  simp [sdel]

/-! Writes to a buffer (R117) -/

theorem putBuf_buffer (w : Walker) (a : Nat) (bs : List Byte) (valid : Bool) :
    (putBuf w a bs valid).buffer = writeCells w.buffer a bs := rfl

theorem mem_putBuf_valid (w : Walker) (a x : Nat) (bs : List Byte) :
    x ∈ (putBuf w a bs true).valid ↔ x ∈ w.valid ∨ (a ≤ x ∧ x < a + bs.length) := by
  show x ∈ (List.range bs.length).foldl (fun v i => sins v (a + i)) w.valid ↔ _
  induction bs.length with
  | zero => simp
  | succ n ih =>
    rw [List.range_succ, List.foldl_append, List.foldl_cons, List.foldl_nil, mem_sins, ih]
    constructor
    · rintro (rfl | h | h)
      · exact .inr ⟨Nat.le_add_right _ _, by omega⟩
      · exact .inl h
      · exact .inr ⟨h.1, by omega⟩
    · rintro (h | h)
      · exact .inr (.inl h)
      · by_cases hx : x = a + n
        · exact .inl hx
        · exact .inr (.inr ⟨h.1, by omega⟩)

theorem mem_putBuf_invalid (w : Walker) (a x : Nat) (bs : List Byte) :
    x ∈ (putBuf w a bs false).valid ↔ x ∈ w.valid ∧ ¬ (a ≤ x ∧ x < a + bs.length) := by
  show x ∈ (List.range bs.length).foldl (fun v i => sdel v (a + i)) w.valid ↔ _
  induction bs.length with
  | zero => simp
  | succ n ih =>
    rw [List.range_succ, List.foldl_append, List.foldl_cons, List.foldl_nil, mem_sdel, ih]
    constructor
    · rintro ⟨⟨hmem, hout⟩, hne⟩
      exact ⟨hmem, by omega⟩
    · rintro ⟨hmem, hout⟩
      exact ⟨⟨hmem, by omega⟩, by omega⟩

/-- A buffer byte that reads zero and is invalid. -/
def Walker.clearAt (w : Walker) (a : Nat) : Prop := mget 0 w.buffer a = 0 ∧ a ∉ w.valid

/-- A write leaves what lies outside its range. -/
theorem putBuf_clearAt_of_outside {w : Walker} {a x : Nat} {bs : List Byte} (h : x < a ∨ a + bs.length ≤ x) (valid : Bool)
    (hx : w.clearAt x) : (putBuf w a bs valid).clearAt x := by
  refine ⟨(mget_writeCells_ne _ _ _ _ h).trans hx.1, fun hmem => ?_⟩
  cases valid with
  | true =>
    rcases (mem_putBuf_valid w a x bs).1 hmem with hin | hin
    · exact hx.2 hin
    · omega
  | false => exact hx.2 ((mem_putBuf_invalid w a x bs).1 hmem).1

/-- Zeros that are written as invalid are clear. -/
theorem putBuf_zeros_clearAt (w : Walker) {a n x : Nat} (h : a ≤ x ∧ x < a + n) :
    (putBuf w a (List.replicate n 0) false).clearAt x := by
  obtain ⟨i, rfl⟩ := Nat.exists_eq_add_of_le h.1
  have hi : i < (List.replicate n (0 : Byte)).length := by
    rw [List.length_replicate]
    omega
  refine ⟨?_, fun hmem => ?_⟩
  · rw [putBuf_buffer, mget_writeCells _ _ _ _ hi]
    rw [List.length_replicate] at hi
    rw [List.getD_eq_getElem?_getD, List.getElem?_replicate, if_pos hi]
    rfl
  · exact ((mem_putBuf_invalid w a (a + i) _).1 hmem).2 ⟨h.1, by simpa using hi⟩

/-- They clear nothing that was clear before. -/
theorem putBuf_zeros_keep_clearAt {w : Walker} {x : Nat} (a n : Nat) (hx : w.clearAt x) :
    (putBuf w a (List.replicate n 0) false).clearAt x := by
  by_cases h : a ≤ x ∧ x < a + n
  · exact putBuf_zeros_clearAt w h
  · refine putBuf_clearAt_of_outside ?_ false hx
    rw [List.length_replicate]
    omega

end Sys2Proof.Machine
end

section
/-! SUPPORT. The drain of a tile: what an element's output is made of, and what the output of a tile may touch. -/

namespace Sys2Proof.Machine

open Sys2Proof

/-! Residue mismatches (R106) -/

theorem plainUnit_unitCluster {c : Nat} (hc : c < 8) : plainUnit (unitCluster c) := by
  unfold plainUnit unitCluster
  omega

/-- Counting the record of a unit that is neither a pod nor a column group leaves the frame alone. -/
theorem State.countRec_frame_of_plain (s : State) {r : FaultRec} (h : plainUnit r.unit) : (s.countRec r).2.frame = s.frame := by
  obtain ⟨hpod, hgroup⟩ := h
  unfold State.countRec
  extract_lets q
  rw [if_neg (c := _ ∨ _) (not_or.mpr hgroup)]
  split
  · show (s.countUnit r r.unit).2.frame = _
    unfold State.countUnit
    rw [if_neg hpod]
    dsimp only
    split <;> rfl
  · rfl

/-- A record takes the flag FAULT from no segment. -/
theorem State.raise_fault (s : State) {r : FaultRec} (h : plainUnit r.unit) {g : Nat} (hg : s.frame.fault.testBit g = true) :
    (s.raise r).frame.fault.testBit g = true := by
  unfold State.raise
  extract_lets _ s0 q r' s1 full s2 s3
  have h1 : s1.frame = s0.frame := s0.countRec_frame_of_plain h
  have h2 : s2.frame = s1.frame := by
    show (if full = true then s1.bump 0x401003 else s1).frame = _
    split <;> rfl
  have h3 : s3.frame = s2.frame := by
    have h := s2.countRaised_touches r'.party
    unfold touchesRegs at h
    exact (congrArg State.frame h).trans rfl
  show s3.frame.fault.testBit g = true
  rw [h3, h2, h1]
  show (s.frame.fault ||| _).testBit g = true
  rw [Nat.testBit_lor, hg, Bool.true_or]

/-! A record raised at most once in a while: what it may touch, change and take away is what a record may -/

section Once
variable (s : State) (key t gap : Nat) {r : FaultRec} (hr : plainUnit r.unit)

include hr

theorem State.faultOnce_record : touchesRecord s (s.faultOnce key t gap r) := by
  unfold State.faultOnce
  split
  · exact .rfl
  · refine touchesRecord.trans (t := s.mark key t) ?_ (State.raise_record _ _ hr)
    unfold touchesRecord
    rfl

theorem State.faultOnce_reg {k : Nat} (hk : ¬ recordCounter k) : (s.faultOnce key t gap r).reg k = s.reg k := by
  unfold State.faultOnce
  split
  · rfl
  · refine State.raise_reg (s.mark key t) r hk fun u hu => ?_
    rw [State.countRec_reg_of_plain u hr]
    simp only [State.reg, hu]

theorem State.faultOnce_fault {g : Nat} (hg : s.frame.fault.testBit g = true) :
    (s.faultOnce key t gap r).frame.fault.testBit g = true := by
  unfold State.faultOnce
  split
  · exact hg
  · exact State.raise_fault (s.mark key t) hr hg

end Once

section Residue
variable (s : State) (c seg ctx desc tile b j step : Nat)

/-- The count of a mismatch, with the segment's records of the frame. -/
def State.residueCounted : State := (s.bumpFor (s.segParty seg) (okey (0x3300 + c) 3)).flagFault seg

/-- The record of a mismatch. -/
def State.residueRec : FaultRec :=
  { (s.residueCounted c seg).mkRec clsResidue 1 (unitCluster c) (s.segParty seg)
      (j % 4096 + b % 65536 * 4096 + step % 16 * 268435456) with ctx := ctx, desc := desc, tile := tile % 65536 }

theorem State.residueFault_eq : s.residueFault c seg ctx desc tile b j step =
    (s.residueCounted c seg).faultOnce (0x14000000 + c * 32 + s.segParty seg % 32) (s.residueCounted c seg).frame.number 1
      (s.residueRec c seg ctx desc tile b j step) := rfl

theorem State.residueCounted_touches : touchesRecord s (s.residueCounted c seg) := by
  have hflag (t : State) : touchesRecord t (t.flagFault seg) := by unfold touchesRecord; rfl
  unfold State.residueCounted
  exact (State.bumpFor_touches _ _ _ _).record.trans (hflag _)

theorem State.residueCounted_reg (k : Nat) :
    (s.residueCounted c seg).reg k = (s.bumpFor (s.segParty seg) (okey (0x3300 + c) 3)).reg k := by
  unfold State.residueCounted
  exact State.flagFault_reg _ _ _

theorem State.residueCounted_flag : (s.residueCounted c seg).frame.fault.testBit seg = true := testBit_setBit_self _ _

theorem State.residueFault_walkers : (s.residueFault c seg ctx desc tile b j step).walkers = s.walkers := by
  rw [State.residueFault_eq, (State.faultOnce_touches _ _ _ _ _).walkers, (s.residueCounted_touches c seg).fault.walkers]

variable {c} (hc : c < 8)

include hc

theorem State.residueFault_touches : touchesRecord s (s.residueFault c seg ctx desc tile b j step) := by
  rw [State.residueFault_eq]
  exact (s.residueCounted_touches c seg).trans (State.faultOnce_record _ _ _ _ (plainUnit_unitCluster hc))

/-- Beside its counter a mismatch writes the counters of records alone. -/
theorem State.residueFault_reg {k : Nat} (hk : ¬ recordCounter k) :
    (s.residueFault c seg ctx desc tile b j step).reg k = (s.bumpFor (s.segParty seg) (okey (0x3300 + c) 3)).reg k := by
  rw [State.residueFault_eq, State.faultOnce_reg _ _ _ _ (plainUnit_unitCluster hc) hk, State.residueCounted_reg]

theorem State.residueFault_flag : (s.residueFault c seg ctx desc tile b j step).frame.fault.testBit seg = true := by
  rw [State.residueFault_eq]
  exact State.faultOnce_fault _ _ _ _ (plainUnit_unitCluster hc) (s.residueCounted_flag c seg)

end Residue

/-! One element (R106, R115 to R117) -/

section Element
variable (s : State) (c seg : Nat) (r : Running) (steps : List (BitVec 64)) (ups : List (Nat × Nat × Nat × Int)) (b j : Nat)
  (acc : Accum)

/-- An element as its cluster's chain leaves it. -/
def State.drained : Elem :=
  runChain (s.walker c) steps b j ((ups.filter fun y => y.1 = b && y.2.1 = j).map fun y => y.2.2) acc

/-- An element comes out as zero and invalid. -/
def State.putZero : State := s.putOut c seg r.bytes (elemSize steps) b j (List.replicate (elemSize steps) 0) false

/-- An element comes out with its value. -/
def State.putValue (v : Int) : State :=
  s.putOut c seg r.bytes (elemSize steps) b j (leBytes (elemSize steps) (unsignedOf 16 v)) true

/-- A record that contains a clipped element carries CLIP (R116). -/
def State.markClip : State :=
  s.markOut seg false r.bytes (dOut r.bytes + b * dOutStride r.bytes + j * elemSize steps) (elemSize steps)

variable {s c steps ups b j acc} {e : Elem} (he : s.drained c steps ups b j acc = e)

include he

theorem State.emit_of_bad {n : Nat} (h : e.bad = some n) : s.emit c seg r steps ups b j acc =
    (none, (s.residueFault c seg (dCtx r.bytes) r.desc r.next b j n).putZero c seg r steps b j) := by
  unfold State.drained at he
  unfold State.emit
  dsimp only
  rw [he, h]
  rfl

theorem State.emit_of_unquantized (h : e.bad = none) (hq : e.quant = none) : s.emit c seg r steps ups b j acc =
    (none, s.putZero c seg r steps b j) := by
  unfold State.drained at he
  unfold State.emit
  dsimp only
  rw [he, h, hq]
  rfl

theorem State.emit_of_poisoned (h : e.bad = none) {fmt : Nat} {v : Int} (hq : e.quant = some (fmt, v, true))
    (hm : e.marked = true) : s.emit c seg r steps ups b j acc =
    (none, ((s.bumpFor (s.segParty seg) (okey (0x3300 + c) 2)).putZero c seg r steps b j).markClip seg r steps b j) := by
  unfold State.drained at he
  unfold State.emit
  dsimp only
  rw [he, h, hq]
  dsimp only
  rw [hm]
  rfl

theorem State.emit_of_saturated (h : e.bad = none) {fmt : Nat} {v : Int} (hq : e.quant = some (fmt, v, false))
    (hm : e.marked = true) : s.emit c seg r steps ups b j acc =
    (some v, ((s.bumpFor (s.segParty seg) (okey (0x3300 + c) 1)).putValue c seg r steps b j v).markClip seg r steps b j) := by
  unfold State.drained at he
  unfold State.emit
  dsimp only
  rw [he, h, hq]
  dsimp only
  rw [hm]
  rfl

theorem State.emit_of_unmarked (h : e.bad = none) {fmt : Nat} {v : Int} {poison : Bool} (hq : e.quant = some (fmt, v, poison))
    (hm : e.marked = false) : s.emit c seg r steps ups b j acc = (some v, s.putValue c seg r steps b j v) := by
  unfold State.drained at he
  unfold State.emit
  dsimp only
  rw [he, h, hq]
  dsimp only
  rw [hm]
  rfl

end Element

/-- Whatever an element's output is, it is made of a mismatch, counts, one write of the element's bytes and a mark. -/
theorem State.emit_rel (R : State → State → Prop) (ht : ∀ {s t u}, R s t → R t u → R s u) (s : State)
    (c seg : Nat) (r : Running) (steps : List (BitVec 64)) (ups : List (Nat × Nat × Nat × Int)) (b j : Nat) (acc : Accum)
    (hzero : ∀ s : State, R s (s.putZero c seg r steps b j)) (hvalue : ∀ (s : State) v, R s (s.putValue c seg r steps b j v))
    (hresidue : ∀ (s : State) n, R s (s.residueFault c seg (dCtx r.bytes) r.desc r.next b j n))
    (hcount : ∀ (s : State) p i, i = 1 ∨ i = 2 → R s (s.bumpFor p (okey (0x3300 + c) i)))
    (hmark : ∀ s : State, R s (s.markClip seg r steps b j)) : R s (s.emit c seg r steps ups b j acc).2 := by
  obtain ⟨e, he⟩ : ∃ e, s.drained c steps ups b j acc = e := ⟨_, rfl⟩
  cases hbad : e.bad with
  | some n =>
    rw [State.emit_of_bad seg r he hbad]
    exact ht (hresidue _ _) (hzero _)
  | none =>
    cases hq : e.quant with
    | none =>
      rw [State.emit_of_unquantized seg r he hbad hq]
      exact hzero _
    | some q =>
      obtain ⟨fmt, v, poison⟩ := q
      cases hm : e.marked with
      | false =>
        rw [State.emit_of_unmarked seg r he hbad hq hm]
        exact hvalue _ _
      | true =>
        cases poison with
        | true =>
          rw [State.emit_of_poisoned seg r he hbad hq hm]
          exact ht (ht (hcount _ _ _ (.inr rfl)) (hzero _)) (hmark _)
        | false =>
          rw [State.emit_of_saturated seg r he hbad hq hm]
          exact ht (ht (hcount _ _ _ (.inl rfl)) (hvalue _ _)) (hmark _)

end Sys2Proof.Machine
end

section
/-! SUPPORT. The output of a tile, row by row: a relation that its parts keep, and what it leaves of walkers, fields, registers. -/

namespace Sys2Proof.Machine

open Sys2Proof

/-! Rows (R91, R111 to R117) -/

/-- A relation between states is kept by a fold whose steps over the list's members keep it, whatever the fold collects. -/
theorem foldl_snd_rel {β γ : Type} (R : State → State → Prop) (hr : ∀ s, R s s) (ht : ∀ {s t u}, R s t → R t u → R s u)
    (f : γ × State → β → γ × State) (l : List β) (hf : ∀ q, ∀ b ∈ l, R q.2 (f q b).2) (q : γ × State) :
    R q.2 (l.foldl f q).2 := by
  induction l generalizing q with
  | nil => exact hr _
  | cons b l ih => exact ht (hf q b List.mem_cons_self) (ih (fun q x hx => hf q x (List.mem_cons_of_mem _ hx)) _)

/-- One row of a tile's output: zeros beyond the batch length and where its input or an operand was tainted (R91, R117). -/
def State.rowOut (s : State) (c : Nat) (o : WObj) (r : Running) (t : Tile) (ups : List (Nat × Nat × Nat × Int)) (g : SegImage)
    (u : State) (i : Nat) : State :=
  let steps := chainOf g c (dChain r.bytes)
  match r.accs[i]? with
  | none => u.zeroTile c r.seg r.bytes (elemSize steps) ⟨t.b0 + i, 1, t.blk, t.c0, t.nc⟩
  | some accs =>
    if r.taint.contains i || operandTaint (u.walker c) steps (dN r.bytes) (t.b0 + i) then
      (u.bumpFor (s.segParty r.seg) (okey (0x3300 + c) 4)).zeroTile c r.seg r.bytes (elemSize steps)
        ⟨t.b0 + i, 1, t.blk, t.c0, t.nc⟩
    else u.emitVector c r.seg o r t steps ups (t.b0 + i) accs (r.xs.getD i [])

theorem State.writeTile_eq {s : State} {r : Running} {g : SegImage} (hseg : s.segImg r.seg = some g) (c : Nat) (o : WObj)
    (t : Tile) (ups : List (Nat × Nat × Nat × Int)) :
    s.writeTile c o r t ups = (List.range t.nb).foldl (s.rowOut c o r t ups g) s := by
  unfold State.writeTile
  rw [hseg]
  rfl

section Rel
variable (R : State → State → Prop) (hr : ∀ s, R s s) (ht : ∀ {s t u}, R s t → R t u → R s u)

include hr ht

/-- A row's output is made of its elements', of what LENOUT notes beside the running instruction and of a head's learning. -/
theorem State.emitVector_rel (s : State) (c seg : Nat) (o : WObj) (r : Running) (t : Tile) (steps : List (BitVec 64))
    (ups : List (Nat × Nat × Nat × Int)) (b : Nat) (accs : List Accum) (xs : List Int)
    (helem : ∀ (s : State) j acc, j < accs.length → R s (s.emit c seg r steps ups b (t.c0 + j) acc).2)
    (hnote : ∀ (s : State) f, R s (s.onWalker c fun w => { w with running := w.running.map f }))
    (hlearn : ∀ (s : State) hn f n, R s (State.bump { s with heads := upd s.heads hn f } (okey (0x3310 + hn) 6) n)) :
    R s (s.emitVector c seg o r t steps ups b accs xs) := by
  unfold State.emitVector
  extract_lets w0 fp16 teach rows
  split
  rename_i outs u hfold
  have hu : R s u := by
    rw [show u = _ from (congrArg Prod.snd hfold).symm]
    refine foldl_snd_rel R hr ht _ _ (fun q a ha => ?_) ([], s)
    exact helem q.2 a.2 a.1 (List.snd_lt_of_mem_zipIdx ha)
  extract_lets outs' whole v
  have hv : R s v := by
    refine ht hu (foldl_rel R hr ht _ (fun s st => ?_) _ u)
    dsimp only
    split
    · exact hr _
    · exact hnote _ _
  clear_value v
  split
  · split
    · split
      exact ht hv (hlearn _ _ _ _)
    · exact hv
  · exact hv

/-- A tile's output is made of rows that are zeroed and of rows that are drained. -/
theorem State.writeTile_rel {s : State} {c : Nat} {o : WObj} {r : Running} {t : Tile} {g : SegImage}
    (hseg : s.segImg r.seg = some g) (ups : List (Nat × Nat × Nat × Int))
    (hzero : ∀ (s : State) i, i < t.nb →
      R s (s.zeroTile c r.seg r.bytes (elemSize (chainOf g c (dChain r.bytes))) ⟨t.b0 + i, 1, t.blk, t.c0, t.nc⟩))
    (htaint : ∀ (s : State) p, R s (s.bumpFor p (okey (0x3300 + c) 4)))
    (hrow : ∀ (s : State) i accs xs, i < t.nb → r.accs[i]? = some accs →
      R s (s.emitVector c r.seg o r t (chainOf g c (dChain r.bytes)) ups (t.b0 + i) accs xs)) :
    R s (s.writeTile c o r t ups) := by
  have hstep : ∀ l : List Nat, (∀ i ∈ l, i < t.nb) → ∀ u : State, R u (l.foldl (s.rowOut c o r t ups g) u) := by
    intro l
    induction l with
    | nil => exact fun _ u => hr u
    | cons i l ih =>
      refine fun hl u => ht ?_ (ih (fun k hk => hl k (List.mem_cons_of_mem _ hk)) _)
      have hi : i < t.nb := hl i List.mem_cons_self
      unfold State.rowOut
      dsimp only
      split
      · exact hzero _ i hi
      · rename_i accs haccs
        split
        · exact ht (htaint _ _) (hzero _ i hi)
        · exact hrow _ i accs _ hi haccs
  rw [State.writeTile_eq hseg]
  exact hstep _ (fun i hi => List.mem_range.1 hi) s

end Rel

/-! What is left of the walkers -/

/-- A walker but for its activation buffer and the instruction that it runs. -/
def Walker.standing (w : Walker) : Walker := { w with buffer := [], valid := [], running := none }

theorem keepsWalkers.standing {c : Nat} {s t : State} (h : keepsWalkers Walker.unbuffered c s t) :
    keepsWalkers Walker.standing c s t := h.map (fun w => { w with running := none }) fun _ => rfl

theorem State.markOut_walkers (s : State) (g : Nat) (late : Bool) (d : List Byte) (a n : Nat) :
    (s.markOut g late d a n).walkers = s.walkers := by
  unfold State.markOut
  split
  · rfl
  · split <;> rfl

theorem State.emit_keeps (s : State) (c seg : Nat) (r : Running) (steps : List (BitVec 64))
    (ups : List (Nat × Nat × Nat × Int)) (b j : Nat) (acc : Accum) :
    keepsWalkers Walker.unbuffered c s (s.emit c seg r steps ups b j acc).2 :=
  State.emit_rel (keepsWalkers Walker.unbuffered c) .trans s c seg r steps ups b j acc
    (fun s => s.putOut_keeps _ _ _ _ _ _ _ _) (fun s _ => s.putOut_keeps _ _ _ _ _ _ _ _)
    (fun s _ => .of_walkers (s.residueFault_walkers _ _ _ _ _ _ _ _)) (fun s _ _ _ => .of_walkers (s.bumpFor_touches _ _ _).walkers)
    (fun s => .of_walkers (s.markOut_walkers _ _ _ _ _))

/-- The output of a tile leaves the other walkers alone, and of its own walker what is not buffer or running instruction. -/
theorem State.writeTile_keeps {s : State} {r : Running} {g : SegImage} (hseg : s.segImg r.seg = some g) (c : Nat) (o : WObj)
    (t : Tile) (ups : List (Nat × Nat × Nat × Int)) : keepsWalkers Walker.standing c s (s.writeTile c o r t ups) :=
  State.writeTile_rel (keepsWalkers Walker.standing c) (.refl _ _) .trans hseg ups (fun s _ _ => (s.zeroTile_keeps _ _ _ _ _).standing)
    (fun s _ => .of_walkers (s.bumpFor_touches _ _ _).walkers)
    (fun s _ accs xs _ _ => s.emitVector_rel (keepsWalkers Walker.standing c) (.refl _ _) .trans _ _ _ _ _ _ _ _ accs xs
      (fun s _ _ _ => (s.emit_keeps _ _ _ _ _ _ _ _).standing) (fun s _ => s.onWalker_keeps _ fun _ => rfl)
      (fun _ _ _ _ => .of_walkers rfl))

/-! What is left of the other fields and of the registers -/

/-- What the output of a tile and its completion may touch. -/
def touchesTile (s t : State) : Prop :=
  t = { s with walkers := t.walkers, ahead := t.ahead, pool := t.pool, od := t.od, pods := t.pods, integ := t.integ,
               heads := t.heads, test := t.test, frame := { s.frame with fault := t.frame.fault, clip := t.frame.clip } }

theorem touchesTile.rfl {s : State} : touchesTile s s := by unfold touchesTile; rfl
theorem touchesTile.trans {s t u : State} (h : touchesTile s t) (k : touchesTile t u) : touchesTile s u := by
  unfold touchesTile at h k ⊢
  refine k.trans ?_
  rw [h]
theorem touchesWork.tile {s t : State} (h : touchesWork s t) : touchesTile s t := by
  unfold touchesWork at h
  unfold touchesTile
  rw [h]
theorem touchesRecord.tile {s t : State} (h : touchesRecord s t) : touchesTile s t := by
  unfold touchesRecord at h
  unfold touchesTile
  rw [h]

/-- That, and no register below the cluster counters of 0x3300. -/
def touchesDrain (s t : State) : Prop := touchesTile s t ∧ ∀ k < 0x330000, t.reg k = s.reg k

theorem touchesDrain.rfl {s : State} : touchesDrain s s := ⟨.rfl, fun _ _ => Eq.refl _⟩
theorem touchesDrain.trans {s t u : State} (h : touchesDrain s t) (k : touchesDrain t u) : touchesDrain s u :=
  ⟨h.1.trans k.1, fun i hi => (k.2 i hi).trans (h.2 i hi)⟩
theorem touchesData.drain {s t : State} (h : touchesData s t) : touchesDrain s t := ⟨h.work.tile, fun k _ => h.reg k⟩

theorem State.bumpFor_touchesDrain (s : State) (p c i : Nat) : touchesDrain s (s.bumpFor p (okey (0x3300 + c) i)) :=
  ⟨(s.bumpFor_touches _ _ _).record.tile, fun k hk =>
    State.reg_bumpFor_ne s p 1 (by unfold okey; omega) (by unfold pkey okey; omega)⟩

theorem State.markOut_touchesDrain (s : State) (g : Nat) (d : List Byte) (a n : Nat) : touchesDrain s (s.markOut g false d a n) := by
  unfold State.markOut
  split
  · refine ⟨?_, fun _ _ => rfl⟩
    unfold touchesTile
    rfl
  · refine ⟨?_, fun _ _ => rfl⟩
    unfold touchesTile
    rfl

theorem State.residueFault_touchesDrain (s : State) {c : Nat} (hc : c < 8) (seg ctx desc tile b j step : Nat) :
    touchesDrain s (s.residueFault c seg ctx desc tile b j step) :=
  ⟨(s.residueFault_touches seg ctx desc tile b j step hc).tile, fun k hk =>
    (s.residueFault_reg seg ctx desc tile b j step hc (by unfold recordCounter; omega)).trans
      ((s.bumpFor_touchesDrain _ _ _).2 k hk)⟩

theorem State.emit_touches (s : State) {c : Nat} (hc : c < 8) (seg : Nat) (r : Running) (steps : List (BitVec 64))
    (ups : List (Nat × Nat × Nat × Int)) (b j : Nat) (acc : Accum) : touchesDrain s (s.emit c seg r steps ups b j acc).2 :=
  State.emit_rel touchesDrain .trans s c seg r steps ups b j acc
    (fun s => (s.putOut_touches _ _ _ _ _ _ _ _).drain) (fun s _ => (s.putOut_touches _ _ _ _ _ _ _ _).drain)
    (fun s _ => s.residueFault_touchesDrain hc _ _ _ _ _ _ _) (fun s _ _ _ => s.bumpFor_touchesDrain _ _ _)
    (fun s => s.markOut_touchesDrain _ _ _ _)

theorem State.learn_touchesDrain (s : State) (hn : Nat) (f : Head → Head) (n : Nat) :
    touchesDrain s (State.bump { s with heads := upd s.heads hn f } (okey (0x3310 + hn) 6) n) := by
  refine ⟨?_, fun k hk => State.reg_bump_ne _ _ _ _ (by unfold okey; omega)⟩
  unfold touchesTile
  rfl

theorem State.writeTile_touches {s : State} {r : Running} {g : SegImage} (hseg : s.segImg r.seg = some g) {c : Nat} (hc : c < 8)
    (o : WObj) (t : Tile) (ups : List (Nat × Nat × Nat × Int)) : touchesDrain s (s.writeTile c o r t ups) :=
  State.writeTile_rel touchesDrain (fun _ => .rfl) .trans hseg ups (fun s _ _ => (s.zeroTile_touches _ _ _ _ _).drain)
    (fun s _ => s.bumpFor_touchesDrain _ _ _)
    (fun s _ accs xs _ _ => s.emitVector_rel touchesDrain (fun _ => .rfl) .trans _ _ _ _ _ _ _ _ accs xs
      (fun s _ _ _ => s.emit_touches hc _ _ _ _ _ _ _) (fun s _ => (s.onWalker_touches _ _).drain)
      (fun s _ _ _ => s.learn_touchesDrain _ _ _))

end Sys2Proof.Machine
end

section
/-! SUPPORT. The completion of a tile: its output, then what is charged and traced, then the instruction or the job goes on. -/

namespace Sys2Proof.Machine

open Sys2Proof

/-- A completed tile's lane cycles are counted and its output's lines charged and traced (R300, R412). -/
def State.tileNoted (s : State) (c n : Nat) (r : Running) (q : Tile) (job : Option Nat) : State :=
  let size := (((s.use (dCtx r.bytes) fun u => { u with lanes := u.lanes + ceilDiv (q.nb * q.nc) 64 }).segImg r.seg).map fun g =>
    elemSize (chainOf g c (dChain r.bytes))).getD 1
  let lines := tileLines r.bytes size q ++ (if job.isSome then lineNums (dMap r.bytes + n) 1 else [])
  let t := (s.use (dCtx r.bytes) fun u => { u with lanes := u.lanes + ceilDiv (q.nb * q.nc) 64 }).chargeOut r.seg r.bytes lines
    job.isNone
  if dOutPool r.bytes then t.traceOut
    ⟨0x11, s.segParty r.seg, false, job.isSome, stOk, unitCluster c, dCtx r.bytes, dOut r.bytes + q.b0 * dOutStride r.bytes,
      (dedupNat lines).length, r.desc, false⟩
  else t

theorem State.tileNoted_touches (s : State) (c n : Nat) (r : Running) (q : Tile) (job : Option Nat) :
    touchesTrace s (s.tileNoted c n r q job) := by
  unfold State.tileNoted
  extract_lets size lines t
  have ht : touchesTrace s t := (s.use_touches _ _).trace.trans (State.chargeOut_touchesPool _ _ _ _ _).trace
  clear_value t
  split
  · exact ht.trans (State.traceOut_touches _ _)
  · exact ht

theorem State.tileNoted_reg (s : State) (c n : Nat) (r : Running) (q : Tile) (job : Option Nat) {k : Nat}
    (hk : ¬ answerCounter k) : (s.tileNoted c n r q job).reg k = s.reg k := by
  unfold State.tileNoted
  extract_lets size lines t
  have ht : t.reg k = s.reg k := ((s.use_touches _ _).trans (State.chargeOut_touchesPool _ _ _ _ _)).reg k
  clear_value t
  split
  · exact (State.traceOut_reg _ _ _ hk).trans ht
  · exact ht

/-- An instruction behind one of its tiles, before it skips further ones. -/
def Running.behind (r : Running) (n : Nat) (lo : List (Nat × Int)) : Running :=
  { r with next := n + 1, tile := none, accs := [], fetched := none, xs := [], taint := [], lenOut := lo, did := r.did + 1 }

/-- A planned instruction goes on behind a completed tile. -/
def State.tilePassed (s : State) (c n : Nat) (o : WObj) (r : Running) : State :=
  let q := s.skipTiles c o (r.last - r.next) (r.behind n (((s.walker c).running.map (·.lenOut)).getD []))
  q.2.onWalker c fun w => { w with running := some { q.1 with done := decide (q.1.last ≤ q.1.next) } }

/-- A pooled tile's replica ID is written and its cluster is free (R96). -/
def State.tileFreed (s : State) (c n : Nat) (r : Running) (q : Tile) (p : Nat) : State :=
  ((((s.notePooled c r q).writeCtx p (dCtx r.bytes) (dMap r.bytes + n) (leBytes 1 c)).use (dCtx r.bytes)
    fun u => { u with tiles := u.tiles + 1 }).onWalker c fun w => { w with job := none, running := none })

/-- A job ends when its counter has reached its tile count and no cluster holds a tile of it (R96). -/
def State.settleJob (s : State) (j : Nat) : State :=
  if s.reg (jobReg j 3) ≤ s.reg (jobReg j 2) && !s.jobBusy j then s.endJob j 3 else s

section Exec
variable {s : State} {c n at_ : Nat} {r : Running} {o : WObj} {q : Tile} (hactive : s.active = true)
  (hrun : (s.walker c).running = some r) (htile : r.tile = some (n, at_)) (hobj : objectOf s r.seg r.bytes = some o)
  (hready : r.ready ≤ s.now) (hq : tileAt o r.bytes n = some q)

include hactive hrun htile hobj hready hq

theorem exec_tileComplete (ups : List (Nat × Nat × Nat × Int)) : exec (.tileComplete c ups) s = .next (
    let u := (s.writeTile c o r q ups).tileNoted c n r q (s.walker c).job
    match (s.walker c).job with
    | some j => (u.tileFreed c n r q ((s.writeTile c o r q ups).segParty r.seg)).settleJob j
    | none => u.tilePassed c n o r) := by
  have hgo : ¬ ((!s.active || decide (s.now < r.ready)) = true) := by simp [hactive, hready]
  show execTileComplete c ups s = _
  unfold objectOf at hobj
  unfold execTileComplete
  dsimp only
  rw [hrun]
  dsimp only
  rw [htile, hobj]
  dsimp only
  rw [if_neg hgo, hq]
  rfl

end Exec

end Sys2Proof.Machine
end

section
/-! PROOF. Validity of the output, and the clip policy of its elements. -/

namespace Sys2Proof.Machine

open Sys2Proof

/-! Bytes that stay clear -/

/-- Work that leaves a clear buffer byte of a cluster clear. -/
def keepsClear (c a : Nat) (s t : State) : Prop :=
  c < s.walkers.length → c < t.walkers.length ∧ ((s.walker c).clearAt a → (t.walker c).clearAt a)

section Clear
variable {c a : Nat} {s t u : State}

theorem keepsClear.of_walkers (h : t.walkers = s.walkers) : keepsClear c a s t := by
  unfold keepsClear State.walker
  rw [h]
  exact fun hc => ⟨hc, id⟩

theorem keepsClear.refl (c a : Nat) (s : State) : keepsClear c a s s := .of_walkers rfl

theorem keepsClear.trans (h : keepsClear c a s t) (k : keepsClear c a t u) : keepsClear c a s u := fun hc =>
  ⟨(k (h hc).1).1, fun hx => (k (h hc).1).2 ((h hc).2 hx)⟩

theorem State.onWalker_keepsClear (s : State) (c : Nat) {f : Walker → Walker} (h : ∀ w, w.clearAt a → (f w).clearAt a) :
    keepsClear c a s (s.onWalker c f) := fun hc =>
  ⟨by simpa using hc, fun hx => by
    rw [s.walker_onWalker_self c f hc]
    exact h _ hx⟩

end Clear

/-! Zeros (R117) -/

theorem State.putOut_of_buffer (s : State) (c g : Nat) {d : List Byte} (h : dOutPool d = false) (e b j : Nat) (bs : List Byte)
    (valid : Bool) : s.putOut c g d e b j bs valid =
      s.onWalker c fun w => putBuf w (dOut d + b * dOutStride d + j * e) bs valid := by
  unfold State.putOut
  dsimp only
  rw [if_neg (by rw [h]; decide)]

theorem State.zeroOut_keepsClear (s : State) (c g : Nat) {d : List Byte} (h : dOutPool d = false) (e b j a : Nat) :
    keepsClear c a s (s.putOut c g d e b j (List.replicate e 0) false) := by
  rw [s.putOut_of_buffer c g h]
  exact s.onWalker_keepsClear c fun w hx => putBuf_zeros_keep_clearAt _ _ hx

theorem State.zeroTile_keepsClear (s : State) (c g : Nat) {d : List Byte} (h : dOutPool d = false) (e : Nat) (t : Tile) (a : Nat) :
    keepsClear c a s (s.zeroTile c g d e t) :=
  foldl_rel (keepsClear c a) (.refl c a) .trans _
    (fun s _ => foldl_rel (keepsClear c a) (.refl c a) .trans _ (fun s _ => s.zeroOut_keepsClear c g h _ _ _ a) _ s) _ s

/-- A fold clears a byte for good once one of its steps does, where each step leaves a clear byte clear. -/
theorem foldl_clears {β : Type} {c a : Nat} {f : State → β → State} {x : β} {l : List β}
    (hkeep : ∀ (s : State), ∀ y ∈ l, keepsClear c a s (f s y)) (hclear : ∀ s : State, c < s.walkers.length → ((f s x).walker c).clearAt a)
    (s : State) (hc : c < s.walkers.length) (h : (s.walker c).clearAt a ∨ x ∈ l) : ((l.foldl f s).walker c).clearAt a := by
  induction l generalizing s with
  | nil => exact h.resolve_right (List.not_mem_nil)
  | cons y l ih =>
    have hy := hkeep s y List.mem_cons_self hc
    refine ih (fun s z hz => hkeep s z (List.mem_cons_of_mem _ hz)) (f s y) hy.1 ?_
    rcases h with h | h
    · exact .inl (hy.2 h)
    · rcases List.mem_cons.1 h with rfl | h
      · exact .inl (hclear s hc)
      · exact .inr h

/-- Every byte of a row that is zeroed is clear. -/
theorem State.zeroRow_clears (s : State) {c : Nat} (hc : c < s.walkers.length) (g : Nat) {d : List Byte} (h : dOutPool d = false)
    {e b blk c0 nc j k : Nat} (hj : j < nc) (hk : k < e) :
    ((s.zeroTile c g d e ⟨b, 1, blk, c0, nc⟩).walker c).clearAt (dOut d + b * dOutStride d + (c0 + j) * e + k) := by
  show ((((List.range nc).foldl (fun s j => s.putOut c g d e (b + 0) (c0 + j) (List.replicate e 0) false) s)).walker c).clearAt _
  refine foldl_clears (x := j) (fun s y _ => s.zeroOut_keepsClear c g h _ _ _ _) (fun s hc => ?_) s hc
    (.inr (List.mem_range.2 hj))
  rw [s.putOut_of_buffer c g h, s.walker_onWalker_self c _ hc]
  exact putBuf_zeros_clearAt _ ⟨Nat.le_add_right _ _, by rw [Nat.add_zero]; omega⟩

/-! Rows apart from each other -/

theorem element_in_row {c0 nc n e stride j : Nat} (hj : j < nc) (hn : c0 + nc ≤ n) (hstride : n * e ≤ stride) :
    (c0 + j) * e + e ≤ stride := by
  have hle : (c0 + j + 1) * e ≤ n * e := Nat.mul_le_mul_right e (by omega)
  rw [Nat.succ_mul] at hle
  exact hle.trans hstride

theorem rows_apart {stride x y u v n : Nat} (hxy : x ≠ y) (hu : u < stride) (hv : v + n ≤ stride) :
    x * stride + u < y * stride + v ∨ y * stride + v + n ≤ x * stride + u := by
  rcases Nat.lt_or_gt_of_ne hxy with h | h
  · have hrow : (x + 1) * stride ≤ y * stride := Nat.mul_le_mul_right stride h
    rw [Nat.succ_mul] at hrow
    exact .inl (by omega)
  · have hrow : (y + 1) * stride ≤ x * stride := Nat.mul_le_mul_right stride h
    rw [Nat.succ_mul] at hrow
    exact .inr (by omega)

/-- An element's output leaves a clear byte outside its own bytes clear. -/
theorem State.emit_keepsClear (s : State) (c seg : Nat) {r : Running} (h : dOutPool r.bytes = false) (steps : List (BitVec 64))
    (ups : List (Nat × Nat × Nat × Int)) (b j : Nat) (acc : Accum) {a : Nat}
    (ha : a < dOut r.bytes + b * dOutStride r.bytes + j * elemSize steps ∨
      dOut r.bytes + b * dOutStride r.bytes + j * elemSize steps + elemSize steps ≤ a) :
    keepsClear c a s (s.emit c seg r steps ups b j acc).2 := by
  refine State.emit_rel (keepsClear c a) .trans s c seg r steps ups b j acc (fun s => s.zeroOut_keepsClear c seg h _ _ _ a)
    (fun s v => ?_) (fun s _ => .of_walkers (s.residueFault_walkers _ _ _ _ _ _ _ _))
    (fun s _ _ _ => .of_walkers (s.bumpFor_touches _ _ _).walkers) (fun s => .of_walkers (s.markOut_walkers _ _ _ _ _))
  unfold State.putValue
  rw [s.putOut_of_buffer c seg h]
  exact s.onWalker_keepsClear c fun w hx => putBuf_clearAt_of_outside (by rw [length_leBytes]; exact ha) true hx

section Tile
variable {s : State} {c n at_ i j : Nat} {ups : List (Nat × Nat × Nat × Int)} {r : Running} {o : WObj} {q : Tile} {g : SegImage}
  (hseg : s.segImg r.seg = some g) (hc : c < s.walkers.length) (hbuffer : dOutPool r.bytes = false) (hi : i < q.nb)
  (hj : j < q.nc) (hstride : dN r.bytes * elemSize (chainOf g c (dChain r.bytes)) ≤ dOutStride r.bytes)
  (hcols : q.c0 + q.nc ≤ dN r.bytes) (hrows : ∀ row ∈ r.accs, row.length ≤ q.nc)
  (hbad : r.accs[i]? = none ∨ (r.accs[i]?.isSome ∧ i ∈ r.taint))

include hbad in
/-- A tainted row, and one beyond the batch length, is zeroed. -/
theorem State.rowOut_of_invalid (u : State) : ∃ v : State, v.walkers = u.walkers ∧ s.rowOut c o r q ups g u i =
    v.zeroTile c r.seg r.bytes (elemSize (chainOf g c (dChain r.bytes))) ⟨q.b0 + i, 1, q.blk, q.c0, q.nc⟩ := by
  unfold State.rowOut
  dsimp only
  rcases hbad with hnone | ⟨hsome, htaint⟩
  · rw [hnone]
    exact ⟨u, rfl, rfl⟩
  · obtain ⟨accs, haccs⟩ := Option.isSome_iff_exists.1 hsome
    rw [haccs]
    dsimp only
    rw [if_pos (by simp [htaint])]
    exact ⟨_, (State.bumpFor_touches _ _ _ _).walkers, rfl⟩

include hbuffer hj hstride hcols hrows hbad in
/-- No row of the tile brings a byte of an invalid row back. -/
theorem State.rowOut_keepsClear (u : State) (y : Nat) {k : Nat} (hk : k < elemSize (chainOf g c (dChain r.bytes))) :
    keepsClear c (dOut r.bytes + (q.b0 + i) * dOutStride r.bytes + (q.c0 + j) * elemSize (chainOf g c (dChain r.bytes)) + k)
      u (s.rowOut c o r q ups g u y) := by
  by_cases hy : y = i
  · subst hy
    obtain ⟨v, hv, hrow⟩ := State.rowOut_of_invalid (s := s) (c := c) (ups := ups) (o := o) (q := q) (g := g) hbad u
    rw [hrow]
    exact (keepsClear.of_walkers hv).trans (v.zeroTile_keepsClear c _ hbuffer _ _ _)
  · unfold State.rowOut
    dsimp only
    split
    · exact u.zeroTile_keepsClear c _ hbuffer _ _ _
    · rename_i accs haccs
      split
      · exact (keepsClear.of_walkers (State.bumpFor_touches _ _ _ _).walkers).trans (State.zeroTile_keepsClear _ c _ hbuffer _ _ _)
      · refine u.emitVector_rel (keepsClear c _) (.refl c _) .trans _ _ _ _ _ _ _ _ _ _ (fun v j' acc hj' => ?_)
          (fun v f => v.onWalker_keepsClear c fun w hx => hx) (fun _ _ _ _ => .of_walkers rfl)
        have hrow : accs.length ≤ q.nc := hrows accs (List.mem_of_getElem? haccs)
        have hin := element_in_row (c0 := q.c0) hj hcols hstride
        have hin' := element_in_row (c0 := q.c0) (Nat.lt_of_lt_of_le hj' hrow) hcols hstride
        have hapart := rows_apart (x := q.b0 + i) (y := q.b0 + y) (u := (q.c0 + j) * elemSize (chainOf g c (dChain r.bytes)) + k)
          (by omega) (by omega) hin'
        exact v.emit_keepsClear c _ hbuffer _ _ _ _ _ (by omega)

include hseg hc hbuffer hi hj hstride hcols hrows hbad in
/-- Every byte of an invalid row of a tile's output is clear. -/
theorem State.writeTile_clears {k : Nat} (hk : k < elemSize (chainOf g c (dChain r.bytes))) :
    ((s.writeTile c o r q ups).walker c).clearAt
      (dOut r.bytes + (q.b0 + i) * dOutStride r.bytes + (q.c0 + j) * elemSize (chainOf g c (dChain r.bytes)) + k) := by
  rw [State.writeTile_eq hseg]
  refine foldl_clears (x := i) (fun u y _ => State.rowOut_keepsClear hbuffer hj hstride hcols hrows hbad u y hk) (fun u hu => ?_) s hc
    (.inr (List.mem_range.2 hi))
  obtain ⟨v, hv, hrow⟩ := State.rowOut_of_invalid (s := s) (c := c) (ups := ups) (o := o) (q := q) (g := g) hbad u
  rw [hrow]
  exact v.zeroRow_clears (hv ▸ hu) _ hbuffer hj hk

end Tile

/-- The instruction going on behind its tile leaves the buffer alone. -/
theorem State.tilePassed_keepsClear (s : State) (c n : Nat) (o : WObj) (r : Running) (a : Nat) :
    keepsClear c a s (s.tilePassed c n o r) :=
  (keepsClear.of_walkers (s.skipTiles_touches _ _ _ _).walkers).trans (State.onWalker_keepsClear _ c fun _ hx => hx)

theorem taintedVectorsAreInvalidPart_holds : taintedVectorsAreInvalidPart := by
  intro s c n at_ i j ups r o q g hactive hrun htile hjob hseg hobj hready hq hc hbuffer hi hj hstride hcols hrows hbad
  have hobject : objectOf s r.seg r.bytes = some o := by
    unfold objectOf
    rw [hseg]
    exact hobj
  have hexec := exec_tileComplete hactive hrun htile hobject hready hq ups
  rw [hjob] at hexec
  refine ⟨_, hexec, fun k hk => ?_⟩
  have hclear := State.writeTile_clears (ups := ups) (o := o) hseg hc hbuffer hi hj hstride hcols hrows hbad hk
  have hlen : c < (s.writeTile c o r q ups).walkers.length := (State.writeTile_keeps hseg c o q ups).1 ▸ hc
  exact (((keepsClear.of_walkers (State.tileNoted_touches _ c n r q none).walkers).trans
    (State.tilePassed_keepsClear _ c n o r _)) hlen).2 hclear

/-! One element in the buffer (R106, R116) -/

/-- The buffer's bytes outside a range. -/
def Walker.bytesOutside (a n : Nat) (w : Walker) (x : { x // x < a ∨ a + n ≤ x }) : Byte := mget 0 w.buffer x

theorem putBuf_bytesOutside (w : Walker) (a : Nat) {n : Nat} {bs : List Byte} (hn : bs.length = n) (valid : Bool) :
    (putBuf w a bs valid).bytesOutside a n = w.bytesOutside a n := by
  subst hn
  exact funext fun x => mget_writeCells_ne _ _ _ _ x.2

theorem State.markClip_of_buffer (s : State) (seg : Nat) {r : Running} (h : dOutPool r.bytes = false) (steps : List (BitVec 64))
    (b j : Nat) : s.markClip seg r steps b j = s.flagClip seg := by
  unfold State.markClip State.markOut
  rw [if_neg (by rw [h]; decide)]
  rfl

section Element
variable {s : State} {c : Nat} (seg : Nat) {r : Running} (steps : List (BitVec 64)) (b j : Nat)
  (hbuffer : dOutPool r.bytes = false)

/-- Where an element's bytes begin. -/
def elementAt (r : Running) (steps : List (BitVec 64)) (b j : Nat) : Nat :=
  dOut r.bytes + b * dOutStride r.bytes + j * elemSize steps

include hbuffer

/-- An element's output leaves the other walkers and the bytes of other elements alone. -/
theorem State.emit_outside (s : State) (c : Nat) (ups : List (Nat × Nat × Nat × Int)) (acc : Accum) :
    keepsWalkers (Walker.bytesOutside (elementAt r steps b j) (elemSize steps)) c s (s.emit c seg r steps ups b j acc).2 := by
  have hput (u : State) (bs : List Byte) (valid : Bool) (hbs : bs.length = elemSize steps) :
      keepsWalkers (Walker.bytesOutside (elementAt r steps b j) (elemSize steps)) c u
        (u.putOut c seg r.bytes (elemSize steps) b j bs valid) := by
    rw [u.putOut_of_buffer c seg hbuffer]
    exact u.onWalker_keeps c fun w => putBuf_bytesOutside w _ hbs valid
  exact State.emit_rel _ .trans s c seg r steps ups b j acc (fun u => hput u _ _ List.length_replicate)
    (fun u _ => hput u _ _ (length_leBytes _ _)) (fun u _ => .of_walkers (u.residueFault_walkers _ _ _ _ _ _ _ _))
    (fun u _ _ _ => .of_walkers (u.bumpFor_touches _ _ _).walkers) (fun u => .of_walkers (u.markOut_walkers _ _ _ _ _))

variable (hc : c < s.walkers.length)

include hc

theorem State.putZero_element :
    leNat (readCells ((s.putZero c seg r steps b j).walker c).buffer (elementAt r steps b j) (elemSize steps)) = 0 ∧
      ∀ k, k < elemSize steps → elementAt r steps b j + k ∉ ((s.putZero c seg r steps b j).walker c).valid := by
  unfold State.putZero
  rw [s.putOut_of_buffer c seg hbuffer, s.walker_onWalker_self c _ hc]
  refine ⟨?_, fun k hk => (putBuf_zeros_clearAt _ ⟨Nat.le_add_right _ _, Nat.add_lt_add_left hk _⟩).2⟩
  have h := readCells_writeCells (s.walker c).buffer (elementAt r steps b j) (List.replicate (elemSize steps) 0)
  rw [List.length_replicate] at h
  exact (congrArg leNat h).trans (leNat_replicate_zero _)

theorem State.putValue_element (v : Int) :
    leNat (readCells ((s.putValue c seg r steps b j v).walker c).buffer (elementAt r steps b j) (elemSize steps)) =
        unsignedOf 16 v % 256 ^ elemSize steps ∧
      ∀ k, k < elemSize steps → elementAt r steps b j + k ∈ ((s.putValue c seg r steps b j v).walker c).valid := by
  unfold State.putValue
  rw [s.putOut_of_buffer c seg hbuffer, s.walker_onWalker_self c _ hc]
  refine ⟨?_, fun k hk => (mem_putBuf_valid _ _ _ _).2 (.inr ⟨Nat.le_add_right _ _, ?_⟩)⟩
  · have h := readCells_writeCells (s.walker c).buffer (elementAt r steps b j) (leBytes (elemSize steps) (unsignedOf 16 v))
    rw [length_leBytes] at h
    exact (congrArg leNat h).trans (leNat_leBytes _ _)
  · rw [length_leBytes]
    exact Nat.add_lt_add_left hk _

end Element

theorem clusterCounter_not_recordCounter {c i : Nat} (hc : c < 8) (hi : i < 256) : ¬ recordCounter (okey (0x3300 + c) i) := by
  unfold recordCounter okey
  omega

/-- The count of a cluster's elements is kept by the write of one. -/
theorem State.reg_putOut_bumpFor (s : State) (p k c g : Nat) (d : List Byte) (e b j : Nat) (bs : List Byte) (valid : Bool) :
    ((s.bumpFor p k).putOut c g d e b j bs valid).reg k = (s.reg k + 1) % 2 ^ 32 := by
  rw [(State.putOut_touches _ _ _ _ _ _ _ _ _).reg, State.reg_bumpFor_self]
  rfl

theorem elementOutputFollowsClipPolicyPart_holds : elementOutputFollowsClipPolicyPart := by
  intro s c seg b j r steps ups acc poison fmt v e hc hlen hbuffer he m size a t ht
  have he : s.drained c steps ups b j acc = e := he.symm
  obtain ⟨-, hothers, houtside⟩ := State.emit_outside seg steps b j hbuffer s c ups acc
  rw [← ht] at hothers houtside
  have hbump (i : Nat) : c < (s.bumpFor (s.segParty seg) (okey (0x3300 + c) i)).walkers.length := by
    rw [(s.bumpFor_touches _ _ 1).walkers]
    exact hlen
  refine ⟨fun hbad => ?_, fun hgood hq hvalue => ?_, fun hgood hq hmarked hpoison => ?_,
    fun x hx => congrFun houtside ⟨x, hx⟩, hothers⟩
  · obtain ⟨step, hstep⟩ := Option.ne_none_iff_exists'.1 hbad
    rw [State.emit_of_bad seg r he hstep] at ht
    subst ht
    obtain ⟨hzero, hinvalid⟩ := State.putZero_element seg steps b j hbuffer
      ((s.residueFault_walkers c seg (dCtx r.bytes) r.desc r.next b j step).symm ▸ hlen)
    refine ⟨hzero, hinvalid, ?_, ?_⟩
    · unfold State.putZero
      rw [(State.putOut_touches _ _ _ _ _ _ _ _ _).reg, s.residueFault_reg _ _ _ _ _ _ _ hc
        (clusterCounter_not_recordCounter hc (by decide)), State.reg_bumpFor_self]
      rfl
    · have hdata := State.putOut_touches (s.residueFault c seg (dCtx r.bytes) r.desc r.next b j step) c seg r.bytes
        (elemSize steps) b j (List.replicate (elemSize steps) 0) false
      unfold touchesData at hdata
      unfold State.putZero
      rw [hdata]
      exact s.residueFault_flag _ _ _ _ _ _ _ hc
  · cases hm : e.marked with
    | false =>
      rw [State.emit_of_unmarked seg r he hgood hq hm] at ht
      subst ht
      obtain ⟨hread, hvalid⟩ := State.putValue_element seg steps b j hbuffer hlen v
      exact ⟨hread, hvalid, fun h => absurd (hm.symm.trans h) (by decide)⟩
    | true =>
      have hsaturate : poison = false := hvalue.resolve_left fun h => absurd (hm.symm.trans h) (by decide)
      rw [State.emit_of_saturated seg r he hgood (hsaturate ▸ hq) hm] at ht
      dsimp only at ht
      rw [State.markClip_of_buffer _ _ hbuffer] at ht
      subst ht
      obtain ⟨hread, hvalid⟩ := State.putValue_element seg steps b j hbuffer (hbump 1) v
      exact ⟨hread, hvalid, fun _ => ⟨State.reg_putOut_bumpFor _ _ _ _ _ _ _ _ _ _ _, testBit_setBit_self _ _⟩⟩
  · rw [State.emit_of_poisoned seg r he hgood (hpoison ▸ hq) hmarked] at ht
    dsimp only at ht
    rw [State.markClip_of_buffer _ _ hbuffer] at ht
    subst ht
    obtain ⟨hzero, hinvalid⟩ := State.putZero_element seg steps b j hbuffer (hbump 2)
    exact ⟨hzero, hinvalid, State.reg_putOut_bumpFor _ _ _ _ _ _ _ _ _ _ _⟩

/-- Settles O13: an invalid row is zeroed and no other row writes to its bytes; an element's output follows its residue, its
mark and the policy. -/
theorem validityAndClipPolicy : Obligations.ValidityAndClipPolicy :=
  ⟨taintedVectorsAreInvalidPart_holds, elementOutputFollowsClipPolicyPart_holds⟩

end Sys2Proof.Machine
end

section
/-! PROOF. O14, first half: a committed tile completes, and its instruction or its job goes on (R91, R93, R96). -/

namespace Sys2Proof.Machine

open Sys2Proof

theorem keepsWalkers.queue {c : Nat} {s t : State} (h : keepsWalkers Walker.standing c s t) :
    (t.walker c).queue = (s.walker c).queue := (h.map Walker.queue fun _ => rfl).2.2

theorem keepsWalkers.lens {c : Nat} {s t : State} (h : keepsWalkers Walker.standing c s t) :
    (t.walker c).lens = (s.walker c).lens := (h.map Walker.lens fun _ => rfl).2.2

/-! A planned tile -/

/-- Skipping keeps an instruction but for its next tile, which never moves back. -/
theorem State.skipTiles_keeps (s : State) (c : Nat) (o : WObj) (n : Nat) (r : Running) :
    let q := (s.skipTiles c o n r).1
    q = { r with next := q.next } ∧ r.next ≤ q.next := by
  by_cases h : r.next ≤ r.last
  · obtain ⟨hsame, hle, -⟩ := s.skipTiles_running c o n r h
    exact ⟨hsame, hle⟩
  · cases n with
    | zero => exact ⟨rfl, Nat.le_refl _⟩
    | succ n =>
      rw [State.skipTiles_of_not_skipped fun hskip => h (Nat.le_of_lt hskip.1)]
      exact ⟨rfl, Nat.le_refl _⟩

theorem State.tilePassed_keeps (s : State) (c n : Nat) (o : WObj) (r : Running) :
    keepsWalkers Walker.standing c s (s.tilePassed c n o r) :=
  (keepsWalkers.of_walkers (s.skipTiles_touches _ _ _ _).walkers).trans (State.onWalker_keeps _ c fun _ => rfl)

theorem State.tilePassed_touches (s : State) (c n : Nat) (o : WObj) (r : Running) : touchesWork s (s.tilePassed c n o r) :=
  (s.skipTiles_touches _ _ _ _).work.trans (State.onWalker_touches _ _ _).work

/-- The instruction stands behind the tile, done when its share is. -/
theorem State.tilePassed_running (s : State) {c : Nat} (hc : c < s.walkers.length) (n : Nat) (o : WObj) (r : Running) :
    ∃ r', ((s.tilePassed c n o r).walker c).running = some r' ∧ r'.tile = none ∧ r'.accs = [] ∧ n < r'.next ∧
      r'.did = r.did + 1 ∧ r'.last = r.last ∧ r'.done = decide (r.last ≤ r'.next) := by
  obtain ⟨b, hb⟩ : ∃ b, r.behind n (((s.walker c).running.map (·.lenOut)).getD []) = b := ⟨_, rfl⟩
  obtain ⟨hsame, hle⟩ := s.skipTiles_keeps c o (r.last - r.next) b
  have hlen : c < (s.skipTiles c o (r.last - r.next) b).2.walkers.length := by
    rw [(s.skipTiles_touches _ _ _ _).walkers]
    exact hc
  unfold State.tilePassed
  rw [hb, State.walker_onWalker_self _ c _ hlen, hsame]
  subst hb
  exact ⟨_, rfl, rfl, rfl, hle, rfl, rfl, rfl⟩

/-! A pooled tile -/

theorem State.notePooled_touches (s : State) (c : Nat) (r : Running) (q : Tile) : touchesPool s (s.notePooled c r q) := by
  unfold State.notePooled
  split
  · exact .rfl
  · exact rfl

/-- The cluster is freed over a state in which the pool alone has moved. -/
theorem State.tileFreed_eq (s : State) (c n : Nat) (r : Running) (q : Tile) (p : Nat) :
    ∃ u, touchesPool s u ∧ s.tileFreed c n r q p = u.onWalker c fun w => { w with job := none, running := none } :=
  ⟨_, ((s.notePooled_touches c r q).trans (State.writeCtx_touches _ _ _ _ _)).trans (State.use_touches _ _ _), rfl⟩

theorem State.jobBusy_iff (s : State) (j : Nat) : s.jobBusy j = true ↔ ∃ k, (s.walker k).job = some j := by
  unfold State.jobBusy State.walker
  simp only [List.any_eq_true, decide_eq_true_eq]
  constructor
  · rintro ⟨w, hw, hjob⟩
    obtain ⟨k, hk, rfl⟩ := List.getElem_of_mem hw
    exact ⟨k, (congrArg Walker.job (List.getD_eq_getElem _ _ hk)).trans hjob⟩
  · rintro ⟨k, hjob⟩
    by_cases hk : k < s.walkers.length
    · rw [List.getD_eq_getElem _ _ hk] at hjob
      exact ⟨_, List.getElem_mem hk, hjob⟩
    · rw [List.getD_eq_default _ _ (Nat.not_lt.1 hk)] at hjob
      exact absurd hjob nofun

/-- A job is busy on the clusters that hold a tile of it still when one of them is free. -/
theorem jobBusy_iff_of_free {s t : State} {c j : Nat} (hothers : otherWalkers s t c) (hfree : (t.walker c).job = none) :
    t.jobBusy j = true ↔ ∃ k, k ≠ c ∧ (s.walker k).job = some j := by
  rw [t.jobBusy_iff]
  constructor
  · rintro ⟨k, hk⟩
    have hne : k ≠ c := by
      rintro rfl
      exact absurd (hfree.symm.trans hk) nofun
    exact ⟨k, hne, hothers k hne ▸ hk⟩
  · rintro ⟨k, hne, hk⟩
    exact ⟨k, (hothers k hne).symm ▸ hk⟩

theorem State.settleJob_of_ended {s : State} {j : Nat} (hcount : s.reg (jobReg j 3) ≤ s.reg (jobReg j 2))
    (hfree : ¬ s.jobBusy j = true) : s.settleJob j = s.endJob j 3 :=
  if_pos (by simp [hcount, hfree])

theorem State.settleJob_of_open {s : State} {j : Nat}
    (h : s.reg (jobReg j 2) < s.reg (jobReg j 3) ∨ s.jobBusy j = true) : s.settleJob j = s := by
  refine if_neg ?_
  rcases h with hcount | hbusy
  · simp [hcount]
  · simp [hbusy]

theorem State.settleJob_cases (s : State) (j : Nat) : s.settleJob j = s.endJob j 3 ∨ s.settleJob j = s := by
  unfold State.settleJob
  split
  · exact .inl rfl
  · exact .inr rfl

theorem State.settleJob_walkers (s : State) (j : Nat) : (s.settleJob j).walkers = s.walkers := by
  rcases s.settleJob_cases j with h | h
  · rw [h, State.endJob_walkers]
  · rw [h]

theorem State.settleJob_counter (s : State) (j : Nat) : (s.settleJob j).reg (jobReg j 2) = s.reg (jobReg j 2) := by
  rcases s.settleJob_cases j with h | h
  · rw [h, State.endJob_reg _ _ _ (not_answerCounter_jobReg (by decide)), State.reg_setReg_ne _ _ _ _ (jobReg_ne (by decide))]
  · rw [h]

section Pooled
variable {s : State} {c n : Nat} {r : Running} {q : Tile}

theorem State.tileFreed_walker (hc : c < s.walkers.length) (p : Nat) :
    (s.tileFreed c n r q p).walker c = { s.walker c with job := none, running := none } ∧
      otherWalkers s (s.tileFreed c n r q p) c := by
  obtain ⟨u, hu, hfreed⟩ := s.tileFreed_eq c n r q p
  have hwalkers := hu.walkers
  have hlen : c < u.walkers.length := hwalkers ▸ hc
  have hself : u.walker c = s.walker c := congrArg (·.getD c Walker.blank) hwalkers
  rw [hfreed]
  exact ⟨by rw [State.walker_onWalker_self _ _ _ hlen, hself],
    fun k hk => (State.walker_onWalker_ne _ _ _ _ hk).trans (congrArg (·.getD k Walker.blank) hwalkers)⟩

theorem State.tileFreed_reg (s : State) (c n : Nat) (r : Running) (q : Tile) (p k : Nat) :
    (s.tileFreed c n r q p).reg k = s.reg k := by
  obtain ⟨u, hu, hfreed⟩ := s.tileFreed_eq c n r q p
  rw [hfreed, State.onWalker_reg, hu.reg]

end Pooled

theorem jobReg_below {j i : Nat} (hj : j < 16) (hi : i < 5) : jobReg j i < 0x330000 := by
  unfold jobReg okey
  omega

theorem tilePart_holds : tilePart := by
  intro s c n at_ ups r o q hactive hrun htile hobj hready hq hc hlen
  obtain ⟨g, hseg, -⟩ := Option.bind_eq_some_iff.1 hobj
  have hexec := exec_tileComplete hactive hrun htile hobj hready hq ups
  obtain ⟨v, hv⟩ : ∃ v, s.writeTile c o r q ups = v := ⟨_, rfl⟩
  have hkeeps : keepsWalkers Walker.standing c s v := hv ▸ State.writeTile_keeps hseg c o q ups
  have htouches : touchesDrain s v := hv ▸ State.writeTile_touches hseg hc o q ups
  rw [hv] at hexec
  obtain ⟨u, hu⟩ : ∃ u, v.tileNoted c n r q (s.walker c).job = u := ⟨_, rfl⟩
  have hnoted : touchesTrace v u := hu ▸ v.tileNoted_touches c n r q _
  have hkept : keepsWalkers Walker.standing c s u := hkeeps.trans (.of_walkers hnoted.walkers)
  have hulen : c < u.walkers.length := hkept.1 ▸ hlen
  rw [hu] at hexec
  refine ⟨fun hjob => ?_, fun j hj hjob => ?_⟩
  · rw [hjob] at hexec
    obtain ⟨r', hrun', htile', haccs, hnext, hdid, hlast, hdone⟩ := u.tilePassed_running hulen n o r
    have hpassed := hkept.trans (u.tilePassed_keeps c n o r)
    exact ⟨_, r', hexec, hrun', htile', haccs, hnext, hdid, hlast, hdone, hpassed.queue, hpassed.lens, hpassed.2.1,
      (htouches.1.trans hnoted.work.tile).trans (u.tilePassed_touches c n o r).tile⟩
  · have hreg (i : Nat) (hi : i < 5) : u.reg (jobReg j i) = s.reg (jobReg j i) :=
      (hu ▸ v.tileNoted_reg c n r q _ (not_answerCounter_jobReg hi)).trans (htouches.2 _ (jobReg_below hj hi))
    rw [hjob] at hexec
    obtain ⟨t, ht⟩ : ∃ t, u.tileFreed c n r q (v.segParty r.seg) = t := ⟨_, rfl⟩
    obtain ⟨hself, hfreed⟩ := State.tileFreed_walker (n := n) (r := r) (q := q) hulen (v.segParty r.seg)
    have htreg (i : Nat) (hi : i < 5) : t.reg (jobReg j i) = s.reg (jobReg j i) :=
      (ht ▸ u.tileFreed_reg c n r q _ _).trans (hreg i hi)
    rw [ht] at hself hfreed
    have hbusy := jobBusy_iff_of_free (j := j) (fun k hk => (hfreed k hk).trans (hkept.2.1 k hk))
      (congrArg Walker.job hself)
    have hsettled : (t.settleJob j).walker c = t.walker c := congrArg (·.getD c Walker.blank) (t.settleJob_walkers j)
    refine ⟨t.settleJob j, ?_, ?_, ?_, ?_, ?_, fun hcount hfree => ?_, fun hopen => ?_⟩
    · subst ht
      exact hexec
    · rw [hsettled, hself]
    · rw [hsettled, hself]
    · rw [hsettled, hself]
      exact hkept.queue
    · rw [State.settleJob_counter, htreg 2 (by decide)]
    · rw [State.settleJob_of_ended, State.jobState_endJob]
      · rwa [htreg 2 (by decide), htreg 3 (by decide)]
      · exact fun h => let ⟨k, hne, hk⟩ := hbusy.1 h; hfree k hne hk
    · rw [State.settleJob_of_open]
      · exact htreg 1 (by decide)
      · rwa [htreg 2 (by decide), htreg 3 (by decide), hbusy]

end Sys2Proof.Machine
end

section
/-! PROOF. O14, second half: an instruction whose tiles are done completes, or its drain pip runs first (R127, R146, R147,
R155). -/

namespace Sys2Proof.Machine

open Sys2Proof

/-! The moves behind an instruction (R127) -/

theorem doMove_finished (w : Walker) {x : QItem} (h : isMove x = true) : (doMove w x).finished = w.finished + 1 := by
  cases x with
  | run | arriving => exact absurd h Bool.false_ne_true
  | refused | setLen | setByte | setHalf => rfl

theorem doMove_running (w : Walker) (x : QItem) : (doMove w x).running = w.running := by
  cases x <;> rfl

theorem drainMoves_cons_of_move (w : Walker) {x : QItem} (h : isMove x = true) (xs : List QItem) :
    drainMoves w (x :: xs) = drainMoves (doMove w x) xs := if_pos h

theorem drainMoves_cons_of_not_move (w : Walker) {x : QItem} (h : ¬ isMove x = true) (xs : List QItem) :
    drainMoves w (x :: xs) = { w with queue := x :: xs } := if_neg h

/-- The moves at the head of a queue are performed and counted; the queue goes on behind them. -/
theorem drainMoves_spec (w : Walker) (xs : List QItem) :
    (drainMoves w xs).queue = xs.dropWhile isMove ∧
      (drainMoves w xs).finished = w.finished + (xs.takeWhile isMove).length ∧ (drainMoves w xs).running = w.running := by
  induction xs generalizing w with
  | nil => exact ⟨rfl, rfl, rfl⟩
  | cons x xs ih =>
    by_cases hx : isMove x = true
    · obtain ⟨hqueue, hfinished, hrunning⟩ := ih (doMove w x)
      rw [drainMoves_cons_of_move w hx, hqueue, hfinished, hrunning, doMove_finished w hx, doMove_running,
        List.dropWhile_cons_of_pos hx, List.takeWhile_cons_of_pos hx, List.length_cons]
      exact ⟨rfl, by omega, rfl⟩
    · rw [drainMoves_cons_of_not_move w hx, List.dropWhile_cons_of_neg hx, List.takeWhile_cons_of_neg hx]
      exact ⟨rfl, rfl, rfl⟩

theorem drainMoves_of_no_move (w : Walker) {xs : List QItem} (h : xs.takeWhile isMove = []) :
    drainMoves w xs = { w with queue := xs } := by
  cases xs with
  | nil => rfl
  | cons x xs =>
    refine drainMoves_cons_of_not_move w (fun hx => ?_) xs
    rw [List.takeWhile_cons_of_pos hx] at h
    exact absurd h (List.cons_ne_nil _ _)

/-! The end of an instruction (R115, R127) -/

/-- A walker whose instruction has completed, before the moves behind it. -/
def Walker.ended (w : Walker) (lens : List Nat) : Walker :=
  { w with lens := lens, running := none, finished := w.finished + 1 }

/-- What the end of an instruction may touch: the walkers, and what a trace may touch. -/
def touchesFinish (s t : State) : Prop := t = { s with walkers := t.walkers, od := t.od, pool := t.pool, test := t.test }

theorem State.finishInstruction_touches (s : State) (c : Nat) (r : Running) : touchesFinish s (s.finishInstruction c r) := by
  obtain ⟨u, hu⟩ : ∃ u,
    s.traceOut ⟨0x13, s.segParty r.seg, false, false, stOk, unitCluster c, r.ctx, 0, 0, r.desc, false⟩ = u := ⟨_, rfl⟩
  have htrace := State.traceOut_touches s ⟨0x13, s.segParty r.seg, false, false, stOk, unitCluster c, r.ctx, 0, 0, r.desc, false⟩
  unfold State.finishInstruction
  rw [hu] at htrace ⊢
  unfold touchesTrace at htrace
  unfold touchesFinish
  rw [htrace]
  rfl

theorem touchesFinish.pips {s t : State} (h : touchesFinish s t) : t.pips = s.pips := by
  unfold touchesFinish at h
  rw [h]

theorem touchesFinish.frame {s t : State} (h : touchesFinish s t) : t.frame = s.frame := by
  unfold touchesFinish at h
  rw [h]

theorem State.finishInstruction_others (s : State) (c : Nat) (r : Running) : otherWalkers s (s.finishInstruction c r) c :=
  fun k hk => (State.walker_onWalker_ne _ _ _ _ hk).trans
    (congrArg (·.getD k Walker.blank) (State.traceOut_touches _ _).walkers)

/-- The walker of a completed instruction; without a length-out step its length registers are as before. -/
theorem State.finishInstruction_walker (s : State) {c : Nat} (hc : c < s.walkers.length) (r : Running) :
    ∃ l, (s.finishInstruction c r).walker c = drainMoves ((s.walker c).ended l) (s.walker c).queue ∧
      (stepsOf (((s.segImg r.seg).map fun g => chainOf g c (dChain r.bytes)).getD []) 6 = [] → l = (s.walker c).lens) := by
  unfold State.finishInstruction
  extract_lets steps lens
  have hsteps : steps = ((s.segImg r.seg).map fun g => chainOf g c (dChain r.bytes)).getD [] := by
    unfold steps
    cases s.segImg r.seg <;> rfl
  have htrace := (s.traceOut_touches ⟨0x13, s.segParty r.seg, false, false, stOk, unitCluster c, r.ctx, 0, 0, r.desc, false⟩).walkers
  have hself := congrArg (·.getD c Walker.blank) htrace
  refine ⟨lens (s.walker c).lens, ?_, fun hnone => ?_⟩
  · rw [State.walker_onWalker_self _ _ _ (htrace ▸ hc)]
    change (State.traceOut _ _).walker c = _ at hself
    rw [hself]
    rfl
  · unfold lens
    rw [hsteps, hnone]
    rfl

section Finish
variable {s : State} {c : Nat} (hc : c < s.walkers.length) (r : Running)

include hc

theorem State.finishInstruction_running : ((s.finishInstruction c r).walker c).running = none := by
  obtain ⟨l, hwalker, -⟩ := s.finishInstruction_walker hc r
  rw [hwalker, (drainMoves_spec _ _).2.2]
  rfl

theorem State.finishInstruction_buffer (hmoves : (s.walker c).queue.takeWhile isMove = []) :
    ((s.finishInstruction c r).walker c).buffer = (s.walker c).buffer ∧
      ((s.finishInstruction c r).walker c).valid = (s.walker c).valid := by
  obtain ⟨l, hwalker, -⟩ := s.finishInstruction_walker hc r
  rw [hwalker, drainMoves_of_no_move _ hmoves]
  exact ⟨rfl, rfl⟩

end Finish

/-! A triggered drain pip (R146, R147, R155) -/

/-- The cluster has noted that its instruction's drain pip has run. -/
def State.ranNoted (s : State) (c : Nat) (r : Running) : State :=
  s.onWalker c fun w => { w with running := some { r with ran := true } }

/-- A triggered drain pip that does not fit the window: the output is LATE and the instruction completes (R146). -/
def State.drainLate (s : State) (c : Nat) (r : Running) : State :=
  ((s.flagLate r.seg).markOverrun r.seg).finishInstruction c r

/-- A triggered drain pip that fits the window begins its run, which is counted (R146). -/
def State.drainRun (s : State) (c : Nat) (r : Running) (p : DrainPip) : State :=
  ((s.bump64 (okey (0x3340 + c) 7)).bump64 (pkey (s.segParty r.seg) (okey (0x3340 + c) 7))).startPip
    (c + 4) p.image r.seg r.desc p.runTime []

/-- A triggered drain pip: in place over no source it leaves zeros, else it runs when it fits the window. -/
def State.runDrain (s : State) (c : Nat) (r : Running) (p : DrainPip) : State :=
  if p.image.inPlace && (s.clu c).noSource.contains p.slot then
    (s.zeroRegion c (s.drainRegion (c + 4)).1 (s.drainRegion (c + 4)).2).finishInstruction c r
  else
    match s.openWindow with
    | some x => if s.frame.start + x.2.2 < s.now + p.runTime then s.drainLate c r else s.drainRun c r p
    | none => s

section Exec
variable {s : State} {c : Nat} {r : Running} (hactive : s.active = true) (hrun : (s.walker c).running = some r)
  (hjob : (s.walker c).job = none) (hdone : r.done = true) (htile : r.tile = none) (hready : r.ready ≤ s.now)
  (hpip : (s.pip (c + 4)).running = false)

include hactive hrun hjob hdone htile hready hpip

theorem exec_instructionComplete : exec (.macroInstructionComplete c) s = .next (
    match (if r.ran || decide (r.did = 0) then none else s.trigger c r) with
    | none => s.finishInstruction c r
    | some p => (s.ranNoted c r).runDrain c { r with ran := true } p) := by
  have hgo : ¬ (!s.active || (s.walker c).job.isSome || !r.done || r.tile.isSome || decide (s.now < r.ready) ||
      (s.pip (c + 4)).running) = true := by
    simp [hactive, hjob, hdone, htile, hready, hpip]
  show execMacroInstructionComplete c s = _
  unfold execMacroInstructionComplete
  dsimp only
  rw [hrun]
  dsimp only
  rw [if_neg hgo]
  rfl

theorem exec_instructionComplete_of_no_pip (h : r.ran = true ∨ r.did = 0 ∨ s.trigger c r = none) :
    exec (.macroInstructionComplete c) s = .next (s.finishInstruction c r) := by
  have hnone : (if (r.ran || decide (r.did = 0)) = true then none else s.trigger c r) = none := by
    rcases h with h | h | h <;> simp [h]
  rw [exec_instructionComplete hactive hrun hjob hdone htile hready hpip, hnone]

theorem exec_instructionComplete_of_pip {p : DrainPip} (hran : r.ran = false) (hdid : r.did ≠ 0)
    (htrigger : s.trigger c r = some p) : 
      exec (.macroInstructionComplete c) s = .next ((s.ranNoted c r).runDrain c { r with ran := true } p) := by
  have hsome : (if (r.ran || decide (r.did = 0)) = true then none else s.trigger c r) = some p := by
    rw [if_neg (by simp [hran, hdid]), htrigger]
  rw [exec_instructionComplete hactive hrun hjob hdone htile hready hpip, hsome]

end Exec

section Drain
variable {s : State} {c : Nat} {r : Running} {p : DrainPip}

theorem State.runDrain_of_no_source (hplace : p.image.inPlace = true) (hsource : p.slot ∈ (s.clu c).noSource) :
    s.runDrain c r p =
      (s.zeroRegion c (s.drainRegion (c + 4)).1 (s.drainRegion (c + 4)).2).finishInstruction c r :=
  if_pos (by
    rw [hplace, Bool.true_and, List.contains_iff_mem]
    exact hsource)

section Window
variable {x : SegRec × Nat × Nat} (h : ¬ (p.image.inPlace = true ∧ p.slot ∈ (s.clu c).noSource))
  (hopen : s.openWindow = some x)

include h hopen

theorem State.runDrain_of_source : s.runDrain c r p =
    if s.frame.start + x.2.2 < s.now + p.runTime then s.drainLate c r else s.drainRun c r p := by
  unfold State.runDrain
  rw [hopen, if_neg]
  rwa [Bool.and_eq_true, List.contains_iff_mem]

theorem State.runDrain_of_over (hover : s.frame.start + x.2.2 < s.now + p.runTime) : s.runDrain c r p = s.drainLate c r :=
  (State.runDrain_of_source h hopen).trans (if_pos hover)

theorem State.runDrain_of_fits (hfits : s.now + p.runTime ≤ s.frame.start + x.2.2) : s.runDrain c r p = s.drainRun c r p :=
  (State.runDrain_of_source h hopen).trans (if_neg (Nat.not_lt.2 hfits))

end Window

/-- What the instruction runs is where its output is: noting the run leaves the region. -/
theorem State.ranNoted_drainRegion (hc : c < s.walkers.length) (hrun : (s.walker c).running = some r) :
    (s.ranNoted c r).drainRegion (c + 4) = s.drainRegion (c + 4) := by
  have hafter : (s.ranNoted c r).drainJob (c + 4) = some { r with ran := true } :=
    congrArg Walker.running (State.walker_onWalker_self s c _ hc)
  have hbefore : s.drainJob (c + 4) = some r := hrun
  unfold State.drainRegion
  rw [hafter, hbefore]
  rfl

end Drain

/-- The windows end to end are of the lengths in force alone. -/
theorem spansFrom_congr {s t : State} (h : ∀ p, t.winLen p = s.winLen p) (off : Nat) (rs : List SegRec) :
    spansFrom t off rs = spansFrom s off rs := by
  induction rs generalizing off with
  | nil => rfl
  | cons r rs ih =>
    unfold spansFrom
    rw [h, ih]

theorem State.onWalker_openWindow (s : State) (c : Nat) (f : Walker → Walker) : (s.onWalker c f).openWindow = s.openWindow := by
  have hspans : (s.onWalker c f).spans = s.spans := spansFrom_congr (s := s) (t := s.onWalker c f) (fun _ => rfl) _ _
  unfold State.openWindow State.spanOf
  rw [hspans]
  rfl

theorem State.startPip_walkers (s : State) (e : Nat) (img : PipImage) (seg item limit : Nat) (input : List Byte) :
    (s.startPip e img seg item limit input).walkers = s.walkers := by
  unfold State.startPip
  dsimp only
  split <;> rfl

theorem State.startPip_pip (s : State) {e : Nat} (he : e < s.pips.length) (img : PipImage) (seg item limit : Nat)
    (input : List Byte) : (s.startPip e img seg item limit input).pip e =
      { s.pip e with regs := List.replicate 16 0, pc := img.entry, steps := 0, cycle := 0, writes := [], running := true,
                     stall := none, start := s.now, image := some img, seg := seg, item := item, limit := limit, input := input,
                     held := [], tainted := false, verdict := none, ended := 0 } := by
  unfold State.startPip
  dsimp only
  split
  · exact State.pip_onPip_self _ e _ he
  · exact State.pip_onPip_self _ e _ he

/-- A drain pip that begins its run: its engine is at the entry with its registers zero, and the walkers are as before. -/
theorem State.drainRun_spec (s : State) {c : Nat} (hc : c + 4 < s.pips.length) (r : Running) (p : DrainPip) :
    (s.drainRun c r p).pip (c + 4) =
        { s.pip (c + 4) with regs := List.replicate 16 0, pc := p.image.entry, steps := 0, cycle := 0, writes := [],
                             running := true, stall := none, start := s.now, image := some p.image, seg := r.seg,
                             item := r.desc, limit := p.runTime, input := [], held := [], tainted := false,
                             verdict := none, ended := 0 } ∧
      ∀ k, (s.drainRun c r p).walker k = s.walker k := by
  obtain ⟨od, hrun⟩ : ∃ od, s.drainRun c r p =
      ({ s with od := od }).startPip (c + 4) p.image r.seg r.desc p.runTime [] := ⟨_, rfl⟩
  rw [hrun]
  exact ⟨State.startPip_pip { s with od := od } hc _ _ _ _ _, fun k => congrArg (·.getD k Walker.blank) (State.startPip_walkers _ _ _ _ _ _ _)⟩

theorem State.markOverrun_walkers (s : State) (g : Nat) : (s.markOverrun g).walkers = s.walkers := by
  unfold State.markOverrun
  split
  · rfl
  · dsimp only
    split
    · exact (State.use_touches _ _ _).walkers
    · rfl

/-- A segment that overran is marked, and no other mark of the frame falls. -/
theorem State.markOverrun_frame (s : State) (g : Nat) :
    (s.markOverrun g).frame.overrun.testBit g = true ∧ (s.markOverrun g).frame.late = s.frame.late := by
  unfold State.markOverrun
  split
  · exact ⟨‹_›, rfl⟩
  · dsimp only
    split
    · exact ⟨testBit_setBit_self _ _, rfl⟩
    · exact ⟨testBit_setBit_self _ _, rfl⟩

/-- A drain pip in place over no source: the output region is clear, and the rest of the buffer is as before (R155). -/
theorem State.runDrain_zeros {s : State} {c : Nat} {r : Running} {p : DrainPip} (hc : c < s.walkers.length)
    (hplace : p.image.inPlace = true) (hsource : p.slot ∈ (s.clu c).noSource)
    (hmoves : (s.walker c).queue.takeWhile isMove = []) {g : Nat × Nat} (hg : s.drainRegion (c + 4) = g) :
    ((s.runDrain c r p).walker c).running = none ∧ (s.runDrain c r p).pips = s.pips ∧
      (∀ a, g.1 ≤ a → a < g.1 + g.2 → ((s.runDrain c r p).walker c).clearAt a) ∧
      ∀ a, (a < g.1 ∨ g.1 + g.2 ≤ a) → mget 0 ((s.runDrain c r p).walker c).buffer a = mget 0 (s.walker c).buffer a := by
  rw [State.runDrain_of_no_source hplace hsource, hg]
  obtain ⟨u, hu⟩ : ∃ u, s.zeroRegion c g.1 g.2 = u := ⟨_, rfl⟩
  have hself : u.walker c = putBuf (s.walker c) g.1 (List.replicate g.2 0) false :=
    hu ▸ State.walker_onWalker_self s c _ hc
  have hlen : c < u.walkers.length := by
    rw [← hu]
    exact (length_upd _ _ _).symm ▸ hc
  obtain ⟨hbuffer, hvalid⟩ := State.finishInstruction_buffer hlen r (by rw [hself]; exact hmoves)
  rw [hu]
  refine ⟨State.finishInstruction_running hlen r, (u.finishInstruction_touches c r).pips.trans (hu ▸ rfl), fun a ha ha' => ?_,
    fun a ha => ?_⟩
  · unfold Walker.clearAt
    rw [hbuffer, hvalid, hself]
    exact putBuf_zeros_clearAt _ ⟨ha, ha'⟩
  · rw [hbuffer, hself]
    exact mget_writeCells_ne _ _ _ _ (by rwa [List.length_replicate])

/-- A drain pip that is too late: its output is LATE, its segment overran and the instruction completes. -/
theorem State.drainLate_spec {s : State} {c : Nat} (hc : c < s.walkers.length) (r : Running) :
    ((s.drainLate c r).walker c).running = none ∧ (s.drainLate c r).frame.late.testBit r.seg = true ∧
      (s.drainLate c r).frame.overrun.testBit r.seg = true := by
  obtain ⟨hover, hlate⟩ := (s.flagLate r.seg).markOverrun_frame r.seg
  have hlen : c < ((s.flagLate r.seg).markOverrun r.seg).walkers.length := by
    rw [State.markOverrun_walkers]
    exact hc
  unfold State.drainLate
  refine ⟨State.finishInstruction_running hlen r, ?_, ?_⟩
  · rw [(State.finishInstruction_touches _ _ _).frame, hlate]
    exact testBit_setBit_self _ _
  · rw [(State.finishInstruction_touches _ _ _).frame, hover]

theorem instructionPart_holds : instructionPart := by
  intro s c r hactive hrun hjob hdone htile hready hpip hc
  have hnoted : (s.ranNoted c r).walker c = { s.walker c with running := some { r with ran := true } } :=
    State.walker_onWalker_self s c _ hc
  have hlen : c < (s.ranNoted c r).walkers.length := (length_upd _ _ _).symm ▸ hc
  refine ⟨fun hnone => ?_, fun p hran hdid htrigger hplace hsource hmoves => ?_,
    fun p x hran hdid htrigger hruns hopen hpips => ?_⟩
  · obtain ⟨l, hwalker, hlens⟩ := s.finishInstruction_walker hc r
    obtain ⟨hqueue, hfinished, hrunning⟩ := drainMoves_spec ((s.walker c).ended l) (s.walker c).queue
    rw [← hwalker] at hqueue hfinished hrunning
    refine ⟨_, exec_instructionComplete_of_no_pip hactive hrun hjob hdone htile hready hpip hnone, hrunning, hqueue, hfinished,
      s.finishInstruction_others c r, s.finishInstruction_touches c r, fun hmoves hsteps => ⟨?_, ?_⟩⟩
    · rw [hwalker, drainMoves_of_no_move _ hmoves, hlens hsteps]
      rfl
    · exact (State.finishInstruction_buffer hc r hmoves).1
  · have hexec := exec_instructionComplete_of_pip hactive hrun hjob hdone htile hready hpip hran hdid htrigger
    obtain ⟨hended, hpips, hclear, hkept⟩ := State.runDrain_zeros (r := { r with ran := true }) hlen hplace hsource
      (by rw [hnoted]; exact hmoves) (State.ranNoted_drainRegion hc hrun)
    refine ⟨_, hexec, hended, hpips, hclear, fun a ha => (hkept a ha).trans ?_⟩
    rw [hnoted]
  · have hexec := exec_instructionComplete_of_pip hactive hrun hjob hdone htile hready hpip hran hdid htrigger
    have hwindow : (s.ranNoted c r).openWindow = some x := (s.onWalker_openWindow c _).trans hopen
    refine ⟨fun hfits => ?_, fun hover => ?_⟩
    · rw [State.runDrain_of_fits (s := s.ranNoted c r) hruns hwindow hfits] at hexec
      obtain ⟨hpip', hwalkers⟩ := (s.ranNoted c r).drainRun_spec hpips { r with ran := true } p
      refine ⟨_, hexec, ?_⟩
      rw [hpip']
      exact ⟨rfl, rfl, rfl, rfl, rfl, rfl, congrArg Walker.running ((hwalkers c).trans hnoted),
        fun k hk => (hwalkers k).trans (State.walker_onWalker_ne s c k _ hk)⟩
    · rw [State.runDrain_of_over (s := s.ranNoted c r) hruns hwindow hover] at hexec
      exact ⟨_, hexec, State.drainLate_spec hlen _⟩

/-- Settles O14: a completed tile and a completed instruction leave what R90 to R96, R127 and R146 say. -/
theorem tilesAndInstructionsComplete : Obligations.TilesAndInstructionsComplete :=
  ⟨tilePart_holds, instructionPart_holds⟩

end Sys2Proof.Machine
end

section
/-! SUPPORT. The two memories of a state and their canonical form; folds and answers that keep it. -/

namespace Sys2Proof.Machine

open Sys2Proof

/-- The two memories of a state: the pool's DRAM and the core's data memory. -/
def State.mems (s : State) : List Host.Cell × List Host.Cell := (s.pool.mem, s.core.dmem)

/-- Both memories are in canonical form. -/
def canonical (m : List Host.Cell × List Host.Cell) : Prop := Memory.wf m.1 = true ∧ Memory.wf m.2 = true

@[simp] theorem mems_mk (a : List Instr) (b : List (Nat × Nat)) (c : Husk) (d : Thermal) (e : Store) (f : Frame)
    (g : List Pod) (h : List Cluster) (i : Cal) (j : List Walker) (j2 : List Ahead) (k : List Job) (l : List Head) (m : Core)
    (n : List Pip) (o : Loader) (p : List Channel) (q : Net) (r : Dict) (t : Pool) (u : Integ) (v : Sec) (w : Test)
    (x : Board) (y : Nat) (z : List OutMsg) :
    State.mems ⟨a, b, c, d, e, f, g, h, i, j, j2, k, l, m, n, o, p, q, r, t, u, v, w, x, y, z⟩ = (t.mem, m.dmem) := id rfl

@[simp] theorem mems_eta (s : State) : (s.pool.mem, s.core.dmem) = s.mems := id rfl

@[simp] theorem mems_ite (c : Prop) [Decidable c] (s t : State) :
    (if c then s else t).mems = if c then s.mems else t.mems := apply_ite ..

@[simp] theorem canonical_ite (c : Prop) [Decidable c] (x y : List Host.Cell × List Host.Cell) :
    canonical (if c then x else y) ↔ if c then canonical x else canonical y := by split <;> rfl

@[simp] theorem foldl_mems {α : Type} (f : State → α → State) (h : ∀ s x, (f s x).mems = s.mems) (l : List α) (s : State) :
    (l.foldl f s).mems = s.mems := foldl_view State.mems f h l s

@[simp] theorem foldl_snd_mems {α β : Type} (f : β × State → α → β × State) (h : ∀ q x, (f q x).2.mems = q.2.mems) (l : List α)
    (q : β × State) : (l.foldl f q).2.mems = q.2.mems := by
  induction l generalizing q with
  | nil => rfl
  | cons x xs ih => simp [ih, h]

@[simp] theorem foldl_fst_mems {α β : Type} (f : State × β → α → State × β) (h : ∀ q x, (f q x).1.mems = q.1.mems) (l : List α)
    (q : State × β) : (l.foldl f q).1.mems = q.1.mems := by
  induction l generalizing q with
  | nil => rfl
  | cons x xs ih => simp [ih, h]

theorem mems_of_ite {c : Prop} [Decidable c] {a b s : State} (ha : a.mems = s.mems) (hb : b.mems = s.mems) :
    (if c then a else b).mems = s.mems := by split <;> assumption

theorem mems_of_eq {α : Type} {f : α × State} {a : α} {t : State} (h : f = (a, t)) : t.mems = f.2.mems := by rw [h]

theorem foldl_canonical {β : Type} (f : State → β → State) (hf : ∀ s b, canonical s.mems → canonical (f s b).mems) (l : List β)
    (s : State) (h : canonical s.mems) : canonical (l.foldl f s).mems := by
  induction l generalizing s with
  | nil => exact h
  | cons b l ih => exact ih _ (hf s b h)

theorem foldl_snd_canonical {α β : Type} (f : β × State → α → β × State)
    (hf : ∀ q x, canonical q.2.mems → canonical (f q x).2.mems) (l : List α) (q : β × State) (h : canonical q.2.mems) :
    canonical (l.foldl f q).2.mems := by
  induction l generalizing q with
  | nil => exact h
  | cons b l ih => exact ih _ (hf q b h)

/-- An answer that is a next state with canonical memories. -/
def CanonicalNext (o : Out) : Prop := ∃ t, o = .next t ∧ canonical t.mems

@[simp] theorem canonicalNext_next (t : State) : CanonicalNext (.next t) ↔ canonical t.mems :=
  ⟨fun ⟨_, h, k⟩ => by cases h; exact k, fun h => ⟨t, rfl, h⟩⟩

@[simp] theorem canonicalNext_ite (c : Prop) [Decidable c] (x y : Out) :
    CanonicalNext (if c then x else y) ↔ if c then CanonicalNext x else CanonicalNext y := by split <;> rfl

/-- A pool operation's outcome has canonical memories. -/
def DoneCanonical (d : Done) : Prop := ∀ q, d = .ok q → canonical q.2.2.2.mems

@[simp] theorem doneCanonical_ok (q : Nat × Nat × List Byte × State) : DoneCanonical (.ok q) ↔ canonical q.2.2.2.mems :=
  ⟨fun h => h q rfl, fun h r hr => by cases hr; exact h⟩

@[simp] theorem doneCanonical_error (e : Nat) : DoneCanonical (.error e) := fun _ h => by cases h

end Sys2Proof.Machine
end

section
/-! SUPPORT. What counters, messages, the fault log, contexts and the trace do to the two memories. -/

namespace Sys2Proof.Machine

open Sys2Proof

@[simp] theorem State.setReg_mems (s : State) (k v : Nat) : (State.setReg s k v).mems = s.mems := by simp [State.setReg]

@[simp] theorem State.bump_mems (s : State) (k : Nat) (n : Nat) : (State.bump s k n).mems = s.mems := by simp [State.bump]

@[simp] theorem State.bump64_mems (s : State) (k : Nat) (n : Nat) : (State.bump64 s k n).mems = s.mems := by simp [State.bump64]

@[simp] theorem State.bumpFor_mems (s : State) (p k : Nat) (n : Nat) : (State.bumpFor s p k n).mems = s.mems := by
  simp [State.bumpFor]

@[simp] theorem State.drawInt_mems (s : State) : (State.drawInt s).2.mems = s.mems := by simp [State.drawInt]

@[simp] theorem State.drawNat_mems (s : State) : (State.drawNat s).2.mems = s.mems := by simp [State.drawNat]

@[simp] theorem State.drawWord_mems (s : State) : (State.drawWord s).2.mems = s.mems := by simp [State.drawWord]

@[simp] theorem State.passTime_mems (s : State) : (State.passTime s).mems = s.mems := by simp [State.passTime]

@[simp] theorem State.spoilScrub_mems (s : State) : (State.spoilScrub s).mems = s.mems := by simp [State.spoilScrub]

@[simp] theorem State.newPoolKey_mems (s : State) (p : Nat) : (State.newPoolKey s p).mems = s.mems := by simp [State.newPoolKey]

@[simp] theorem State.stage_mems (s : State) (op : BoundaryOp) : (State.stage s op).mems = s.mems := by simp [State.stage]

@[simp] theorem State.stageNext_mems (s : State) (op : BoundaryOp) : (State.stageNext s op).mems = s.mems := by
  simp [State.stageNext]

@[simp] theorem State.onNet_mems (s : State) (p : Nat) (f : PartyNet → PartyNet) : (State.onNet s p f).mems = s.mems := by
  simp [State.onNet]

@[simp] theorem State.event_mems (s : State) (p op st : Nat) (payload : List Byte) :
    (State.event s p op st payload).mems = s.mems := by simp [State.event]

@[simp] theorem State.eventAll_mems (s : State) (op : Nat) (payload : List Byte) :
    (State.eventAll s op payload).mems = s.mems := by simp [State.eventAll]

@[simp] theorem State.attention_mems (s : State) (wasEmpty : Bool) : (State.attention s wasEmpty).mems = s.mems := by
  simp [State.attention]

@[simp] theorem State.boardPush_mems (s : State) (kind : Nat) (bytes : List Byte) :
    (State.boardPush s kind bytes).2.mems = s.mems := by
  unfold State.boardPush
  split <;> simp

@[simp] theorem State.portCount_mems (s : State) (u sub : Nat) (n : Nat) : (State.portCount s u sub n).mems = s.mems := by
  simp [State.portCount]

@[simp] theorem State.emitOn_mems (s : State) (port : Nat) (m : OutMsg) : (State.emitOn s port m).mems = s.mems := by
  simp [State.emitOn]

theorem State.transmit_mems (s : State) (p port : Nat) {t : State} (h : State.transmit s p port = some t) :
    t.mems = s.mems := by
  unfold State.transmit at h
  dsimp only at h
  repeat' split at h
  all_goals cases h <;> simp

@[simp] theorem State.sendResp_mems (s : State) (m : OutMsg) : (State.sendResp s m).mems = s.mems := by
  unfold State.sendResp
  split
  · split
    · dsimp only
      split <;> simp
    · split
      · rfl
      · split
        · rename_i t ht
          simp [State.transmit_mems _ _ _ ht]
        · simp
  · simp

@[simp] theorem State.taken_mems (s : State) (r : Req) : (State.taken s r).mems = s.mems := by simp [State.taken]

@[simp] theorem State.respond_mems (s : State) (r : Req) (cls op st load credit : Nat) (data : List Byte) :
    (State.respond s r cls op st load credit data).mems = s.mems := by simp [State.respond]

@[simp] theorem State.answer_mems (s : State) (r : Req) (op st : Nat) (data : List Byte := []) :
    (State.answer s r op st data).mems = s.mems := by simp [State.answer]

@[simp] theorem State.putHist_mems (s : State) (h : UnitHist) : (State.putHist s h).mems = s.mems := by simp [State.putHist]

@[simp] theorem State.onPod_mems (s : State) (i : Nat) (f : Pod → Pod) : (State.onPod s i f).mems = s.mems := by
  simp [State.onPod]

@[simp] theorem State.onClu_mems (s : State) (c : Nat) (f : Cluster → Cluster) : (State.onClu s c f).mems = s.mems := by
  simp [State.onClu]

@[simp] theorem State.reportEnd_mems (s : State) (kind party st sub detail : Nat) :
    (State.reportEnd s kind party st sub detail).mems = s.mems := by simp [State.reportEnd]

@[simp] theorem State.spareState_mems (s : State) (pod v : Nat) : (State.spareState s pod v).mems = s.mems := by
  simp [State.spareState]

@[simp] theorem State.dropGroup_mems (s : State) : (State.dropGroup s).mems = s.mems := by
  unfold State.dropGroup
  split
  · rfl
  · refine foldl_mems _ (fun t m => ?_) _ _
    dsimp only
    repeat' split
    all_goals simp

@[simp] theorem State.endGroup_mems (s : State) (c : Nat) : (State.endGroup s c).mems = s.mems := by
  unfold State.endGroup
  split <;> simp

@[simp] theorem State.groupLoses_mems (s : State) (c : Nat) : (State.groupLoses s c).mems = s.mems := by
  unfold State.groupLoses
  split <;> simp

@[simp] theorem State.retirePod_mems (s : State) (i : Nat) : (State.retirePod s i).2.mems = s.mems := by
  unfold State.retirePod
  dsimp only
  repeat' split
  all_goals simp

@[simp] theorem State.keepPermanent_mems (s : State) (h : UnitHist) : (State.keepPermanent s h).mems = s.mems := by
  simp [State.keepPermanent]

@[simp] theorem State.countUnit_mems (s : State) (r : FaultRec) (u : Nat) : (State.countUnit s r u).2.mems = s.mems := by
  unfold State.countUnit
  dsimp only
  repeat' split
  all_goals simp

@[simp] theorem State.podPermanent_mems (s : State) (r : FaultRec) (i : Nat) : (State.podPermanent s r i).2.mems = s.mems := by
  unfold State.podPermanent
  dsimp only
  repeat' split
  all_goals simp

@[simp] theorem State.countRec_mems (s : State) (r : FaultRec) : (State.countRec s r).2.mems = s.mems := by
  unfold State.countRec
  dsimp only
  repeat' split
  all_goals simp

@[simp] theorem State.countRaised_mems (s : State) (party : Nat) : (State.countRaised s party).mems = s.mems := by
  simp [State.countRaised]

@[simp] theorem State.raise_mems (s : State) (r : FaultRec) : (State.raise s r).mems = s.mems := by simp [State.raise]

@[simp] theorem State.fault_mems (s : State) (cls cause unit party detail : Nat) :
    (State.fault s cls cause unit party detail).mems = s.mems := by simp [State.fault]

@[simp] theorem State.mark_mems (s : State) (key t : Nat) : (State.mark s key t).mems = s.mems := by simp [State.mark]

@[simp] theorem State.faultOnce_mems (s : State) (key t gap : Nat) (r : FaultRec) :
    (State.faultOnce s key t gap r).mems = s.mems := by simp [State.faultOnce]

@[simp] theorem State.toPower_mems (s : State) (p : PowerState) (cause : Nat) : (State.toPower s p cause).mems = s.mems := by
  simp [State.toPower]

@[simp] theorem State.onCtx_mems (s : State) (c : Nat) (f : Ctx → Ctx) : (State.onCtx s c f).mems = s.mems := by
  simp [State.onCtx]

@[simp] theorem State.putMem_canonical (s : State) (a : Nat) (bs : List Byte) (hc : canonical s.mems) :
    canonical (State.putMem s a bs).mems := ⟨mwf_writeCells _ _ _ hc.1, hc.2⟩

@[simp] theorem State.putDram_canonical (s : State) (a : Nat) (b : Byte) (hc : canonical s.mems) :
    canonical (State.putDram s a b).mems := by
  unfold State.putDram
  split <;> simp [hc]

@[simp] theorem State.cacheRead_mems (s : State) (p line : Nat) : (State.cacheRead s p line).2.mems = s.mems := by
  unfold State.cacheRead
  dsimp only
  repeat' split
  all_goals simp

@[simp] theorem State.cacheReads_mems (s : State) (p : Nat) (lines : List Nat) :
    (State.cacheReads s p lines).2.mems = s.mems := by simp [State.cacheReads]

@[simp] theorem State.uncache_mems (s : State) (line : Nat) : (State.uncache s line).mems = s.mems := by simp [State.uncache]

@[simp] theorem State.poke_canonical (s : State) (p a : Nat) (b : Byte) (hc : canonical s.mems) :
    canonical (State.poke s p a b).mems := ⟨State.poke_wf s p a b hc.1, by rw [State.poke_touches s p a b]; exact hc.2⟩

@[simp] theorem State.pokes_canonical (s : State) (p : Nat) (l : List (Nat × Byte)) (hc : canonical s.mems) :
    canonical (s.pokes p l).mems := by
  induction l generalizing s with
  | nil => exact hc
  | cons x l ih => exact ih _ (State.poke_canonical s p x.1 x.2 hc)

@[simp] theorem State.putLine_canonical (s : State) (line : Nat) (bs : List Byte) (hc : canonical s.mems) :
    canonical (State.putLine s line bs).mems := by simp [State.putLine, hc]

@[simp] theorem State.charge_mems (s : State) (p ctx lines : Nat) (planned : Bool) :
    (State.charge s p ctx lines planned).mems = s.mems := by simp [State.charge]

@[simp] theorem State.writePages_canonical (s : State) (x : Ctx) (p a : Nat) (bs : List Byte) (hc : canonical s.mems) :
    canonical (State.writePages s x p a bs).mems := ⟨State.writePages_wf s x p a bs hc.1,
      by rw [State.writePages_touches s x p a bs]; exact hc.2⟩

@[simp] theorem State.writeCtx_canonical (s : State) (p c a : Nat) (bs : List Byte) (hc : canonical s.mems) :
    canonical (State.writeCtx s p c a bs).mems := by
  unfold State.writeCtx
  split <;> simp [hc]

@[simp] theorem State.traceTo_canonical (s : State) (v : Nat) (t : TraceRec) (hc : canonical s.mems) :
    canonical (State.traceTo s v t).mems := by
  unfold State.traceTo
  split <;> simp [hc]

@[simp] theorem State.traceOut_canonical (s : State) (t : TraceRec) (hc : canonical s.mems) :
    canonical (State.traceOut s t).mems := by simp [State.traceOut, hc]

@[simp] theorem State.traceDevice_canonical (s : State) (party status source ctx addr lines op : Nat) (hc : canonical s.mems) :
    canonical (State.traceDevice s party status source ctx addr lines op).mems := by simp [State.traceDevice, hc]

@[simp] theorem State.advanceFence_canonical (s : State) (f : Fence) (v : Nat) (hc : canonical s.mems) :
    canonical (State.advanceFence s f v).2.2.mems := by
  unfold State.advanceFence
  repeat' split
  all_goals simp [hc]

@[simp] theorem State.makeChaff_mems (s : State) (line owner : Nat) : (State.makeChaff s line owner).mems = s.mems := by
  simp [State.makeChaff]

@[simp] theorem State.use_mems (s : State) (c : Nat) (f : Usage → Usage) : (State.use s c f).mems = s.mems := by
  simp [State.use]

end Sys2Proof.Machine
end

section
/-! SUPPORT. What the walkers and the control core do to the two memories. -/

namespace Sys2Proof.Machine

open Sys2Proof

@[simp] theorem State.onWalker_mems (s : State) (c : Nat) (f : Walker → Walker) : (State.onWalker s c f).mems = s.mems := by
  simp [State.onWalker]

@[simp] theorem State.dropAhead_mems (s : State) (c : Nat) : (State.dropAhead s c).mems = s.mems := by
  unfold State.dropAhead
  split <;> simp

@[simp] theorem State.dropAheads_mems (s : State) : (State.dropAheads s).mems = s.mems := by simp [State.dropAheads]

@[simp] theorem State.dropAheadAt_mems (s : State) (c desc n : Nat) : (State.dropAheadAt s c desc n).mems = s.mems := by
  simp [State.dropAheadAt]

@[simp] theorem State.unmark_mems (s : State) (ctx a n : Nat) : (State.unmark s ctx a n).mems = s.mems := by simp [State.unmark]

@[simp] theorem State.putOut_canonical (s : State) (c seg : Nat) (d : List Byte) (esize b j : Nat) (bs : List Byte)
    (valid : Bool) (hc : canonical s.mems) :
    canonical (State.putOut s c seg d esize b j bs valid).mems := by simp [State.putOut, hc]

@[simp] theorem State.zeroTile_canonical (s : State) (c seg : Nat) (d : List Byte) (esize : Nat) (t : Tile)
    (hc : canonical s.mems) :
    canonical (State.zeroTile s c seg d esize t).mems :=
  foldl_canonical _ (fun _ _ hc => foldl_canonical _ (fun _ _ hc => State.putOut_canonical _ _ _ _ _ _ _ _ _ hc) _ _ hc) _ _ hc

@[simp] theorem State.chargeOut_mems (s : State) (seg : Nat) (d : List Byte) (lines : List Nat) (planned : Bool) :
    (State.chargeOut s seg d lines planned).mems = s.mems := by simp [State.chargeOut]

@[simp] theorem State.zeroTiles_canonical (s : State) (c seg : Nat) (d : List Byte) (lo hi : Nat) (hc : canonical s.mems) :
    canonical (State.zeroTiles s c seg d lo hi).mems := by
  unfold State.zeroTiles
  split
  · exact hc
  · split
    · exact hc
    · simpa using foldl_canonical _ (fun t x ht => State.zeroTile_canonical t _ _ _ _ x ht) _ _ hc

@[simp] theorem State.flagLate_mems (s : State) (g : Nat) : (State.flagLate s g).mems = s.mems := by simp [State.flagLate]

@[simp] theorem State.flagFault_mems (s : State) (g : Nat) : (State.flagFault s g).mems = s.mems := by simp [State.flagFault]

@[simp] theorem State.flagClip_mems (s : State) (g : Nat) : (State.flagClip s g).mems = s.mems := by simp [State.flagClip]

@[simp] theorem State.flagSus_mems (s : State) (g : Nat) : (State.flagSus s g).mems = s.mems := by simp [State.flagSus]

@[simp] theorem State.markOut_mems (s : State) (g : Nat) (late : Bool) (d : List Byte) (a n : Nat) :
    (State.markOut s g late d a n).mems = s.mems := by simp [State.markOut]

@[simp] theorem State.lateTiles_mems (s : State) (c g : Nat) (d : List Byte) (lo hi : Nat) :
    (State.lateTiles s c g d lo hi).mems = s.mems := by
  unfold State.lateTiles
  split
  · simp
  · split
    · rfl
    · refine foldl_mems _ (fun t k => ?_) _ _
      split <;> simp

@[simp] theorem State.issueRecord_mems (s : State) (c g n : Nat) : (State.issueRecord s c g n).mems = s.mems := by
  simp [State.issueRecord]

@[simp] theorem State.descException_mems (s : State) (g : Nat) : (State.descException s g).mems = s.mems := by
  unfold State.descException
  dsimp only
  repeat' split
  all_goals simp

@[simp] theorem State.refuseIssue_canonical (s : State) (c g n : Nat) (d : List Byte) (hc : canonical s.mems) :
    canonical (State.refuseIssue s c g n d).mems := by
  unfold State.refuseIssue
  repeat' split
  all_goals simp [hc]

@[simp] theorem State.issue_mems (s : State) (g n : Nat) : (State.issue s g n).mems = s.mems := by simp [State.issue]

@[simp] theorem State.arriveAt_canonical (s : State) (c n g due : Nat) (d : List Byte) (hc : canonical s.mems) :
    canonical (State.arriveAt s c n g due d).mems := by simp [State.arriveAt, hc]

@[simp] theorem State.arrive_canonical (s : State) (all : Bool) (hc : canonical s.mems) :
    canonical (State.arrive s all).mems := by
  unfold State.arrive
  exact foldl_canonical _ (fun _ _ hc => by simp [hc]) _ _ hc

@[simp] theorem State.onCore_mems (s : State) (f : Core → Core) (hf : ∀ c, (f c).dmem = c.dmem) : (s.onCore f).mems = s.mems :=
  congrArg (Prod.mk s.pool.mem) (hf s.core)

@[simp] theorem State.onBundle_mems (s : State) (f : Bundle → Bundle) : (State.onBundle s f).mems = s.mems := by
  simp [State.onBundle]

@[simp] theorem State.retire_mems (s : State) : (State.retire s).mems = s.mems := by simp [State.retire]

@[simp] theorem State.stageWrite_mems (s : State) (sl : Slot) (lat r : Nat) (v : Word) :
    (State.stageWrite s sl lat r v).mems = s.mems := by simp [State.stageWrite]

@[simp] theorem State.zeroUnissued_canonical (s : State) (g : Nat) (late : Bool) (hc : canonical s.mems) :
    canonical (State.zeroUnissued s g late).mems := by
  unfold State.zeroUnissued
  split
  · exact hc
  · refine foldl_canonical _ (fun t x ht => ?_) _ _ hc
    dsimp only
    split
    · exact ht
    · rw [State.chargeOut_mems]
      refine foldl_canonical _ (fun u y hu => ?_) _ _ ht
      rw [mems_ite, State.markOut_mems, ite_self]
      refine foldl_canonical _ (fun v j hv => ?_) _ _ hu
      split
      · exact hv
      · exact State.putOut_canonical _ _ _ _ _ _ _ _ _ hv

@[simp] theorem State.settleStop_canonical (s : State) (hc : canonical s.mems) : canonical (State.settleStop s).mems := by
  unfold State.settleStop
  split <;> simp [hc]

@[simp] theorem State.coreStop_canonical (s : State) (code : Nat) (hc : canonical s.mems) :
    canonical (State.coreStop s code).mems := by
  unfold State.coreStop
  split <;> simp [hc]

@[simp] theorem State.takeBundle_canonical (s : State) (g : Nat) (hc : canonical s.mems) :
    canonical (State.takeBundle s g).mems := by
  unfold State.takeBundle
  extract_lets b s1 s2 s3
  have h2 : canonical s2.mems := by simp [s2, s1, hc]
  have h3 : canonical s3.mems := by
    refine ⟨h2.1, ?_⟩
    show Memory.wf (match b.store with
      | some (a, bs) => writeCells s2.core.dmem a bs
      | none => s2.core.dmem) = true
    split
    · exact mwf_writeCells _ _ _ h2.2
    · exact h2.2
  simpa using h3

@[simp] theorem State.goto_canonical (s : State) (g pc dc : Nat) (hc : canonical s.mems) :
    canonical (State.goto s g pc dc).mems := by simp [State.goto, hc]

@[simp] theorem State.nextBundle_canonical (s : State) (g : Nat) (hc : canonical s.mems) :
    canonical (State.nextBundle s g).mems := by simp [State.nextBundle, hc]

@[simp] theorem State.branchTo_canonical (s : State) (g target : Nat) (hc : canonical s.mems) :
    canonical (State.branchTo s g target).mems := by simp [State.branchTo, hc]

@[simp] theorem State.slot_canonical (s : State) (ok : Bool) (f : State → Nat → State)
    (h_f : ∀ s n, canonical s.mems → canonical (f s n).mems) (hc : canonical s.mems) :
    CanonicalNext (State.slot s ok f) := by
  unfold State.slot
  repeat' split
  all_goals simp [hc, h_f]

@[simp] theorem State.aluReg_canonical (s : State) (sl : Slot) (f : BitVec 40) (op : Word → Word → Word)
    (hc : canonical s.mems) :
    CanonicalNext (State.aluReg s sl f op) := by simp [State.aluReg, hc]

@[simp] theorem State.aluImm_canonical (s : State) (sl : Slot) (f : BitVec 40) (op : Word → Word → Word)
    (hc : canonical s.mems) :
    CanonicalNext (State.aluImm s sl f op) := by simp [State.aluImm, hc]

@[simp] theorem State.mulReg_canonical (s : State) (sl : Slot) (f : BitVec 40) (op : Word → Word → Word)
    (hc : canonical s.mems) :
    CanonicalNext (State.mulReg s sl f op) := by simp [State.mulReg, hc]

@[simp] theorem State.load_canonical (s : State) (sl : Slot) (f : BitVec 40) (n : Nat) (hc : canonical s.mems) :
    CanonicalNext (State.load s sl f n) :=
  State.slot_canonical _ _ _ (fun s g hc => by split <;> simp [hc]) hc

@[simp] theorem State.store__canonical (s : State) (sl : Slot) (f : BitVec 40) (n : Nat) (hc : canonical s.mems) :
    CanonicalNext (State.store_ s sl f n) :=
  State.slot_canonical _ _ _ (fun s g hc => by split <;> simp [hc]) hc

@[simp] theorem execNop_canonical (sl : Slot) (s : State) (hc : canonical s.mems) : CanonicalNext (execNop sl s) :=
  State.slot_canonical _ _ _ (fun s g hc => by simp [hc]) hc

@[simp] theorem State.stageIssue_mems (s : State) (n : Nat) : (State.stageIssue s n).mems = s.mems := by simp [State.stageIssue]

@[simp] theorem State.stageFadv_canonical (s : State) (g f v : Nat) (hc : canonical s.mems) :
    canonical (State.stageFadv s g f v).mems := by simp [State.stageFadv, hc]

@[simp] theorem execFadv_canonical (sl : Slot) (f : BitVec 56) (s : State) (hc : canonical s.mems) :
    CanonicalNext (execFadv sl f s) :=
  State.slot_canonical _ _ _ (fun s g hc => by simp [hc]) hc

@[simp] theorem execFadvf_canonical (sl : Slot) (f : BitVec 56) (s : State) (hc : canonical s.mems) :
    CanonicalNext (execFadvf sl f s) :=
  State.slot_canonical _ _ _ (fun s g hc => by simp [hc]) hc

@[simp] theorem State.performAdvance_canonical (s : State) (x : FadvItem) (hc : canonical s.mems) :
    canonical (State.performAdvance s x).mems := by
  unfold State.performAdvance
  dsimp only
  repeat' split
  all_goals simp [hc]

@[simp] theorem execFenceAdvancePerformed_canonical (s : State) (hc : canonical s.mems) :
    CanonicalNext (execFenceAdvancePerformed s) := by
  unfold execFenceAdvancePerformed
  dsimp only
  repeat' split
  all_goals simp [hc]

@[simp] theorem State.stageMove_canonical (s : State) (g : Nat) (f : BitVec 48) (x : QItem) (hc : canonical s.mems) :
    canonical (State.stageMove s g f x).mems := by simp [State.stageMove, hc]

@[simp] theorem State.stageHandle_mems (s : State) (n v : Nat) : (State.stageHandle s n v).mems = s.mems := by
  simp [State.stageHandle]

@[simp] theorem execLset_canonical (sl : Slot) (f : BitVec 48) (s : State) (hc : canonical s.mems) :
    CanonicalNext (execLset sl f s) :=
  State.slot_canonical _ _ _ (fun s g hc => by simp [hc]) hc

@[simp] theorem execLseti_canonical (sl : Slot) (f : BitVec 48) (s : State) (hc : canonical s.mems) :
    CanonicalNext (execLseti sl f s) :=
  State.slot_canonical _ _ _ (fun s g hc => by simp [hc]) hc

@[simp] theorem execLget_canonical (sl : Slot) (f : BitVec 48) (s : State) (hc : canonical s.mems) :
    CanonicalNext (execLget sl f s) :=
  State.slot_canonical _ _ _ (fun s g hc => by simp [hc]) hc

@[simp] theorem execBstb_canonical (sl : Slot) (f : BitVec 48) (s : State) (hc : canonical s.mems) :
    CanonicalNext (execBstb sl f s) :=
  State.slot_canonical _ _ _ (fun s g hc => by simp [hc]) hc

@[simp] theorem execBsth_canonical (sl : Slot) (f : BitVec 48) (s : State) (hc : canonical s.mems) :
    CanonicalNext (execBsth sl f s) :=
  State.slot_canonical _ _ _ (fun s g hc => by simp [hc]) hc

@[simp] theorem State.branch_canonical (s : State) (sl : Slot) (f : BitVec 32) (taken : Bool) (hc : canonical s.mems) :
    CanonicalNext (State.branch s sl f taken) :=
  State.slot_canonical _ _ _ (fun s g hc => by simp [hc]) hc

@[simp] theorem execCall_canonical (sl : Slot) (f : BitVec 32) (s : State) (hc : canonical s.mems) :
    CanonicalNext (execCall sl f s) :=
  State.slot_canonical _ _ _ (fun s g hc => by simp [hc]) hc

@[simp] theorem execJr_canonical (sl : Slot) (f : BitVec 32) (s : State) (hc : canonical s.mems) :
    CanonicalNext (execJr sl f s) :=
  State.slot_canonical _ _ _ (fun s g hc => by simp [hc]) hc

@[simp] theorem execEndw_canonical (sl : Slot) (_f : BitVec 32) (s : State) (hc : canonical s.mems) :
    CanonicalNext (execEndw sl _f s) :=
  State.slot_canonical _ _ _ (fun s g hc => by simp [hc]) hc

@[simp] theorem State.endWait_canonical (s : State) (g t : Nat) (hc : canonical s.mems) :
    canonical (State.endWait s g t).mems := by simp [State.endWait, hc]

@[simp] theorem State.endFenceWait_canonical (s : State) (g gb code t : Nat) (hc : canonical s.mems) :
    canonical (State.endFenceWait s g gb code t).mems := by simp [State.endFenceWait, hc]

@[simp] theorem execWaitto_canonical (sl : Slot) (f : BitVec 32) (s : State) (hc : canonical s.mems) :
    CanonicalNext (execWaitto sl f s) :=
  State.slot_canonical _ _ _ (fun s g hc => by simp [hc]) hc

@[simp] theorem execWaitc_canonical (sl : Slot) (f : BitVec 32) (s : State) (hc : canonical s.mems) :
    CanonicalNext (execWaitc sl f s) :=
  State.slot_canonical _ _ _ (fun s g hc => by simp [hc]) hc

@[simp] theorem State.chargeSeg_mems (s : State) (g n : Nat) : (State.chargeSeg s g n).mems = s.mems := by
  unfold State.chargeSeg
  split <;> simp

@[simp] theorem execWaitf_canonical (sl : Slot) (f : BitVec 32) (s : State) (hc : canonical s.mems) :
    CanonicalNext (execWaitf sl f s) := by
  refine State.slot_canonical _ _ _ (fun s g hc => ?_) hc
  dsimp only
  repeat' split
  all_goals simp [hc]

@[simp] theorem State.readFence_mems (s : State) : (State.readFence s).mems = s.mems := by
  unfold State.readFence
  split <;> simp

@[simp] theorem execWaitEnd_canonical (s : State) (hc : canonical s.mems) : CanonicalNext (execWaitEnd s) := by
  unfold execWaitEnd
  dsimp only
  repeat' split
  all_goals simp [hc]

end Sys2Proof.Machine
end

section
/-! SUPPORT. What the units of a cluster and the pips do to the two memories. -/

namespace Sys2Proof.Machine

open Sys2Proof

@[simp] theorem State.memCorrected_mems (s : State) (page : Nat) : (State.memCorrected s page).mems = s.mems := by
  simp [State.memCorrected]

@[simp] theorem State.saveHistories_mems (s : State) : (State.saveHistories s).mems = s.mems := by simp [State.saveHistories]

@[simp] theorem State.memFailed_mems (s : State) (line requester : Nat) : (State.memFailed s line requester).mems = s.mems := by
  simp [State.memFailed]

@[simp] theorem State.eccRead_mems (s : State) (e : Ecc) (line requester : Nat) :
    (State.eccRead s e line requester).mems = s.mems := by
  unfold State.eccRead
  split <;> simp

@[simp] theorem State.mvm_mems (s : State) (pod : Nat) (rows : List (Nat × Int)) (at_ : Nat) :
    (State.mvm s pod rows at_).2.mems = s.mems := by simp [State.mvm]

@[simp] theorem State.checkRecord_mems (s : State) (checked pod seg cause ctx desc tile detail : Nat) :
    (State.checkRecord s checked pod seg cause ctx desc tile detail).mems = s.mems := by simp [State.checkRecord]

@[simp] theorem State.checksums_mems (s : State) (pod seg ctx desc tile : Nat) (rows : List (Nat × Int)) (cv : List Conv) :
    (State.checksums s pod seg ctx desc tile rows cv).2.mems = s.mems := by
  unfold State.checksums
  split <;> simp

@[simp] theorem State.oneRepeat_mems (s : State) (seg ctx desc tile : Nat) (x : BlockRun) :
    (State.oneRepeat s seg ctx desc tile x).2.mems = s.mems := by
  unfold State.oneRepeat
  dsimp only
  repeat' split
  all_goals simp

@[simp] theorem State.blocksOnce_mems (s : State) (seg ctx desc tile : Nat) (xs : List BlockRun) :
    (State.blocksOnce s seg ctx desc tile xs).2.mems = s.mems := by simp [State.blocksOnce]

@[simp] theorem State.driftReads_mems (s : State) (pod n : Nat) : (s.driftReads pod n).mems = s.mems := by
  induction n generalizing s with
  | zero => rfl
  | succ n ih => simp [State.driftReads, ih]

@[simp] theorem State.repeats_mems (s : State) (seg ctx desc tile n : Nat) (xs : List BlockRun) :
    (State.repeats s seg ctx desc tile n xs).2.mems = s.mems := by
  induction n generalizing s xs with
  | zero => rfl
  | succ n ih => simp [State.repeats, ih]

@[simp] theorem State.judgeDup_mems (s : State) (seg ctx desc tile : Nat) (x : BlockRun) :
    (State.judgeDup s seg ctx desc tile x).mems = s.mems := by
  unfold State.judgeDup
  dsimp only
  repeat' split
  all_goals simp

@[simp] theorem State.residueFault_mems (s : State) (c seg ctx desc tile b j step : Nat) :
    (State.residueFault s c seg ctx desc tile b j step).mems = s.mems := by simp [State.residueFault]

@[simp] theorem State.emit_canonical (s : State) (c seg : Nat) (r : Running) (steps : List (BitVec 64))
    (ups : List (Nat × Nat × Nat × Int)) (b j : Nat) (a : Accum) (hc : canonical s.mems) :
    canonical (State.emit s c seg r steps ups b j a).2.mems := by
  unfold State.emit
  dsimp only
  repeat' split
  all_goals simp [hc]

@[simp] theorem State.emitVector_canonical (s : State) (c seg : Nat) (o : WObj) (r : Running) (t : Tile)
    (steps : List (BitVec 64)) (ups : List (Nat × Nat × Nat × Int)) (b : Nat) (accs : List Accum) (xs : List Int) (hc :
      canonical s.mems) :
    canonical (State.emitVector s c seg o r t steps ups b accs xs).mems := by
  have houts (q : List (Option Int) × State) (l : List (Accum × Nat)) (hq : canonical q.2.mems) :
      canonical (l.foldl (fun q a =>
        let (v, s') := q.2.emit c seg r steps ups b (t.c0 + a.2) a.1
        (v :: q.1, s')) q).2.mems :=
    foldl_snd_canonical _ (fun q a hq => by simp [hq]) l q hq
  unfold State.emitVector
  extract_lets w0 fp16 teach
  split
  next outs u hu =>
    have hu : canonical u.mems := by
      rw [mems_of_eq hu]
      exact houts _ _ hc
    extract_lets outs whole v
    have hv : canonical v.mems := by
      refine foldl_canonical _ (fun v x hv => ?_) _ _ hu
      dsimp only
      split
      · exact hv
      · simpa using hv
    repeat' split
    all_goals simp [hv]

@[simp] theorem State.onPip_mems (s : State) (e : Nat) (f : Pip → Pip) : (State.onPip s e f).mems = s.mems := by
  simp [State.onPip]

@[simp] theorem State.pipRetire_mems (s : State) (e : Nat) : (State.pipRetire s e).mems = s.mems := by simp [State.pipRetire]

@[simp] theorem State.pipGo_mems (s : State) (e : Nat) (pc : Int) (dc : Nat) : (State.pipGo s e pc dc).mems = s.mems := by
  simp [State.pipGo]

@[simp] theorem State.pipNext_mems (s : State) (e : Nat) : (State.pipNext s e).mems = s.mems := by simp [State.pipNext]

@[simp] theorem State.pipWrite_mems (s : State) (e lat : Nat) (d : BitVec 4) (v : Word) :
    (State.pipWrite s e lat d v).mems = s.mems := by simp [State.pipWrite]

@[simp] theorem State.pipDraw_mems (s : State) (a : Nat) : (State.pipDraw s a).mems = s.mems := by simp [State.pipDraw]

@[simp] theorem State.pipTaint_mems (s : State) (e a n : Nat) : (State.pipTaint s e a n).mems = s.mems := by
  simp [State.pipTaint]

@[simp] theorem State.pipHold_mems (s : State) (e i : Nat) (v : Int) : (State.pipHold s e i v).mems = s.mems := by
  simp [State.pipHold]

@[simp] theorem State.pipData_mems (s : State) (e a : Nat) (bs : List Byte) : (State.pipData s e a bs).mems = s.mems := by
  simp [State.pipData]

@[simp] theorem State.pipVerdict_mems (s : State) (e off : Nat) (bs : List Byte) :
    (State.pipVerdict s e off bs).mems = s.mems := by simp [State.pipVerdict]

theorem State.pipStore_canonical (s : State) (e a : Nat) (bs : List Byte) {t : State} (h : State.pipStore s e a bs = some t)
    (hc : canonical s.mems) :
    canonical t.mems := by
  unfold State.pipStore at h
  dsimp only at h
  repeat' split at h
  all_goals cases h <;> simp [hc]

@[simp] theorem State.startPip_mems (s : State) (e : Nat) (img : PipImage) (seg item limit : Nat) (input : List Byte) :
    (State.startPip s e img seg item limit input).mems = s.mems := by simp [State.startPip]

@[simp] theorem State.holdEvent_mems (s : State) (code : Nat) : (State.holdEvent s code).mems = s.mems := by
  unfold State.holdEvent
  split <;> simp

@[simp] theorem State.nextHoldEvent_mems (s : State) : (State.nextHoldEvent s).mems = s.mems := by
  unfold State.nextHoldEvent
  split <;> simp

@[simp] theorem State.holdVerdict_mems (s : State) : (State.holdVerdict s).mems = s.mems := by
  unfold State.holdVerdict
  dsimp only
  repeat' split
  all_goals simp

@[simp] theorem State.zeroRegion_mems (s : State) (c a n : Nat) : (State.zeroRegion s c a n).mems = s.mems := by
  simp [State.zeroRegion]

@[simp] theorem State.pipIdle_mems (s : State) (e how : Nat) : (State.pipIdle s e how).mems = s.mems := by simp [State.pipIdle]

@[simp] theorem State.pipStop_mems (s : State) (e code : Nat) : (State.pipStop s e code).mems = s.mems := by
  have hstore (t : State) (code : Nat) : (State.nextHoldEvent (if t.store.pipRaised then t
      else ({ t with store := { t.store with pipRaised := true } }).fault clsSupply 6 0x6000 noParty code)).mems = t.mems := by
    rw [State.nextHoldEvent_mems]
    split <;> simp
  unfold State.pipStop
  refine mems_of_ite rfl (mems_of_ite ?_ (mems_of_ite ?_ (mems_of_ite ?_ ?_)))
  · exact (State.faultOnce_mems ..).trans (by simp)
  · exact mems_of_ite (by simp) ((State.faultOnce_mems ..).trans (by simp))
  · exact (hstore _ _).trans (by simp)
  · exact (State.faultOnce_mems ..).trans (by simp)

@[simp] theorem State.pipHalt_mems (s : State) (e : Nat) : (State.pipHalt s e).mems = s.mems := by simp [State.pipHalt]

@[simp] theorem State.stallFor_mems (s : State) (e blk : Nat) : (State.stallFor s e blk).mems = s.mems := by
  simp [State.stallFor]

@[simp] theorem State.pipDo_canonical (s : State) (e : Nat) (ok : Bool) (f : State → State)
    (h_f : ∀ s, canonical s.mems → canonical (f s).mems) (hc : canonical s.mems) :
    CanonicalNext (State.pipDo s e ok f) := by
  unfold State.pipDo
  repeat' split
  all_goals simp only [canonicalNext_next]
  all_goals repeat' split
  all_goals simp [hc, h_f]

@[simp] theorem State.pipAlu_canonical (s : State) (e : Nat) (w : PipFields) (lat : Nat) (op : Word → Word → Word)
    (hc : canonical s.mems) :
    CanonicalNext (State.pipAlu s e w lat op) := by simp [State.pipAlu, hc]

@[simp] theorem State.pipImm_canonical (s : State) (e : Nat) (w : PipFields) (op : Word → Word → Word) (hc : canonical s.mems) :
    CanonicalNext (State.pipImm s e w op) := by simp [State.pipImm, hc]

@[simp] theorem State.pipLoad_canonical (s : State) (e : Nat) (w : PipFields) (n : Nat) (sign : List Byte → Word)
    (hc : canonical s.mems) :
    CanonicalNext (State.pipLoad s e w n sign) := by
  refine State.pipDo_canonical _ _ _ _ (fun s hc => ?_) hc
  dsimp only
  repeat' split
  all_goals simp [hc]

@[simp] theorem State.pipSt_canonical (s : State) (e : Nat) (w : PipFields) (n : Nat) (hc : canonical s.mems) :
    CanonicalNext (State.pipSt s e w n) := by
  refine State.pipDo_canonical _ _ _ _ (fun s hc => ?_) hc
  dsimp only
  split
  · simp [hc]
  · split
    next t ht => simp [State.pipStore_canonical _ _ _ _ ht hc]
    · simp [hc]

@[simp] theorem State.pipBranch_canonical (s : State) (e : Nat) (w : PipFields) (op : Word → Word → Bool)
    (hc : canonical s.mems) :
    CanonicalNext (State.pipBranch s e w op) := by simp [State.pipBranch, hc]

@[simp] theorem execHalt_canonical (e : Nat) (w : PipFields) (s : State) (hc : canonical s.mems) :
    CanonicalNext (execHalt e w s) := by
  refine State.pipDo_canonical _ _ _ _ (fun s hc => ?_) hc
  dsimp only
  repeat' split
  all_goals simp [hc]

@[simp] theorem execIllegalOp_canonical (place : OpPlace) (op : Nat) (s : State) (hc : canonical s.mems) :
    CanonicalNext (execIllegalOp place op s) := by
  unfold execIllegalOp
  split <;> simp [hc]

end Sys2Proof.Machine
end

section
/-! SUPPORT. What queues, tiles, jobs and services do to the two memories. -/

namespace Sys2Proof.Machine

open Sys2Proof

@[simp] theorem State.onQueue_mems (s : State) (c q : Nat) (f : Queue → Queue) : (State.onQueue s c q f).mems = s.mems := by
  simp [State.onQueue]

@[simp] theorem State.completeAs_canonical (s : State) (c q : Nat) (cmd : List Byte) (seq st result : Nat)
    (hc : canonical s.mems) :
    canonical (State.completeAs s c q cmd seq st result).mems := by
  unfold State.completeAs
  split <;> simp [hc]

@[simp] theorem State.complete_canonical (s : State) (c q st result : Nat) (hc : canonical s.mems) :
    canonical (State.complete s c q st result).mems := by
  unfold State.complete
  repeat' split
  all_goals simp [hc]

@[simp] theorem State.endQueue_canonical (s : State) (x : Ctx) (q st : Nat) (each : List Byte → State → State)
    (h : ∀ cmd s, canonical s.mems → canonical (each cmd s).mems) (n : Nat) (hc : canonical s.mems) :
    canonical (State.endQueue s x q st each n).mems := by
  induction n generalizing s with
  | zero => exact hc
  | succ n ih =>
    unfold State.endQueue
    split
    · exact hc
    · split
      · exact hc
      · exact ih _ (State.completeAs_canonical _ _ _ _ _ _ _ (by simp [h, hc]))

@[simp] theorem State.refuseQueues_canonical (s : State) (c st : Nat) (hc : canonical s.mems) :
    canonical (State.refuseQueues s c st).mems := by
  unfold State.refuseQueues
  split
  · exact foldl_canonical _ (fun t q ht => State.endQueue_canonical _ _ _ _ _ (fun _ _ ht => ht) _ ht) _ _ hc
  · exact hc

@[simp] theorem State.endJob_canonical (s : State) (j how : Nat) (hc : canonical s.mems) :
    canonical (State.endJob s j how).mems := by
  unfold State.endJob
  dsimp only
  repeat' split
  all_goals simp [hc]

@[simp] theorem State.pauseJob_mems (s : State) (j : Nat) : (State.pauseJob s j).mems = s.mems := by simp [State.pauseJob]

@[simp] theorem State.markOverrun_mems (s : State) (g : Nat) : (State.markOverrun s g).mems = s.mems := by
  unfold State.markOverrun
  dsimp only
  repeat' split
  all_goals simp

@[simp] theorem State.abandonCluster_canonical (s : State) (c : Nat) (hc : canonical s.mems) :
    canonical (State.abandonCluster s c).mems := by
  unfold State.abandonCluster
  dsimp only
  rw [State.onWalker_mems, State.dropAhead_mems]
  refine foldl_canonical _ (fun t x ht => ?_) _ _ ?_
  all_goals repeat' split
  all_goals simp [*]

@[simp] theorem State.skipTiles_mems (s : State) (c : Nat) (o : WObj) (n : Nat) (r : Running) :
    (s.skipTiles c o n r).2.mems = s.mems := by
  induction n generalizing s r with
  | zero => rfl
  | succ n ih =>
    unfold State.skipTiles
    repeat' split
    all_goals simp [ih]

@[simp] theorem execInstructionStart_canonical (c : Nat) (s : State) (hc : canonical s.mems) :
    CanonicalNext (execInstructionStart c s) := by
  unfold execInstructionStart
  dsimp only
  repeat' split
  all_goals simp [hc]

@[simp] theorem State.addBlock_mems (s : State) (seg : Nat) (r : Running) (x : BlockRun) (accs : List Accum) :
    (State.addBlock s seg r x accs).2.mems = s.mems := by simp [State.addBlock]

@[simp] theorem State.vectorAcc_mems (s : State) (c : Nat) (r : Running) (o : WObj) (t : Tile) (b : Nat) :
    (State.vectorAcc s c r o t b).2.2.2.mems = s.mems := by
  unfold State.vectorAcc
  dsimp only
  repeat' split
  all_goals simp

@[simp] theorem State.tileAccs_mems (s : State) (c : Nat) (r : Running) (o : WObj) (t : Tile) (n : Nat) :
    (s.tileAccs c r o t n).2.2.2.mems = s.mems := by
  induction n with
  | zero => rfl
  | succ n ih => simp [State.tileAccs, ih]

@[simp] theorem State.fill_canonical (s : State) (c p desc : Nat) (d : List Byte) (t : Tile) (n : Nat) (planned ahead : Bool)
    (ecc : Ecc) (hc : canonical s.mems) :
    canonical (State.fill s c p desc d t n planned ahead ecc).mems := by simp [State.fill, hc]

@[simp] theorem State.stow_mems (s : State) (c a stride : Nat) (xs : List (List Byte × Bool)) :
    (State.stow s c a stride xs).mems = s.mems := by simp [State.stow]

@[simp] theorem State.runAhead_canonical (s : State) (c : Nat) (planned : Bool) (ecc : Ecc) (hc : canonical s.mems) :
    canonical (State.runAhead s c planned ecc).mems := by
  unfold State.runAhead
  repeat' split
  all_goals simp [hc]

@[simp] theorem State.takeAhead_mems (s : State) (c : Nat) (r : Running) : (State.takeAhead s c r).2.mems = s.mems := by
  unfold State.takeAhead
  repeat' split
  all_goals simp

@[simp] theorem State.aheadLost_canonical (s : State) (c j n : Nat) (hc : canonical s.mems) :
    canonical (State.aheadLost s c j n).mems := by
  unfold State.aheadLost
  exact foldl_canonical _ (fun _ _ hc => by simp [hc]) _ _ hc

@[simp] theorem State.notePeak_mems (s : State) (ctx : Nat) : (State.notePeak s ctx).mems = s.mems := by
  unfold State.notePeak
  split <;> simp

@[simp] theorem State.commitTile_canonical (s : State) (c : Nat) (r : Running) (o : WObj) (t : Tile) (planned : Bool)
    (ecc : Ecc) (hc : canonical s.mems) :
    canonical (State.commitTile s c r o t planned ecc).mems := by simp [State.commitTile, hc]

@[simp] theorem State.commitPlanned_canonical (s : State) (c : Nat) (r : Running) (ecc : Ecc) (hc : canonical s.mems) :
    canonical (State.commitPlanned s c r ecc).mems := by
  unfold State.commitPlanned
  repeat' split
  all_goals simp [hc]

@[simp] theorem State.clearCluster_mems (s : State) (c : Nat) : (State.clearCluster s c).mems = s.mems := by
  simp [State.clearCluster]

@[simp] theorem State.pooledLen_mems (s : State) (c j : Nat) : (State.pooledLen s c j).2.mems = s.mems := by
  unfold State.pooledLen
  dsimp only
  repeat' split
  all_goals simp

@[simp] theorem State.commitPooled_canonical (s : State) (c j : Nat) (ecc : Ecc) (hc : canonical s.mems) :
    canonical (State.commitPooled s c j ecc).mems := by
  unfold State.commitPooled
  dsimp only
  repeat' split
  all_goals simp [hc]

@[simp] theorem execTileCommit_canonical (c : Nat) (ecc : Ecc) (s : State) (hc : canonical s.mems) :
    CanonicalNext (execTileCommit c ecc s) := by
  unfold execTileCommit
  dsimp only
  repeat' split
  all_goals simp [hc]

@[simp] theorem State.writeTile_canonical (s : State) (c : Nat) (o : WObj) (r : Running) (t : Tile)
    (ups : List (Nat × Nat × Nat × Int)) (hc : canonical s.mems) :
    canonical (State.writeTile s c o r t ups).mems := by
  unfold State.writeTile
  split
  · exact hc
  · refine foldl_canonical _ (fun t i ht => ?_) _ _ hc
    dsimp only
    repeat' split
    all_goals simp [ht]

@[simp] theorem State.notePooled_mems (s : State) (c : Nat) (r : Running) (t : Tile) :
    (State.notePooled s c r t).mems = s.mems := by simp [State.notePooled]

@[simp] theorem execTileComplete_canonical (c : Nat) (ups : List (Nat × Nat × Nat × Int)) (s : State) (hc : canonical s.mems) :
    CanonicalNext (execTileComplete c ups s) := by
  have hif (t : State) (ht : canonical t.mems) (k : Bool) (x : TraceRec) :
      canonical (State.mems (if k then t.traceOut x else t)) := by
    split <;> simp [ht]
  refine (canonicalNext_next _).2 ?_
  dsimp only
  split
  · exact hc
  · split
    · split
      · exact hc
      · split
        · exact hc
        · split
          · have hend (t : State) (ht : canonical t.mems) (k : Prop) [Decidable k] (j : Nat) :
                canonical (State.mems (if k then t.endJob j 3 else t)) := by
              split <;> simp [ht]
            refine hend _ ?_ _ _
            simp only [State.onWalker_mems, State.use_mems]
            refine State.writeCtx_canonical _ _ _ _ _ ?_
            rw [State.notePooled_mems]
            exact hif _ (by simp [hc]) _ _
          · simp only [State.onWalker_mems, State.skipTiles_mems]
            exact hif _ (by simp [hc]) _ _
    · exact hc

@[simp] theorem State.finishInstruction_canonical (s : State) (c : Nat) (r : Running) (hc : canonical s.mems) :
    canonical (State.finishInstruction s c r).mems := by simp [State.finishInstruction, hc]

@[simp] theorem execMacroInstructionComplete_canonical (c : Nat) (s : State) (hc : canonical s.mems) :
    CanonicalNext (execMacroInstructionComplete c s) := by
  unfold execMacroInstructionComplete
  dsimp only
  repeat' split
  all_goals simp [hc]

@[simp] theorem State.traceOd_canonical (s : State) (r : Req) (k st : Nat) (hc : canonical s.mems) :
    canonical (State.traceOd s r k st).mems := by simp [State.traceOd, hc]

@[simp] theorem State.usdoOut_mems (s : State) (node abort : Nat) (data : List Byte) :
    (State.usdoOut s node abort data).mems = s.mems := by simp [State.usdoOut]

@[simp] theorem State.usdoEnd_mems (s : State) (r : Req) (index st : Nat) (data : List Byte) :
    (State.usdoEnd s r index st data).mems = s.mems := by simp [State.usdoEnd]

@[simp] theorem State.usdoValue_mems (s : State) (r : Req) (index sub st : Nat) (data : List Byte) :
    (State.usdoValue s r index sub st data).mems = s.mems := by simp [State.usdoValue]

@[simp] theorem State.wrote_canonical (s : State) (r : Req) (k st : Nat) (hc : canonical s.mems) :
    canonical (State.wrote s r k st).mems := by simp [State.wrote, hc]

@[simp] theorem State.readAnswer_canonical (s : State) (r : Req) (index sub offset st : Nat) (data : List Byte)
    (hc : canonical s.mems) :
    canonical (State.readAnswer s r index sub offset st data).mems := by simp [State.readAnswer, hc]

@[simp] theorem State.beginCommit_canonical (s : State) (r : Req) (key v : Nat) (hc : canonical s.mems) :
    canonical (State.beginCommit s r key v).mems := by simp [State.beginCommit, hc]

@[simp] theorem State.beginDomCommit_canonical (s : State) (r : Req) (key : Nat) (v : List Byte) (hc : canonical s.mems) :
    canonical (State.beginDomCommit s r key v).mems := by simp [State.beginDomCommit, hc]

@[simp] theorem State.storeValue_canonical (s : State) (r : Req) (row : OdRow) (index sub v : Nat) (hc : canonical s.mems) :
    canonical (State.storeValue s r row index sub v).mems := by simp [State.storeValue, hc]

@[simp] theorem State.setting_canonical (s : State) (r : Req) (index sub v own : Nat) (hc : canonical s.mems) :
    canonical (State.setting s r index sub v own).mems := by
  unfold State.setting
  repeat' split
  all_goals simp [hc]

@[simp] theorem State.ordered_canonical (s : State) (r : Req) (index sub v own : Nat) (eff : State → State)
    (h_eff : ∀ s, canonical s.mems → canonical (eff s).mems) (hc : canonical s.mems) :
    canonical (State.ordered s r index sub v own eff).mems := by
  unfold State.ordered
  split <;> simp only [hc]
  exact State.wrote_canonical _ _ _ _ (by split <;> simp [hc, h_eff])

@[simp] theorem State.orderBytes_canonical (s : State) (r : Req) (index sub len own : Nat) (eff : State → State)
    (h_eff : ∀ s, canonical s.mems → canonical (eff s).mems) (hc : canonical s.mems) :
    canonical (State.orderBytes s r index sub len own eff).mems := by
  unfold State.orderBytes
  split <;> simp only [hc]
  exact State.wrote_canonical _ _ _ _ (by split <;> simp [hc, h_eff])

@[simp] theorem State.storeBytes_canonical (s : State) (r : Req) (index sub : Nat) (data : List Byte) (hc : canonical s.mems) :
    canonical (State.storeBytes s r index sub data).mems := by
  unfold State.storeBytes
  split <;> simp [hc]

@[simp] theorem State.pauseEntry_canonical (s : State) (r : Req) (j v : Nat) (hc : canonical s.mems) :
    canonical (State.pauseEntry s r j v).mems := by simp [State.pauseEntry, hc]

end Sys2Proof.Machine
end

section
/-! SUPPORT. What calibration, rotation, contexts and the loader do to the two memories. -/

namespace Sys2Proof.Machine

open Sys2Proof

@[simp] theorem State.onCal_mems (s : State) (f : Cal → Cal) : (State.onCal s f).mems = s.mems := by simp [State.onCal]

@[simp] theorem State.setTarget_mems (s : State) (k : Nat) (v : Int) : (State.setTarget s k v).mems = s.mems := by
  simp [State.setTarget]

@[simp] theorem State.calUnstable_mems (s : State) (unit : Nat) : (State.calUnstable s unit).mems = s.mems := by
  simp [State.calUnstable]

@[simp] theorem State.stageRamps_mems (s : State) : (State.stageRamps s).mems = s.mems := by simp [State.stageRamps]

@[simp] theorem State.stopRamps_mems (s : State) (unit : Nat) : (State.stopRamps s unit).mems = s.mems := by
  simp [State.stopRamps]

@[simp] theorem State.applyTrims_mems (s : State) : (State.applyTrims s).mems = s.mems := by simp [State.applyTrims]

@[simp] theorem State.showQuality_mems (s : State) (pod : Nat) : (State.showQuality s pod).mems = s.mems := by
  simp [State.showQuality]

@[simp] theorem State.limitCheck_mems (s : State) (pod : Nat) : (State.limitCheck s pod).mems = s.mems := by
  simp [State.limitCheck]

@[simp] theorem State.podTargets_mems (s : State) (pod : Nat) : (State.podTargets s pod).mems = s.mems := by
  simp [State.podTargets]

@[simp] theorem State.powerSpare_mems (s : State) (pod : Nat) : (State.powerSpare s pod).mems = s.mems := by
  simp [State.powerSpare]

@[simp] theorem State.beginCal_mems (s : State) (pod : Nat) : (State.beginCal s pod).mems = s.mems := by simp [State.beginCal]

@[simp] theorem State.newResid_mems (s : State) (pod : Nat) : (State.newResid s pod).mems = s.mems := by simp [State.newResid]

@[simp] theorem State.endCal_mems (s : State) (pod : Nat) (base offs : List Int) (refs : List Nat) :
    (State.endCal s pod base offs refs).mems = s.mems := by simp [State.endCal]

@[simp] theorem State.endCalUnstable_mems (s : State) (pod : Nat) : (State.endCalUnstable s pod).mems = s.mems := by
  simp [State.endCalUnstable]

@[simp] theorem State.verifySpare_mems (s : State) : (State.verifySpare s).mems = s.mems := by
  unfold State.verifySpare
  repeat' split
  all_goals simp

@[simp] theorem State.moveDrift_mems (s : State) (pod rho : Nat) : (State.moveDrift s pod rho).mems = s.mems := by
  simp [State.moveDrift]

@[simp] theorem execDriftRatio_canonical (pod : Nat) (s : State) (hc : canonical s.mems) :
    CanonicalNext (execDriftRatio pod s) := by
  unfold execDriftRatio
  dsimp only
  repeat' split
  all_goals simp [hc]

@[simp] theorem State.calibrateOrder_canonical (s : State) (r : Req) (pod v : Nat) (hc : canonical s.mems) :
    canonical (State.calibrateOrder s r pod v).mems := by simp [State.calibrateOrder, hc]

@[simp] theorem State.staleAfes_mems (s : State) : (State.staleAfes s).mems = s.mems := by
  refine foldl_mems _ (fun t i => ?_) _ _
  repeat' split
  all_goals simp

@[simp] theorem State.afeCalibrateOrder_canonical (s : State) (r : Req) (i v : Nat) (hc : canonical s.mems) :
    canonical (State.afeCalibrateOrder s r i v).mems := by simp [State.afeCalibrateOrder, hc]

@[simp] theorem State.notQuiet_mems (s : State) (i : Nat) : (State.notQuiet s i).mems = s.mems := by simp [State.notQuiet]

@[simp] theorem State.detect_mems (s : State) (i from_ to_ : Nat) : (State.detect s i from_ to_).2.mems = s.mems := by
  unfold State.detect
  dsimp only
  repeat' split
  all_goals simp

@[simp] theorem State.readQuiet_mems (s : State) (i from_ to_ : Nat) : (State.readQuiet s i from_ to_).2.mems = s.mems := by
  simp [State.readQuiet]

@[simp] theorem State.evalAfe_mems (s : State) (i : Nat) : (State.evalAfe s i).mems = s.mems := by simp [State.evalAfe]

@[simp] theorem State.evalAfes_mems (s : State) : (State.evalAfes s).mems = s.mems := by simp [State.evalAfes]

@[simp] theorem State.endAfe_mems (s : State) : (State.endAfe s).mems = s.mems := by
  unfold State.endAfe
  split <;> simp

@[simp] theorem State.acceptAfe_mems (s : State) (x : AfeCal) (offRes gainRes : Int) :
    (State.acceptAfe s x offRes gainRes).mems = s.mems := by
  unfold State.acceptAfe
  split <;> simp

@[simp] theorem State.afeBoundary_mems (s : State) : (State.afeBoundary s).mems = s.mems := by
  unfold State.afeBoundary
  repeat' split
  all_goals simp

@[simp] theorem State.noteOvr_mems (s : State) (i t : Nat) : (State.noteOvr s i t).mems = s.mems := by simp [State.noteOvr]

@[simp] theorem execAfeCalStep_canonical (a b : Int) (s : State) (hc : canonical s.mems) :
    CanonicalNext (execAfeCalStep a b s) := by
  unfold execAfeCalStep
  split <;> simp [hc]

@[simp] theorem execAfeCalEnd_canonical (offRes gainRes : Int) (s : State) (hc : canonical s.mems) :
    CanonicalNext (execAfeCalEnd offRes gainRes s) := by
  unfold execAfeCalEnd
  split <;> simp [hc]

@[simp] theorem State.compTarget_mems (s : State) (unit : Nat) : (State.compTarget s unit).mems = s.mems := by
  simp [State.compTarget]

@[simp] theorem State.recalibrate_mems (s : State) (unit : Nat) (a b : Int) (step : Nat) :
    (State.recalibrate s unit a b step).mems = s.mems := by simp [State.recalibrate]

@[simp] theorem State.measured_mems (s : State) (unit key tol step : Nat) (pairs : List (Int × Int)) :
    (State.measured s unit key tol step pairs).mems = s.mems := by
  unfold State.measured
  split <;> simp

@[simp] theorem State.restoreBank_mems (s : State) (unit : Nat) (d : List Byte) :
    (State.restoreBank s unit d).mems = s.mems := by simp [State.restoreBank]

@[simp] theorem State.trimRestoreOrder_canonical (s : State) (r : Req) (unit : Nat) (data : List Byte) (hc : canonical s.mems) :
    canonical (State.trimRestoreOrder s r unit data).mems := by simp [State.trimRestoreOrder, hc]

@[simp] theorem State.sproutDrift_mems (s : State) (pod : Nat) : (State.sproutDrift s pod).mems = s.mems := by
  unfold State.sproutDrift
  dsimp only
  repeat' split
  all_goals simp

@[simp] theorem State.loadTrims_mems (s : State) : (State.loadTrims s).mems = s.mems := by simp [State.loadTrims]

@[simp] theorem State.countImages_mems (s : State) (c slot key : Nat) : (State.countImages s c slot key).mems = s.mems := by
  simp [State.countImages]

@[simp] theorem State.suspendRotation_mems (s : State) (c : Nat) : (State.suspendRotation s c).mems = s.mems := by
  simp [State.suspendRotation]

@[simp] theorem State.stopProgram_mems (s : State) : (State.stopProgram s).mems = s.mems := by simp [State.stopProgram]

@[simp] theorem State.beginProgram_mems (s : State) (pod slot : Nat) (fresh : Bool) (hash : Nat) :
    (State.beginProgram s pod slot fresh hash).mems = s.mems := by simp [State.beginProgram]

@[simp] theorem State.claimSpare_mems (s : State) (c : Nat) : (State.claimSpare s c).mems = s.mems := by
  unfold State.claimSpare
  split <;> simp

@[simp] theorem State.pickProgram_mems (s : State) : (State.pickProgram s).mems = s.mems := by
  unfold State.pickProgram
  repeat' split
  all_goals simp

@[simp] theorem State.writeContent_mems (s : State) (pod : Nat) : (State.writeContent s pod).mems = s.mems := by
  unfold State.writeContent
  split <;> simp

@[simp] theorem State.programPassed_mems (s : State) (pod : Nat) : (State.programPassed s pod).mems = s.mems := by
  simp [State.programPassed]

@[simp] theorem State.programFailed_mems (s : State) (pod batch : Nat) : (State.programFailed s pod batch).mems = s.mems := by
  simp [State.programFailed]

@[simp] theorem State.startDues_mems (s : State) : (State.startDues s).mems = s.mems := by simp [State.startDues]

@[simp] theorem State.intervalChange_mems (s : State) (old : Nat) : (State.intervalChange s old).mems = s.mems := by
  simp [State.intervalChange]

@[simp] theorem execSwapDue_canonical (c : Nat) (s : State) (hc : canonical s.mems) : CanonicalNext (execSwapDue c s) := by
  unfold execSwapDue
  split <;> simp [hc]

@[simp] theorem State.rotateNowOrder_canonical (s : State) (r : Req) (c v : Nat) (hc : canonical s.mems) :
    canonical (State.rotateNowOrder s r c v).mems := by simp [State.rotateNowOrder, hc]

@[simp] theorem State.stageSwap_mems (s : State) (c slot : Nat) : (State.stageSwap s c slot).mems = s.mems := by
  unfold State.stageSwap
  split <;> simp

@[simp] theorem State.stageSwaps_mems (s : State) : (State.stageSwaps s).mems = s.mems := by
  unfold State.stageSwaps
  refine (foldl_mems _ (fun t c => ?_) _ _).trans ?_
  all_goals repeat' split
  all_goals simp

@[simp] theorem State.doSwap_mems (s : State) (c slot : Nat) : (State.doSwap s c slot).mems = s.mems := by
  unfold State.doSwap
  split <;> simp

@[simp] theorem State.doSwaps_mems (s : State) : (State.doSwaps s).mems = s.mems := by
  unfold State.doSwaps
  split
  · refine (State.bump_mems _ _ _).trans (foldl_mems _ (fun t c => ?_) _ _)
    split <;> simp
  · rfl

@[simp] theorem State.spareGate_mems (s : State) (c : Nat) : (State.spareGate s c).mems = s.mems := by
  unfold State.spareGate
  dsimp only
  repeat' split
  all_goals simp

@[simp] theorem State.driftVisit_mems (s : State) : (State.driftVisit s).mems = s.mems := by
  unfold State.driftVisit
  dsimp only
  repeat' split
  all_goals simp

@[simp] theorem State.rotationSlice_mems (s : State) (a b : CalMeas) (refs : List Nat) :
    (State.rotationSlice s a b refs).mems = s.mems := by
  unfold State.rotationSlice
  dsimp only
  repeat' split
  all_goals simp

@[simp] theorem State.planLifts_mems (s : State) : (State.planLifts s).mems = s.mems := by simp [State.planLifts]

@[simp] theorem execLift_canonical (c : Nat) (s : State) (hc : canonical s.mems) : CanonicalNext (execLift c s) := by
  unfold execLift
  split <;> simp [hc]

@[simp] theorem State.dropLift_mems (s : State) (c sl : Nat) : (State.dropLift s c sl).mems = s.mems := by simp [State.dropLift]

@[simp] theorem State.dropLifts_mems (s : State) (c : Nat) : (State.dropLifts s c).mems = s.mems := by simp [State.dropLifts]

@[simp] theorem execLiftEnd_canonical (c : Nat) (errs : List (Nat × Nat × Int)) (s : State) (hc : canonical s.mems) :
    CanonicalNext (execLiftEnd c errs s) := by
  unfold execLiftEnd
  dsimp only
  repeat' split
  all_goals simp [hc]

@[simp] theorem execSetDownCheck_canonical (c : Nat) (errs : List (Nat × Nat × Int)) (s : State) (hc : canonical s.mems) :
    CanonicalNext (execSetDownCheck c errs s) := by
  unfold execSetDownCheck
  dsimp only
  repeat' split
  all_goals simp [hc]

@[simp] theorem State.landSlot_mems (s : State) (c sl : Nat) : (State.landSlot s c sl).mems = s.mems := by simp [State.landSlot]

@[simp] theorem State.landImages_mems (s : State) : (State.landImages s).mems = s.mems := by simp [State.landImages]

@[simp] theorem State.retiredSources_mems (s : State) : (State.retiredSources s).mems = s.mems := by
  refine foldl_mems _ (fun t c => ?_) _ _
  repeat' split
  all_goals simp

@[simp] theorem execFetchSlot_canonical (c : Nat) (errs : List (Nat × Nat × Int)) (s : State) (hc : canonical s.mems) :
    CanonicalNext (execFetchSlot c errs s) := by
  unfold execFetchSlot
  dsimp only
  repeat' split
  all_goals simp [hc]

@[simp] theorem State.endStall_mems (s : State) (e : Nat) : (State.endStall s e).mems = s.mems := by simp [State.endStall]

@[simp] theorem execFetchDelivered_canonical (c : Nat) (s : State) (hc : canonical s.mems) :
    CanonicalNext (execFetchDelivered c s) := by
  unfold execFetchDelivered
  dsimp only
  repeat' split
  all_goals simp [hc]

@[simp] theorem State.giveTokens_mems (s : State) (c : Nat) (vps : List Nat) : (State.giveTokens s c vps).mems = s.mems := by
  simp [State.giveTokens]

@[simp] theorem State.zeroPages_canonical (s : State) (ps : List Nat) (hc : canonical s.mems) :
    canonical (State.zeroPages s ps).mems := ⟨State.zeroPages_wf s ps hc.1, hc.2⟩

@[simp] theorem State.addCtx_mems (s : State) (c : Ctx) : (State.addCtx s c).mems = s.mems := by simp [State.addCtx]

@[simp] theorem State.trimShare_mems (s : State) (p : Nat) : (State.trimShare s p).mems = s.mems := by
  refine foldl_mems _ (fun t c => ?_) _ _
  split <;> simp

@[simp] theorem State.reshare_mems (s : State) : (State.reshare s).mems = s.mems := by simp [State.reshare]

@[simp] theorem State.bringIn_mems (s : State) (p c : Nat) : (State.bringIn s p c).mems = s.mems := by
  unfold State.bringIn
  dsimp only
  repeat' split
  all_goals simp

@[simp] theorem State.residencyChange_mems (s : State) (p : Nat) : (State.residencyChange s p).mems = s.mems := by
  unfold State.residencyChange
  dsimp only
  repeat' split
  all_goals simp

@[simp] theorem State.awaitResidency_mems (s : State) (p c : Nat) : (State.awaitResidency s p c).mems = s.mems := by
  simp [State.awaitResidency]

@[simp] theorem State.touch_mems (s : State) (c : Nat) : (State.touch s c).mems = s.mems := by simp [State.touch]

@[simp] theorem State.createRoot_canonical (s : State) (p : Nat) (hc : canonical s.mems) :
    canonical (State.createRoot s p).mems := by simp [State.createRoot, hc]

@[simp] theorem State.createRoots_canonical (s : State) (hc : canonical s.mems) : canonical (State.createRoots s).mems := by
  unfold State.createRoots
  exact foldl_canonical _ (fun _ _ hc => by simp [hc]) _ _ hc

@[simp] theorem State.takeFence_mems (s : State) (f : Fence) : (State.takeFence s f).mems = s.mems := by simp [State.takeFence]

@[simp] theorem State.registerFence_canonical (s : State) (p c a : Nat) (hc : canonical s.mems) :
    canonical (State.registerFence s p c a).2.2.mems := by
  unfold State.registerFence
  dsimp only
  repeat' split
  all_goals simp [hc]

@[simp] theorem State.killHandles_mems (s : State) (f : Fence) : (State.killHandles s f).mems = s.mems := by
  simp [State.killHandles]

@[simp] theorem State.dropFence_mems (s : State) (f : Fence) : (State.dropFence s f).mems = s.mems := by simp [State.dropFence]

@[simp] theorem State.releasePages_canonical (s : State) (ps : List Nat) (hc : canonical s.mems) :
    canonical (State.releasePages s ps).mems := by simp [State.releasePages, hc]

@[simp] theorem State.loadOrder_canonical (s : State) (r : Req) (ctx addr : Nat) (hc : canonical s.mems) :
    canonical (State.loadOrder s r ctx addr).mems := by
  unfold State.loadOrder
  dsimp only
  repeat' split
  all_goals simp [hc]

@[simp] theorem State.updateOrder_canonical (s : State) (r : Req) (ctx addr : Nat) (hc : canonical s.mems) :
    canonical (State.updateOrder s r ctx addr).mems := by
  unfold State.updateOrder
  split <;> simp [hc]

@[simp] theorem State.consolidateOrder_canonical (s : State) (r : Req) (v : Nat) (hc : canonical s.mems) :
    canonical (State.consolidateOrder s r v).mems := by simp [State.consolidateOrder, hc]

@[simp] theorem State.dropBulk_mems (s : State) : (State.dropBulk s).mems = s.mems := by
  unfold State.dropBulk
  split <;> simp

@[simp] theorem State.abortOrder_canonical (s : State) (r : Req) (v : Nat) (hc : canonical s.mems) :
    canonical (State.abortOrder s r v).mems := by
  refine State.ordered_canonical _ _ _ _ _ _ _ (fun s hc => ?_) hc
  repeat' split
  all_goals simp [hc]

@[simp] theorem State.unloadOrder_canonical (s : State) (r : Req) (v : Nat) (hc : canonical s.mems) :
    canonical (State.unloadOrder s r v).mems := by simp [State.unloadOrder, hc]

@[simp] theorem State.readImage_canonical (s : State) (party ctx length : Nat) (hc : canonical s.mems) :
    canonical (State.readImage s party ctx length).mems := by simp [State.readImage, hc]

@[simp] theorem State.refusePending_mems (s : State) (x : Pending) (v : Nat × Nat) :
    (State.refusePending s x v).mems = s.mems := by simp [State.refusePending]

@[simp] theorem State.formGroup_mems (s : State) (x : Pending) (obj newHash : Nat) (levels : List (List Byte)) :
    (State.formGroup s x obj newHash levels).mems = s.mems := by
  unfold State.formGroup
  split <;> simp

@[simp] theorem execVerificationComplete_canonical (aux : List (Nat × SegAux)) (s : State) (hc : canonical s.mems) :
    CanonicalNext (execVerificationComplete aux s) := by
  refine (canonicalNext_next _).2 ?_
  split
  · exact hc
  · split
    · exact hc
    · split
      · dsimp only
        split
        · rw [State.refusePending_mems]
          exact foldl_canonical _ (fun t g ht => State.readImage_canonical t _ _ _ ht) _ _ (by simp [hc])
        · simp only [mems_mk, mems_eta, foldl_mems, State.claimSpare_mems, implies_true]
          exact foldl_canonical _ (fun t g ht => State.readImage_canonical t _ _ _ ht) _ _ (by simp [hc])
      · simp [hc]
      · split
        · exact hc
        · dsimp only
          split <;> simp [hc]

@[simp] theorem State.putHeadRegs_mems (s : State) (n : Nat) (x : Option (Head × Nat × Nat × Nat)) :
    (State.putHeadRegs s n x).mems = s.mems := by
  unfold State.putHeadRegs
  split <;> simp

@[simp] theorem State.setHeads_mems (s : State) (p : PlanImage) : (State.setHeads s p).mems = s.mems := by simp [State.setHeads]

@[simp] theorem State.headBoundary_mems (s : State) : (State.headBoundary s).mems = s.mems := by simp [State.headBoundary]

@[simp] theorem State.abortJobs_canonical (s : State) (gs : List SegImage) (hc : canonical s.mems) :
    canonical (State.abortJobs s gs).mems := by
  unfold State.abortJobs
  exact foldl_canonical _ (fun _ _ hc => by simp [hc]) _ _ hc

@[simp] theorem State.zeroIntake_mems (s : State) (p : PlanImage) (changed : List Nat) :
    (State.zeroIntake s p changed).mems = s.mems := by simp [State.zeroIntake]

@[simp] theorem State.loadWalkers_mems (s : State) (p : Option PlanImage) : (State.loadWalkers s p).mems = s.mems := by
  simp [State.loadWalkers]

@[simp] theorem State.setWays_mems (s : State) (p : Option PlanImage) : (State.setWays s p).mems = s.mems := by
  simp [State.setWays]

@[simp] theorem State.refreshXip_mems (s : State) : (State.refreshXip s).mems = s.mems := by simp [State.refreshXip]

@[simp] theorem State.setRanges_mems (s : State) (p : PlanImage) : (State.setRanges s p).mems = s.mems := by
  simp [State.setRanges]

theorem State.planFences_canonical (s : State) (p : PlanImage) {t : State} (h : State.planFences s p = .ok t)
    (hc : canonical s.mems) :
    canonical t.mems := by
  have key : ∀ (l : List (SegRec × Nat × Nat)) (q : Except (Nat × Nat) State),
      (∀ u, q = .ok u → canonical u.mems) → ∀ t, (l.foldl (fun q x =>
        match q with
        | .error e => .error e
        | .ok s =>
          if (s.ownFence x.1.party x.1.ctx x.2.2).isSome then .ok s
          else
            match s.registerFence x.1.party x.1.ctx x.2.2 with
            | (st, _, t) => if st = stOk then .ok t else .error (x.1.seg, x.2.1)) q) = .ok t → canonical t.mems := by
    intro l
    induction l with
    | nil => exact fun q hq t ht => hq t ht
    | cons x xs ih =>
      refine fun q hq t ht => ih _ (fun u hu => ?_) t ht
      cases q with
      | error e => cases hu
      | ok v =>
        dsimp only at hu
        split at hu
        · cases hu
          exact hq _ rfl
        · split at hu
          · cases hu
            exact State.registerFence_canonical _ _ _ _ (hq _ rfl)
          · cases hu
  exact key _ _ (fun u hu => by cases hu; exact hc) t h

@[simp] theorem State.planRegs_mems (s : State) (p : Option PlanImage) : (State.planRegs s p).mems = s.mems := by
  unfold State.planRegs
  split <;> simp

@[simp] theorem State.install_canonical (s : State) (p : PlanImage) (changed : List Nat) (hc : canonical s.mems) :
    canonical (State.install s p changed).mems := by
  unfold State.install
  extract_lets s1 old s2 s3 l s4 s5 s6
  have h2 : canonical s2.mems := by
    have hm : s2.mems = s.mems := (foldl_mems _ (fun t c => by split <;> simp) _ _).trans (by simp [s1])
    rwa [hm]
  have h3 : canonical s3.mems := ⟨h2.1, dataMemory_wf _ p changed h2.2⟩
  simp [s6, s5, s4, l, h3]

@[simp] theorem State.activate_canonical (s : State) (p : PlanImage) (hc : canonical s.mems) :
    canonical (State.activate s p).mems := by simp [State.activate, hc]

@[simp] theorem State.planBoundary_canonical (s : State) (hc : canonical s.mems) : canonical (State.planBoundary s).mems := by
  unfold State.planBoundary
  dsimp only
  split
  · split
    · simp [hc]
    · split
      · split
        · split
          · simp [hc]
          · split
            · simp [hc]
            · rename_i t ht
              simp [State.planFences_canonical _ _ ht hc]
        · simp [hc]
      · split
        · split <;> simp [hc]
        · simp [hc]
  · simp [hc]

@[simp] theorem State.unloadPlan_canonical (s : State) (hc : canonical s.mems) : canonical (State.unloadPlan s).mems := by
  have honCore (t : State) (ht : canonical t.mems) :
      canonical (t.onCore fun c => { c with dmem := [] }).mems := ⟨ht.1, rfl⟩
  unfold State.unloadPlan
  split
  · exact hc
  · dsimp only
    simp only [State.refreshXip_mems, State.reshare_mems, State.planRegs_mems, foldl_mems, State.setReg_mems,
      State.setWays_mems, State.loadWalkers_mems, mems_mk, mems_eta, implies_true]
    refine honCore _ ?_
    split
    · split <;> simp [hc]
    · simp [hc]

@[simp] theorem State.takeMasters_mems (s : State) (hn : Nat) : (State.takeMasters s hn).mems = s.mems := by
  unfold State.takeMasters
  dsimp only
  repeat' split
  all_goals simp

end Sys2Proof.Machine
end

section
/-! SUPPORT. What the pool, the parties, sensing and the integrity checks do to the two memories. -/

namespace Sys2Proof.Machine

open Sys2Proof

@[simp] theorem State.dropWait_mems (s : State) (c : Nat) : (State.dropWait s c).mems = s.mems := by simp [State.dropWait]

@[simp] theorem State.poolAnswer_mems (s : State) (r : Req) (op st : Nat) (data : List Byte) :
    (State.poolAnswer s r op st data).mems = s.mems := by simp [State.poolAnswer]

@[simp] theorem State.tablesDiffer_mems (s : State) (r : Req) (x : PoolReq) (f : Fail) :
    (State.tablesDiffer s r x f).mems = s.mems := by simp [State.tablesDiffer]

@[simp] theorem State.tracePool_canonical (s : State) (r : Req) (op : Nat) (x : PoolReq) (st lines : Nat)
    (hc : canonical s.mems) :
    canonical (State.tracePool s r op x st lines).mems := by simp [State.tracePool, hc]

@[simp] theorem State.poolRun_canonical (s : State) (r : Req) (op : Nat) (x : PoolReq) (argsOk : Bool)
    (rs : List (Except Fail Range × Nat × Bool)) (act : List Range → State → Done)
    (h_act : ∀ g t, canonical t.mems → DoneCanonical (act g t)) (hc : canonical s.mems) :
    canonical (State.poolRun s r op x argsOk rs act).mems := by
  have hact := fun gs q h => h_act gs s hc q h
  unfold State.poolRun
  split
  · exact hc
  · split
    · simp [hc]
    · split
      · simp [hc]
      · extract_lets gs
        split
        · simp [hc]
        · split
          · simp [hc]
          · split
            · simp [hc]
            · simp [hc]
            · split
              · simp [hc]
              · split
                · simp [hc]
                · rename_i h
                  simp [hact _ _ h]

@[simp] theorem State.poolOne_canonical (s : State) (r : Req) (op : Nat) (x : PoolReq) (argsOk : Bool) (n : Nat) (write : Bool)
    (act : Range → State → Done) (h_act : ∀ g t, canonical t.mems → DoneCanonical (act g t)) (hc : canonical s.mems) :
    canonical (State.poolOne s r op x argsOk n write act).mems := by
  refine State.poolRun_canonical _ _ _ _ _ _ _ (fun gs t ht => ?_) hc
  split
  · exact h_act _ _ ht
  · exact doneCanonical_error _

@[simp] theorem execPoolRead_canonical (r : Req) (x : PoolReq) (ecc : Ecc) (s : State) (hc : canonical s.mems) :
    CanonicalNext (execPoolRead r x ecc s) := by
  unfold execPoolRead
  dsimp only
  repeat' split
  all_goals simp [hc]

@[simp] theorem State.ringOne_canonical (s : State) (c : Ctx) (q : Queue) (v : Nat) (hc : canonical s.mems) :
    canonical (State.ringOne s c q v).mems := by simp [State.ringOne, hc]

@[simp] theorem State.doorbells_canonical (s : State) (p : Nat) (as : List Nat) (hc : canonical s.mems) :
    canonical (State.doorbells s p as).mems := by
  refine foldl_canonical _ (fun t x ht => foldl_canonical _ (fun u q hu => ?_) _ _ ht) _ _ hc
  repeat' split
  all_goals simp [hu]

@[simp] theorem execPoolWrite_canonical (r : Req) (x : PoolReq) (s : State) (hc : canonical s.mems) :
    CanonicalNext (execPoolWrite r x s) := by
  refine (canonicalNext_next _).2 (State.poolOne_canonical _ _ _ _ _ _ _ _ (fun g t ht => ?_) hc)
  dsimp only
  split <;> simp [ht]

@[simp] theorem State.onHolds_mems (s : State) (f : List Hold → List Hold) : (State.onHolds s f).mems = s.mems := by
  simp [State.onHolds]

@[simp] theorem execHold_canonical (r : Req) (x : PoolReq) (s : State) (hc : canonical s.mems) :
    CanonicalNext (execHold r x s) := by
  refine (canonicalNext_next _).2 (State.poolOne_canonical _ _ _ _ _ _ _ _ (fun g t ht => ?_) hc)
  dsimp only
  repeat' split
  all_goals simp [ht]

@[simp] theorem State.writeBack_canonical (s : State) (line : Nat) (hc : canonical s.mems) :
    canonical (State.writeBack s line).mems := by
  unfold State.writeBack
  split <;> simp [hc]

@[simp] theorem execRenew_canonical (r : Req) (x : PoolReq) (s : State) (hc : canonical s.mems) :
    CanonicalNext (execRenew r x s) := by
  refine (canonicalNext_next _).2 (State.poolOne_canonical _ _ _ _ _ _ _ _ (fun g t ht => ?_) hc)
  have hback := foldl_canonical State.writeBack State.writeBack_canonical (heldLines g x) t ht
  dsimp only
  split <;> simp [ht, hback]

@[simp] theorem execRelease_canonical (r : Req) (x : PoolReq) (s : State) (hc : canonical s.mems) :
    CanonicalNext (execRelease r x s) := by
  refine (canonicalNext_next _).2 (State.poolOne_canonical _ _ _ _ _ _ _ _ (fun g t ht => ?_) hc)
  have hback := foldl_canonical State.writeBack State.writeBack_canonical (heldLines g x) t ht
  dsimp only
  split <;> simp [ht, hback]

@[simp] theorem State.clearLine_canonical (s : State) (zero : Bool) (line : Nat) (hc : canonical s.mems) :
    canonical (State.clearLine s zero line).mems := by
  unfold State.clearLine
  split
  · exact hc
  · extract_lets u q t p
    have ht : canonical t.mems := by simp [t, q, u, hc]
    split
    · simp [p, ht]
    · split <;> simp [ht]

@[simp] theorem execClear_canonical (r : Req) (x : PoolReq) (s : State) (hc : canonical s.mems) :
    CanonicalNext (execClear r x s) :=
  (canonicalNext_next _).2 (State.poolOne_canonical _ _ _ _ _ _ _ _
    (fun _ t ht => (doneCanonical_ok _).2 (foldl_canonical _ (fun u l hu => State.clearLine_canonical u _ l hu) _ t ht)) hc)

@[simp] theorem State.atomic_canonical (s : State) (r : Req) (op : Nat) (x : PoolReq) (nargs : Nat)
    (writes : Nat → List Nat → Bool) (f : Nat → Nat → List Nat → Nat) (hc : canonical s.mems) :
    canonical (State.atomic s r op x nargs writes f).mems := by
  refine State.poolOne_canonical _ _ _ _ _ _ _ _ (fun g t ht => ?_) hc
  dsimp only
  repeat' split
  all_goals simp [ht]

@[simp] theorem execPoolFenceAdvance_canonical (r : Req) (x : PoolReq) (s : State) (hc : canonical s.mems) :
    CanonicalNext (execPoolFenceAdvance r x s) := by
  refine (canonicalNext_next _).2 (State.poolOne_canonical _ _ _ _ _ _ _ _ (fun g t ht => ?_) hc)
  dsimp only
  split <;> simp [ht]

@[simp] theorem execFenceRead_canonical (r : Req) (x : PoolReq) (s : State) (hc : canonical s.mems) :
    CanonicalNext (execFenceRead r x s) := by
  refine (canonicalNext_next _).2 (State.poolRun_canonical _ _ _ _ _ _ _ (fun g t ht => ?_) hc)
  dsimp only
  split <;> simp [ht]

@[simp] theorem execFill_canonical (r : Req) (x : PoolReq) (s : State) (hc : canonical s.mems) :
    CanonicalNext (execFill r x s) := by
  refine (canonicalNext_next _).2 (State.poolOne_canonical _ _ _ _ _ _ _ _ (fun g t ht => ?_) hc)
  dsimp only
  split <;> simp [ht]

@[simp] theorem execCopy_canonical (r : Req) (x : PoolReq) (s : State) (hc : canonical s.mems) :
    CanonicalNext (execCopy r x s) := by
  refine (canonicalNext_next _).2 (State.poolRun_canonical _ _ _ _ _ _ _ (fun g t ht => ?_) hc)
  dsimp only
  repeat' split
  all_goals simp [ht]

@[simp] theorem execCompare_canonical (r : Req) (x : PoolReq) (s : State) (hc : canonical s.mems) :
    CanonicalNext (execCompare r x s) := by
  refine (canonicalNext_next _).2 (State.poolRun_canonical _ _ _ _ _ _ _ (fun g t ht => ?_) hc)
  dsimp only
  split <;> simp [ht]

@[simp] theorem execGrant_canonical (r : Req) (x : PoolReq) (s : State) (hc : canonical s.mems) :
    CanonicalNext (execGrant r x s) := by
  refine (canonicalNext_next _).2 (State.poolOne_canonical _ _ _ _ _ _ _ _ (fun g t ht => ?_) hc)
  dsimp only
  split <;> simp [ht]

@[simp] theorem execUngrant_canonical (r : Req) (x : PoolReq) (s : State) (hc : canonical s.mems) :
    CanonicalNext (execUngrant r x s) := by
  refine (canonicalNext_next _).2 (State.poolRun_canonical _ _ _ _ _ _ _ (fun g t ht => ?_) hc)
  split <;> simp [ht]

@[simp] theorem State.killGrant_mems (s : State) (g : Grant) : (State.killGrant s g).mems = s.mems := by simp [State.killGrant]

@[simp] theorem State.killGrants_mems (s : State) (f : Grant → Bool) : (State.killGrants s f).mems = s.mems := by
  simp [State.killGrants]

@[simp] theorem State.roleSetting_canonical (s : State) (r : Req) (p v : Nat) (hc : canonical s.mems) :
    canonical (State.roleSetting s r p v).mems := by simp [State.roleSetting, hc]

@[simp] theorem State.allotSetting_canonical (s : State) (r : Req) (p sub v : Nat) (hc : canonical s.mems) :
    canonical (State.allotSetting s r p sub v).mems := by simp [State.allotSetting, hc]

@[simp] theorem State.podAllotSetting_canonical (s : State) (r : Req) (p : Nat) (data : List Byte) (hc : canonical s.mems) :
    canonical (State.podAllotSetting s r p data).mems := by
  unfold State.podAllotSetting
  split <;> simp [hc]

@[simp] theorem State.revokeOrder_canonical (s : State) (r : Req) (p v : Nat) (hc : canonical s.mems) :
    canonical (State.revokeOrder s r p v).mems := by simp [State.revokeOrder, hc]

@[simp] theorem State.command_canonical (s : State) (c q op : Nat) (f : Ctx → List Byte → State)
    (h_f : ∀ x b, canonical (f x b).mems) (hc : canonical s.mems) :
    canonical (State.command s c q op f).mems := by
  unfold State.command
  repeat' split
  all_goals simp [hc, h_f]

@[simp] theorem execCtxCreate_canonical (c q : Nat) (s : State) (hc : canonical s.mems) :
    CanonicalNext (execCtxCreate c q s) := by
  unfold execCtxCreate
  split <;> simp [hc]

@[simp] theorem execCtxDestroy_canonical (c q : Nat) (s : State) (hc : canonical s.mems) :
    CanonicalNext (execCtxDestroy c q s) := by
  refine (canonicalNext_next _).2 (State.command_canonical _ _ _ _ _ (fun x cmd => ?_) hc)
  repeat' split
  all_goals simp [hc]

@[simp] theorem execMap_canonical (c q : Nat) (s : State) (hc : canonical s.mems) : CanonicalNext (execMap c q s) := by
  refine (canonicalNext_next _).2 (State.command_canonical _ _ _ _ _ (fun x cmd => ?_) hc)
  dsimp only
  repeat' split
  all_goals simp [hc]

@[simp] theorem execUnmap_canonical (c q : Nat) (s : State) (hc : canonical s.mems) : CanonicalNext (execUnmap c q s) := by
  refine (canonicalNext_next _).2 (State.command_canonical _ _ _ _ _ (fun x cmd => ?_) hc)
  dsimp only
  repeat' split
  all_goals simp [hc]

@[simp] theorem execQueueCreate_canonical (c q : Nat) (s : State) (hc : canonical s.mems) :
    CanonicalNext (execQueueCreate c q s) := by
  refine (canonicalNext_next _).2 (State.command_canonical _ _ _ _ _ (fun x cmd => ?_) hc)
  dsimp only
  repeat' split
  all_goals simp [hc]

@[simp] theorem execQueueDestroy_canonical (c q : Nat) (s : State) (hc : canonical s.mems) :
    CanonicalNext (execQueueDestroy c q s) := by
  refine (canonicalNext_next _).2 (State.command_canonical _ _ _ _ _ (fun x cmd => ?_) hc)
  dsimp only
  repeat' split
  all_goals simp [hc]

@[simp] theorem execFenceCreate_canonical (c q : Nat) (s : State) (hc : canonical s.mems) :
    CanonicalNext (execFenceCreate c q s) :=
  (canonicalNext_next _).2 (State.command_canonical _ _ _ _ _ (fun x b => by simp [hc]) hc)

@[simp] theorem execFenceAdvance_canonical (c q : Nat) (s : State) (hc : canonical s.mems) :
    CanonicalNext (execFenceAdvance c q s) := by
  refine (canonicalNext_next _).2 (State.command_canonical _ _ _ _ _ (fun x cmd => ?_) hc)
  dsimp only
  repeat' split
  all_goals simp [hc]

@[simp] theorem execFenceWait_canonical (c q : Nat) (s : State) (hc : canonical s.mems) :
    CanonicalNext (execFenceWait c q s) := by
  refine (canonicalNext_next _).2 (State.command_canonical _ _ _ _ _ (fun x cmd => ?_) hc)
  dsimp only
  repeat' split
  all_goals simp [hc]

@[simp] theorem State.finishWait_canonical (s : State) (w : FWait) (st : Nat) (hc : canonical s.mems) :
    canonical (State.finishWait s w st).mems := by simp [State.finishWait, hc]

@[simp] theorem execFenceWaitComplete_canonical (c q : Nat) (s : State) (hc : canonical s.mems) :
    CanonicalNext (execFenceWaitComplete c q s) := by
  unfold execFenceWaitComplete
  repeat' split
  all_goals simp [hc]

@[simp] theorem execFenceExport_canonical (c q : Nat) (s : State) (hc : canonical s.mems) :
    CanonicalNext (execFenceExport c q s) := by
  refine (canonicalNext_next _).2 (State.command_canonical _ _ _ _ _ (fun x cmd => ?_) hc)
  dsimp only
  repeat' split
  all_goals simp [hc]

@[simp] theorem State.renewFence_mems (s : State) (f : Fence) : (State.renewFence s f).mems = s.mems := by
  simp [State.renewFence]

@[simp] theorem execFenceRevoke_canonical (c q : Nat) (s : State) (hc : canonical s.mems) :
    CanonicalNext (execFenceRevoke c q s) := by
  refine (canonicalNext_next _).2 (State.command_canonical _ _ _ _ _ (fun x cmd => ?_) hc)
  dsimp only
  repeat' split
  all_goals simp [hc]

@[simp] theorem execFenceDestroy_canonical (c q : Nat) (s : State) (hc : canonical s.mems) :
    CanonicalNext (execFenceDestroy c q s) := by
  refine (canonicalNext_next _).2 (State.command_canonical _ _ _ _ _ (fun x b => ?_) hc)
  repeat' split
  all_goals simp [hc]

@[simp] theorem State.beginJob_mems (s : State) (x : Ctx) (q n : Nat) (d : List Byte) :
    (State.beginJob s x q n d).mems = s.mems := by simp [State.beginJob]

@[simp] theorem execJobStart_canonical (c q : Nat) (s : State) (hc : canonical s.mems) :
    CanonicalNext (execJobStart c q s) := by
  refine (canonicalNext_next _).2 (State.command_canonical _ _ _ _ _ (fun x cmd => ?_) hc)
  dsimp only
  repeat' split
  all_goals simp [hc]

@[simp] theorem execJobCancel_canonical (c q : Nat) (s : State) (hc : canonical s.mems) : CanonicalNext (execJobCancel c q s) :=
  (canonicalNext_next _).2 (State.command_canonical _ _ _ _ _ (fun x b => by simp [hc]) hc)

@[simp] theorem State.endPoolOps_mems (s : State) (c st : Nat) : (State.endPoolOps s c st).mems = s.mems := by
  simp [State.endPoolOps]

@[simp] theorem execResidencyTimeout_canonical (p : Nat) (s : State) (hc : canonical s.mems) :
    CanonicalNext (execResidencyTimeout p s) := by
  refine (canonicalNext_next _).2 ?_
  split
  · exact hc
  · exact foldl_canonical _ (fun t w ht => State.refuseQueues_canonical _ _ _ (by simp [ht])) _ _ (by simp [hc])

@[simp] theorem State.startCommand_canonical (s : State) (p c q : Nat) (hc : canonical s.mems) :
    canonical (State.startCommand s p c q).mems := by
  unfold State.startCommand
  split <;> simp [hc]

@[simp] theorem State.partySlot_canonical (s : State) (p : Nat) (hc : canonical s.mems) :
    canonical (State.partySlot s p).mems := by
  unfold State.partySlot
  extract_lets s1 s2
  have h1 : canonical s1.mems := foldl_canonical _ (fun t x ht => by split <;> simp [ht]) _ _ hc
  refine foldl_canonical _ (fun t x ht => ?_) _ _ (by simp [s2, h1])
  dsimp only
  repeat' split
  all_goals simp [ht]

@[simp] theorem State.revokeWork_canonical (s : State) (c : Nat) (hc : canonical s.mems) :
    canonical (State.revokeWork s c).mems := by
  unfold State.revokeWork
  refine foldl_canonical _ (fun t w ht => State.finishWait_canonical _ _ _ ht) _ _ ?_
  refine foldl_canonical _ (fun t j ht => ?_) _ _ hc
  split <;> simp [ht]

@[simp] theorem State.flushQueue_canonical (s : State) (x : Ctx) (q n : Nat) (hc : canonical s.mems) :
    canonical (State.flushQueue s x q n).mems := by
  refine State.endQueue_canonical _ _ _ _ _ (fun cmd t ht => ?_) _ hc
  repeat' split
  all_goals simp [ht]

@[simp] theorem State.flushAdvances_canonical (s : State) (c : Nat) (hc : canonical s.mems) :
    canonical (State.flushAdvances s c).mems := by
  unfold State.flushAdvances
  exact foldl_canonical _ (fun _ _ hc => by simp [hc]) _ _ hc

@[simp] theorem State.settleWaits_canonical (s : State) (c : Nat) (hc : canonical s.mems) :
    canonical (State.settleWaits s c).mems := by
  refine foldl_canonical _ (fun t w ht => ?_) _ _ hc
  repeat' split
  all_goals simp [ht]

@[simp] theorem State.revokeCtx_canonical (s : State) (c : Nat) (by_ : Option (Nat × Nat × Nat)) (hc : canonical s.mems) :
    canonical (State.revokeCtx s c by_).mems := by
  unfold State.revokeCtx
  dsimp only
  have hfail (st : Nat) : canonical (State.mems (match by_ with
      | some b => s.complete b.1 b.2.1 st 0
      | none => s)) := by
    split <;> simp [hc]
  split
  · exact hfail _
  · split
    · exact hfail _
    · simp only [State.stageNext_mems, mems_ite, State.reshare_mems, ite_self, State.killGrants_mems, foldl_mems,
        State.killHandles_mems, implies_true]
      refine State.settleWaits_canonical _ _ (foldl_canonical _ (fun t g ht => by split <;> simp [ht]) _ _ ?_)
      simp only [mems_mk, mems_eta, State.endPoolOps_mems]
      refine State.flushAdvances_canonical _ _ ?_
      exact foldl_canonical _ (fun t q ht => State.flushQueue_canonical _ _ _ _ ht) _ _ (by simp [hc])

@[simp] theorem State.freeCtx_canonical (s : State) (c : Nat) (by_ : Option (Nat × Nat × Nat)) (hc : canonical s.mems) :
    canonical (State.freeCtx s c by_).mems := by
  unfold State.freeCtx
  split
  · exact hc
  · rename_i x _
    extract_lets s1 q s2 s3
    have h3 : canonical s3.mems := by simp [s3, s2, q, s1, hc]
    split <;> simp [h3]

@[simp] theorem State.revokeAll_canonical (s : State) (p : Nat) (hc : canonical s.mems) :
    canonical (State.revokeAll s p).mems := by
  unfold State.revokeAll
  extract_lets s1 s2 q
  have h1 : canonical s1.mems := foldl_canonical _ (fun t c ht => State.revokeCtx_canonical _ _ _ ht) _ _ hc
  simp [q, s2, h1]

@[simp] theorem State.ungrant_mems (s : State) (idx : Nat) : (State.ungrant s idx).mems = s.mems := by simp [State.ungrant]

@[simp] theorem State.mirrorSetting_canonical (s : State) (r : Req) (data : List Byte) (hc : canonical s.mems) :
    canonical (State.mirrorSetting s r data).mems := by simp [State.mirrorSetting, hc]

@[simp] theorem State.setMirror_mems (s : State) (old : Option Mirror) (b : List Byte) :
    (State.setMirror s old b).1.mems = s.mems := by
  unfold State.setMirror
  dsimp only
  repeat' split
  all_goals simp

@[simp] theorem State.applyMirrors_mems (s : State) (data : List Byte) : (State.applyMirrors s data).mems = s.mems := by
  simp [State.applyMirrors]

@[simp] theorem execMirrorPoll_canonical (i : Nat) (status : Option Nat) (value : Nat) (s : State) (hc : canonical s.mems) :
    CanonicalNext (execMirrorPoll i status value s) := by
  unfold execMirrorPoll
  split <;> simp [hc]

@[simp] theorem State.onChan_mems (s : State) (i : Nat) (f : Channel → Channel) : (State.onChan s i f).mems = s.mems := by
  simp [State.onChan]

@[simp] theorem execOverloadEnd_canonical (ch : Nat) (s : State) (hc : canonical s.mems) :
    CanonicalNext (execOverloadEnd ch s) := by
  unfold execOverloadEnd
  split <;> simp [hc]

@[simp] theorem State.cutCounts_mems (s : State) (q : Nat) : (State.cutCounts s q).mems = s.mems := by simp [State.cutCounts]

@[simp] theorem State.qChange_mems (s : State) (q t : Nat) (a b : Bool) : (State.qChange s q t a b).mems = s.mems := by
  unfold State.qChange
  dsimp only
  repeat' split
  all_goals simp

@[simp] theorem State.chanSetting_canonical (s : State) (r : Req) (ch sub v : Nat) (hc : canonical s.mems) :
    canonical (State.chanSetting s r ch sub v).mems := by simp [State.chanSetting, hc]

@[simp] theorem State.chanBoundary_mems (s : State) (old : List (Nat × Nat)) : (State.chanBoundary s old).mems = s.mems := by
  unfold State.chanBoundary
  refine (foldl_mems _ (fun t q => ?_) _ _).trans (foldl_mems _ (fun t i => ?_) _ _)
  · dsimp only
    split <;> simp
  · extract_lets m was chg t1 t2 t3
    have h2 : t2.mems = t.mems := by
      show State.mems (if _ then _ else _) = _
      split <;> simp [t1]
    have h3 : t3.mems = t.mems := by
      show State.mems (if _ then _ else _) = _
      split <;> simp [h2]
    split <;> simp [h3]

@[simp] theorem State.cutBlocks_mems (s : State) : (State.cutBlocks s).mems = s.mems := by simp [State.cutBlocks]

@[simp] theorem State.rawJob_canonical (s : State) (seg : Nat) (j : IntakeJob) (hc : canonical s.mems) :
    canonical (State.rawJob s seg j).mems := by
  unfold State.rawJob
  split <;> simp [hc]

@[simp] theorem State.expireRun_mems (s : State) (e : Nat) : (State.expireRun s e).mems = s.mems := by simp [State.expireRun]

@[simp] theorem execIntakeJob_canonical (seg job : Nat) (s : State) (hc : canonical s.mems) :
    CanonicalNext (execIntakeJob seg job s) := by
  unfold execIntakeJob
  repeat' split
  all_goals simp [hc]

@[simp] theorem State.podClearOrder_canonical (s : State) (r : Req) (pod v : Nat) (hc : canonical s.mems) :
    canonical (State.podClearOrder s r pod v).mems := by simp [State.podClearOrder, hc]

@[simp] theorem State.clearPod_mems (s : State) (pod : Nat) : (State.clearPod s pod).mems = s.mems := by simp [State.clearPod]

@[simp] theorem State.nameBoundary_mems (s : State) : (State.nameBoundary s).mems = s.mems := by simp [State.nameBoundary]

@[simp] theorem State.serviceBoundary_mems (s : State) : (State.serviceBoundary s).mems = s.mems := by
  simp [State.serviceBoundary]

@[simp] theorem State.winnowRowRead_mems (s : State) (errs : List (Nat × Int)) :
    (State.winnowRowRead s errs).mems = s.mems := by
  unfold State.winnowRowRead
  repeat' split
  all_goals simp

@[simp] theorem State.winnowVector_mems (s : State) : (State.winnowVector s).mems = s.mems := by
  unfold State.winnowVector
  split
  · rfl
  · split
    · rfl
    · dsimp only
      refine (foldl_mems _ (fun t x => ?_) _ _).trans ?_
      · split <;> simp
      · split <;> simp

@[simp] theorem State.differBoundary_mems (s : State) : (State.differBoundary s).mems = s.mems := by simp [State.differBoundary]

end Sys2Proof.Machine
end

section
/-! SUPPORT. What power, resets, security, boot and the tests do to the two memories. -/

namespace Sys2Proof.Machine

open Sys2Proof

@[simp] theorem State.domainSetting_canonical (s : State) (r : Req) (d v : Nat) (hc : canonical s.mems) :
    canonical (State.domainSetting s r d v).mems := by simp [State.domainSetting, hc]

@[simp] theorem State.setRails_mems (s : State) (is : List Nat) (v : Bool) : (State.setRails s is v).mems = s.mems := by
  simp [State.setRails]

@[simp] theorem State.domainOff_mems (s : State) (d : Nat) (rails : List Nat) : (State.domainOff s d rails).mems = s.mems := by
  simp [State.domainOff]

@[simp] theorem State.domainBoundary_mems (s : State) : (State.domainBoundary s).mems = s.mems := by simp [State.domainBoundary]

@[simp] theorem State.startPowerUps_mems (s : State) : (State.startPowerUps s).mems = s.mems := by simp [State.startPowerUps]

@[simp] theorem execDomainPowerUp_canonical (d : Nat) (s : State) (hc : canonical s.mems) :
    CanonicalNext (execDomainPowerUp d s) := by
  unfold execDomainPowerUp
  split <;> simp [hc]

@[simp] theorem State.gateBoundary_mems (s : State) : (State.gateBoundary s).mems = s.mems := by simp [State.gateBoundary]

@[simp] theorem State.takeReadings_mems (s : State) (vals : List Int) (ntc : Int) :
    (State.takeReadings s vals ntc).mems = s.mems := by simp [State.takeReadings]

@[simp] theorem State.warn_mems (s : State) : (State.warn s).mems = s.mems := by simp [State.warn]

@[simp] theorem State.decideStep_mems (s : State) (n : Nat) : (State.decideStep s n).mems = s.mems := by simp [State.decideStep]

@[simp] theorem State.ladder_mems (s : State) : (State.ladder s).mems = s.mems := by simp [State.ladder]

@[simp] theorem State.watchHeat_mems (s : State) : (State.watchHeat s).mems = s.mems := by simp [State.watchHeat]

@[simp] theorem State.raiseShutdown_mems (s : State) : (State.raiseShutdown s).mems = s.mems := by simp [State.raiseShutdown]

@[simp] theorem execSensorOutOfService_canonical (i : Nat) (s : State) (hc : canonical s.mems) :
    CanonicalNext (execSensorOutOfService i s) := by
  unfold execSensorOutOfService
  split <;> simp [hc]

@[simp] theorem execClusterGated_canonical (s : State) (hc : canonical s.mems) : CanonicalNext (execClusterGated s) := by
  unfold execClusterGated
  split <;> simp [hc]

@[simp] theorem State.clusterClearOrder_canonical (s : State) (r : Req) (c v : Nat) (hc : canonical s.mems) :
    canonical (State.clusterClearOrder s r c v).mems := by simp [State.clusterClearOrder, hc]

@[simp] theorem State.clearGate_mems (s : State) (c : Nat) (heat : Bool) : (State.clearGate s c heat).mems = s.mems := by
  simp [State.clearGate]

@[simp] theorem State.addShutdown_mems (s : State) (x : ShutdownRec) : (State.addShutdown s x).mems = s.mems := by
  simp [State.addShutdown]

@[simp] theorem State.stopWork_mems (s : State) : (State.stopWork s).mems = s.mems := by simp [State.stopWork]

@[simp] theorem execOrderly_canonical (s : State) (hc : canonical s.mems) : CanonicalNext (execOrderly s) := by
  unfold execOrderly
  repeat' split
  all_goals simp [hc]

@[simp] theorem State.enterSafe_mems (s : State) : (State.enterSafe s).mems = s.mems := by
  unfold State.enterSafe
  split <;> simp

@[simp] theorem State.filler_mems (s : State) (i : Nat) : (State.filler s i).mems = s.mems := by simp [State.filler]

@[simp] theorem State.ballastMvms_mems (s : State) : (State.ballastMvms s).mems = s.mems := by simp [State.ballastMvms]

@[simp] theorem State.coreTimed_canonical (s : State) (hc : canonical s.mems) :
    canonical (State.coreTimed s).mems := by simp [State.coreTimed, hc]

@[simp] theorem State.idle_canonical (s : State) (hc : canonical s.mems) :
    canonical (State.idle s).mems := by simp [State.idle, hc]

@[simp] theorem State.resetPods_mems (s : State) : (State.resetPods s).mems = s.mems := by simp [State.resetPods]

@[simp] theorem State.resetJobs_mems (s : State) (warm : Bool) : (State.resetJobs s warm).mems = s.mems := by
  simp [State.resetJobs]

@[simp] theorem State.resetStore_mems (s : State) : (State.resetStore s).mems = s.mems := by simp [State.resetStore]

@[simp] theorem State.resetLogic_canonical (s : State) (warm : Bool) (hc : canonical s.mems) :
    canonical (State.resetLogic s warm).mems := by
  unfold State.resetLogic
  extract_lets s1 s2 regs
  have h2 : s2.mems = s.mems := by simp [s2, s1]
  rw [mems_mk]
  split
  · exact ⟨show Memory.wf s2.mems.1 = true by rw [h2]; exact hc.1, rfl⟩
  · exact ⟨rfl, rfl⟩

@[simp] theorem State.restoreVault_mems (s : State) : (State.restoreVault s).mems = s.mems := by simp [State.restoreVault]

@[simp] theorem State.beginSprout_canonical (s : State) (kind : ResetKind) (hc : canonical s.mems) :
    canonical (State.beginSprout s kind).mems := by simp [State.beginSprout, hc]

@[simp] theorem State.warmSprout_canonical (s : State) (hc : canonical s.mems) :
    canonical (State.warmSprout s).mems := by simp [State.warmSprout, hc]

@[simp] theorem State.toOff_canonical (s : State) (hc : canonical s.mems) :
    canonical (State.toOff s).mems := by simp [State.toOff, hc]

@[simp] theorem State.saveHusk_mems (s : State) : (State.saveHusk s).mems = s.mems := by simp [State.saveHusk]

@[simp] theorem State.onStore_mems (s : State) (f : Store → Store) : (State.onStore s f).mems = s.mems := by
  simp [State.onStore]

@[simp] theorem State.estimate_mems (s : State) : (State.estimate s).mems = s.mems := by simp [State.estimate]

@[simp] theorem State.cleanReference_mems (s : State) (c : Option Nat) : (State.cleanReference s c).mems = s.mems := by
  unfold State.cleanReference
  split <;> simp

@[simp] theorem State.chargeOn_mems (s : State) : (State.chargeOn s).mems = s.mems := by simp [State.chargeOn]

@[simp] theorem execRestReference_canonical (s : State) (hc : canonical s.mems) : CanonicalNext (execRestReference s) := by
  unfold execRestReference
  split <;> simp [hc]

@[simp] theorem execReferencePulseEnd_canonical (vBefore vOnset vStart vEnd : Nat) (s : State) (hc : canonical s.mems) :
    CanonicalNext (execReferencePulseEnd vBefore vOnset vStart vEnd s) := by
  unfold execReferencePulseEnd
  split <;> simp [hc]

@[simp] theorem State.snapRegions_mems (s : State) : (State.snapRegions s).mems = s.mems := by simp [State.snapRegions]

@[simp] theorem State.copyEnds_mems (s : State) : (State.copyEnds s).mems = s.mems := by simp [State.copyEnds]

@[simp] theorem State.copyFrom_mems (s : State) (n i : Nat) : (s.copyFrom n i).mems = s.mems := by
  induction n generalizing s i with
  | zero => simp [State.copyFrom]
  | succ n ih =>
    unfold State.copyFrom
    repeat' split
    all_goals simp [ih]

@[simp] theorem State.startCopy_mems (s : State) : (State.startCopy s).mems = s.mems := by simp [State.startCopy]

@[simp] theorem State.regionDone_mems (s : State) (i : Nat) : (State.regionDone s i).mems = s.mems := by simp [State.regionDone]

@[simp] theorem execKeepRegionDone_canonical (s : State) (hc : canonical s.mems) : CanonicalNext (execKeepRegionDone s) := by
  unfold execKeepRegionDone
  split <;> simp [hc]

@[simp] theorem execFlushComplete_canonical (s : State) (hc : canonical s.mems) : CanonicalNext (execFlushComplete s) := by
  unfold execFlushComplete
  split <;> simp [hc]

@[simp] theorem State.loseInput_mems (s : State) : (State.loseInput s).mems = s.mems := by simp [State.loseInput]

@[simp] theorem State.abandonOthers_canonical (s : State) (hc : canonical s.mems) : canonical (State.abandonOthers s).mems := by
  refine foldl_canonical _ (fun t c ht => ?_) _ _ hc
  extract_lets w g busy
  clear_value g
  repeat' split
  all_goals simp [ht]

@[simp] theorem execInputLost_canonical (s : State) (hc : canonical s.mems) : CanonicalNext (execInputLost s) := by
  unfold execInputLost
  dsimp only
  repeat' split
  all_goals simp [hc]

@[simp] theorem State.holdEntry_mems (s : State) : (State.holdEntry s).mems = s.mems := by simp [State.holdEntry]

@[simp] theorem State.holdExit_mems (s : State) : (State.holdExit s).mems = s.mems := by simp [State.holdExit]

@[simp] theorem execInputRestored_canonical (s : State) (hc : canonical s.mems) : CanonicalNext (execInputRestored s) := by
  unfold execInputRestored
  dsimp only
  repeat' split
  all_goals simp [hc]

@[simp] theorem execHoldStop_canonical (s : State) (hc : canonical s.mems) : CanonicalNext (execHoldStop s) := by
  unfold execHoldStop
  split <;> simp [hc]

@[simp] theorem State.keepRegionsOrder_canonical (s : State) (r : Req) (data : List Byte) (hc : canonical s.mems) :
    canonical (State.keepRegionsOrder s r data).mems := by
  unfold State.keepRegionsOrder
  split <;> simp [hc]

@[simp] theorem State.holdUpImageOrder_canonical (s : State) (r : Req) (data : List Byte) (hc : canonical s.mems) :
    canonical (State.holdUpImageOrder s r data).mems := by simp [State.holdUpImageOrder, hc]

@[simp] theorem State.onSec_mems (s : State) (f : Sec → Sec) : (State.onSec s f).mems = s.mems := by simp [State.onSec]

@[simp] theorem State.sealedWrite_canonical (s : State) (r : Req) (index sub len : Nat) (own : Nat) (eff : State → State)
    (h_eff : ∀ s, canonical s.mems → canonical (eff s).mems) (hc : canonical s.mems) :
    canonical (State.sealedWrite s r index sub len own eff).mems := by
  unfold State.sealedWrite
  split
  · exact hc
  · exact hc
  · dsimp only
    repeat' split
    all_goals simp [hc, h_eff]

@[simp] theorem State.planKeyOrder_canonical (s : State) (r : Req) (data : List Byte) (hc : canonical s.mems) :
    canonical (State.planKeyOrder s r data).mems := by simp [State.planKeyOrder, hc]

@[simp] theorem State.eraseRegions_mems (s : State) (p : Nat) : (State.eraseRegions s p).mems = s.mems := by
  simp [State.eraseRegions]

@[simp] theorem State.renewParty_canonical (s : State) (p : Nat) (hc : canonical s.mems) :
    canonical (State.renewParty s p).mems := by simp [State.renewParty, hc]

@[simp] theorem State.putPlanKey_canonical (s : State) (p id : Nat) (pub : List Byte) (counter : Bool) (hc : canonical s.mems) :
    canonical (State.putPlanKey s p id pub counter).mems := by
  unfold State.putPlanKey
  split <;> simp [hc]

@[simp] theorem State.sakOrder_canonical (s : State) (r : Req) (data : List Byte) (unwrapOk : Bool) (hc : canonical s.mems) :
    canonical (State.sakOrder s r data unwrapOk).mems := by simp [State.sakOrder, hc]

@[simp] theorem State.activateSa_mems (s : State) (p : Nat) (tx : Bool) (an id : Nat) :
    (State.activateSa s p tx an id).mems = s.mems := by simp [State.activateSa]

@[simp] theorem State.putSak_mems (s : State) (p dir an id : Nat) : (State.putSak s p dir an id).mems = s.mems := by
  simp [State.putSak]

@[simp] theorem State.poolKeyOrder_canonical (s : State) (r : Req) (v : Nat) (hc : canonical s.mems) :
    canonical (State.poolKeyOrder s r v).mems := by simp [State.poolKeyOrder, hc]

@[simp] theorem State.firmwareOrder_canonical (s : State) (r : Req) (data : List Byte) (sigOk : Bool) (hc : canonical s.mems) :
    canonical (State.firmwareOrder s r data sigOk).mems := by simp [State.firmwareOrder, hc]

@[simp] theorem execFirmwareSlotWritten_canonical (s : State) (hc : canonical s.mems) :
    CanonicalNext (execFirmwareSlotWritten s) := by
  unfold execFirmwareSlotWritten
  dsimp only
  repeat' split
  all_goals simp [hc]

@[simp] theorem State.activateOrder_canonical (s : State) (r : Req) (v : Nat) (hc : canonical s.mems) :
    canonical (State.activateOrder s r v).mems := by simp [State.activateOrder, hc]

@[simp] theorem State.lifecycleOrder_canonical (s : State) (r : Req) (data : List Byte) (sigOk : Bool) (hc : canonical s.mems) :
    canonical (State.lifecycleOrder s r data sigOk).mems := by simp [State.lifecycleOrder, hc]

@[simp] theorem State.eraseReg_mems (s : State) (k : Nat) : (State.eraseReg s k).mems = s.mems := by simp [State.eraseReg]

@[simp] theorem State.eraseDom_mems (s : State) (k : Nat) : (State.eraseDom s k).mems = s.mems := by simp [State.eraseDom]

@[simp] theorem State.enterReturned_canonical (s : State) (hc : canonical s.mems) : canonical (State.enterReturned s).mems := by
  unfold State.enterReturned
  dsimp only
  simp only [mems_mk, mems_eta, State.onSec_mems, foldl_mems, State.eraseReg_mems, implies_true]
  refine foldl_canonical _ (fun t p ht => State.revokeAll_canonical _ _ ht) _ _ (State.unloadPlan_canonical _ ?_)
  split <;> simp [hc]

@[simp] theorem State.setLifecycle_canonical (s : State) (v : Nat) (hc : canonical s.mems) :
    canonical (State.setLifecycle s v).mems := by simp [State.setLifecycle, hc]

@[simp] theorem State.scrubOne_mems (s : State) (ok : Bool) : (State.scrubOne s ok).mems = s.mems := by simp [State.scrubOne]

@[simp] theorem State.eraseParties_mems (s : State) : (State.eraseParties s).mems = s.mems := by simp [State.eraseParties]

@[simp] theorem State.clearEngines_canonical (s : State) (hc : canonical s.mems) :
    canonical (State.clearEngines s).mems := ⟨hc.1, rfl⟩

@[simp] theorem execScrubStageEnd_canonical (verifyOk : Bool) (s : State) (hc : canonical s.mems) :
    CanonicalNext (execScrubStageEnd verifyOk s) := by
  refine (canonicalNext_next _).2 ?_
  split
  · exact hc
  · split
    · exact ⟨rfl, rfl⟩
    all_goals simp [hc]

@[simp] theorem State.useChallenge_mems (s : State) (failed : Bool) : (State.useChallenge s failed).mems = s.mems := by
  simp [State.useChallenge]

@[simp] theorem State.debugOrder_canonical (s : State) (r : Req) (data : List Byte) (sigOk : Bool) (hc : canonical s.mems) :
    canonical (State.debugOrder s r data sigOk).mems := by
  unfold State.debugOrder
  split <;> simp [hc]

@[simp] theorem State.debugCloseOrder_canonical (s : State) (r : Req) (v : Nat) (hc : canonical s.mems) :
    canonical (State.debugCloseOrder s r v).mems := by simp [State.debugCloseOrder, hc]

@[simp] theorem State.setDebug_mems (s : State) (v : Nat) : (State.setDebug s v).mems = s.mems := by simp [State.setDebug]

@[simp] theorem State.debugRecheck_mems (s : State) : (State.debugRecheck s).mems = s.mems := by simp [State.debugRecheck]

@[simp] theorem State.onHusk_mems (s : State) (f : Husk → Husk) : (State.onHusk s f).mems = s.mems := by simp [State.onHusk]

@[simp] theorem State.warmTrigger_mems (s : State) : (State.warmTrigger s).mems = s.mems := by
  unfold State.warmTrigger
  split <;> simp

@[simp] theorem execWarmReset_canonical (s : State) (hc : canonical s.mems) : CanonicalNext (execWarmReset s) := by
  unfold execWarmReset
  split <;> simp [hc]

@[simp] theorem execHardRestart_canonical (s : State) (hc : canonical s.mems) : CanonicalNext (execHardRestart s) := by
  unfold execHardRestart
  split <;> simp [hc]

@[simp] theorem execRailRetry_canonical (s : State) (hc : canonical s.mems) : CanonicalNext (execRailRetry s) := by
  unfold execRailRetry
  split <;> simp [hc]

@[simp] theorem State.nextStage_mems (s : State) : (State.nextStage s).mems = s.mems := by simp [State.nextStage]

@[simp] theorem State.huskStage_mems (s : State) (x : StageEnv) : (State.huskStage s x).mems = s.mems := by
  simp [State.huskStage]

@[simp] theorem State.shellStage_mems (s : State) (x : StageEnv) : (State.shellStage s x).mems = s.mems := by
  simp [State.shellStage]

@[simp] theorem State.afterWarm_mems (s : State) : (State.afterWarm s).mems = s.mems := by
  unfold State.afterWarm
  dsimp only
  repeat' split
  all_goals simp

@[simp] theorem State.memoryStage_mems (s : State) : (State.memoryStage s).mems = s.mems := by simp [State.memoryStage]

@[simp] theorem State.unitsStage_mems (s : State) : (State.unitsStage s).mems = s.mems := by simp [State.unitsStage]

@[simp] theorem State.networkStage_mems (s : State) (x : StageEnv) : (State.networkStage s x).mems = s.mems := by
  simp [State.networkStage]

@[simp] theorem State.reinstate_canonical (s : State) (hashesOk : Bool) (hc : canonical s.mems) :
    canonical (State.reinstate s hashesOk).mems := by
  unfold State.reinstate
  dsimp only
  repeat' split
  all_goals simp [hc]

@[simp] theorem State.recreateRoots_canonical (s : State) (hc : canonical s.mems) : canonical (State.recreateRoots s).mems := by
  unfold State.recreateRoots
  exact foldl_canonical _ (fun _ _ hc => by simp [hc]) _ _ hc

@[simp] theorem State.restoreRegions_canonical (s : State) (hc : canonical s.mems) :
    canonical (State.restoreRegions s).mems := by
  refine foldl_canonical _ (fun t x ht => ?_) _ _ hc
  dsimp only
  repeat' split
  all_goals simp [ht]

@[simp] theorem State.rebuildLog_mems (s : State) : (State.rebuildLog s).mems = s.mems := by
  unfold State.rebuildLog
  extract_lets s1 rs
  refine (foldl_mems _ State.raise_mems _ _).trans ?_
  show State.mems (if _ then _ else _) = _
  split <;> simp

@[simp] theorem State.planStage_canonical (s : State) (x : StageEnv) (hc : canonical s.mems) :
    canonical (State.planStage s x).mems := by
  unfold State.planStage
  dsimp only
  rw [State.onHusk_mems, State.reshare_mems]
  have h1 : canonical (State.mems (if s.husk.kind = .warm then s.reinstate x.hashesOk else s)) := by
    split <;> simp [hc]
  generalize (if s.husk.kind = .warm then s.reinstate x.hashesOk else s) = t at h1
  split
  · split <;> simp [h1]
  · rw [foldl_mems _ State.raise_mems]
    exact h1

@[simp] theorem State.eraseCopies_mems (s : State) : (State.eraseCopies s).mems = s.mems := by simp [State.eraseCopies]

@[simp] theorem State.stageEnd_mems (s : State) (x : StageEnv) : (State.stageEnd s x).mems = s.mems := by
  unfold State.stageEnd
  split <;> simp

@[simp] theorem State.onTest_mems (s : State) (f : Test → Test) : (State.onTest s f).mems = s.mems := by simp [State.onTest]

@[simp] theorem State.fallDue_mems (s : State) (u : Nat) : (State.fallDue s u).mems = s.mems := by simp [State.fallDue]

@[simp] theorem State.startTestOrder_canonical (s : State) (r : Req) (v : Nat) (hc : canonical s.mems) :
    canonical (State.startTestOrder s r v).mems := by simp [State.startTestOrder, hc]

@[simp] theorem State.testDone_canonical (s : State) (u : Nat) (failed : Option (Nat × Nat)) (hc : canonical s.mems) :
    canonical (State.testDone s u failed).mems := by
  unfold State.testDone
  split <;> simp [hc]

@[simp] theorem State.stageTest_mems (s : State) : (State.stageTest s).mems = s.mems := by
  unfold State.stageTest
  split <;> simp

@[simp] theorem State.abandonTest_mems (s : State) : (State.abandonTest s).mems = s.mems := by simp [State.abandonTest]

@[simp] theorem State.judgeTest_mems (s : State) : (State.judgeTest s).mems = s.mems := by
  unfold State.judgeTest
  split <;> simp

@[simp] theorem State.returnCluster_canonical (s : State) (t : ClusterTest) (hc : canonical s.mems) :
    canonical (State.returnCluster s t).mems := by simp [State.returnCluster, hc]

@[simp] theorem State.startCluster_mems (s : State) (c : Nat) (down : Bool) : (State.startCluster s c down).mems = s.mems := by
  simp [State.startCluster]

@[simp] theorem State.testBoundary_canonical (s : State) (hc : canonical s.mems) : canonical (State.testBoundary s).mems := by
  unfold State.testBoundary
  repeat' split
  all_goals simp [hc]

@[simp] theorem execClusterTestStepEnd_canonical (c signature : Nat) (memOk : Bool) (detail : Nat) (s : State)
    (hc : canonical s.mems) :
    CanonicalNext (execClusterTestStepEnd c signature memOk detail s) := by
  unfold execClusterTestStepEnd
  dsimp only
  repeat' split
  all_goals simp [hc]

@[simp] theorem State.endPodTest_mems (s : State) (pod : Nat) : (State.endPodTest s pod).mems = s.mems := by
  unfold State.endPodTest
  dsimp only
  repeat' split
  all_goals simp

@[simp] theorem State.endSliceTest_canonical (s : State) (u : Nat) (failed : Option (Nat × Nat)) (hc : canonical s.mems) :
    canonical (State.endSliceTest s u failed).mems := by simp [State.endSliceTest, hc]

@[simp] theorem State.oneSlice_canonical (s : State) (u n : Nat) (hist : Option Nat) (pass : Bool) (detail : Nat)
    (hc : canonical s.mems) :
    canonical (State.oneSlice s u n hist pass detail).mems := by simp [State.oneSlice, hc]

@[simp] theorem execBistSlice_canonical (pass : Bool) (detail : Nat) (s : State) (hc : canonical s.mems) :
    CanonicalNext (execBistSlice pass detail s) := by
  unfold execBistSlice
  dsimp only
  repeat' split
  all_goals simp [hc]

@[simp] theorem State.abandonTests_mems (s : State) : (State.abandonTests s).mems = s.mems := by
  unfold State.abandonTests
  split <;> simp

@[simp] theorem State.overdueReason_mems (s : State) (u : Nat) : (State.overdueReason s u).2.mems = s.mems := by
  unfold State.overdueReason
  dsimp only
  repeat' split
  all_goals simp

@[simp] theorem execTestOverdue_canonical (u : Nat) (s : State) (hc : canonical s.mems) :
    CanonicalNext (execTestOverdue u s) := by
  unfold execTestOverdue
  split <;> simp [hc]

@[simp] theorem State.traceSetting_canonical (s : State) (r : Req) (p sub v : Nat) (hc : canonical s.mems) :
    canonical (State.traceSetting s r p sub v).mems := by simp [State.traceSetting, hc]

@[simp] theorem State.traceBoundary_mems (s : State) : (State.traceBoundary s).mems = s.mems := by simp [State.traceBoundary]

end Sys2Proof.Machine
end

section
/-! SUPPORT. What the ports, the dictionary and the frame boundary do to the two memories. -/

namespace Sys2Proof.Machine

open Sys2Proof

@[simp] theorem State.onBoard_mems (s : State) (f : Board → Board) : (State.onBoard s f).mems = s.mems := by
  simp [State.onBoard]

@[simp] theorem State.takeIn_mems (n : Nat) (s : State) : (State.takeIn n s).mems = s.mems := by
  induction n generalizing s with
  | zero => rfl
  | succ n ih =>
    unfold State.takeIn
    split
    · rfl
    · split
      · rename_i h
        simp [ih, mems_of_eq h]
      · rfl

@[simp] theorem execGet_canonical (clocked : Nat) (s : State) (hc : canonical s.mems) : CanonicalNext (execGet clocked s) := by
  unfold execGet
  repeat' split
  all_goals simp [hc]

@[simp] theorem execAttentionPulseEnd_canonical (s : State) (hc : canonical s.mems) :
    CanonicalNext (execAttentionPulseEnd s) := by
  unfold execAttentionPulseEnd
  split <;> simp [hc]

@[simp] theorem State.debugRead_mems (s : State) (t : DebugTarget) : (State.debugRead s t).2.mems = s.mems := by
  unfold State.debugRead
  repeat' split
  all_goals simp

@[simp] theorem State.debugWrite_canonical (s : State) (t : DebugTarget) (v : Nat) (hc : canonical s.mems) :
    canonical (State.debugWrite s t v).mems := by
  cases t with
  | coreData a => exact ⟨hc.1, mwf_mset 0 _ _ _ hc.2⟩
  | dram a =>
    unfold State.debugWrite
    dsimp only
    split <;> simp [hc]
  | buffer c a => simp [State.debugWrite, hc]
  | _ => exact hc

@[simp] theorem State.setHalt_mems (s : State) (t : DebugTarget) (on : Bool) : (State.setHalt s t on).mems = s.mems := by
  unfold State.setHalt
  split <;> simp

@[simp] theorem State.block_mems (s : State) : (State.block s).mems = s.mems := by simp [State.block]

@[simp] theorem execDebugPortAccess_canonical (target : DebugTarget) (op : DebugOp) (s : State) (hc : canonical s.mems) :
    CanonicalNext (execDebugPortAccess target op s) := by
  unfold execDebugPortAccess
  dsimp only
  repeat' split
  all_goals simp [hc]

@[simp] theorem State.abortPool_mems (s : State) (f : Nat × Nat × List Byte × Bool → Bool) :
    (State.abortPool s f).mems = s.mems := by simp [State.abortPool]

@[simp] theorem State.shiftTimers_mems (s : State) (u t : Nat) : (State.shiftTimers s u t).mems = s.mems := by
  simp [State.shiftTimers]

@[simp] theorem State.setPort_mems (s : State) (u st : Nat) : (State.setPort s u st).mems = s.mems := by
  unfold State.setPort
  dsimp only
  repeat' split
  all_goals simp

@[simp] theorem State.portClearOrder_canonical (s : State) (r : Req) (u v : Nat) (hc : canonical s.mems) :
    canonical (State.portClearOrder s r u v).mems := by simp [State.portClearOrder, hc]

@[simp] theorem State.clearPort_mems (s : State) (u : Nat) : (State.clearPort s u).mems = s.mems := by simp [State.clearPort]

@[simp] theorem State.portBoundary_mems (s : State) : (State.portBoundary s).mems = s.mems := by simp [State.portBoundary]

@[simp] theorem State.bindingSetting_canonical (s : State) (r : Req) (p sub v : Nat) (hc : canonical s.mems) :
    canonical (State.bindingSetting s r p sub v).mems := by simp [State.bindingSetting, hc]

@[simp] theorem State.dropBinding_mems (s : State) (p : Nat) : (State.dropBinding s p).mems = s.mems := by
  simp [State.dropBinding]

@[simp] theorem State.bindingBoundary_mems (s : State) (old : List (Nat × Nat)) :
    (State.bindingBoundary s old).mems = s.mems := by simp [State.bindingBoundary]

@[simp] theorem State.quickAnswer_mems (s : State) (port party : Nat) (msg : List Byte) (st : Nat) :
    (State.quickAnswer s port party msg st).mems = s.mems := by simp [State.quickAnswer]

@[simp] theorem State.receive_mems (s : State) (port party : Nat) (msg : List Byte) :
    (State.receive s port party msg).mems = s.mems := by
  unfold State.receive
  repeat' split
  all_goals simp

theorem State.acceptPn_mems (s : State) (p an : Nat) (ok : Bool) (pn : Nat) {t : State}
    (h : State.acceptPn s p an ok pn = some t) : t.mems = s.mems := by
  unfold State.acceptPn at h
  repeat' split at h
  all_goals cases h <;> simp

@[simp] theorem State.answerIp_mems (s : State) (p : Nat) (x : RxFrame) : (State.answerIp s p x).mems = s.mems := by
  unfold State.answerIp
  split
  · rename_i t ht
    simp [State.transmit_mems _ _ _ ht]
  · simp

@[simp] theorem execFrameReceived_canonical (x : RxFrame) (s : State) (hc : canonical s.mems) :
    CanonicalNext (execFrameReceived x s) := by
  refine (canonicalNext_next _).2 ?_
  split
  · exact hc
  · extract_lets s1
    have h1 : s1.mems = s.mems := by simp [s1]
    split
    · simp [h1, hc]
    · split
      · simp [h1, hc]
      · split
        · simp [h1, hc]
        · split
          · simp [h1, hc]
          · rename_i t ht
            have ht : canonical (State.mems t) := by rwa [State.acceptPn_mems _ _ _ _ _ ht, h1]
            split
            · simpa using ht
            · split <;> simp [ht]

@[simp] theorem State.classifierOrder_canonical (s : State) (r : Req) (data : List Byte) (hc : canonical s.mems) :
    canonical (State.classifierOrder s r data).mems := by simp [State.classifierOrder, hc]

@[simp] theorem State.passOn_mems (s : State) (port party : Nat) (msg : List Byte) (low : Bool) :
    (State.passOn s port party msg low).mems = s.mems := by
  unfold State.passOn
  dsimp only
  repeat' split
  all_goals simp

@[simp] theorem State.receiveBoard_mems (s : State) (party : Nat) (msg : List Byte) :
    (State.receiveBoard s party msg).mems = s.mems := by
  unfold State.receiveBoard
  repeat' split
  all_goals simp

@[simp] theorem execMailboxTake_canonical (s : State) (hc : canonical s.mems) : CanonicalNext (execMailboxTake s) := by
  unfold execMailboxTake
  dsimp only
  repeat' split
  all_goals simp [hc]

@[simp] theorem State.verdict_mems (s : State) (v : Nat) : (State.verdict s v).mems = s.mems := by
  unfold State.verdict
  repeat' split
  all_goals simp

@[simp] theorem State.countVerdict_mems (s : State) (w : Nat) : (State.countVerdict s w).mems = s.mems := by
  simp [State.countVerdict]

@[simp] theorem execClassifierRun_canonical (s : State) (hc : canonical s.mems) : CanonicalNext (execClassifierRun s) := by
  unfold execClassifierRun
  dsimp only
  repeat' split
  all_goals simp [hc]

@[simp] theorem State.queueDatagram_mems (s : State) (u bytes : Nat) : (State.queueDatagram s u bytes).mems = s.mems := by
  simp [State.queueDatagram]

@[simp] theorem State.emitFirst_mems (s : State) (port bytes : Nat) (m : OutMsg) :
    (State.emitFirst s port bytes m).mems = s.mems := by simp [State.emitFirst]

theorem State.sendOne_mems (s : State) (p : Nat) (e : Event) {t : State} (h : State.sendOne s p e = some t) :
    t.mems = s.mems := by
  unfold State.sendOne at h
  split at h
  · split at h
    · obtain ⟨u, hu, rfl⟩ := Option.map_eq_some_iff.1 h
      simp [State.transmit_mems _ _ _ hu]
    · cases h
  · split at h
    · cases h
    · split at h
      · cases h
      · split at h
        · split at h
          · rename_i hu
            cases h
            simp [mems_of_eq hu]
          · cases h
        · obtain ⟨u, hu, rfl⟩ := Option.map_eq_some_iff.1 h
          simp [State.transmit_mems _ _ _ hu]

@[simp] theorem State.noteSent_mems (s : State) (p : Nat) (e : Event) : (State.noteSent s p e).mems = s.mems := by
  simp [State.noteSent]

@[simp] theorem State.sendEvents_mems (s : State) (p : Nat) (again : Bool) : (State.sendEvents s p again).mems = s.mems := by
  refine foldl_mems _ (fun t e => ?_) _ _
  have hone (t u : State) (h : t.sendOne p e = some u) : (u.noteSent p e).mems = t.mems := by
    simp [State.sendOne_mems _ _ _ h]
  extract_lets up
  split
  · split
    · exact hone _ _ ‹_›
    · rfl
  · split
    · rfl
    · split
      · simp
      · split
        · exact hone _ _ ‹_›
        · rfl

@[simp] theorem State.flushEvents_mems (s : State) : (State.flushEvents s).mems = s.mems := by simp [State.flushEvents]

@[simp] theorem State.manage_mems (s : State) (r : Req) (op st : Nat) (data : List Byte) :
    (State.manage s r op st data).mems = s.mems := by simp [State.manage]

@[simp] theorem State.recordLost_mems (s : State) (p : Nat) (full : Bool) : (State.recordLost s p full).mems = s.mems := by
  unfold State.recordLost
  repeat' split
  all_goals simp

@[simp] theorem State.sendParts_mems (s : State) (p port stream seq total : Nat) (xs : List (Nat × List Byte)) :
    (State.sendParts s p port stream seq total xs).mems = s.mems := by
  induction xs generalizing s with
  | nil => rfl
  | cons x xs ih =>
    unfold State.sendParts
    split
    · simp
    · rename_i t ht
      simp [ih, State.transmit_mems _ _ _ ht]

@[simp] theorem State.sendMaelelo_mems (s : State) (p stream seq : Nat) (bytes : List Byte) :
    (State.sendMaelelo s p stream seq bytes).mems = s.mems := by
  unfold State.sendMaelelo
  split
  · simp
  · split
    · simp
    · split
      · rename_i h
        simp [mems_of_eq h]
      · simp
  · split
    · simp
    · dsimp only
      simp

@[simp] theorem State.canDrain_mems (s : State) : (State.canDrain s).mems = s.mems := by simp [State.canDrain]

@[simp] theorem State.sendCan_mems (s : State) (stream : Nat) (segs : List (Nat × Nat × List Byte)) :
    (State.sendCan s stream segs).mems = s.mems := by simp [State.sendCan]

@[simp] theorem State.sendRecord_canonical (s : State) (p : Nat) (d : StreamD) (bytes : List Byte) (hc : canonical s.mems) :
    canonical (State.sendRecord s p d bytes).mems := by
  unfold State.sendRecord
  dsimp only
  repeat' split
  all_goals simp [hc]

@[simp] theorem State.queueHolds_mems (s : State) (u : Nat) : (State.queueHolds s u).2.mems = s.mems := by
  unfold State.queueHolds
  dsimp only
  repeat' split
  all_goals simp

@[simp] theorem State.countBacklogs_mems (s : State) : (State.countBacklogs s).mems = s.mems := by simp [State.countBacklogs]

@[simp] theorem State.measureXtal_mems (s : State) (offset : Int) : (State.measureXtal s offset).mems = s.mems := by
  simp [State.measureXtal]

@[simp] theorem execSync_canonical (src gm origin every : Nat) (peer : Nat × Nat × Nat × Nat) (s : State)
    (hc : canonical s.mems) :
    CanonicalNext (execSync src gm origin every peer s) := by
  unfold execSync
  split <;> simp [hc]

@[simp] theorem State.onDict_mems (s : State) (f : Dict → Dict) : (State.onDict s f).mems = s.mems := by simp [State.onDict]

@[simp] theorem State.periodSetting_canonical (s : State) (r : Req) (v : Nat) (hc : canonical s.mems) :
    canonical (State.periodSetting s r v).mems := by simp [State.periodSetting, hc]

@[simp] theorem State.intakeSetting_canonical (s : State) (r : Req) (v : Nat) (hc : canonical s.mems) :
    canonical (State.intakeSetting s r v).mems := by simp [State.intakeSetting, hc]

@[simp] theorem State.timingClearOrder_canonical (s : State) (r : Req) (v : Nat) (hc : canonical s.mems) :
    canonical (State.timingClearOrder s r v).mems := by simp [State.timingClearOrder, hc]

@[simp] theorem State.clockOrder_canonical (s : State) (r : Req) (v : Nat) (hc : canonical s.mems) :
    canonical (State.clockOrder s r v).mems := by simp [State.clockOrder, hc]

@[simp] theorem State.restoreOrder_canonical (s : State) (r : Req) (v : Nat) (hc : canonical s.mems) :
    canonical (State.restoreOrder s r v).mems := by simp [State.restoreOrder, hc]

@[simp] theorem State.clearLogOrder_canonical (s : State) (r : Req) (v : Nat) (hc : canonical s.mems) :
    canonical (State.clearLogOrder s r v).mems := by simp [State.clearLogOrder, hc]

@[simp] theorem State.takeSnap_mems (s : State) (p k : Nat) (data : List Byte) : (State.takeSnap s p k data).mems = s.mems := by
  simp [State.takeSnap]

@[simp] theorem State.readDomain_canonical (s : State) (r : Req) (index sub offset : Nat) (hc : canonical s.mems) :
    canonical (State.readDomain s r index sub offset).mems := by
  unfold State.readDomain
  dsimp only
  repeat' split
  all_goals simp [hc]

@[simp] theorem State.readWhole_canonical (s : State) (r : Req) (index sub : Nat) (data : List Byte) (hc : canonical s.mems) :
    canonical (State.readWhole s r index sub data).mems := by simp [State.readWhole, hc]

@[simp] theorem State.readChallenge_canonical (s : State) (r : Req) (hc : canonical s.mems) :
    canonical (State.readChallenge s r).mems := by
  unfold State.readChallenge
  split <;> simp [hc]

@[simp] theorem State.readNow_canonical (s : State) (r : Req) (index sub offset : Nat) (hc : canonical s.mems) :
    canonical (State.readNow s r index sub offset).mems := by
  unfold State.readNow
  repeat' split
  all_goals simp [hc]

@[simp] theorem State.readEntry_canonical (s : State) (r : Req) (index sub offset : Nat) (hc : canonical s.mems) :
    canonical (State.readEntry s r index sub offset).mems := by simp [State.readEntry, hc]

@[simp] theorem State.answerHeld_canonical (s : State) (hc : canonical s.mems) : canonical (State.answerHeld s).mems := by
  unfold State.answerHeld
  exact foldl_canonical _ (fun _ _ hc => by simp [hc]) _ _ hc

@[simp] theorem State.selectorSetting_canonical (s : State) (r : Req) (index sub v : Nat) (hc : canonical s.mems) :
    canonical (State.selectorSetting s r index sub v).mems := by simp [State.selectorSetting, hc]

@[simp] theorem State.writeNumber_canonical (s : State) (r : Req) (index sub v : Nat) (hc : canonical s.mems) :
    canonical (State.writeNumber s r index sub v).mems := by
  unfold State.writeNumber
  repeat' (first | split | simp [hc])

@[simp] theorem State.bytesSetting_canonical (s : State) (r : Req) (index sub : Nat) (data : List Byte)
    (hc : canonical s.mems) :
    canonical (State.bytesSetting s r index sub data).mems := by
  unfold State.bytesSetting
  split <;> simp [hc]

theorem State.orderDomain_canonical (s : State) (r : Req) (index sub : Nat) (data : List Byte) {t : State}
    (h : s.orderDomain r index sub data = some t) (hc : canonical s.mems) :
    canonical t.mems := by
  unfold State.orderDomain at h
  dsimp only at h
  split at h
  all_goals cases h <;> simp [hc]

@[simp] theorem State.writeBytes_canonical (s : State) (r : Req) (index sub : Nat) (data : List Byte) (hc : canonical s.mems) :
    canonical (State.writeBytes s r index sub data).mems := by
  unfold State.writeBytes
  split
  · simp [hc]
  · split
    · exact State.orderDomain_canonical _ _ _ _ _ ‹_› hc
    · repeat' split
      all_goals simp [hc]

@[simp] theorem State.writeWhole_canonical (s : State) (r : Req) (index sub : Nat) (data : List Byte) (hc : canonical s.mems) :
    canonical (State.writeWhole s r index sub data).mems := by
  unfold State.writeWhole
  repeat' split
  all_goals simp [hc]

@[simp] theorem State.dropStaging_mems (s : State) (p : Nat) : (State.dropStaging s p).mems = s.mems := by
  simp [State.dropStaging]

@[simp] theorem State.writePart_canonical (s : State) (r : Req) (index sub offset st : Nat) (data : List Byte) (x : Staging)
    (hc : canonical s.mems) :
    canonical (State.writePart s r index sub offset st data x).mems := by simp [State.writePart, hc]

@[simp] theorem State.declare_canonical (s : State) (r : Req) (index sub st : Nat) (data : List Byte) (hc : canonical s.mems) :
    canonical (State.declare s r index sub st data).mems := by simp [State.declare, hc]

@[simp] theorem State.writeDomain_canonical (s : State) (r : Req) (index sub offset : Nat) (data : List Byte)
    (hc : canonical s.mems) :
    canonical (State.writeDomain s r index sub offset data).mems := by
  unfold State.writeDomain
  dsimp only
  repeat' split
  all_goals simp [hc]

@[simp] theorem State.writeEntry_canonical (s : State) (r : Req) (index sub offset : Nat) (data : List Byte)
    (hc : canonical s.mems) :
    canonical (State.writeEntry s r index sub offset data).mems := by
  unfold State.writeEntry
  split <;> simp [hc]

@[simp] theorem State.countCommit_mems (s : State) : (State.countCommit s).mems = s.mems := by simp [State.countCommit]

@[simp] theorem execVaultCommit_canonical (s : State) (hc : canonical s.mems) : CanonicalNext (execVaultCommit s) := by
  unfold execVaultCommit
  repeat' split
  all_goals simp [hc]

@[simp] theorem execDisagree_canonical (index sub : Nat) (s : State) (hc : canonical s.mems) :
    CanonicalNext (execDisagree index sub s) := by
  unfold execDisagree
  dsimp only
  repeat' split
  all_goals simp [hc]

@[simp] theorem State.usdo_canonical (s : State) (node : Nat) (f : State → Nat → State)
    (h_f : ∀ s n, canonical s.mems → canonical (f s n).mems) (hc : canonical s.mems) :
    canonical (State.usdo s node f).mems := by
  unfold State.usdo
  dsimp only
  repeat' split
  all_goals simp [hc, h_f]

@[simp] theorem State.endUsdo_mems (s : State) (node : Nat) : (State.endUsdo s node).mems = s.mems := by simp [State.endUsdo]

@[simp] theorem State.usdoAccess_canonical (s : State) (p op index sub : Nat) (data : List Byte) (f : State → State)
    (h : ∀ t, canonical t.mems → canonical (f t).mems) (hc : canonical s.mems) :
    canonical (State.usdoAccess s p op index sub data f).mems := by
  unfold State.usdoAccess
  dsimp only
  repeat' split
  all_goals simp [hc, h]

@[simp] theorem State.usdoSegment_mems (s : State) (node : Nat) : (State.usdoSegment s node).mems = s.mems := by
  unfold State.usdoSegment
  split <;> simp

@[simp] theorem execUsdoUpload_canonical (node index sub service : Nat) (s : State) (hc : canonical s.mems) :
    CanonicalNext (execUsdoUpload node index sub service s) := by
  refine (canonicalNext_next _).2 (State.usdo_canonical _ _ _ (fun t p ht => ?_) hc)
  split
  · exact State.usdoAccess_canonical _ _ _ _ _ _ _ (fun u hu => State.readEntry_canonical _ _ _ _ _ hu) (by simp [ht])
  all_goals simp [ht]

@[simp] theorem execUsdoDownload_canonical (node index sub : Nat) (first last : Bool) (data : List Byte) (s : State)
    (hc : canonical s.mems) :
    CanonicalNext (execUsdoDownload node index sub first last data s) := by
  refine (canonicalNext_next _).2 (State.usdo_canonical _ _ _ (fun t p ht => ?_) hc)
  dsimp only
  split
  · simp [ht]
  · split
    · exact State.usdoAccess_canonical _ _ _ _ _ _ _ (fun v hv => State.writeWhole_canonical _ _ _ _ _ hv) (by simp [ht])
    · simp [ht]

@[simp] theorem State.onFrame_mems (s : State) (f : Frame → Frame) : (State.onFrame s f).mems = s.mems := by
  simp [State.onFrame]

@[simp] theorem State.boundaryOp_canonical (s : State) (op : BoundaryOp) (hc : canonical s.mems) :
    canonical (State.boundaryOp s op).mems := by
  unfold State.boundaryOp
  split <;> simp [hc]

@[simp] theorem State.boundaryOps_canonical (s : State) (hc : canonical s.mems) : canonical (State.boundaryOps s).mems := by
  unfold State.boundaryOps
  exact foldl_canonical _ (fun _ _ hc => by simp [hc]) _ _ hc

@[simp] theorem State.newFrame_mems (s : State) (t : Nat) (flags : BitVec 16) (lag : Nat) (angle : Int) :
    (State.newFrame s t flags lag angle).mems = s.mems := by simp [State.newFrame]

@[simp] theorem State.powerBoundary_mems (s : State) : (State.powerBoundary s).mems = s.mems := by
  unfold State.powerBoundary
  split <;> simp

@[simp] theorem State.firstFrame_mems (s : State) : (State.firstFrame s).mems = s.mems := by simp [State.firstFrame]

@[simp] theorem State.tierBoundary_mems (s : State) : (State.tierBoundary s).mems = s.mems := by
  unfold State.tierBoundary
  dsimp only
  repeat' split
  all_goals simp

@[simp] theorem State.ballastBoundary_mems (s : State) : (State.ballastBoundary s).mems = s.mems := by
  simp [State.ballastBoundary]

@[simp] theorem State.checkBoundary_mems (s : State) : (State.checkBoundary s).mems = s.mems := by simp [State.checkBoundary]

@[simp] theorem State.jobBoundary_mems (s : State) : (State.jobBoundary s).mems = s.mems := by simp [State.jobBoundary]

@[simp] theorem State.freeSlots_mems (s : State) : (State.freeSlots s).mems = s.mems := by simp [State.freeSlots]

@[simp] theorem State.availBoundary_mems (s : State) : (State.availBoundary s).mems = s.mems := by simp [State.availBoundary]

@[simp] theorem State.showBoundary_mems (s : State) : (State.showBoundary s).mems = s.mems := by simp [State.showBoundary]

@[simp] theorem State.rebind_mems (s : State) (was : List (Nat × Nat × Nat)) : (State.rebind s was).mems = s.mems := by
  simp [State.rebind]

@[simp] theorem State.partyBoundary_canonical (s : State) (old : List (Nat × Nat)) (hc : canonical s.mems) :
    canonical (State.partyBoundary s old).mems := by
  unfold State.partyBoundary
  extract_lets s1
  have h1 : canonical s1.mems := by simp [s1, hc]
  have h2 : canonical (s1.boundaryOps.rebind ((List.range 16).map s1.boundTo)).createRoots.mems := by simp [h1]
  exact State.planBoundary_canonical _ (by simpa using h2)

@[simp] theorem State.podBoundary_mems (s : State) (old : List (Nat × Nat)) : (State.podBoundary s old).mems = s.mems := by
  simp [State.podBoundary]

@[simp] theorem State.clusterBoundary_canonical (s : State) (hc : canonical s.mems) :
    canonical (State.clusterBoundary s).mems := by simp [State.clusterBoundary, hc]

@[simp] theorem State.boundary_canonical (s : State) (old : List (Nat × Nat)) (hc : canonical s.mems) :
    canonical (State.boundary s old).mems := by simp [State.boundary, hc]

@[simp] theorem State.startFrame_canonical (s : State) (t : Nat) (flags : BitVec 16) (lag : Nat) (angle : Int)
    (hc : canonical s.mems) :
    canonical (State.startFrame s t flags lag angle).mems := by simp [State.startFrame, hc]

@[simp] theorem State.angleArrives_canonical (s : State) (t : Nat) (count : Int) (hc : canonical s.mems) :
    canonical (State.angleArrives s t count).mems := by simp [State.angleArrives, hc]

@[simp] theorem State.countEdge_canonical (s : State) (q : Nat) (x : Nat × Bool × Bool) (hc : canonical s.mems) :
    canonical (State.countEdge s q x).mems := by
  unfold State.countEdge
  dsimp only
  repeat' split
  all_goals simp [hc]

@[simp] theorem execQEdge_canonical (q : Nat) (a b : Bool) (s : State) (hc : canonical s.mems) :
    CanonicalNext (execQEdge q a b s) := by
  refine (canonicalNext_next _).2 ?_
  split
  · exact hc
  · exact foldl_canonical _ (fun t x ht => State.countEdge_canonical _ _ _ ht) _ _ (by simp [hc])

@[simp] theorem execAngleLag_canonical (s : State) (hc : canonical s.mems) : CanonicalNext (execAngleLag s) := by
  unfold execAngleLag
  split <;> simp [hc]

@[simp] theorem State.clearForWindow_mems (s : State) (p c : Nat) : (State.clearForWindow s p c).mems = s.mems := by
  simp [State.clearForWindow]

@[simp] theorem execWindowClear_canonical (s : State) (hc : canonical s.mems) : CanonicalNext (execWindowClear s) := by
  unfold execWindowClear
  split <;> simp [hc]

@[simp] theorem State.enterSegment_mems (s : State) (g pc : Nat) : (State.enterSegment s g pc).mems = s.mems := by
  simp [State.enterSegment]

@[simp] theorem execSegmentEntry_canonical (s : State) (hc : canonical s.mems) : CanonicalNext (execSegmentEntry s) := by
  unfold execSegmentEntry
  repeat' split
  all_goals simp [hc]

@[simp] theorem State.cutCluster_canonical (s : State) (c : Nat) (hc : canonical s.mems) :
    canonical (State.cutCluster s c).mems := by simp [State.cutCluster, hc]

@[simp] theorem State.countOverrun_mems (s : State) (g : Nat) : (State.countOverrun s g).mems = s.mems := by
  simp [State.countOverrun]

@[simp] theorem execWindowEnd_canonical (s : State) (hc : canonical s.mems) : CanonicalNext (execWindowEnd s) := by
  refine (canonicalNext_next _).2 ?_
  split
  · split
    · split
      · exact hc
      · extract_lets g s1 t1 t2
        have h1 : canonical t1.mems := by
          show canonical (State.mems (if _ then _ else _))
          split <;> simp [s1, hc]
        have h2 : canonical t2.mems :=
          State.settleStop_canonical _ (foldl_canonical _ State.cutCluster_canonical _ _ h1)
        simp [h2]
    · exact hc
  · exact hc

@[simp] theorem State.publishOne_canonical (s : State) (img : SegImage) (d : StreamD) (hc : canonical s.mems) :
    canonical (State.publishOne s img d).mems := by
  unfold State.publishOne
  dsimp only
  repeat' split
  all_goals simp [hc]

@[simp] theorem State.queueFaults_mems (s : State) : (State.queueFaults s).mems = s.mems := by simp [State.queueFaults]

@[simp] theorem State.announceTier_mems (s : State) : (State.announceTier s).mems = s.mems := by
  unfold State.announceTier
  split <;> simp

@[simp] theorem execPublish_canonical (s : State) (hc : canonical s.mems) : CanonicalNext (execPublish s) := by
  refine (canonicalNext_next _).2 ?_
  split
  · exact hc
  · dsimp only
    split
    · simp [hc]
    · rw [State.flushEvents_mems, State.queueFaults_mems, State.announceTier_mems]
      exact foldl_canonical _ (fun t x ht => State.publishOne_canonical _ _ _ ht) _ _ (by simp [hc])

@[simp] theorem State.holdSlice_mems (s : State) (pod : Option Nat) : (State.holdSlice s pod).mems = s.mems := by
  unfold State.holdSlice
  split <;> simp

@[simp] theorem execSafeEntry_canonical (s : State) (hc : canonical s.mems) : CanonicalNext (execSafeEntry s) := by
  unfold execSafeEntry
  split <;> simp [hc]

@[simp] theorem execCoolDown_canonical (s : State) (hc : canonical s.mems) : CanonicalNext (execCoolDown s) := by
  unfold execCoolDown
  split <;> simp [hc]

end Sys2Proof.Machine
end

section
/-! PROOF. Every command and every step keeps both memories in canonical form. -/

namespace Sys2Proof.Machine

open Sys2Proof

/-- Every command answers with a next state whose memories are canonical again: a command that only changes registers of the
core or of an engine, or only calls one operation, by its definition, each other one by its own law. -/
theorem exec_canonical (c : Instr) (s : State) (hc : canonical s.mems) : CanonicalNext (exec c s) := by
  cases c <;> simp only [exec]
  all_goals simp [hc,
    execAdd, execSub, execAnd, execOr, execXor, execShl, execShr, execSar, execSlt, execSltu, execMin, execMax, execAddi,
    execAndi, execOri, execShli, execShri, execSari, execSlti, execMovi, execMovhi, execLdw, execLdhu, execLdbu, execStw,
    execSth, execStb, execMul, execMulh, execMulhu, execIssue, execIssuei, execHset, execHseti, execHadd, execHget, execStat,
    execBr, execBeq, execBne, execBlt, execBge, execPipNop, execPipAdd, execPipSub, execPipAnd, execPipOr, execPipXor,
    execPipShl, execPipShr, execPipSar, execPipMul, execPipMin, execPipMax, execPipSlt, execPipAddi, execPipAndi, execPipOri,
    execPipShli, execPipShri, execPipSari, execLui, execPipLdw, execLdh, execLdb, execPipStw, execPipSth, execPipStb,
    execPipBeq, execPipBne, execPipBlt, execPipBge, execDbnz, execStepLimit, execTimeLimit, execCalibrateNow, execAfeCalDue,
    execAfeCalibrateNow, execReferenceMeasure, execOscillatorTrim, execCompensationEval, execTrimRestore, execProgramComplete,
    execRotationIntervalWrite, execRotateNow, execLoadRequest, execUpdateRequest, execConsolidate, execAbort, execUnload,
    execFadd, execCas, execPoolMax, execReduce, execLeaseExpiry, execRoleWrite, execAllotmentWrite, execRevoke, execCmdNop,
    execJobPause, execJobResume, execMirrorTableWrite, execOverloadStart, execSampleReady, execBiasStateChange,
    execChannelConfigWrite, execPodFence, execPodServiceWrite, execPodClear, execWinnowRead, execDomainEnableWrite,
    execClusterEnableWrite, execPowerStateWrite, execSensorReading, execClusterClear, execEnergyEvaluation, execStoreSample,
    execChargeTermination, execChargerRestart, execChargeTimeout, execReferencePulse, execFallback, execKeepRegionsWrite,
    execHoldUpPipImageWrite, execPlanKeyInstall, execSakInstall, execPoolKeyInstall, execFirmwareImage, execActivateSlot,
    execLifecycleRequest, execDebugResponse, execDebugClose, execDebugExpiry, execNrst, execNrstRelease, execPowerOn,
    execHuskSupplyLoss, execCrystalStop, execVaultSave, execHard, execRailTimeout, execTestDue, execStartTest,
    execTraceConfigWrite, execStatus, execPut, execReset, execBadOp, execLinkChange, execJabber, execReceiveJabber,
    execPortClear, execPlcaInactive, execBeacon, execBindingWrite, execClassifierImageWrite, execEventResend, execAck,
    execHello, execEcho, execBye, execDiscover, execSyncLoss, execNmtCommand, execHeartbeat, execFramePeriodWrite,
    execIntakeLengthWrite, execTimingClear, execRestoreDefaults, execClearLog, execDebugChallenge, execOdRead, execOdWrite,
    execSnapshotExpiry, execStagingExpiry, execUsdoTimeout, execTick, execPtpTick, execSyncInEdge, execSyncMiss,
    execAngleStall, execTimingFault, execKeep, execKeepPartySlot, execRotationSlice, execSproutStageEnd]

/-- A step keeps canonical memories: it takes a command from the queue, or time passes. -/
theorem step_canonical {s t : State} (hc : canonical s.mems) (h : step s = .next t) : canonical t.mems := by
  unfold step at h
  split at h
  next c rest _ =>
    obtain ⟨u, hu, hcan⟩ := exec_canonical c { s with pending := rest } hc
    obtain rfl : u = t := by simpa [hu] using h
    exact hcan
  next =>
    obtain rfl : s.idle = t := by simpa using h
    exact State.idle_canonical s hc

/-- Settles O59: both memories of a state are canonical together, and a step keeps that. -/
theorem everyStepKeepsMemoryCanonical : Obligations.EveryStepKeepsMemoryCanonical := by
  unfold Obligations.EveryStepKeepsMemoryCanonical
  intro s t hpool hdata h
  exact step_canonical ⟨hpool, hdata⟩ h

end Sys2Proof.Machine
end

section
/-! SUPPORT. The slots of a bundle: a form that a slot refuses, the rows of the arithmetic, the data address, queued moves. -/

namespace Sys2Proof.Machine

open Sys2Proof

/-- A slot whose form is not in order raises ILLEGAL_OP for the segment that runs. -/
theorem State.slot_false {s : State} {g : Nat} (hseg : s.coreSeg = some g) (f : State → Nat → State) :
    s.slot false f = .next (s.coreStop excIllegal) := by
  unfold State.slot
  rw [hseg]
  rfl

theorem exec_of_refused_slot {s : State} {g : Nat} {i : Instr} {ok : Bool} {f : State → Nat → State}
    (hi : exec i s = s.slot ok f)
    (hseg : s.coreSeg = some g) (hok : ok = false) : exec i s = .next (s.coreStop excIllegal) := by
  rw [hi, hok, State.slot_false hseg]

/-! The arithmetic of Table CORE-4 as the rows state it -/

theorem sltWord_eq : sltWord = fun a b => if a.toInt < b.toInt then 1 else 0 := by
  funext a b
  simp [sltWord, BitVec.slt]

theorem sltuWord_eq : sltuWord = fun a b => if a.toNat < b.toNat then 1 else 0 := by
  funext a b
  simp [sltuWord, BitVec.ult]

theorem minWord_eq : minWord = fun a b => if a.toInt ≤ b.toInt then a else b := by
  funext a b
  rcases lt_trichotomy a.toInt b.toInt with h | h | h
  · simp [minWord, BitVec.slt, h, h.le]
  · simp [minWord, BitVec.toInt_inj.1 h]
  · simp [minWord, BitVec.slt, h.not_gt, h.not_ge]

theorem maxWord_eq : maxWord = fun a b => if a.toInt ≤ b.toInt then b else a := by
  funext a b
  rcases lt_trichotomy a.toInt b.toInt with h | h | h
  · simp [maxWord, BitVec.slt, h, h.le]
  · simp [maxWord, BitVec.toInt_inj.1 h]
  · simp [maxWord, BitVec.slt, h.not_gt, h.not_ge]

/-- The effect of MOVHI: the low half of its register, the immediate's low half above it. -/
def movhiWord (a b : Word) : Word := (a &&& 0xFFFF#32) ||| (b <<< 16)

theorem movhiWord_eq : movhiWord = fun a b => b.extractLsb' 0 16 ++ a.extractLsb' 0 16 := by
  funext a b
  unfold movhiWord
  refine BitVec.eq_of_getLsbD_eq fun i hi => ?_
  have hmask : (0xFFFF#32).getLsbD i = decide (i < 16) := by
    revert i
    decide
  rw [BitVec.getLsbD_or, BitVec.getLsbD_and, hmask, BitVec.getLsbD_shiftLeft, BitVec.getLsbD_append, BitVec.getLsbD_extractLsb',
    BitVec.getLsbD_extractLsb']
  by_cases h : i < 16
  · simp [h]
  · have hsub : i - 16 < 16 := by omega
    simp [h, hi, hsub]

/-- The upper half of a signed product by division. -/
theorem mulh_eq (p : Int) : BitVec.ofInt 32 (p / 4294967296) = (BitVec.ofInt 64 p).extractLsb' 32 32 := by
  refine BitVec.eq_of_toNat_eq ?_
  rw [BitVec.extractLsb'_toNat, BitVec.toNat_ofInt, BitVec.toNat_ofInt, Nat.shiftRight_eq_div_pow]
  omega

theorem mulhu_eq (p : Nat) (h : p < 2 ^ 64) : BitVec.ofNat 32 (p / 4294967296) = (BitVec.ofNat 64 p).extractLsb' 32 32 := by
  refine BitVec.eq_of_toNat_eq ?_
  rw [BitVec.extractLsb'_toNat, BitVec.toNat_ofNat, BitVec.toNat_ofNat, Nat.shiftRight_eq_div_pow, Nat.mod_eq_of_lt h]

/-- A register form of the table is the shared register form of slots A and B with the row's operation. -/
theorem exec_coreRegisterRow : ∀ x ∈ coreRegisterRows, ∀ (sl : Slot) (f : BitVec 40) (s : State),
    exec (x.1 sl f) s = s.aluReg sl f x.2 := by
  simp only [coreRegisterRows, ← sltWord_eq, ← sltuWord_eq, ← minWord_eq, ← maxWord_eq, List.forall_mem_cons]
  refine ⟨?_, ?_, ?_, ?_, ?_, ?_, ?_, ?_, ?_, ?_, ?_, ?_, by simp⟩ <;> exact fun _ _ _ => rfl

theorem exec_coreImmediateRow : ∀ x ∈ coreImmediateRows, ∀ (sl : Slot) (f : BitVec 40) (s : State),
    exec (x.1 sl f) s = s.aluImm sl f x.2 := by
  simp only [coreImmediateRows, ← sltWord_eq, ← movhiWord_eq, List.forall_mem_cons]
  refine ⟨?_, ?_, ?_, ?_, ?_, ?_, ?_, ?_, ?_, by simp⟩ <;> exact fun _ _ _ => rfl

theorem exec_coreMultiplyRow : ∀ x ∈ coreMultiplyRows, ∀ (sl : Slot) (f : BitVec 40) (s : State),
    exec (x.1 sl f) s = s.mulReg sl f x.2 := by
  have hmul : (fun a b : Word => BitVec.ofInt 32 (a.toInt * b.toInt)) = fun a b => a * b := by
    funext a b
    rw [BitVec.ofInt_mul, BitVec.ofInt_toInt, BitVec.ofInt_toInt]
  have hmulhu : (fun a b : Word => (BitVec.ofNat 64 (a.toNat * b.toNat)).extractLsb' 32 32) =
      fun a b => BitVec.ofNat 32 (a.toNat * b.toNat / 4294967296) := by
    funext a b
    exact (mulhu_eq _ (by have := Nat.mul_lt_mul'' a.isLt b.isLt; simpa using this)).symm
  simp only [coreMultiplyRows, hmul, hmulhu, ← mulh_eq, List.forall_mem_cons]
  refine ⟨?_, ?_, ?_, by simp⟩ <;> exact fun _ _ _ => rfl

/-! Loads and stores (R122, R125) -/

theorem exec_coreLoadRow : ∀ x ∈ coreLoadRows, ∀ (sl : Slot) (f : BitVec 40) (s : State),
    exec (x.1 sl f) s = s.load sl f x.2 := by
  simp only [coreLoadRows, List.forall_mem_cons]
  refine ⟨?_, ?_, ?_, by simp⟩ <;> exact fun _ _ _ => rfl

theorem exec_coreStoreRow : ∀ x ∈ coreStoreRows, ∀ (sl : Slot) (f : BitVec 40) (s : State),
    exec (x.1 sl f) s = s.store_ sl f x.2 := by
  simp only [coreStoreRows, List.forall_mem_cons]
  refine ⟨?_, ?_, ?_, by simp⟩ <;> exact fun _ _ _ => rfl

section DataAddress
variable {s : State} {g : Nat} {img : SegImage} {f : BitVec 40} {n : Nat}

theorem State.dataAddr_of_fits (himg : s.segImg g = some img) (hfits : coreOffset s f + n ≤ img.dataLen)
    (haligned : coreOffset s f % n = 0) : s.dataAddr g f n = .ok (img.dataBase + coreOffset s f) := by
  unfold State.dataAddr
  rw [himg]
  exact (if_neg (Nat.not_lt.2 hfits)).trans (if_neg (not_not.2 haligned))

theorem State.dataAddr_of_beyond (himg : s.segImg g = some img) (hbeyond : img.dataLen < coreOffset s f + n) :
    s.dataAddr g f n = .error excDmemBound := by
  unfold State.dataAddr
  rw [himg]
  exact if_pos hbeyond

theorem State.dataAddr_of_misaligned (himg : s.segImg g = some img) (hfits : coreOffset s f + n ≤ img.dataLen)
    (hmisaligned : coreOffset s f % n ≠ 0) : s.dataAddr g f n = .error excDmemAlign := by
  unfold State.dataAddr
  rw [himg]
  exact (if_neg (Nat.not_lt.2 hfits)).trans (if_pos hmisaligned)

/-- What a load does with the data address that it forms. -/
def State.loadFrom (s : State) (f : BitVec 40) (n : Nat) : Except Nat Nat → State
  | .ok a => s.stageWrite .a 4 (abRd f) (BitVec.ofNat 32 (leNat (readCells s.core.dmem a n)))
  | .error e => s.coreStop e

/-- What a store does with the data address that it forms. -/
def State.storeTo (s : State) (f : BitVec 40) (n : Nat) : Except Nat Nat → State
  | .ok a => s.onBundle fun b => { b with store := some (a, leBytes n (s.g (abRd f)).toNat) }
  | .error e => s.coreStop e

theorem exec_load {x : (Slot → BitVec 40 → Instr) × Nat} (hx : x ∈ coreLoadRows) (hseg : s.coreSeg = some g) :
    exec (x.1 .a f) s = .next (s.loadFrom f x.2 (s.dataAddr g f x.2)) := by
  rw [exec_of_slot (exec_coreLoadRow x hx .a f s) hseg rfl]
  cases s.dataAddr g f x.2 <;> rfl

theorem exec_store {x : (Slot → BitVec 40 → Instr) × Nat} (hx : x ∈ coreStoreRows) (hseg : s.coreSeg = some g) :
    exec (x.1 .a f) s = .next (s.storeTo f x.2 (s.dataAddr g f x.2)) := by
  rw [exec_of_slot (exec_coreStoreRow x hx .a f s) hseg rfl]
  cases s.dataAddr g f x.2 <;> rfl

end DataAddress

end Sys2Proof.Machine
end

section
/-! PROOF. Loads, stores and the arithmetic of the control core. -/

namespace Sys2Proof.Machine

open Sys2Proof

theorem coreLoadsPart_holds : coreLoadsPart := by
  intro x hx f s g img hseg himg
  rw [exec_load hx hseg]
  refine ⟨fun hfits haligned => ?_, fun hbeyond => ?_, fun hfits hmisaligned => ?_⟩
  · rw [State.dataAddr_of_fits himg hfits haligned]
    rfl
  · rw [State.dataAddr_of_beyond himg hbeyond]
    rfl
  · rw [State.dataAddr_of_misaligned himg hfits hmisaligned]
    rfl

theorem coreStoresPart_holds : coreStoresPart := by
  intro x hx f s g img hseg himg
  rw [exec_store hx hseg]
  refine ⟨fun hfits haligned => ?_, fun hbeyond => ?_, fun hfits hmisaligned => ?_⟩
  · rw [State.dataAddr_of_fits himg hfits haligned]
    rfl
  · rw [State.dataAddr_of_beyond himg hbeyond]
    rfl
  · rw [State.dataAddr_of_misaligned himg hfits hmisaligned]
    rfl

/-- Settles O1: a load or store stages its effect, or stops the segment, by the data address that it forms. -/
theorem coreMemoryFormsComplete : Obligations.CoreMemoryFormsComplete := ⟨coreLoadsPart_holds, coreStoresPart_holds⟩

/-! Arithmetic (R125) -/

theorem coreRegisterFormsPart_holds : coreRegisterFormsPart := by
  intro x hx sl f s g hseg hslot hreserved
  refine exec_of_slot (exec_coreRegisterRow x hx sl f s) hseg ?_
  simp [inAB, abReserved, hslot, hreserved]

theorem coreImmediateFormsPart_holds : coreImmediateFormsPart := by
  intro x hx sl f s g hseg hslot
  refine exec_of_slot (exec_coreImmediateRow x hx sl f s) hseg ?_
  simp [inAB, hslot]

theorem coreMultipliesPart_holds : coreMultipliesPart := by
  intro x hx f s g hseg
  exact ⟨fun hreserved => exec_of_slot (exec_coreMultiplyRow x hx .b f s) hseg (by simp [abReserved, hreserved]),
    exec_of_refused_slot (exec_coreMultiplyRow x hx .a f s) hseg rfl⟩

/-- No form of slot M has its effect in another slot or with a reserved bit set. -/
theorem exec_of_refused_m {s : State} {g : Nat} (hseg : s.coreSeg = some g) {sl : Slot} {f : BitVec 56}
    (h : sl ≠ .m ∨ f.extractLsb' 0 31 ≠ 0) :
    ∀ x ∈ ([.issue, .issuei, .fadv, .fadvf] : List (Slot → BitVec 56 → Instr)),
      exec (x sl f) s = .next (s.coreStop excIllegal) := by
  have hform : (decide (sl = .m) && mReserved f) = false := by
    simpa [mReserved, not_and_or, imp_iff_not_or] using h
  simp [exec, execIssue, execIssuei, execFadv, execFadvf, hform, State.slot_false hseg]

/-- No form of slot V has its effect in another slot or with a reserved bit set. -/
theorem exec_of_refused_v {s : State} {g : Nat} (hseg : s.coreSeg = some g) {sl : Slot} {f : BitVec 48}
    (h : sl ≠ .v ∨ f.extractLsb' 20 10 ≠ 0) :
    ∀ x ∈ ([.hset, .hseti, .hadd, .hget, .lset, .lseti, .lget, .stat, .bstb, .bsth] : List (Slot → BitVec 48 → Instr)),
      exec (x sl f) s = .next (s.coreStop excIllegal) := by
  have hform : (decide (sl = .v) && vReserved f) = false := by
    simpa [vReserved, not_and_or, imp_iff_not_or] using h
  simp [exec, execHset, execHseti, execHadd, execHget, execLset, execLseti, execLget, execStat, execBstb, execBsth, hform,
    State.slot_false hseg]

/-- No form of slot K has its effect in another slot. -/
theorem exec_of_misplaced_k {s : State} {g : Nat} (hseg : s.coreSeg = some g) {sl : Slot} (f : BitVec 32) (h : sl ≠ .k) :
    ∀ x ∈ ([.br, .beq, .bne, .blt, .bge, .call, .jr, .endw, .waitto, .waitc, .waitf] : List (Slot → BitVec 32 → Instr)),
      exec (x sl f) s = .next (s.coreStop excIllegal) := by
  simp [exec, execBr, execBeq, execBne, execBlt, execBge, State.branch, execCall, execJr, execEndw, execWaitto, execWaitc,
    execWaitf, h, State.slot_false hseg]

/-- No branch or call has its effect with a bit set above its target. -/
theorem exec_of_refused_target {s : State} {g : Nat} (hseg : s.coreSeg = some g) {f : BitVec 32} (h : f.extractLsb' 13 3 ≠ 0) :
    ∀ x ∈ ([.br, .beq, .bne, .blt, .bge, .call] : List (Slot → BitVec 32 → Instr)),
      exec (x .k f) s = .next (s.coreStop excIllegal) := by
  have hform : kTargetOk f = false := decide_eq_false h
  simp [exec, execBr, execBeq, execBne, execBlt, execBge, State.branch, execCall, hform, State.slot_false hseg]

theorem coreMisplacedPart_holds : coreMisplacedPart := by
  intro s g hseg
  refine ⟨fun sl hsl => ?_, fun x hx sl f hsl => ?_, fun x hx sl f h => ?_, fun x hx sl f h => exec_of_refused_m hseg h x hx,
    fun f hodd => ?_, fun x hx sl f h => exec_of_refused_v hseg h x hx, fun f hcount => ?_, fun f hodd => ?_,
    fun x hx sl f hsl => exec_of_misplaced_k hseg f hsl x hx, fun x hx f h => exec_of_refused_target hseg h x hx,
    fun f hodd => ?_⟩
  · exact (exec_of_slot (i := .nop sl) (f := fun s g => if sl = .k then s.nextBundle g else s) rfl hseg rfl).trans
      (congrArg _ (if_neg hsl))
  · rcases List.mem_append.1 hx with hx | hx
    · exact exec_of_refused_slot (exec_coreLoadRow x hx sl f s) hseg (decide_eq_false hsl)
    · exact exec_of_refused_slot (exec_coreStoreRow x hx sl f s) hseg (decide_eq_false hsl)
  · refine exec_of_refused_slot (exec_coreMultiplyRow x hx sl f s) hseg ?_
    simpa [abReserved, not_and_or, imp_iff_not_or] using h
  · simp [exec, execFadv, hodd, State.slot_false hseg]
  · simp [exec, execLget, maskCount, hcount, State.slot_false hseg]
  · have himm : (vImm f).toNat % 2 = 1 := hodd
    simp [exec, execBsth, himm, State.slot_false hseg]
  · simp [exec, execWaitf, hodd, State.slot_false hseg]

/-- Settles O2: each row of the arithmetic is one of the shared forms, and a form that is not in order stops the segment. -/
theorem coreArithmeticComplete : Obligations.CoreArithmeticComplete :=
  ⟨coreRegisterFormsPart_holds, coreImmediateFormsPart_holds, coreMultipliesPart_holds, coreMisplacedPart_holds⟩

end Sys2Proof.Machine
end

section
/-! PROOF. Length sets, buffer stores and length reads of the control core. -/

namespace Sys2Proof.Machine

open Sys2Proof

section Moves
variable {s : State} {g : Nat} {f : BitVec 48}

theorem State.stageMove_of_room (hallot : s.outsideAllot g (vMask f) = false)
    (hroom : ∀ c ∈ maskClusters (vMask f), movesIn (s.walker c) < 32) (x : QItem) :
    s.stageMove g f x =
      s.onBundle fun b => { b with moves := b.moves ++ (maskClusters (vMask f)).map fun c => (c, x) } := by
  have hnone : ((maskClusters (vMask f)).any fun c => decide (32 ≤ movesIn (s.walker c))) = false := by
    simpa using hroom
  unfold State.stageMove
  rw [hallot, hnone]
  rfl

theorem State.stageMove_of_outside (hallot : s.outsideAllot g (vMask f) = true) (x : QItem) :
    s.stageMove g f x = s.coreStop excAllot := if_pos hallot

theorem State.stageMove_of_full (hallot : s.outsideAllot g (vMask f) = false)
    (hfull : ∃ c ∈ maskClusters (vMask f), 32 ≤ movesIn (s.walker c)) (x : QItem) :
    s.stageMove g f x = s.coreStop excQueueFull := by
  have hsome : ((maskClusters (vMask f)).any fun c => decide (32 ≤ movesIn (s.walker c))) = true := by
    simpa using hfull
  unfold State.stageMove
  rw [hallot, hsome]
  rfl

/-- The moves of slot V with the item that each queues (R127, R129). -/
def State.moveRows (s : State) (f : BitVec 48) : List (Instr × QItem) :=
  [(.lset .v f, .setLen (vN f) (max 0 (min 65535 (s.g (vG f)).toInt)).toNat),
    (.lseti .v f, .setLen (vN f) ((f.extractLsb' 0 20).toNat % 65536)),
    (.bstb .v f, .setByte (f.extractLsb' 0 20).toNat ((s.g (vG f)).toNat % 256))] ++
  (if (f.extractLsb' 0 20).toNat % 2 = 0 then
    [(.bsth .v f, .setHalf (f.extractLsb' 0 20).toNat ((s.g (vG f)).toNat % 65536))] else [])

theorem exec_moveRow (hseg : s.coreSeg = some g) (hreserved : f.extractLsb' 20 10 = 0) :
    ∀ x ∈ s.moveRows f, exec x.1 s = .next (s.stageMove g f x.2) := by
  have hform : (decide (Slot.v = .v) && vReserved f) = true := decide_eq_true hreserved
  intro x hx
  simp only [State.moveRows, List.mem_append, List.mem_cons, List.not_mem_nil, or_false, List.mem_ite_nil_right] at hx
  rcases hx with (rfl | rfl | rfl) | ⟨heven, rfl⟩
  · exact exec_of_slot (f := fun s g => s.stageMove g f (.setLen (vN f) (clampI 0 65535 (s.g (vG f)).toInt).toNat))
      rfl hseg hform
  · exact exec_of_slot (f := fun s g => s.stageMove g f (.setLen (vN f) ((vImm f).toNat % 65536))) rfl hseg hform
  · exact exec_of_slot (f := fun s g => s.stageMove g f (.setByte (vImm f).toNat ((s.g (vG f)).toNat % 256))) rfl hseg hform
  · exact exec_of_slot (f := fun s g => s.stageMove g f (.setHalf (vImm f).toNat ((s.g (vG f)).toNat % 65536))) rfl hseg
      (by rw [hform]; simpa [vImm] using heven)

end Moves

/-- Settles O5: a move is queued on every cluster of the mask, unless the mask or a queue forbids it; LGET reads a length. -/
theorem coreMoveFormsComplete : Obligations.CoreMoveFormsComplete := by
  unfold Obligations.CoreMoveFormsComplete
  intro f s g hseg hreserved rows
  have hrow : ∀ x ∈ rows, exec x.1 s = .next (s.stageMove g f x.2) := exec_moveRow hseg hreserved
  refine ⟨fun hallot hroom x hx => ?_, fun hallot x hx => ?_, fun hallot hfull x hx => ?_, fun c hmask hallot => ?_⟩
  · exact (hrow x hx).trans (congrArg _ (State.stageMove_of_room hallot hroom _))
  · exact (hrow x hx).trans (congrArg _ (State.stageMove_of_outside hallot _))
  · exact (hrow x hx).trans (congrArg _ (State.stageMove_of_full hallot hfull _))
  · have hform : (decide (Slot.v = .v) && vReserved f && decide (maskCount (vMask f) = 1)) = true := by
      simpa [vReserved, maskCount, hmask] using hreserved
    refine (exec_of_slot (i := .lget .v f) (f := fun s g => if s.outsideAllot g (vMask f) then s.coreStop excAllot
      else s.stageWrite .v 4 (vG f) (BitVec.ofNat 32 ((s.walker ((maskClusters (vMask f)).headD 0)).lens.getD (vN f) 0)))
      rfl hseg hform).trans (congrArg _ ?_)
    rw [if_neg (by rw [hallot]; decide), hmask]
    rfl

end Sys2Proof.Machine
end

section
/-! SUPPORT. What running code may touch: a bundle taken in, results that become visible, issues that arrive. -/

namespace Sys2Proof.Machine

open Sys2Proof

/-- What running a segment's code may touch: the core, the walkers, the pool's data, counters, the log, which records of the frame
carry FAULT, and the free values drawn for results that meet. -/
def touchesCode (s t : State) : Prop :=
  t = { s with core := t.core, walkers := t.walkers, pool := t.pool, od := t.od, integ := t.integ, free := t.free,
               frame := { s.frame with fault := t.frame.fault } }

section Code
variable {s t u : State}

theorem touchesCode.rfl : touchesCode s s := by unfold touchesCode; rfl

theorem touchesCode.trans (h : touchesCode s t) (k : touchesCode t u) : touchesCode s u := by
  unfold touchesCode at h k ⊢
  refine k.trans ?_
  rw [h]

theorem touchesData.code (h : touchesData s t) : touchesCode s t := by
  unfold touchesData at h
  unfold touchesCode
  rw [h]

theorem touchesRecord.code (h : touchesRecord s t) : touchesCode s t := by
  unfold touchesRecord at h
  unfold touchesCode
  rw [h]

theorem touchesCode.loader (h : touchesCode s t) : t.loader = s.loader := by
  unfold touchesCode at h
  rw [h]

theorem touchesCode.husk (h : touchesCode s t) : t.husk = s.husk := by
  unfold touchesCode at h
  rw [h]

theorem touchesCode.active (h : touchesCode s t) : t.active = s.active := by
  unfold touchesCode at h
  rw [h]
  rfl

/-- The time since the tick of a state that stands at the same cycle. -/
theorem touchesCode.coreSince (h : touchesCode s t) (hcycle : t.core.cycle = s.core.cycle)
    (hentry : t.core.entry = s.core.entry) :
    t.coreSince = s.coreSince := by
  unfold touchesCode at h
  rw [h]
  unfold State.coreSince State.coreTime
  rw [← hcycle, ← hentry]
  rfl

end Code

theorem State.codeLen_of_loader {s t : State} (h : t.loader = s.loader) (g : Nat) : t.codeLen g = s.codeLen g := by
  unfold State.codeLen State.segImg
  rw [h]

theorem State.codeLen_of_segImg {s : State} {g : Nat} {img : SegImage} (h : s.segImg g = some img) : s.codeLen g =
    img.codeLen := by
  unfold State.codeLen
  rw [h]

theorem State.coreSeg_eq_some {s : State} {g : Nat} :
    s.coreSeg = some g ↔ s.active = true ∧ s.core.wait = none ∧ s.core.seg = some g := by
  unfold State.coreSeg
  cases s.active <;> cases s.core.wait <;> simp

theorem State.onCore_code (s : State) (f : Core → Core) : touchesCode s (s.onCore f) := by unfold touchesCode; rfl

theorem State.retire_code (s : State) : touchesCode s s.retire := by unfold touchesCode; rfl

theorem State.takeBundle_code (s : State) (g : Nat) : touchesCode s (s.takeBundle g) := by
  have hfold {β : Type} (f : State → β → State) (h : ∀ s b, touchesCode s (f s b)) (l : List β) (s : State) :
      touchesCode s (l.foldl f s) := foldl_rel touchesCode (fun _ => .rfl) (fun h k => h.trans k) f h l s
  unfold State.takeBundle
  extract_lets b s1 s2 s3
  have h1 : touchesCode s s1 := hfold _ (fun t _ => (State.onWalker_touches t _ _).code) _ _
  have h2 : touchesCode s1 s2 := hfold _ (fun t n => (State.issue_touches t g n).code.trans (State.onCore_code _ _)) _ _
  have h3 : touchesCode s2 s3 := State.onCore_code _ _
  exact ((h1.trans h2).trans h3).trans (hfold _ (fun t x => State.onCore_code _ _) _ _)

/-- What a bundle leaves in handles, data memory and the results under way. -/
theorem State.takeBundle_taken (s : State) (g : Nat) :
    (s.takeBundle g).core.handles = s.core.bundle.handles.foldl (fun h x => setAt h x.1 x.2) s.core.handles ∧
      (s.takeBundle g).core.dmem = (match s.core.bundle.store with
        | some (a, bs) => writeCells s.core.dmem a bs
        | none => s.core.dmem) ∧
      (s.takeBundle g).core.writes = sortBy (·.due) (s.core.writes ++ s.core.bundle.writes) := by
  have hview {β : Type} (f : State → β → State)
      (h : ∀ s b, ((f s b).core.handles, (f s b).core.dmem, (f s b).core.writes) = (s.core.handles, s.core.dmem, s.core.writes))
      (l : List β) (s : State) : ((l.foldl f s).core.handles, (l.foldl f s).core.dmem, (l.foldl f s).core.writes) =
        (s.core.handles, s.core.dmem, s.core.writes) :=
    foldl_view (fun s => (s.core.handles, s.core.dmem, s.core.writes)) f h l s
  unfold State.takeBundle
  extract_lets b s1 s2 s3
  have h1 : (s1.core.handles, s1.core.dmem, s1.core.writes) = (s.core.handles, s.core.dmem, s.core.writes) :=
    hview (fun s (m : Nat × QItem) => s.onWalker m.1 fun w => pushItem w m.2) (fun _ _ => rfl) _ _
  have h2 : (s2.core.handles, s2.core.dmem, s2.core.writes) = (s1.core.handles, s1.core.dmem, s1.core.writes) := by
    refine hview (fun s n => (s.issue g n).onCore fun c => { c with issued := n :: c.issued }) (fun t n => ?_) _ _
    have h := State.issue_touches t g n
    unfold touchesData at h
    rw [h]
    rfl
  have h4 := hview (fun s (x : Nat × Nat) => s.onCore fun c => { c with fadvs := c.fadvs ++ [⟨g, x.1, x.2, s.issueMarks⟩] })
    (fun _ _ => rfl) b.fadvs s3
  have h12 := h2.trans h1
  simp only [Prod.mk.injEq] at h4 h12
  obtain ⟨hhandles, hdmem, hwrites⟩ := h12
  refine ⟨h4.1.trans ?_, h4.2.1.trans ?_, h4.2.2.trans ?_⟩
  · show b.handles.foldl _ s2.core.handles = _
    rw [hhandles]
  · show (match b.store with | some (a, bs) => writeCells s2.core.dmem a bs | none => s2.core.dmem) = _
    rw [hdmem]
  · show sortBy _ (s2.core.writes ++ b.writes) = _
    rw [hwrites]

/-! Results that become visible (R134) -/

/-- One result whose cycle has come is written to its register. -/
theorem State.retire_of_due {s : State} {w : CoreWrite} (hwrites : s.core.writes = [w]) (hdue : w.due ≤ s.core.cycle) :
    s.retire.core = { s.core with regs := setAt s.core.regs w.reg w.value, writes := [] } := by
  unfold State.retire
  rw [hwrites]
  simp [hdue, resolveWrites]

theorem State.retire_of_early {s : State} {w : CoreWrite} (hwrites : s.core.writes = [w]) (hdue : s.core.cycle < w.due) :
    s.retire = s := by
  have hnone : ¬ w.due ≤ s.core.cycle := Nat.not_le.2 hdue
  unfold State.retire
  rw [hwrites]
  simp only [List.filter_cons, decide_eq_false hnone, decide_eq_true hdue, List.filter_nil, if_true]
  rw [← hwrites]
  rfl

/-! Issues that arrive (R89, R126) -/

theorem State.refuseIssue_code (s : State) (c g n : Nat) (d : List Byte) : touchesCode s (s.refuseIssue c g n d) := by
  have hrecord (t : State) : touchesCode t (t.issueRecord c g n) := by
    rw [State.issueRecord_eq]
    refine touchesCode.trans ?_ (show touchesCode _ (State.flagFault _ g) from by unfold touchesCode; rfl)
    exact ((State.bumpFor_touches t _ _ _).record.trans (State.raise_record_of_uncounted _ rfl)).code
  have hcount (t : State) : touchesCode t (t.descException g) := by
    rw [State.descException_eq]
    split <;> (unfold touchesCode; rfl)
  rw [State.refuseIssue_eq]
  exact ((s.refusedOutputs_keeps c g d).2.code.trans (hrecord _)).trans (hcount _)

theorem State.arrive_code (s : State) (all : Bool) : touchesCode s (s.arrive all) := by
  refine foldl_rel touchesCode (fun _ => .rfl) (fun h k => h.trans k) _ (fun t x => ?_) _ s
  unfold State.arriveAt
  dsimp only
  split
  · exact (State.onWalker_touches _ _ _).code
  · exact (State.refuseIssue_code _ _ _ _ _).trans (State.onWalker_touches _ _ _).code

/-- Arrivals leave of the core everything but its count of descriptor exceptions. -/
theorem State.arrive_core (s : State) (all : Bool) : (s.arrive all).core =
    { s.core with descExc := (s.arrive all).core.descExc } := by
  have h := s.arrive_touches all
  unfold touchesIssue at h
  exact congrArg State.core h

/-! Going on -/

theorem State.goto_of_within (s : State) {g pc dc : Nat} (h : pc < s.codeLen g) :
    s.goto g pc dc = (s.onCore fun c => { c with pc := pc, cycle := c.cycle + dc }).retire.arrive := by
  unfold State.goto
  refine if_pos ?_
  rw [State.codeLen_of_loader (((State.onCore_code s _).trans (State.retire_code _)).trans (State.arrive_code _ _)).loader]
  exact h

/-- The bundle is taken in and the code goes on at a bundle some cycles later. -/
def State.endBundle (s : State) (g pc dc : Nat) : State := (s.takeBundle g).goto g pc dc

theorem State.nextBundle_eq (s : State) (g : Nat) : s.nextBundle g = s.endBundle g (s.core.pc + 1) 1 := rfl
theorem State.branchTo_eq (s : State) (g pc : Nat) : s.branchTo g pc = s.endBundle g pc 3 := rfl

/-- The results that no bundle reads yet: those of earlier bundles and those of the present one. -/
def State.underWay (s : State) : List CoreWrite := s.core.writes ++ s.core.bundle.writes

/-- The results under way after a bundle that stages nothing are those of earlier bundles. -/
theorem State.underWay_of_blank {s : State} (h : s.core.bundle = Bundle.blank) : s.underWay = s.core.writes := by
  unfold State.underWay
  rw [h]
  exact List.append_nil _

section EndBundle
variable {s : State} {g pc : Nat} (h : pc < s.codeLen g) (dc : Nat)
include h

/-- A bundle within the code range follows: this one is taken in, the code goes on, results become visible, issues arrive. -/
theorem State.endBundle_of_within :
    s.endBundle g pc dc = ((s.takeBundle g).onCore fun c => { c with pc := pc, cycle := c.cycle + dc }).retire.arrive :=
  State.goto_of_within _ (by rwa [State.codeLen_of_loader (s.takeBundle_code g).loader])

theorem State.endBundle_code : touchesCode s (s.endBundle g pc dc) := by
  rw [State.endBundle_of_within h]
  exact (((s.takeBundle_code g).trans (State.onCore_code _ _)).trans (State.retire_code _)).trans (State.arrive_code _ _)

/-- Of the core, arrivals leave everything as the retirement of results left it but the count of descriptor exceptions. -/
theorem State.endBundle_core : ∃ n, (s.endBundle g pc dc).core =
    { ((s.takeBundle g).onCore fun c => { c with pc := pc, cycle := c.cycle + dc }).retire.core with descExc := n } := by
  rw [State.endBundle_of_within h]
  exact ⟨_, State.arrive_core _ _⟩

/-- The segment's code goes on running. -/
theorem State.endBundle_place (hseg : s.coreSeg = some g) :
    (s.endBundle g pc dc).coreSeg = some g ∧ (s.endBundle g pc dc).core.pc = pc ∧
      (s.endBundle g pc dc).core.cycle = s.core.cycle + dc ∧ (s.endBundle g pc dc).core.bundle = Bundle.blank ∧
      (s.endBundle g pc dc).codeLen g = s.codeLen g := by
  obtain ⟨hplace, hbundle, -⟩ := s.takeBundle_place g
  simp only [corePlace, Prod.mk.injEq] at hplace
  obtain ⟨hs, -, hcycle, -, hwait, -⟩ := hplace
  obtain ⟨hactive, hnowait, hrun⟩ := State.coreSeg_eq_some.1 hseg
  have hcode := State.endBundle_code h dc
  obtain ⟨n, hcore⟩ := State.endBundle_core h dc
  refine ⟨State.coreSeg_eq_some.2 ⟨hcode.active.trans hactive, ?_, ?_⟩, ?_, ?_, ?_, State.codeLen_of_loader hcode.loader g⟩ <;>
    rw [hcore]
  · exact hwait.trans hnowait
  · exact hs.trans hrun
  · rfl
  · exact congrArg (· + dc) hcycle
  · exact hbundle

theorem State.endBundle_memory : (s.endBundle g pc dc).core.dmem = (s.takeBundle g).core.dmem ∧
    (s.endBundle g pc dc).core.handles = (s.takeBundle g).core.handles := by
  obtain ⟨n, hcore⟩ := State.endBundle_core h dc
  rw [hcore]
  exact ⟨rfl, rfl⟩

/-- Registers and results are those that the retirement of the new cycle leaves. -/
theorem State.endBundle_retired : ∃ u : State, u.core.regs = s.core.regs ∧ u.core.cycle = s.core.cycle + dc ∧
    u.core.writes = sortBy (·.due) s.underWay ∧ (s.endBundle g pc dc).core.regs = u.retire.core.regs ∧
    (s.endBundle g pc dc).core.writes = u.retire.core.writes := by
  obtain ⟨hplace, -, -⟩ := s.takeBundle_place g
  simp only [corePlace, Prod.mk.injEq] at hplace
  obtain ⟨-, -, hcycle, -, -, hregs⟩ := hplace
  obtain ⟨n, hcore⟩ := State.endBundle_core h dc
  refine ⟨(s.takeBundle g).onCore fun c => { c with pc := pc, cycle := c.cycle + dc }, hregs,
    congrArg (· + dc) hcycle, (s.takeBundle_taken g).2.2, ?_, ?_⟩ <;>
  rw [hcore]

theorem State.endBundle_of_none_underWay (hnone : s.underWay = []) :
    (s.endBundle g pc dc).core.regs = s.core.regs ∧ (s.endBundle g pc dc).core.writes = [] := by
  obtain ⟨u, hregs, -, hwrites, hnregs, hnwrites⟩ := State.endBundle_retired h dc
  rw [hnone] at hwrites
  rw [hnregs, hnwrites, State.retire_nil u hwrites]
  exact ⟨hregs, hwrites⟩

theorem State.endBundle_of_due {w : CoreWrite} (hone : s.underWay = [w]) (hdue : w.due ≤ s.core.cycle + dc) :
    (s.endBundle g pc dc).core.regs = setAt s.core.regs w.reg w.value ∧ (s.endBundle g pc dc).core.writes = [] := by
  obtain ⟨u, hregs, hcycle, hwrites, hnregs, hnwrites⟩ := State.endBundle_retired h dc
  rw [hone] at hwrites
  rw [hnregs, hnwrites, State.retire_of_due hwrites (hcycle ▸ hdue), hregs]
  exact ⟨rfl, rfl⟩

theorem State.endBundle_of_early {w : CoreWrite} (hone : s.underWay = [w]) (hdue : s.core.cycle + dc < w.due) :
    (s.endBundle g pc dc).core.regs = s.core.regs ∧ (s.endBundle g pc dc).core.writes = [w] := by
  obtain ⟨u, hregs, hcycle, hwrites, hnregs, hnwrites⟩ := State.endBundle_retired h dc
  rw [hone] at hwrites
  rw [hnregs, hnwrites, State.retire_of_early hwrites (hcycle ▸ hdue)]
  exact ⟨hregs, hwrites⟩

/-- With no issue on its way nothing arrives. -/
theorem State.endBundle_of_none_onWay (hnone : ∀ c < 8, (s.takeBundle g).onWay c = []) :
    s.endBundle g pc dc = ((s.takeBundle g).onCore fun c => { c with pc := pc, cycle := c.cycle + dc }).retire :=
  State.goto_place _ _ _ _ (by rwa [State.codeLen_of_loader (s.takeBundle_code g).loader]) hnone

end EndBundle

/-- A bundle that holds results alone leaves them under way and changes nothing else. -/
theorem State.takeBundle_of_results {s : State} {ws : List CoreWrite} (h : s.core.bundle = { Bundle.blank with writes := ws })
    (g : Nat) :
    s.takeBundle g = s.onCore fun c => { c with writes := sortBy (·.due) (c.writes ++ ws), bundle := Bundle.blank } := by
  unfold State.takeBundle
  rw [h]
  rfl

/-! What bundles read of a register once another was written -/

theorem coreReadReg_setAt {c d : Core} {r : Nat} {v : Word} (hregs : d.regs = setAt c.regs r v) (hr : r < c.regs.length)
    (q : Nat) :
    coreReadReg d q = if q ≠ 0 ∧ q = r then v else coreReadReg c q := by
  unfold coreReadReg
  rw [hregs, getD_setAt _ _ _ _ _ hr]
  by_cases hq : q = 0 <;> simp [hq]

theorem coreReadReg_of_regs {c d : Core} (hregs : d.regs = c.regs) (q : Nat) : coreReadReg d q = coreReadReg c q := by
  unfold coreReadReg
  rw [hregs]

end Sys2Proof.Machine
end

section
/-! PROOF. Results of the control core: what the next bundles read of a staged result, and what a bundle's store leaves. -/

namespace Sys2Proof.Machine

open Sys2Proof

/-! NOP bundles one after another -/

theorem exec_nop_k {s : State} {g : Nat} (hseg : s.coreSeg = some g) : exec (.nop .k) s = .next
    (s.endBundle g (s.core.pc + 1) 1) :=
  (exec_of_slot (i := .nop .k) (f := State.nextBundle) rfl hseg rfl).trans (congrArg _ (s.nextBundle_eq g))

/-- NOPs with no result under way change no register. -/
theorem afterNops_of_none_underWay {g : Nat} : ∀ (k : Nat) (s : State), s.coreSeg = some g → s.underWay = [] →
    s.core.pc + k < s.codeLen g →
    ∃ t, afterNops k s = some t ∧ t.core.cycle = s.core.cycle + k ∧ t.core.regs = s.core.regs
  | 0, s, _, _, _ => ⟨s, rfl, rfl, rfl⟩
  | k + 1, s, hseg, hnone, hlen => by
    have hnext : s.core.pc + 1 < s.codeLen g := by omega
    obtain ⟨hseg', hpc, hcycle, hbundle, hcode⟩ := State.endBundle_place hnext 1 hseg
    obtain ⟨hregs, hwrites⟩ := State.endBundle_of_none_underWay hnext 1 hnone
    obtain ⟨t, hrun, htcycle, htregs⟩ := afterNops_of_none_underWay k (s.endBundle g (s.core.pc + 1) 1) hseg'
      ((State.underWay_of_blank hbundle).trans hwrites) (by omega)
    refine ⟨t, ?_, by omega, htregs.trans hregs⟩
    rw [afterNops, exec_nop_k hseg]
    exact hrun

/-- NOPs with one result under way write its register in the cycle in which it is due. -/
theorem afterNops_of_one_underWay {g : Nat} {w : CoreWrite} : ∀ (k : Nat) (s : State), s.coreSeg = some g → s.underWay = [w] →
    s.core.cycle < w.due → s.core.pc + k < s.codeLen g →
    ∃ t, afterNops k s = some t ∧ t.core.cycle = s.core.cycle + k ∧
      t.core.regs = if w.due ≤ s.core.cycle + k then setAt s.core.regs w.reg w.value else s.core.regs
  | 0, s, _, _, hdue, _ => ⟨s, rfl, rfl, (if_neg (Nat.not_le.2 hdue)).symm⟩
  | k + 1, s, hseg, hone, hdue, hlen => by
    have hnext : s.core.pc + 1 < s.codeLen g := by omega
    obtain ⟨hseg', hpc, hcycle, hbundle, hcode⟩ := State.endBundle_place hnext 1 hseg
    have hway := State.underWay_of_blank hbundle
    rw [afterNops, exec_nop_k hseg]
    rcases Nat.lt_or_ge (s.core.cycle + 1) w.due with hearly | hready
    · obtain ⟨hregs, hwrites⟩ := State.endBundle_of_early hnext 1 hone hearly
      obtain ⟨t, hrun, htcycle, htregs⟩ := afterNops_of_one_underWay k (s.endBundle g (s.core.pc + 1) 1) hseg'
        (hway.trans hwrites)
        (by omega) (by omega)
      refine ⟨t, hrun, by omega, ?_⟩
      rw [htregs, hregs, hcycle, Nat.add_assoc, Nat.add_comm 1 k]
    · obtain ⟨hregs, hwrites⟩ := State.endBundle_of_due hnext 1 hone hready
      obtain ⟨t, hrun, htcycle, htregs⟩ := afterNops_of_none_underWay k (s.endBundle g (s.core.pc + 1) 1) hseg'
        (hway.trans hwrites) (by omega)
      refine ⟨t, hrun, by omega, ?_⟩
      rw [htregs, hregs, if_pos (by omega)]

/-- Settles O53: the staged result is the one result under way, and a NOP bundle brings its cycle one nearer. -/
theorem resultOfLatencyNIsVisibleAfterNCycles : Obligations.ResultOfLatencyNIsVisibleAfterNCycles := by
  unfold Obligations.ResultOfLatencyNIsVisibleAfterNCycles
  intro s g sl n r k v hseg hbundle hwrites hlen hr0 hr hn hcode
  have hone : (staged s sl n r v).underWay = [⟨s.core.cycle + n, r, v, sl⟩] := by
    simp [State.underWay, staged, hbundle, hwrites, Bundle.blank]
  obtain ⟨t, hrun, hcycle, hregs⟩ := afterNops_of_one_underWay (g := g) k (staged s sl n r v) hseg hone
    (Nat.lt_add_of_pos_right hn) hcode
  refine ⟨t, hrun, hcycle, ?_⟩
  by_cases hnk : n ≤ k
  · have hread := coreReadReg_setAt (hregs.trans (if_pos (Nat.add_le_add_left hnk _))) (hlen ▸ hr)
    refine ⟨?_, fun q hq => ?_⟩
    · rw [if_pos hnk]
      exact (hread r).trans (if_pos ⟨Nat.ne_of_gt hr0, rfl⟩)
    · exact (hread q).trans (if_neg fun hqr => hq hqr.2)
  · have hread := coreReadReg_of_regs (hregs.trans (if_neg fun hle => hnk (Nat.le_of_add_le_add_left hle)))
    refine ⟨?_, fun q _ => hread q⟩
    rw [if_neg hnk]
    exact hread r

/-! A bundle's store and result (R124, R134) -/

theorem coreStoreReachesDataMemoryPart_holds : coreStoreReachesDataMemoryPart := by
  intro x hx f s g img hseg himg hbundle hcode hfits haligned
  obtain ⟨t, ht⟩ : ∃ t, s.onBundle (fun b => { b with
      store := some (img.dataBase + coreOffset s f, leBytes x.2 (s.g (abRd f)).toNat) }) = t := ⟨_, rfl⟩
  have hexec : exec (x.1 .a f) s = .next t := by
    rw [exec_store hx hseg, State.dataAddr_of_fits himg hfits haligned, ← ht]
    rfl
  have htseg : t.coreSeg = some g := ht ▸ hseg
  have htcode : t.core.pc + 1 < t.codeLen g := by
    subst ht
    exact (State.codeLen_of_segImg himg).symm ▸ hcode
  obtain ⟨hseg', hpc, -, -, -⟩ := State.endBundle_place htcode 1 htseg
  have hdmem : (t.endBundle g (t.core.pc + 1) 1).core.dmem =
      writeCells s.core.dmem (img.dataBase + coreOffset s f) (leBytes x.2 (s.g (abRd f)).toNat) := by
    rw [(State.endBundle_memory htcode 1).1, (t.takeBundle_taken g).2.1, ← ht]
    rfl
  refine ⟨t, _, hexec, exec_nop_k htseg, hpc.trans (ht ▸ rfl), (State.coreSeg_eq_some.1 hseg').2.2, ?_, fun a ha => ?_⟩
  · have hread := readCells_writeCells s.core.dmem (img.dataBase + coreOffset s f) (leBytes x.2 (s.g (abRd f)).toNat)
    rw [length_leBytes] at hread
    rw [hdmem, hread, leNat_leBytes]
  · rw [hdmem]
    exact mget_writeCells_ne _ _ _ _ (by rwa [length_leBytes])

theorem coreResultIsSeenByNextBundlePart_holds : coreResultIsSeenByNextBundlePart := by
  intro x hx f s g img hseg himg hbundle hwrites hlen hcode hreserved
  obtain ⟨w, hw⟩ : ∃ w : CoreWrite, ⟨s.core.cycle + 1, abRd f, x.2 (s.g (abRa f)) (s.g (abRb f)), .a⟩ = w := ⟨_, rfl⟩
  obtain ⟨t, ht⟩ : ∃ t, staged s .a 1 (abRd f) (x.2 (s.g (abRa f)) (s.g (abRb f))) = t := ⟨_, rfl⟩
  have hexec : exec (x.1 .a f) s = .next t := ht ▸ coreRegisterFormsPart_holds x hx .a f s g hseg (.inl rfl) hreserved
  have htbundle : t.core.bundle = { Bundle.blank with writes := [w] } := by
    rw [← ht, ← hw, staged, hbundle]
    rfl
  have htwrites : t.core.writes = [] := ht ▸ hwrites
  have htaken := State.takeBundle_of_results htbundle g
  have htseg : t.coreSeg = some g := ht ▸ hseg
  have htcode : t.core.pc + 1 < t.codeLen g := by
    subst ht
    exact (State.codeLen_of_segImg himg).symm ▸ hcode
  have hone : t.underWay = [w] := by rw [State.underWay, htwrites, htbundle]; rfl
  have hdue : w.due ≤ t.core.cycle + 1 := by rw [← hw, ← ht]; exact Nat.le_refl _
  obtain ⟨-, hpc, -, -, -⟩ := State.endBundle_place htcode 1 htseg
  obtain ⟨hregs, -⟩ := State.endBundle_of_due htcode 1 hone hdue
  obtain ⟨hdmem, hhandles⟩ := State.endBundle_memory htcode 1
  refine ⟨t, _, hexec, exec_nop_k htseg, hpc.trans (ht ▸ rfl), fun r => ht ▸ rfl, fun r => ?_, ?_, ?_, fun hnone => ?_⟩
  · have hread := coreReadReg_setAt hregs (by rw [← ht, ← hw]; exact hlen ▸ BitVec.isLt _) r
    rw [← ht, ← hw] at hread
    rw [← ht]
    exact hread
  · rw [hdmem, htaken, ← ht]
    rfl
  · rw [hhandles, htaken, ← ht]
    rfl
  · have htway : ∀ c < 8, (t.takeBundle g).onWay c = [] := by
      rw [htaken, ← ht]
      exact hnone
    rw [State.endBundle_of_none_onWay htcode 1 htway, htaken, ← ht]
    rfl

/-- Settles O3: a bundle's store and result are taken in as it ends, and the next bundle finds them. -/
theorem coreBundleEffectsAreSeen : Obligations.CoreBundleEffectsAreSeen :=
  ⟨coreStoreReachesDataMemoryPart_holds, coreResultIsSeenByNextBundlePart_holds⟩

end Sys2Proof.Machine
end

section
/-! PROOF. Branches, calls and the end of a segment's code. -/

namespace Sys2Proof.Machine

open Sys2Proof

/-- A bundle that ends with the code going on within its range goes on as the statements say. -/
theorem goesOn_endBundle {s : State} {g pc : Nat} (hseg : s.coreSeg = some g) (h : pc < s.codeLen g) (dc : Nat) :
    goesOn s (s.endBundle g pc dc) g pc dc := by
  obtain ⟨hseg', hpc, hcycle, hbundle, -⟩ := State.endBundle_place h dc hseg
  obtain ⟨-, hwait, hrun⟩ := State.coreSeg_eq_some.1 hseg'
  refine ⟨hrun, hpc, hcycle, hbundle, hwait, fun hblank hwrites hnone => ?_⟩
  have htaken := s.takeBundle_blank g hblank hwrites
  rw [State.endBundle_of_none_onWay h dc (htaken.symm ▸ hnone), htaken]
  exact State.retire_nil _ hwrites

/-! Branches (R131, Table CORE-8) -/

/-- A branch whose target is in order goes to it when it is taken, else to the next bundle. -/
theorem State.branch_of_ok {s : State} {g : Nat} {f : BitVec 32} (hseg : s.coreSeg = some g) (htarget : f.extractLsb' 13 3 = 0)
    (taken : Bool) : s.branch .k f taken =
      .next (if taken then s.endBundle g (kTarget f) 3 else s.endBundle g (s.core.pc + 1) 1) := by
  have hform : (decide (Slot.k = .k) && kTargetOk f) = true := decide_eq_true htarget
  unfold State.branch State.slot
  rw [hseg, hform]
  rfl

/-- The conditional branches with their conditions (Table CORE-8). -/
def coreBranchRows : List ((Slot → BitVec 32 → Instr) × (Word → Word → Prop)) :=
  [(.beq, fun a b => a = b), (.bne, fun a b => a ≠ b), (.blt, fun a b => a.toInt < b.toInt),
    (.bge, fun a b => b.toInt ≤ a.toInt)]

/-- A conditional branch is the shared branch, taken exactly where its row's condition holds. -/
theorem exec_coreBranchRow (f : BitVec 32) (s : State) : ∀ x ∈ coreBranchRows, ∃ taken : Bool,
    exec (x.1 .k f) s = s.branch .k f taken ∧ (taken = true ↔ x.2 (s.g (kGa f)) (s.g (kGb f))) := by
  simp only [coreBranchRows, List.forall_mem_cons]
  refine ⟨⟨_, rfl, ?_⟩, ⟨_, rfl, ?_⟩, ⟨_, rfl, ?_⟩, ⟨_, rfl, ?_⟩, by simp⟩
  · exact decide_eq_true_iff
  · exact decide_eq_true_iff
  · exact decide_eq_true_iff
  · simp [BitVec.slt]

theorem coreBranchesPart_holds : coreBranchesPart := by
  intro f s g hseg
  refine ⟨fun hnext => ⟨_, exec_nop_k hseg, goesOn_endBundle hseg hnext 1⟩, fun htarget hcode hnext => ⟨?_, fun x hx => ?_⟩⟩
  · exact ⟨_, State.branch_of_ok hseg htarget true, goesOn_endBundle hseg hcode 3⟩
  · obtain ⟨taken, hexec, htaken⟩ := exec_coreBranchRow f s x hx
    refine ⟨_, hexec.trans (State.branch_of_ok hseg htarget taken), fun hcond => ?_, fun hcond => ?_⟩
    · rw [if_pos (htaken.2 hcond)]
      exact goesOn_endBundle hseg hcode 3
    · rw [if_neg fun h => hcond (htaken.1 h)]
      exact goesOn_endBundle hseg hnext 1

/-! Calls, returns and the end (R131, R137) -/

theorem exec_call {s : State} {g : Nat} {f : BitVec 32} (hseg : s.coreSeg = some g) (htarget : f.extractLsb' 13 3 = 0) :
    exec (.call .k f) s =
      .next ((s.stageWrite .k 1 63 (BitVec.ofNat 32 (s.core.pc + 1))).endBundle g (kTarget f) 3) :=
  (exec_of_slot (f := fun s g => (s.stageWrite .k 1 63 (BitVec.ofNat 32 (s.core.pc + 1))).branchTo g (kTarget f)) rfl hseg
    (show (decide (Slot.k = .k) && kTargetOk f) = true from decide_eq_true htarget)).trans (congrArg _ (State.branchTo_eq _ _ _))

theorem coreCallReturnAndEndPart_holds : coreCallReturnAndEndPart := by
  intro f s g hseg
  refine ⟨fun htarget hcode hblank hwrites hlen => ?_, fun hcode => ?_, ?_⟩
  · obtain ⟨w, hw⟩ : ∃ w : CoreWrite, ⟨s.core.cycle + 1, 63, BitVec.ofNat 32 (s.core.pc + 1), .k⟩ = w := ⟨_, rfl⟩
    obtain ⟨t, ht⟩ : ∃ t, s.stageWrite .k 1 63 (BitVec.ofNat 32 (s.core.pc + 1)) = t := ⟨_, rfl⟩
    have htbundle : t.core.bundle = { Bundle.blank with writes := [w] } := by
      rw [← ht, ← hw]
      show ({ s.core.bundle with writes := s.core.bundle.writes ++ _ } : Bundle) = _
      rw [hblank]
      rfl
    have htseg : t.coreSeg = some g := ht ▸ hseg
    have htcode : kTarget f < t.codeLen g := ht ▸ hcode
    have hone : t.underWay = [w] := by
      rw [State.underWay, htbundle, ← ht]
      show s.core.writes ++ [w] = [w]
      rw [hwrites]
      rfl
    obtain ⟨hseg', hpc, hcycle, -, -⟩ := State.endBundle_place htcode 3 htseg
    obtain ⟨hregs, -⟩ := State.endBundle_of_due htcode 3 hone
      (by rw [← hw, ← ht]; exact Nat.add_le_add_left (by decide) s.core.cycle)
    refine ⟨_, (exec_call hseg htarget).trans (congrArg (fun u => Host.Outcome.next (u.endBundle g (kTarget f) 3)) ht),
      (State.coreSeg_eq_some.1 hseg').2.2, hpc, hcycle.trans (ht ▸ rfl), fun r => ?_, fun hnone => ?_⟩
    · have hread := coreReadReg_setAt hregs (by rw [← ht, ← hw]; show 63 < s.core.regs.length; omega) r
      rw [← ht, ← hw] at hread
      rw [← ht]
      refine hread.trans (if_congr ⟨And.right, fun hr => ⟨?_, hr⟩⟩ rfl rfl)
      exact hr ▸ (by decide)
    · have htaken := State.takeBundle_of_results htbundle g
      have htway : ∀ c < 8, (t.takeBundle g).onWay c = [] := by
        rw [htaken, ← ht]
        exact hnone
      rw [State.endBundle_of_none_onWay htcode 3 htway, htaken, ← ht]
      rfl
  · exact ⟨_, exec_of_slot (i := .jr .k f) (f := fun s g => s.branchTo g ((s.g (kGa f)).toNat % 8192)) rfl hseg rfl,
      goesOn_endBundle hseg hcode 3⟩
  · refine ⟨_, exec_of_slot (i := .endw .k f) (f := fun s g => (s.takeBundle g).onCore fun c => { c with seg := none })
      rfl hseg rfl, rfl, (s.takeBundle_place g).2.1, fun hblank hwrites => ?_⟩
    rw [s.takeBundle_blank g hblank hwrites]
    rfl

end Sys2Proof.Machine
end

section
/-! PROOF. Stopping exceptions of the control core, and the control flow as a whole. -/

namespace Sys2Proof.Machine

open Sys2Proof

/-! The parts of a stop (R136) -/

/-- The core without a segment: nothing staged and no wait, outputs that were never issued perhaps still to be zeroed. -/
def Core.stopped (c : Core) (zeroing : Option (Nat × Bool)) : Core :=
  { c with seg := none, wait := none, bundle := Bundle.blank, zeroing := zeroing }

/-- The segment's code has ended, and what was never issued is zeroed unless items are left. -/
def State.stopEnded (s : State) (g : Nat) : State := (s.onCore fun c => c.stopped (some (g, false))).settleStop

/-- The counters and the mark of a stop. -/
def State.stopCounted (s : State) (g code : Nat) : State :=
  ((((s.stopEnded g).setReg (coreReg g 4) code).setReg (coreReg g 5)
    (s.stopEnded g).frame.number).bump (coreReg g 6)).flagFault g

/-- The CHECK record of a stop. -/
def State.stopRec (s : State) (g code : Nat) : FaultRec :=
  match s.segRec g with
  | some x => { s.mkRec clsCheck 4 0x6001 (s.segParty g) (code + 256 * g) with ctx := x.ctx }
  | none => s.mkRec clsCheck 4 0x6001 (s.segParty g) (code + 256 * g)

theorem State.coreStop_eq {s : State} {g code : Nat} (hseg : s.core.seg = some g) (hcode : code ≠ excWindowCut) :
    s.coreStop code = (s.stopCounted g code).faultOnce (0x10000000 + g * 16 + code) (s.stopCounted g code).frame.number 4096
      ((s.stopCounted g code).stopRec g code) := by
  unfold State.coreStop
  rw [hseg]
  simp only [decide_eq_false hcode, if_neg hcode]
  rfl

/-- The record names the control domain, whose history counts nothing. -/
theorem State.stopRec_of (s : State) (g code : Nat) : plainUnit (s.stopRec g code).unit ∧ recCounts (s.stopRec g code) = false ∧
    ((s.stopRec g code).cls, (s.stopRec g code).cause, (s.stopRec g code).unit, (s.stopRec g code).party,
      (s.stopRec g code).detail) = (clsCheck, 4, 0x6001, s.segParty g, code + 256 * g) := by
  have hplain : plainUnit 0x6001 := by
    unfold plainUnit
    decide
  unfold State.stopRec
  split <;> exact ⟨hplain, rfl, rfl⟩

/-- The end of the code touches outputs at most, and nothing while items are left. -/
theorem State.stopEnded_spec (s : State) (g : Nat) :
    touchesData (s.onCore fun c => c.stopped (if s.itemsDone then none else some (g, false))) (s.stopEnded g) ∧
      (s.itemsDone = false → s.stopEnded g = s.onCore fun c => c.stopped (some (g, false))) := by
  obtain ⟨u, hu⟩ : ∃ u, (s.onCore fun c => c.stopped (some (g, false))) = u := ⟨_, rfl⟩
  have hended : s.stopEnded g = if s.itemsDone then (u.zeroUnissued g false).onCore fun c =>
    { c with zeroing := none } else u :=
    hu ▸ rfl
  rw [hended]
  cases s.itemsDone with
  | false => exact ⟨by rw [← hu]; exact .rfl, fun _ => hu.symm⟩
  | true =>
    refine ⟨?_, fun h => absurd h (by decide)⟩
    have hdata := State.zeroUnissued_touches u g
    have hzeroed : touchesData (s.onCore fun c => c.stopped none)
      ((u.zeroUnissued g false).onCore fun c => { c with zeroing := none }) := by
      unfold touchesData at hdata ⊢
      rw [hdata, ← hu]
      rfl
    exact hzeroed

/-- What a stop leaves of the fields that the end of the code does not touch. -/
theorem State.stopCounted_kept (s : State) (g code : Nat) :
    (s.stopCounted g code).core = s.core.stopped (if s.itemsDone then none else some (g, false)) ∧
      (s.stopCounted g code).integ = s.integ ∧ (s.stopCounted g code).loader = s.loader ∧
      (s.stopCounted g code).frame.number = s.frame.number ∧
      (s.itemsDone = false → (s.stopCounted g code).walkers = s.walkers ∧ (s.stopCounted g code).pool = s.pool) := by
  obtain ⟨hdata, hleft⟩ := s.stopEnded_spec g
  unfold touchesData at hdata
  have hframe : (s.stopEnded g).frame = s.frame := (congrArg State.frame hdata).trans rfl
  refine ⟨?_, ?_, ?_, ?_, fun hitems => ?_⟩
  · exact (congrArg State.core hdata).trans rfl
  · exact (congrArg State.integ hdata).trans rfl
  · exact (congrArg State.loader hdata).trans rfl
  · show (s.stopEnded g).frame.number = _
    rw [hframe]
  · show (s.stopEnded g).walkers = _ ∧ (s.stopEnded g).pool = _
    rw [hleft hitems]
    exact ⟨rfl, rfl⟩

/-- The exception code, the frame and the count of a stop are shown, and its records of the frame carry FAULT. -/
theorem State.stopCounted_shown (s : State) (g code : Nat) :
    (s.stopCounted g code).reg (coreReg g 4) = code ∧ (s.stopCounted g code).reg (coreReg g 5) = s.frame.number ∧
      (s.stopCounted g code).reg (coreReg g 6) = (s.reg (coreReg g 6) + 1) % 2 ^ 32 ∧
      (s.stopCounted g code).frame.fault.testBit g = true := by
  obtain ⟨hdata, -⟩ := s.stopEnded_spec g
  have hframe : (s.stopEnded g).frame = s.frame := by
    unfold touchesData at hdata
    exact (congrArg State.frame hdata).trans rfl
  have hcount : (s.stopEnded g).reg (coreReg g 6) = s.reg (coreReg g 6) := hdata.reg _
  unfold State.stopCounted
  simp only [State.flagFault_reg]
  refine ⟨?_, ?_, ?_, testBit_setBit_self _ _⟩
  · rw [State.reg_bump_ne _ _ _ _ (coreReg_ne g (by decide)), State.reg_setReg_ne _ _ _ _ (coreReg_ne g (by decide)),
      State.reg_setReg_self]
  · rw [State.reg_bump_ne _ _ _ _ (coreReg_ne g (by decide)), State.reg_setReg_self, hframe]
  · rw [State.reg_bump_self, State.reg_setReg_ne _ _ _ _ (coreReg_ne g (by decide)),
      State.reg_setReg_ne _ _ _ _ (coreReg_ne g (by decide)), hcount]
    rfl

/-- A record that no history counts, raised once in a while: it is the newest of the log, or the log stays as it was. -/
theorem State.faultOnce_log (s : State) (key t gap : Nat) {r : FaultRec} (h : recCounts r = false) :
    (s.limited key t gap = false → (s.faultOnce key t gap r).integ.log.getLast? = some r) ∧
      (s.limited key t gap = true → (s.faultOnce key t gap r).integ = s.integ) := by
  unfold State.faultOnce
  refine ⟨fun hfree => ?_, fun hlimited => ?_⟩
  · rw [if_neg (by rw [hfree]; decide)]
    exact State.raise_log_of_uncounted _ h
  · rw [if_pos hlimited]

/-- What a stopping exception leaves of the core, the walkers and the pool, and what it shows, marks and raises. -/
theorem State.coreStop_spec {s : State} {g code : Nat} (hseg : s.core.seg = some g) (hcode : code ≠ excWindowCut) :
    (s.coreStop code).core = s.core.stopped (if s.itemsDone then none else some (g, false)) ∧
      (s.itemsDone = false → (s.coreStop code).walkers = s.walkers ∧ (s.coreStop code).pool = s.pool) ∧
      (s.coreStop code).reg (coreReg g 4) = code ∧ (s.coreStop code).reg (coreReg g 5) = s.frame.number ∧
      (s.coreStop code).reg (coreReg g 6) = (s.reg (coreReg g 6) + 1) % 2 ^ 32 ∧
      (s.coreStop code).frame.fault.testBit g = true ∧
      (s.limited (0x10000000 + g * 16 + code) s.frame.number 4096 = false →
        (s.coreStop code).integ.log.getLast?.map (fun r => (r.cls, r.cause, r.unit, r.party, r.detail)) =
          some (clsCheck, 4, 0x6001, s.segParty g, code + 256 * g)) ∧
      (s.limited (0x10000000 + g * 16 + code) s.frame.number 4096 = true → (s.coreStop code).integ = s.integ) := by
  obtain ⟨hcore, hinteg, hloader, hnumber, hleft⟩ := s.stopCounted_kept g code
  obtain ⟨hshown, hframe, hcount, hfault⟩ := s.stopCounted_shown g code
  rw [State.coreStop_eq hseg hcode]
  generalize s.stopCounted g code = u at *
  obtain ⟨hplain, huncounted, hsays⟩ := u.stopRec_of g code
  have hrecord := State.faultOnce_record u (0x10000000 + g * 16 + code) u.frame.number 4096 hplain
  have hreg {i : Nat} (hi : 2 < i) (hi' : i < 256) :=
    State.faultOnce_reg u (0x10000000 + g * 16 + code) u.frame.number 4096 hplain
      (coreReg_not_recordCounter (g := g) hi hi')
  obtain ⟨hnew, hold⟩ := u.faultOnce_log (0x10000000 + g * 16 + code) u.frame.number 4096 huncounted
  have hlimited : u.limited (0x10000000 + g * 16 + code) u.frame.number 4096 =
      s.limited (0x10000000 + g * 16 + code) s.frame.number 4096 := by
    unfold State.limited
    rw [hinteg, hnumber]
  have hparty : u.segParty g = s.segParty g := by
    unfold State.segParty State.segRec State.order
    rw [hloader]
  rw [hlimited] at hnew hold
  unfold touchesRecord at hrecord
  refine ⟨?_, fun hitems => ⟨?_, ?_⟩, (hreg (by decide) (by decide)).trans hshown, (hreg (by decide) (by decide)).trans hframe,
    (hreg (by decide) (by decide)).trans hcount, State.faultOnce_fault _ _ _ _ hplain hfault, fun hfree => ?_,
    fun hlim => (hold hlim).trans hinteg⟩
  · exact ((congrArg State.core hrecord).trans rfl).trans hcore
  · exact ((congrArg State.walkers hrecord).trans rfl).trans (hleft hitems).1
  · exact ((congrArg State.pool hrecord).trans rfl).trans (hleft hitems).2
  · rw [hnew hfree, Option.map_some, hsays, hparty]

theorem stoppingExceptionEndsSegmentPart_holds : stoppingExceptionEndsSegmentPart := by
  intro s g hseg
  refine ⟨fun code hcode t ht => ?_, fun sl op hop => ?_, fun x hx sl f ha hb => ?_, fun x hx sl f hreserved => ?_⟩
  · exact ht ▸ State.coreStop_spec (State.coreSeg_eq_some.1 hseg).2.2 hcode
  · refine exec_of_refused_slot (i := .illegalOp (.core sl) op) (ok := (slotOps sl).contains op) (f := fun s _ => s) rfl hseg ?_
    simpa using hop
  · have hform : inAB sl = false := by simp [inAB, ha, hb]
    rcases List.mem_append.1 hx with hx | hx
    · exact exec_of_refused_slot (exec_coreRegisterRow x hx sl f s) hseg (by rw [hform, Bool.false_and])
    · exact exec_of_refused_slot (exec_coreImmediateRow x hx sl f s) hseg hform
  · have hform : abReserved f = false := decide_eq_false hreserved
    exact exec_of_refused_slot (exec_coreRegisterRow x hx sl f s) hseg (by rw [hform, Bool.and_false])

/-- Settles O6: slot K takes the bundle in and goes on where its form says, and a stop ends the segment with its record. -/
theorem coreControlFlowComplete : Obligations.CoreControlFlowComplete :=
  ⟨coreBranchesPart_holds, coreCallReturnAndEndPart_holds, stoppingExceptionEndsSegmentPart_holds⟩

end Sys2Proof.Machine
end

section
/-! SUPPORT. What arrivals leave of registers and fences, and how a wait of the control core ends. -/

namespace Sys2Proof.Machine

open Sys2Proof

/-! Arrivals (R89, R126) -/

theorem State.putOut_poolRegistry (s : State) (c g : Nat) (d : List Byte) (e b j : Nat) (bs : List Byte) (v : Bool) :
    poolRegistry (s.putOut c g d e b j bs v) = poolRegistry s := by
  unfold State.putOut
  extract_lets a p t m old new
  split
  · have ht : poolRegistry t = poolRegistry s := State.writeCtx_poolRegistry _ _ _ _ _
    clear_value t
    exact (State.writeCtx_poolRegistry _ _ _ _ _).trans ht
  · rfl

theorem State.zeroTiles_poolRegistry (s : State) (c g : Nat) (d : List Byte) (lo hi : Nat) :
    poolRegistry (s.zeroTiles c g d lo hi) = poolRegistry s := by
  have htile (s : State) (e : Nat) (t : Tile) : poolRegistry (s.zeroTile c g d e t) = poolRegistry s :=
    foldl_view poolRegistry _ (fun s _ => foldl_view poolRegistry _ (fun s _ => State.putOut_poolRegistry s _ _ _ _ _ _ _ _)
      _ s) _ s
  have hcharge (t : State) (ls : List Nat) : poolRegistry (t.chargeOut g d ls true) = poolRegistry t := by
    unfold State.chargeOut
    split <;> rfl
  unfold State.zeroTiles
  split
  · rfl
  · split
    · rfl
    · exact (hcharge _ _).trans (foldl_view poolRegistry _ (fun s t => htile s _ t) _ s)

theorem State.issueRecord_pool (s : State) (c g n : Nat) : (s.issueRecord c g n).pool = s.pool := by
  obtain ⟨t, ht⟩ : ∃ t, (s.bumpFor (s.segParty g) (okey (0x3200 + c) 4)).raise (s.issueFault c g n) = t := ⟨_, rfl⟩
  have h := (State.bumpFor_touches s _ _ _).record.trans (ht ▸ State.raise_record_of_uncounted _ rfl)
  unfold touchesRecord at h
  rw [State.issueRecord_eq, ht]
  exact (congrArg State.pool h).trans rfl

theorem State.refuseIssue_poolRegistry (s : State) (c g n : Nat) (d : List Byte) :
    poolRegistry (s.refuseIssue c g n d) = poolRegistry s := by
  have hcount (t : State) : poolRegistry (t.descException g) = poolRegistry t := by
    rw [State.descException_eq]
    split <;> rfl
  have hrecord (t : State) : poolRegistry (t.issueRecord c g n) = poolRegistry t := by
    unfold poolRegistry
    rw [State.issueRecord_pool]
  rw [State.refuseIssue_eq, hcount, hrecord]
  unfold State.refusedOutputs
  split
  · rfl
  · split
    · split
      · split
        · rfl
        · exact State.zeroTiles_poolRegistry _ _ _ _ _ _
      · rfl
    · rfl

/-- The registers that a refused issue may change: the counters of records, of refused issues and of the segment's exceptions. -/
def arrivalCounter (k : Nat) : Prop := recordCounter k ∨ k % 256 = 4 ∨ k % 256 = 5 ∨ k % 256 = 7

theorem State.refuseIssue_reg (s : State) (c g n : Nat) (d : List Byte) {k : Nat} (hk : ¬ arrivalCounter k) :
    (s.refuseIssue c g n d).reg k = s.reg k := by
  simp only [arrivalCounter, not_or] at hk
  obtain ⟨hrecord, h4, h5, h7⟩ := hk
  have hne (i : Nat) (hi : i < 256) (h : k % 256 ≠ i) : coreReg g i ≠ k := by
    unfold coreReg okey
    omega
  rw [State.refuseIssue_eq, State.descException_reg]
  unfold State.descCounted
  rw [State.reg_setReg_ne _ _ _ _ (hne 5 (by decide) h5), State.reg_setReg_ne _ _ _ _ (hne 4 (by decide) h4),
    State.reg_bump_ne _ _ _ _ (hne 7 (by decide) h7), State.issueRecord_reg _ _ _ _ hrecord,
    State.reg_bumpFor_of_sub _ _ _ (by unfold okey; omega), (s.refusedOutputs_keeps c g d).2.reg]

/-- Arrivals leave fences and mirrors alone, and every register but those of refusals. -/
theorem State.arrive_kept (s : State) (all : Bool) :
    poolRegistry (s.arrive all) = poolRegistry s ∧ ∀ k, ¬ arrivalCounter k → (s.arrive all).reg k = s.reg k := by
  refine ⟨foldl_view poolRegistry _ (fun t x => ?_) _ s, fun k hk => foldl_view (fun s => s.reg k) _ (fun t x => ?_) _ s⟩
  · unfold State.arriveAt
    dsimp only
    split
    · rfl
    · exact State.refuseIssue_poolRegistry _ _ _ _ _
  · unfold State.arriveAt
    dsimp only
    split
    · rfl
    · exact State.refuseIssue_reg _ _ _ _ _ hk

/-! The end of a wait (R132, R133) -/

/-- The instant of a cycle lies in that cycle. -/
theorem State.cyclesTo_bundle (s : State) : s.cyclesTo (s.core.entry + s.core.cycle * 5 / 2) = s.core.cycle := by
  unfold State.cyclesTo
  omega

section EndWait
variable {s : State} {g : Nat} (h : s.core.pc + 1 < s.codeLen g) (t : Nat)
include h

/-- The end of a wait goes on at the next bundle in the cycle after. -/
theorem State.endWait_eq : s.endWait g t = (s.onCore fun c =>
    { c with wait := none, pc := s.core.pc + 1, cycle := max s.core.cycle (s.cyclesTo t) + 1 }).retire.arrive := by
  have hcycle : s.core.cycle + (max s.core.cycle (s.cyclesTo t) + 1 - s.core.cycle) = max s.core.cycle (s.cyclesTo t) + 1 := by
    omega
  unfold State.endWait
  rw [State.goto_of_within (s.onCore fun c => { c with wait := none }) h]
  simp only [State.onCore, hcycle]

theorem State.endWait_place : (s.endWait g t).core.wait = none ∧ (s.endWait g t).core.seg = s.core.seg ∧
    (s.endWait g t).core.pc = s.core.pc + 1 ∧ (s.endWait g t).core.cycle = max s.core.cycle (s.cyclesTo t) + 1 := by
  rw [State.endWait_eq h, State.arrive_core]
  exact ⟨rfl, rfl, rfl, rfl⟩

end EndWait

/-- A wait that ends in its bundle's own cycle is the end of the bundle. -/
theorem State.endWait_of_bundle {s : State} {g : Nat} (hseg : s.coreSeg = some g) :
    (s.takeBundle g).endWait g ((s.takeBundle g).core.entry + (s.takeBundle g).core.cycle * 5 / 2) =
      s.endBundle g (s.core.pc + 1) 1 := by
  obtain ⟨hplace, -, -⟩ := s.takeBundle_place g
  simp only [corePlace, Prod.mk.injEq] at hplace
  obtain ⟨-, hpc, -, -, hwait, -⟩ := hplace
  rw [(State.coreSeg_eq_some.1 hseg).2.1] at hwait
  have hnone : (s.takeBundle g).onCore (fun c => { c with wait := none }) = s.takeBundle g := by
    show ({ s.takeBundle g with core := { (s.takeBundle g).core with wait := none } } : State) = _
    rw [← hwait]
  unfold State.endWait State.endBundle
  rw [hnone, State.cyclesTo_bundle, Nat.max_self]
  dsimp only
  rw [Nat.add_sub_cancel_left, hpc]

/-- A fence wait's outcome is counted and traced before the wait ends. -/
def State.fenceCounted (s : State) (g code : Nat) : State :=
  (s.bump (part (outcomePart code) (coreReg g 9))).traceOut
    ⟨0x51, s.segParty g, false, false, code, unitDomain 1, ((s.segRec g).map (·.ctx)).getD 0, 0, 0, g, false⟩

theorem outcomeCounter_kept (i g : Nat) :
    ¬ answerCounter (part i (coreReg g 9)) ∧ ¬ arrivalCounter (part i (coreReg g 9)) := by
  unfold answerCounter arrivalCounter recordCounter part coreReg okey
  refine ⟨?_, by omega⟩
  rintro (⟨u, -, h | h⟩ | ⟨p, h | h⟩ | h | h) <;> omega

theorem State.fenceCounted_kept (s : State) (g code : Nat) :
    (s.fenceCounted g code).core = s.core ∧ (s.fenceCounted g code).loader = s.loader ∧
      (s.fenceCounted g code).pool.fences = s.pool.fences ∧
      (s.fenceCounted g code).reg (part (outcomePart code) (coreReg g 9)) =
        (s.reg (part (outcomePart code) (coreReg g 9)) + 1) % 2 ^ 32 := by
  unfold State.fenceCounted
  obtain ⟨u, hu⟩ : ∃ u, s.bump (part (outcomePart code) (coreReg g 9)) = u := ⟨_, rfl⟩
  have hcore : u.core = s.core := hu ▸ rfl
  have hloader : u.loader = s.loader := hu ▸ rfl
  have hfences : u.pool.fences = s.pool.fences := hu ▸ rfl
  rw [hu]
  generalize (⟨0x51, _, _, _, _, _, _, _, _, _, _⟩ : TraceRec) = r
  have htrace := u.traceOut_touches r
  unfold touchesTrace at htrace
  refine ⟨?_, ?_, ?_, ?_⟩
  · exact ((congrArg State.core htrace).trans rfl).trans hcore
  · exact ((congrArg State.loader htrace).trans rfl).trans hloader
  · exact (congrArg (·.1) (u.traceOut_poolRegistry r)).trans hfences
  · rw [State.traceOut_reg _ _ _ (outcomeCounter_kept _ g).1, ← hu, State.reg_bump_self]
    rfl

/-- The code and the result of a fence wait that has ended. -/
def State.fenceEnded (s : State) (g gb code t : Nat) : State :=
  (s.fenceCounted g code).onCore fun c => { c with
    writes := sortBy (·.due) (c.writes ++ [⟨max s.core.cycle (s.cyclesTo t) + 1, gb, BitVec.ofNat 32 code, .k⟩]) }

theorem State.endFenceWait_eq (s : State) (g gb code t : Nat) :
    s.endFenceWait g gb code t = (s.fenceEnded g gb code t).endWait g t := rfl

/-- The result of a fence wait is seen by the bundle after it. -/
theorem State.endFenceWait_spec {s : State} {g gb code : Nat} (h : s.core.pc + 1 < s.codeLen g) (hwrites : s.core.writes = [])
    (hgb : gb < s.core.regs.length) (t : Nat) :
    (s.endFenceWait g gb code t).core.wait = none ∧ (s.endFenceWait g gb code t).core.seg = s.core.seg ∧
      (s.endFenceWait g gb code t).core.pc = s.core.pc + 1 ∧
      (s.endFenceWait g gb code t).core.cycle = max s.core.cycle (s.cyclesTo t) + 1 ∧
      (∀ r, (s.endFenceWait g gb code t).g r = if r ≠ 0 ∧ r = gb then BitVec.ofNat 32 code else s.g r) ∧
      (s.endFenceWait g gb code t).reg (part (outcomePart code) (coreReg g 9)) =
        (s.reg (part (outcomePart code) (coreReg g 9)) + 1) % 2 ^ 32 ∧
      (s.endFenceWait g gb code t).pool.fences = s.pool.fences := by
  obtain ⟨hcore, hloader, hfences, hcount⟩ := s.fenceCounted_kept g code
  obtain ⟨u, hu⟩ : ∃ u, s.fenceEnded g gb code t = u := ⟨_, rfl⟩
  have hucore : u.core = { s.core with
      writes := [⟨max s.core.cycle (s.cyclesTo t) + 1, gb, BitVec.ofNat 32 code, .k⟩] } := by
    rw [← hu]
    show ({ (s.fenceCounted g code).core with writes := sortBy _ ((s.fenceCounted g code).core.writes ++ _) } : Core) = _
    rw [hcore, hwrites]
    rfl
  have hcode : u.core.pc + 1 < u.codeLen g := by
    rw [State.codeLen_of_loader (t := u) (s := s) (hu ▸ hloader), hucore]
    exact h
  have hcycles : u.cyclesTo t = s.cyclesTo t := by
    unfold State.cyclesTo
    rw [hucore]
  have hend := State.endWait_eq hcode t
  obtain ⟨hwait, hseg, hpc, hcycle⟩ := State.endWait_place hcode t
  rw [State.endFenceWait_eq, hu]
  rw [hcycles, hucore] at hcycle
  rw [hucore] at hseg hpc
  obtain ⟨v, hv⟩ : ∃ v, (u.onCore fun c =>
    { c with wait := none, pc := u.core.pc + 1, cycle := max u.core.cycle (u.cyclesTo t) + 1 }) = v := ⟨_, rfl⟩
  rw [hv] at hend
  have hvwrites : v.core.writes = [⟨max s.core.cycle (s.cyclesTo t) + 1, gb, BitVec.ofNat 32 code, .k⟩] := by
    rw [← hv]
    show u.core.writes = _
    rw [hucore]
  have hvregs : v.core.regs = s.core.regs := by
    rw [← hv]
    show u.core.regs = _
    rw [hucore]
  have hvcycle : v.core.cycle = max s.core.cycle (s.cyclesTo t) + 1 := by
    rw [← hv]
    show max u.core.cycle (u.cyclesTo t) + 1 = _
    rw [hcycles, hucore]
  have hregs : (u.endWait g t).core.regs = setAt s.core.regs gb (BitVec.ofNat 32 code) := by
    rw [hend, State.arrive_core, State.retire_of_due hvwrites (Nat.le_of_eq hvcycle.symm), hvregs]
  refine ⟨hwait, hseg, hpc, hcycle, coreReadReg_setAt hregs hgb, ?_, ?_⟩
  · rw [hend, (State.arrive_kept _ _).2 _ (outcomeCounter_kept _ g).2, ← hcount, ← hv, ← hu]
    rfl
  · rw [hend, ← hfences]
    refine (congrArg (·.1) (State.arrive_kept v.retire false).1).trans ?_
    rw [← hv, ← hu]
    rfl

end Sys2Proof.Machine
end

section
/-! PROOF. The waits of slot K and their ends. -/

namespace Sys2Proof.Machine

open Sys2Proof

/-! Waits that begin (R132, R133) -/

section Begin
variable {s : State} {g : Nat} {f : BitVec 32}

/-- The core's time does not move while a bundle is taken in. -/
theorem State.takeBundle_coreSince (s : State) (g : Nat) : (s.takeBundle g).coreSince = s.coreSince := by
  obtain ⟨hplace, -, -⟩ := s.takeBundle_place g
  simp only [corePlace, Prod.mk.injEq] at hplace
  obtain ⟨-, -, hcycle, hentry, -, -⟩ := hplace
  exact (s.takeBundle_code g).coreSince hcycle hentry

theorem exec_waitto (hseg : s.coreSeg = some g) : exec (.waitto .k f) s = .next
    (if s.waitLimit g (kImm f) ≤ s.coreSince then s.endBundle g (s.core.pc + 1) 1
      else (s.takeBundle g).onCore fun c => { c with wait := some (.to (s.waitLimit g (kImm f))) }) := by
  refine (exec_of_slot (i := .waitto .k f) (f := fun s g =>
    if s.waitLimit g (kImm f) ≤ (s.takeBundle g).coreSince then
      (s.takeBundle g).endWait g ((s.takeBundle g).core.entry + (s.takeBundle g).core.cycle * 5 / 2)
    else (s.takeBundle g).onCore fun c => { c with wait := some (.to (s.waitLimit g (kImm f))) }) rfl hseg rfl).trans ?_
  rw [State.takeBundle_coreSince, State.endWait_of_bundle hseg]

theorem exec_waitc (hseg : s.coreSeg = some g) : exec (.waitc .k f) s = .next
    (if s.outsideAllot g (kImm f % 256) then s.coreStop excAllot
      else if (s.takeBundle g).marksDone (kImm f % 256) (s.takeBundle g).issueMarks then s.endBundle g (s.core.pc + 1) 1
      else (s.takeBundle g).onCore fun c =>
        { c with wait := some (.clusters (kImm f % 256) (s.takeBundle g).issueMarks) }) := by
  refine (exec_of_slot (i := .waitc .k f) (f := fun s g =>
    if s.outsideAllot g (kImm f % 256) then s.coreStop excAllot
    else if (s.takeBundle g).marksDone (kImm f % 256) (s.takeBundle g).issueMarks then
      (s.takeBundle g).endWait g ((s.takeBundle g).core.entry + (s.takeBundle g).core.cycle * 5 / 2)
    else (s.takeBundle g).onCore fun c =>
      { c with wait := some (.clusters (kImm f % 256) (s.takeBundle g).issueMarks) }) rfl hseg rfl).trans ?_
  rw [State.endWait_of_bundle hseg]

/-- The reads of a segment's fences are charged and change nothing that the core or a fence shows. -/
theorem State.chargeSeg_kept (s : State) (g : Nat) :
    touchesPool s (s.chargeSeg g 1) ∧ (s.chargeSeg g 1).pool.fences = s.pool.fences ∧
      ∀ e v, (s.chargeSeg g 1).fenceCode g e v = s.fenceCode g e v := by
  unfold State.chargeSeg
  split
  · exact ⟨State.charge_touches _ _ _ _ _, rfl, fun _ _ => rfl⟩
  · exact ⟨.rfl, rfl, fun _ _ => rfl⟩

/-- The value that WAITF waits for. -/
def State.fenceGoal (s : State) (f : BitVec 32) : Nat := (s.g (kGa f)).toNat + 2 ^ 32 * (s.g (kGa f + 1)).toNat

/-- What WAITF does with what its first read found, in a bundle that holds nothing else. -/
def State.fenceWait (s : State) (g : Nat) (f : BitVec 32) : Option Nat → State
  | some code => (s.chargeSeg g 1).endFenceWait g (kGb f) code (s.core.entry + s.core.cycle * 5 / 2)
  | none =>
    if s.waitLimit g (kImm f) ≤ s.coreSince then
      (s.chargeSeg g 1).endFenceWait g (kGb f) stBusy (s.core.entry + s.core.cycle * 5 / 2)
    else (s.chargeSeg g 1).onCore fun c => { c with
      wait := some (.fence (kFence f) (s.fenceGoal f) (s.waitLimit g (kImm f)) (kGb f)
        (s.core.entry + s.core.cycle * 5 / 2 + 320) none) }

theorem exec_waitf (hseg : s.coreSeg = some g) (heven : kGa f % 2 = 0) (hblank : s.core.bundle = Bundle.blank)
    (hwrites : s.core.writes = []) :
    exec (.waitf .k f) s = .next (s.fenceWait g f (s.fenceCode g (kFence f) (s.fenceGoal f))) := by
  have hform : (decide (Slot.k = .k) && decide (kGa f % 2 = 0)) = true := by simp [heven]
  have hgoal : pairValue (s.g (kGa f)) (s.g (kGa f + 1)) = s.fenceGoal f := by
    unfold pairValue State.fenceGoal
    omega
  obtain ⟨hpool, -, hfence⟩ := s.chargeSeg_kept g
  have hcore : (s.chargeSeg g 1).core = s.core := by
    unfold touchesPool at hpool
    exact (congrArg State.core hpool).trans rfl
  have hsince : (s.chargeSeg g 1).coreSince = s.coreSince := by
    unfold touchesPool at hpool
    exact (congrArg State.coreSince hpool).trans rfl
  show execWaitf .k f s = _
  unfold execWaitf State.slot
  rw [hseg, hform]
  dsimp only
  rw [s.takeBundle_blank g hblank hwrites, hgoal, hfence, hcore, hsince]
  cases s.fenceCode g (kFence f) (s.fenceGoal f) <;> rfl

end Begin

theorem coreWaitsPart_holds : coreWaitsPart := by
  intro f s g hseg hnext
  have hgoesOn := goesOn_endBundle hseg hnext 1
  rw [exec_waitto hseg, exec_waitc hseg]
  refine ⟨fun hlimit => ⟨_, congrArg _ (if_pos hlimit), hgoesOn⟩, fun hearly => congrArg _ (if_neg (Nat.not_le.2 hearly)),
    fun hallot => ⟨fun hdone => ?_, fun hleft => ?_⟩, fun hallot => congrArg _ (if_pos hallot),
    fun heven hblank hwrites hlen => ⟨fun code hcode => ?_, fun hnone hearly => ?_⟩⟩
  · rw [hallot, hdone]
    exact ⟨_, rfl, hgoesOn⟩
  · rw [hallot, hleft]
    rfl
  · obtain ⟨hpool, hfences, -⟩ := s.chargeSeg_kept g
    have hexec : exec (.waitf .k f) s =
        .next ((s.chargeSeg g 1).endFenceWait g (kGb f) code (s.core.entry + s.core.cycle * 5 / 2)) := by
      rw [exec_waitf hseg heven hblank hwrites]
      rcases hcode with hsome | ⟨hnone, hlimit, rfl⟩
      · exact congrArg (fun x => Host.Outcome.next (s.fenceWait g f x)) hsome
      · exact (congrArg (fun x => Host.Outcome.next (s.fenceWait g f x)) hnone).trans (congrArg _ (if_pos hlimit))
    generalize s.chargeSeg g 1 = u at *
    unfold touchesPool at hpool
    have hcore : u.core = s.core := (congrArg State.core hpool).trans rfl
    have hloader : u.loader = s.loader := (congrArg State.loader hpool).trans rfl
    have hod (k : Nat) : u.reg k = s.reg k := (congrArg (State.reg · k) hpool).trans rfl
    have hcycles : u.cyclesTo (s.core.entry + s.core.cycle * 5 / 2) = s.core.cycle := by
      rw [← hcore]
      exact u.cyclesTo_bundle
    obtain ⟨hwait, hrun, hpc, hcycle, hread, hcount, hkept⟩ := State.endFenceWait_spec (s := u) (g := g) (gb := kGb f)
      (code := code) (by rwa [State.codeLen_of_loader hloader, hcore]) (by rw [hcore, hwrites])
      (by rw [hcore, hlen]; exact BitVec.isLt _) (s.core.entry + s.core.cycle * 5 / 2)
    rw [hcycles, hcore, Nat.max_self] at hcycle
    rw [hcore] at hrun hpc
    rw [hod] at hcount
    refine ⟨_, hexec, hrun.trans (State.coreSeg_eq_some.1 hseg).2.2, hpc, hwait, hcycle, fun r => ?_, hcount,
      hkept.trans hfences⟩
    rw [hread r]
    exact if_congr Iff.rfl rfl (coreReadReg_of_regs (congrArg Core.regs hcore) r)
  · refine ⟨_, (exec_waitf hseg heven hblank hwrites).trans (congrArg (fun x => Host.Outcome.next (s.fenceWait g f x)) hnone),
      ?_⟩
    obtain ⟨hpool, -, -⟩ := s.chargeSeg_kept g
    unfold touchesPool at hpool
    have hcore : (s.chargeSeg g 1).core = s.core := (congrArg State.core hpool).trans rfl
    unfold State.fenceWait
    rw [if_neg (Nat.not_le.2 hearly)]
    show ({ (s.chargeSeg g 1).core with wait := _ } : Core) = _
    rw [hcore]
    rfl

/-! Waits in progress (R132, R133) -/

section Ends
variable {s u : State} {g : Nat} (hu : s.arrive = u) (hseg : u.core.seg = some g) (hactive : u.active = true)
include hu hseg hactive

theorem exec_waitEnd_to {lim : Nat} (hwait : u.core.wait = some (.to lim)) :
    exec .waitEnd s = .next (if lim ≤ u.coreSince then u.endWait g u.coreTime else u) := by
  show execWaitEnd s = _
  unfold execWaitEnd
  rw [hu]
  dsimp only
  rw [hseg, hwait]
  simp [hactive]

theorem exec_waitEnd_clusters {m : Nat} {marks : List Nat} (hwait : u.core.wait = some (.clusters m marks)) :
    exec .waitEnd s = .next (if u.marksDone m marks then u.endWait g u.coreTime else u) := by
  show execWaitEnd s = _
  unfold execWaitEnd
  rw [hu]
  dsimp only
  rw [hseg, hwait]
  simp [hactive]

/-- A fence wait ends with the code of a read, or BUSY at its limit. -/
theorem exec_waitEnd_fence {f v lim gb next code : Nat} {seen : Option Nat}
    (hwait : u.core.wait = some (.fence f v lim gb next seen))
    (hcode : seen = some code ∨ (seen = none ∧ lim ≤ u.coreSince ∧ code = stBusy)) :
    exec .waitEnd s = .next (u.endFenceWait g gb code u.coreTime) := by
  show execWaitEnd s = _
  unfold execWaitEnd
  rw [hu]
  dsimp only
  rw [hseg, hwait]
  rcases hcode with rfl | ⟨rfl, hlimit, rfl⟩
  · simp [hactive]
  · simp [hactive, hlimit]

theorem exec_waitEnd_unseen {f v lim gb next : Nat} (hwait : u.core.wait = some (.fence f v lim gb next none))
    (hearly : u.coreSince < lim) : exec .waitEnd s = .next u := by
  show execWaitEnd s = _
  unfold execWaitEnd
  rw [hu]
  dsimp only
  rw [hseg, hwait]
  simp [hactive, hearly]

end Ends

theorem coreWaitEndsPart_holds : coreWaitEndsPart := by
  intro s u g hu hactive hseg hnext
  have hcode : touchesCode s u := hu ▸ s.arrive_code false
  have hcore : u.core = { s.core with descExc := u.core.descExc } := hu ▸ s.arrive_core false
  have huactive : u.active = true := hcode.active.trans hactive
  have huseg : u.core.seg = some g := by rw [hcore]; exact hseg
  have hpc : u.core.pc = s.core.pc := by rw [hcore]
  have hunext : u.core.pc + 1 < u.codeLen g := by
    rw [State.codeLen_of_loader hcode.loader, hpc]
    exact hnext
  have hwaits : u.core.wait = s.core.wait := by rw [hcore]
  have hcycle : u.core.cycle = s.core.cycle := by rw [hcore]
  have hentry : u.core.entry = s.core.entry := by rw [hcore]
  have hsince : u.coreSince = s.coreSince := hcode.coreSince hcycle hentry
  have htime : u.coreTime = s.coreTime := by
    unfold State.coreTime State.now
    rw [hcode.husk, hcycle, hentry]
  have hends : ∃ t, Host.Outcome.next (u.endWait g u.coreTime) = (.next t : Out) ∧ t.core.wait = none ∧ t.core.seg = some g ∧
      t.core.pc = s.core.pc + 1 ∧ t.core.cycle = max s.core.cycle (s.cyclesTo s.coreTime) + 1 := by
    obtain ⟨hwait, hrun, htpc, htcycle⟩ := State.endWait_place hunext u.coreTime
    have hcycles : u.cyclesTo u.coreTime = s.cyclesTo s.coreTime := by
      unfold State.cyclesTo
      rw [htime, hentry]
    exact ⟨_, rfl, hwait, hrun.trans huseg, htpc.trans (by rw [hpc]), htcycle.trans (by rw [hcycles, hcycle])⟩
  refine ⟨fun hnone => hu.trans (s.arrive_none false hnone), fun lim hwait => ?_, fun m marks hwait => ?_,
    fun f v lim gb next seen hwait hgb hwrites hlen => ⟨fun code hseen => ?_, fun hunseen hearly => ?_⟩⟩
  · rw [exec_waitEnd_to hu.symm huseg huactive (hwaits.trans hwait), hsince]
    refine ⟨fun hlimit => ?_, fun hearly => ?_⟩
    · rw [if_pos hlimit]
      exact hends
    · rw [if_neg (Nat.not_le.2 hearly)]
  · rw [exec_waitEnd_clusters hu.symm huseg huactive (hwaits.trans hwait)]
    have hdone : u.marksDone m marks = true ↔ ∀ c ∈ maskClusters m, marks.getD c 0 ≤ (u.walker c).finished := by
      unfold State.marksDone
      simp
    refine ⟨fun hfinished => ?_, fun ⟨c, hc, hleft⟩ => ?_⟩
    · rw [if_pos (hdone.2 hfinished)]
      exact hends
    · rw [if_neg fun h => Nat.not_le.2 hleft (hdone.1 h c hc)]
  · obtain ⟨hnone, hrun, htpc, -, hread, hcount, -⟩ := State.endFenceWait_spec (gb := gb) (code := code) hunext
      (by rw [hcore]; exact hwrites) (by rw [hcore, hlen]; exact hgb) u.coreTime
    refine ⟨_, exec_waitEnd_fence hu.symm huseg huactive (hwaits.trans hwait) (by rwa [hsince]), hnone, hrun.trans huseg,
      htpc.trans (by rw [hpc]), fun r => (hread r).trans ?_, hcount.trans ?_⟩
    · exact if_congr Iff.rfl rfl (coreReadReg_of_regs (by rw [hcore]) r)
    · rw [hu, (s.arrive_kept false).2 _ (outcomeCounter_kept _ g).2]
  · subst hunseen
    exact exec_waitEnd_unseen hu.symm huseg huactive (hwaits.trans hwait) (by rwa [hsince])

/-- Settles O7: a wait ends at once, or at the end of the wait that finds its condition, and the next bundle follows. -/
theorem coreWaitsCompleteAndEnd : Obligations.CoreWaitsCompleteAndEnd := ⟨coreWaitsPart_holds, coreWaitEndsPart_holds⟩

end Sys2Proof.Machine
end
